-- ==== Sys2Proof/Word.lean ====
section
/-! DEFINITION. The word types of the HS-4720 and their plainest arithmetic. -/

namespace Sys2Proof

/-- A 64-bit general register, handle or address operand (R153). -/
abbrev Word := BitVec 64

/-- A lane vector: 16 lane words of 32 bits, lane word i at bits [32i+31:32i] (R13). -/
abbrev Vec := BitVec 512

/-- A lane mask: bit i belongs to lane word i (R13). -/
abbrev Mask := BitVec 16

/-- One byte. -/
abbrev Byte := BitVec 8

/-- The bits [hi:lo] of a number, as a number (R2). -/
def bits (w hi lo : Nat) : Nat := w / 2 ^ lo % 2 ^ (hi + 1 - lo)

/-- Bit `i` of a number. -/
def bit (w i : Nat) : Bool := w / 2 ^ i % 2 == 1

/-- A Boolean as a number. -/
def b2n (b : Bool) : Nat := if b then 1 else 0

end Sys2Proof
end

