-- ==== Sys2Proof/Config.lean ====
section
/-! DEFINITION. What an implementation fixes, and the free values: constants with no body, so that a claim which
holds of them holds whatever they are. Each is named in a log entry. -/

namespace Sys2Proof.Config

/-- Microseconds by which the reference timer advances when the fc clock ticks for the n-th time (log 7). -/
opaque timerAdvance : Nat → Nat

/-- The remap entry through which a bank finds a word (R369; log 119). -/
opaque remapEntry : Nat → Nat

/-- What a bank makes of a word with three or more inverted bits (R365; log 8): 0 passes undetected, 1 detected,
n + 2 taken for a single-bit error at stored position n. -/
opaque eccMany : Nat → Nat

/-- The module's number in its load-store domain (Table 5.3; log 9). -/
opaque moduleNumber : BitVec 12

/-- Which free conversation slot a CVOPEN takes, per draw (R113; log 5). -/
opaque convSlot : Nat → Nat

/-- Modules under this module's first Kredan switch level (Table 4.3; log 9). -/
opaque sameSwitch : Nat → Bool

/-- Modules of this module's load-store domain (Table 4.3; log 9). -/
opaque sameDomain : Nat → Bool

/-- Which lanes a retraining of a Kredan link or a lane test leaves failing, per draw (log 10). -/
opaque lanes : Nat → BitVec 16

/-- The value of a byte whose content the manual leaves open, per draw (log 11). -/
opaque freeByte : Nat → Byte

end Sys2Proof.Config
end

