-- ==== Sys2Proof/Machine/Csr.lean ====
section
/-! DEFINITION. The control-register map: which numbers exist, their reset values and the access code of each bit
(R181, Table 7.4 and the register tables of spec/16, 17, 18, 20 and 22). -/

namespace Sys2Proof.Csr

open Sys2Proof

/-- The number names a register of the map (R135, Table 7.4). -/
def defined (n : Nat) : Bool :=
  n ≤ 0x0005 || n = 0x0008 || (0x0010 ≤ n && n ≤ 0x0013) || (0x0020 ≤ n && n ≤ 0x002F) ||
  (0x0040 ≤ n && n ≤ 0x007F) || (0x0100 ≤ n && n ≤ 0x0103) || (0x0110 ≤ n && n ≤ 0x0190) ||
  (0x0200 ≤ n && n ≤ 0x0203) || (0x0300 ≤ n && n ≤ 0x038A) || (0x0390 ≤ n && n ≤ 0x039B) ||
  (0x0400 ≤ n && n ≤ 0x0403)

/-- TVEC to TIEN belong to each control core (R359). -/
def isCore (n : Nat) : Bool := n ≤ 0x0005

/-- All fields of the register are RO, so that CSRWR traps ILLEGAL (R181): CURCB and FEAT. -/
def allRO (n : Nat) : Bool := n = 0x0103 || n = 0x0400

/-- The die that a register belongs to, for the registers of one die. -/
def dieOf (n : Nat) : Option Nat :=
  if 0x0010 ≤ n ∧ n ≤ 0x0013 then some (n - 0x0010)
  else if 0x0020 ≤ n ∧ n ≤ 0x002F then some ((n - 0x0020) / 4)
  else if 0x0040 ≤ n ∧ n ≤ 0x007F then some ((n - 0x0040) / 16)
  else if 0x0110 ≤ n ∧ n ≤ 0x018F then some ((n - 0x0110) / 32)
  else if 0x0300 ≤ n ∧ n ≤ 0x037F then some ((n - 0x0300) / 32)
  else if 0x0380 ≤ n ∧ n ≤ 0x0387 then some (n % 4)
  else if 0x0390 ≤ n ∧ n ≤ 0x039B then some ((n - 0x0390) / 3)
  else none

/-- Fields written once (RWL): CTXBASE, SGTBASE and PARTCFG. -/
def lockMask (n : Nat) : Word :=
  if n = 0x0200 ∨ n = 0x0201 then 0x000FFFFFFFFFF000#64 else if n = 0x0203 then 0x3FF#64 else 0#64

/-- The reset value of a register kept per partition or per module. -/
def reset (n : Nat) : Word :=
  if n = 0x0100 then BitVec.ofNat 64 (2 * 65536 + 50)
  else if n = 0x0101 then 64#64
  else if n = 0x0102 then 2600#64
  else if 0x0110 ≤ n ∧ n ≤ 0x0190 then 0x70#64
  else if n = 0x038A then BitVec.ofNat 64 (1000 * 65536 + 2 * 256 + 3)
  else if n = 0x0400 then BitVec.ofNat 64 (1 * 2 ^ 27 + 1 * 2 ^ 19 + 650)
  else if n = 0x0401 then BitVec.ofNat 64 (2400 * 2 ^ 32 + 64 * 256)
  else 0#64

/-- Bits that a CSRWR writes with gd's value (RW). -/
def rwMask (n : Nat) : Word :=
  if n = 0x0000 then 0x01FFFFFFFFFFFFFD#64
  else if n = 0x0001 then 0x01FFFFFFFFFFFFFF#64
  else if n = 0x0002 then 0x0000FFC0FFFFFFFF#64
  else if n = 0x0003 then 0xFFFFFFFFFFFFFFFF#64
  else if n = 0x0004 then 0#64
  else if n = 0x0005 then 0xF#64
  else if n = 0x0008 ∨ n = 0x0202 then 0x01FFFFFFFFFFFFE1#64
  else if 0x0020 ≤ n ∧ n ≤ 0x002F then 0xFFFFFFFFFFFFFFFF#64
  else if 0x0040 ≤ n ∧ n ≤ 0x007F then 0xFFF3#64
  else if n = 0x0100 ∨ n = 0x0102 then 0xFFFFFFFF#64
  else if n = 0x0101 then 0x7FF#64
  else if 0x0110 ≤ n ∧ n ≤ 0x0190 then 0x01FFFFFFFFFFF0F1#64
  else if n = 0x0389 then 0x00007FFFF0000001#64
  else if n = 0x038A then 0xFFFF0F0F#64
  else if n = 0x0401 then 0x0000FFFF00000000#64
  else if n = 0x0402 ∨ n = 0x0403 then 0x000FFFFFFFFFFFFF#64
  else 0#64

/-- Bits that a written 1 clears (W1C). -/
def w1cMask (n : Nat) : Word :=
  if n = 0x0004 then 0xF#64
  else if 0x0010 ≤ n ∧ n ≤ 0x0013 then 0x0000800000000001#64
  else if 0x0300 ≤ n ∧ n ≤ 0x037F then 0xFFFFFFFFFFFFFFFF#64
  else if 0x0380 ≤ n ∧ n ≤ 0x0387 then 0x3000000000000000#64
  else 0#64

/-- A field [hi:lo] of a register. -/
def fld (v : Word) (hi lo : Nat) : Nat := bits v.toNat hi lo

/-- Replaces the field [hi:lo] of a register. -/
def setFld (v : Word) (hi lo x : Nat) : Word :=
  let m := 2 ^ (hi + 1 - lo)
  BitVec.ofNat 64 (v.toNat / 2 ^ (hi + 1) * 2 ^ (hi + 1) + x % m * 2 ^ lo + v.toNat % 2 ^ lo)

/-- What RW and W1C leave of `old` when `v` is written, before the entries' own corrections. -/
def written (n : Nat) (old v : Word) : Word :=
  let rw := rwMask n
  ((old &&& ~~~rw) ||| (v &&& rw)) &&& ~~~(v &&& w1cMask n)

/-- The corrections that register entries state: values written as others, and COUNT cleared with VALID. -/
def correct (n : Nat) (v : Word) (written1 : Word) : Word :=
  if n = 0x0101 then
    (if fld v 10 0 = 0 then setFld v 10 0 1 else if 1024 < fld v 10 0 then setFld v 10 0 1024 else v)
  else if n = 0x0100 then
    let a := if fld v 15 0 = 0 then setFld v 15 0 1 else v
    if fld a 31 16 = 0 then setFld a 31 16 1 else a
  else if 0x0110 ≤ n ∧ n ≤ 0x0190 then (if fld v 7 4 < 7 then setFld v 7 4 7 else v)
  else if 0x0010 ≤ n ∧ n ≤ 0x0013 then (if bit written1.toNat 0 then setFld v 63 48 0 else v)
  else if 0x0380 ≤ n ∧ n ≤ 0x0387 then (if bit written1.toNat 60 then setFld v 55 40 0 else v)
  else if n = 0x038A then
    let a := if fld v 31 16 = 0 then setFld v 31 16 1 else v
    if fld a 11 8 = 0 then setFld a 11 8 1 else if 8 < fld a 11 8 then setFld a 11 8 8 else a
  else if n = 0x0401 then
    (if 2400 < fld v 47 32 then setFld v 47 32 2400 else if fld v 47 32 < 100 then setFld v 47 32 100 else v)
  else v

end Sys2Proof.Csr
end

