-- ==== Sys2Proof/Syntax.lean ====
section
/-! DEFINITION. The instruction set as data: one constructor for each row of spec/opcode_table.json.
`s…` are sequencer words (spec/06, spec/07), `n…` are node words (spec/06, spec/08 to spec/11), `e…` are the steps of the
machine's other agents (spec/95). Nothing here says what an instruction does. -/

namespace Sys2Proof

/-- A node word (Table 6.8) without its OPC field, which is the constructor. -/
structure NodeBody where
  /-- [119:116] FMT. -/
  fmt : BitVec 4
  /-- [115:112] MOD. -/
  mod : BitVec 4
  /-- [111:108] IN: L, R, P, IMM from bit 3 down. -/
  inp : BitVec 4
  /-- [107:104] FIRE: SL, SR, GATE, QS from bit 3 down. -/
  fire : BitVec 4
  /-- [103:96] SEQ/CHAIN. -/
  seq : BitVec 8
  /-- [95:64] OPERAND. -/
  operand : BitVec 32
  /-- [63:32] DEST0, Table 6.9. -/
  dest0 : BitVec 32
  /-- [31:0] DEST1, Table 6.9. -/
  dest1 : BitVec 32
  deriving DecidableEq, Repr

/-- What another module or the host asks of memory (R107, R378): a load, a store, an atomic of Table 6.6 by its code, or, from
another module, a LOCK or UNLOCK (R102). -/
inductive BusOp where
  | load | store | amo (op : BitVec 4) | lock | unlock
  deriving DecidableEq, Repr

/-- The instructions and events of the HS-4720. -/
inductive Instr where
  /-- R153. Adds two general registers modulo 2^64 into gd. -/
  | sAdd (d : BitVec 5) (a : BitVec 5) (b : BitVec 5)
  /-- R153. Subtracts gb from ga modulo 2^64 into gd. -/
  | sSub (d : BitVec 5) (a : BitVec 5) (b : BitVec 5)
  /-- R153. Multiplies two registers modulo 2^64. -/
  | sMul (d : BitVec 5) (a : BitVec 5) (b : BitVec 5)
  /-- R153. Writes the high 64 bits of the signed 128-bit product. -/
  | sMulh (d : BitVec 5) (a : BitVec 5) (b : BitVec 5)
  /-- R153. Writes the high 64 bits of the unsigned 128-bit product. -/
  | sMulhn (d : BitVec 5) (a : BitVec 5) (b : BitVec 5)
  /-- R153. Signed division truncated toward zero, with defined results for zero and overflow. -/
  | sDiv (d : BitVec 5) (a : BitVec 5) (b : BitVec 5)
  /-- R153. Unsigned division; division by zero gives all ones. -/
  | sDivn (d : BitVec 5) (a : BitVec 5) (b : BitVec 5)
  /-- R153. Signed remainder with the sign of the dividend. -/
  | sRem (d : BitVec 5) (a : BitVec 5) (b : BitVec 5)
  /-- R153. Unsigned remainder. -/
  | sRemn (d : BitVec 5) (a : BitVec 5) (b : BitVec 5)
  /-- R153. Bitwise AND of two registers. -/
  | sAnd (d : BitVec 5) (a : BitVec 5) (b : BitVec 5)
  /-- R153. Bitwise OR of two registers. -/
  | sOr (d : BitVec 5) (a : BitVec 5) (b : BitVec 5)
  /-- R153. Bitwise XOR of two registers. -/
  | sXor (d : BitVec 5) (a : BitVec 5) (b : BitVec 5)
  /-- R153. Writes ga AND NOT gb. -/
  | sAndn (d : BitVec 5) (a : BitVec 5) (b : BitVec 5)
  /-- R153. Shifts ga left by gb[5:0]. -/
  | sShl (d : BitVec 5) (a : BitVec 5) (b : BitVec 5)
  /-- R153. Shifts ga right with zeros by gb[5:0]. -/
  | sShr (d : BitVec 5) (a : BitVec 5) (b : BitVec 5)
  /-- R153. Shifts ga right arithmetically by gb[5:0]. -/
  | sSar (d : BitVec 5) (a : BitVec 5) (b : BitVec 5)
  /-- R153. Signed minimum of two registers. -/
  | sMin (d : BitVec 5) (a : BitVec 5) (b : BitVec 5)
  /-- R153. Signed maximum of two registers. -/
  | sMax (d : BitVec 5) (a : BitVec 5) (b : BitVec 5)
  /-- R153. Unsigned minimum of two registers. -/
  | sMinn (d : BitVec 5) (a : BitVec 5) (b : BitVec 5)
  /-- R153. Unsigned maximum of two registers. -/
  | sMaxn (d : BitVec 5) (a : BitVec 5) (b : BitVec 5)
  /-- R153. Selects ga or gb by predicate pc. -/
  | sSel (d : BitVec 5) (a : BitVec 5) (b : BitVec 5) (c : BitVec 3)
  /-- R153. Counts leading zero bits of ga. -/
  | sClz (d : BitVec 5) (a : BitVec 5)
  /-- R153. Counts one bits of ga. -/
  | sPopc (d : BitVec 5) (a : BitVec 5)
  /-- R154. Compares two registers under a condition code into a predicate. -/
  | sCmp (p : BitVec 3) (a : BitVec 5) (b : BitVec 5) (c : BitVec 3)
  /-- R155. Adds a sign-extended 16-bit immediate to ga. -/
  | sAddi (d : BitVec 5) (a : BitVec 5) (i : BitVec 16)
  /-- R155. ANDs ga with a zero-extended 16-bit immediate. -/
  | sAndi (d : BitVec 5) (a : BitVec 5) (i : BitVec 16)
  /-- R155. ORs ga with a zero-extended 16-bit immediate. -/
  | sOri (d : BitVec 5) (a : BitVec 5) (i : BitVec 16)
  /-- R155. XORs ga with a zero-extended 16-bit immediate. -/
  | sXori (d : BitVec 5) (a : BitVec 5) (i : BitVec 16)
  /-- R155. Shifts ga left by an immediate count. -/
  | sShli (d : BitVec 5) (a : BitVec 5) (s : BitVec 6)
  /-- R155. Shifts ga right with zeros by an immediate count. -/
  | sShri (d : BitVec 5) (a : BitVec 5) (s : BitVec 6)
  /-- R155. Shifts ga right arithmetically by an immediate count. -/
  | sSari (d : BitVec 5) (a : BitVec 5) (s : BitVec 6)
  /-- R155. Loads a sign-extended 16-bit immediate into gd. -/
  | sLdi (d : BitVec 5) (i : BitVec 16)
  /-- R155. Writes a 16-bit immediate into halfword h of gd, keeping the rest. -/
  | sLdhi (d : BitVec 5) (h : BitVec 2) (i : BitVec 16)
  /-- R155. Compares ga with an immediate under cc 0 to 3 into a predicate. -/
  | sCmpiCcLow (c : BitVec 2) (p : BitVec 3) (a : BitVec 5) (i : BitVec 16)
  /-- R155. Compares ga with an immediate under cc 4 to 7 into a predicate. -/
  | sCmpiCcHigh (c : BitVec 2) (p : BitVec 3) (a : BitVec 5) (i : BitVec 16)
  /-- R155. X form of LDI with a 32-bit sign-extended immediate. -/
  | sLdiX (d : BitVec 5) (i : BitVec 32)
  /-- R155. X form of ADDI with a 32-bit sign-extended immediate. -/
  | sAddiX (d : BitVec 5) (a : BitVec 5) (i : BitVec 32)
  /-- R155. X form of ANDI with a 32-bit zero-extended immediate. -/
  | sAndiX (d : BitVec 5) (a : BitVec 5) (i : BitVec 32)
  /-- R155. X form of ORI with a 32-bit zero-extended immediate. -/
  | sOriX (d : BitVec 5) (a : BitVec 5) (i : BitVec 32)
  /-- R155. X form of XORI with a 32-bit zero-extended immediate. -/
  | sXoriX (d : BitVec 5) (a : BitVec 5) (i : BitVec 32)
  /-- R155. X form of CMPI with a 32-bit sign-extended immediate. -/
  | sCmpiX (p : BitVec 3) (c : BitVec 3) (a : BitVec 5) (i : BitVec 32)
  /-- R156. Plain load of b, h, w or d bytes, sign-extended into gd. -/
  | sLd (d : BitVec 5) (a : BitVec 5) (s : BitVec 2) (o : BitVec 14)
  /-- R156. Plain load of b, h or w bytes, zero-extended into gd. -/
  | sLdN (d : BitVec 5) (a : BitVec 5) (s : BitVec 2) (o : BitVec 14)
  /-- R156. Plain store of the low bytes of gd. -/
  | sSt (d : BitVec 5) (a : BitVec 5) (s : BitVec 2) (o : BitVec 14)
  /-- R157. Acquire load at a scope. -/
  | sLdacq (d : BitVec 5) (a : BitVec 5) (z : BitVec 2) (c : BitVec 4)
  /-- R157. Release store at a scope. -/
  | sStrel (d : BitVec 5) (a : BitVec 5) (z : BitVec 2) (c : BitVec 4)
  /-- R158. Indivisible read-modify-write at the home node, acquire and release at its scope. -/
  | sAmo (d : BitVec 5) (a : BitVec 5) (b : BitVec 5) (o : BitVec 4) (z : BitVec 1) (c : BitVec 4)
  /-- R159. Scoped fence that stalls until earlier accesses are performed at the scope. -/
  | sFence (c : BitVec 4)
  /-- R160. Branches when predicate p equals sense. -/
  | sBr (p : BitVec 3) (s : BitVec 1) (o : BitVec 22)
  /-- R160. Jumps to a PC-relative target. -/
  | sJmp (o : BitVec 26)
  /-- R160. Jumps to the address in ga. -/
  | sJmpi (a : BitVec 5)
  /-- R160. Writes the return address to g31 and jumps. -/
  | sCall (o : BitVec 26)
  /-- R162. Enqueues a record and ends, popping it at once when it is the highest eligible. -/
  | sCont (a : BitVec 5)
  /-- R162. Validates a record and queues it, or leaves it waiting in memory when JOIN > 0. -/
  | sEnq (a : BitVec 5)
  /-- R163. Atomically raises a waiting record's join counter. -/
  | sJoin (a : BitVec 5) (b : BitVec 5)
  /-- R164. Arms a record's join counter on completion of the plane's latest ITER. -/
  | sArmIter (a : BitVec 5) (k : BitVec 2)
  /-- R164. Arms a record on a timeline counter reaching n. -/
  | sArmTl (a : BitVec 5) (b : BitVec 5)
  /-- R164. Arms a record on a watched word differing from a value. -/
  | sArmWatch (a : BitVec 5) (b : BitVec 5)
  /-- R164. Arms a record to count one conversation delivery for a role at its queue endpoint. -/
  | sArmConv (a : BitVec 5) (b : BitVec 5) (r : BitVec 3)
  /-- R165. Writes the address of the running record into gd. -/
  | sSelf (d : BitVec 5)
  /-- R167. Checks and loads a configuration image into a plane of the region. -/
  | sCfgld (k : BitVec 2) (a : BitVec 5)
  /-- R167. X form of CFGLD addressing the image by base plus 32-bit offset. -/
  | sCfgldX (k : BitVec 2) (a : BitVec 5) (i : BitVec 32)
  /-- R168. Activates a loaded plane so its nodes fire and its source draws. -/
  | sCfgact (k : BitVec 2)
  /-- R169. Starts an iteration space on a plane. -/
  | sIter (k : BitVec 2) (a : BitVec 5) (b : BitVec 5) (n : BitVec 5)
  /-- R170. Switches a preloaded successor configuration in behind a predecessor by wavefront. -/
  | sSplice (k : BitVec 2) (p : BitVec 2)
  /-- R168. Stops a plane's iteration source and lets live frames retire. -/
  | sDrain (k : BitVec 2)
  /-- R168. Sets a plane's firing priority, capped at the block's effective priority. -/
  | sPrio (k : BitVec 2) (l : BitVec 3)
  /-- R171. Sends a DATA token from a register to a sticky port of a node in every element. -/
  | sTokin (k : BitVec 2) (a : BitVec 5) (n : BitVec 5) (p : BitVec 2)
  /-- R172. Removes the oldest vector from the region token queue and stores it. -/
  | sTokget (d : BitVec 5) (a : BitVec 5) (k : BitVec 2)
  /-- R173. Writes a tensor identifier entry after the checks of R70. -/
  | sTidset (a : BitVec 5) (i : BitVec 8)
  /-- R173. Stores a tensor identifier entry to memory. -/
  | sTidget (a : BitVec 5) (i : BitVec 8)
  /-- R174. Reads an engine context's timeline counter. -/
  | sTlread (d : BitVec 5) (a : BitVec 5)
  /-- R175. Checks a copy command block and issues it to a copy-engine context, returning its number. -/
  | sCopys (d : BitVec 5) (a : BitVec 5)
  /-- R176. Opens a conversation on the issuing die with a protocol image. -/
  | sCvopen (d : BitVec 5) (a : BitVec 5) (s : BitVec 4)
  /-- R177. Binds a role of a conversation to an endpoint. -/
  | sCvbind (a : BitVec 5) (b : BitVec 5) (r : BitVec 3)
  /-- R178. Submits a continuation send as a role and stalls until acknowledged or refused. -/
  | sCvsend (d : BitVec 5) (a : BitVec 5) (b : BitVec 5) (r : BitVec 3) (k : BitVec 5)
  /-- R178. Submits a continuation branch choice as a role. -/
  | sCvsendChoose (d : BitVec 5) (a : BitVec 5) (b : BitVec 5) (r : BitVec 3) (k : BitVec 5)
  /-- R177. Hands a role to a new endpoint. -/
  | sCvdeleg (a : BitVec 5) (b : BitVec 5) (r : BitVec 3)
  /-- R179. Marks a conversation closing and returns its final state and flags. -/
  | sCvclose (d : BitVec 5) (a : BitVec 5)
  /-- R181. Reads a control register. -/
  | sCsrrd (d : BitVec 5) (i : BitVec 16)
  /-- R181. Writes a control register by each field's access code. -/
  | sCsrwr (d : BitVec 5) (i : BitVec 16)
  /-- R182. Traps precisely with cause SERVICE and a service number. -/
  | sSvc (n : BitVec 7)
  /-- R183. Invalidates translations of a page, a context or all contexts in the partition. -/
  | sTlbinv (a : BitVec 5) (b : BitVec 5)
  /-- R184. Loads an AES-XTS key pair into a key slot. -/
  | sKeyld (a : BitVec 5) (b : BitVec 5)
  /-- R185. Starts an asynchronous save of a block's plane. -/
  | sSwapout (a : BitVec 5)
  /-- R185. Starts an asynchronous restore of a block's plane. -/
  | sSwapin (a : BitVec 5)
  /-- R186. Resumes a parked frame or trapped record named by its fault record. -/
  | sParkres (a : BitVec 5)
  /-- R186. Kills a parked frame or ends a trapped record or report. -/
  | sParkkill (a : BitVec 5)
  /-- R192, OPC 0x00. Node: element-wise integer addition modulo 2^b. -/
  | nIadd (n : NodeBody)
  /-- R192, OPC 0x01. Node: element-wise integer subtraction. -/
  | nIsub (n : NodeBody)
  /-- R192, OPC 0x02. Node: element-wise integer multiplication. -/
  | nImul (n : NodeBody)
  /-- R192, OPC 0x03. Node: high half of the element-wise product. -/
  | nImulh (n : NodeBody)
  /-- R192, OPC 0x04. Node: multiply-add with a plane register, optionally written back. -/
  | nImad (n : NodeBody)
  /-- R192, OPC 0x05. Node: element-wise absolute value. -/
  | nIabs (n : NodeBody)
  /-- R192, OPC 0x06. Node: element-wise negation. -/
  | nIneg (n : NodeBody)
  /-- R192, OPC 0x07. Node: element-wise minimum. -/
  | nImin (n : NodeBody)
  /-- R192, OPC 0x08. Node: element-wise maximum. -/
  | nImax (n : NodeBody)
  /-- R192, OPC 0x09. Node: element-wise AND. -/
  | nAnd (n : NodeBody)
  /-- R192, OPC 0x0A. Node: element-wise OR. -/
  | nOr (n : NodeBody)
  /-- R192, OPC 0x0B. Node: element-wise XOR. -/
  | nXor (n : NodeBody)
  /-- R192, OPC 0x0C. Node: element-wise NOT. -/
  | nNot (n : NodeBody)
  /-- R192, OPC 0x0D. Node: element-wise left shift. -/
  | nShl (n : NodeBody)
  /-- R192, OPC 0x0E. Node: element-wise logical right shift. -/
  | nShr (n : NodeBody)
  /-- R192, OPC 0x0F. Node: element-wise arithmetic right shift. -/
  | nSar (n : NodeBody)
  /-- R192, OPC 0x10. Node: element-wise left rotate. -/
  | nRot (n : NodeBody)
  /-- R192, OPC 0x11. Node: element-wise population count. -/
  | nPopc (n : NodeBody)
  /-- R192, OPC 0x12. Node: element-wise leading-zero count. -/
  | nClz (n : NodeBody)
  /-- R192, OPC 0x13. Node: bit-field extract. -/
  | nBfx (n : NodeBody)
  /-- R192, OPC 0x14. Node: bit-field insert. -/
  | nBfi (n : NodeBody)
  /-- R192, OPC 0x15. Node: saturating addition raising OF on clamp. -/
  | nSadd (n : NodeBody)
  /-- R192, OPC 0x16. Node: saturating subtraction raising OF on clamp. -/
  | nSsub (n : NodeBody)
  /-- R193, OPC 0x20. Node: correctly rounded floating addition. -/
  | nFadd (n : NodeBody)
  /-- R193, OPC 0x21. Node: correctly rounded floating subtraction. -/
  | nFsub (n : NodeBody)
  /-- R193, OPC 0x22. Node: correctly rounded floating multiplication. -/
  | nFmul (n : NodeBody)
  /-- R193, OPC 0x23. Node: fused multiply-add with a plane register, one rounding. -/
  | nFfma (n : NodeBody)
  /-- R194, OPC 0x24. Node: floating minimum. -/
  | nFmin (n : NodeBody)
  /-- R194, OPC 0x25. Node: floating maximum. -/
  | nFmax (n : NodeBody)
  /-- R194, OPC 0x26. Node: magnitude of L with the sign of R. -/
  | nFsgn (n : NodeBody)
  /-- R195, OPC 0x27. Node: reciprocal within one ulp. -/
  | nFrcp (n : NodeBody)
  /-- R195, OPC 0x28. Node: reciprocal square root within one ulp. -/
  | nFrsq (n : NodeBody)
  /-- R193, OPC 0x29. Node: correctly rounded square root. -/
  | nFsqrt (n : NodeBody)
  /-- R193, OPC 0x2A. Node: correctly rounded division. -/
  | nFdiv (n : NodeBody)
  /-- R195, OPC 0x2B. Node: power of two within one ulp. -/
  | nFexp2 (n : NodeBody)
  /-- R195, OPC 0x2C. Node: base-2 logarithm within one ulp. -/
  | nFlog2 (n : NodeBody)
  /-- R196, OPC 0x40. Node: compares elements into a predicate token. -/
  | nCmp (n : NodeBody)
  /-- R197, OPC 0x41. Node: selects elements of L or R by the bits of P. -/
  | nSel (n : NodeBody)
  /-- R198, OPC 0x42. Node: predicate AND. -/
  | nMand (n : NodeBody)
  /-- R198, OPC 0x43. Node: predicate OR. -/
  | nMor (n : NodeBody)
  /-- R198, OPC 0x44. Node: predicate NOT. -/
  | nMnot (n : NodeBody)
  /-- R198, OPC 0x45. Node: true in every lane when any live lane is nonzero. -/
  | nAny (n : NodeBody)
  /-- R198, OPC 0x46. Node: true in every lane when every live lane is nonzero. -/
  | nAll (n : NodeBody)
  /-- R202, OPC 0x47. Node: permutes lanes by R's indices. -/
  | nLperm (n : NodeBody)
  /-- R202, OPC 0x48. Node: broadcasts lane k to every lane. -/
  | nLbcast (n : NodeBody)
  /-- R202, OPC 0x49. Node: rotates lanes. -/
  | nLrot (n : NodeBody)
  /-- R203, OPC 0x4A. Node: reduces live lanes by a fixed pairwise tree. -/
  | nLred (n : NodeBody)
  /-- R203, OPC 0x4B. Node: sequential inclusive scan across lanes. -/
  | nLscan (n : NodeBody)
  /-- R199, OPC 0x50. Node: converts elements between types. -/
  | nCvt (n : NodeBody)
  /-- R200, OPC 0x51. Node: packs 16 unpacked narrow elements into part k. -/
  | nPack (n : NodeBody)
  /-- R200, OPC 0x52. Node: unpacks part k into one element per lane word. -/
  | nUnpack (n : NodeBody)
  /-- R201, OPC 0x53. Node: table lookup in element data, direct or interpolated. -/
  | nLut (n : NodeBody)
  /-- R258, OPC 0x54. Node: running block maximum, sent at the block's last position. -/
  | nBmax (n : NodeBody)
  /-- R258, OPC 0x55. Node: passes tokens once the whole block is present. -/
  | nDelay (n : NodeBody)
  /-- R258, OPC 0x56. Node: one butterfly stage over a block. -/
  | nBfly (n : NodeBody)
  /-- R259, OPC 0x57. Node: quantises a block to block-scaled elements and its scale. -/
  | nQnt (n : NodeBody)
  /-- R259, OPC 0x58. Node: decodes block-scaled elements with their scale. -/
  | nDqnt (n : NodeBody)
  /-- R204, OPC 0x60. Node: routes true and false lanes to two destinations. -/
  | nSteer (n : NodeBody)
  /-- R205, OPC 0x61. Node: rejoins steered lanes by predicate. -/
  | nMerge (n : NodeBody)
  /-- R204, OPC 0x62. Node: passes true lanes to every destination. -/
  | nGate (n : NodeBody)
  /-- R206, OPC 0x63. Node: duplicates L to its destinations. -/
  | nCopy (n : NodeBody)
  /-- R206, OPC 0x64. Node: sends a constant with L's mask. -/
  | nConst (n : NodeBody)
  /-- R207, OPC 0x65. Node: fires on a TRIG token and sends the frame's index. -/
  | nEntry (n : NodeBody)
  /-- R208, OPC 0x66. Node: ends the frame's part in the copy. -/
  | nExit (n : NodeBody)
  /-- R209, OPC 0x67. Node: draws a successor frame, sends into it and ends its part. -/
  | nLoop (n : NodeBody)
  /-- R206, OPC 0x68. Node: consumes L and sends nothing. -/
  | nSink (n : NodeBody)
  /-- R210, OPC 0x69. Node: draws a colour of a re-entrant subgraph and sends it arguments. -/
  | nSpawn (n : NodeBody)
  /-- R210, OPC 0x6A. Node: sends the result to the caller and ends the colour. -/
  | nReturn (n : NodeBody)
  /-- R211, OPC 0x6B. Node: appends a vector to the region token queue and forwards it. -/
  | nTsend (n : NodeBody)
  /-- R241, OPC 0x70. Node: starts a one-site shift of a plane register. -/
  | nPshift (n : NodeBody)
  /-- R242, OPC 0x71. Node: rotates the rename offset of a z ring. -/
  | nPzrot (n : NodeBody)
  /-- R243, OPC 0x72. Node: reads a plane register into a token. -/
  | nPld (n : NodeBody)
  /-- R243, OPC 0x73. Node: writes a token into a plane register. -/
  | nPst (n : NodeBody)
  /-- R246, OPC 0x74. Node: sets the quiet bit by comparing a register with its snapshot. -/
  | nPquiet (n : NodeBody)
  /-- R244, OPC 0x75. Node: updates sites through a rule table. -/
  | nRule (n : NodeBody)
  /-- R218, OPC 0x80. Node: sends a load request for its elements. -/
  | nLd (n : NodeBody)
  /-- R218, OPC 0x81. Node: sends a store request and multicasts R's token. -/
  | nSt (n : NodeBody)
  /-- R218, OPC 0x82. Node: loads a 64-byte lane vector. -/
  | nLdv (n : NodeBody)
  /-- R218, OPC 0x83. Node: stores a lane vector. -/
  | nStv (n : NodeBody)
  /-- R219, OPC 0x84. Node: loads from element data in the firing's fc. -/
  | nLdl (n : NodeBody)
  /-- R219, OPC 0x85. Node: stores to element data in the firing's fc. -/
  | nStl (n : NodeBody)
  /-- R220, OPC 0x86. Node: prefetch request that affects no visible state. -/
  | nPref (n : NodeBody)
  /-- R220, OPC 0x87. Node: releases its sequence number without access. -/
  | nOrdt (n : NodeBody)
  /-- R221, OPC 0x88. Node: sends a watch on a scratchpad word and sleeps until it matches. -/
  | nWaitw (n : NodeBody)
  /-- R255, OPC 0x89. Node: loads a tile segment through an identifier. -/
  | nLdt (n : NodeBody)
  /-- R255, OPC 0x8A. Node: stores a tile segment through an identifier. -/
  | nStt (n : NodeBody)
  /-- R225, OPC 0x90. Node: sends reduction contributions into its tree. -/
  | nRed (n : NodeBody)
  /-- R224, OPC 0x91. Node: joins a lock token's FIFO and acquires on grant. -/
  | nLock (n : NodeBody)
  /-- R224, OPC 0x92. Node: releases and returns a lock token. -/
  | nUnlock (n : NodeBody)
  /-- R223, OPC 0x93. Node: compare-and-swap pairs at home nodes. -/
  | nCas (n : NodeBody)
  /-- R223, OPC 0x94. Node: atomic exchange at home nodes. -/
  | nXchg (n : NodeBody)
  /-- R222, OPC 0x95. Node: scoped fence that sends L when complete. -/
  | nFence (n : NodeBody)
  /-- R228, OPC 0x96. Node: enters the barrier across the frame's copies. -/
  | nBar (n : NodeBody)
  /-- R229, OPC 0x97. Node: sleeps until a timeline counter reaches n. -/
  | nTlw (n : NodeBody)
  /-- R229, OPC 0x98. Node: reads a timeline counter. -/
  | nTlr (n : NodeBody)
  /-- R230, OPC 0xA0. Node: issues a copy command block to a bound copy-engine context. -/
  | nCopyEngine (n : NodeBody)
  /-- R231, OPC 0xA1. Node: posts a network work request. -/
  | nNetw (n : NodeBody)
  /-- R251, OPC 0xA2. Node: issues a load of a tile into the array's shadow plane. -/
  | nMxls (n : NodeBody)
  /-- R251, OPC 0xA3. Node: issues a swap of the active and shadow planes. -/
  | nMxsw (n : NodeBody)
  /-- R252, OPC 0xA4. Node: streams one segment of a row of A into the array. -/
  | nMxst (n : NodeBody)
  /-- R253, OPC 0xA5. Node: issues a read-out of an accumulator row segment. -/
  | nMxacc (n : NodeBody)
  /-- R254, OPC 0xA6. Node: issues an inference request through the active tile. -/
  | nMxq (n : NodeBody)
  /-- R271, OPC 0xB0. Node: queues a ray to the runnel. -/
  | nRayinj (n : NodeBody)
  /-- R271, OPC 0xB1. Node: receives a ray's hit record. -/
  | nRayrcv (n : NodeBody)
  /-- R272, OPC 0xB2. Node: atomic minimum of 64-bit keys. -/
  | nVbuf (n : NodeBody)
  /-- R276, OPC 0xB3. Node: hash-grid fetch of one level through the sampler. -/
  | nHgf (n : NodeBody)
  /-- R277, OPC 0xB4. Node: scatters gradients into a hash-grid shadow via a reduction tree. -/
  | nHgs (n : NodeBody)
  /-- R278, OPC 0xB5. Node: texture fetch, nearest or bilinear. -/
  | nTex (n : NodeBody)
  /-- R281, OPC 0xB6. Node: ends a frame's part in a draw-atomic configuration. -/
  | nDrawend (n : NodeBody)
  /-- R232, OPC 0xC0. Node: submits a conversation send through a role register. -/
  | nCvsend (n : NodeBody)
  /-- R233, OPC 0xC1. Node: takes a delivered message vector for a frame. -/
  | nCvrecv (n : NodeBody)
  /-- R232, OPC 0xC2. Node: submits a branch choice through a role register. -/
  | nCvchoose (n : NodeBody)
  /-- R232, OPC 0xC3. Node: submits a delegation of its role to a new endpoint. -/
  | nCvdeleg (n : NodeBody)
  /-- R234, OPC 0xD0. Node: reads the frame's or the region's sticky flags. -/
  | nFlags (n : NodeBody)
  /-- R235, OPC 0xD1. Node: parks the frame with USER_TRAP when its predicate holds. -/
  | nTrapn (n : NodeBody)
  /-- R24. A token lands at an element, slot, edge port or matching store after its hops. -/
  | eTokenArrival (i : Nat)
  /-- R37. Spilled tokens return from memory to the overflow buffer in FIFO order. -/
  | eOverflowReturn (plane x y : Nat)
  /-- R34. The iteration source draws a frame and sends its TRIG tokens. -/
  | eIterDraw (plane : Nat)
  /-- R19. A frame whose parts have ended and accesses performed retires and frees its groups. -/
  | eFrameRetire (plane frame : Nat)
  /-- R34. An ITER completes when its last frame retires and its reductions are applied. -/
  | eIterComplete (plane : Nat)
  /-- R35. After a predecessor's last token leaves, an element sends WAVE markers on its routes. -/
  | eWaveSend (plane x y : Nat)
  /-- R35. An element switches to the successor configuration once WAVE has arrived on every route. -/
  | eElementSwitch (plane x y : Nat)
  /-- R215. A memory port accepts an AREQ token into its request queue. -/
  | eMemoryRequestAccept (r : Nat)
  /-- R93. A port issues a request in chain order and its elements are performed at their home nodes. -/
  | eMemoryAccessPerform (r : Nat)
  /-- R108. No response within MEMTO faults the access with MEM_TIMEOUT. -/
  | eMemTimeoutExpiry (r : Nat)
  /-- R99. A waiting WAITW is admitted to its bank's watch list and compared. -/
  | eWatchAdmission (r : Nat)
  /-- R227. A first tree node accepts a contribution after the root's checks. -/
  | eReductionAccept (c : Nat)
  /-- R226. A RED.ord window closes, sums in key order and forwards one partial. -/
  | eRedWindowClose (w : Nat)
  /-- R101. The sole writer stores a summed value at the home node. -/
  | eReductionApply (c : Nat)
  /-- R230. An engine context accepts and numbers a queued command when it has room. -/
  | eEngineCommandAccept (c : Nat)
  /-- R96. A command's payload is performed or it ends in error, and the timeline advances. -/
  | eEngineCommandComplete (c : Nat)
  /-- R117. The conversation engine checks a send and advances the state or refuses it. -/
  | eSendCheck (q : Nat)
  /-- R124. The engine applies or refuses a delegation in its order of checks. -/
  | eDelegationCheck (q : Nat)
  /-- R121. A waiting delivery is written to its ring slot when the consumer word allows. -/
  | eRingDelivery (d : Nat)
  /-- R249. An array accepts a row when its last segment arrives. -/
  | eMatrixRowAccept (r : Nat)
  /-- R249. An accepted row's C segments leave or are accumulated. -/
  | eMatrixRowComplete (r : Nat)
  /-- R249. An array accepts and orders an MXLS, MXSW, MXACC or MXQ command. -/
  | eArrayCommandAccept (c : Nat)
  /-- R251. A tile load into the shadow plane completes and the plane holds a valid tile. -/
  | eMxlsComplete (c : Nat)
  /-- R249. A swap takes effect after earlier loads complete. -/
  | eMxswApply (c : Nat)
  /-- R240. Edge lanes of a shift arrive on a shift link. -/
  | eShiftLaneArrival (i : Nat)
  /-- R240. An element completes a shift once every source lane is present. -/
  | eShiftComplete (plane x y node frame : Nat)
  /-- R271. The runnel accepts a queued ray. -/
  | eRayAccept (r : Nat)
  /-- R260. A node-injection port reads a BVH node and injects it to waiting rays. -/
  | eNodeInjection (r : Nat)
  /-- R266. A box-test element tests a node's children for a ray. -/
  | eBoxTest (r : Nat)
  /-- R267. A triangle-test element tests one triangle for a ray. -/
  | eTriangleTest (r : Nat)
  /-- R268. A ray ends and its hit record returns. -/
  | eRayComplete (r : Nat)
  /-- R276. The sampler returns fetched features or texels. -/
  | eSamplerResult (r : Nat)
  /-- R312. An idle sequencer takes the next record by level and deficit round robin. -/
  | eDispatch (unit : Nat)
  /-- R313. A sequencer idle for STEALT takes a record from another die. -/
  | eSteal (unit : Nat)
  /-- R315. The scheduler binds an eligible record's virtual plane, choosing victims if needed. -/
  | ePlaneBind (ctx cbix vp : Nat)
  /-- R318. Dispatch stops and a victim plane starts to drain. -/
  | eSwapOutStart (plane : Nat)
  /-- R318. After the drain the plane state is saved and the plane freed. -/
  | eSwapOutSave (plane : Nat)
  /-- R319. A saved plane is bound, restored and its sleepers registered again. -/
  | eSwapIn (ctx cbix vp : Nat)
  /-- R379. A launch slot is checked and its record enqueued into the root queue. -/
  | eHostLaunch (win : Nat)
  /-- R366. A 256-byte beat leaves down the standpipe with parity. -/
  | eStandpipeBeat (pipe : Nat)
  /-- R370. A standpipe retrains on its interval or its drift monitor. -/
  | eStandpipeRetrain (pipe : Nat)
  /-- R160. Jumps to g31. -/
  | sRet
  /-- R162. Waits for the record's accesses to be performed and ends the record. -/
  | sDone
  /-- R182. Returns a control core from its own trap handler. -/
  | sEret
  /-- R182. Waits for the record's accesses, ends it and stops the unit. -/
  | sHalt
  /-- R182. Puts a control core to sleep until its pending-interrupt register is nonzero. -/
  | sIdle
  /-- R245. A selected quiet-skippable node in a quiet neighbourhood skips and resends its held result. -/
  | eQuietSkip
  /-- R19. 128 fc after retirement a held identifier may be issued again. -/
  | eIdentifierHoldExpiry
  /-- R108. A remote home discards a kept response after 2·MEMTO. -/
  | eKeptResponseExpiry
  /-- R327. A TLB miss walks the page tables, setting A and D bits or faulting. -/
  | ePageWalk (tlb ctx : Nat) (va : BitVec 64) (wr fe priv : Bool)
  /-- R228. After the last arrival every copy's BAR sends as an acquire. -/
  | eBarrierExit
  /-- R125. A closing conversation with every slot released is freed. -/
  | eConversationFree
  /-- R280. A draw's allowance expires and its context is reset. -/
  | eDrawWatchdog
  /-- R315. Each µs a waiting record's binding is considered again. -/
  | ePlaneBindRecheck (ctx cbix vp : Nat)
  /-- R358. An idle control core wakes when TPEND becomes nonzero. -/
  | eIdleWake
  /-- R182. The management interface restarts a halted unit. -/
  | eUnitRestart (unit : Nat)
  /-- R379. A doorbell write with bit 31 clear launches a slot. -/
  | eDoorbellLaunch (win : Nat) (v : BitVec 32)
  /-- R379. A doorbell write with bit 31 set raises TPEND.DOORBELL. -/
  | eDoorbellNotify (win : Nat) (v : BitVec 32)
  /-- R381. An incoming WRITE or SEND is placed and its counter incremented. -/
  | eNeIncomingWrite (part ctx : Nat) (addr : BitVec 64) (bytes : List (BitVec 8)) (rcnt : BitVec 16)
  /-- R381. An incoming READ is served by plain reads. -/
  | eNeIncomingRead (part ctx : Nat) (addr : BitVec 64) (len : Nat)
  /-- R380. An unacknowledged packet is retransmitted, up to 16 times. -/
  | eNeRetransmit (c : Nat)
  /-- R366. The receiving end checks a beat's parity two fc after it leaves. -/
  | eBeatParityCheck
  /-- R367. A failed beat is resent from the bank's output buffer. -/
  | eBeatRetry
  /-- R367. The standpipe tests the lanes of the failing groups. -/
  | eLaneTest
  /-- R367. Failing lanes are mapped to spares and the beat resent. -/
  | eLaneSwap
  /-- R370. RTDEF expires and retraining is forced, abandoning the beat in flight. -/
  | eRetrainForced
  /-- R370. Standpipe retraining ends and deferred beats resume. -/
  | eRetrainComplete
  /-- R373. A Kredan lane fails and the link steps down or goes down. -/
  | eLaneFail (port lane : Nat)
  /-- R373. A link's step pause ends and replay resends its flits. -/
  | eLinkResume (port : Nat)
  /-- R382. A supply droop stretches the arithmetic clock. -/
  | eDroopStretch
  /-- R382. The supply recovers and the stretch ends. -/
  | eDroopRecover
  /-- R382. The 1 ms power average moves the clock one 1/64 step. -/
  | ePowerCapStep (watts : BitVec 16)
  /-- R383. Reset brings the module up in early service. -/
  | eModuleReset
  /-- R384. Management raises the module to full service and sets FEAT.FULL. -/
  | eFullService
  /-- R375. A write of CINJ with GO inverts one stored cistern bit. -/
  | eCinjGo (v : BitVec 64)
  /-- R375. A write of LINJ sets or clears a standpipe lane inversion. -/
  | eLinjWrite (v : BitVec 64)
  /-- R373. A write of RETRAIN retrains a link toward 16 lanes. -/
  | eKlstatRetrain (port : Nat) (trained : BitVec 16)
  /-- R369. Clearing a CBDOWN bit returns a bank to service. -/
  | eCbdownClear (die arr : Nat) (v : BitVec 64)
  /-- R337. A PARTCFG write divides the module into partitions and locks, or traps. -/
  | ePartcfgWrite (v : BitVec 64)
  /-- R382. A read of PWRSTAT returns and clears the stretch count. -/
  | ePwrstatRead (d : BitVec 5)
  /-- R181. A write to a control register without behaviour of its own. -/
  | eRegisterWrite (num : BitVec 16) (v : BitVec 64)
  /-- R107. A load, store or atomic from another module arrives over Kredan and is performed at its home node here, with its response kept for 2·MEMTO. -/
  | eRemoteAccessArrival (src id : Nat) (op : BusOp) (pa : Nat) (size : Nat) (data cmp : BitVec 64)
  /-- R378. A PCI Express request from the host, such as a store or AtomicOp, is performed in module memory as an access by the host agent. -/
  | eHostRequest (op : BusOp) (pa : Nat) (size : Nat) (data cmp : BitVec 64)
  /-- R328. The reset of a partition invalidates both TLB levels and the caches of non-leaf entries of that partition. -/
  | ePartitionReset (part : Nat)
  /-- R373. A flit error on a Kredan link causes a link-level replay, which is counted against its lane. -/
  | eLinkReplay (port lane : Nat)
  /-- R121. A failed ring or consumer-word access is retried within 100 µs. -/
  | eDeliveryRetry
  deriving DecidableEq, Repr

end Sys2Proof
end

