-- ==== Sys2Proof/Machine/NodeCheck.lean ====
section
/-! DEFINITION. The checks on one node word that CFGLD makes from the word alone (R141 to R146, R190, R214, R238, R270
and the limits of each entry): subcauses 0x05 to 0x0A of Table 6.12. -/

namespace Sys2Proof.NodeCheck

open Sys2Proof

/-- The FMT codes an opcode accepts (Table 6.11), as a 16-bit set; 0 for an unassigned opcode. -/
def fmtSet (opc : Nat) : Nat :=
  if opc ≤ 0x16 then 0x00FF
  else if opc < 0x20 then 0
  else if opc ≤ 0x2A then 0x0F00
  else if opc ≤ 0x2C then 0x0700
  else if opc < 0x40 then 0
  else if opc = 0x40 then 0x0FFF
  else if opc = 0x41 then 0xFFFF
  else if opc ≤ 0x46 then 0x0001
  else if opc ≤ 0x4B then 0x0CCC
  else if opc < 0x50 then 0
  else if opc = 0x50 then 0xFFFF
  else if opc ≤ 0x52 then 0xF333
  else if opc = 0x53 then 0x0FFF
  else if opc = 0x54 then 0x0400
  else if opc = 0x55 then 0xFFFF
  else if opc ≤ 0x57 then 0x0400
  else if opc = 0x58 then 0x0700
  else if opc < 0x60 then 0
  else if opc ≤ 0x64 then 0xFFFF
  else if opc = 0x65 then 0x00CC
  else if opc = 0x66 then 0x0001
  else if opc ≤ 0x6B then 0xFFFF
  else if opc < 0x70 then 0
  else if opc = 0x70 ∨ opc = 0x72 ∨ opc = 0x73 then 0x0444
  else if opc = 0x71 ∨ opc = 0x74 then 0x0001
  else if opc = 0x75 then 0x0040
  else if opc < 0x80 then 0
  else if opc ≤ 0x81 then 0x3FFF
  else if opc ≤ 0x83 then 0xFFFF
  else if opc ≤ 0x85 then 0x0FFF
  else if opc ≤ 0x87 then 0x0001
  else if opc = 0x88 then 0x0040
  else if opc ≤ 0x8A then 0x0001
  else if opc < 0x90 then 0
  else if opc = 0x90 then 0x0CCC
  else if opc ≤ 0x92 then 0x0001
  else if opc ≤ 0x94 then 0x00CC
  else if opc ≤ 0x97 then 0x0001
  else if opc = 0x98 then 0x0080
  else if opc < 0xA0 then 0
  else if opc ≤ 0xA6 then 0x0001
  else if opc < 0xB0 then 0
  else if opc ≤ 0xB1 then 0x0001
  else if opc = 0xB2 then 0x0080
  else if opc ≤ 0xB4 then 0x0400
  else if opc = 0xB5 then 0x0700
  else if opc = 0xB6 then 0x0001
  else if opc < 0xC0 then 0
  else if opc ≤ 0xC3 then 0x0001
  else if opc = 0xD0 then 0x0040
  else if opc = 0xD1 then 0x0001
  else 0

/-- Element width of an FMT code (Table 3.1). -/
def width (fmt : Nat) : Nat :=
  match fmt with
  | 0 | 4 | 12 | 13 => 8
  | 1 | 5 | 8 | 9 => 16
  | 2 | 6 | 10 => 32
  | 3 | 7 | 11 => 64
  | 14 => 4
  | _ => 2

/-- Opcodes that take a rounding mode in MOD[114:112] (Table 6.10). -/
def rounds (opc fmt : Nat) : Bool :=
  opc ∈ [0x20, 0x21, 0x22, 0x23, 0x27, 0x28, 0x29, 0x2A, 0x2B, 0x2C, 0x53, 0x57, 0x58, 0xB5] ||
  ((opc == 0x4A || opc == 0x4B) && 8 ≤ fmt)

/-- Opcodes whose MOD is a scope code (Table 6.10). -/
def takesScope (opc : Nat) : Bool :=
  opc ∈ [0x88, 0x90, 0x91, 0x92, 0x93, 0x94, 0x95, 0x96, 0xB2, 0xC0, 0xC2, 0xC3]

/-- Chained memory opcodes (R143). -/
def chained (opc : Nat) : Bool :=
  opc ∈ [0x80, 0x81, 0x82, 0x83, 0x86, 0x87, 0x88, 0x89, 0x8A, 0x90, 0x91, 0x92, 0x93, 0x94, 0x95]

/-- MOD is allowed for the opcode (Table 6.10, R55, R58, R74). -/
def modOk (opc fmt mod operand : Nat) : Bool :=
  if rounds opc fmt then mod ≤ 4
  else if opc = 0x50 then
    (if fmt < 8 ∧ operand % 16 < 8 then mod % 8 = 0 else mod % 8 ≤ 4) && !(fmt = 14 ∧ 8 ≤ mod)
  else if opc = 0x40 then mod ≤ 5 || (mod ≤ 7 && 8 ≤ fmt)
  else if opc = 0x70 then mod < 4
  else if takesScope opc then mod ≤ 0xB
  else mod = 0

/-- OPERAND holds a value that the opcode's entry assigns (R142 and the entries). -/
def operandOk (opc fmt mod : Nat) (imm : Bool) (seq o : Nat) : Bool :=
  let b := width fmt
  if imm then true
  else if opc = 0x04 ∨ opc = 0x23 then o < 64
  else if opc = 0x13 ∨ opc = 0x14 then
    o < 65536 && o % 256 < b && 1 ≤ o / 256 && o % 256 + o / 256 ≤ b
  else if opc = 0x48 then o < (if b = 64 then 8 else 16)
  else if opc = 0x4A ∨ opc = 0x4B then o ≤ 2
  else if opc = 0x50 then o < 16
  else if opc = 0x51 ∨ opc = 0x52 then o * b < 32
  else if opc = 0x53 then
    let n := 2 ^ bits o 19 16
    bits o 31 21 = 0 && bits o 19 16 ≤ 12 && bits o 15 0 % (b / 8) = 0 && bits o 15 0 + n * (b / 8) ≤ 0x7000 &&
    (if bit o 20 then 8 ≤ fmt && 2 ≤ n else mod = 0)
  else if opc = 0x54 then o < 16
  else if opc = 0x55 then 1 ≤ o && o ≤ 64
  else if opc = 0x56 then o < 256
  else if opc = 0x57 ∨ opc = 0x58 then o < 256
  else if opc = 0x64 then true
  else if opc = 0x65 then o ≤ 6 && o ≠ 3
  else if opc = 0x70 then mod = 1 || o = 0
  else if opc = 0x71 then o < 128 && 2 ≤ o % 64 && o % 64 ≤ 32 && seq / 8 + o % 64 ≤ 32
  else if opc = 0x75 then
    bits o 15 0 % 256 = 0 && bits o 15 0 + 256 * (seq % 8 + 1) ≤ 0x7000 && bits o 31 25 = 0 &&
    (bit o 21 || bits o 20 16 = 0)
  else if opc ∈ [0x80, 0x81, 0x82, 0x83, 0x86, 0x91, 0x92, 0x93, 0x94, 0xB2] then bits o 31 30 ≤ 1
  else if opc = 0x84 ∨ opc = 0x85 then o < 65536
  else if opc = 0x88 then true
  else if opc = 0x89 ∨ opc = 0x8A then bits o 31 30 = 0 && bits o 22 9 = 0
  else if opc = 0x90 then bits o 31 30 ≤ 1 && bits o 29 26 = 0 && bits o 25 24 ≠ 3
  else if opc = 0x97 ∨ opc = 0x98 then o < 32
  else if opc = 0xA2 then o < 256
  else if opc = 0xA4 then o < 2097152
  else if opc = 0xA5 then o < 4096
  else if opc = 0xA6 then o < 16 && o % 4 ≤ 1 && o / 4 ≤ 2
  else if opc = 0xB1 then o < 32
  else if opc = 0xB3 then o < 8192
  else if opc = 0xB4 then o < 64
  else if opc = 0xB5 then o < 1024
  else if opc = 0xC0 then o < 262144 && bits o 16 8 ≤ 256 && (bit o 17 || bits o 16 8 ≤ 64)
  else if opc = 0xC1 then o < 32
  else if opc = 0xC2 then o < 256
  else if opc = 0xC3 then o < 8
  else if opc = 0xD0 then o ≤ 2
  else if opc = 0xD1 then o < 65536
  else o = 0

/-- Field [103:96] is used as R143 says. -/
def seqOk (opc seq : Nat) : Bool :=
  if chained opc then seq / 64 ≠ 3 && (seq / 64 ≠ 0 || seq % 64 = 0)
  else if opc = 0x70 ∨ opc = 0x75 then true
  else if opc ∈ [0x71, 0x72, 0x73, 0x74] then seq % 8 = 0
  else seq = 0

/-- How a port may be declared: 0 no, 1 required, 2 optional, 3 required unless IN.IMM. -/
structure PortRule where
  l : Nat
  r : Nat
  p : Nat
  /-- A sticky L, a sticky R. -/
  sl : Bool := false
  sr : Bool := false
  /-- IN.IMM, FIRE.GATE. -/
  imm : Bool := false
  gate : Bool := false
  deriving DecidableEq, Repr

/-- Tables 8.1, 9.2, 10.1 and 11.5. -/
def portRule (opc mod : Nat) : PortRule :=
  if opc ∈ [0x04, 0x14, 0x23] then ⟨1, 1, 2, true, true, false, true⟩
  else if opc ∈ [0x05, 0x06, 0x0C, 0x11, 0x12, 0x13, 0x27, 0x28, 0x29, 0x2B, 0x2C, 0x50, 0x53] then
    ⟨1, 0, 2, false, false, false, true⟩
  else if opc ≤ 0x2C then ⟨1, 3, 2, true, true, true, true⟩
  else if opc = 0x40 then ⟨1, 3, 2, true, true, true, false⟩
  else if opc = 0x41 then ⟨1, 3, 1, true, true, true, false⟩
  else if opc = 0x42 ∨ opc = 0x43 then ⟨1, 1, 0, true, true, false, false⟩
  else if opc ∈ [0x44, 0x45, 0x46, 0x52] then ⟨1, 0, 0, false, false, false, false⟩
  else if opc = 0x51 then ⟨2, 1, 0, false, false, false, false⟩
  else if opc = 0x47 then ⟨1, 1, 2, true, true, false, false⟩
  else if opc = 0x49 then ⟨1, 3, 2, false, true, true, false⟩
  else if opc ∈ [0x48, 0x4A, 0x4B] then ⟨1, 0, 2, false, false, false, false⟩
  else if opc = 0x60 ∨ opc = 0x62 then ⟨1, 0, 1, false, false, false, false⟩
  else if opc = 0x61 then ⟨1, 1, 1, false, false, false, false⟩
  else if opc = 0x65 then ⟨0, 0, 0, false, false, false, false⟩
  else if opc = 0x69 then ⟨1, 2, 0, false, false, false, false⟩
  else if opc = 0x70 then ⟨1, if mod = 3 then 1 else 0, 0, false, false, false, false⟩
  else if opc ∈ [0x72, 0x73, 0x75] then ⟨1, 0, 2, false, false, false, false⟩
  else if opc = 0x57 ∨ opc = 0x58 then ⟨1, 1, 0, false, false, false, false⟩
  else if opc = 0x80 ∨ opc = 0x84 then ⟨1, 0, 2, false, false, false, false⟩
  else if opc = 0x81 ∨ opc = 0x85 ∨ opc = 0x90 then ⟨1, 1, 2, true, true, false, false⟩
  else if opc = 0x83 then ⟨1, 1, 0, true, true, false, false⟩
  else if opc = 0x8A then ⟨1, 1, 0, false, false, false, false⟩
  else if opc = 0x88 then ⟨1, 2, 0, true, false, false, false⟩
  else if opc = 0x93 ∨ opc = 0x94 ∨ opc = 0xB2 then ⟨1, 1, 2, true, false, false, false⟩
  else if opc = 0xB3 then ⟨1, 2, 2, false, false, false, false⟩
  else if opc ∈ [0xB4, 0xB5, 0xD1] then ⟨1, 0, 2, false, false, false, false⟩
  else ⟨1, 0, 0, false, false, false, false⟩

/-- A declared port against its rule. -/
def portOk (rule : Nat) (declared imm : Bool) : Bool :=
  match rule with
  | 0 => !declared
  | 1 => declared
  | 2 => true
  | _ => declared != imm

/-- R141, R142, R190, R214, R238, R270: the IN and FIRE combination is permitted. -/
def portsOk (opc mod inp fire : Nat) : Bool :=
  let t := portRule opc mod
  let l := bit inp 3; let r := bit inp 2; let p := bit inp 1; let im := bit inp 0
  let sl := bit fire 3; let sr := bit fire 2; let gate := bit fire 1; let qs := bit fire 0
  portOk t.l l im && portOk t.r r im && portOk t.p p im &&
  (!im || (t.imm && !r)) && (!sl || (t.sl && l)) && (!sr || (t.sr && r && !im)) && (!gate || (t.gate && p && l)) &&
  (!qs || opc ≤ 0x53) && (opc = 0x65 || (l && !sl) || (r && !sr)) && (opc ≠ 0x88 || !sl || r)

/-- Opcodes whose DEST0 names an edge-port binding (R147, R210, R225, R230, R231, Tables 10.1 and 11.5). -/
def binds0 (opc : Nat) : Bool := opc ∈ [0x69, 0x90, 0xA0, 0xA1, 0xA2, 0xA3, 0xA4, 0xA5, 0xA6, 0xB0, 0xB4]

/-- Opcodes that may send a predicate token, so that a destination may name port P (R191). -/
def sendsPred (opc : Nat) : Bool :=
  opc ∈ [0x40, 0x42, 0x43, 0x44, 0x45, 0x46, 0x60, 0x61, 0x62, 0x63, 0x67]

/-- One destination word (Table 6.9, R26, R27, R144). `edge` says whether it must be, or must not be, port 11. -/
def destOk (opc d : Nat) (edge : Bool) : Bool :=
  if bit d 31 then
    bits d 7 0 = 0 && bits d 15 12 = (if opc = 0x67 then 1 else 0) &&
    (bits d 11 8 = 0 || bits d 11 10 = 1 || bits d 11 9 = 4 || bits d 11 9 = 5) &&
    ((bits d 30 29 = 3) = edge) && (bits d 30 29 ≠ 2 || sendsPred opc)
  else d = 0

/-- Both destination words (R144 and the entries). -/
def destsOk (opc d0 d1 : Nat) : Bool :=
  if opc ∈ [0x66, 0x68, 0x6A, 0xB6] then d0 = 0 && d1 = 0
  else if binds0 opc then
    bit d0 31 && destOk opc d0 true && destOk opc d1 false &&
    ((opc ≠ 0x90 && opc ≠ 0xB4) || d1 = 0) && (opc ≠ 0x69 || (bit d1 31 && bits d1 23 16 = 0))
  else destOk opc d0 false && destOk opc d1 false && (bit d0 31 || d1 = 0)

/-- The first failing cause of Table 6.12 among those a node word shows by itself. -/
def localCause (opc : Nat) (n : NodeBody) : Option Nat :=
  let f := n.fmt.toNat; let m := n.mod.toNat; let o := n.operand.toNat; let q := n.seq.toNat
  if fmtSet opc = 0 then some 0x05
  else if !bit (fmtSet opc) f then some 0x06
  else if !modOk opc f m o then some 0x07
  else if !(operandOk opc f m (bit n.inp.toNat 0) q o && seqOk opc q) then some 0x08
  else if !portsOk opc m n.inp.toNat n.fire.toNat then some 0x09
  else if !destsOk opc n.dest0.toNat n.dest1.toNat then some 0x0A
  else none

end Sys2Proof.NodeCheck
end

