-- ==== Sys2Proof/WellFormed.lean ====
section
/-! DEFINITION. Which terms of Instr the encodings admit: the checks of R139 step 3 and of R137, R138 on sequencer
fields, and the checks on one node word (R141 to R146). -/

namespace Sys2Proof

/-- A scope code of Table 6.5 that is not reserved (R137). -/
def scopeOk (c : BitVec 4) : Bool := c.toNat < 12

/-- A scope that CVOPEN accepts (R113, R137). -/
def cvScopeOk (c : BitVec 4) : Bool := c.toNat = 0 || (4 ≤ c.toNat && c.toNat ≤ 9)

/-- The opcode of a node instruction (Table 6.11) with its node word; none for the others. -/
def Instr.node? : Instr → Option (Nat × NodeBody)
  | .nIadd n => some (0x00, n)
  | .nIsub n => some (0x01, n)
  | .nImul n => some (0x02, n)
  | .nImulh n => some (0x03, n)
  | .nImad n => some (0x04, n)
  | .nIabs n => some (0x05, n)
  | .nIneg n => some (0x06, n)
  | .nImin n => some (0x07, n)
  | .nImax n => some (0x08, n)
  | .nAnd n => some (0x09, n)
  | .nOr n => some (0x0A, n)
  | .nXor n => some (0x0B, n)
  | .nNot n => some (0x0C, n)
  | .nShl n => some (0x0D, n)
  | .nShr n => some (0x0E, n)
  | .nSar n => some (0x0F, n)
  | .nRot n => some (0x10, n)
  | .nPopc n => some (0x11, n)
  | .nClz n => some (0x12, n)
  | .nBfx n => some (0x13, n)
  | .nBfi n => some (0x14, n)
  | .nSadd n => some (0x15, n)
  | .nSsub n => some (0x16, n)
  | .nFadd n => some (0x20, n)
  | .nFsub n => some (0x21, n)
  | .nFmul n => some (0x22, n)
  | .nFfma n => some (0x23, n)
  | .nFmin n => some (0x24, n)
  | .nFmax n => some (0x25, n)
  | .nFsgn n => some (0x26, n)
  | .nFrcp n => some (0x27, n)
  | .nFrsq n => some (0x28, n)
  | .nFsqrt n => some (0x29, n)
  | .nFdiv n => some (0x2A, n)
  | .nFexp2 n => some (0x2B, n)
  | .nFlog2 n => some (0x2C, n)
  | .nCmp n => some (0x40, n)
  | .nSel n => some (0x41, n)
  | .nMand n => some (0x42, n)
  | .nMor n => some (0x43, n)
  | .nMnot n => some (0x44, n)
  | .nAny n => some (0x45, n)
  | .nAll n => some (0x46, n)
  | .nLperm n => some (0x47, n)
  | .nLbcast n => some (0x48, n)
  | .nLrot n => some (0x49, n)
  | .nLred n => some (0x4A, n)
  | .nLscan n => some (0x4B, n)
  | .nCvt n => some (0x50, n)
  | .nPack n => some (0x51, n)
  | .nUnpack n => some (0x52, n)
  | .nLut n => some (0x53, n)
  | .nBmax n => some (0x54, n)
  | .nDelay n => some (0x55, n)
  | .nBfly n => some (0x56, n)
  | .nQnt n => some (0x57, n)
  | .nDqnt n => some (0x58, n)
  | .nSteer n => some (0x60, n)
  | .nMerge n => some (0x61, n)
  | .nGate n => some (0x62, n)
  | .nCopy n => some (0x63, n)
  | .nConst n => some (0x64, n)
  | .nEntry n => some (0x65, n)
  | .nExit n => some (0x66, n)
  | .nLoop n => some (0x67, n)
  | .nSink n => some (0x68, n)
  | .nSpawn n => some (0x69, n)
  | .nReturn n => some (0x6A, n)
  | .nTsend n => some (0x6B, n)
  | .nPshift n => some (0x70, n)
  | .nPzrot n => some (0x71, n)
  | .nPld n => some (0x72, n)
  | .nPst n => some (0x73, n)
  | .nPquiet n => some (0x74, n)
  | .nRule n => some (0x75, n)
  | .nLd n => some (0x80, n)
  | .nSt n => some (0x81, n)
  | .nLdv n => some (0x82, n)
  | .nStv n => some (0x83, n)
  | .nLdl n => some (0x84, n)
  | .nStl n => some (0x85, n)
  | .nPref n => some (0x86, n)
  | .nOrdt n => some (0x87, n)
  | .nWaitw n => some (0x88, n)
  | .nLdt n => some (0x89, n)
  | .nStt n => some (0x8A, n)
  | .nRed n => some (0x90, n)
  | .nLock n => some (0x91, n)
  | .nUnlock n => some (0x92, n)
  | .nCas n => some (0x93, n)
  | .nXchg n => some (0x94, n)
  | .nFence n => some (0x95, n)
  | .nBar n => some (0x96, n)
  | .nTlw n => some (0x97, n)
  | .nTlr n => some (0x98, n)
  | .nCopyEngine n => some (0xA0, n)
  | .nNetw n => some (0xA1, n)
  | .nMxls n => some (0xA2, n)
  | .nMxsw n => some (0xA3, n)
  | .nMxst n => some (0xA4, n)
  | .nMxacc n => some (0xA5, n)
  | .nMxq n => some (0xA6, n)
  | .nRayinj n => some (0xB0, n)
  | .nRayrcv n => some (0xB1, n)
  | .nVbuf n => some (0xB2, n)
  | .nHgf n => some (0xB3, n)
  | .nHgs n => some (0xB4, n)
  | .nTex n => some (0xB5, n)
  | .nDrawend n => some (0xB6, n)
  | .nCvsend n => some (0xC0, n)
  | .nCvrecv n => some (0xC1, n)
  | .nCvchoose n => some (0xC2, n)
  | .nCvdeleg n => some (0xC3, n)
  | .nFlags n => some (0xD0, n)
  | .nTrapn n => some (0xD1, n)
  | _ => none

/-- The instruction is one of the machine's other steps, which has no word. -/
def Instr.isEvent : Instr → Bool
  | .eQuietSkip => true
  | .eTokenArrival _ => true
  | .eOverflowReturn _ _ _ => true
  | .eIterDraw _ => true
  | .eFrameRetire _ _ => true
  | .eIdentifierHoldExpiry => true
  | .eIterComplete _ => true
  | .eWaveSend _ _ _ => true
  | .eElementSwitch _ _ _ => true
  | .eMemoryRequestAccept _ => true
  | .eMemoryAccessPerform _ => true
  | .eMemTimeoutExpiry _ => true
  | .eKeptResponseExpiry => true
  | .ePageWalk _ _ _ _ _ _ => true
  | .eWatchAdmission _ => true
  | .eBarrierExit => true
  | .eReductionAccept _ => true
  | .eRedWindowClose _ => true
  | .eReductionApply _ => true
  | .eEngineCommandAccept _ => true
  | .eEngineCommandComplete _ => true
  | .eSendCheck _ => true
  | .eDelegationCheck _ => true
  | .eRingDelivery _ => true
  | .eDeliveryRetry => true
  | .eConversationFree => true
  | .eMatrixRowAccept _ => true
  | .eMatrixRowComplete _ => true
  | .eArrayCommandAccept _ => true
  | .eMxlsComplete _ => true
  | .eMxswApply _ => true
  | .eShiftLaneArrival _ => true
  | .eShiftComplete _ _ _ _ _ => true
  | .eRayAccept _ => true
  | .eNodeInjection _ => true
  | .eBoxTest _ => true
  | .eTriangleTest _ => true
  | .eRayComplete _ => true
  | .eSamplerResult _ => true
  | .eDrawWatchdog => true
  | .eDispatch _ => true
  | .eSteal _ => true
  | .ePlaneBind _ _ _ => true
  | .ePlaneBindRecheck _ _ _ => true
  | .eSwapOutStart _ => true
  | .eSwapOutSave _ => true
  | .eSwapIn _ _ _ => true
  | .eIdleWake => true
  | .eUnitRestart _ => true
  | .eDoorbellLaunch _ _ => true
  | .eDoorbellNotify _ _ => true
  | .eHostLaunch _ => true
  | .eNeIncomingWrite _ _ _ _ _ => true
  | .eNeIncomingRead _ _ _ _ => true
  | .eNeRetransmit _ => true
  | .eStandpipeBeat _ => true
  | .eBeatParityCheck => true
  | .eBeatRetry => true
  | .eLaneTest => true
  | .eLaneSwap => true
  | .eStandpipeRetrain _ => true
  | .eRetrainForced => true
  | .eRetrainComplete => true
  | .eLaneFail _ _ => true
  | .eLinkResume _ => true
  | .eDroopStretch => true
  | .eDroopRecover => true
  | .ePowerCapStep _ => true
  | .eModuleReset => true
  | .eFullService => true
  | .eCinjGo _ => true
  | .eLinjWrite _ => true
  | .eKlstatRetrain _ _ => true
  | .eCbdownClear _ _ _ => true
  | .ePartcfgWrite _ => true
  | .ePwrstatRead _ => true
  | .eRegisterWrite _ _ => true
  | .eRemoteAccessArrival _ _ _ _ _ _ _ => true
  | .eHostRequest _ _ _ _ _ => true
  | .ePartitionReset _ => true
  | .eLinkReplay _ _ => true
  | _ => false

/-- The term is one that some word of the spec's encoding stands for. -/
def WellFormed (i : Instr) : Bool :=
  match i.node? with
  | some (opc, n) => NodeCheck.localCause opc n = none
  | none =>
    match i with
    | .sLdN _ _ s _ => s.toNat ≠ 3
    | .sLdacq _ _ _ c => scopeOk c
    | .sStrel _ _ _ c => scopeOk c
    | .sAmo _ _ _ o _ c => o.toNat < 10 && scopeOk c
    | .sFence c => scopeOk c
    | .sCvopen _ _ s => cvScopeOk s
    | .sCsrrd _ i => Csr.defined i.toNat
    | .sCsrwr _ i => Csr.defined i.toNat
    | _ => true

end Sys2Proof
end

