-- ==== Sys2Proof/Decode.lean ====
section
/-! DEFINITION. The decoder, total on any bytes and rejecting by name (R129 to R149), and after it the encoder. Words
are read as numbers: bit 0 is the least significant bit of the first word. -/

namespace Sys2Proof

/-- Why a word is no instruction. -/
inductive DecodeError where
  /-- Fewer bytes than the instruction has. -/
  | truncated
  /-- R139 step 2: OP, FN, sub-code, XOP or control-register number unassigned. -/
  | unassigned
  /-- R139 step 3: a reserved field is nonzero, or a size or scope code is reserved. -/
  | reserved
  /-- R141: the empty node, which never fires. -/
  | emptyNode
  /-- A cause of Table 6.12. -/
  | cause (code : Nat)
  deriving DecidableEq, Repr

namespace Decode

/-- [31:26]. -/
def op (w : Nat) : Nat := w / 2 ^ 26 % 64
/-- [25:21]. -/
def d (w : Nat) : Nat := w / 2 ^ 21 % 32
/-- [20:16]. -/
def a (w : Nat) : Nat := w / 2 ^ 16 % 32
/-- [15:11]. -/
def b (w : Nat) : Nat := w / 2 ^ 11 % 32
/-- [10:0]. -/
def fn (w : Nat) : Nat := w % 2048
/-- [15:0]. -/
def imm (w : Nat) : Nat := w % 65536

/-- An instruction, unless a reserved part is nonzero (R139 step 3). -/
def unlessReserved (bad : Bool) (i : Instr) : Except DecodeError Instr := if bad then .error .reserved else .ok i

/-- OP 0x00 (Table 6.3). -/
def alu (w : Nat) : Except DecodeError Instr :=
  let D := BitVec.ofNat 5 (d w); let A := BitVec.ofNat 5 (a w); let B := BitVec.ofNat 5 (b w)
  let hi := fn w / 64
  match fn w % 64 with
  | 0 => unlessReserved (hi ≠ 0) (.sAdd D A B)
  | 1 => unlessReserved (hi ≠ 0) (.sSub D A B)
  | 2 => unlessReserved (hi ≠ 0) (.sMul D A B)
  | 3 => unlessReserved (hi ≠ 0) (.sMulh D A B)
  | 4 => unlessReserved (hi ≠ 0) (.sMulhn D A B)
  | 5 => unlessReserved (hi ≠ 0) (.sDiv D A B)
  | 6 => unlessReserved (hi ≠ 0) (.sDivn D A B)
  | 7 => unlessReserved (hi ≠ 0) (.sRem D A B)
  | 8 => unlessReserved (hi ≠ 0) (.sRemn D A B)
  | 9 => unlessReserved (hi ≠ 0) (.sAnd D A B)
  | 10 => unlessReserved (hi ≠ 0) (.sOr D A B)
  | 11 => unlessReserved (hi ≠ 0) (.sXor D A B)
  | 12 => unlessReserved (hi ≠ 0) (.sAndn D A B)
  | 13 => unlessReserved (hi ≠ 0) (.sShl D A B)
  | 14 => unlessReserved (hi ≠ 0) (.sShr D A B)
  | 15 => unlessReserved (hi ≠ 0) (.sSar D A B)
  | 16 => unlessReserved (hi ≠ 0) (.sMin D A B)
  | 17 => unlessReserved (hi ≠ 0) (.sMax D A B)
  | 18 => unlessReserved (hi ≠ 0) (.sMinn D A B)
  | 19 => unlessReserved (hi ≠ 0) (.sMaxn D A B)
  | 20 => unlessReserved (hi % 4 ≠ 0) (.sSel D A B (BitVec.ofNat 3 (hi / 4)))
  | 21 => unlessReserved (hi ≠ 0 || b w ≠ 0) (.sClz D A)
  | 22 => unlessReserved (hi ≠ 0 || b w ≠ 0) (.sPopc D A)
  | _ => .error .unassigned

/-- OP 0x3E, with its extension word (R134, R155). -/
def xImm (w x : Nat) : Except DecodeError Instr :=
  let D := BitVec.ofNat 5 (d w); let A := BitVec.ofNat 5 (a w); let I := BitVec.ofNat 32 x
  let lo := w % 256
  match imm w / 256 with
  | 0 => unlessReserved (lo ≠ 0 || a w ≠ 0) (.sLdiX D I)
  | 1 => unlessReserved (lo ≠ 0) (.sAddiX D A I)
  | 2 => unlessReserved (lo ≠ 0) (.sAndiX D A I)
  | 3 => unlessReserved (lo ≠ 0) (.sOriX D A I)
  | 4 => unlessReserved (lo ≠ 0) (.sXoriX D A I)
  | 5 => unlessReserved (lo / 8 ≠ 0 || d w / 8 ≠ 0) (.sCmpiX (BitVec.ofNat 3 (d w)) (BitVec.ofNat 3 lo) A I)
  | _ => .error .unassigned

/-- OP 0x23, ARM (R164). -/
def arm (w : Nat) : Except DecodeError Instr :=
  let A := BitVec.ofNat 5 (a w); let B := BitVec.ofNat 5 (b w); let sel := fn w / 4
  match fn w % 4 with
  | 0 => unlessReserved (d w ≠ 0 || b w ≠ 0 || sel / 4 ≠ 0) (.sArmIter A (BitVec.ofNat 2 sel))
  | 1 => unlessReserved (d w ≠ 0 || sel ≠ 0) (.sArmTl A B)
  | 2 => unlessReserved (d w ≠ 0 || sel ≠ 0) (.sArmWatch A B)
  | _ => unlessReserved (d w ≠ 0 || sel / 8 ≠ 0) (.sArmConv A B (BitVec.ofNat 3 sel))

/-- OP 0x3A (R182). -/
def trapOps (w : Nat) : Except DecodeError Instr :=
  let z := d w ≠ 0 || a w ≠ 0 || b w ≠ 0
  match fn w % 16 with
  | 0 => unlessReserved (z || fn w / 16 ≠ 0) .sEret
  | 1 => unlessReserved z (.sSvc (BitVec.ofNat 7 (fn w / 16)))
  | 2 => unlessReserved (z || fn w / 16 ≠ 0) .sHalt
  | 3 => unlessReserved (z || fn w / 16 ≠ 0) .sIdle
  | _ => .error .unassigned

/-- OP 0x3B (R183 to R186). -/
def privOps (w : Nat) : Except DecodeError Instr :=
  let A := BitVec.ofNat 5 (a w); let B := BitVec.ofNat 5 (b w); let z := d w ≠ 0 || fn w / 16 ≠ 0
  match fn w % 16 with
  | 0 => unlessReserved z (.sTlbinv A B)
  | 1 => unlessReserved z (.sKeyld A B)
  | 2 => unlessReserved (z || b w ≠ 0) (.sSwapout A)
  | 3 => unlessReserved (z || b w ≠ 0) (.sSwapin A)
  | 4 => unlessReserved (z || b w ≠ 0) (.sParkres A)
  | 5 => unlessReserved (z || b w ≠ 0) (.sParkkill A)
  | _ => .error .unassigned

/-- A sequencer word `w` with the word `x` after it, which only an X form reads (R129 to R139, steps 2 and 3). -/
def seqWord (w x : Nat) : Except DecodeError Instr :=
  let D := BitVec.ofNat 5 (d w); let A := BitVec.ofNat 5 (a w); let B := BitVec.ofNat 5 (b w)
  let F := fn w; let I := BitVec.ofNat 16 (imm w)
  let S := BitVec.ofNat 2 (imm w / 2 ^ 14); let O := BitVec.ofNat 14 (imm w)
  let K := BitVec.ofNat 2 (d w); let C := BitVec.ofNat 4 F
  match op w with
  | 0x00 => alu w
  | 0x01 => unlessReserved (d w / 8 ≠ 0 || F / 8 ≠ 0) (.sCmp (BitVec.ofNat 3 (d w)) A B (BitVec.ofNat 3 F))
  | 0x02 => .ok (.sAddi D A I)
  | 0x03 => .ok (.sAndi D A I)
  | 0x04 => .ok (.sOri D A I)
  | 0x05 => .ok (.sXori D A I)
  | 0x06 => unlessReserved (imm w / 64 ≠ 0) (.sShli D A (BitVec.ofNat 6 (imm w)))
  | 0x07 => unlessReserved (imm w / 64 ≠ 0) (.sShri D A (BitVec.ofNat 6 (imm w)))
  | 0x08 => unlessReserved (imm w / 64 ≠ 0) (.sSari D A (BitVec.ofNat 6 (imm w)))
  | 0x09 => unlessReserved (a w ≠ 0) (.sLdi D I)
  | 0x0A => unlessReserved (a w / 4 ≠ 0) (.sLdhi D (BitVec.ofNat 2 (a w)) I)
  | 0x0C => .ok (.sCmpiCcLow (BitVec.ofNat 2 (d w / 8)) (BitVec.ofNat 3 (d w)) A I)
  | 0x0D => .ok (.sCmpiCcHigh (BitVec.ofNat 2 (d w / 8)) (BitVec.ofNat 3 (d w)) A I)
  | 0x10 => .ok (.sLd D A S O)
  | 0x11 => unlessReserved (imm w / 2 ^ 14 = 3) (.sLdN D A S O)
  | 0x12 => .ok (.sSt D A S O)
  | 0x13 => unlessReserved (b w ≠ 0 || F / 64 ≠ 0 || F % 16 ≥ 12) (.sLdacq D A (BitVec.ofNat 2 (F / 16)) C)
  | 0x14 => unlessReserved (b w ≠ 0 || F / 64 ≠ 0 || F % 16 ≥ 12) (.sStrel D A (BitVec.ofNat 2 (F / 16)) C)
  | 0x15 => unlessReserved (F / 512 ≠ 0 || F % 16 ≥ 12 || F / 32 % 16 ≥ 10)
      (.sAmo D A B (BitVec.ofNat 4 (F / 32)) (BitVec.ofNat 1 (F / 16)) C)
  | 0x16 => unlessReserved (d w ≠ 0 || a w ≠ 0 || b w ≠ 0 || F / 16 ≠ 0 || F % 16 ≥ 12) (.sFence C)
  | 0x18 => .ok (.sBr (BitVec.ofNat 3 (w / 2 ^ 23)) (BitVec.ofNat 1 (w / 2 ^ 22)) (BitVec.ofNat 22 w))
  | 0x19 => .ok (.sJmp (BitVec.ofNat 26 w))
  | 0x1A => unlessReserved (d w ≠ 0 || b w ≠ 0 || F ≠ 0) (.sJmpi A)
  | 0x1B => .ok (.sCall (BitVec.ofNat 26 w))
  | 0x1C => unlessReserved (w % 2 ^ 26 ≠ 0) .sRet
  | 0x20 => unlessReserved (d w ≠ 0 || b w ≠ 0 || F ≠ 0) (.sCont A)
  | 0x21 => unlessReserved (d w ≠ 0 || b w ≠ 0 || F ≠ 0) (.sEnq A)
  | 0x22 => unlessReserved (d w ≠ 0 || F ≠ 0) (.sJoin A B)
  | 0x23 => arm w
  | 0x24 => unlessReserved (w % 2 ^ 26 ≠ 0) .sDone
  | 0x25 => unlessReserved (w % 2 ^ 21 ≠ 0) (.sSelf D)
  | 0x26 => unlessReserved (d w / 4 ≠ 0 || imm w ≠ 0) (.sCfgld K A)
  | 0x27 => unlessReserved (d w / 4 ≠ 0 || w % 2 ^ 21 ≠ 0) (.sCfgact K)
  | 0x28 => unlessReserved (d w / 4 ≠ 0 || F / 32 ≠ 0) (.sIter K A B (BitVec.ofNat 5 F))
  | 0x29 => unlessReserved (d w / 4 ≠ 0 || a w ≠ 0 || b w ≠ 0 || F / 4 ≠ 0) (.sSplice K (BitVec.ofNat 2 F))
  | 0x2A => unlessReserved (d w / 4 ≠ 0 || w % 2 ^ 21 ≠ 0) (.sDrain K)
  | 0x2B => unlessReserved (d w / 4 ≠ 0 || a w ≠ 0 || b w ≠ 0 || F / 8 ≠ 0) (.sPrio K (BitVec.ofNat 3 F))
  | 0x2C => unlessReserved (d w / 4 ≠ 0 || b w ≠ 0 || F % 16 ≠ 0)
      (.sTokin K A (BitVec.ofNat 5 (F / 64)) (BitVec.ofNat 2 (F / 16)))
  | 0x2D => unlessReserved (b w ≠ 0 || F / 4 ≠ 0) (.sTokget D A (BitVec.ofNat 2 F))
  | 0x30 => unlessReserved (d w ≠ 0 || b w ≠ 0 || F / 512 ≠ 0)
      (if F / 256 % 2 = 0 then .sTidset A (BitVec.ofNat 8 F) else .sTidget A (BitVec.ofNat 8 F))
  | 0x31 => unlessReserved (b w ≠ 0 || F ≠ 0) (.sTlread D A)
  | 0x32 => unlessReserved (b w ≠ 0 || F ≠ 0) (.sCopys D A)
  | 0x33 => unlessReserved (b w ≠ 0 || F / 16 ≠ 0 || !(F % 16 = 0 || (4 ≤ F % 16 && F % 16 ≤ 9))) (.sCvopen D A C)
  | 0x34 => unlessReserved (d w ≠ 0 || F / 8 ≠ 0) (.sCvbind A B (BitVec.ofNat 3 F))
  | 0x35 => unlessReserved (F / 256 % 4 ≠ 0)
      (if F / 1024 = 0 then .sCvsend D A B (BitVec.ofNat 3 (F / 32)) (BitVec.ofNat 5 F)
       else .sCvsendChoose D A B (BitVec.ofNat 3 (F / 32)) (BitVec.ofNat 5 F))
  | 0x36 => unlessReserved (d w ≠ 0 || F / 8 ≠ 0) (.sCvdeleg A B (BitVec.ofNat 3 F))
  | 0x37 => unlessReserved (b w ≠ 0 || F ≠ 0) (.sCvclose D A)
  | 0x38 => if Csr.defined (imm w) then unlessReserved (a w ≠ 0) (.sCsrrd D I) else .error .unassigned
  | 0x39 => if Csr.defined (imm w) then unlessReserved (a w ≠ 0) (.sCsrwr D I) else .error .unassigned
  | 0x3A => trapOps w
  | 0x3B => privOps w
  | 0x3E => xImm w x
  | 0x3F => if imm w / 256 = 0 then
        unlessReserved (d w / 4 ≠ 0 || w % 256 ≠ 0) (.sCfgldX K A (BitVec.ofNat 32 x))
      else .error .unassigned
  | _ => .error .unassigned

/-- The first word calls for an extension word (R129). -/
def isX (w : Nat) : Bool := op w ≥ 0x3E

/-- The fields of a node word (Table 6.8). -/
def nodeBody (w : Nat) : NodeBody :=
  { fmt := BitVec.ofNat 4 (w / 2 ^ 116), mod := BitVec.ofNat 4 (w / 2 ^ 112), inp := BitVec.ofNat 4 (w / 2 ^ 108),
    fire := BitVec.ofNat 4 (w / 2 ^ 104), seq := BitVec.ofNat 8 (w / 2 ^ 96), operand := BitVec.ofNat 32 (w / 2 ^ 64),
    dest0 := BitVec.ofNat 32 (w / 2 ^ 32), dest1 := BitVec.ofNat 32 w }

/-- The node instruction of an opcode (Table 6.11). -/
def nodeInstr (opc : Nat) (n : NodeBody) : Option Instr :=
  match opc with
  | 0x00 => some (.nIadd n)
  | 0x01 => some (.nIsub n)
  | 0x02 => some (.nImul n)
  | 0x03 => some (.nImulh n)
  | 0x04 => some (.nImad n)
  | 0x05 => some (.nIabs n)
  | 0x06 => some (.nIneg n)
  | 0x07 => some (.nImin n)
  | 0x08 => some (.nImax n)
  | 0x09 => some (.nAnd n)
  | 0x0A => some (.nOr n)
  | 0x0B => some (.nXor n)
  | 0x0C => some (.nNot n)
  | 0x0D => some (.nShl n)
  | 0x0E => some (.nShr n)
  | 0x0F => some (.nSar n)
  | 0x10 => some (.nRot n)
  | 0x11 => some (.nPopc n)
  | 0x12 => some (.nClz n)
  | 0x13 => some (.nBfx n)
  | 0x14 => some (.nBfi n)
  | 0x15 => some (.nSadd n)
  | 0x16 => some (.nSsub n)
  | 0x20 => some (.nFadd n)
  | 0x21 => some (.nFsub n)
  | 0x22 => some (.nFmul n)
  | 0x23 => some (.nFfma n)
  | 0x24 => some (.nFmin n)
  | 0x25 => some (.nFmax n)
  | 0x26 => some (.nFsgn n)
  | 0x27 => some (.nFrcp n)
  | 0x28 => some (.nFrsq n)
  | 0x29 => some (.nFsqrt n)
  | 0x2A => some (.nFdiv n)
  | 0x2B => some (.nFexp2 n)
  | 0x2C => some (.nFlog2 n)
  | 0x40 => some (.nCmp n)
  | 0x41 => some (.nSel n)
  | 0x42 => some (.nMand n)
  | 0x43 => some (.nMor n)
  | 0x44 => some (.nMnot n)
  | 0x45 => some (.nAny n)
  | 0x46 => some (.nAll n)
  | 0x47 => some (.nLperm n)
  | 0x48 => some (.nLbcast n)
  | 0x49 => some (.nLrot n)
  | 0x4A => some (.nLred n)
  | 0x4B => some (.nLscan n)
  | 0x50 => some (.nCvt n)
  | 0x51 => some (.nPack n)
  | 0x52 => some (.nUnpack n)
  | 0x53 => some (.nLut n)
  | 0x54 => some (.nBmax n)
  | 0x55 => some (.nDelay n)
  | 0x56 => some (.nBfly n)
  | 0x57 => some (.nQnt n)
  | 0x58 => some (.nDqnt n)
  | 0x60 => some (.nSteer n)
  | 0x61 => some (.nMerge n)
  | 0x62 => some (.nGate n)
  | 0x63 => some (.nCopy n)
  | 0x64 => some (.nConst n)
  | 0x65 => some (.nEntry n)
  | 0x66 => some (.nExit n)
  | 0x67 => some (.nLoop n)
  | 0x68 => some (.nSink n)
  | 0x69 => some (.nSpawn n)
  | 0x6A => some (.nReturn n)
  | 0x6B => some (.nTsend n)
  | 0x70 => some (.nPshift n)
  | 0x71 => some (.nPzrot n)
  | 0x72 => some (.nPld n)
  | 0x73 => some (.nPst n)
  | 0x74 => some (.nPquiet n)
  | 0x75 => some (.nRule n)
  | 0x80 => some (.nLd n)
  | 0x81 => some (.nSt n)
  | 0x82 => some (.nLdv n)
  | 0x83 => some (.nStv n)
  | 0x84 => some (.nLdl n)
  | 0x85 => some (.nStl n)
  | 0x86 => some (.nPref n)
  | 0x87 => some (.nOrdt n)
  | 0x88 => some (.nWaitw n)
  | 0x89 => some (.nLdt n)
  | 0x8A => some (.nStt n)
  | 0x90 => some (.nRed n)
  | 0x91 => some (.nLock n)
  | 0x92 => some (.nUnlock n)
  | 0x93 => some (.nCas n)
  | 0x94 => some (.nXchg n)
  | 0x95 => some (.nFence n)
  | 0x96 => some (.nBar n)
  | 0x97 => some (.nTlw n)
  | 0x98 => some (.nTlr n)
  | 0xA0 => some (.nCopyEngine n)
  | 0xA1 => some (.nNetw n)
  | 0xA2 => some (.nMxls n)
  | 0xA3 => some (.nMxsw n)
  | 0xA4 => some (.nMxst n)
  | 0xA5 => some (.nMxacc n)
  | 0xA6 => some (.nMxq n)
  | 0xB0 => some (.nRayinj n)
  | 0xB1 => some (.nRayrcv n)
  | 0xB2 => some (.nVbuf n)
  | 0xB3 => some (.nHgf n)
  | 0xB4 => some (.nHgs n)
  | 0xB5 => some (.nTex n)
  | 0xB6 => some (.nDrawend n)
  | 0xC0 => some (.nCvsend n)
  | 0xC1 => some (.nCvrecv n)
  | 0xC2 => some (.nCvchoose n)
  | 0xC3 => some (.nCvdeleg n)
  | 0xD0 => some (.nFlags n)
  | 0xD1 => some (.nTrapn n)
  | _ => none

/-- A node word (R140 to R147), with the checks that the word alone decides. -/
def nodeWord (w : Nat) : Except DecodeError Instr :=
  if w = 0 then .error .emptyNode
  else
    let opc := w / 2 ^ 120 % 256
    match NodeCheck.localCause opc (nodeBody w) with
    | some c => .error (.cause c)
    | none => match nodeInstr opc (nodeBody w) with
      | some i => .ok i
      | none => .error (.cause 5)

/-- A little-endian number from bytes (R2). -/
def leNat : List Byte → Nat
  | [] => 0
  | x :: t => x.toNat + 256 * leNat t

/-- The bytes of a number, little-endian. -/
def leBytes : Nat → Nat → List Byte
  | 0, _ => []
  | k + 1, n => BitVec.ofNat 8 n :: leBytes k (n / 256)

/-- A sequencer instruction at the head of some bytes, and how many bytes it takes. -/
def seqBytes (l : List Byte) : Except DecodeError (Instr × Nat) :=
  if l.length < 4 then .error .truncated
  else
    let w := leNat (l.take 4)
    if isX w then
      if l.length < 8 then .error .truncated
      else (seqWord w (leNat ((l.drop 4).take 4))).map (fun i => (i, 8))
    else (seqWord w 0).map (fun i => (i, 4))

/-- A node word from its 16 bytes (R140). -/
def nodeBytes (l : List Byte) : Except DecodeError Instr :=
  if l.length < 16 then .error .truncated else nodeWord (leNat (l.take 16))

end Decode

/-- The instruction the decoder reads from a word numbered as spec/opcode_table.json numbers it: 128 bits for a node
word, else a sequencer word with, above it, its extension word. -/
def decodeTableWord (nbits w : Nat) : Option Instr :=
  if nbits = 128 then (Decode.nodeBytes (Decode.leBytes 16 w)).toOption
  else if nbits = 0 then none
  else (Decode.seqBytes (Decode.leBytes 8 (w % 2 ^ nbits))).toOption.map Prod.fst

namespace Encode

/-- Format A (Table 6.1). -/
def fA (op d a b fn : Nat) : Nat := op * 2 ^ 26 + d * 2 ^ 21 + a * 2 ^ 16 + b * 2 ^ 11 + fn

/-- Format I. -/
def fI (op d a imm : Nat) : Nat := op * 2 ^ 26 + d * 2 ^ 21 + a * 2 ^ 16 + imm

/-- A node word (Table 6.8). -/
def node (opc : Nat) (n : NodeBody) : Nat :=
  opc * 2 ^ 120 + n.fmt.toNat * 2 ^ 116 + n.mod.toNat * 2 ^ 112 + n.inp.toNat * 2 ^ 108 + n.fire.toNat * 2 ^ 104 +
  n.seq.toNat * 2 ^ 96 + n.operand.toNat * 2 ^ 64 + n.dest0.toNat * 2 ^ 32 + n.dest1.toNat

end Encode

open Encode in
/-- The words of an instruction: one or two 32-bit words of a sequencer instruction, the 128-bit word of a node;
nothing for an event, which has no encoding. -/
def encode : Instr → List Nat
  | .sAdd d a b => [fA 0 d.toNat a.toNat b.toNat 0]
  | .sSub d a b => [fA 0 d.toNat a.toNat b.toNat 1]
  | .sMul d a b => [fA 0 d.toNat a.toNat b.toNat 2]
  | .sMulh d a b => [fA 0 d.toNat a.toNat b.toNat 3]
  | .sMulhn d a b => [fA 0 d.toNat a.toNat b.toNat 4]
  | .sDiv d a b => [fA 0 d.toNat a.toNat b.toNat 5]
  | .sDivn d a b => [fA 0 d.toNat a.toNat b.toNat 6]
  | .sRem d a b => [fA 0 d.toNat a.toNat b.toNat 7]
  | .sRemn d a b => [fA 0 d.toNat a.toNat b.toNat 8]
  | .sAnd d a b => [fA 0 d.toNat a.toNat b.toNat 9]
  | .sOr d a b => [fA 0 d.toNat a.toNat b.toNat 10]
  | .sXor d a b => [fA 0 d.toNat a.toNat b.toNat 11]
  | .sAndn d a b => [fA 0 d.toNat a.toNat b.toNat 12]
  | .sShl d a b => [fA 0 d.toNat a.toNat b.toNat 13]
  | .sShr d a b => [fA 0 d.toNat a.toNat b.toNat 14]
  | .sSar d a b => [fA 0 d.toNat a.toNat b.toNat 15]
  | .sMin d a b => [fA 0 d.toNat a.toNat b.toNat 16]
  | .sMax d a b => [fA 0 d.toNat a.toNat b.toNat 17]
  | .sMinn d a b => [fA 0 d.toNat a.toNat b.toNat 18]
  | .sMaxn d a b => [fA 0 d.toNat a.toNat b.toNat 19]
  | .sSel d a b c => [fA 0 d.toNat a.toNat b.toNat (c.toNat * 256 + 20)]
  | .sClz d a => [fA 0 d.toNat a.toNat 0 21]
  | .sPopc d a => [fA 0 d.toNat a.toNat 0 22]
  | .sCmp p a b c => [fA 1 p.toNat a.toNat b.toNat c.toNat]
  | .sAddi d a i => [fI 2 d.toNat a.toNat i.toNat]
  | .sAndi d a i => [fI 3 d.toNat a.toNat i.toNat]
  | .sOri d a i => [fI 4 d.toNat a.toNat i.toNat]
  | .sXori d a i => [fI 5 d.toNat a.toNat i.toNat]
  | .sShli d a s => [fI 6 d.toNat a.toNat s.toNat]
  | .sShri d a s => [fI 7 d.toNat a.toNat s.toNat]
  | .sSari d a s => [fI 8 d.toNat a.toNat s.toNat]
  | .sLdi d i => [fI 9 d.toNat 0 i.toNat]
  | .sLdhi d h i => [fI 10 d.toNat h.toNat i.toNat]
  | .sCmpiCcLow c p a i => [fI 12 (c.toNat * 8 + p.toNat) a.toNat i.toNat]
  | .sCmpiCcHigh c p a i => [fI 13 (c.toNat * 8 + p.toNat) a.toNat i.toNat]
  | .sLdiX d i => [fI 0x3E d.toNat 0 0, i.toNat]
  | .sAddiX d a i => [fI 0x3E d.toNat a.toNat 0x100, i.toNat]
  | .sAndiX d a i => [fI 0x3E d.toNat a.toNat 0x200, i.toNat]
  | .sOriX d a i => [fI 0x3E d.toNat a.toNat 0x300, i.toNat]
  | .sXoriX d a i => [fI 0x3E d.toNat a.toNat 0x400, i.toNat]
  | .sCmpiX p c a i => [fI 0x3E p.toNat a.toNat (0x500 + c.toNat), i.toNat]
  | .sLd d a s o => [fI 0x10 d.toNat a.toNat (s.toNat * 2 ^ 14 + o.toNat)]
  | .sLdN d a s o => [fI 0x11 d.toNat a.toNat (s.toNat * 2 ^ 14 + o.toNat)]
  | .sSt d a s o => [fI 0x12 d.toNat a.toNat (s.toNat * 2 ^ 14 + o.toNat)]
  | .sLdacq d a z c => [fA 0x13 d.toNat a.toNat 0 (z.toNat * 16 + c.toNat)]
  | .sStrel d a z c => [fA 0x14 d.toNat a.toNat 0 (z.toNat * 16 + c.toNat)]
  | .sAmo d a b o z c => [fA 0x15 d.toNat a.toNat b.toNat (o.toNat * 32 + z.toNat * 16 + c.toNat)]
  | .sFence c => [fA 0x16 0 0 0 c.toNat]
  | .sBr p s o => [0x18 * 2 ^ 26 + p.toNat * 2 ^ 23 + s.toNat * 2 ^ 22 + o.toNat]
  | .sJmp o => [0x19 * 2 ^ 26 + o.toNat]
  | .sJmpi a => [fA 0x1A 0 a.toNat 0 0]
  | .sCall o => [0x1B * 2 ^ 26 + o.toNat]
  | .sRet => [fA 0x1C 0 0 0 0]
  | .sCont a => [fA 0x20 0 a.toNat 0 0]
  | .sEnq a => [fA 0x21 0 a.toNat 0 0]
  | .sJoin a b => [fA 0x22 0 a.toNat b.toNat 0]
  | .sArmIter a k => [fA 0x23 0 a.toNat 0 (k.toNat * 4)]
  | .sArmTl a b => [fA 0x23 0 a.toNat b.toNat 1]
  | .sArmWatch a b => [fA 0x23 0 a.toNat b.toNat 2]
  | .sArmConv a b r => [fA 0x23 0 a.toNat b.toNat (r.toNat * 4 + 3)]
  | .sDone => [fA 0x24 0 0 0 0]
  | .sSelf d => [fA 0x25 d.toNat 0 0 0]
  | .sCfgld k a => [fA 0x26 k.toNat a.toNat 0 0]
  | .sCfgldX k a i => [fI 0x3F k.toNat a.toNat 0, i.toNat]
  | .sCfgact k => [fA 0x27 k.toNat 0 0 0]
  | .sIter k a b n => [fA 0x28 k.toNat a.toNat b.toNat n.toNat]
  | .sSplice k p => [fA 0x29 k.toNat 0 0 p.toNat]
  | .sDrain k => [fA 0x2A k.toNat 0 0 0]
  | .sPrio k l => [fA 0x2B k.toNat 0 0 l.toNat]
  | .sTokin k a n p => [fA 0x2C k.toNat a.toNat 0 (n.toNat * 64 + p.toNat * 16)]
  | .sTokget d a k => [fA 0x2D d.toNat a.toNat 0 k.toNat]
  | .sTidset a i => [fA 0x30 0 a.toNat 0 i.toNat]
  | .sTidget a i => [fA 0x30 0 a.toNat 0 (256 + i.toNat)]
  | .sTlread d a => [fA 0x31 d.toNat a.toNat 0 0]
  | .sCopys d a => [fA 0x32 d.toNat a.toNat 0 0]
  | .sCvopen d a s => [fA 0x33 d.toNat a.toNat 0 s.toNat]
  | .sCvbind a b r => [fA 0x34 0 a.toNat b.toNat r.toNat]
  | .sCvsend d a b r k => [fA 0x35 d.toNat a.toNat b.toNat (r.toNat * 32 + k.toNat)]
  | .sCvsendChoose d a b r k => [fA 0x35 d.toNat a.toNat b.toNat (1024 + r.toNat * 32 + k.toNat)]
  | .sCvdeleg a b r => [fA 0x36 0 a.toNat b.toNat r.toNat]
  | .sCvclose d a => [fA 0x37 d.toNat a.toNat 0 0]
  | .sCsrrd d i => [fI 0x38 d.toNat 0 i.toNat]
  | .sCsrwr d i => [fI 0x39 d.toNat 0 i.toNat]
  | .sEret => [fA 0x3A 0 0 0 0]
  | .sSvc n => [fA 0x3A 0 0 0 (n.toNat * 16 + 1)]
  | .sHalt => [fA 0x3A 0 0 0 2]
  | .sIdle => [fA 0x3A 0 0 0 3]
  | .sTlbinv a b => [fA 0x3B 0 a.toNat b.toNat 0]
  | .sKeyld a b => [fA 0x3B 0 a.toNat b.toNat 1]
  | .sSwapout a => [fA 0x3B 0 a.toNat 0 2]
  | .sSwapin a => [fA 0x3B 0 a.toNat 0 3]
  | .sParkres a => [fA 0x3B 0 a.toNat 0 4]
  | .sParkkill a => [fA 0x3B 0 a.toNat 0 5]
  | .nIadd n => [node 0x00 n]
  | .nIsub n => [node 0x01 n]
  | .nImul n => [node 0x02 n]
  | .nImulh n => [node 0x03 n]
  | .nImad n => [node 0x04 n]
  | .nIabs n => [node 0x05 n]
  | .nIneg n => [node 0x06 n]
  | .nImin n => [node 0x07 n]
  | .nImax n => [node 0x08 n]
  | .nAnd n => [node 0x09 n]
  | .nOr n => [node 0x0A n]
  | .nXor n => [node 0x0B n]
  | .nNot n => [node 0x0C n]
  | .nShl n => [node 0x0D n]
  | .nShr n => [node 0x0E n]
  | .nSar n => [node 0x0F n]
  | .nRot n => [node 0x10 n]
  | .nPopc n => [node 0x11 n]
  | .nClz n => [node 0x12 n]
  | .nBfx n => [node 0x13 n]
  | .nBfi n => [node 0x14 n]
  | .nSadd n => [node 0x15 n]
  | .nSsub n => [node 0x16 n]
  | .nFadd n => [node 0x20 n]
  | .nFsub n => [node 0x21 n]
  | .nFmul n => [node 0x22 n]
  | .nFfma n => [node 0x23 n]
  | .nFmin n => [node 0x24 n]
  | .nFmax n => [node 0x25 n]
  | .nFsgn n => [node 0x26 n]
  | .nFrcp n => [node 0x27 n]
  | .nFrsq n => [node 0x28 n]
  | .nFsqrt n => [node 0x29 n]
  | .nFdiv n => [node 0x2A n]
  | .nFexp2 n => [node 0x2B n]
  | .nFlog2 n => [node 0x2C n]
  | .nCmp n => [node 0x40 n]
  | .nSel n => [node 0x41 n]
  | .nMand n => [node 0x42 n]
  | .nMor n => [node 0x43 n]
  | .nMnot n => [node 0x44 n]
  | .nAny n => [node 0x45 n]
  | .nAll n => [node 0x46 n]
  | .nLperm n => [node 0x47 n]
  | .nLbcast n => [node 0x48 n]
  | .nLrot n => [node 0x49 n]
  | .nLred n => [node 0x4A n]
  | .nLscan n => [node 0x4B n]
  | .nCvt n => [node 0x50 n]
  | .nPack n => [node 0x51 n]
  | .nUnpack n => [node 0x52 n]
  | .nLut n => [node 0x53 n]
  | .nBmax n => [node 0x54 n]
  | .nDelay n => [node 0x55 n]
  | .nBfly n => [node 0x56 n]
  | .nQnt n => [node 0x57 n]
  | .nDqnt n => [node 0x58 n]
  | .nSteer n => [node 0x60 n]
  | .nMerge n => [node 0x61 n]
  | .nGate n => [node 0x62 n]
  | .nCopy n => [node 0x63 n]
  | .nConst n => [node 0x64 n]
  | .nEntry n => [node 0x65 n]
  | .nExit n => [node 0x66 n]
  | .nLoop n => [node 0x67 n]
  | .nSink n => [node 0x68 n]
  | .nSpawn n => [node 0x69 n]
  | .nReturn n => [node 0x6A n]
  | .nTsend n => [node 0x6B n]
  | .nPshift n => [node 0x70 n]
  | .nPzrot n => [node 0x71 n]
  | .nPld n => [node 0x72 n]
  | .nPst n => [node 0x73 n]
  | .nPquiet n => [node 0x74 n]
  | .nRule n => [node 0x75 n]
  | .nLd n => [node 0x80 n]
  | .nSt n => [node 0x81 n]
  | .nLdv n => [node 0x82 n]
  | .nStv n => [node 0x83 n]
  | .nLdl n => [node 0x84 n]
  | .nStl n => [node 0x85 n]
  | .nPref n => [node 0x86 n]
  | .nOrdt n => [node 0x87 n]
  | .nWaitw n => [node 0x88 n]
  | .nLdt n => [node 0x89 n]
  | .nStt n => [node 0x8A n]
  | .nRed n => [node 0x90 n]
  | .nLock n => [node 0x91 n]
  | .nUnlock n => [node 0x92 n]
  | .nCas n => [node 0x93 n]
  | .nXchg n => [node 0x94 n]
  | .nFence n => [node 0x95 n]
  | .nBar n => [node 0x96 n]
  | .nTlw n => [node 0x97 n]
  | .nTlr n => [node 0x98 n]
  | .nCopyEngine n => [node 0xA0 n]
  | .nNetw n => [node 0xA1 n]
  | .nMxls n => [node 0xA2 n]
  | .nMxsw n => [node 0xA3 n]
  | .nMxst n => [node 0xA4 n]
  | .nMxacc n => [node 0xA5 n]
  | .nMxq n => [node 0xA6 n]
  | .nRayinj n => [node 0xB0 n]
  | .nRayrcv n => [node 0xB1 n]
  | .nVbuf n => [node 0xB2 n]
  | .nHgf n => [node 0xB3 n]
  | .nHgs n => [node 0xB4 n]
  | .nTex n => [node 0xB5 n]
  | .nDrawend n => [node 0xB6 n]
  | .nCvsend n => [node 0xC0 n]
  | .nCvrecv n => [node 0xC1 n]
  | .nCvchoose n => [node 0xC2 n]
  | .nCvdeleg n => [node 0xC3 n]
  | .nFlags n => [node 0xD0 n]
  | .nTrapn n => [node 0xD1 n]
  | .eQuietSkip => []
  | .eTokenArrival _ => []
  | .eOverflowReturn _ _ _ => []
  | .eIterDraw _ => []
  | .eFrameRetire _ _ => []
  | .eIdentifierHoldExpiry => []
  | .eIterComplete _ => []
  | .eWaveSend _ _ _ => []
  | .eElementSwitch _ _ _ => []
  | .eMemoryRequestAccept _ => []
  | .eMemoryAccessPerform _ => []
  | .eMemTimeoutExpiry _ => []
  | .eKeptResponseExpiry => []
  | .ePageWalk _ _ _ _ _ _ => []
  | .eWatchAdmission _ => []
  | .eBarrierExit => []
  | .eReductionAccept _ => []
  | .eRedWindowClose _ => []
  | .eReductionApply _ => []
  | .eEngineCommandAccept _ => []
  | .eEngineCommandComplete _ => []
  | .eSendCheck _ => []
  | .eDelegationCheck _ => []
  | .eRingDelivery _ => []
  | .eDeliveryRetry => []
  | .eConversationFree => []
  | .eMatrixRowAccept _ => []
  | .eMatrixRowComplete _ => []
  | .eArrayCommandAccept _ => []
  | .eMxlsComplete _ => []
  | .eMxswApply _ => []
  | .eShiftLaneArrival _ => []
  | .eShiftComplete _ _ _ _ _ => []
  | .eRayAccept _ => []
  | .eNodeInjection _ => []
  | .eBoxTest _ => []
  | .eTriangleTest _ => []
  | .eRayComplete _ => []
  | .eSamplerResult _ => []
  | .eDrawWatchdog => []
  | .eDispatch _ => []
  | .eSteal _ => []
  | .ePlaneBind _ _ _ => []
  | .ePlaneBindRecheck _ _ _ => []
  | .eSwapOutStart _ => []
  | .eSwapOutSave _ => []
  | .eSwapIn _ _ _ => []
  | .eIdleWake => []
  | .eUnitRestart _ => []
  | .eDoorbellLaunch _ _ => []
  | .eDoorbellNotify _ _ => []
  | .eHostLaunch _ => []
  | .eNeIncomingWrite _ _ _ _ _ => []
  | .eNeIncomingRead _ _ _ _ => []
  | .eNeRetransmit _ => []
  | .eStandpipeBeat _ => []
  | .eBeatParityCheck => []
  | .eBeatRetry => []
  | .eLaneTest => []
  | .eLaneSwap => []
  | .eStandpipeRetrain _ => []
  | .eRetrainForced => []
  | .eRetrainComplete => []
  | .eLaneFail _ _ => []
  | .eLinkResume _ => []
  | .eDroopStretch => []
  | .eDroopRecover => []
  | .ePowerCapStep _ => []
  | .eModuleReset => []
  | .eFullService => []
  | .eCinjGo _ => []
  | .eLinjWrite _ => []
  | .eKlstatRetrain _ _ => []
  | .eCbdownClear _ _ _ => []
  | .ePartcfgWrite _ => []
  | .ePwrstatRead _ => []
  | .eRegisterWrite _ _ => []
  | .eRemoteAccessArrival _ _ _ _ _ _ _ => []
  | .eHostRequest _ _ _ _ _ => []
  | .ePartitionReset _ => []
  | .eLinkReplay _ _ => []

/-- What the decoder reads from an instruction's words. -/
def decodeWords : List Nat → Option Instr
  | [w] => if w < 2 ^ 32 ∧ Decode.isX w = false then (Decode.seqWord w 0).toOption else (Decode.nodeWord w).toOption
  | [w, x] => (Decode.seqWord w x).toOption
  | _ => none

end Sys2Proof
end

