-- ==== Sys2Proof/Machine/Map.lean ====
section
/-! DEFINITION. Sparse tables: lists of key and value with keys strictly rising, and byte memories of the same form. -/

namespace Sys2Proof.Machine

/-- A sparse table by number. -/
abbrev Map (α : Type) := List (Nat × α)

/-- The entry at a key. -/
def Map.find {α : Type} : Map α → Nat → Option α
  | [], _ => none
  | (k, v) :: t, i => if k = i then some v else Map.find t i

/-- The entry at a key, or a default. -/
def Map.get {α : Type} (m : Map α) (i : Nat) (dflt : α) : α := (m.find i).getD dflt

/-- Sets the entry at a key, in key order. -/
def Map.put {α : Type} : Map α → Nat → α → Map α
  | [], i, v => [(i, v)]
  | (k, w) :: t, i, v => if i < k then (i, v) :: (k, w) :: t else if i = k then (i, v) :: t else (k, w) :: Map.put t i v

/-- Removes the entry at a key. -/
def Map.del {α : Type} (m : Map α) (i : Nat) : Map α := m.filter (fun x => x.1 ≠ i)

/-- Whether a key has an entry. -/
def Map.has {α : Type} (m : Map α) (i : Nat) : Bool := (m.find i).isSome

/-- The values, in key order. -/
def Map.vals {α : Type} (m : Map α) : List α := m.map Prod.snd

namespace Memory

/-- What a byte that nothing has written reads as (log 3). -/
def unlisted : Byte := 0#8

/-- Reads one byte. -/
def read : List Host.Cell → Nat → Byte
  | [], _ => unlisted
  | (k, v) :: t, a => if k = a then v else read t a

/-- Writes one byte, keeping the canonical form. -/
def write : List Host.Cell → Nat → Byte → List Host.Cell
  | [], a, v => if v = unlisted then [] else [(a, v)]
  | (k, w) :: t, a, v =>
    if a < k then (if v = unlisted then (k, w) :: t else (a, v) :: (k, w) :: t)
    else if a = k then (if v = unlisted then t else (a, v) :: t)
    else (k, w) :: write t a v

/-- Every key of the list lies above `a`. -/
def above (a : Nat) : List Host.Cell → Bool
  | [] => true
  | (k, _) :: _ => a < k

/-- The canonical form: addresses strictly rising, no entry equal to what an unlisted address reads as. -/
def wf : List Host.Cell → Bool
  | [] => true
  | (k, v) :: t => above k t && v ≠ unlisted && wf t

end Memory

end Sys2Proof.Machine
end

