-- ==== Sys2Proof/Machine/Cipher.lean ====
section
/-! DEFINITION. The cipher of the HBM controllers (R335): AES-XTS-256 with a data unit of one 64-byte line and the line's number
PA[51:6] as tweak, the first half of a key slot being the data key and the second the tweak key (R184). AES and XTS are those of
the standards that the rule's name refers to (log 4). Bytes are numbers below 256; a block is 16 of them, column by column. -/

namespace Sys2Proof.Machine.Cipher

open Sys2Proof

/-- The substitution of a byte, 32 bytes to a row, byte i of a row at bits 8i. -/
def subRows : List Nat :=
  [0xC072A49CAFA2D4ADF04759FA7DC982CA76ABD7FE2B670130C56F6BF27B777C63,
   0x75B227EBE28012079A059618C323C7041531D871F1E5A534CCF73F362693FDB7,
   0xCF584C4A39BECB6A5BB1FC20ED00D153842FE329B3D63B52A05A6E1B1A2C8309,
   0xD2F3FF1021DAB6BCF5389D928F40A351A89F3C507F02F94585334D43FBAAEFD0,
   0xDB0B5EDE14B8EE4688902A22DC4F816073195D643D7EA7C41744975FEC130CCD,
   0x08AE7A65EAF4566CA94ED58D6D37C8E779E4959162ACD3C25C2406490A3A32E0,
   0x9E1DC186B95735610EF6034866B53E708A8BBD4B1F74DDE8C6B4A61C2E2578BA,
   0x16BB54B00F2D99416842E6BF0D89A18CDF2855CEE9871E9B948ED9691198F8E1]

/-- The inverse substitution. -/
def invRows : List Nat :=
  [0xCBE9DEC444438E3487FF2F9B8239E37CFBD7F3819EA340BF38A53630D56A0952,
   0x25D18B6D49A25B76B224D92866A12E084EC3FA420B954CEE3D23C2A632947B54,
   0x849D8DA75746155EDAB9EDFD5048706C92B6655DCC5CA4D41698688664F6F872,
   0x6B8A130103BDAFC1020F3FCA8F1E2CD00645B3B80558E4F70AD3BC8C00ABD890,
   0x6EDF751CE837F9E28535ADE72274AC9673E6B4F0CECFF297EADC674F4111913A,
   0xF45ACD78FEC0DB9A2079D2C64B3E56FC1BBE18AA0E62B76F89C5291D711AF147,
   0xEF9CC9939F7AE52D0D4AB519A97F51605FEC8027591012B131C7078833A8DD1F,
   0x7D0C2155631469E126D677BA7E042B17619953833CBBEBC8B0F52AAE4D3BE0A0]

/-- A byte through a substitution. -/
def subst (t : List Nat) (x : Nat) : Nat := t.getD (x / 32) 0 / 2 ^ (8 * (x % 32)) % 256

/-- Twice a byte in the field of the cipher. -/
def twice (x : Nat) : Nat := if x < 128 then 2 * x else (2 * x) ^^^ 0x11B

/-- A byte times a constant below 16. -/
def times (c x : Nat) : Nat :=
  let x2 := twice x; let x4 := twice x2
  (if bit c 0 then x else 0) ^^^ (if bit c 1 then x2 else 0) ^^^ (if bit c 2 then x4 else 0) ^^^ (if bit c 3 then twice x4 else 0)

/-- Two byte strings added. -/
def add (a b : List Nat) : List Nat := a.zipWith (· ^^^ ·) b

/-- Byte r + 4c of a block goes to column c − k·r. -/
def turn (k : Nat) (b : List Nat) : List Nat := (List.range 16).map (fun i => b.getD (i % 4 + 4 * ((i / 4 + k * (i % 4)) % 4)) 0)

/-- Each column times a circulant matrix, given by its first row. -/
def mix (m b : List Nat) : List Nat :=
  (List.range 16).map (fun i =>
    (List.range 4).foldl (fun acc j => acc ^^^ times (m.getD ((4 + j - i % 4) % 4) 0) (b.getD (i / 4 * 4 + j) 0)) 0)

/-- The words of the key schedule after the first eight, the newest first. -/
def schedule : Nat → List (List Nat) → List (List Nat)
  | 0, l => l
  | n + 1, l =>
    let i := l.length
    let t := l.getD 0 []
    let t := if i % 8 = 0 then add (((t.drop 1) ++ (t.take 1)).map (subst subRows)) [2 ^ (i / 8 - 1), 0, 0, 0]
             else if i % 8 = 4 then t.map (subst subRows) else t
    schedule n (add (l.getD 7 []) t :: l)

/-- The round keys 0 to 14 of a 32-byte key. -/
def roundKeys (k : List Nat) : List (List Nat) :=
  let w := (schedule 52 ((List.range 8).reverse.map (fun i => (k.drop (4 * i)).take 4))).reverse
  (List.range 15).map (fun r => ((w.drop (4 * r)).take 4).flatten)

/-- One block enciphered under round keys. -/
def encBlock : List (List Nat) → List Nat → List Nat
  | [], b => b
  | k :: t, b =>
    t.zipIdx.foldl (fun b (k, i) =>
      let b := turn 1 (b.map (subst subRows))
      add (if i + 1 = t.length then b else mix [2, 3, 1, 1] b) k) (add b k)

/-- One block deciphered, the round keys given from the last to the first. -/
def decBlock : List (List Nat) → List Nat → List Nat
  | [], b => b
  | k :: t, b =>
    t.zipIdx.foldl (fun b (k, i) =>
      let b := add ((turn 3 b).map (subst invRows)) k
      if i + 1 = t.length then b else mix [14, 11, 13, 9] b) (add b k)

/-- The n bytes of a number, little-endian. -/
def bytesOf (n : Nat) : Nat → List Nat
  | 0 => []
  | k + 1 => n % 256 :: bytesOf (n / 256) k

/-- A tweak times the generator of its field. -/
def nextTweak (t : List Nat) : List Nat :=
  let n := t.foldr (fun x acc => x + 256 * acc) 0
  bytesOf (if n < 2 ^ 127 then 2 * n else (2 * n % 2 ^ 128) ^^^ 0x87) 16

/-- Blocks of a data unit through a block function, each whitened with its tweak. -/
def unitBlocks (f : List Nat → List Nat) : Nat → List Nat → List Nat → List Nat
  | 0, _, _ => []
  | n + 1, t, b => add (f (add (b.take 16) t)) t ++ unitBlocks f n (nextTweak t) (b.drop 16)

/-- The first tweak of a line under a key. -/
def tweak (key : BitVec 512) (ln : Nat) : List Nat := encBlock (roundKeys (bytesOf (key.toNat / 2 ^ 256) 32)) (bytesOf ln 16)

/-- A line as the memory holds it under a key. -/
def encLine (key : BitVec 512) (ln : Nat) (l : List Byte) : List Byte :=
  (unitBlocks (encBlock (roundKeys (bytesOf key.toNat 32))) 4 (tweak key ln) (l.map BitVec.toNat)).map (BitVec.ofNat 8)

/-- A stored line as a key reads it. -/
def decLine (key : BitVec 512) (ln : Nat) (l : List Byte) : List Byte :=
  (unitBlocks (decBlock (roundKeys (bytesOf key.toNat 32)).reverse) 4 (tweak key ln) (l.map BitVec.toNat)).map (BitVec.ofNat 8)

/-- Byte i of a line written under one key and read under another. -/
def recrypt (k0 k : BitVec 512) (ln : Nat) (l : List Byte) (i : Nat) : Byte := (decLine k ln (encLine k0 ln l)).getD i 0#8

end Sys2Proof.Machine.Cipher
end

