-- ==== Sys2Proof/Machine/Num.lean ====
section
/-! DEFINITION. Number formats and their arithmetic (spec/03): floating-point values held exactly as fractions, one
rounding to a type, the rounding modes, stochastic rounding, overflow and the sticky flags. -/

namespace Sys2Proof.Num

open Sys2Proof

/-- Sticky flag bits (Table 3.6). -/
def NV : Nat := 1
def DZ : Nat := 2
def OF : Nat := 4
def UF : Nat := 8
def NX : Nat := 16
def TV : Nat := 32

/-- A floating-point type: exponent bits, fraction bits, bias, and whether it has infinities (Table 3.2). -/
structure Fmt where
  e : Nat
  f : Nat
  bias : Nat
  inf : Bool
  deriving DecidableEq, Repr

/-- Table 3.2 by FMT code. -/
def fmtOf (fmt : Nat) : Fmt :=
  match fmt with
  | 8 => ⟨5, 10, 15, true⟩
  | 9 => ⟨8, 7, 127, true⟩
  | 10 => ⟨8, 23, 127, true⟩
  | 11 => ⟨11, 52, 1023, true⟩
  | 12 => ⟨4, 3, 7, false⟩
  | 13 => ⟨5, 2, 15, true⟩
  | _ => ⟨2, 1, 1, false⟩

/-- Width of a floating-point type in bits. -/
def Fmt.width (t : Fmt) : Nat := 1 + t.e + t.f

/-- A value: NaN (signalling or not), an infinity, or (−1)^neg · n/d with d > 0 and the sign of zero kept. -/
inductive Val where
  | nan (snan : Bool)
  | inf (neg : Bool)
  | fin (neg : Bool) (n d : Nat)
  deriving DecidableEq, Repr

/-- A finite value m·2^k for an exponent given as the difference a − b. -/
def Val.scaled (neg : Bool) (m a b : Nat) : Val := .fin neg (m * 2 ^ (a - b)) (2 ^ (b - a))

/-- The value of a bit pattern (R49, R50). -/
def decode (t : Fmt) (x : Nat) : Val :=
  let neg := bit x (t.e + t.f)
  let ex := x / 2 ^ t.f % 2 ^ t.e
  let fr := x % 2 ^ t.f
  if t.inf ∧ ex = 2 ^ t.e - 1 then
    (if fr = 0 then .inf neg else .nan (!bit fr (t.f - 1)))
  else if !t.inf ∧ t.e = 4 ∧ ex = 15 ∧ fr = 7 then .nan false
  else if ex = 0 then .scaled neg fr 1 (t.bias + t.f)
  else .scaled neg (2 ^ t.f + fr) ex (t.bias + t.f)

/-- The canonical NaN (R50); +0 for a type that has none. -/
def canonNaN (t : Fmt) : Nat :=
  if t.inf then (2 ^ t.e - 1) * 2 ^ t.f + 2 ^ (t.f - 1) else if t.e = 4 then 0x7F else 0

/-- Largest finite magnitude as a bit pattern. -/
def maxFinite (t : Fmt) : Nat :=
  if t.inf then (2 ^ t.e - 1) * 2 ^ t.f - 1 else if t.e = 4 then 0x7E else 2 ^ (t.e + t.f) - 1

/-- A bit pattern with its sign. -/
def withSign (t : Fmt) (neg : Bool) (x : Nat) : Nat := x + (if neg then 2 ^ (t.e + t.f) else 0)

/-- Rounding in progress: the mode of Table 3.4, the element's register S (R56) and the flags raised. -/
structure Rnd where
  mode : Nat
  s : BitVec 32
  fl : Nat
  deriving DecidableEq, Repr

/-- One step of S (R56). -/
def lfsrStep (s : BitVec 32) : BitVec 32 :=
  if s.toNat % 2 = 1 then (s >>> 1) ^^^ 0x80200003#32 else s >>> 1

/-- Raises flags. -/
def Rnd.raise (r : Rnd) (f : Nat) : Rnd := { r with fl := r.fl ||| f }

/-- The step that each live result of a rounding in SR mode takes (R57). -/
def Rnd.step (r : Rnd) : Rnd := if r.mode = 4 then { r with s := lfsrStep r.s } else r

/-- Whether a magnitude k + rem/den, with 0 < rem, rounds up (Table 3.4, R57). -/
def roundsUp (mode : Nat) (s : BitVec 32) (neg : Bool) (k rem den : Nat) : Bool :=
  match mode with
  | 0 => den < 2 * rem || (den = 2 * rem && k % 2 = 1)
  | 1 => false
  | 2 => !neg
  | 3 => neg
  | _ => s.toNat ≤ 2 ^ 32 * rem / den

/-- ⌊log2 (n/d)⌋ for n > 0, as a + b with b subtracted: the pair (a, b) means a − b. -/
def floorLog (n d : Nat) : Int :=
  let e : Int := (Nat.log2 n : Int) - (Nat.log2 d : Int)
  let below := if 0 ≤ e then n < d * 2 ^ e.toNat else n * 2 ^ (-e).toNat < d
  if below then e - 1 else e

/-- n/d in units of 2^q: quotient, remainder, denominator. -/
def quot (n d : Nat) (q : Int) : Nat × Nat × Nat :=
  let n' := if 0 ≤ q then n else n * 2 ^ (-q).toNat
  let d' := if 0 ≤ q then d * 2 ^ q.toNat else d
  (n' / d', n' % d', d')

/-- What an overflowing result becomes: 0 as IEEE 754-2019 for the mode, 1 the largest finite value (Table 3.5 default),
2 as Table 3.5's column MOD[115] = 1. -/
def overflow (t : Fmt) (sat mode : Nat) (neg : Bool) : Nat :=
  if sat = 1 then withSign t neg (maxFinite t)
  else if !t.inf then canonNaN t
  else if mode = 1 ∨ (mode = 2 ∧ neg) ∨ (mode = 3 ∧ !neg) then withSign t neg (maxFinite t)
  else withSign t neg ((2 ^ t.e - 1) * 2 ^ t.f)

/-- One rounding of a finite nonzero magnitude n/d (R51, R57, R58, R60, R61). `exact` is false when n/d already stands for a
value that differs from it. -/
def roundMag (t : Fmt) (sat : Nat) (r : Rnd) (neg : Bool) (n d : Nat) (exact : Bool) : Nat × Rnd :=
  let e := floorLog n d
  let qmin : Int := 1 - (t.bias : Int) - (t.f : Int)
  let q := max (e - t.f) qmin
  let (k, rem, den) := quot n d q
  let k1 := if rem ≠ 0 ∧ roundsUp r.mode r.s neg k rem den then k + 1 else k
  let (u, urem, uden) := quot n d (e - t.f)
  let u1 := if urem ≠ 0 ∧ roundsUp r.mode r.s neg u urem uden then u + 1 else u
  let inexact := rem ≠ 0 ∨ !exact
  -- field value: exponent field and fraction together count units of the subnormal spacing
  let enc : Nat := ((q - qmin).toNat) * 2 ^ t.f + k1
  if maxFinite t < enc then (overflow t sat r.mode neg, r.raise (OF ||| NX))
  else
    let tiny : Bool := if e < 1 - (t.bias : Int) then decide (e + 1 < 1 - (t.bias : Int)) || u1 < 2 ^ (t.f + 1) else false
    let fl := (if inexact then NX else 0) ||| (if inexact ∧ tiny then UF else 0)
    (withSign t neg enc, r.raise fl)

/-- One rounding of a value. A NaN gives the canonical NaN; its flags are the operation's own. -/
def round (t : Fmt) (sat : Nat) (r0 : Rnd) (v : Val) : Nat × Rnd :=
  let r := r0.step
  match v with
  | .nan _ => (canonNaN t, if t.inf ∨ t.e = 4 then r else r.raise NV)
  | .inf neg =>
    if t.inf ∧ sat ≠ 3 then (withSign t neg ((2 ^ t.e - 1) * 2 ^ t.f), r)
    else if t.e = 4 ∧ sat = 2 then (canonNaN t, r)
    else (withSign t neg (maxFinite t), r)
  | .fin neg n d => if n = 0 then (withSign t neg 0, r) else roundMag t sat r neg n d true

/-- A NaN operand that is signalling. -/
def Val.isSnan : Val → Bool
  | .nan s => s
  | _ => false

/-- A NaN operand. -/
def Val.isNan : Val → Bool
  | .nan _ => true
  | _ => false

/-- The sign of a value. -/
def Val.neg : Val → Bool
  | .nan _ => false
  | .inf s => s
  | .fin s _ _ => s

/-- The opposite sign. -/
def Val.negate : Val → Val
  | .nan s => .nan s
  | .inf s => .inf (!s)
  | .fin s n d => .fin (!s) n d

/-- A signed fraction. -/
def Val.ofInt (n : Int) (d : Nat) (zneg : Bool) : Val := .fin (if n = 0 then zneg else n < 0) n.natAbs d

/-- The signed numerator of a finite value. -/
def sgn (neg : Bool) (n : Nat) : Int := if neg then -(n : Int) else n

/-- Exact sum (R193): the sign of an exact zero is + except in RDN. -/
def add (mode : Nat) (a b : Val) : Val × Nat :=
  let nv := if a.isSnan || b.isSnan then NV else 0
  match a, b with
  | .nan _, _ => (.nan false, nv)
  | _, .nan _ => (.nan false, nv)
  | .inf x, .inf y => if x = y then (.inf x, 0) else (.nan false, NV)
  | .inf x, _ => (.inf x, 0)
  | _, .inf y => (.inf y, 0)
  | .fin x n d, .fin y m c =>
    if n = 0 ∧ m = 0 ∧ x = y then (.fin x 0 1, 0)
    else (.ofInt (sgn x n * c + sgn y m * d) (d * c) (mode = 3), 0)

/-- Exact product. -/
def mul (a b : Val) : Val × Nat :=
  let nv := if a.isSnan || b.isSnan then NV else 0
  match a, b with
  | .nan _, _ => (.nan false, nv)
  | _, .nan _ => (.nan false, nv)
  | .inf x, .inf y => (.inf (x != y), 0)
  | .inf x, .fin y m _ => if m = 0 then (.nan false, NV) else (.inf (x != y), 0)
  | .fin x n _, .inf y => if n = 0 then (.nan false, NV) else (.inf (x != y), 0)
  | .fin x n d, .fin y m c => (.fin (x != y) (n * m) (d * c), 0)

/-- Exact quotient (R193). -/
def div (a b : Val) : Val × Nat :=
  let nv := if a.isSnan || b.isSnan then NV else 0
  match a, b with
  | .nan _, _ => (.nan false, nv)
  | _, .nan _ => (.nan false, nv)
  | .inf _, .inf _ => (.nan false, NV)
  | .inf x, .fin y _ _ => (.inf (x != y), 0)
  | .fin x _ _, .inf y => (.fin (x != y) 0 1, 0)
  | .fin x n d, .fin y m c =>
    if m = 0 then (if n = 0 then (.nan false, NV) else (.inf (x != y), DZ))
    else (.fin (x != y) (n * c) (d * m), 0)

/-- ⌊√n⌋, bit by bit from bit k − 1 down. -/
def isqrtFrom : Nat → Nat → Nat → Nat
  | 0, _, acc => acc
  | k + 1, n, acc =>
    let t := acc + 2 ^ k
    isqrtFrom k n (if t * t ≤ n then t else acc)

/-- ⌊√n⌋. -/
def isqrt (n : Nat) : Nat := isqrtFrom (Nat.log2 n / 2 + 1) n 0

/-- √(n/d) as a fraction with enough bits for any rounding of this machine: exact when it is rational, else between two
neighbouring multiples of a spacing 2^−140 of its size. The flag says whether it is exact. -/
def sqrtFrac (n d : Nat) : Nat × Nat × Bool :=
  -- √(n/d) = √(n·d)/d
  let p := n * d
  let k := 140 + Nat.log2 d
  let s := isqrt (p * 2 ^ (2 * k))
  if s * s = p * 2 ^ (2 * k) then (s, d * 2 ^ k, true) else (2 * s + 1, d * 2 ^ (k + 1), false)

/-- One rounding of a value that n/d stands for, which may be inexact. -/
def roundApprox (t : Fmt) (sat : Nat) (r0 : Rnd) (neg : Bool) (n d : Nat) (exact : Bool) : Nat × Rnd :=
  if n = 0 then (withSign t neg 0, r0.step) else roundMag t sat r0.step neg n d exact

/-- FSQRT (R193). -/
def fsqrt (t : Fmt) (r : Rnd) (a : Val) : Nat × Rnd :=
  match a with
  | .nan s => (canonNaN t, if s then r.step.raise NV else r.step)
  | .inf false => round t 0 r a
  | .inf true => (canonNaN t, r.step.raise NV)
  | .fin neg n d =>
    if n = 0 then round t 0 r a
    else if neg then (canonNaN t, r.step.raise NV)
    else let (m, c, ex) := sqrtFrac n d; roundApprox t 0 r false m c ex

/-- n/d cut toward zero to p significant bits, and whether nothing was lost (R195). -/
def truncate (p n d : Nat) (exact : Bool) : Nat × Nat × Bool :=
  let q := floorLog n d - (p : Int) + 1
  let (k, rem, _) := quot n d q
  ((if 0 ≤ q then k * 2 ^ q.toNat else k), (if 0 ≤ q then 1 else 2 ^ (-q).toNat), exact && rem = 0)

/-- The two-step result of R195 for a finite nonzero value that n/d stands for: OF and UF are those of the final rounding. -/
def approx (t : Fmt) (r : Rnd) (neg : Bool) (n d : Nat) (exact : Bool) : Nat × Rnd :=
  let (m, c, ex) := truncate (t.f + 3) n d exact
  let (x, r) := roundMag t 1 r.step neg m c true
  (x, if ex then r else r.raise NX)

/-- FRCP (R195, Table 8.2). -/
def frcp (t : Fmt) (r : Rnd) (a : Val) : Nat × Rnd :=
  match a with
  | .nan s => (canonNaN t, if s then r.step.raise NV else r.step)
  | .inf neg => (withSign t neg 0, r.step)
  | .fin neg n d => if n = 0 then (withSign t neg ((2 ^ t.e - 1) * 2 ^ t.f), r.step.raise DZ) else approx t r neg d n true

/-- FRSQ. -/
def frsq (t : Fmt) (r : Rnd) (a : Val) : Nat × Rnd :=
  match a with
  | .nan s => (canonNaN t, if s then r.step.raise NV else r.step)
  | .inf false => (0, r.step)
  | .inf true => (canonNaN t, r.step.raise NV)
  | .fin neg n d =>
    if n = 0 then (withSign t neg ((2 ^ t.e - 1) * 2 ^ t.f), r.step.raise DZ)
    else if neg then (canonNaN t, r.step.raise NV)
    else let (m, c, ex) := sqrtFrac d n; approx t r false m c ex

/-- 2^(f/2^k) in units of 2^−320 for f < 2^k: the product, over the bits of f from the top, of repeated square roots of 2. -/
def exp2Frac : Nat → Nat → Nat → Nat → Nat
  | 0, _, _, acc => acc
  | k + 1, f, c, acc =>
    let c' := isqrt (c * 2 ^ 320)
    exp2Frac k f c' (if bit f k then acc * c' / 2 ^ 320 else acc)

/-- FEXP2 (R195): 2^x, worked with 320 fraction bits (log 12). -/
def fexp2 (t : Fmt) (r : Rnd) (a : Val) : Nat × Rnd :=
  match a with
  | .nan s => (canonNaN t, if s then r.step.raise NV else r.step)
  | .inf false => (withSign t false ((2 ^ t.e - 1) * 2 ^ t.f), r.step)
  | .inf true => (0, r.step)
  | .fin neg n d =>
    -- d is a power of two 2^k; x = i + f/2^k with 0 ≤ f < 2^k
    let k := Nat.log2 d
    let i : Int := if neg then -((n + d - 1) / d : Nat) else (n / d : Nat)
    let f : Nat := if neg then (d - n % d) % d else n % d
    if 2 ^ 12 < n / d then
      (if neg then approx t r false 1 (2 ^ 5000) false else approx t r false (2 ^ 5000) 1 false)
    else
      let m := if f = 0 then 2 ^ 320 else exp2Frac k f (2 ^ 321) (2 ^ 320)
      approx t r false (if 0 ≤ i then m * 2 ^ i.toNat else m) (2 ^ 320 * (if 0 ≤ i then 1 else 2 ^ (-i).toNat)) (f = 0)

/-- Fraction bits of log2 of y/2^400 in [1, 2), from the top, by repeated squaring. -/
def log2Bits : Nat → Nat → Nat → Nat
  | 0, _, acc => acc
  | k + 1, y, acc =>
    let z := y * y / 2 ^ 400
    if 2 ^ 401 ≤ z then log2Bits k (z / 2) (2 * acc + 1) else log2Bits k z (2 * acc)

/-- FLOG2 (R195), worked with 160 fraction bits of the logarithm (log 12). -/
def flog2 (t : Fmt) (r : Rnd) (a : Val) : Nat × Rnd :=
  match a with
  | .nan s => (canonNaN t, if s then r.step.raise NV else r.step)
  | .inf false => (withSign t false ((2 ^ t.e - 1) * 2 ^ t.f), r.step)
  | .inf true => (canonNaN t, r.step.raise NV)
  | .fin neg n d =>
    if n = 0 then (withSign t true ((2 ^ t.e - 1) * 2 ^ t.f), r.step.raise DZ)
    else if neg then (canonNaN t, r.step.raise NV)
    else
      let e := floorLog n d
      let y := (if 0 ≤ e then n * 2 ^ 400 / (d * 2 ^ e.toNat) else n * 2 ^ (400 + (-e).toNat) / d)
      if y = 2 ^ 400 then
        (if e = 0 then (0, r.step) else approx t r (e < 0) e.natAbs 1 true)
      else
        let l := log2Bits 160 y 0
        if 0 ≤ e then approx t r false (e.toNat * 2 ^ 160 + l) (2 ^ 160) false
        else approx t r true ((-e).toNat * 2 ^ 160 - l - 1) (2 ^ 160) false

/-- The order of two values that are not NaN: −0 equals +0. -/
def cmp (a b : Val) : Ordering :=
  match a, b with
  | .inf x, .inf y => if x = y then .eq else if x then .lt else .gt
  | .inf x, _ => if x then .lt else .gt
  | _, .inf y => if y then .gt else .lt
  | .fin x n d, .fin y m c => compare (sgn x n * c) (sgn y m * d)
  | _, _ => .eq

/-- `a` orders below `b` with −0 below +0 (R194). -/
def below (a b : Val) : Bool :=
  match cmp a b with
  | .lt => true
  | .gt => false
  | .eq => a.neg && !b.neg

/-- FMIN and FMAX (R194): the operand's bits, and NV for a signalling NaN. -/
def fminmax (t : Fmt) (isMax : Bool) (x y : Nat) : Nat × Nat :=
  let a := decode t x; let b := decode t y
  let nv := if a.isSnan || b.isSnan then NV else 0
  if a.isNan && b.isNan then (canonNaN t, nv)
  else if a.isNan then (y, nv)
  else if b.isNan then (x, nv)
  else if below a b != isMax then (x, nv) else (y, nv)

/-- FSGN (R194): the magnitude of the first with the sign of the second. -/
def fsgn (t : Fmt) (x y : Nat) : Nat × Nat :=
  let a := decode t x
  let nv := if a.isSnan || (decode t y).isSnan then NV else 0
  if a.isNan then (canonNaN t, nv) else (withSign t (bit y (t.e + t.f)) (x % 2 ^ (t.e + t.f)), nv)

/-- FADD, FSUB, FMUL, FDIV (R193). -/
def fbin (t : Fmt) (op : Nat) (r : Rnd) (x y : Nat) : Nat × Rnd :=
  let a := decode t x; let b := decode t y
  let (v, f) := match op with
    | 0x20 => add r.mode a b
    | 0x21 => add r.mode a b.negate
    | 0x22 => mul a b
    | _ => div a b
  round t 0 (r.raise f) v

/-- FFMA (R193): one rounding; ∞ × 0 is invalid even with a quiet NaN addend. -/
def ffma (t : Fmt) (r : Rnd) (x y w : Nat) : Nat × Rnd :=
  let (p, f) := mul (decode t x) (decode t y)
  let c := decode t w
  let f1 := f ||| (if c.isSnan then NV else 0)
  let (v, f2) := add r.mode p c
  round t 0 (r.raise (f1 ||| f2)) v

/-- A signed value from b bits. -/
def toInt (b x : Nat) : Int := if 2 ^ (b - 1) ≤ x % 2 ^ b then (x % 2 ^ b : Nat) - (2 ^ b : Nat) else (x % 2 ^ b : Nat)

/-- An integer reduced modulo 2^b. -/
def ofInt (b : Nat) (v : Int) : Nat := (v % (2 ^ b : Nat)).toNat

/-- Signed integer FMT codes. -/
def signed (fmt : Nat) : Bool := fmt < 4

/-- An element of an integer FMT as an integer. -/
def intVal (fmt x : Nat) : Int :=
  let b := NodeCheck.width fmt
  if signed fmt then toInt b x else (x % 2 ^ b : Nat)

/-- The range of an integer FMT (R48). -/
def intRange (fmt : Nat) : Int × Int :=
  let b := NodeCheck.width fmt
  if signed fmt then (-(2 ^ (b - 1) : Nat), (2 ^ (b - 1) : Nat) - 1) else (0, (2 ^ b : Nat) - 1)

/-- An integer clamped to a range, and whether it was clamped. -/
def clamp (lo hi v : Int) : Int × Bool := if v < lo then (lo, true) else if hi < v then (hi, true) else (v, false)

/-- A fraction rounded to an integer by the mode (R59), and whether it was inexact. -/
def roundInt (r : Rnd) (neg : Bool) (n d : Nat) : Int × Bool :=
  let k := n / d; let rem := n % d
  let k1 := if rem ≠ 0 ∧ roundsUp r.mode r.s neg k rem d then k + 1 else k
  (sgn neg k1, rem ≠ 0)

/-- The value of a ternary code and whether it is 0b10 (Table 3.3). -/
def ternVal (x : Nat) : Val × Bool :=
  match x % 4 with
  | 1 => (.fin false 1 1, false)
  | 3 => (.fin true 1 1, false)
  | 2 => (.fin false 0 1, true)
  | _ => (.fin false 0 1, false)

/-- An element of any FMT as a value, with TV for the ternary code 0b10 (R199). -/
def elemVal (fmt x : Nat) : Val × Nat :=
  if fmt < 8 then (.ofInt (intVal fmt x) 1 false, 0)
  else if fmt = 15 then (let (v, b) := ternVal x; (v, if b then TV else 0))
  else (decode (fmtOf fmt) (x % 2 ^ NodeCheck.width fmt), 0)

/-- CVT of one element (R58, R59, R199). `ovf` is MOD[115]. -/
def cvt (dst src : Nat) (ovf : Bool) (r0 : Rnd) (x : Nat) : Nat × Rnd :=
  let b := NodeCheck.width dst
  let (v, tv) := elemVal src x
  let r := r0.raise tv
  if dst < 8 ∧ src < 8 then
    let a := intVal src x
    if ovf then
      let (c, hit) := clamp (intRange dst).1 (intRange dst).2 a
      (ofInt b c, if hit then r.raise OF else r)
    else (ofInt b a, r)
  else if dst < 8 then
    let r := r.step
    let (lo, hi) := intRange dst
    match v with
    | .nan _ => (0, r.raise NV)
    | .inf neg => (ofInt b (if neg then lo else hi), r.raise NV)
    | .fin neg n d =>
      let (k, inx) := roundInt r neg n d
      let (c, hit) := clamp lo hi k
      (ofInt b c, if hit then r.raise NV else if inx then r.raise NX else r)
  else if dst = 15 then
    let r := r.step
    match v with
    | .nan _ => (0, r.raise NV)
    | .inf neg => (if neg then 3 else 1, r)
    | .fin neg n d =>
      let (k, inx) := roundInt r neg n d
      let (c, hit) := clamp (-1) 1 k
      (ofInt 2 c, if hit then r.raise (OF ||| NX) else if inx then r.raise NX else r)
  else
    let t := fmtOf dst
    let r := if v.isSnan then r.raise NV else r
    if dst = src then (if v.isNan then (canonNaN t, r.step) else (x % 2 ^ b, r.step))
    else round t (if ovf then 2 else 1) r v

end Sys2Proof.Num
end

