-- ==== Sys2Proof/Machine/State.lean ====
section
/-! DEFINITION. The machine's state as plain data, the reasons a step can stop, and the state after reset.
A plane is named by a number, its key: 4·(64·die + 8·oy + ox) + physical plane, where (ox, oy) is its region's origin
block. An element is named by 64·y + x on its die. -/

namespace Sys2Proof.Machine

/-- What a sequencer or control core is doing (R41, R182). -/
inductive UnitStatus where
  | idle | running | sleeping | halted
  deriving DecidableEq, Repr

/-- A rectangle of blocks on a die, with the virtual planes its block uses (Table 16.1 REGION). -/
structure Region where
  die : Nat
  ox : Nat
  oy : Nat
  w : Nat
  h : Nat
  vps : Nat
  deriving DecidableEq, Repr

/-- A fault domain's handler: the context and the HANDLER address (R310, R345). -/
structure Domain where
  ctx : Nat
  addr : Word
  deriving DecidableEq, Repr

/-- An agent's horizon (R104): none is TOP. -/
abbrev Horizon := Option (List (Nat × Nat))

/-- One sequencer (0 to 255: 64·die + 8·by + bx) or control core (256 + i). -/
structure UnitSt where
  /-- g0 to g31 (R131); g0 is never read from here. -/
  regs : Vector Word 32
  /-- p0 to p7, bit i for pi (R131). -/
  preds : BitVec 8
  /-- Program counter (R129). -/
  pc : BitVec 57
  status : UnitStatus
  /-- The running record as popped, and the address it was popped from (R39, R165). -/
  record : BitVec 256
  recAddr : Word
  ctx : Nat
  /-- Effective privilege (R310); of a control core, with privilege while it handles a trap (R357). -/
  priv : Bool
  /-- Effective privilege of the running record (Table 16.8). -/
  recPriv : Bool
  /-- The domain that delivered the running record, if it is a handler record (R310). -/
  handler : Option Domain
  /-- Effective level at dispatch (R312, Table 16.8). -/
  elev : Nat
  /-- Region as popped (R314). -/
  region : Option Region
  /-- Names this run of a record as an agent (R85). -/
  serial : Nat
  relGen : Nat
  horizon : Horizon
  /-- Lock-free bookkeeping: timer value at which the unit became idle (R313). -/
  idleAt : Nat
  /-- A conversation send that the unit waits for (R178). -/
  wait : Option Nat
  /-- The record has made no translation yet (R330). -/
  first : Bool
  /-- Control core registers (Tables 18.8 to 18.13). -/
  tvec : Word
  tepc : Word
  tinfo : Word
  tval : Word
  tpend : Word
  tien : Word
  deriving DecidableEq, Repr

/-- A unit after reset. -/
def UnitSt.reset : UnitSt :=
  { regs := Vector.replicate 32 0#64, preds := 0#8, pc := 0#57, status := .idle, record := 0#256, recAddr := 0#64, ctx := 0,
    priv := false, recPriv := false, handler := none, elev := 0, region := none, serial := 0, relGen := 0, horizon := some [], idleAt := 0,
    wait := none, first := false, tvec := 0#64, tepc := 0#64, tinfo := 0#64, tval := 0#64, tpend := 0#64, tien := 0#64 }

/-- Who an access is made for (R85, R385). -/
structure Issuer where
  ctx : Nat
  cbix : Nat
  priv : Bool
  die : Nat
  /-- Plane key, element, node, frame identifier and generation, when a frame issued it. -/
  frame : Option (Nat × Nat × Nat × Nat × Nat)
  /-- The unit, when a record issued it. -/
  unit : Option Nat
  /-- The engine context and command number, when an engine acts for the issuer. -/
  eng : Option (Nat × Nat) := none
  /-- 0 an agent of this module, 1 the host, 2 the network engine for an Ethernet peer, m + 3 remote module m. -/
  far : Nat := 0
  deriving DecidableEq, Repr

/-- A token's value at a port. -/
structure Operand where
  val : Vec
  mask : Mask
  kind : BitVec 4
  deriving DecidableEq, Repr

/-- A token on a route or on the message network (R13, R16). `par` is its 18 parity bits as sent, `due` the fc at whose
end it lands, `src` the link it travels on, and `entry` says that it goes to a slot (false: to an edge port). -/
structure Flight where
  due : Nat
  src : Nat
  plane : Nat
  elem : Nat
  tag : BitVec 42
  pay : Vec
  par : BitVec 18
  deriving DecidableEq, Repr

/-- A waiting caller of a colour (R210). -/
structure Caller where
  plane : Nat
  elem : Nat
  node : Nat
  port : Nat
  /-- Lane select of the destination (R27). -/
  sel : Nat
  frame : Nat
  gen : Nat
  deriving DecidableEq, Repr

/-- How a frame came about (R17, R36). -/
inductive FrameSource where
  | iter | loop | spawn
  deriving DecidableEq, Repr

/-- An activation frame (R17 to R21, R343). -/
structure Frame where
  gen : Nat
  itix : Nat
  /-- Draw order (R23). -/
  order : Nat
  src : FrameSource
  /-- NV, DZ, OF, UF, NX, TV from bit 0 (R21). -/
  flags : BitVec 6
  /-- Copies in which its part has ended (R208). -/
  ended : List Nat
  /-- Successor: identifier and generation (R33). -/
  succ : Option (Nat × Nat)
  caller : Option Caller
  /-- The horizon with which it began, and the horizon and release generation of each copy's agent that has changed either (R85,
  R103, R104). -/
  horizon : Horizon
  agents : Map (Horizon × Nat)
  parked : Bool
  lost : Bool
  /-- Tokens withdrawn while parked, in arrival order (R343): element, tag, payload. -/
  withdrawn : List (Nat × BitVec 42 × Vec)
  /-- A node's result to send on PARKRES (R235, R271): element, node, vector, mask. -/
  resume : List (Nat × Nat × Vec × Mask)
  deriving DecidableEq, Repr

/-- The iteration source of a plane (R34). -/
structure IterSt where
  n0 : Nat
  n1 : Nat
  n2 : Nat
  next : Nat
  running : Bool
  complete : Bool
  horizon : Horizon
  /-- Timer value at the start, and whether it is a draw (R279). -/
  start : Nat
  draw : Bool
  /-- One more than the fc of the last frame drawn, 0 before the first (R34). -/
  drawn : Nat
  deriving DecidableEq, Repr

/-- The states of Table 7.2. -/
inductive PlaneState where
  | empty | loaded | active | draining
  deriving DecidableEq, Repr

/-- A shift fired and not yet complete in an element (R240). -/
structure Shift where
  elem : Nat
  node : Nat
  frame : Nat
  gen : Nat
  at_ : Nat
  /-- The register, named physically. -/
  reg : Nat
  old : Vec
  l : Operand
  halo : Option Operand
  deriving DecidableEq, Repr

/-- A lane group on a shift link (R29, R240). -/
structure LaneGroup where
  due : Nat
  elem : Nat
  node : Nat
  frame : Nat
  gen : Nat
  lanes : List (Nat × BitVec 32)
  /-- The incoming link that holds it, by the direction from which it comes. -/
  link : Nat
  /-- It has arrived. -/
  here : Bool
  deriving DecidableEq, Repr

/-- State of the quantise path of one QNT, DQNT, BMAX, DELAY or BFLY node in one element (R257 to R259). -/
structure QuantSt where
  /-- Next stream index to fire. -/
  next : Nat
  /-- Running maximum (BMAX) or the block's amax or scale in use (QNT, DQNT). -/
  cur : BitVec 64
  /-- Identifier entry latched at load, and the number of BFLY stages ahead of it (R256). -/
  tid : BitVec 512
  stages : Nat
  deriving DecidableEq, Repr

/-- A change that takes effect at the end of the fc (R237, R242, R246). -/
inductive Pending where
  /-- A plane register, named physically, by 32·element + register. -/
  | wreg (k : Nat) (v : Vec)
  | zoff (k z : Nat)
  | quiet (elem : Nat) (q : Bool) (snap : Vec)
  /-- A sticky operand by its key (R24, R171), and the priority setting (R168). -/
  | stick (k : Nat) (v : Operand)
  | prio (n : Nat)
  deriving DecidableEq, Repr

/-- A token in an element's overflow buffer, or spilled from it to memory (R37), with its place in the order of arrivals. -/
structure Waiting where
  elem : Nat
  tag : BitVec 42
  pay : Vec
  mem : Bool
  arr : Nat
  deriving DecidableEq, Repr

/-- A barrier of a frame (R228): node, frame, arrivals (copy, element, L), fc at which every copy exits. -/
structure Bar where
  node : Nat
  frame : Nat
  arrived : List (Nat × Nat × Operand)
  exit : Option Nat
  deriving DecidableEq, Repr

/-- A configuration plane of a region (Table 2.1 and R31). -/
structure Plane where
  state : PlaneState
  ctx : Nat
  cbix : Nat
  priv : Bool
  vp : Nat
  w : Nat
  h : Nat
  /-- Frame size, declared depth, reserve, tile, re-entrant mark, draw-atomic (R31, R279). -/
  f : Nat
  depth : Nat
  minfr : Nat
  tw : Nat
  th : Nat
  reent : Bool
  /-- Node words by 32·(element in the tile, 64·y + x) + node; routes by 256·element + index. -/
  nodes : Map (BitVec 128)
  routes : Map (BitVec 32)
  binds : Map (BitVec 128)
  tree : Map (BitVec 32)
  /-- Tile copies that were not loaded (R354). -/
  skip : List Nat
  /-- Setting of PRIO (R168). -/
  prio : Nat
  drainPrio : Nat
  /-- Frame free list, generations, and hold times (R17, R19). -/
  free : List Nat
  gens : Map Nat
  holds : Map Nat
  frames : Map Frame
  /-- Frames that have retired (not been killed): identifier and generation (R352). -/
  retired : List (Nat × Nat)
  iter : Option IterSt
  /-- Token slots by ((1024·node + frame)·4 + port)·4096 + element. -/
  slots : Map Operand
  /-- When the value in a slot arrived, by the same keys (R343). -/
  slotAt : Map Nat
  /-- Sticky operands by (64·element + 2·node + (0 L, 1 R)). -/
  sticky : Map Operand
  /-- Slot groups bound: element and frame (R18). -/
  groups : List (Nat × Nat)
  /-- Overflowed tokens in arrival order (R37). -/
  ovf : List Waiting
  /-- w0 to w31 by 32·element + register; z offsets by 32·element + ring base (R12, R242). -/
  wregs : Map Vec
  zoff : Map Nat
  /-- Changes of this fc, in order. -/
  pend : List Pending
  /-- Completions of shifts at the end of this fc, by node (R237). -/
  pendShift : List (Nat × Pending)
  /-- Stochastic-rounding registers that have been stepped, and the seed of the rest (R56). -/
  seed : BitVec 32
  lfsr : Map (BitVec 32)
  /-- Quiet bits now and in the previous fc, snapshots, held results (R245). -/
  quiet : Map (Bool × Bool)
  snap : Map Vec
  held : Map (Vec × Mask × BitVec 4)
  /-- Region flag register of the plane (R21). -/
  flags : BitVec 6
  /-- Its value at the start of this fc (R234). -/
  flags0 : BitVec 6
  /-- Region token queue (R211). -/
  tokq : List (Vec × Mask)
  shifts : List Shift
  groupsIn : List LaneGroup
  quant : Map QuantSt
  /-- CMSG tokens waiting at edge ports: binding, conversation key, role, number, vector (R122). -/
  cmsg : List (Nat × Nat × Nat × Nat × Vec)
  bars : List Bar
  /-- SPLICE in progress: the predecessor's key; elements switched; elements that have sent WAVE, with the fc (R35). -/
  pred : Option Nat
  switched : List Nat
  waves : List (Nat × Nat)
  /-- Frozen by OVERFLOW_EXHAUSTED (R351). -/
  frozen : Bool
  discarded : Nat
  /-- Sequence numbers performed or released: frame·2 + (1 for chain 10), copy, number (R93, R94). -/
  seqDone : List (Nat × Nat × Nat)
  /-- Timer value at which it was bound (R315); swap-out: 0 none, 1 chosen, 2 draining (R318). -/
  boundAt : Nat
  swap : Nat
  deriving DecidableEq, Repr

/-- An empty plane. -/
def Plane.reset : Plane :=
  { state := .empty, ctx := 0, cbix := 0, priv := false, vp := 0, w := 1, h := 1, f := 8, depth := 1, minfr := 0, tw := 1, th := 1,
    reent := false, nodes := [], routes := [], binds := [], tree := [], skip := [], prio := 7, drainPrio := 0, free := [], gens := [],
    holds := [], frames := [], retired := [], iter := none, slots := [], slotAt := [], sticky := [], groups := [], ovf := [], wregs := [], zoff := [], pend := [], pendShift := [], seed := 0#32,
    lfsr := [], quiet := [], snap := [], held := [], flags := 0#6, flags0 := 0#6, tokq := [], shifts := [], groupsIn := [], quant := [], cmsg := [],
    bars := [], pred := none, switched := [], waves := [], frozen := false, discarded := 0, seqDone := [],
    boundAt := 0, swap := 0 }

/-- Where a request of a node stands (R215). -/
inductive ReqStage where
  | sent | queued | waiting | held | done
  deriving DecidableEq, Repr

/-- A request that a node has sent to a port, a home node or a unit, with its operands (R215). -/
structure Req where
  plane : Nat
  elem : Nat
  node : Nat
  frame : Nat
  gen : Nat
  opc : Nat
  body : NodeBody
  l : Operand
  r : Operand
  p : Operand
  /-- Port: 128·die + 2·block + unit. -/
  port : Nat
  stage : ReqStage
  /-- fc at which it was sent, or, of a LOCK that waits at another module, at which its time-out ends (R374); order of acceptance. -/
  at_ : Nat
  ord : Nat
  /-- Elements performed, by bit (R216), and the values read so far. -/
  done : Nat
  got : List (Nat × Nat)
  deriving DecidableEq, Repr

/-- A command of an engine context (R96, R175, R249). -/
structure Cmd where
  /-- Context key: 65536·class + 16384·die... as `Handle.key` forms it. -/
  ctxKey : Nat
  csc : Bool
  /-- 0 copy, 1 network, 2 MXLS, 3 MXSW, 4 MXACC, 5 MXQ. -/
  kind : Nat
  num : Option Nat
  block : BitVec 512
  iss : Issuer
  /-- Its issuer's horizon (R104). -/
  horizon : Horizon
  /-- DEST1 of the issuing node, for the number or the result. -/
  body : NodeBody
  l : Operand
  /-- Identifier entries as read on acceptance (R173). -/
  tids : List (BitVec 512)
  /-- Retransmissions made (R380). -/
  tries : Nat
  /-- Elements moved so far, and those read for a tile or carried between two standpipes. -/
  pos : Nat
  buf : List Nat
  leg : Nat
  /-- An error that a beat met: cause, INFO and address. -/
  err : Option (Nat × Nat × Nat)
  stage : ReqStage
  ord : Nat
  deriving DecidableEq, Repr

/-- An engine context (R96). -/
structure EngCtx where
  counter : Nat
  accepted : Nat
  /-- Completed numbers above the counter. -/
  ahead : List Nat
  deriving DecidableEq, Repr

/-- A stationary tile (R247): format, elements in order k + K·column as bit patterns, scales in the same order. -/
structure Tile where
  fmt : Nat
  elems : List Nat
  scales : List Nat
  deriving DecidableEq, Repr

/-- A matrix array (R247 to R249). -/
structure ArraySt where
  active : Option Tile
  shadow : Option Tile
  acc : Map (BitVec 32)
  /-- Column scales latched for the accumulation in progress (R65). -/
  latched : Map (BitVec 16)
  deriving DecidableEq, Repr

/-- A row being gathered or in the array (R249). -/
structure Row where
  plane : Nat
  bind : Nat
  frame : Nat
  gen : Nat
  itix : Nat
  ctxKey : Nat
  /-- The CSC bit of the binding's handle. -/
  csc : Bool
  segs : List (Nat × Nat × NodeBody × Operand)
  total : Nat
  iss : Issuer
  num : Option Nat
  at_ : Nat
  /-- Place in the array's order, once accepted. -/
  ord : Nat
  stage : ReqStage
  deriving DecidableEq, Repr

/-- A pending node or leaf on a ray's traversal stack (R268): address, depth, and the count of triangles left (0: a node). -/
structure RayItem where
  addr : Nat
  depth : Nat
  tris : Nat
  deriving DecidableEq, Repr

/-- A ray (R260 to R271). `node` holds a fetched BVH node awaiting its box test. -/
structure Ray where
  plane : Nat
  elem : Nat
  bind : Nat
  frame : Nat
  gen : Nat
  body : NodeBody
  nodeIx : Nat
  vec : Vec
  l : Operand
  /-- The frame that injected it, as the agent of its reads (R260). -/
  iss : Issuer
  stack : List RayItem
  node : Option (Nat × List Byte)
  best : Nat × Nat × Nat × Nat × Nat × Nat
  nodes : Nat
  tris : Nat
  /-- Error address. -/
  err : Option Nat
  stage : ReqStage
  ended : Bool
  ord : Nat
  deriving DecidableEq, Repr

/-- A kept hash-grid record (R276). -/
structure Keep where
  plane : Nat
  elem : Nat
  node : Nat
  frame : Nat
  gen : Nat
  level : Nat
  tid : BitVec 512
  /-- Point, corner, entry index and weight. -/
  pts : List (Nat × Nat × Nat × Nat)
  deriving DecidableEq, Repr

/-- A reduction contribution (R225 to R227). -/
structure Contrib where
  plane : Nat
  copy : Nat
  bind : Nat
  /-- Tree entry at which it stands; none at the root. -/
  at_ : Option Nat
  va : Nat
  sp : Bool
  val : Nat
  fmt : Nat
  op : Nat
  /-- Scope of the flush's release (R225). -/
  scope : Nat
  ord : Bool
  key : Nat × Nat × Nat
  iss : Issuer
  req : Nat
  /-- Accepted by its first tree node, ready for the sole writer. -/
  accepted : Bool
  ready : Bool
  /-- Order of arrival at the point where it stands. -/
  arr : Nat
  deriving DecidableEq, Repr

/-- An open RED.ord window (R226): its tree node (none at the root), address (2^60 more for the scratchpad) and block of indices. -/
structure Window where
  plane : Nat
  copy : Nat
  bind : Nat
  at_ : Option Nat
  va : Nat
  blk : Nat
  deriving DecidableEq, Repr

/-- An endpoint of a role (Table 5.4, R114). -/
structure Endpoint where
  ctx : Nat
  rbase : Nat
  rlog : Nat
  cons : Nat
  queue : Bool
  module_ : Nat
  die : Nat
  rbx : Nat
  rby : Nat
  plane : Nat
  eport : Nat
  cbix : Nat
  /-- Deliveries made, roles of those that no ARM.conv has counted, and a failing access awaiting retry. -/
  made : Nat
  uncounted : List Nat
  failing : Bool
  deriving DecidableEq, Repr

/-- A conversation slot (R113). -/
structure Conv where
  gen : BitVec 8
  open_ : Bool
  closing : Bool
  state : Nat
  sends : Nat
  scope : Nat
  owner : Nat
  ownerCbix : Nat
  region : Option Region
  part : Nat
  /-- The image's address and bytes (R112). -/
  imageAt : Nat
  image : Nat
  /-- Endpoints that have been bound, and the one each role is bound to now. -/
  eps : List Endpoint
  roles : List (Option Nat)
  deriving DecidableEq, Repr

/-- A send, a delegation or a CVCLOSE awaiting its check (R117, R124, R125). -/
structure Send where
  iss : Issuer
  body : NodeBody
  l : Operand
  handle : Word
  role : Nat
  kind : Nat
  choose : Bool
  deleg : Bool
  payload : List Byte
  /-- Endpoint descriptor's address of a delegation. -/
  desc : Word
  /-- The register that takes the answer, for a CVCLOSE, which takes its place among delegations (R117). -/
  close : Option (BitVec 5)
  /-- The role register's number and its value at the firing, for a frame. -/
  reg : Nat
  /-- fc of arrival at the engine, end of its time-out at another module (R374), and order; refused, and waiting for PARKRES
  (R119). -/
  at_ : Nat
  due : Nat
  ord : Nat
  held : Bool
  deriving DecidableEq, Repr

/-- A message accepted for a role and not yet delivered (R121). -/
structure Delivery where
  conv : Nat
  role : Nat
  num : Nat
  /-- Table 5.6, the payload's address excepted. -/
  vec : Vec
  payload : List Byte
  /-- The endpoint whose ring holds it already, and its payload's address there, for a message that its edge port returned
  (R167, R361). -/
  wrote : Option (Nat × Nat) := none
  deriving DecidableEq, Repr

/-- Registers with which a record resumes (R348, R386). -/
structure Resume where
  pc : BitVec 57
  regs : List Word
  preds : BitVec 8
  deriving DecidableEq, Repr

/-- A record in a queue (R311). -/
structure QRec where
  record : BitVec 256
  addr : Word
  ctx : Nat
  estamp : Nat
  handler : Option Domain
  resume : Option Resume
  /-- g3 to g10 of a handler delivered without a written record (R386). -/
  args : List Word
  /-- Its place in the order of queueing (R312). -/
  ord : Nat
  deriving DecidableEq, Repr

/-- An event a record is armed on (R164). -/
inductive ArmKind where
  | iter (plane : Nat)
  | tl (ctxKey n : Nat)
  | watch (pa : Nat) (v : Word)
  | conv (key ep role : Nat) (gen : BitVec 8)
  deriving DecidableEq, Repr

/-- An armed event. -/
structure Arm where
  /-- The die whose event table holds it; 4 for the hub. -/
  die : Nat
  ctx : Nat
  addr : Word
  kind : ArmKind
  deriving DecidableEq, Repr

/-- A live control block (R308, R309). -/
structure Block where
  level : Nat
  parent : Nat
  blocks : Nat
  frames : Nat
  ectx : Nat
  /-- Bound virtual planes and their keys (R315). -/
  binds : Map Nat
  /-- The block's 256 bytes as the walker last read them, its PARENT as first read (R308). -/
  image : Nat
  deriving DecidableEq, Repr

/-- The fault record of Table 18.2. -/
structure FaultRec where
  aux : Nat := 0
  addr : Nat := 0
  info : Nat := 0
  done : Nat := 0
  itix : Nat := 0
  cause : Nat := 0
  cbix : Nat := 0
  ctx : Nat := 0
  kind : Nat := 0
  state : Nat := 0
  lost : Bool := false
  multi : Bool := false
  die : Nat := 0
  pplane : Nat := 0
  vplane : Nat := 0
  x : Nat := 0
  y : Nat := 0
  node : Nat := 0
  frame : Nat := 0
  gen : Nat := 0
  seq : Nat := 0
  chain : Nat := 0
  region : Nat := 0
  deriving DecidableEq, Repr

/-- A frame fault met in this fc, which parks its frame at the end of it (R343, R344). `port` is 1 + 16·block + unit of the
port that met it, 0 for none. -/
structure Parking where
  plane : Nat
  frame : Nat
  gen : Nat
  port : Nat
  frec : FaultRec
  deriving DecidableEq, Repr

/-- What a hardware record at an address is (R186). -/
inductive ParkKind where
  | frame (plane frame gen : Nat)
  /-- A trapped record as popped, its address, where it resumes, and the domain that delivered it. -/
  | trap (record : BitVec 256) (addr : Word) (pc : BitVec 57) (handler : Option Domain)
  | report
  deriving DecidableEq, Repr

/-- A fault record or trap-frame slot that hardware holds (R186, R347). -/
structure Park where
  ctx : Nat
  addr : Word
  kind : ParkKind
  dom : Option Domain
  live : Bool
  multi : Bool
  /-- The address of a translation fault, at which PARKRES walks again (R329). -/
  again : Option Nat
  deriving DecidableEq, Repr

/-- A saved plane (R318): the plane as saved, by block and virtual plane. -/
structure Saved where
  /-- Key of the plane when it was saved. -/
  key : Nat
  ctx : Nat
  cbix : Nat
  vp : Nat
  plane : Plane
  region : Region
  /-- Elements whose data was saved with it, by their old numbers, and the data (R316). -/
  els : List Nat
  edata : List Host.Cell
  restoring : Bool
  /-- Frames that PARKKILL has named meanwhile, with their generations (R318, R356). -/
  kills : List (Nat × Nat)
  deriving DecidableEq, Repr

/-- A first-level or second-level TLB entry (R328). -/
structure TlbEntry where
  tlb : Nat
  ctx : Nat
  /-- Virtual page number in 4 KiB units and log2 of the page size in them. -/
  vpn : Nat
  size : Nat
  leaf : BitVec 64
  /-- Key slot chosen at translation (R335). -/
  slot : Nat
  deriving DecidableEq, Repr

/-- An entry of a race-watch directory (R103): the last write to the granule and the last release stored there. -/
structure RaceEntry where
  granule : Nat
  writer : Nat
  gen : Nat
  bytes : Nat
  atomic : Bool
  scope : Nat
  /-- Who wrote, for the scope sets of R105. -/
  wiss : Issuer
  /-- Releaser, its release generation and its horizon. -/
  rel : Option (Nat × Nat × Horizon)
  deriving DecidableEq, Repr

/-- A lock token that is held or waited for (R102). -/
structure LockSt where
  holder : Option (Nat × Nat × Nat)
  fifo : List Nat
  deriving DecidableEq, Repr

/-- A LOCK of another module that waits in a token's FIFO (R102, R107): the module, the request's identifier, the agent there, and the
partition of the lock's home. -/
structure FarLock where
  src : Nat
  id : Nat
  agent : Nat
  part : Nat
  deriving DecidableEq, Repr

/-- A standpipe (R366 to R370). -/
structure Pipe where
  /-- Lanes mapped to spares, in order: the spare is 2,112 and the place. -/
  swaps : List Nat
  down : Bool
  /-- The beat in transit: its command, bank, and the elements that it carries, as width and values. -/
  beat : Option (Nat × Nat × Nat × List Nat)
  /-- fc at which it last left; it has failed; its retries, failing groups, the failing lanes that a test found, and the lanes that its
  sequence has swapped. -/
  at_ : Nat
  failed : Bool
  retries : Nat
  failing : List Nat
  found : List Nat
  swapped : List Nat
  /-- Retraining, and the timer value since which it is deferred. -/
  training : Bool
  deferred : Option Nat
  deriving DecidableEq, Repr

/-- A kept response of a remote request (R108), and the fc at which it is forgotten (R374). -/
structure Kept where
  src : Nat
  id : Nat
  data : Word
  at_ : Nat
  deriving DecidableEq, Repr

/-- An element of a request to another module whose response has not come (R108): the request, the element, what the home keeps of
it once it is performed, the fc at which its time-out ends, or the home forgets it (R374), and whether it is still waited for. -/
structure Late where
  req : Nat
  elt : Nat
  val : Option Nat
  at_ : Nat
  waits : Bool
  deriving DecidableEq, Repr

/-- Where a firing takes place. -/
structure Site where
  plane : Nat
  elem : Nat
  frame : Nat
  node : Nat
  deriving DecidableEq, Repr

/-- What moves next: a sequencer or control core, a node of an element, or another agent. -/
inductive Act where
  | unit (u : Nat)
  | fire (s : Site)
  | event (i : Instr)
  deriving DecidableEq, Repr

/-- The whole machine. -/
structure State where
  /-- Model's own: who moves next, the current unit, the firing site (log 6). -/
  agenda : List Act
  cur : Nat
  site : Site
  /-- Fabric clock, reference timer in µs (R4), counters of free values and of fresh names (log 6, 7). -/
  fc : Nat
  timer : Nat
  draws : Nat
  fresh : Nat
  /-- Tokens that have arrived so far: the order of arrivals (R37, R343). -/
  arrivals : Nat
  units : Map UnitSt
  /-- Physical memory and element data (by 28672·(4096·die + element) + offset). -/
  mem : List Host.Cell
  edata : List Host.Cell
  edOwner : Map Nat
  /-- Key of each 64-byte HBM line as last written, by line number (R335). -/
  lineKey : Map (BitVec 512)
  keys : Map (BitVec 512)
  tlb : List TlbEntry
  /-- Control registers by 65536·partition + number, and RWL locks. -/
  csrs : Map Word
  locks : List Nat
  /-- Tensor identifiers by 256·context + identifier. -/
  tids : Map (BitVec 512)
  blocks : Map Block
  queues : Map (List QRec)
  /-- Round-robin cycles (R312), by 8·die + level, or 8·(4 + partition) + level: block key and deficit, next first. -/
  cycles : Map (List (Nat × Nat))
  /-- Records that wait in memory with JOIN > 0: context, address, control block (R40). -/
  waiting : List (Nat × Word × Nat)
  arms : List Arm
  /-- Arms whose condition has held and whose decrement is not yet applied (R164). -/
  trig : List Arm
  planes : Map Plane
  saved : List Saved
  /-- Role registers by 8·(256·context + region) + n, where region is 64·die + 8·oy + ox (R115). -/
  roles : Map Word
  flights : List Flight
  reqs : Map Req
  engs : Map EngCtx
  cmds : Map Cmd
  arrays : Map ArraySt
  rows : Map Row
  rays : Map Ray
  keeps : List Keep
  contribs : Map Contrib
  windows : Map Window
  convs : Map Conv
  sends : Map Send
  deliveries : Map Delivery
  tokens : Map LockSt
  farLocks : Map FarLock
  races : List RaceEntry
  parks : List Park
  parking : List Parking
  slotsHost : Map Byte
  /-- Doorbells waiting, per window. -/
  bells : Map (List Nat)
  flips : Map (List Nat)
  poison : List Nat
  /-- Remap entries of banks whose three copies are not all readable and equal, by 2^19·bank + entry: what each copy reads as
  (R369). -/
  remap : Map (List (Option Word))
  /-- The 8 entries that each bank's remap cache holds, last used first (R369). -/
  remapCache : Map (List Nat)
  pipes : Map Pipe
  kept : Map Kept
  late : List Late
  /-- Landing words last written by an engine command, by physical address: engine context and command number (R104). -/
  landed : Map (Nat × Nat)
  /-- Links paused for a step (R373), and replays counted in the current µs. -/
  paused : List Nat
  replays : Map (Nat × Nat)
  /-- Elements that have fired in this fc, by 4096·die + element (R23). -/
  fired : List Nat
  /-- Plane-round-robin pointer of each element (R23). -/
  rr : Map Nat
  deriving DecidableEq, Repr

/-- The reasons a step can stop as a fault. The manual gives every case of this machine an outcome, a trap, a parked frame
or a report, so no step of this model ends so; the type has the one constructor that the interface needs. -/
inductive Fault where
  /-- Raised by nothing. Safe. -/
  | none
  deriving DecidableEq, Repr

/-- The reasons a step can be refused. -/
inductive Refusal where
  /-- An instruction that has no meaning yet; raised by an arm of exec only. Safe: the run stops. -/
  | notModelled (mnemonic : String)
  deriving DecidableEq, Repr

/-- The machine right after reset (R383): early service, no record running, memory with nothing listed. -/
def State.reset : State :=
  { agenda := [], cur := 0, site := ⟨0, 0, 0, 0⟩, fc := 0, timer := 0, draws := 0, fresh := 0, arrivals := 0, units := [], mem := [], edata := [],
    edOwner := [], lineKey := [], keys := [], tlb := [], csrs := [], locks := [], tids := [], blocks := [], queues := [], cycles := [],
    waiting := [], arms := [], trig := [], planes := [], saved := [], roles := [], flights := [], reqs := [], engs := [], cmds := [],
    arrays := [], rows := [], rays := [], keeps := [], contribs := [], windows := [], convs := [], sends := [], deliveries := [],
    tokens := [], farLocks := [], races := [], parks := [], parking := [], slotsHost := [], bells := [], flips := [], poison := [], remap := [], remapCache := [],
    pipes := [], kept := [], late := [], landed := [], paused := [], replays := [], fired := [], rr := [] }

end Sys2Proof.Machine
end

