-- ==== Sys2Proof/Machine/Ops.lean ====
section
/-! DEFINITION. The named operations over units, registers, control registers and memory: physical access with keys and
SECDED, translation, control blocks, queues, the fault record, and taking an exception with the return from it. -/

namespace Sys2Proof.Machine

open Sys2Proof

/-- The outcome of a step that goes on. -/
abbrev Out := Host.Outcome State Fault Refusal

/-! The causes: the names and codes of Table 18.1 (R339). -/
namespace Cause
def illegal : Nat := 0x01
def privilege : Nat := 0x02
def service : Nat := 0x03
def align : Nat := 0x04
def range : Nat := 0x05
def config : Nat := 0x06
def badRecord : Nat := 0x07
def cbDepth : Nat := 0x08
def joinZero : Nat := 0x09
def noRegion : Nat := 0x0A
def parkState : Nat := 0x0B
def keyBusy : Nat := 0x0C
def backingFull : Nat := 0x0D
def memTimeout : Nat := 0x0E
def atomicUnsupported : Nat := 0x0F
def trContext : Nat := 0x10
def trFormat : Nat := 0x11
def trNomap : Nat := 0x12
def trPriv : Nat := 0x13
def trFetch : Nat := 0x14
def trWrite : Nat := 0x15
def trCow : Nat := 0x16
def trPa : Nat := 0x17
def trPartition : Nat := 0x18
def race : Nat := 0x20
def lockReentry : Nat := 0x21
def lockState : Nat := 0x22
def lockLeak : Nat := 0x23
def tlAhead : Nat := 0x24
def engineAccess : Nat := 0x25
def engineCmd : Nat := 0x26
def joinUnderflow : Nat := 0x27
def tidInvalid : Nat := 0x28
def tidShape : Nat := 0x29
def mxShape : Nat := 0x2A
def mxSource : Nat := 0x2B
def scaleMismatch : Nat := 0x2C
def rayFormat : Nat := 0x2D
def rayBvh : Nat := 0x2E
def hgNokeep : Nat := 0x2F
def protoInvalid : Nat := 0x30
def cvExhausted : Nat := 0x31
def cvNoRolereg : Nat := 0x32
def cvBind : Nat := 0x33
def cvScope : Nat := 0x34
def cvClosed : Nat := 0x35
def cvNotBound : Nat := 0x36
def cvChoice : Nat := 0x37
def cvLength : Nat := 0x38
def cvOutOfTurn : Nat := 0x39
def cvBusy : Nat := 0x3A
def cvOrphan : Nat := 0x3B
def tokenParity : Nat := 0x40
def tokenCollision : Nat := 0x41
def overflowExhausted : Nat := 0x42
def userTrap : Nat := 0x43
def drawWatchdog : Nat := 0x44
def bankUnavailable : Nat := 0x45
end Cause

/-! Units and registers. -/

/-- A unit's state. -/
def State.unit (s : State) (u : Nat) : UnitSt := s.units.get u UnitSt.reset

/-- Replaces a unit's state. -/
def State.setUnit (s : State) (u : Nat) (x : UnitSt) : State := { s with units := s.units.put u x }

/-- The unit that executes. -/
def State.me (s : State) : UnitSt := s.unit s.cur

/-- Replaces the executing unit's state. -/
def State.setMe (s : State) (x : UnitSt) : State := s.setUnit s.cur x

/-- Reads a general register: g0 gives zero (R131). -/
def UnitSt.g (x : UnitSt) (r : BitVec 5) : Word := if r = 0#5 then 0#64 else x.regs[r.toNat]'r.isLt

/-- Writes a general register: a write to g0 is discarded (R131). -/
def UnitSt.setG (x : UnitSt) (r : BitVec 5) (v : Word) : UnitSt :=
  if r = 0#5 then x else { x with regs := x.regs.set r.toNat v r.isLt }

/-- Reads a predicate: p0 gives true (R131). -/
def UnitSt.p (x : UnitSt) (r : BitVec 3) : Bool := r = 0#3 || x.preds.getLsbD r.toNat

/-- Writes a predicate: a write to p0 is discarded (R131). -/
def UnitSt.setP (x : UnitSt) (r : BitVec 3) (v : Bool) : UnitSt :=
  if r = 0#3 then x
  else { x with preds := (x.preds &&& ~~~(1#8 <<< r.toNat)) ||| (if v then 1#8 <<< r.toNat else 0#8) }

/-- A register of the executing unit. -/
def State.g (s : State) (r : BitVec 5) : Word := s.me.g r

/-- Writes a register of the executing unit. -/
def State.setG (s : State) (r : BitVec 5) (v : Word) : State := s.setMe (s.me.setG r v)

/-- Writes a predicate of the executing unit. -/
def State.setP (s : State) (r : BitVec 3) (v : Bool) : State := s.setMe (s.me.setP r v)

/-- Moves the executing unit's program counter. -/
def State.setPc (s : State) (pc : BitVec 57) : State := s.setMe { s.me with pc := pc }

/-- Steps the program counter past a one-word instruction (R129). -/
def State.adv (s : State) : State := s.setPc (s.me.pc + 4#57)

/-- Steps the program counter past an X form (R129). -/
def State.advX (s : State) : State := s.setPc (s.me.pc + 8#57)

/-- A fresh number. -/
def State.newId (s : State) : Nat × State := (s.fresh, { s with fresh := s.fresh + 1 })

/-- A control core. -/
def isCore (u : Nat) : Bool := 256 ≤ u

/-! Partitions and control registers. -/

/-- The number of partitions (Table 17.10). -/
def State.parts (s : State) : Nat := Csr.fld (s.csrs.get 0x0203 0#64) 9 8 + 1

/-- The partition of a die (Table 17.10). -/
def State.partOfDie (s : State) (d : Nat) : Nat :=
  if s.parts = 1 then 0 else Csr.fld (s.csrs.get 0x0203 0#64) (2 * d + 1) (2 * d)

/-- The partition of a unit (R336). -/
def State.partOfUnit (s : State) (u : Nat) : Nat := if isCore u then (u - 256) % s.parts else s.partOfDie (u / 64)

/-- The partition of a context id (R336). -/
def State.partOfCtx (s : State) (c : Nat) : Nat :=
  (List.range s.parts).foldl (fun acc p => if 65536 * p / s.parts ≤ c then p else acc) 0

/-- Registers kept once: those of the module as a whole, and those of a die. -/
def moduleCsr (n : Nat) : Bool := n = 0x0203 || n = 0x0400 || n = 0x0401 || (Csr.dieOf n).isSome

/-- A control register kept per partition, per die or per module. -/
def State.csr (s : State) (part n : Nat) : Word :=
  s.csrs.get (65536 * (if moduleCsr n then 0 else part) + n) (Csr.reset n)

/-- Writes a control register as it is kept. -/
def State.setCsr (s : State) (part n : Nat) (v : Word) : State :=
  { s with csrs := s.csrs.put (65536 * (if moduleCsr n then 0 else part) + n) v }

/-- A field of FEAT (Table 22.6). -/
def State.feat (s : State) (i : Nat) : Bool := bit (s.csr 0 0x0400).toNat i

/-- Full service is in force. -/
def State.full (s : State) : Bool := s.feat 31

/-- Sets a pending bit on the control cores of a partition where its enable is set (R358). -/
def State.pend (s : State) (part b : Nat) : State :=
  (List.range 8).foldl (fun s i =>
    let u := 256 + i
    if s.partOfUnit u = part ∧ bit (s.unit u).tien.toNat b then
      s.setUnit u { s.unit u with tpend := (s.unit u).tpend ||| (1#64 <<< b) } else s) s

/-- Time-out of a remote access or conversation response (R374). -/
def State.memto (s : State) (part : Nat) : Nat :=
  let k := (List.range 12).foldl (fun m p =>
    let w := Csr.fld (s.csr part (0x0390 + p)) 3 2
    if w = 3 ∨ s.partOfDie (p / 3) ≠ part then m else max m w) 0
  (s.csr part 0x0102).toNat * 2 ^ k

/-- The fc at which the time-out of an access issued now for a die ends (R374). -/
def State.due (s : State) (die : Nat) : Nat := s.fc + s.memto (s.partOfDie die)

/-! Physical memory. -/

/-- Base of the scratchpads (Table 17.1). -/
def spBase : Nat := 0x9000000000

/-- The address of a scratchpad byte. -/
def spAddr (die off : Nat) : Nat := spBase + 2 ^ 24 * die + off

/-- The targets of Table 17.1. -/
inductive Target where
  | hbm (stack : Nat)
  | cistern (col : Nat)
  | scratch (die : Nat)
  | host
  | remote (m : Nat)
  | hole
  deriving DecidableEq, Repr

/-- Table 17.1. -/
def target (pa : Nat) : Target :=
  if pa < 2 ^ 39 then .hbm (pa / 2 ^ 36)
  else if pa < 2 ^ 39 + 2 ^ 35 then .cistern ((pa - 2 ^ 39) / 2 ^ 28)
  else if spBase ≤ pa ∧ pa < spBase + 2 ^ 26 then .scratch ((pa - spBase) / 2 ^ 24)
  else if 2 ^ 50 ≤ pa ∧ pa < 2 ^ 51 then .host
  else if 2 ^ 51 ≤ pa ∧ pa < 2 ^ 52 then .remote (bits pa 50 39)
  else .hole

/-- The partition of an address's home. -/
def State.homePart (s : State) (pa : Nat) : Nat :=
  match target pa with
  | .hbm k => s.partOfDie (k / 2)
  | .cistern c => s.partOfDie (c / 32)
  | .scratch d => s.partOfDie d
  | _ => 0

/-- TR_PA or TR_PARTITION for a physical address, or none (R325, R383). -/
def State.paCause (s : State) (part pa : Nat) : Option Nat :=
  if !s.full && !(target pa == .hbm 0) then some Cause.trPa
  else match target pa with
    | .hbm k => if !s.feat (19 + k) then some Cause.trPa
                else if s.partOfDie (k / 2) ≠ part then some Cause.trPartition else none
    | .cistern c => if !s.feat 18 then some Cause.trPa
                    else if s.partOfDie (c / 32) ≠ part then some Cause.trPartition else none
    | .scratch d => if s.partOfDie d ≠ part then some Cause.trPartition else none
    | .host => none
    | .remote _ => if s.feat 15 then none else some Cause.trPa
    | .hole => some Cause.trPa

/-- The content of a key slot. -/
def State.key (s : State) (slot : Nat) : BitVec 512 := s.keys.get slot 0#512

/-- The system slot of a partition (R335, R336). -/
def State.sysSlot (s : State) (part : Nat) : Nat := 8192 * part / s.parts

/-- Bytes of a line as stored. -/
def State.line (s : State) (ln : Nat) : List Byte := (List.range 64).map (fun i => Memory.read s.mem (64 * ln + i))

/-- One byte read through a key slot (R335): HBM lines only are encrypted. -/
def State.byteAt (s : State) (slot pa : Nat) : Byte :=
  match target pa, s.lineKey.find (pa / 64) with
  | .hbm _, some k =>
    if k = s.key slot then Memory.read s.mem pa
    else Cipher.recrypt k (s.key slot) (pa / 64) (s.line (pa / 64)) (pa % 64)
  | _, _ => Memory.read s.mem pa

/-- Makes a line one of the given slot before part of it is written (R335). -/
def State.ownLine (s : State) (slot pa : Nat) : State :=
  match target pa with
  | .hbm _ =>
    let ln := pa / 64; let k := s.key slot
    match s.lineKey.find ln with
    | none => { s with lineKey := s.lineKey.put ln k }
    | some k0 =>
      if k0 = k then s
      else
        let l := s.line ln
        { s with
          mem := (List.range 64).foldl (fun m i => Memory.write m (64 * ln + i) (Cipher.recrypt k0 k ln l i)) s.mem,
          lineKey := s.lineKey.put ln k }
  | _ => s

/-- Writes one byte through a key slot. -/
def State.setByte (s : State) (slot pa : Nat) (v : Byte) : State :=
  let s := s.ownLine slot pa
  { s with mem := Memory.write s.mem pa v }

/-- Writes bytes at rising addresses. -/
def State.setBytes (s : State) (slot pa : Nat) : List Byte → State
  | [] => s
  | v :: t => (s.setByte slot pa v).setBytes slot (pa + 1) t

/-- Bytes at rising addresses. -/
def State.bytesAt (s : State) (slot pa n : Nat) : List Byte := (List.range n).map (fun i => s.byteAt slot (pa + i))

/-- A little-endian number from bytes (R2). -/
def leNat : List Byte → Nat
  | [] => 0
  | x :: t => x.toNat + 256 * leNat t

/-- Bytes of a number, little-endian. -/
def leBytes : Nat → Nat → List Byte
  | 0, _ => []
  | k + 1, n => BitVec.ofNat 8 n :: leBytes k (n / 256)

/-- A number in memory. -/
def State.natAt (s : State) (slot pa n : Nat) : Nat := leNat (s.bytesAt slot pa n)

/-! Cistern words (R364, R365, R369). -/

/-- Writes a log register: the entry keeps its first event (R371). -/
def logEvent (old entry : Word) : Word :=
  if bit old.toNat 60 then
    let c := Csr.fld old 55 40
    Csr.setFld (Csr.setFld old 55 40 (if c = 65535 then c else c + 1)) 61 61 1
  else Csr.setFld (Csr.setFld entry 60 60 1) 55 40 1

/-- Records a cistern event in CELOG (Table 20.4). -/
def State.celog (s : State) (type col bank word bitn : Nat) : State :=
  let d := col / 32; let part := s.partOfDie d
  let e := BitVec.ofNat 64 (type * 2 ^ 62 + col % 32 * 2 ^ 35 + bank * 2 ^ 29 + word * 2 ^ 10 + bitn * 8)
  s.setCsr part (0x0380 + d) (logEvent (s.csr part (0x0380 + d)) e)

/-- Bank and word index of a cistern byte (R364). -/
def cisternPlace (pa : Nat) : Nat × Nat × Nat :=
  let o := pa % 2 ^ 28
  ((pa - 2 ^ 39) / 2 ^ 28, bits o 17 12, (bits o 27 18 * 4096 + o % 4096) / 8)

/-- Bit b of a word is data bit b for b < 64, else check bit b − 64 (log 8). -/
def flipData (v : List Byte) (flips : List Nat) : List Byte :=
  leBytes 8 ((flips.filter (· < 64)).foldl (fun x b => if bit x b then x - 2 ^ b else x + 2 ^ b) (leNat v))

/-- What the three copies of a remap entry agree on, if two of them do (R369). -/
def remapAgree (l : List (Option Word)) : Option Word := (l.filterMap id).find? (fun v => 2 ≤ (l.filter (· = some v)).length)

/-- A bank looks up the remap entry of an access (R369). One that its cache does not hold is read from the three copies: a third
copy that differs or cannot be read is rewritten, and without two that agree the bank goes down (log 119). -/
def State.remapVote (s : State) (col bank word : Nat) : State :=
  let part := s.partOfDie (col / 32); let b := 64 * col + bank
  let ix := Config.remapEntry word % 2 ^ 19; let cache := s.remapCache.get b []
  let cached (s : State) : State := { s with remapCache := s.remapCache.put b (ix :: (cache.filter (· ≠ ix)).take 7) }
  if cache.contains ix then cached s
  else match s.remap.find (2 ^ 19 * b + ix) with
    | none => cached s
    | some l => match remapAgree l with
      | some _ =>
        let s := if (l.filterMap id).length = 3 ∧ l.eraseDups.length = 1 then s else s.celog 2 col bank ix 0x7F
        cached { s with remap := s.remap.del (2 ^ 19 * b + ix) }
      | none =>
        let s := s.setCsr part (0x0300 + col) (s.csr part (0x0300 + col) ||| (1#64 <<< bank))
        (s.celog 3 col bank ix 0x7F).pend part 0

/-- Writes a word's data back as its bank decoded it. -/
def State.writeBack (s : State) (w : Nat) (v : List Byte) : State :=
  { s with mem := (s.setBytes 0 (8 * w) v).mem, flips := s.flips.del w }

/-- Poisons a word whose error was detected (R365). -/
def State.poisonWord (s : State) (col bank word w : Nat) : State × Option Nat :=
  ({ (s.celog 1 col bank word 0x7F) with poison := w :: s.poison, flips := s.flips.del w }, some Cause.bankUnavailable)

/-- What the SECDED code makes of word w with the bits given in error (R365): one is corrected, two are detected, more do as
the implementation has it (log 8). -/
def State.secded (s : State) (col bank word w : Nat) : List Nat → State × Option Nat
  | [] => (s, none)
  | [b] => ({ (s.celog 0 col bank word b) with flips := s.flips.del w }, none)
  | [_, _] => s.poisonWord col bank word w
  | l =>
    let k := Config.eccMany s.draws
    let s := { s with draws := s.draws + 1 }
    let bad := flipData (s.bytesAt 0 (8 * w) 8) l
    if k = 0 then (s.writeBack w bad, none)
    else if k = 1 then s.poisonWord col bank word w
    else ((s.celog 0 col bank word ((k - 2) % 72)).writeBack w (flipData bad [(k - 2) % 72]), none)

/-- Decodes a cistern word as a bank does on a read or a partial write (R365), after the remap vote (R369). -/
def State.cisternDecode (s : State) (pa : Nat) : State × Option Nat :=
  match target pa with
  | .cistern col =>
    let (_, bank, word) := cisternPlace pa
    let s := s.remapVote col bank word
    let part := s.partOfDie (col / 32)
    if bit (s.csr part (0x0300 + col)).toNat bank then (s.pend part 0, some Cause.bankUnavailable)
    else if pa / 8 ∈ s.poison then (s, some Cause.bankUnavailable)
    else s.secded col bank word (pa / 8) (s.flips.get (pa / 8) [])
  | _ => (s, none)

/-- Words touched by n bytes at pa. -/
def wordsOf (pa n : Nat) : List Nat := (List.range ((pa + n + 7) / 8 - pa / 8)).map (fun i => pa / 8 + i)

/-- Hardware can read n bytes of a control structure: no word of them in a cistern is poisoned, holds a detected error or lies in a
bank that is down (R365). -/
def State.intact (s : State) (pa n : Nat) : Bool :=
  match target pa with
  | .cistern col => (wordsOf pa n).all (fun w =>
      !bit (s.csr (s.partOfDie (col / 32)) (0x0300 + col)).toNat (cisternPlace (8 * w)).2.1 && !s.poison.contains w &&
      (s.flips.get w []).length ≠ 2)
  | _ => true

/-- Decodes the words of an access one after another; the first cause that one of them raises. -/
def State.decodeWords (s : State) : List Nat → State × Option Nat
  | [] => (s, none)
  | w :: t =>
    let r := s.cisternDecode (8 * w)
    let q := r.1.decodeWords t
    (q.1, r.2 <|> q.2)

/-- Every Kredan link is down: an access to another module then ends by MEM_TIMEOUT (R373). -/
def State.linksDown (s : State) : Bool := (List.range 12).all (fun p => Csr.fld (s.csr 0 (0x0390 + p)) 3 2 = 3)

/-- Reads n bytes at the home node. -/
def State.physRead (s : State) (slot pa n : Nat) : State × Except Nat (List Byte) :=
  match target pa with
  | .cistern _ =>
    match s.decodeWords (wordsOf pa n) with
    | (s, some e) => (s, .error e)
    | (s, none) => (s, .ok (s.bytesAt slot pa n))
  | .remote _ => if s.linksDown then (s, .error Cause.memTimeout) else (s, .ok (s.bytesAt slot pa n))
  | _ => (s, .ok (s.bytesAt slot pa n))

/-- Marks what a performed write wakes: WAITW requests whose word now matches (R99) and ARM.watch records whose word now
differs (R164). -/
def State.watchHook (s : State) (pa n : Nat) : State :=
  let hit (a k : Nat) : Bool := a < pa + n && pa < a + k
  let reqs := s.reqs.map (fun (k, q) =>
    if q.opc = 0x88 ∧ q.stage = .waiting ∧ hit q.done 4 ∧
       leNat ((List.range 4).map (fun i => Memory.read s.mem (q.done + i))) = q.body.operand.toNat
    then (k, { q with stage := .done }) else (k, q))
  let fires (a : Arm) : Bool := match a.kind with
    | .watch p v => hit p 8 && leNat ((List.range 8).map (fun i => Memory.read s.mem (p + i))) ≠ v.toNat
    | _ => false
  { s with reqs := reqs, landed := s.landed.filter (fun x => !hit x.1 4), trig := s.trig ++ s.arms.filter fires, arms := s.arms.filter (fun a => !fires a) }

/-- Writes bytes at the home node. -/
def State.physWrite (s : State) (slot pa : Nat) (v : List Byte) : State × Except Nat Unit :=
  match target pa with
  | .cistern col =>
    let (_, bank, _) := cisternPlace pa
    let whole := pa % 8 = 0 ∧ v.length % 8 = 0
    let part := s.partOfDie (col / 32)
    let s := (wordsOf pa v.length).foldl (fun s w => s.remapVote col bank (cisternPlace (8 * w)).2.2) s
    if bit (s.csr part (0x0300 + col)).toNat bank then (s.pend part 0, .error Cause.bankUnavailable)
    else if whole then
      let ws := wordsOf pa v.length
      let s := { s with poison := s.poison.filter (fun w => !ws.contains w), flips := s.flips.filter (fun f => !ws.contains f.1) }
      ((s.setBytes slot pa v).watchHook pa v.length, .ok ())
    else
      match s.decodeWords (wordsOf pa v.length) with
      | (s, some e) => (s, .error e)
      | (s, none) => ((s.setBytes slot pa v).watchHook pa v.length, .ok ())
  | .remote _ =>
    if s.linksDown then (s, .error Cause.memTimeout) else ((s.setBytes slot pa v).watchHook pa v.length, .ok ())
  | _ => ((s.setBytes slot pa v).watchHook pa v.length, .ok ())

/-! Contexts and translation (spec/17). -/

/-- A field of a context descriptor, by byte offset and length (Table 17.4). -/
def State.desc (s : State) (ctx off n : Nat) : Nat :=
  let part := s.partOfCtx ctx
  s.natAt (s.sysSlot part) ((s.csr part 0x0200).toNat + 64 * ctx + off) n

/-- A context is live while its STATE is 2 (R330). -/
def State.ctxLive (s : State) (ctx : Nat) : Bool := ctx < 65536 && s.desc ctx 11 1 = 2

/-- A translation: physical address, key slot, watch bit. -/
structure Tr where
  pa : Nat
  slot : Nat
  watch : Bool
  deriving DecidableEq, Repr

/-- Permission causes of a leaf (R327). -/
def leafCause (leaf : Nat) (wr fe priv : Bool) : Option Nat :=
  if bit leaf 4 && !priv then some Cause.trPriv
  else if fe && !bit leaf 3 then some Cause.trFetch
  else if wr && !bit leaf 2 then some (if bit leaf 6 then Cause.trCow else Cause.trWrite)
  else none

/-- A context's own key slot (Table 17.4). -/
def State.ctxSlot (s : State) (ctx : Nat) : Nat := s.desc ctx 8 2 % 8192

/-- The share-group entry of a group (Table 17.6). -/
def State.shareGroup (s : State) (part sg : Nat) : Nat := s.natAt (s.sysSlot part) ((s.csr part 0x0201).toNat + 16 * sg) 16

/-- The key slot of a leaf, or none for a share group that is not valid, which faults TR_FORMAT (R333, R335). -/
def State.leafSlot (s : State) (ctx leaf : Nat) : Option Nat :=
  let sg := bits leaf 63 52
  if sg = 0 then some (s.ctxSlot ctx)
  else
    let e := s.shareGroup (s.partOfCtx ctx) sg
    if bit e 15 then some (e % 8192) else none

/-- A key slot lies in the range of a partition (R336). -/
def State.slotIn (s : State) (part slot : Nat) : Bool := 8192 * part / s.parts ≤ slot && slot < 8192 * (part + 1) / s.parts

/-- Log2 of a leaf's page size in 4 KiB units. -/
def leafSize (lvl leaf : Nat) : Nat := if lvl = 0 then (if bit leaf 7 then 4 else 0) else 9 * lvl

/-- The sixteen entries of a 64 KiB page agree (R326). -/
def State.c64Ok (s : State) (slot table ix : Nat) : Bool :=
  let m := ix / 16 * 16
  let e0 := s.natAt slot (table + 8 * m) 8
  bits e0 15 12 = 0 &&
  (List.range 16).all (fun i =>
    let e := s.natAt slot (table + 8 * (m + i)) 8
    bit e 7 && bits e 63 52 = bits e0 63 52 && bits e 7 0 = bits e0 7 0 && bits e 11 10 = bits e0 11 10 &&
    bits e 51 12 = bits e0 51 12 + i)

/-- An entry that TR_FORMAT refuses whether or not it is valid (R326, R327): a reserved bit, a leaf at L3 or L4, a leaf whose PA is
misaligned, C64 above L0. -/
def entryBad (lvl e : Nat) : Bool :=
  bits e 11 10 ≠ 0 ||
  (if bit e 1 then 3 ≤ lvl || bits e 51 12 % 2 ^ (9 * lvl) ≠ 0 || (lvl ≠ 0 && bit e 7)
   else lvl ≠ 0 && (bits e 63 52 ≠ 0 || bits e 9 2 ≠ 0))

/-- One level of the walk and those below it (R327): the cause and level, or the leaf, its level and its address. -/
def State.walkFrom (s : State) (slot : Nat) (va : Nat) : Nat → Nat → Except (Nat × Nat) (Nat × Nat × Nat)
  | lvl, table =>
    let ix := va / 2 ^ (12 + 9 * lvl) % 512
    let ea := table + 8 * ix
    let e := s.natAt slot ea 8
    if !s.intact ea 8 then .error (Cause.bankUnavailable, lvl)
    else if entryBad lvl e || (bit e 1 && lvl = 0 && bit e 7 && !s.c64Ok slot table ix) then .error (Cause.trFormat, lvl)
    else if !bit e 0 then .error (Cause.trNomap, lvl)
    else if bit e 1 then .ok (e, lvl, ea)
    else match lvl with
      | 0 => .error (Cause.trFormat, 0)
      | n + 1 => s.walkFrom slot va n (bits e 51 12 * 4096)

/-- The page walk of a context's tables without its side effects: cause and level, or leaf, level and the leaf's address. -/
def State.walkTables (s : State) (ctx va : Nat) (wr fe priv : Bool) : Except (Nat × Nat) (Nat × Nat × Nat × Nat) :=
    let part := s.partOfCtx ctx
    match s.walkFrom (s.sysSlot part) va 4 (bits (s.desc ctx 0 8) 51 12 * 4096) with
    | .error e => .error e
    | .ok (leaf, lvl, ea) =>
      match s.leafSlot ctx leaf with
      | none => .error (Cause.trFormat, lvl)
      | some slot =>
        match leafCause leaf wr fe priv with
        | some c => .error (c, lvl)
        | none =>
          let size := leafSize lvl leaf
          let base := bits leaf 51 12 / 2 ^ size * 2 ^ size * 4096
          match s.paCause part (base + va % (4096 * 2 ^ size)) with
          | some c => .error (c, lvl)
          | none => if s.slotIn part slot then .ok (leaf, lvl, ea, slot) else .error (Cause.trPartition, lvl)

/-- The page walk of a context, which must be live (R327, R330). -/
def State.walk (s : State) (ctx va : Nat) (wr fe priv : Bool) : Except (Nat × Nat) (Nat × Nat × Nat × Nat) :=
  if !s.ctxLive ctx then .error (Cause.trContext, 4) else s.walkTables ctx va wr fe priv

/-- The first context of a partition, in which TDEF and COWH are translated whether or not it is live (R346). -/
def State.firstCtx (s : State) (part : Nat) : Nat := 65536 * part / s.parts

/-- The walk that hardware makes for its own control structures. -/
def State.walkOwn (s : State) (ctx va : Nat) (wr : Bool) : Except (Nat × Nat) (Nat × Nat × Nat × Nat) :=
  if ctx = s.firstCtx (s.partOfCtx ctx) then s.walkTables ctx va wr false true else s.walk ctx va wr false true

/-- A translation through a cached leaf. -/
def trOf (leaf size slot va : Nat) : Tr :=
  { pa := bits leaf 51 12 / 2 ^ size * 2 ^ size * 4096 + va % (4096 * 2 ^ size), slot := slot, watch := bit leaf 5 }

/-- The entry of a TLB, or of the second level of its die, that holds a page. -/
def State.tlbFind (s : State) (tlb l2 ctx va : Nat) : Option TlbEntry :=
  s.tlb.find? (fun e => (e.tlb = tlb || e.tlb = l2) && e.ctx = ctx && va / 4096 / 2 ^ e.size = e.vpn / 2 ^ e.size)

/-- The number of a second-level TLB: one per fabric die, and 4 for the units of the hub die (log 100). -/
def l2Tlb (die : Nat) : Nat := 10000 + die

/-- The entries that a TLB holds (R328). -/
def tlbCap (tlb : Nat) : Nat := if 10000 ≤ tlb then 16384 else 384

/-- Drops the oldest entries beyond a TLB's capacity (R328). -/
def trimTlb (tlb cap : Nat) (l : List TlbEntry) : List TlbEntry :=
  let (keep, _) := l.foldl (fun (acc, n) e =>
    if e.tlb = tlb then (if n < cap then (acc ++ [e], n + 1) else (acc, n)) else (acc ++ [e], n)) ([], 0)
  keep

/-- Sets A, and D for a write, in the leaf at its address (R327). -/
def State.markLeaf (s : State) (ctx leaf ea : Nat) (wr : Bool) : State :=
  let leaf' := leaf ||| 2 ^ 8 ||| (if wr then 2 ^ 9 else 0)
  if leaf' = leaf then s else s.setBytes (s.sysSlot (s.partOfCtx ctx)) ea (leBytes 8 leaf')

/-- Enters a translation in a TLB and in the second level of a die (R328). -/
def State.fillTlb (s : State) (tlb die ctx va leaf lvl slot : Nat) : State :=
  let e (t : Nat) : TlbEntry := ⟨t, ctx, va / 4096, leafSize lvl leaf, BitVec.ofNat 64 leaf, slot⟩
  let old := s.tlb.filter (fun x => !((x.tlb = tlb || x.tlb = l2Tlb die) && x.ctx = ctx && x.vpn / 2 ^ x.size = va / 4096 / 2 ^ x.size))
  let l2 := l2Tlb die
  { s with tlb := trimTlb l2 (tlbCap l2) (trimTlb tlb (tlbCap tlb) (if tlb = l2 then e l2 :: old else e tlb :: e l2 :: old)) }

/-- A translation by a walk, which fills the TLBs. -/
def State.translateWalk (s : State) (tlb die ctx va : Nat) (wr fe priv : Bool) : State × Except (Nat × Nat) Tr :=
  match s.walk ctx va wr fe priv with
  | .error e => (s, .error e)
  | .ok (leaf, lvl, ea, slot) =>
    let leaf' := leaf ||| 2 ^ 8 ||| (if wr then 2 ^ 9 else 0)
    ((s.markLeaf ctx leaf ea wr).fillTlb tlb die ctx va leaf' lvl slot, .ok (trOf leaf' (leafSize lvl leaf) slot va))

/-- Translates, filling the TLBs after a walk that sets A, and D for a write (R326 to R328). -/
def State.translate (s : State) (tlb die ctx va : Nat) (wr fe priv : Bool) : State × Except (Nat × Nat) Tr :=
  if 2 ^ 57 ≤ va then (s, .error (Cause.range, 0))
  else match s.tlbFind tlb (l2Tlb die) ctx va with
    | none => s.translateWalk tlb die ctx va wr fe priv
    | some e =>
      if wr && !bit e.leaf.toNat 9 && bit e.leaf.toNat 2 then s.translateWalk tlb die ctx va wr fe priv
      else match leafCause e.leaf.toNat wr fe priv with
        | some c => (s, .error (c, e.size / 9))
        | none => (s, .ok (trOf e.leaf.toNat e.size e.slot va))

/-- Drops what TLBs hold of a context's page, so that the next access to it walks (R329). -/
def State.dropPage (s : State) (ctx va : Nat) : State :=
  { s with tlb := s.tlb.filter (fun e => !(e.ctx = ctx && va / 4096 / 2 ^ e.size = e.vpn / 2 ^ e.size)) }

/-- A translation for the hardware's own reads of control structures, with no side effect. -/
def State.peekTr (s : State) (ctx va : Nat) : Option Tr :=
  if 2 ^ 57 ≤ va then none
  else match s.walkOwn ctx va false with
    | .ok (leaf, lvl, _, slot) => some (trOf leaf (leafSize lvl leaf) slot va)
    | .error _ => none

/-- A number that hardware reads from a context's memory. -/
def State.peek (s : State) (ctx va n : Nat) : Option Nat :=
  (s.peekTr ctx va).bind (fun t => if s.intact t.pa n then some (s.natAt t.slot t.pa n) else none)

/-- Sets A in the leaf through which hardware reads a control structure (R326, R327). -/
def State.touch (s : State) (ctx va : Nat) : State :=
  if 2 ^ 57 ≤ va then s
  else match s.walkOwn ctx va false with
    | .ok (leaf, _, ea, _) => s.markLeaf ctx leaf ea false
    | .error _ => s

/-- Writes that hardware makes into a context's memory; none when the page cannot be written. -/
def State.poke (s : State) (ctx va : Nat) (v : List Byte) : Option State :=
  if 2 ^ 57 ≤ va then none
  else match s.walkOwn ctx va true with
    | .ok (leaf, lvl, ea, slot) =>
      let s := s.setBytes (s.sysSlot (s.partOfCtx ctx)) ea (leBytes 8 (leaf ||| 2 ^ 8 ||| 2 ^ 9))
      let t := trOf leaf (leafSize lvl leaf) slot va
      match s.physWrite t.slot t.pa v with
      | (s, .ok _) => some s
      | (_, .error _) => none
    | .error _ => none

/-- The same for a save area, which hardware writes under the system slot of its partition (R335). A byte whose page cannot be
written keeps what it holds (log 25). -/
def State.pokeSys (s : State) (ctx va : Nat) (v : List Byte) : State :=
  if 2 ^ 57 ≤ va then s
  else match s.walkOwn ctx va true with
    | .ok (leaf, lvl, ea, slot) =>
      let sys := s.sysSlot (s.partOfCtx ctx)
      let s' := s.setBytes sys ea (leBytes 8 (leaf ||| 2 ^ 8 ||| 2 ^ 9))
      match s'.physWrite sys (trOf leaf (leafSize lvl leaf) slot va).pa v with
      | (s', .ok _) => s'
      | (_, .error _) => s
    | .error _ => s

/-! Accesses made for an issuer. -/

/-- The die and TLB through which an issuer translates (R328). -/
def Issuer.tlb (i : Issuer) : Nat := match i.unit with
  | some u => u
  | none => l2Tlb i.die

/-- Reads n bytes of virtual memory for an issuer: cause and level, or the bytes. -/
def State.vread (s : State) (i : Issuer) (va n : Nat) : State × Except (Nat × Nat) (List Byte) :=
  match s.translate i.tlb i.die i.ctx va false false i.priv with
  | (s, .error e) => (s, .error e)
  | (s, .ok t) => match s.physRead t.slot t.pa n with
    | (s, .error c) => (s, .error (c, 0))
    | (s, .ok b) => (s, .ok b)

/-- Writes bytes of virtual memory for an issuer. -/
def State.vwrite (s : State) (i : Issuer) (va : Nat) (v : List Byte) : State × Except (Nat × Nat) Unit :=
  match s.translate i.tlb i.die i.ctx va true false i.priv with
  | (s, .error e) => (s, .error e)
  | (s, .ok t) => match s.physWrite t.slot t.pa v with
    | (s, .error c) => (s, .error (c, 0))
    | (s, .ok _) => (s, .ok ())

/-- Reads bytes one at a time, as an engine does at any alignment (R78). -/
def State.vreadAny (s : State) (i : Issuer) (va : Nat) : Nat → State × Except (Nat × Nat) (List Byte)
  | 0 => (s, .ok [])
  | n + 1 =>
    match s.vread i va 1 with
    | (s, .error e) => (s, .error e)
    | (s, .ok b) => match s.vreadAny i (va + 1) n with
      | (s, .error e) => (s, .error e)
      | (s, .ok t) => (s, .ok (b ++ t))

/-! Control blocks (spec/16). A block is read as one number of 256 little-endian bytes (Table 16.1). -/

/-- Key of a block in the table of live blocks. -/
def blockKey (ctx cbix : Nat) : Nat := ctx * 2 ^ 24 + cbix

/-- The address of a context's control block (R307). -/
def State.cbAddr (s : State) (ctx cbix : Nat) : Nat := s.desc ctx 16 8 + 256 * cbix

/-- A control block as memory holds it. -/
def State.cbMem (s : State) (ctx cbix : Nat) : Option Nat :=
  if s.desc ctx 44 4 ≤ cbix then none else s.peek ctx (s.cbAddr ctx cbix) 256

/-- A context's control block: of a live one, what the walker last read (R308). -/
def State.cb (s : State) (ctx cbix : Nat) : Option Nat :=
  match s.blocks.find (blockKey ctx cbix) with
  | some b => some b.image
  | none => s.cbMem ctx cbix

/-- The walker reads a live block again at a dispatch, all but PARENT and LEVEL (R308); one that cannot be read stays as it was
(log 101). -/
def State.rereadBlock (s : State) (ctx cbix : Nat) : State :=
  match s.blocks.find (blockKey ctx cbix), s.cbMem ctx cbix with
  | some b, some m =>
    let s := s.touch ctx (s.cbAddr ctx cbix)
    { s with blocks := s.blocks.put (blockKey ctx cbix) { b with image := m / 2 ^ 32 * 2 ^ 32 + b.image % 2 ^ 32 } }
  | _, _ => s

/-- A block and its ancestors, nearest first (R42). -/
def State.chain (s : State) (ctx : Nat) : Nat → Nat → List (Nat × Nat)
  | 0, _ => []
  | k + 1, c => match s.cb ctx c with
    | none => []
    | some b => (c, b) :: (if bits b 23 0 = c then [] else s.chain ctx k (bits b 23 0))

/-- The block whose own value of an inherited field counts (R42, R309). -/
def effBlock (m : Nat) : List (Nat × Nat) → Nat
  | [] => 0
  | (c, b) :: t => if bits b 23 0 = c ∨ bit b (32 + m) then b else effBlock m t

/-- Effective value of the field [hi:lo] under IMASK bit m. -/
def State.eff (s : State) (ctx cbix m hi lo : Nat) : Nat := bits (effBlock m (s.chain ctx 8 cbix)) hi lo

/-- Effective PRIO, never above an ancestor's (R309). -/
def State.effPrio (s : State) (ctx cbix : Nat) : Nat :=
  (s.chain ctx 8 cbix).foldl (fun acc (c, b) =>
    if bits b 23 0 = c ∨ bit b 36 then min acc (bits b 50 48) else acc) 7

/-- Effective PRIV, with PRIVOK of the context (R310). -/
def State.effPriv (s : State) (ctx cbix : Nat) : Bool :=
  bit (s.desc ctx 10 1) 0 && (s.chain ctx 8 cbix).all (fun (_, b) => bit b 56)

/-- The effective fault-domain handler address, 0 for none. -/
def State.effHandler (s : State) (ctx cbix : Nat) : Nat := s.eff ctx cbix 5 248 192

/-- The effective scope of the fault domain, HSCOPE (R345). -/
def State.effHscope (s : State) (ctx cbix : Nat) : Nat := s.eff ctx cbix 5 259 256

/-- The live block, or one with nothing. -/
def State.block (s : State) (ctx cbix : Nat) : Block := s.blocks.get (blockKey ctx cbix) ⟨0, 0, 0, 0, 0, [], 0⟩

/-- Reserved fields of a control block are zero (R308). -/
def cbClean (b : Nat) : Bool :=
  bits b 127 112 = 0 && bits b 287 272 = 0 && bits b 447 416 = 0 && bits b 1023 792 = 0 && bits b 47 41 = 0 &&
  bits b 55 51 = 0 && bits b 63 58 = 0 && bits b 318 317 = 0 && bits b 298 288 = 0 && bits b 791 786 = 0 &&
  (!bit b 271 || bits b 270 264 = 0)

/-- What a live parent has left of a budget after its other live children (R309). -/
def State.left (s : State) (ctx parent : Nat) (f : Block → Nat) : Nat :=
  f (s.block ctx parent) - ((s.blocks.filter (fun (k, b) => k / 2 ^ 24 = ctx && b.parent = parent && k % 2 ^ 24 ≠ parent)).map
    (fun (_, b) => f b)).sum

/-- Makes a block live when a record first names it (R308, R309): RECORD or CB_DEPTH, or the state. -/
def State.makeLive (s : State) (ctx cbix : Nat) : Except Nat State :=
  if s.blocks.has (blockKey ctx cbix) then .ok s
  else match s.cb ctx cbix with
    | none => .error Cause.badRecord
    | some b =>
      let par := bits b 23 0
      let root := par = cbix
      if !cbClean b || !(root || s.blocks.has (blockKey ctx par)) then .error Cause.badRecord
      else
        let lvl := if root then 0 else (s.block ctx par).level + 1
        if 7 < lvl then .error Cause.cbDepth
        else
          let bud (m hi lo : Nat) (f : Block → Nat) : Nat :=
            if root then bits b hi lo
            else min (if bit b (32 + m) then bits b hi lo else f (s.block ctx par)) (s.left ctx par f)
          let blk : Block :=
            ⟨lvl, par, bud 0 79 64 Block.blocks, bud 1 95 80 Block.frames, bud 2 111 96 Block.ectx, [],
              b % 2 ^ 24 + lvl * 2 ^ 24 + b / 2 ^ 32 % 2 ^ 992 * 2 ^ 32⟩
          let base := s.cbAddr ctx cbix
          let s := (s.poke ctx (base + 3) [BitVec.ofNat 8 lvl]).getD s
          let s := (s.poke ctx (base + 128) (List.replicate 128 0#8)).getD s
          .ok { s with blocks := s.blocks.put (blockKey ctx cbix) blk }

/-- Drops blocks that have stopped being live (R308). -/
def State.reapBlocks (s : State) : State :=
  let named (c b : Nat) : Bool :=
    s.queues.any (fun (_, q) => q.any (fun r => r.ctx = c && bits r.record.toNat 175 152 = b)) ||
    s.waiting.any (fun (x, _, y) => x = c && y = b) ||
    s.units.any (fun (_, u) => u.status ≠ .idle && u.status ≠ .halted && u.ctx = c && bits u.record.toNat 175 152 = b)
  { s with blocks := s.blocks.filter (fun (k, b) =>
      named (k / 2 ^ 24) (k % 2 ^ 24) || b.binds ≠ [] ||
      s.blocks.any (fun (k', b') => k' ≠ k && k' / 2 ^ 24 = k / 2 ^ 24 && b'.parent = k % 2 ^ 24)) }

/-- The region a block grants, or none (R309). -/
def State.grant (s : State) (ctx cbix : Nat) : Option Region :=
  match s.cb ctx cbix with
  | none => none
  | some b =>
    let r := bits b 319 288
    let g : Region := ⟨bits r 28 27, bits r 26 24, bits r 23 21, bits r 20 18 + 1, bits r 17 15 + 1, bits r 14 11⟩
    if !bit r 31 ∨ (s.block ctx cbix).blocks < g.w * g.h ∨ 8 < g.ox + g.w ∨ 8 < g.oy + g.h then none
    else if !s.full ∧ !(g.die = 0 ∧ g.ox = 0 ∧ g.oy = 0 ∧ g.w = 1 ∧ g.h = 1) then none
    else if !s.feat (27 + g.die) ∨ s.partOfDie g.die ≠ s.partOfCtx ctx then none
    else some g

/-! Records and queues (R39, R161, R311). -/

/-- Fields of a continuation record (Table 2.7). -/
def recCptr (r : BitVec 256) : Nat := bits r.toNat 56 0
def recFptr (r : BitVec 256) : Nat := bits r.toNat 120 64
def recJoin (r : BitVec 256) : Nat := bits r.toNat 143 128
def recPri (r : BitVec 256) : Nat := bits r.toNat 146 144
def recCbix (r : BitVec 256) : Nat := bits r.toNat 175 152

/-- Replaces the field [hi:lo] of a record. -/
def recSet (r : BitVec 256) (hi lo v : Nat) : BitVec 256 :=
  let n := r.toNat
  BitVec.ofNat 256 (n / 2 ^ (hi + 1) * 2 ^ (hi + 1) + v % 2 ^ (hi + 1 - lo) * 2 ^ lo + n % 2 ^ lo)

/-- Reserved fields and pointer alignment of a record (R39, R161). -/
def recClean (r : BitVec 256) : Bool :=
  let n := r.toNat
  bits n 255 227 = 0 && bits n 191 176 = 0 && bits n 151 147 = 0 && bits n 127 121 = 0 && bits n 63 57 = 0 &&
  n % 4 = 0 && bits n 66 64 = 0

/-- The queue that a block's effective QUEUE names: 32·die + n, or 128 + partition for the hub queue (R311). -/
def State.queueOf (s : State) (ctx cbix : Nat) : Nat :=
  let q := s.eff ctx cbix 8 271 264
  if bit q 7 then 128 + s.partOfCtx ctx else q % 128

/-- A queue's configuration register (Tables 16.6 and 16.9). -/
def State.qcfg (s : State) (q : Nat) : Nat :=
  if 128 ≤ q then (s.csr (q - 128) 0x0190).toNat else (s.csr (s.partOfDie (q / 32)) (0x0110 + q)).toNat

/-- Spill entries of a context in use: records beyond their rings and armed events beyond a die's table (R347). -/
def State.spillUsed (s : State) (ctx : Nat) : Nat :=
  (s.queues.map (fun (k, q) => ((q.drop (2 ^ bits (s.qcfg k) 7 4)).filter (fun r => r.ctx = ctx)).length)).sum +
  ((List.range 5).map (fun d => (((s.arms.filter (fun a => a.die = d)).drop 4096).filter (fun a => a.ctx = ctx)).length)).sum

/-- Whether a spill entry is free (R347). -/
def State.spillFree (s : State) (ctx : Nat) : Bool := s.spillUsed ctx < (s.desc ctx 40 2 * 4096 - 65536) / 64

/-- Whether queue k can take a further record of a context (R311, R330). -/
def State.queueRoom (s : State) (k ctx : Nat) : Bool :=
  (s.queues.get k []).length < 2 ^ bits (s.qcfg k) 7 4 || s.spillFree ctx

/-- Puts a record into its block's queue, with BPRI and ESTAMP written (R39, R161, R311). -/
def State.enqueue (s : State) (ctx : Nat) (r : BitVec 256) (addr : Word) (h : Option Domain) (res : Option Resume)
    (args : List Word) : State :=
  let cbix := recCbix r
  let pri := min (recPri r) (s.effPrio ctx cbix)
  let r := recSet (recSet (recSet r 146 144 pri) 226 224 pri) 223 192 s.timer
  let k := s.queueOf ctx cbix
  let s := { s with queues := s.queues.put k (s.queues.get k [] ++ [⟨r, addr, ctx, s.timer, h, res, args, s.fresh⟩]), fresh := s.fresh + 1 }
  if 128 ≤ k then s.pend (k - 128) 1 else s

/-- Its 512 bits, with the time stamp. -/
def FaultRec.bits (f : FaultRec) (time : Nat) : Nat :=
  f.aux % 2 ^ 64 * 2 ^ 448 + f.addr % 2 ^ 64 * 2 ^ 384 + f.info % 2 ^ 32 * 2 ^ 352 + f.done % 2 ^ 16 * 2 ^ 336 +
  f.itix % 2 ^ 48 * 2 ^ 288 + time % 2 ^ 32 * 2 ^ 256 + f.cause % 256 * 2 ^ 248 + f.cbix % 2 ^ 24 * 2 ^ 224 +
  f.ctx % 2 ^ 16 * 2 ^ 208 + f.kind % 4 * 2 ^ 206 + f.state % 4 * 2 ^ 204 + b2n f.lost * 2 ^ 203 + b2n f.multi * 2 ^ 202 +
  f.die % 4 * 2 ^ 200 + f.pplane % 4 * 2 ^ 198 + f.vplane % 4 * 2 ^ 196 + f.x % 64 * 2 ^ 190 + f.y % 64 * 2 ^ 184 +
  f.node % 32 * 2 ^ 179 + f.frame % 1024 * 2 ^ 169 + f.gen % 8 * 2 ^ 166 + f.seq % 64 * 2 ^ 160 + f.chain % 4 * 2 ^ 158 +
  f.region % 4096 * 2 ^ 146

/-- A region as fault records give it. -/
def regionCode (ox oy w h : Nat) : Nat := ox * 512 + oy * 64 + (w - 1) * 8 + (h - 1)

/-- Enqueues a copy of a handler template with FPTR naming the fault's record (R345): none when the template fails the
checks of R161 or its queue is disabled (R346). -/
def State.tryHandler (s : State) (tctx h : Nat) (fptr : Word) (args : List Word) : Option State :=
  if h % 32 ≠ 0 then none
  else match s.peek tctx h 32 with
    | none => none
    | some n =>
      let r := BitVec.ofNat 256 n
      if !recClean r then none
      else match (s.touch tctx h).makeLive tctx (recCbix r) with
        | .error _ => none
        | .ok s =>
          if !bit (s.qcfg (s.queueOf tctx (recCbix r))) 0 then none
          else some (s.enqueue tctx (recSet (recSet r 120 64 fptr.toNat) 143 128 0) (BitVec.ofNat 64 h)
            (some ⟨tctx, BitVec.ofNat 64 h⟩) none args)

/-- TDEF, or COWH, as a handler: enable and template address. -/
def State.tryReg (s : State) (part csr : Nat) (fptr : Word) (args : List Word) : Option State :=
  let v := (s.csr part csr).toNat
  if bit v 0 then s.tryHandler (s.firstCtx part) (bits v 56 5 * 32) fptr args else none

/-- Delivers a written record to the effective fault domain, to COWH for TR_COW, or to TDEF (R334, R345, R346). `self` is
the faulting record's own domain, if it is a handler. None when nothing takes it. -/
def State.deliver (s : State) (ctx cbix cause : Nat) (fptr : Word) (self : Option Domain) : Option State :=
  let part := s.partOfCtx ctx
  let h := s.effHandler ctx cbix
  let own := if h = 0 ∨ self = some ⟨ctx, BitVec.ofNat 64 h⟩ then none else s.tryHandler ctx h fptr []
  let first := if cause = Cause.trCow ∧ bit (s.csr part 0x0202).toNat 0 then s.tryReg part 0x0202 fptr [] else own
  first <|> s.tryReg part 0x0008 fptr []

/-- The domain whose handler may resume or kill what the record describes (R186, R310). -/
def State.domainOf (s : State) (ctx cbix : Nat) : Option Domain :=
  let h := s.effHandler ctx cbix
  if h = 0 then none else some ⟨ctx, BitVec.ofNat 64 h⟩

/-- A BACKING_FULL report delivered through TDEF in registers (R386). -/
def State.backingReport (s : State) (f : FaultRec) (failedAt : Nat) : State :=
  let part := s.partOfCtx f.ctx
  let g : FaultRec :=
    { cause := Cause.backingFull, aux := failedAt, info := f.cause, kind := 2, addr := f.addr, cbix := f.cbix, ctx := f.ctx, die := f.die,
      pplane := f.pplane, vplane := f.vplane, x := f.x, y := f.y, node := f.node, frame := f.frame, gen := f.gen, region := f.region }
  let n := g.bits s.timer
  let args := (List.range 8).map (fun i => BitVec.ofNat 64 (n / 2 ^ (64 * i)))
  (s.tryReg part 0x0008 0#64 args).getD s

/-- Address of trap-frame slot i (R347). -/
def State.slotAddr (s : State) (ctx i : Nat) : Nat := s.desc ctx 24 8 + 512 * i

/-- The lowest free trap-frame slot of a context (R347). -/
def State.freeSlot (s : State) (ctx : Nat) : Option Nat :=
  (List.range 128).find? (fun i =>
    !s.parks.any (fun p => p.live && p.ctx = ctx && p.addr = BitVec.ofNat 64 (s.slotAddr ctx i)))

/-- The 512 bytes of a trap frame (Table 18.5). -/
def trapFrame (fr : Nat) (regs : List Word) (preds : BitVec 8) (resume : Nat) (r : BitVec 256) : List Byte :=
  leBytes 64 fr ++ (regs.drop 1).flatMap (fun w => leBytes 8 w.toNat) ++ [preds &&& 0xFE#8] ++ List.replicate 7 0#8 ++
  leBytes 8 resume ++ List.replicate 24 0#8 ++ leBytes 32 r.toNat ++ List.replicate 128 0#8

/-! The race-watch directory (R103). -/

/-- The directory of a home node: stacks 0 to 7, then columns; none elsewhere (R103, R106). -/
def dirOf (pa : Nat) : Option Nat :=
  match target pa with
  | .hbm k => some k
  | .cistern c => some (8 + c)
  | _ => none

/-- Bytes of a granule as a mask. -/
def byteMask (pa n : Nat) : Nat := (2 ^ n - 1) * 2 ^ (pa % 64)

/-- Puts an entry at the head of the directory list and drops the least recently used beyond 65,536 of its home node (R103). An
entry is used when it is written: by a write or a release, and not by a read, an acquire or a race check (DESIGN CHOICE, log 117). -/
def putRace (l : List RaceEntry) (r : RaceEntry) : List RaceEntry :=
  let rest := l.filter (fun x => x.granule ≠ r.granule)
  let d := dirOf (64 * r.granule)
  let (keep, _) := rest.foldl (fun (acc, n) x =>
    if dirOf (64 * x.granule) = d then (if n < 65535 then (acc ++ [x], n + 1) else (acc, n)) else (acc ++ [x], n)) ([], 0)
  r :: keep

/-- Writing a fault record is a release at a scope (R345): what it leaves in the directory of a watched page, written by hardware,
which has no number of its own among the agents (log 102). -/
def State.recordRelease (s : State) (ctx va sc : Nat) : State :=
  match s.peekTr ctx va with
  | some t =>
    if t.watch && (dirOf t.pa).isSome then
      let w : Issuer := { ctx := ctx, cbix := 0, priv := false, die := 4, frame := none, unit := none }
      { s with races := putRace s.races ⟨t.pa / 64, 2 ^ 34, 0, byteMask t.pa 64, false, sc, w, some (2 ^ 34, 0, none)⟩ }
    else s
  | none => s

/-- Where an access is to walk again when its fault is a translation fault (R329). -/
def againAt (cause addr : Nat) : Option Nat := if 0x10 ≤ cause ∧ cause ≤ 0x18 then some addr else none

/-- Writes a trap frame for a trap or a report and delivers it (R345 to R347, R386). -/
def State.faultFrame (s : State) (f : FaultRec) (self : Option Domain) (kind : ParkKind) (regs : List Word)
    (preds : BitVec 8) (resume : Nat) (r : BitVec 256) : State :=
  match s.freeSlot f.ctx with
  | none => s.backingReport f 0
  | some i =>
    let a := s.slotAddr f.ctx i
    match s.poke f.ctx a (trapFrame (f.bits s.timer) regs preds resume r) with
    | none => s.backingReport f a
    | some s1 =>
      match (s1.recordRelease f.ctx a (s1.effHscope f.ctx f.cbix)).deliver f.ctx f.cbix f.cause (BitVec.ofNat 64 a) self with
      | some s2 => { s2 with parks := s2.parks ++
          [⟨f.ctx, BitVec.ofNat 64 a, kind, s1.domainOf f.ctx f.cbix, true, false, againAt f.cause f.addr⟩] }
      | none => (s1.poke f.ctx (a + 24) (leBytes 8 (bits (f.bits s.timer) 255 192 / 2 ^ 14 * 2 ^ 14 +
          bits (f.bits s.timer) 203 192))).getD s1

/-- A report (R338): a cause with no unit to stop. -/
def State.report (s : State) (f : FaultRec) : State :=
  s.faultFrame { f with kind := 2, state := 1 } none .report UnitSt.reset.regs.toList 0#8 0 0#256

/-- The unit ends its record and returns to dispatch (R41). -/
def State.endRecord (s : State) (u : Nat) : State :=
  s.setUnit u { s.unit u with status := .idle, idleAt := s.timer, handler := none, wait := none }

/-- Restores a record's fields for a unit that starts it (R10, R312, R348, R386). -/
def State.startRecord (s : State) (u : Nat) (q : QRec) (elev : Nat) : State :=
  let cbix := recCbix q.record
  let base := ((UnitSt.reset.regs.set 1 (BitVec.ofNat 64 (recFptr q.record))).set 2 (BitVec.ofNat 64 cbix))
  let base := (q.args.zipIdx).foldl (fun v (w, i) => if h : 3 + i < 32 then v.set (3 + i) w h else v) base
  let (regs, preds, pc) := match q.resume with
    | none => (base, 0#8, BitVec.ofNat 57 (recCptr q.record))
    | some r => ((r.regs.zipIdx).foldl (fun (v : Vector Word 32) (w, i) => if h : 1 + i < 32 then v.set (1 + i) w h else v) UnitSt.reset.regs,
                 r.preds, r.pc)
  let s := s.rereadBlock q.ctx cbix
  let x := s.unit u
  let s := { s with fresh := s.fresh + 1 }
  s.setUnit u { x with
    regs := regs, preds := preds, pc := pc, status := .running, record := q.record, recAddr := q.addr, ctx := q.ctx,
    priv := s.effPriv q.ctx cbix, recPriv := s.effPriv q.ctx cbix, handler := q.handler, elev := elev, region := s.grant q.ctx cbix, serial := s.fresh,
    relGen := 0, horizon := none, wait := none, first := true }

/-- TAKING AN EXCEPTION on the executing unit (R139, R151, R338, R345 to R347, R357, R386): a control core whose TVEC is
enabled and that handles no trap saves the pc in TEPC, the cause and privilege in TINFO and the address in TVAL, and goes on
at VEC with privilege; any other unit writes a trap frame for its record, which leaves the unit, and the trap is delivered. -/
def State.trap (s : State) (cause info : Nat) (addr aux : Nat) (resume : BitVec 57) (place : Option (Nat × Nat × Nat) := none) :
    State :=
  let x := s.me
  if isCore s.cur && bit x.tvec.toNat 0 && !bit x.tinfo.toNat 38 then
    s.setMe { x with
      tepc := resume.setWidth 64
      tinfo := BitVec.ofNat 64 (cause % 256 * 2 ^ 40 + b2n x.priv * 2 ^ 39 + 2 ^ 38 + info % 2 ^ 32)
      tval := BitVec.ofNat 64 addr
      pc := BitVec.ofNat 57 (bits x.tvec.toNat 56 2 * 4)
      priv := true }
  else
    let f : FaultRec :=
      { aux := aux, addr := addr, info := info, cause := cause, cbix := recCbix x.record, ctx := x.ctx, kind := 1, state := 1,
        die := if isCore s.cur then 0 else s.cur / 64, x := if isCore s.cur then 0 else s.cur % 8 * 8,
        y := if isCore s.cur then 0 else s.cur / 8 % 8 * 8 }
    let f : FaultRec := match place with
      | none => f
      | some (x, y, n) => { f with x := x, y := y, node := n }
    (s.endRecord s.cur).faultFrame f x.handler (.trap x.record x.recAddr resume x.handler) x.regs.toList x.preds resume.toNat x.record

/-- RETURN FROM AN EXCEPTION on a control core (R182, R357). -/
def State.eret (s : State) : State :=
  let x := s.me
  s.setMe { x with
    pc := BitVec.ofNat 57 (x.tepc.toNat / 4 * 4), priv := bit x.tinfo.toNat 39,
    tinfo := x.tinfo &&& ~~~(1#64 <<< 38) }

/-- The first word of an instruction, for INFO (Table 18.3). -/
def iword (i : Instr) : Nat := (encode i).headD 0

/-- A trap of the instruction at the pc whose cause concerns the instruction itself (Table 18.2 ADDR). -/
def State.trapAt (s : State) (i : Instr) (cause : Nat) : Out :=
  .next (s.trap cause (iword i) s.me.pc.toNat 0 s.me.pc)

/-- A trap whose cause concerns an address: INFO holds the walk level and access for a translation cause (Table 18.3). -/
def State.trapMem (s : State) (i : Instr) (c : Nat × Nat) (addr : Nat) (wr : Bool) : Out :=
  let info := if 0x10 ≤ c.1 ∧ c.1 ≤ 0x18 then c.2 % 8 + b2n wr * 8 else iword i
  .next (s.trap c.1 info addr 0 s.me.pc)

/-- The executing record as an issuer (R385); the control cores are on the hub die, 4. -/
def State.meIss (s : State) : Issuer :=
  { ctx := s.me.ctx, cbix := recCbix s.me.record, priv := s.me.priv, die := if isCore s.cur then 4 else s.cur / 64,
    frame := none, unit := some s.cur }

/-- Decrements a record's JOIN for one event, queues it at zero, and reports JOIN_UNDERFLOW at zero already (R40, R161). -/
def State.joinDec (s : State) (a : Arm) : State :=
  match s.peek a.ctx a.addr.toNat 32 with
  | none => s
  | some n =>
    let r := BitVec.ofNat 256 n
    if recJoin r = 0 then
      s.report { cause := Cause.joinUnderflow, addr := a.addr.toNat, cbix := recCbix r, ctx := a.ctx }
    else
      let r1 := recSet r 143 128 (recJoin r - 1)
      let s := (s.poke a.ctx a.addr.toNat (leBytes 32 r1.toNat)).getD s
      if recJoin r = 1 then
        let s := { s with waiting := s.waiting.erase (a.ctx, a.addr, recCbix r) }
        let s := s.enqueue a.ctx r1 a.addr none none []
        (s.poke a.ctx (a.addr.toNat + 24) (leBytes 4 s.timer)).getD s
      else s

/-- Applies the decrements of events that have happened (R164). -/
def State.settle (s : State) : State :=
  let l := s.trig
  l.foldl (fun s a => s.joinDec a) { s with trig := [] }

end Sys2Proof.Machine
end

