-- ==== Sys2Proof/Machine/Operands.lean ====
section
/-! DEFINITION. Operand forms of node words (R13, R15, R47, R142, R187 to R189) and planes, tokens and frames: sending,
landing, slots, retiring, parking and killing (R17 to R21, R24 to R28, R37, R343, R348). -/

namespace Sys2Proof.Machine

open Sys2Proof

/-! Lane vectors. -/

/-- Element j of width b (R47; a 64-bit element follows R13, which is the same place). -/
def elem (v : Vec) (b j : Nat) : Nat := v.toNat / 2 ^ (b * j) % 2 ^ b

/-- Lane word i. -/
def lane (v : Vec) (i : Nat) : Nat := elem v 32 i

/-- A vector from its elements of width b. -/
def mkVec (b : Nat) (l : List Nat) : Vec :=
  BitVec.ofNat 512 (l.foldr (fun x acc => x % 2 ^ b + 2 ^ b * acc) 0)

/-- A mask from its bits. -/
def mkMask (l : List Bool) : Mask := BitVec.ofNat 16 (l.foldr (fun x acc => b2n x + 2 * acc) 0)

/-- Lane words whose mask bit is clear become zero (R15). -/
def zeroOff (v : Vec) (m : Mask) : Vec :=
  mkVec 32 ((List.range 16).map (fun i => if m.getLsbD i then lane v i else 0))

/-- Mask bit of packed element j (R47, R187). -/
def elemLive (m : Mask) (b j : Nat) : Bool := m.getLsbD (b * j / 32)

/-- Lane word in which element j lies unpacked, when the node converts or addresses e elements (R199, R212). -/
def unpLane (e j : Nat) : Nat := if e = 8 then 2 * j else j

/-- An element in unpacked form, or a 64-bit one in its lane pair (R187, R199). -/
def unpacked (v : Vec) (b e j : Nat) : Nat := if b = 64 then elem v 64 j else lane v (unpLane e j) % 2 ^ b

/-- The lane word that holds an element of a FMT unpacked: sign copies for signed integers, zeros otherwise (R187). -/
def unpackWord (fmt x : Nat) : Nat :=
  let b := NodeCheck.width fmt
  if b < 32 ∧ fmt < 4 then Num.ofInt 32 (Num.toInt b x) else x % 2 ^ b

/-- A vector of unpacked elements with their liveness. -/
def mkUnpacked (fmt e : Nat) (l : List (Nat × Bool)) : Vec × Mask :=
  let b := NodeCheck.width fmt
  if b = 64 then (mkVec 64 (l.map Prod.fst), mkMask (l.flatMap (fun x => [x.2, x.2])))
  else if e = 8 then (mkVec 64 (l.map (fun x => unpackWord fmt x.1)), mkMask (l.flatMap (fun x => [x.2, false])))
  else (mkVec 32 (l.map (fun x => unpackWord fmt x.1)), mkMask (l.map Prod.snd))

/-- OPERAND as the R operand (R142). -/
def immVec (fmt o : Nat) : Vec :=
  let b := NodeCheck.width fmt
  if b = 64 then
    let x := if fmt = 11 then o * 2 ^ 32 else if fmt = 3 then Num.ofInt 64 (Num.toInt 32 o) else o
    mkVec 64 (List.replicate 8 x)
  else mkVec b (List.replicate (512 / b) (o % 2 ^ b))

/-- Lanes of a predicate that are true (R15). -/
def truthMask (p : Operand) : Mask :=
  mkMask ((List.range 16).map (fun i => p.mask.getLsbD i && lane p.val i ≠ 0))

/-- Lane-select narrowing (Table 2.6). -/
def laneSelect (c : Nat) : Mask :=
  if 4 ≤ c ∧ c ≤ 7 then 0xF#16 <<< (4 * (c - 4))
  else if c = 8 then 0x00FF#16
  else if c = 9 then 0xFF00#16
  else if c = 10 then 0x5555#16
  else if c = 11 then 0xAAAA#16
  else 0xFFFF#16

/-- A result: a lane word whose mask bit is clear is zero (R15). -/
def Operand.result (v : Operand) : Operand := { v with val := zeroOff v.val v.mask }

/-- The mask narrowed by a lane-select code; the payload is not moved (R27). -/
def Operand.narrow (v : Operand) (c : Nat) : Operand := { v with mask := v.mask &&& laneSelect c }

/-- An operand that is absent where a node declares none. -/
def noOperand : Operand := ⟨0#512, 0xFFFF#16, 0#4⟩

/-! Planes and places. -/

/-- A plane by key. -/
def State.plane (s : State) (pk : Nat) : Plane := s.planes.get pk Plane.reset

/-- Replaces a plane. -/
def State.setPlane (s : State) (pk : Nat) (p : Plane) : State := { s with planes := s.planes.put pk p }

/-- The key of a plane of a region. -/
def planeKey (die ox oy pp : Nat) : Nat := 4 * (64 * die + 8 * oy + ox) + pp

/-- Die, origin block and physical plane of a key. -/
def pkDie (pk : Nat) : Nat := pk / 256 % 4
def pkOx (pk : Nat) : Nat := pk / 4 % 8
def pkOy (pk : Nat) : Nat := pk / 32 % 8
def pkPp (pk : Nat) : Nat := pk % 4

/-- Coordinates of an element within the region of a plane. -/
def relX (pk e : Nat) : Nat := e % 64 - 8 * pkOx pk
def relY (pk e : Nat) : Nat := e / 64 - 8 * pkOy pk

/-- The element at region coordinates. -/
def elemAt (pk rx ry : Nat) : Nat := 64 * (8 * pkOy pk + ry) + 8 * pkOx pk + rx

/-- Tile element of an element (R32). -/
def Plane.tileElem (p : Plane) (pk e : Nat) : Nat := 64 * (relY pk e % p.th) + relX pk e % p.tw

/-- Copies per row and in all (R32). -/
def Plane.cols (p : Plane) : Nat := 8 * p.w / p.tw
def Plane.rows (p : Plane) : Nat := 8 * p.h / p.th

/-- The copy that an element belongs to. -/
def Plane.copyOf (p : Plane) (pk e : Nat) : Nat := relY pk e / p.th * p.cols + relX pk e / p.tw

/-- Copies that were loaded (R354). -/
def Plane.copies (p : Plane) : List Nat := (List.range (p.cols * p.rows)).filter (fun c => !p.skip.contains c)

/-- Element of a copy at tile coordinates. -/
def Plane.elemIn (p : Plane) (pk c te : Nat) : Nat :=
  elemAt pk (c % p.cols * p.tw + te % 64) (c / p.cols * p.th + te / 64)

/-- The node word at an element; zero for the empty node. -/
def Plane.word (p : Plane) (pk e node : Nat) : Nat :=
  if p.skip.contains (p.copyOf pk e) then 0 else (p.nodes.get (32 * p.tileElem pk e + node) 0#128).toNat

/-- Elements of the region, in ascending y and then x. -/
def Plane.elems (p : Plane) (pk : Nat) : List Nat :=
  (List.range (8 * p.h)).flatMap (fun y => (List.range (8 * p.w)).map (fun x => elemAt pk x y))

/-- Every node of the region that holds a word: element, node, word. -/
def Plane.placed (p : Plane) (pk : Nat) : List (Nat × Nat × Nat) :=
  p.copies.flatMap (fun c => p.nodes.map (fun (k, w) => (p.elemIn pk c (k / 32), k % 32, w.toNat)))

/-- Key of a token slot. -/
def slotKey (node frame port e : Nat) : Nat := ((1024 * node + frame) * 4 + port) * 4096 + e

/-- Key of a sticky operand; side 0 is L, 1 is R. -/
def stickyKey (e node side : Nat) : Nat := 64 * e + 2 * node + side

/-- Fields of a node word. -/
def wOpc (w : Nat) : Nat := bits w 127 120
def wIn (w i : Nat) : Bool := bit w (108 + i)
def wFire (w i : Nat) : Bool := bit w (104 + i)

/-- The value present at a port for a frame (R22). Ports 0 L, 1 R, 2 P. -/
def Plane.at_ (p : Plane) (e node frame port : Nat) (st : Bool) : Option Operand :=
  if st then p.sticky.find (stickyKey e node port) else p.slots.find (slotKey node frame port e)

/-- The frame of an identifier. -/
def Plane.frame? (p : Plane) (f : Nat) : Option Frame := p.frames.find f

/-- The generation of an identifier (R19). -/
def Plane.gen (p : Plane) (f : Nat) : Nat := p.gens.get f 0

/-! Tags and parity (R13, R16). -/

/-- A token tag (Table 2.2). -/
def mkTag (pp frame gen node port kind : Nat) (m : Mask) : BitVec 42 :=
  BitVec.ofNat 42 (pp * 2 ^ 40 + frame % 1024 * 2 ^ 30 + gen % 8 * 2 ^ 27 + node % 32 * 2 ^ 22 + port % 4 * 2 ^ 20 +
    kind % 16 * 2 ^ 16 + m.toNat)

def tagFrame (t : BitVec 42) : Nat := bits t.toNat 39 30
def tagGen (t : BitVec 42) : Nat := bits t.toNat 29 27
def tagNode (t : BitVec 42) : Nat := bits t.toNat 26 22
def tagPort (t : BitVec 42) : Nat := bits t.toNat 21 20
def tagKind (t : BitVec 42) : Nat := bits t.toNat 19 16
def tagMask (t : BitVec 42) : Mask := BitVec.ofNat 16 t.toNat

/-- Even parity of the low n bits. -/
def parity (x : Nat) : Nat → Bool
  | 0 => false
  | n + 1 => bit x n != parity x n

/-- The 18 parity bits of a token (R16). -/
def parityOf (v : Vec) (t : BitVec 42) : BitVec 18 :=
  BitVec.ofNat 18 (((List.range 16).map (fun i => parity (lane v i) 32) ++ [parity (t.toNat % 2 ^ 21) 21, parity (t.toNat / 2 ^ 21) 21]).foldr
    (fun b acc => b2n b + 2 * acc) 0)

/-! Sending (R26 to R28). -/

/-- A signed byte. -/
def sbyte (x : Nat) : Int := Num.toInt 8 x

/-- Puts a token on its way: `hops` from now, or an unbounded time on the message network, given as 1. -/
def State.post (s : State) (pk e src hops : Nat) (frame gen node port kind : Nat) (v : Operand) : State :=
  let t := mkTag (pkPp pk) frame gen node port kind v.mask
  { s with flights := s.flights ++ [⟨s.fc + hops - 1, src, pk, e, t, v.val, parityOf v.val t⟩] }

/-- Sends a result on one destination word, in the frame given (R15, R26, R27). An unused destination sends nothing. -/
def State.sendTo (s : State) (pk e : Nat) (d : BitVec 32) (frame gen : Nat) (v : Operand) : State :=
  let w := d.toNat
  if !bit w 31 || bits w 30 29 = 3 then s
  else
    let ri := bits w 23 16
    let v := v.result.narrow (bits w 11 8)
    if ri = 0 then s.post pk e (4096 * 256 * pk + 256 * e) 1 frame gen (bits w 28 24) (bits w 30 29) v.kind.toNat v
    else
      let p := s.plane pk
      let r := (p.routes.get (256 * p.tileElem pk e + ri) 0#32).toNat
      let dx := sbyte (bits r 7 0); let dy := sbyte (bits r 15 8)
      let e' := ((e : Int) + dx + 64 * dy).toNat
      s.post pk e' (4096 * 256 * pk + 256 * e + ri) (dx.natAbs + dy.natAbs) frame gen (bits w 28 24) (bits w 30 29) v.kind.toNat v

/-- Sends a result on both destinations, DEST0 then DEST1 (R26). -/
def State.sendBoth (s : State) (pk e : Nat) (n : NodeBody) (frame gen : Nat) (v : Operand) : State :=
  (s.sendTo pk e n.dest0 frame gen v).sendTo pk e n.dest1 frame gen v

/-! Element data (R79, R201, R219). -/

/-- Address of an element-data byte in the model's list. -/
def edAddr (pk e off : Nat) : Nat := 28672 * (4096 * pkDie pk + e) + off

/-- n bytes of element data. -/
def State.edRead (s : State) (pk e off n : Nat) : Nat :=
  leNat ((List.range n).map (fun i => Memory.read s.edata (edAddr pk e (off + i))))

/-- Writes bytes of element data. -/
def State.edWrite (s : State) (pk e off : Nat) : List Byte → State
  | [] => s
  | b :: t => ({ s with edata := Memory.write s.edata (edAddr pk e off) b }).edWrite pk e (off + 1) t

/-! Plane registers (R11, R237, R242). -/

/-- The physical register that a name denotes in an element, through the z rings that its PZROT nodes name. -/
def Plane.phys (p : Plane) (pk e n : Nat) : Nat :=
  let ring := (List.range 32).filterMap (fun k =>
    let w := p.word pk e k
    if wOpc w = 0x71 ∧ bits w 103 99 ≤ n ∧ n < bits w 103 99 + bits w 69 64 then some (bits w 103 99, bits w 69 64) else none)
  match ring with
  | [] => n
  | (b, len) :: _ => b + (n - b + p.zoff.get (32 * e + b) 0) % len

/-- A plane register by its physical number. -/
def Plane.wreg (p : Plane) (e r : Nat) : Vec := p.wregs.get (32 * e + r) 0#512

/-- The stochastic-rounding register of an element (R56). -/
def Plane.srReg (p : Plane) (pk e : Nat) : BitVec 32 :=
  p.lfsr.get e (
    let x := p.seed ^^^ BitVec.ofNat 32 (pkDie pk * 2 ^ 24 + e % 64 * 2 ^ 16 + e / 64 * 2 ^ 8 + pkPp pk)
    if x = 0#32 then 1#32 else x)

/-! Frames: identifiers, retiring, parking and killing. -/

/-- A live colour whose caller is a frame of the given identifier and generation (R19, R36). -/
def Plane.calledBy (p : Plane) (pk f gen : Nat) : Bool :=
  p.frames.any (fun (_, x) => match x.caller with | some c => c.plane = pk && c.frame = f && c.gen = gen | none => false)

/-- The router holds a call of the given frame, or a token for it (R19). -/
def State.routerHolds (s : State) (pk f gen : Nat) : Bool :=
  s.planes.any (fun (_, p) => p.calledBy pk f gen) || s.saved.any (fun (v : Saved) => v.plane.calledBy pk f gen) ||
  s.flights.any (fun x => x.plane = pk && tagFrame x.tag = f && tagGen x.tag = gen)

/-- An identifier may be issued: held neither by time nor by an outstanding request of its generation (R19). -/
def State.issuable (s : State) (pk f : Nat) : Bool :=
  let p := s.plane pk
  !p.holds.has f && !s.routerHolds pk f (p.gen f) &&
  !s.reqs.any (fun (_, q) => q.plane = pk && q.frame = f && q.gen = p.gen f && q.stage ≠ .done) &&
  !s.rays.any (fun (_, r) => r.plane = pk && r.frame = f && r.gen = p.gen f) &&
  !s.rows.any (fun (_, r) => r.plane = pk && r.frame = f && r.gen = p.gen f) &&
  !s.cmds.any (fun (_, c) => match c.iss.frame with
    | some (a, _, _, b, g) => a = pk && b = f && g = p.gen f && c.stage ≠ .done
    | none => false) &&
  !s.sends.any (fun (_, x) => match x.iss.frame with
    | some (a, _, _, b, g) => a = pk && b = f && g = p.gen f
    | none => false)

/-- Identifiers of a free list that may be issued, oldest first (R19). -/
def State.freeIds (s : State) (pk : Nat) : List Nat := (s.plane pk).free.filter (s.issuable pk)

/-- Draws the oldest identifier that may be issued and starts a frame in it (R17, R19); a frozen plane draws none (R38, R351). -/
def State.draw (s : State) (pk : Nat) (mk : Nat → Nat → Frame) : Option (Nat × State) :=
  match (if (s.plane pk).frozen then [] else s.freeIds pk) with
  | [] => none
  | f :: _ =>
    let p := s.plane pk
    let s := { s with fresh := s.fresh + 1 }
    some (f, s.setPlane pk { p with free := p.free.erase f, frames := p.frames.put f (mk (p.gen f) s.fresh) })

/-- The address of a plane's area (R342). -/
def State.planeArea (s : State) (p : Plane) : Nat :=
  (match s.cb p.ctx p.cbix with | some b => bits b 511 448 | none => 0) + p.vp * (200 * 1024 + 60 * 1024 * (64 * p.w * p.h))

/-- The block's fault record address for a frame (Table 18.4). -/
def State.frameRecAddr (s : State) (pk f : Nat) : Nat :=
  let p := s.plane pk
  s.planeArea p + 136 * 1024 + 60 * 1024 * (64 * p.w * p.h) + 64 * f

/-- Grants a lock token to the first request of a FIFO that still waits; the request is then done, or stays held where it has timed
out (R108), or its response leaves for another module. With none, the token is free (R102). -/
def State.grantNext (s : State) (k : Nat) : List Nat → State
  | [] => { s with tokens := s.tokens.del k }
  | r :: rest => match s.reqs.find r, s.farLocks.find r with
    | some q, _ => { s with
        tokens := s.tokens.put k ⟨some (q.plane, q.frame, q.gen), rest⟩,
        reqs := s.reqs.put r (if q.stage = .held then q else { q with stage := .done }) }
    | none, some x => { s with
        tokens := s.tokens.put k ⟨some (2 ^ 40 + x.src, x.agent, 0), rest⟩, farLocks := s.farLocks.del r
        kept := s.kept.put r ⟨x.src, x.id, 0#64, s.fc + 2 * s.memto x.part⟩ }
    | none, none => s.grantNext k rest

/-- Returns the lock tokens that a frame holds: each goes to the next requester of its FIFO (R102). -/
def State.dropLocks (s : State) (pk f gen : Nat) : State :=
  s.tokens.foldl (fun s (k, t) => if t.holder = some (pk, f, gen) then s.grantNext k t.fifo else s) s

/-- Whether a frame holds a lock token. -/
def State.holdsLock (s : State) (pk f gen : Nat) : Bool := s.tokens.any (fun (_, t) => t.holder = some (pk, f, gen))

/-- Removes everything a frame has in its elements: slots, groups, overflow, lane groups and shifts. -/
def Plane.clearFrame (p : Plane) (f : Nat) : Plane :=
  { p with
    slots := p.slots.filter (fun (k, _) => k / 16384 % 1024 ≠ f)
    groups := p.groups.filter (fun (_, g) => g ≠ f)
    ovf := p.ovf.filter (fun w => tagFrame w.tag ≠ f)
    groupsIn := p.groupsIn.filter (fun g => g.frame ≠ f)
    shifts := p.shifts.filter (fun x => x.frame ≠ f)
    bars := p.bars.filter (fun b => b.frame ≠ f) }

/-- Ends a frame: its generation advances, its groups are freed, and the identifier goes to the tail of the list, held for
128 fc (R19). -/
def State.endFrame (s : State) (pk f : Nat) : State :=
  let p := (s.plane pk).clearFrame f
  s.setPlane pk { p with
    frames := p.frames.del f
    gens := p.gens.put f ((p.gen f + 1) % 8)
    holds := p.holds.put f (s.fc + 128)
    free := p.free ++ [f]
    seqDone := p.seqDone.filter (fun (x, _, _) => x / 2 ≠ f) }

/-- Slot groups per element (R17). -/
def Plane.groupsPer (p : Plane) : Nat := 384 / p.f

/-- A DRAINING plane becomes LOADED when its last live frame retires (R166). -/
def Plane.drained (p : Plane) : Plane :=
  if p.state = .draining ∧ p.frames = [] then { p with state := .loaded } else p

/-- Inserts a token in the order of arrivals. -/
def Waiting.insert (a : Waiting) : List Waiting → List Waiting
  | [] => [a]
  | b :: l => if b.arr ≤ a.arr then b :: a.insert l else a :: b :: l

/-- A frame's tokens in slots and in overflow, in the order in which they arrived. -/
def Plane.tokensOf (p : Plane) (pk f gen : Nat) : List Waiting :=
  let inSlots := (p.slots.filter (fun (k, _) => k / 16384 % 1024 = f)).map (fun ((k, v) : Nat × Operand) =>
    (⟨k % 4096, mkTag (pkPp pk) f gen (k / (16384 * 1024)) (k / 4096 % 4) v.kind.toNat v.mask, v.val, false, p.slotAt.get k 0⟩ : Waiting))
  (inSlots ++ p.ovf.filter (fun w => tagFrame w.tag = f)).foldl (fun l w => w.insert l) []

/-- Withdraws a frame's tokens from its elements (R343). Its lane groups and pending shifts are kept in the lists of the plane,
where nothing of a parked frame arrives or completes, and count as withdrawn (R240). -/
def Plane.withdraw (p : Plane) (pk f : Nat) : Plane :=
  match p.frame? f with
  | none => p
  | some fr =>
    { p with
      slots := p.slots.filter (fun (k, _) => k / 16384 % 1024 ≠ f)
      groups := p.groups.filter (fun (_, g) => g ≠ f)
      ovf := p.ovf.filter (fun w => tagFrame w.tag ≠ f)
      frames := p.frames.put f { fr with
        parked := true, withdrawn := fr.withdrawn ++ (p.tokensOf pk f fr.gen).map (fun w => (w.elem, w.tag, w.pay)) } }

/-- The location fields of a frame's fault record (Table 18.2). -/
def State.frameRec (s : State) (pk e node f : Nat) (cause addr info aux : Nat) : FaultRec :=
  let p := s.plane pk
  let (gen, itix, lost) := match p.frame? f with | some fr => (fr.gen, fr.itix, fr.lost) | none => (0, 0, false)
  { cause := cause, addr := addr, info := info, aux := aux, itix := itix, cbix := p.cbix, ctx := p.ctx, kind := 0, state := 1,
    lost := lost, die := pkDie pk, pplane := pkPp pk, vplane := p.vp, x := e % 64, y := e / 64, node := node, frame := f,
    gen := gen, region := regionCode (pkOx pk) (pkOy pk) p.w p.h }

/-- A frame fault: the frame is parked at the end of the fc (R343). A fault for a frame that is gone is dropped (R353). -/
def State.park (s : State) (pk f : Nat) (r : FaultRec) (port : Nat := 0) : State :=
  match (s.plane pk).frame? f with
  | none => s
  | some fr => { s with parking := s.parking ++ [⟨pk, f, fr.gen, port, r⟩] }

/-! Slots and slot groups (R18, R20, R25). -/

/-- A stale token is dropped and counted in STALEDROP of its plane (R20). -/
def State.staleDrop (s : State) (pk : Nat) : State :=
  let n := 0x0020 + 4 * pkDie pk + pkPp pk; let part := s.partOfDie (pkDie pk)
  s.setCsr part n (s.csr part n + 1#64)

/-- A token meets a value at its slot (R25): it is discarded and its frame parked. -/
def State.collide (s : State) (pk : Nat) (w : Waiting) : State :=
  let node := tagNode w.tag; let f := tagFrame w.tag
  s.park pk f (s.frameRec pk w.elem node f Cause.tokenCollision 0
    (node + 32 * tagPort w.tag + 128 * tagKind w.tag + 2048 * (tagMask w.tag).toNat) (w.pay.toNat % 2 ^ 64))

/-- A token goes into its slot, unless a value is present there. -/
def State.intoSlot (s : State) (pk : Nat) (w : Waiting) : State :=
  let p := s.plane pk
  let k := slotKey (tagNode w.tag) (tagFrame w.tag) (tagPort w.tag) w.elem
  if p.slots.has k then s.collide pk w
  else s.setPlane pk { p with
    slots := p.slots.put k ⟨w.pay, tagMask w.tag, BitVec.ofNat 4 (tagKind w.tag)⟩
    slotAt := p.slotAt.put k w.arr }

/-- An element has a free slot group in a plane. -/
def Plane.groupFree (p : Plane) (e : Nat) : Bool := (p.groups.filter (fun (x, _) => x = e)).length < p.groupsPer

/-- Binds a free group of an element to the waiting frame whose overflowed token is oldest (R18). -/
def Plane.bindOldest (p : Plane) (e : Nat) : Plane :=
  if !p.groupFree e then p
  else match p.ovf.find? (fun w => w.elem = e && !p.groups.contains (e, tagFrame w.tag)) with
    | none => p
    | some w => { p with groups := p.groups ++ [(e, tagFrame w.tag)] }

/-- A token that lies in an element's buffer though its frame has a group there. -/
def Plane.movable (p : Plane) (e : Nat) (w : Waiting) : Bool := w.elem = e && !w.mem && p.groups.contains (e, tagFrame w.tag)

/-- Moves the buffered tokens of an element's bound frames into their groups, in arrival order (R18). -/
def State.moveTokens (s : State) (pk e : Nat) : State :=
  let p := s.plane pk
  (p.ovf.filter (p.movable e)).foldl (fun s w => s.intoSlot pk w) (s.setPlane pk { p with ovf := p.ovf.filter (fun w => !p.movable e w) })

/-- An element binds a freed group and moves the frame's tokens in (R18). -/
def State.rebind (s : State) (pk e : Nat) : State := (s.setPlane pk ((s.plane pk).bindOldest e)).moveTokens pk e

/-- Every element that has waiting tokens does so. -/
def State.rebindAll (s : State) (pk : Nat) : State := ((s.plane pk).ovf.map Waiting.elem).foldl (fun s e => s.rebind pk e) s

/-- The hits that have returned for a frame that is no more are dropped as stale (R20, R271). -/
def State.dropHits (s : State) (pk f gen : Nat) : State :=
  let mine (r : Ray) : Bool := r.plane = pk && r.frame = f && r.gen = gen && r.stage = .done
  (s.rays.filter (fun (_, r) => mine r)).foldl (fun s _ => s.staleDrop pk) { s with rays := s.rays.filter (fun (_, r) => !mine r) }

/-- PARKKILL's effect on a frame (R21, R186, R348): it retires without flags, its sequence numbers are released, its lock
tokens returned. The accesses that a port holds for it, and those behind them, end; others may still be performed, and their
results are stale (R20, R186, R349). -/
def State.killFrame (s : State) (pk f : Nat) : State :=
  match (s.plane pk).frame? f with
  | none => s
  | some fr =>
    let mine (q : Req) : Bool := q.plane = pk && q.frame = f && q.gen = fr.gen
    let behind (q : Req) : Bool := q.body.seq.toNat / 64 ≠ 0 &&
      s.reqs.any (fun (_, h) => mine h && h.stage = .held && h.body.seq.toNat / 64 = q.body.seq.toNat / 64)
    let left : Map Req := s.reqs.filter (fun (_, q) => !(mine q && (q.stage = .held || q.opc = 0x91 || behind q)))
    let s := s.dropHits pk f fr.gen
    let s := { s with
      reqs := left
      keeps := s.keeps.filter (fun k => !(k.plane = pk && k.frame = f && k.gen = fr.gen))
      rows := s.rows.filter (fun (_, r) => !(r.plane = pk && r.frame = f && r.gen = fr.gen && r.stage = ReqStage.sent))
      contribs := s.contribs.filter (fun (_, c) => c.accepted || left.has c.req)
      parks := s.parks.filter (fun k => k.kind ≠ ParkKind.frame pk f fr.gen)
      sends := s.sends.filter (fun (_, x) => !x.held || (match x.iss.frame with
        | some (a, _, _, b, g) => !(a = pk && b = f && g = fr.gen)
        | none => true)) }
    let s := s.dropLocks pk f fr.gen
    let s := s.endFrame pk f
    let p := s.plane pk
    (s.setPlane pk { p with retired := p.retired.filter (· ≠ (f, fr.gen)) }.drained).rebindAll pk

/-- Parks a frame with its record, or, when nothing can be written or nothing takes the record, kills it (R343 to R346,
R386). A frame that is parked already sets MULTI and keeps its first record (R344). -/
def State.parkNow (s : State) (q : Parking) : State :=
  let pk := q.plane; let f := q.frame; let r := q.frec
  match (s.plane pk).frame? f with
  | none => s
  | some fr =>
    if fr.gen ≠ q.gen then s
    else if fr.parked then
      let s := { s with parks := s.parks.map (fun k => if k.kind = .frame pk f fr.gen then { k with multi := true } else k) }
      let a := s.frameRecAddr pk f
      match s.peek r.ctx (a + 25) 1 with
      | some b => if bit b 2 then s else (s.poke r.ctx (a + 25) [BitVec.ofNat 8 (b + 4)]).getD s
      | none => s
    else
      let info := if r.cause = Cause.overflowExhausted then (s.plane pk).discarded else r.info
      let r := { r with lost := r.lost || fr.lost, info := info }
      let a := s.frameRecAddr pk f
      match s.poke r.ctx a (leBytes 64 (r.bits s.timer)) with
      | none => ((s.killFrame pk f).backingReport r a)
      | some s1 =>
        let s1 := ((s1.setPlane pk ((s1.plane pk).withdraw pk f)).rebindAll pk).recordRelease r.ctx a (s1.effHscope r.ctx r.cbix)
        match s1.deliver r.ctx r.cbix r.cause (BitVec.ofNat 64 a) none with
        | some s2 => { s2 with parks := s2.parks ++ [⟨r.ctx, BitVec.ofNat 64 a, .frame pk f fr.gen, s1.domainOf r.ctx r.cbix, true, false, againAt r.cause r.addr⟩] }
        | none =>
          let s3 := (s1.poke r.ctx a (leBytes 64 ({ r with state := 3 }.bits s.timer))).getD s1
          s3.killFrame pk f

/-- Order in which faults of one fc are taken (R344): chained first, then sequence number, then port. -/
def Parking.before (a b : Parking) : Bool :=
  let ka := (b2n (a.frec.chain = 0), a.frec.seq, a.port)
  let kb := (b2n (b.frec.chain = 0), b.frec.seq, b.port)
  ka.1 < kb.1 || (ka.1 = kb.1 && (ka.2.1 < kb.2.1 || (ka.2.1 = kb.2.1 && ka.2.2 ≤ kb.2.2)))

/-- Inserts a fault into a list in that order. -/
def Parking.insert (a : Parking) : List Parking → List Parking
  | [] => [a]
  | b :: t => if b.before a then b :: a.insert t else a :: b :: t

/-- Parks the frames that have met a fault in this fc (R343, R344). -/
def State.applyParks (s : State) : State :=
  (s.parking.foldl (fun l a => a.insert l) []).foldl State.parkNow { s with parking := [] }

/-- A barrier exits once every copy has arrived or its part has ended: 2 fc after, and H more between copies (R228). -/
def Plane.barExit (p : Plane) (fc : Nat) (b : Bar) : Bar :=
  let ended := match p.frame? b.frame with | some fr => fr.ended | none => []
  if b.exit.isNone ∧ p.copies.all (fun c => b.arrived.any (fun x => x.1 = c) || ended.contains c) then
    { b with exit := some (fc + 2 + (if p.copies.length = 1 then 0 else max p.w p.h)) }
  else b

/-- Considers a plane's barriers again. -/
def Plane.barCheck (p : Plane) (fc : Nat) : Plane := { p with bars := p.bars.map (p.barExit fc) }

/-- Ends a frame's part in a copy (R208). -/
def State.endPart (s : State) (pk f copy : Nat) : State :=
  let p := s.plane pk
  match p.frame? f with
  | none => s
  | some fr =>
    if fr.ended.contains copy then s
    else s.setPlane pk ({ p with frames := p.frames.put f { fr with ended := fr.ended ++ [copy] } }.barCheck s.fc)

/-- A frame as an issuer of accesses (R85, R385). -/
def State.frameIss (s : State) (pk e node f gen : Nat) : Issuer :=
  let p := s.plane pk
  { ctx := p.ctx, cbix := p.cbix, priv := p.priv, die := pkDie pk, frame := some (pk, e, node, f, gen), unit := none }

/-- Entries of a queue beyond its capacity: of the given places in its order, those with at least `cap` before them (log 23). -/
def beyond (cap : Nat) (all mine : List Nat) : Nat := (mine.filter (fun o => cap ≤ (all.filter (· < o)).length)).length

/-- Requests of a plane that a port's queue of 256 cannot hold (R93, R215). -/
def State.overReqs (s : State) (pk : Nat) : Nat :=
  let at_ (q : Req) : Bool := q.stage = .queued || q.stage = .held
  let ports := ((s.reqs.filter (fun (_, q) => q.plane = pk && at_ q)).map (fun x => x.2.port)).eraseDups
  (ports.map (fun k =>
    let l := s.reqs.filter (fun (_, q) => q.port = k && at_ q)
    beyond 256 (l.map (fun x => x.2.ord)) ((l.filter (fun x => x.2.plane = pk)).map (fun x => x.2.ord)))).sum

/-- The plane of an issuer that is a frame. -/
def Issuer.plane? (i : Issuer) : Option Nat := i.frame.map (fun x => x.1)

/-- Commands of a plane that the 16-entry queue of an edge port cannot hold (R230): those that wait for one context. -/
def State.overCmds (s : State) (pk : Nat) : Nat :=
  let l := s.cmds.filter (fun (_, c) => c.num.isNone && c.iss.frame.isSome)
  (((l.map (fun x => x.2.ctxKey)).eraseDups).map (fun k =>
    let m := l.filter (fun x => x.2.ctxKey = k)
    beyond 16 (m.map Prod.fst) ((m.filter (fun x => x.2.iss.plane? = some pk)).map Prod.fst))).sum

/-- Rays of a plane that wait beyond the 16 of its edge port (R271). -/
def State.overRays (s : State) (pk : Nat) : Nat :=
  let l := (s.rays.filter (fun (_, r) => r.plane = pk && r.stage = .sent)).map Prod.fst
  beyond 16 l l

/-- The block of an element of a die. -/
def blockOf (pk e : Nat) : Nat := 64 * pkDie pk + e / 64 / 8 * 8 + e % 64 / 8

/-- Records of a plane that the samplers of its blocks keep beyond 256 (R276). -/
def State.overKeeps (s : State) (pk : Nat) : Nat :=
  let l := s.keeps.zipIdx
  (((l.filter (fun (k, _) => k.plane = pk)).map (fun (k, _) => blockOf k.plane k.elem)).eraseDups.map (fun b =>
    let m := l.filter (fun (k, _) => blockOf k.plane k.elem = b)
    beyond 256 (m.map Prod.snd) ((m.filter (fun (k, _) => k.plane = pk)).map Prod.snd))).sum

/-- Contributions that wait at the nodes of a plane's trees beyond 16 addresses, or 64 to an address (R66, R226). -/
def State.overContribs (s : State) (pk : Nat) : Nat :=
  let l := s.contribs.filter (fun (_, c) => c.plane = pk && c.accepted && c.ord)
  let node (c : Contrib) := (c.copy, c.bind, c.at_)
  ((l.map (fun x => node x.2)).eraseDups.map (fun n =>
    let m := l.filter (fun x => node x.2 = n)
    let vas := (m.map (fun x => x.2.va)).eraseDups
    let rest := m.filter (fun x => (vas.drop 16).contains x.2.va)
    rest.length + ((vas.take 16).map (fun v => (m.filter (fun x => x.2.va = v)).length - 64)).sum)).sum

/-- Lane groups of a plane beyond the 16 of a shift link, and those of parked frames (R240, R343). -/
def Plane.overGroups (p : Plane) : Nat :=
  let parked (g : LaneGroup) : Bool := match p.frame? g.frame with | some f => f.parked | none => false
  let l := p.groupsIn.filter (fun g => !parked g)
  (p.groupsIn.filter parked).length +
  (((l.map (fun g => (g.elem, g.link))).eraseDups).map (fun k => (l.filter (fun g => (g.elem, g.link) = k)).length - 16)).sum

/-- Entries of a plane in the overflow area of its region (R37, R343): spilled tokens, vectors of the token queue beyond 64 (R211),
tokens withdrawn from parked frames, and what the queues of ports, edge ports, samplers, tree nodes and shift links cannot hold. -/
def State.inMem (s : State) (pk : Nat) : Nat :=
  let p := s.plane pk
  (p.ovf.filter (fun w => w.mem)).length + (p.tokq.length - 64) + (p.frames.map (fun (_, f) => f.withdrawn.length)).sum +
  p.overGroups + s.overReqs pk + s.overCmds pk + s.overRays pk + s.overKeeps pk + s.overContribs pk

/-- Entries that the area and the block's extension hold (R37). Each plane counts the whole extension for itself (log 103). -/
def State.ovfCap (s : State) (pk : Nat) : Nat :=
  let p := s.plane pk
  1024 + s.eff p.ctx p.cbix 7 415 384 * 32

/-- The overflow area and extension of a plane have room for an entry (R37). -/
def State.areaRoom (s : State) (pk : Nat) : Bool := s.inMem pk < s.ovfCap pk

/-- Marks a frame LOST, and its record in memory if it is parked (R351, R354). -/
def State.markLost (s : State) (pk f : Nat) : State :=
  let p := s.plane pk
  match p.frame? f with
  | none => s
  | some fr =>
    let s := s.setPlane pk { p with frames := p.frames.put f { fr with lost := true } }
    if !fr.parked then s
    else
      let a := s.frameRecAddr pk f
      let b := (s.peek p.ctx (a + 25) 1).getD 0
      if bit b 3 then s else (s.poke p.ctx (a + 25) [BitVec.ofNat 8 (b + 8)]).getD s

/-- INFO of the records of a frozen plane counts the tokens discarded since it froze (R341, R351). -/
def State.countDiscards (s : State) (pk : Nat) : State :=
  let p := s.plane pk
  (p.frames.filter (fun (_, fr) => fr.parked)).foldl (fun s (f, _) =>
    let a := s.frameRecAddr pk f
    if s.peek p.ctx (a + 31) 1 = some Cause.overflowExhausted then (s.poke p.ctx (a + 44) (leBytes 4 p.discarded)).getD s else s) s

/-- OVERFLOW_EXHAUSTED: the plane freezes and its live frames are parked, in ascending identifier (R38, R351). -/
def State.freeze (s : State) (pk : Nat) : State :=
  let p := s.plane pk
  ((p.frames.filter (fun (_, fr) => !fr.parked)).map Prod.fst).foldl
    (fun s g => s.park pk g (s.frameRec pk 0 0 g Cause.overflowExhausted 0 0 0)) (s.setPlane pk { p with frozen := true })

/-- A plane freezes when an entry of it must spill and there is no room (R351). -/
def State.exhaust (s : State) (pk : Nat) : State := if (s.plane pk).frozen then s else s.freeze pk

/-- A token that finds no overflow space is discarded and its frame marked LOST; the plane is frozen by then, or freezes (R351). -/
def State.discard (s : State) (pk f : Nat) : State :=
  let p := s.plane pk
  let s := (s.setPlane pk { p with discarded := p.discarded + 1 }).markLost pk f
  if p.frozen then s.countDiscards pk else s.freeze pk

/-- At the end of an fc in which a queue of a plane has grown past what its area holds, the plane freezes (R93, R351). -/
def State.spillCheck (s : State) (pk : Nat) : State := if s.planes.has pk ∧ s.ovfCap pk < s.inMem pk then s.exhaust pk else s

/-- Tokens that lie in an element's overflow buffer, of every plane, with their planes (R37). -/
def State.bufferOf (s : State) (die e : Nat) : List (Nat × Waiting) :=
  s.planes.flatMap (fun (k, q) => if pkDie k = die then (q.ovf.filter (fun w => w.elem = e && !w.mem)).map (fun w => (k, w)) else [])

/-- The entry that has lain longest in a buffer. -/
def oldestOf (l : List (Nat × Waiting)) : Option (Nat × Waiting) :=
  l.foldl (fun m x => match m with | none => some x | some y => if x.2.arr < y.2.arr then some x else some y) none

/-- A token enters the overflow buffer of its element (R37). The oldest entry of a full buffer spills; one that finds no space is
discarded (R351, log 21). -/
def State.overflow (s : State) (pk : Nat) (w : Waiting) : State :=
  let p := s.plane pk
  let s := s.setPlane pk { p with ovf := p.ovf ++ [w] }
  let b := s.bufferOf (pkDie pk) w.elem
  if b.length ≤ 64 then s
  else match oldestOf b with
    | none => s
    | some (k, o) =>
      let q := s.plane k
      if s.areaRoom k then s.setPlane k { q with ovf := q.ovf.map (fun x => if x = o then { x with mem := true } else x) }
      else (s.setPlane k { q with ovf := q.ovf.erase o }).discard k (tagFrame o.tag)

/-- A token at its destination (R16, R18, R20, R25, R37), after its parity has been checked: dropped when stale, withdrawn when its
frame is parked, put into its slot, its sticky register, or the overflow buffer, or a collision. A token for a sticky port binds no
slot group (log 104). -/
def State.land (s : State) (pk e : Nat) (t : BitVec 42) (v : Vec) : State :=
  let p := s.plane pk
  let f := tagFrame t; let node := tagNode t; let port := tagPort t
  let w := p.word pk e node
  let sticky := (port = 0 && wFire w 3) || (port = 1 && wFire w 2)
  let tok : Waiting := ⟨e, t, v, false, s.arrivals⟩
  let s := { s with arrivals := s.arrivals + 1 }
  match p.frame? f with
  | none => s.staleDrop pk
  | some fr =>
    if fr.gen ≠ tagGen t then s.staleDrop pk
    else if fr.parked then
      if s.areaRoom pk then s.setPlane pk { p with frames := p.frames.put f { fr with withdrawn := fr.withdrawn ++ [(e, t, v)] } }
      else s.discard pk f
    else if sticky then
      s.setPlane pk { p with sticky := p.sticky.put (stickyKey e node port) ⟨v, tagMask t, BitVec.ofNat 4 (tagKind t)⟩ }
    else if p.groups.contains (e, f) then s.intoSlot pk tok
    else if p.groupFree e then (s.setPlane pk { p with groups := p.groups ++ [(e, f)] }).intoSlot pk tok
    else s.overflow pk tok

end Sys2Proof.Machine
end

