-- ==== Sys2Proof/Machine/Flags.lean ====
section
/-! DEFINITION. Where sticky flags go (R21, R60, R234, R352). The flags that one operation raises are computed with its
result, in Machine/Num.lean and in the node families. -/

namespace Sys2Proof.Machine

open Sys2Proof

/-- ORs flags into a frame's own set, wherever it lies: the live frame's, the plane's register once it has retired, or the
saved plane's; a killed frame's flags are discarded (R352). -/
def Plane.flag (p : Plane) (frame gen fl : Nat) : Plane :=
  match p.frame? frame with
  | some f => if f.gen = gen then { p with frames := p.frames.put frame { f with flags := f.flags ||| BitVec.ofNat 6 fl } }
              else if p.retired.contains (frame, gen) then { p with flags := p.flags ||| BitVec.ofNat 6 fl } else p
  | none => if p.retired.contains (frame, gen) then { p with flags := p.flags ||| BitVec.ofNat 6 fl } else p

/-- Changes the flags of a plane, resident or saved. The flag register of a saved plane also stands in its save area, at offset
0x0010 (R352). -/
def State.onFlags (s : State) (pk : Nat) (f : Plane → Plane) : State :=
  if s.planes.has pk then s.setPlane pk (f (s.plane pk))
  else match s.saved.find? (fun v => v.key = pk) with
    | none => s
    | some v =>
      let p := f v.plane
      let s := { s with saved := s.saved.map (fun x => if x.key = pk then { x with plane := p } else x) }
      if p.flags = v.plane.flags then s else s.pokeSys p.ctx (s.planeArea p + 0x10) (leBytes 8 p.flags.toNat)

/-- The same on the machine. -/
def State.flag (s : State) (pk frame gen fl : Nat) : State := if fl = 0 then s else s.onFlags pk (fun p => p.flag frame gen fl)

/-- Flags of tree nodes and sole writers go to the plane's register (R227). -/
def State.planeFlag (s : State) (pk fl : Nat) : State :=
  if fl = 0 then s else s.onFlags pk (fun p => { p with flags := p.flags ||| BitVec.ofNat 6 fl })

/-- A retiring frame ORs its set into the plane's register (R21). -/
def Plane.mergeFlags (p : Plane) (f : Frame) : Plane := { p with flags := p.flags ||| f.flags }

/-- The flag vector in every lane word (R60, R234). -/
def flagVec (fl : BitVec 6) : Operand := ⟨mkVec 32 (List.replicate 16 fl.toNat), 0xFFFF#16, 0#4⟩

end Sys2Proof.Machine
end

