-- ==== Sys2Proof/Machine/Access.lean ====
section
/-! DEFINITION. Accesses with an order: agents, scope sets, horizons and the race-watch directory (R85 to R88, R100, R103
to R106), and the one operation through which sequencers, ports and engines access memory. -/

namespace Sys2Proof.Machine

open Sys2Proof

/-- Why an access fails: cause, and the INFO and AUX that Table 18.3 gives it. -/
structure Err where
  cause : Nat
  info : Nat := 0
  aux : Nat := 0
  deriving DecidableEq, Repr

/-- The error of a translation or physical access, with walk level and direction (Table 18.3). -/
def errOf (c : Nat × Nat) (wr : Bool) : Err :=
  if 0x10 ≤ c.1 ∧ c.1 ≤ 0x18 then ⟨c.1, c.2 % 8 + b2n wr * 8, 0⟩ else ⟨c.1, 0, 0⟩

/-! Agents (R85, R103). An agent's number: frames by identifier and generation alone, since the directory cannot tell
frames apart whose identifier and generation coincide (R106). -/

/-- The agent number of an engine context. -/
def engineAgent (ctxKey : Nat) : Nat := 2 ^ 35 + ctxKey

/-- The number of an agent outside the module: the host, an Ethernet peer, or a remote module (R105, R107). -/
def farAgent (far : Nat) : Nat := 2 ^ 36 + far

/-- An agent's number. -/
def State.agent (s : State) (i : Issuer) : Nat :=
  if i.far ≠ 0 then farAgent i.far
  else match i.eng, i.frame, i.unit with
  | some (k, _), _, _ => engineAgent k
  | none, some (_, _, _, f, g), _ => 2 ^ 32 + 8 * f + g
  | none, none, some u => 2 ^ 33 + (s.unit u).serial
  | none, none, none => 2 ^ 34

/-- The horizon and the release generation of a frame's agent in one copy (R85, R103, R104). -/
def Frame.agent (fr : Frame) (c : Nat) : Horizon × Nat := fr.agents.get c (fr.horizon, 0)

/-- Changes them. -/
def Frame.setAgent (fr : Frame) (c : Nat) (f : Horizon → Horizon) (g : Nat → Nat) : Frame :=
  { fr with agents := fr.agents.put c (f (fr.agent c).1, g (fr.agent c).2) }

/-- The horizon of an engine command: its issuer's when it was issued (R104), by context and number. -/
def State.cmdHorizon (s : State) (k n : Nat) : Horizon :=
  match s.cmds.find? (fun x => x.2.ctxKey = k && x.2.num = some n) with
  | some (_, c) => c.horizon
  | none => none

/-- An agent's horizon (R104): agents that are no frame, record or engine command have TOP. -/
def State.horizonOf (s : State) (i : Issuer) : Horizon :=
  match i.eng, i.frame, i.unit with
  | some (k, n), _, _ => s.cmdHorizon k n
  | none, some (pk, e, _, f, g), _ => match (s.plane pk).frame? f with
    | some fr => if fr.gen = g then (fr.agent ((s.plane pk).copyOf pk e)).1 else none
    | none => none
  | none, none, some u => (s.unit u).horizon
  | _, _, _ => none

/-- An agent's release generation (R103). -/
def State.relGenOf (s : State) (i : Issuer) : Nat :=
  match i.eng, i.frame, i.unit with
  | some (_, n), _, _ => n - 1
  | none, some (pk, e, _, f, _), _ => match (s.plane pk).frame? f with
    | some fr => (fr.agent ((s.plane pk).copyOf pk e)).2
    | none => 0
  | none, none, some u => (s.unit u).relGen
  | none, none, none => 0

/-- Adds a pair to a horizon, keeping the higher generation of an agent (R104). -/
def addPair (l : List (Nat × Nat)) (a g : Nat) : List (Nat × Nat) :=
  if l.any (fun x => x.1 = a) then l.map (fun x => if x.1 = a then (a, max x.2 g) else x) else l ++ [(a, g)]

/-- Merges two horizons; more than 8 pairs, or TOP, give TOP (R104). -/
def mergeHorizon (a b : Horizon) : Horizon :=
  match a, b with
  | some x, some y =>
    let l := y.foldl (fun acc p => addPair acc p.1 p.2) x
    if 8 < l.length then none else some l
  | _, _ => none

/-- Changes an agent's horizon and release generation. -/
def State.setAgent (s : State) (i : Issuer) (f : Horizon → Horizon) (g : Nat → Nat) : State :=
  match i.eng, i.frame, i.unit with
  | none, some (pk, e, _, fi, gen), _ => match (s.plane pk).frame? fi with
    | some fr => if fr.gen = gen then
        let p := s.plane pk
        s.setPlane pk { p with frames := p.frames.put fi (fr.setAgent (p.copyOf pk e) f g) } else s
    | none => s
  | none, none, some u => s.setUnit u { s.unit u with horizon := f (s.unit u).horizon, relGen := g (s.unit u).relGen }
  | _, _, _ => s

/-- An acquire that is not from a watched granule: the horizon becomes TOP (R104). -/
def State.acquireTop (s : State) (i : Issuer) : State := s.setAgent i (fun _ => none) id

/-- A release that stores nothing in a directory: the release generation rises (R103). -/
def State.releaseGen (s : State) (i : Issuer) : State := s.setAgent i id (fun g => (g + 1) % 2 ^ 32)

/-- Element, block and region of an issuer: die, element coordinates, and region origin where it has them. -/
def State.placeOf (s : State) (i : Issuer) : Nat × Option Nat × Option Nat × Option (Nat × Nat) :=
  match (if i.eng.isSome then none else i.frame), (if i.eng.isSome then none else i.unit) with
  | some (pk, e, _, _, _), _ => (i.die, some e, some (64 * i.die + e / 64 / 8 * 8 + e % 64 / 8), some (i.die, pk / 4 % 64))
  | none, some u =>
    if isCore u then (i.die, none, none, none)
    else (i.die, none, some u, (s.unit u).region.map (fun r => (r.die, 8 * r.oy + r.ox)))
  | none, none => (i.die, none, none, none)

/-- The least scope code at which an agent of this module and one outside it are in each other's scope sets (Table 4.3, R107, R109). -/
def farScope (far : Nat) : Nat :=
  match far with
  | 1 => 10
  | 2 => 11
  | m => if Config.sameSwitch (m - 3) then 8 else if Config.sameDomain (m - 3) then 9 else 11

/-- The least scope code at which two agents are in each other's scope sets (Table 4.3): each code takes in those below it (R6).
MODULE is taken within a partition (R336), so agents of two partitions never are. -/
def State.apart (s : State) (a b : Issuer) : Nat :=
  if a.far ≠ b.far then farScope (max a.far b.far)
  else if a.far ≠ 0 then 0
  else if a.ctx ≠ b.ctx then (if s.partOfCtx a.ctx = s.partOfCtx b.ctx then 7 else 12)
  else
    let (da, ea, ba, ra) := s.placeOf a; let (db, eb, bb, rb) := s.placeOf b
    if a = b then 1
    else if da = db ∧ ea.isSome ∧ ea = eb then 2
    else if ba.isSome ∧ ba = bb then 3
    else if ra.isSome ∧ ra = rb then 4
    else if da = db then 5 else 6

/-- The scope set of an access of `a` includes agent `b` (Table 4.3). Code 0 is DIE (R137). -/
def State.includes (s : State) (sc : Nat) (a b : Issuer) : Bool := s.apart a b ≤ (if sc = 0 then 5 else sc)

/-! The race-watch directory. -/

/-- What an access is for its order (Table 4.4). -/
structure Acc where
  wr : Bool := false
  atomic : Bool := false
  acq : Bool := false
  rel : Bool := false
  scope : Nat := 5
  deriving DecidableEq, Repr

/-- The race exception of R105, for an access that can raise it. -/
def State.race (s : State) (i : Issuer) (pa n : Nat) (k : Acc) : Option Err :=
  match dirOf pa, s.races.find? (fun r => r.granule = pa / 64) with
  | some _, some r =>
    let me := s.agent i
    if r.bytes &&& byteMask pa n = 0 ∨ r.writer = me then none
    else if k.atomic && r.atomic && s.includes k.scope i r.wiss && s.includes r.scope r.wiss i then none
    else match s.horizonOf i with
      | none => none
      | some l => if l.any (fun x => x.1 = r.writer && r.gen < x.2) then none
                  else some ⟨Cause.race, r.gen % 2 ^ 32, r.writer⟩
  | _, _ => none

/-- What a performed access does to horizons, generations and the directory (R103, R104). An acquire from a watched granule of which
the directory holds no release adds nothing to the horizon (DESIGN CHOICE, log 118). -/
def State.ordered (s : State) (i : Issuer) (pa n : Nat) (watch : Bool) (k : Acc) (wrote : Bool) : State :=
  let e := s.races.find? (fun r => r.granule = pa / 64)
  let covered := watch && (dirOf pa).isSome
  let s := if !k.acq then s
    else if covered then match e with
      | some { rel := some (w, g, h), .. } => s.setAgent i (fun x => mergeHorizon x (mergeHorizon h (some [(w, g + 1)]))) id
      | _ => s
    else s.acquireTop i
  let me := s.agent i; let gen := s.relGenOf i; let hz := s.horizonOf i
  let s := if covered && (wrote || k.rel) then
      let base : RaceEntry := match e with
        | some r => r
        | none => ⟨pa / 64, me, gen, 0, k.atomic, k.scope, i, none⟩
      let base := if wrote then { base with writer := me, gen := gen, bytes := byteMask pa n, atomic := k.atomic, scope := k.scope, wiss := i } else base
      { s with races := putRace s.races (if k.rel then { base with rel := some (me, gen, hz) } else base) }
    else s
  if k.rel then s.releaseGen i else s

/-! Accesses. -/

/-- Whether an issuer's accesses can raise the race exception (R105): frames and records, not engines or the host. -/
def Issuer.raises (i : Issuer) : Bool := i.far = 0 && i.eng.isNone && (i.frame.isSome || i.unit.isSome)

/-- One access of n bytes to virtual memory: translation, race check, the read at the home node and, when `upd` answers a
new value, the write, indivisible (R78, R92, R105). A store, plain or a release, reads nothing. Answers the value read. -/
def State.access (s : State) (tlb : Nat) (i : Issuer) (va n : Nat) (k : Acc) (upd : Nat → Option Nat) : State × Except Err Nat :=
  match s.translate tlb i.die i.ctx va k.wr false i.priv with
  | (s, .error e) => (s, .error (errOf e k.wr))
  | (s, .ok t) =>
    match (if t.watch && i.raises then s.race i t.pa n k else none) with
    | some e => (s, .error e)
    | none =>
      let perform (s : State) (old : Nat) : State × Except Err Nat :=
        match upd old with
        | none => (s.ordered i t.pa n t.watch k false, .ok old)
        | some v =>
          match s.physWrite t.slot t.pa (leBytes n v) with
          | (s, .error c) => (s, .error ⟨c, 0, 0⟩)
          | (s, .ok _) => (s.ordered i t.pa n t.watch k true, .ok old)
      if k.wr && (!k.atomic || (k.rel && !k.acq)) then perform s 0
      else match s.physRead t.slot t.pa n with
        | (s, .error c) => (s, .error ⟨c, 0, 0⟩)
        | (s, .ok b) => perform s (leNat b)

/-- The scope of a plain access: SYSTEM for a transfer of an Ethernet peer (R381), else DIE. -/
def Issuer.scope (i : Issuer) : Nat := if i.far = 0 then 5 else 11

/-- A plain load. -/
def State.loadN (s : State) (tlb : Nat) (i : Issuer) (va n : Nat) : State × Except Err Nat :=
  s.access tlb i va n { scope := i.scope } (fun _ => none)

/-- A plain store. -/
def State.storeN (s : State) (tlb : Nat) (i : Issuer) (va n v : Nat) : State × Except Err Nat :=
  s.access tlb i va n { wr := true, scope := i.scope } (fun _ => some v)

/-- Memory of another module (Table 17.1). -/
def isRemote (pa : Nat) : Bool := match target pa with | .remote _ => true | _ => false

/-- An access reaches another module's memory. -/
def State.remoteVa (s : State) (tlb : Nat) (i : Issuer) (va : Nat) (wr : Bool) : Bool :=
  match (s.translate tlb i.die i.ctx va wr false i.priv).2 with
  | .ok t => isRemote t.pa
  | .error _ => false

/-- What becomes of the response of another module within MEMTO, which is free (R108, log 14): 0 it is there, 1 it is not and the
access has not been performed, 2 it is not though the access has been performed. With every link down there is none (R373). -/
def State.farResponse (s : State) : Nat × State :=
  if s.linksDown then (1, s) else ((Config.freeByte s.draws).toNat % 3, { s with draws := s.draws + 1 })

/-- An access of a record (R150): MEM_TIMEOUT when another module's response is late. -/
def State.recAccess (s : State) (tlb : Nat) (i : Issuer) (va n : Nat) (k : Acc) (upd : Nat → Option Nat) : State × Except Err Nat :=
  if !s.remoteVa tlb i va k.wr then s.access tlb i va n k upd
  else match s.farResponse with
    | (0, s) => s.access tlb i va n k upd
    | (1, s) => (s, .error ⟨Cause.memTimeout, 0, 0⟩)
    | (_, s) => match s.access tlb i va n k upd with
      | (s, .ok _) => (s, .error ⟨Cause.memTimeout, 0, 0⟩)
      | r => r

/-! Engine-context handles (R152, R309). -/

/-- Fields of a handle (Table 7.1). -/
def hDie (h : Nat) : Nat := bits h 31 30
def hClass (h : Nat) : Nat := bits h 29 28
def hUnit (h : Nat) : Nat := bits h 27 23
def hCtx (h : Nat) : Nat := bits h 22 19
def hCsc (h : Nat) : Bool := bit h 18

/-- A handle names a context (R152). -/
def State.handleOk (s : State) (h : Nat) : Bool :=
  bits h 63 32 = 0 && bits h 17 0 = 0 &&
  (match hClass h with
    | 0 => hUnit h < 8 && s.feat (27 + hDie h)
    | 1 => hCtx h < 4 && s.feat (27 + hDie h) && s.feat 18
    | 2 => hUnit h = 0 && hDie h = 0 && s.feat 14
    | _ => false)

/-- The number of an engine context. -/
def ctxKey (h : Nat) : Nat := hClass h * 2 ^ 16 + hDie h * 2 ^ 12 + hUnit h * 2 ^ 4 + hCtx h

/-- The scope of releases and acquires made through a handle (R96). -/
def hScope (h : Nat) : Nat := if hCsc h then 6 else 5

/-- One bits of a number below bit n. -/
def onesBelow (x : Nat) : Nat → Nat
  | 0 => 0
  | n + 1 => b2n (bit x n) + onesBelow x n

/-- A handle is granted to a control block: its grant bit is set, on the grants' die, and within the ECTX budget (R309). -/
def State.granted (s : State) (ctx cbix h : Nat) : Bool :=
  let b := effBlock 2 (s.chain ctx 8 cbix)
  let all := bits b 639 512 + 2 ^ 128 * bits b 767 640 + 2 ^ 256 * bits b 783 768
  let ix := match hClass h with
    | 0 => 16 * hUnit h + hCtx h
    | 1 => 128 + 4 * hUnit h + hCtx h
    | _ => 256 + hCtx h
  s.handleOk h && bit all ix && onesBelow all ix < (s.block ctx cbix).ectx && (hClass h = 2 || bits b 785 784 = hDie h)

/-- Why an engine handle is refused (R152, R309, R336): it is not granted, or its unit belongs to another partition. -/
def State.handleCause (s : State) (ctx cbix h : Nat) : Option Nat :=
  if !s.granted ctx cbix h then some Cause.engineAccess
  else if hClass h ≠ 2 ∧ s.partOfDie (hDie h) ≠ s.partOfCtx ctx then some Cause.trPartition
  else none

/-- The read-modify-write operations of Table 6.6 on b-bit values: `e` is the expected value of cas. -/
def amoOp (op b old v e : Nat) : Nat :=
  let lt := Num.toInt b old ≤ Num.toInt b v
  match op with
  | 0 => (old + v) % 2 ^ b
  | 1 => old &&& v
  | 2 => old ||| v
  | 3 => old ^^^ v
  | 4 => if lt then old else v
  | 5 => if lt then v else old
  | 6 => min old v
  | 7 => max old v
  | 8 => v
  | _ => if old = e then v else old

end Sys2Proof.Machine
end

