-- ==== Sys2Proof/Machine/SeqAlu.lean ====
section
/-! DEFINITION. Integer instructions, comparisons, immediates and control transfer of sequencers and control cores (R153 to
R155, R160). -/

namespace Sys2Proof.Machine

open Sys2Proof

/-- A register operation: gd := v, and the next word. -/
def State.put (s : State) (d : BitVec 5) (v : Word) : Out := .next (s.setG d v).adv

/-- The same for an X form. -/
def State.putX (s : State) (d : BitVec 5) (v : Word) : Out := .next (s.setG d v).advX

/-- A predicate result. -/
def State.putP (s : State) (p : BitVec 3) (v : Bool) : Out := .next (s.setP p v).adv

/-- bits [127:64] of the signed product. -/
def mulHigh (a b : Word) : Word := ((a.signExtend 128 * b.signExtend 128) >>> 64).setWidth 64

/-- bits [127:64] of the unsigned product. -/
def mulHighN (a b : Word) : Word := ((a.setWidth 128 * b.setWidth 128) >>> 64).setWidth 64

/-- DIV (R153): truncated, −1 for a division by zero. -/
def divS (a b : Word) : Word := if b = 0#64 then -1#64 else a.sdiv b

/-- REM (R153): the sign of A, A for a division by zero. -/
def remS (a b : Word) : Word := if b = 0#64 then a else a.srem b

/-- DIVN (R153). -/
def divN (a b : Word) : Word := if b = 0#64 then -1#64 else a / b

/-- REMN (R153). -/
def remN (a b : Word) : Word := if b = 0#64 then a else a % b

/-- Leading zeros of the low n bits. -/
def leadingZeros (a : Word) : Nat → Nat
  | 0 => 0
  | n + 1 => if a.getLsbD n then 0 else leadingZeros a n + 1

/-- One bits among the low n. -/
def oneBits (a : Word) : Nat → Nat
  | 0 => 0
  | n + 1 => b2n (a.getLsbD n) + oneBits a n

/-- Comparison by condition code (Table 6.4, R136). -/
def compare (cc : BitVec 3) (a b : Word) : Bool :=
  match cc.toNat with
  | 0 => a = b
  | 1 => a ≠ b
  | 2 => a.slt b
  | 3 => !a.slt b
  | 4 => a.sle b
  | 5 => !a.sle b
  | 6 => a.ult b
  | _ => !a.ult b

/-- ADD (R153). -/
def execSAdd (d a b : BitVec 5) (s : State) : Out := s.put d (s.g a + s.g b)
/-- SUB (R153). -/
def execSSub (d a b : BitVec 5) (s : State) : Out := s.put d (s.g a - s.g b)
/-- MUL (R153). -/
def execSMul (d a b : BitVec 5) (s : State) : Out := s.put d (s.g a * s.g b)
/-- MULH (R153). -/
def execSMulh (d a b : BitVec 5) (s : State) : Out := s.put d (mulHigh (s.g a) (s.g b))
/-- MULHN (R153). -/
def execSMulhn (d a b : BitVec 5) (s : State) : Out := s.put d (mulHighN (s.g a) (s.g b))
/-- DIV (R153). -/
def execSDiv (d a b : BitVec 5) (s : State) : Out := s.put d (divS (s.g a) (s.g b))
/-- DIVN (R153). -/
def execSDivn (d a b : BitVec 5) (s : State) : Out := s.put d (divN (s.g a) (s.g b))
/-- REM (R153). -/
def execSRem (d a b : BitVec 5) (s : State) : Out := s.put d (remS (s.g a) (s.g b))
/-- REMN (R153). -/
def execSRemn (d a b : BitVec 5) (s : State) : Out := s.put d (remN (s.g a) (s.g b))
/-- AND (R153). -/
def execSAnd (d a b : BitVec 5) (s : State) : Out := s.put d (s.g a &&& s.g b)
/-- OR (R153). -/
def execSOr (d a b : BitVec 5) (s : State) : Out := s.put d (s.g a ||| s.g b)
/-- XOR (R153). -/
def execSXor (d a b : BitVec 5) (s : State) : Out := s.put d (s.g a ^^^ s.g b)
/-- ANDN (R153). -/
def execSAndn (d a b : BitVec 5) (s : State) : Out := s.put d (s.g a &&& ~~~(s.g b))
/-- SHL (R153). -/
def execSShl (d a b : BitVec 5) (s : State) : Out := s.put d (s.g a <<< ((s.g b).toNat % 64))
/-- SHR (R153). -/
def execSShr (d a b : BitVec 5) (s : State) : Out := s.put d (s.g a >>> ((s.g b).toNat % 64))
/-- SAR (R153). -/
def execSSar (d a b : BitVec 5) (s : State) : Out := s.put d ((s.g a).sshiftRight ((s.g b).toNat % 64))
/-- MIN (R153). -/
def execSMin (d a b : BitVec 5) (s : State) : Out := s.put d (if (s.g a).slt (s.g b) then s.g a else s.g b)
/-- MAX (R153). -/
def execSMax (d a b : BitVec 5) (s : State) : Out := s.put d (if (s.g a).slt (s.g b) then s.g b else s.g a)
/-- MINN (R153). -/
def execSMinn (d a b : BitVec 5) (s : State) : Out := s.put d (if (s.g a).ult (s.g b) then s.g a else s.g b)
/-- MAXN (R153). -/
def execSMaxn (d a b : BitVec 5) (s : State) : Out := s.put d (if (s.g a).ult (s.g b) then s.g b else s.g a)
/-- SEL (R153). -/
def execSSel (d a b : BitVec 5) (c : BitVec 3) (s : State) : Out := s.put d (if s.me.p c then s.g a else s.g b)
/-- CLZ (R153). -/
def execSClz (d a : BitVec 5) (s : State) : Out := s.put d (BitVec.ofNat 64 (leadingZeros (s.g a) 64))
/-- POPC (R153). -/
def execSPopc (d a : BitVec 5) (s : State) : Out := s.put d (BitVec.ofNat 64 (oneBits (s.g a) 64))
/-- CMP.cc (R154). -/
def execSCmp (p : BitVec 3) (a b : BitVec 5) (c : BitVec 3) (s : State) : Out := s.putP p (compare c (s.g a) (s.g b))

/-- ADDI, the I form (R155). -/
def execSAddi (d a : BitVec 5) (i : BitVec 16) (s : State) : Out := s.put d (s.g a + i.signExtend 64)
/-- ANDI, the I form (R155). -/
def execSAndi (d a : BitVec 5) (i : BitVec 16) (s : State) : Out := s.put d (s.g a &&& i.setWidth 64)
/-- ORI, the I form (R155). -/
def execSOri (d a : BitVec 5) (i : BitVec 16) (s : State) : Out := s.put d (s.g a ||| i.setWidth 64)
/-- XORI, the I form (R155). -/
def execSXori (d a : BitVec 5) (i : BitVec 16) (s : State) : Out := s.put d (s.g a ^^^ i.setWidth 64)
/-- SHLI (R155). -/
def execSShli (d a : BitVec 5) (c : BitVec 6) (s : State) : Out := s.put d (s.g a <<< c.toNat)
/-- SHRI (R155). -/
def execSShri (d a : BitVec 5) (c : BitVec 6) (s : State) : Out := s.put d (s.g a >>> c.toNat)
/-- SARI (R155). -/
def execSSari (d a : BitVec 5) (c : BitVec 6) (s : State) : Out := s.put d ((s.g a).sshiftRight c.toNat)
/-- LDI, the I form (R155). -/
def execSLdi (d : BitVec 5) (i : BitVec 16) (s : State) : Out := s.put d (i.signExtend 64)
/-- LDHI (R132, R155). -/
def execSLdhi (d : BitVec 5) (h : BitVec 2) (i : BitVec 16) (s : State) : Out :=
  let k := 16 * h.toNat
  s.put d ((s.g d &&& ~~~(0xFFFF#64 <<< k)) ||| (i.setWidth 64 <<< k))
/-- CMPI.cc with cc 0 to 3, the I form (R155). -/
def execSCmpiCcLow (c : BitVec 2) (p : BitVec 3) (a : BitVec 5) (i : BitVec 16) (s : State) : Out :=
  s.putP p (compare (c.setWidth 3) (s.g a) (i.signExtend 64))
/-- CMPI.cc with cc 4 to 7, the I form (R155). -/
def execSCmpiCcHigh (c : BitVec 2) (p : BitVec 3) (a : BitVec 5) (i : BitVec 16) (s : State) : Out :=
  s.putP p (compare (4#3 + c.setWidth 3) (s.g a) (i.signExtend 64))
/-- LDI, the X form (R134, R155). -/
def execSLdiX (d : BitVec 5) (i : BitVec 32) (s : State) : Out := s.putX d (i.signExtend 64)
/-- ADDI, the X form (R134, R155). -/
def execSAddiX (d a : BitVec 5) (i : BitVec 32) (s : State) : Out := s.putX d (s.g a + i.signExtend 64)
/-- ANDI, the X form (R134, R155). -/
def execSAndiX (d a : BitVec 5) (i : BitVec 32) (s : State) : Out := s.putX d (s.g a &&& i.setWidth 64)
/-- ORI, the X form (R134, R155). -/
def execSOriX (d a : BitVec 5) (i : BitVec 32) (s : State) : Out := s.putX d (s.g a ||| i.setWidth 64)
/-- XORI, the X form (R134, R155). -/
def execSXoriX (d a : BitVec 5) (i : BitVec 32) (s : State) : Out := s.putX d (s.g a ^^^ i.setWidth 64)
/-- CMPI.cc, the X form (R134, R155). -/
def execSCmpiX (p c : BitVec 3) (a : BitVec 5) (i : BitVec 32) (s : State) : Out :=
  .next (s.setP p (compare c (s.g a) (i.signExtend 64))).advX

/-! Control transfer (R133, R160). -/

/-- The target of a B or J form. -/
def State.pcRel (s : State) (off : BitVec 57) : BitVec 57 := s.me.pc + off * 4#57

/-- A jump to a register's value: ALIGN or ADDRESS_RANGE, or the new program counter (R133). -/
def State.jumpTo (s : State) (i : Instr) (v : Word) : Out :=
  if v.toNat % 4 ≠ 0 then .next (s.trap Cause.align (iword i) v.toNat 0 s.me.pc)
  else if 2 ^ 57 ≤ v.toNat then .next (s.trap Cause.range (iword i) v.toNat 0 s.me.pc)
  else .next (s.setPc (v.setWidth 57))

/-- BR (R133, R160). -/
def execSBr (p : BitVec 3) (sn : BitVec 1) (o : BitVec 22) (s : State) : Out :=
  if s.me.p p == (sn == 1#1) then .next (s.setPc (s.pcRel (o.signExtend 57))) else .next s.adv
/-- JMP (R133, R160). -/
def execSJmp (o : BitVec 26) (s : State) : Out := .next (s.setPc (s.pcRel (o.signExtend 57)))
/-- JMPI (R133, R160). -/
def execSJmpi (a : BitVec 5) (s : State) : Out := s.jumpTo (.sJmpi a) (s.g a)
/-- CALL (R133, R160): g31 holds the next word's address. -/
def execSCall (o : BitVec 26) (s : State) : Out :=
  .next ((s.setG 31#5 ((s.me.pc + 4#57).setWidth 64)).setPc (s.pcRel (o.signExtend 57)))
/-- RET (R133, R160). -/
def execSRet (s : State) : Out := s.jumpTo .sRet (s.g 31#5)

end Sys2Proof.Machine
end

