-- ==== Sys2Proof/Machine/NodeCompute.lean ====
section
/-! DEFINITION. Firing (R22, R23, R188, R245) and the compute nodes (spec/08): integer, floating-point, comparison,
selection, predicates, conversion, tables and lane movement. -/

namespace Sys2Proof

/-- Declared ports and stickiness of a node (Table 6.8). -/
def NodeBody.hasL (n : NodeBody) : Bool := n.inp.getLsbD 3
def NodeBody.hasR (n : NodeBody) : Bool := n.inp.getLsbD 2
def NodeBody.hasP (n : NodeBody) : Bool := n.inp.getLsbD 1
def NodeBody.hasImm (n : NodeBody) : Bool := n.inp.getLsbD 0
def NodeBody.stickyL (n : NodeBody) : Bool := n.fire.getLsbD 3
def NodeBody.stickyR (n : NodeBody) : Bool := n.fire.getLsbD 2
def NodeBody.gate (n : NodeBody) : Bool := n.fire.getLsbD 1
def NodeBody.qs (n : NodeBody) : Bool := n.fire.getLsbD 0

end Sys2Proof

namespace Sys2Proof.Machine

open Sys2Proof

/-- What a node finds when it fires: its operands, with the lanes its predicate turns off masked off (R188). -/
structure Fire where
  pk : Nat
  e : Nat
  node : Nat
  f : Nat
  p : Plane
  fr : Frame
  n : NodeBody
  /-- As they arrived. -/
  l : Operand
  r : Operand
  pr : Operand
  rnd : Num.Rnd
  deriving DecidableEq, Repr

/-- What a firing gives: the result, its kind, the flags and S in `rnd`, and changes at the end of the fc. -/
structure Fired where
  val : Vec
  mask : Mask
  kind : BitVec 4 := 0#4
  rnd : Num.Rnd
  pend : List Pending := []
  deriving DecidableEq, Repr

/-- The plane lets nodes of an element fire: ACTIVE or DRAINING, not frozen, and switched in if it is a successor (R35,
R166, R351). -/
def Plane.fires (p : Plane) (e : Nat) : Bool :=
  (p.state = .active || p.state = .draining) && !p.frozen && (p.pred.isNone || p.switched.contains e)

/-- The site's frame may fire there: it is live, not parked, and its part in the copy has not ended, and the element has not fired
in this fc (R23, R208, R343). -/
def State.mayFire (s : State) : Option Frame :=
  let t := s.site; let p := s.plane t.plane
  if !p.fires t.elem || s.fired.contains (4096 * pkDie t.plane + t.elem) then none
  else match p.frame? t.frame with
    | some f => if f.parked || f.ended.contains (p.copyOf t.plane t.elem) then none else some f
    | none => none

/-- The value that a node reads at a declared port; none when it is not present. An immediate and an undeclared port
count as present (R22, R142). Sticky operands and immediates count as fully masked (R15). -/
def State.readPort (s : State) (n : NodeBody) (port : Nat) : Option Operand :=
  let t := s.site; let p := s.plane t.plane
  match port with
  | 0 => if !n.hasL then some noOperand
         else (p.at_ t.elem t.node t.frame 0 n.stickyL).map (fun o => if n.stickyL then { o with mask := 0xFFFF#16 } else o)
  | 1 => if n.hasImm then some ⟨immVec n.fmt.toNat n.operand.toNat, 0xFFFF#16, 0#4⟩
         else if !n.hasR then some noOperand
         else (p.at_ t.elem t.node t.frame 1 n.stickyR).map (fun o => if n.stickyR then { o with mask := 0xFFFF#16 } else o)
  | _ => if !n.hasP then some noOperand else p.at_ t.elem t.node t.frame 2 false

/-- Everything a ready node has at the site; none when it is not ready (R22). -/
def State.ready (s : State) (n : NodeBody) : Option Fire :=
  let t := s.site; let p := s.plane t.plane
  match s.mayFire, s.readPort n 0, s.readPort n 1, s.readPort n 2 with
  | some fr, some l, some r, some q =>
    some { pk := t.plane, e := t.elem, node := t.node, f := t.frame, p := p, fr := fr, n := n, l := l, r := r, pr := q,
           rnd := ⟨n.mod.toNat % 8, p.srReg t.plane t.elem, 0⟩ }
  | _, _, _, _ => none

/-- Consumes a port's value unless it is sticky (R22). -/
def Plane.take (p : Plane) (e node f port : Nat) : Plane := { p with slots := p.slots.del (slotKey node f port e) }

/-- Consumes the declared non-sticky operands of a firing. -/
def Plane.consume (p : Plane) (n : NodeBody) (e node f : Nat) : Plane :=
  let p := if n.hasL && !n.stickyL then p.take e node f 0 else p
  let p := if n.hasR && !n.stickyR then p.take e node f 1 else p
  if n.hasP then p.take e node f 2 else p

/-- Marks the element as having fired in this fc and moves its round-robin pointer past the plane (R23). -/
def State.markFired (s : State) (pk e : Nat) : State :=
  { s with fired := (4096 * pkDie pk + e) :: s.fired, rr := s.rr.put (4096 * pkDie pk + e) ((pkPp pk + 1) % 4) }

/-- The firing takes its operands. -/
def State.takeOperands (s : State) (a : Fire) : State :=
  (s.setPlane a.pk (a.p.consume a.n a.e a.node a.f)).markFired a.pk a.e

/-- Applies flags, S and end-of-fc changes of a firing (R21, R56, R237). -/
def State.applyFired (s : State) (a : Fire) (o : Fired) : State :=
  let s := s.flag a.pk a.f a.fr.gen o.rnd.fl
  let p := s.plane a.pk
  s.setPlane a.pk { p with
    lfsr := if o.rnd.s = a.rnd.s then p.lfsr else p.lfsr.put a.e o.rnd.s
    pend := p.pend ++ o.pend
    held := if a.n.qs then p.held.put (32 * a.e + a.node) (o.val, o.mask, o.kind) else p.held }

/-- Quiet bits of an element and its eight neighbours allow a skip (R245). -/
def State.quietAround (s : State) (pk e : Nat) : Bool :=
  let p := s.plane pk
  let own := ((p.quiet.find e).map Prod.fst).getD false
  let x := relX pk e; let y := relY pk e
  own && [(-1, -1), (0, -1), (1, -1), (-1, 0), (1, 0), (-1, 1), (0, 1), (1, 1)].all (fun ((dx, dy) : Int × Int) =>
    let ux := (x : Int) + dx; let uy := (y : Int) + dy
    ux < 0 || uy < 0 || 8 * (p.w : Int) ≤ ux || 8 * (p.h : Int) ≤ uy ||
    p.skip.contains (p.copyOf pk (elemAt pk ux.toNat uy.toNat)) ||
    ((p.quiet.find (elemAt pk ux.toNat uy.toNat)).map Prod.snd).getD false)

/-- A quiet-skippable node skips: it has fired before and its neighbourhood is quiet (R245). -/
def State.skipResult (s : State) (a : Fire) : Option (Vec × Mask × BitVec 4) :=
  if a.n.qs && s.quietAround a.pk a.e then a.p.held.find (32 * a.e + a.node) else none

/-- One firing of a compute node: not ready, nothing happens; in a quiet neighbourhood it skips; else it consumes its
operands, computes, and sends its result in its own frame (R22, R26, R245). -/
def State.fire (s : State) (n : NodeBody) (compute : Fire → Fired) : Out :=
  match s.ready n with
  | none => .next s
  | some a =>
    match s.skipResult a with
    | some (v, m, k) => .next ((s.takeOperands a).sendBoth a.pk a.e n a.f a.fr.gen ⟨v, m, k⟩)
    | none =>
      let o := compute a
      .next (((s.takeOperands a).applyFired a o).sendBoth a.pk a.e n a.f a.fr.gen ⟨o.val, o.mask, o.kind⟩)

/-! Masks of a firing. -/

/-- Both mask bits of a 64-bit element equal its even lane word's (R187). -/
def normMask (b : Nat) (m : Mask) : Mask :=
  if b = 64 then mkMask ((List.range 16).map (fun i => m.getLsbD (i / 2 * 2))) else m

/-- Lanes that P leaves on, for a node that it predicates (R188). -/
def Fire.on (a : Fire) : Mask := if a.n.hasP then truthMask a.pr else 0xFFFF#16

/-- Lanes computed by an element-wise node (R15, R187, R188). -/
def Fire.live (a : Fire) : Mask := normMask (NodeCheck.width a.n.fmt.toNat) (a.l.mask &&& a.r.mask &&& a.on)

/-- Puts L's own lane words and mask bits where P is off, under FIRE.GATE (R188); a lane word whose result mask bit is clear is zero
(R15). -/
def Fire.finish (a : Fire) (v : Vec) (m : Mask) : Vec × Mask :=
  if a.n.gate && a.n.hasP then
    let on := a.on
    (mkVec 32 ((List.range 16).map (fun i =>
        if on.getLsbD i then (if m.getLsbD i then lane v i else 0) else if a.l.mask.getLsbD i then lane a.l.val i else 0)),
     (m &&& on) ||| (a.l.mask &&& ~~~on))
  else (zeroOff v m, m)

/-- Computes the live elements of width b in ascending order, threading flags and S (R57, R187). -/
def overElems (b : Nat) (m : Mask) (r : Num.Rnd) (op : Nat → Num.Rnd → Nat × Num.Rnd) : List Nat × Num.Rnd :=
  (List.range (512 / b)).foldl (fun (acc, r) j =>
    if elemLive m b j then let (x, r) := op j r; (acc ++ [x], r) else (acc ++ [0], r)) ([], r)

/-- An element-wise node. -/
def elementwise (a : Fire) (op : Nat → Num.Rnd → Nat × Num.Rnd) : Fired :=
  let b := NodeCheck.width a.n.fmt.toNat
  let (l, r) := overElems b a.live a.rnd op
  let (v, m) := a.finish (mkVec b l) a.live
  { val := v, mask := m, rnd := r }

/-- The plane register that IMAD and FFMA name, and its write-back at the end of the fc (R192, R193, R237). -/
def Fire.wc (a : Fire) : Nat := a.p.phys a.pk a.e (a.n.operand.toNat % 32)

/-- The write-back of the computed lanes: a lane that P turns off writes nothing, though it be half of a live element (R188, R192). -/
def Fire.writeBack (a : Fire) (o : Fired) : Fired :=
  if a.n.operand.toNat / 32 % 2 = 1 then
    let r := a.wc; let old := a.p.wreg a.e r
    { o with pend := [.wreg (32 * a.e + r) (mkVec 32 ((List.range 16).map (fun i =>
        if a.live.getLsbD i && a.on.getLsbD i then lane o.val i else lane old i)))] }
  else o

/-! Integer arithmetic (R192). -/

/-- Bits [hi:lo] replaced. -/
def insertBits (a pos width c : Nat) : Nat :=
  a / 2 ^ (pos + width) * 2 ^ (pos + width) + c % 2 ^ width * 2 ^ pos + a % 2 ^ pos

/-- Number of one bits of the low n bits. -/
def popcount (x : Nat) : Nat → Nat
  | 0 => 0
  | n + 1 => b2n (bit x n) + popcount x n

/-- Leading zeros of a b-bit number. -/
def clz (b x : Nat) : Nat := if x = 0 then b else b - 1 - Nat.log2 x

/-- The table of R192 for one element: a = L.j, c = R.j, w = wc.j, and the flags raised. -/
def intOp (opc fmt operand a c w : Nat) : Nat × Nat :=
  let b := NodeCheck.width fmt; let M := 2 ^ b
  let A := Num.intVal fmt a; let C := Num.intVal fmt c
  let sh := c % b
  match opc with
  | 0x00 => ((a + c) % M, 0)
  | 0x01 => ((a + (M - c % M)) % M, 0)
  | 0x02 => (a * c % M, 0)
  | 0x03 => (Num.ofInt b (A * C / (M : Nat)), 0)
  | 0x04 => ((a * c + w) % M, 0)
  | 0x05 => (if Num.signed fmt then Num.ofInt b A.natAbs else a, 0)
  | 0x06 => ((M - a) % M, 0)
  | 0x07 => (if A ≤ C then a else c, 0)
  | 0x08 => (if A ≤ C then c else a, 0)
  | 0x09 => (a &&& c, 0)
  | 0x0A => (a ||| c, 0)
  | 0x0B => (a ^^^ c, 0)
  | 0x0C => (M - 1 - a, 0)
  | 0x0D => (a * 2 ^ sh % M, 0)
  | 0x0E => (a / 2 ^ sh, 0)
  | 0x0F => (Num.ofInt b (Num.toInt b a / (2 ^ sh : Nat)), 0)
  | 0x10 => (a * 2 ^ sh % M + a / 2 ^ (b - sh), 0)
  | 0x11 => (popcount a b, 0)
  | 0x12 => (clz b a, 0)
  | 0x13 =>
    let x := a / 2 ^ (operand % 256) % 2 ^ (operand / 256)
    (if Num.signed fmt then Num.ofInt b (Num.toInt (operand / 256) x) else x, 0)
  | 0x14 => (insertBits a (operand % 256) (operand / 256) c, 0)
  | 0x15 => let (v, hit) := Num.clamp (Num.intRange fmt).1 (Num.intRange fmt).2 (A + C); (Num.ofInt b v, if hit then Num.OF else 0)
  | _ => let (v, hit) := Num.clamp (Num.intRange fmt).1 (Num.intRange fmt).2 (A - C); (Num.ofInt b v, if hit then Num.OF else 0)

/-- An integer node (R192). -/
def intNode (opc : Nat) (a : Fire) : Fired :=
  let fmt := a.n.fmt.toNat; let b := NodeCheck.width fmt
  let w := if opc = 0x04 then a.p.wreg a.e a.wc else 0#512
  let o := elementwise a (fun j r =>
    let (x, fl) := intOp opc fmt a.n.operand.toNat (elem a.l.val b j) (elem a.r.val b j) (elem w b j); (x, r.raise fl))
  if opc = 0x04 then a.writeBack o else o

/-! Floating-point arithmetic (R193 to R195). -/

/-- A floating-point node. -/
def floatNode (opc : Nat) (a : Fire) : Fired :=
  let fmt := a.n.fmt.toNat; let b := NodeCheck.width fmt; let t := Num.fmtOf fmt
  let w := if opc = 0x23 then a.p.wreg a.e a.wc else 0#512
  let o := elementwise a (fun j r =>
    let x := elem a.l.val b j; let y := elem a.r.val b j
    match opc with
    | 0x23 => Num.ffma t r x y (elem w b j)
    | 0x24 => let (v, f) := Num.fminmax t false x y; (v, r.raise f)
    | 0x25 => let (v, f) := Num.fminmax t true x y; (v, r.raise f)
    | 0x26 => let (v, f) := Num.fsgn t x y; (v, r.raise f)
    | 0x27 => Num.frcp t r (Num.decode t x)
    | 0x28 => Num.frsq t r (Num.decode t x)
    | 0x29 => Num.fsqrt t r (Num.decode t x)
    | 0x2B => Num.fexp2 t r (Num.decode t x)
    | 0x2C => Num.flog2 t r (Num.decode t x)
    | _ => Num.fbin t opc r x y)
  if opc = 0x23 then a.writeBack o else o

/-! Comparison, selection and predicate logic (R196 to R198). -/

/-- A condition of Table 6.10 on two integers. -/
def ccInt (cc : Nat) (a c : Int) : Bool :=
  match cc with
  | 0 => a = c
  | 1 => a ≠ c
  | 2 => a < c
  | 3 => a ≤ c
  | 4 => c < a
  | _ => c ≤ a

/-- A condition on two floating-point values, and NV (R196). -/
def ccFloat (cc : Nat) (a c : Num.Val) : Bool × Nat :=
  let un := a.isNan || c.isNan
  let nv := if a.isSnan || c.isSnan || (un && 2 ≤ cc && cc ≤ 5) then Num.NV else 0
  let r := match cc with
    | 6 => !un
    | 7 => un
    | 1 => un || Num.cmp a c ≠ .eq
    | 0 => !un && Num.cmp a c = .eq
    | 2 => !un && Num.cmp a c = .lt
    | 3 => !un && Num.cmp a c ≠ .gt
    | 4 => !un && Num.cmp a c = .gt
    | _ => !un && Num.cmp a c ≠ .lt
  (r, nv)

/-- CMP (R196). -/
def cmpNode (a : Fire) : Fired :=
  let fmt := a.n.fmt.toNat; let b := NodeCheck.width fmt; let cc := a.n.mod.toNat
  let o := elementwise a (fun j r =>
    let x := elem a.l.val b j; let y := elem a.r.val b j
    let (c, fl) := if fmt < 8 then (ccInt cc (Num.intVal fmt x) (Num.intVal fmt y), 0)
      else ccFloat cc (Num.decode (Num.fmtOf fmt) x) (Num.decode (Num.fmtOf fmt) y)
    (if c then 2 ^ b - 1 else 0, r.raise fl))
  { o with kind := 1#4 }

/-- SEL (R197): P is a selector, read bitwise at each element's position. -/
def selNode (a : Fire) : Fired :=
  let b := NodeCheck.width a.n.fmt.toNat
  let m := normMask b (a.l.mask &&& a.r.mask &&& a.pr.mask)
  let v := mkVec b ((List.range (512 / b)).map (fun j =>
    if elem a.pr.val b j ≠ 0 then elem a.l.val b j else elem a.r.val b j))
  { val := zeroOff v m, mask := m, rnd := a.rnd }

/-- MAND, MOR, MNOT, ANY, ALL (R198). -/
def maskNode (opc : Nat) (a : Fire) : Fired :=
  let m := a.l.mask &&& a.r.mask
  let bw (f : Nat → Nat → Nat) : Fired :=
    { val := zeroOff (mkVec 32 ((List.range 16).map (fun i => f (lane a.l.val i) (lane a.r.val i)))) m, mask := m, kind := 1#4, rnd := a.rnd }
  let cond (c : Bool) : Fired :=
    { val := mkVec 32 (List.replicate 16 (if c then 2 ^ 32 - 1 else 0)), mask := 0xFFFF#16, kind := 1#4, rnd := a.rnd }
  match opc with
  | 0x42 => bw (fun x y => x &&& y)
  | 0x43 => bw (fun x y => x ||| y)
  | 0x44 => bw (fun x _ => 2 ^ 32 - 1 - x)
  | 0x45 => cond ((List.range 16).any (fun i => a.l.mask.getLsbD i && lane a.l.val i ≠ 0))
  | _ => cond ((List.range 16).all (fun i => !a.l.mask.getLsbD i || lane a.l.val i ≠ 0))

/-! Conversion and tables (R199 to R201). -/

/-- CVT (R199). -/
def cvtNode (a : Fire) : Fired :=
  let dst := a.n.fmt.toNat; let src := a.n.operand.toNat % 16
  let sb := NodeCheck.width src; let db := NodeCheck.width dst
  let e := if sb = 64 ∨ db = 64 then 8 else 16
  let m := a.l.mask &&& a.on
  let (l, r) := (List.range e).foldl (fun (acc, r) j =>
    if m.getLsbD (unpLane e j) then
      let (x, r) := Num.cvt dst src (a.n.mod.getLsbD 3) r (unpacked a.l.val sb e j); (acc ++ [(x, true)], r)
    else (acc ++ [(0, false)], r)) (([] : List (Nat × Bool)), a.rnd)
  let (v, mk) := mkUnpacked dst e l
  let (v, mk) := a.finish v mk
  { val := v, mask := mk, rnd := r }

/-- PACK (R200). -/
def packNode (a : Fire) : Fired :=
  let b := NodeCheck.width a.n.fmt.toNat; let n := 32 / b; let k := a.n.operand.toNat % 16
  let base := if a.n.hasL then a.l else ⟨0#512, 0#16, 0#4⟩
  let v := mkVec b ((List.range (512 / b)).map (fun q =>
    if 16 * k ≤ q ∧ q < 16 * (k + 1) then lane a.r.val (q - 16 * k) % 2 ^ b else elem base.val b q))
  let m := mkMask ((List.range 16).map (fun w =>
    if 16 * k / n ≤ w ∧ w < 16 * (k + 1) / n then
      (List.range n).all (fun t => a.r.mask.getLsbD (w * n + t - 16 * k))
    else base.mask.getLsbD w))
  { val := zeroOff v m, mask := m, rnd := a.rnd }

/-- UNPACK (R200). -/
def unpackNode (a : Fire) : Fired :=
  let fmt := a.n.fmt.toNat; let b := NodeCheck.width fmt; let n := 32 / b; let k := a.n.operand.toNat % 16
  let m := mkMask ((List.range 16).map (fun i => a.l.mask.getLsbD ((16 * k + i) / n)))
  let v := mkVec 32 ((List.range 16).map (fun i => unpackWord fmt (elem a.l.val b (16 * k + i))))
  { val := zeroOff v m, mask := m, rnd := a.rnd }

/-- The expression T[i] + u·(T[i+1] − T[i]) with its special cases (R201). u is un/ud. -/
def lerp (x y : Num.Val) (un ud : Nat) : Num.Val × Nat :=
  if x.isNan || y.isNan then (.nan false, if x.isSnan || y.isSnan then Num.NV else 0)
  else if un = 0 then (x, 0)
  else
    let (d, f1) := Num.add 0 y x.negate
    let (ud', _) := match d with
      | .fin neg n c => (Num.Val.fin neg (n * un) (c * ud), 0)
      | v => (v, 0)
    let (r, f2) := Num.add 0 x ud'
    (r, f1 ||| f2)

/-- LUT (R201). `tab` reads an entry. -/
def lutNode (s : State) (a : Fire) : Fired :=
  let fmt := a.n.fmt.toNat; let b := NodeCheck.width fmt; let o := a.n.operand.toNat
  let e := if b = 64 then 8 else 16
  let n := 2 ^ bits o 19 16
  let tab (i : Nat) : Nat := s.edRead a.pk a.e (bits o 15 0 + i * (b / 8)) (b / 8)
  let t := Num.fmtOf fmt
  let m := a.l.mask &&& a.on
  let one (j : Nat) (r : Num.Rnd) : Nat × Num.Rnd :=
    if !bit o 20 then
      let x := lane a.l.val (unpLane e j)
      let (x, r) := if n ≤ x then (n - 1, r.raise Num.NV) else (x, r)
      let v := tab x
      if fmt < 8 then (v, r)
      else match Num.decode t v with
        | .nan sn => (Num.canonNaN t, if sn then r.raise Num.NV else r)
        | _ => (v, r)
    else
      let pt := if b = 64 then Num.fmtOf 11 else Num.fmtOf 10
      let wide := if b = 64 then Num.fmtOf 11 else Num.fmtOf 10
      let twice := b = 16
      match Num.decode pt (if b = 64 then elem a.l.val 64 j else lane a.l.val (unpLane e j)) with
      | .nan _ => let r := (r.raise Num.NV).step; (Num.canonNaN t, if twice then r.step else r)
      | pv =>
        -- position clamped to [0, N − 1] as a fraction
        let (pn, pd) := match pv with
          | .fin neg x d => if neg then (0, 1) else if (n - 1) * d ≤ x then (n - 1, 1) else (x, d)
          | .inf neg => if neg then (0, 1) else (n - 1, 1)
          | .nan _ => (0, 1)
        let i := min (pn / pd) (n - 2)
        let (v, f) := lerp (Num.decode t (tab i)) (Num.decode t (tab (i + 1))) (pn - i * pd) pd
        let (x, r) := Num.round wide 0 (r.raise f) v
        if twice then Num.round t 0 r (Num.decode wide x) else (x, r)
  let (l, r) := (List.range e).foldl (fun (acc, r) j =>
    if m.getLsbD (unpLane e j) then let (x, r) := one j r; (acc ++ [(x, true)], r) else (acc ++ [(0, false)], r))
    (([] : List (Nat × Bool)), a.rnd)
  let (v, mk) := mkUnpacked fmt e l
  let (v, mk) := a.finish v mk
  { val := v, mask := mk, rnd := r }

/-! Lane movement (R202, R203). Lanes are elements for a 64-bit FMT. -/

/-- Mask bit of lane j of m lanes. -/
def laneBit (b : Nat) (m : Mask) (j : Nat) : Bool := m.getLsbD (if b = 64 then 2 * j else j)

/-- LPERM, LBCAST, LROT. `src` and `extra` give each result lane's source and the further mask bit it needs. -/
def moveNode (a : Fire) (src : Nat → Nat) (extra : Nat → Bool) : Fired :=
  let b := NodeCheck.width a.n.fmt.toNat; let m := 512 / b
  let lm := a.l.mask &&& a.on
  let live (i : Nat) : Bool := laneBit b lm (src i) && extra i && laneBit b a.on i
  let v := mkVec b ((List.range m).map (fun i => if live i then elem a.l.val b (src i) else 0))
  let mk := mkMask (if b = 64 then (List.range 8).flatMap (fun i => [live i, live i]) else (List.range 16).map live)
  let (v, mk) := a.finish v mk
  { val := v, mask := mk, rnd := a.rnd }

/-- The ⊕ of LRED and LSCAN (R203): add, min or max under FMT. -/
def combine (fmt op : Nat) (r : Num.Rnd) (x y : Nat) : Nat × Num.Rnd :=
  let b := NodeCheck.width fmt
  if fmt < 8 then
    let lt := Num.intVal fmt x ≤ Num.intVal fmt y
    (match op with
      | 0 => (x + y) % 2 ^ b
      | 1 => if lt then x else y
      | _ => if lt then y else x, r)
  else match op with
    | 0 => Num.fbin (Num.fmtOf fmt) 0x20 r x y
    | 1 => let (v, f) := Num.fminmax (Num.fmtOf fmt) false x y; (v, r.raise f)
    | _ => let (v, f) := Num.fminmax (Num.fmtOf fmt) true x y; (v, r.raise f)

/-- One level of the tree of R62. -/
def redLevel (fmt op : Nat) : List (Option Nat) → Num.Rnd → List (Option Nat) × Num.Rnd
  | some x :: some y :: t, r =>
    let (v, r) := combine fmt op r x y
    let (l, r) := redLevel fmt op t r
    (some v :: l, r)
  | some x :: none :: t, r => let (l, r) := redLevel fmt op t r; (some x :: l, r)
  | none :: y :: t, r => let (l, r) := redLevel fmt op t r; (y :: l, r)
  | l, r => (l, r)

/-- The tree of R62 in k levels. -/
def redTree (fmt op : Nat) : Nat → List (Option Nat) → Num.Rnd → Option Nat × Num.Rnd
  | 0, l, r => (l.headD none, r)
  | k + 1, l, r => let (l, r) := redLevel fmt op l r; redTree fmt op k l r

/-- LRED (R62, R203). -/
def lredNode (a : Fire) : Fired :=
  let fmt := a.n.fmt.toNat; let b := NodeCheck.width fmt; let m := 512 / b
  let lm := a.l.mask &&& a.on
  let ins := (List.range m).map (fun j => if laneBit b lm j then some (elem a.l.val b j) else none)
  let (v, r) := redTree fmt (a.n.operand.toNat % 4) (if b = 64 then 3 else 4) ins a.rnd
  match v with
  | some x => { val := BitVec.ofNat 512 x, mask := if b = 64 then 3#16 else 1#16, rnd := r }
  | none => { val := 0#512, mask := 0#16, rnd := r }

/-- LSCAN (R63, R203). The word of a masked-off lane is zero, as R15 has it of every result (log 105). -/
def lscanNode (a : Fire) : Fired :=
  let fmt := a.n.fmt.toNat; let b := NodeCheck.width fmt; let m := 512 / b
  let lm := a.l.mask &&& a.on
  let (out, _, r) := (List.range m).foldl (fun (acc, prev, r) j =>
    if laneBit b lm j then
      let x := elem a.l.val b j
      match prev with
      | none => (acc ++ [x], some x, r)
      | some q => let (v, r) := combine fmt (a.n.operand.toNat % 4) r q x; (acc ++ [v], some v, r)
    else (acc ++ [prev.getD 0], prev, r)) (([] : List Nat), (none : Option Nat), a.rnd)
  let mk := normMask b lm
  let (v, mk) := a.finish (mkVec b out) mk
  { val := v, mask := mk, rnd := r }

/-- IADD (R192). -/
def execNIadd (n : NodeBody) (s : State) : Out := s.fire n (intNode 0x00)

/-- ISUB (R192). -/
def execNIsub (n : NodeBody) (s : State) : Out := s.fire n (intNode 0x01)

/-- IMUL (R192). -/
def execNImul (n : NodeBody) (s : State) : Out := s.fire n (intNode 0x02)

/-- IMULH (R192). -/
def execNImulh (n : NodeBody) (s : State) : Out := s.fire n (intNode 0x03)

/-- IMAD (R192). -/
def execNImad (n : NodeBody) (s : State) : Out := s.fire n (intNode 0x04)

/-- IABS (R192). -/
def execNIabs (n : NodeBody) (s : State) : Out := s.fire n (intNode 0x05)

/-- INEG (R192). -/
def execNIneg (n : NodeBody) (s : State) : Out := s.fire n (intNode 0x06)

/-- IMIN (R192). -/
def execNImin (n : NodeBody) (s : State) : Out := s.fire n (intNode 0x07)

/-- IMAX (R192). -/
def execNImax (n : NodeBody) (s : State) : Out := s.fire n (intNode 0x08)

/-- AND (R192). -/
def execNAnd (n : NodeBody) (s : State) : Out := s.fire n (intNode 0x09)

/-- OR (R192). -/
def execNOr (n : NodeBody) (s : State) : Out := s.fire n (intNode 0x0A)

/-- XOR (R192). -/
def execNXor (n : NodeBody) (s : State) : Out := s.fire n (intNode 0x0B)

/-- NOT (R192). -/
def execNNot (n : NodeBody) (s : State) : Out := s.fire n (intNode 0x0C)

/-- SHL (R192). -/
def execNShl (n : NodeBody) (s : State) : Out := s.fire n (intNode 0x0D)

/-- SHR (R192). -/
def execNShr (n : NodeBody) (s : State) : Out := s.fire n (intNode 0x0E)

/-- SAR (R192). -/
def execNSar (n : NodeBody) (s : State) : Out := s.fire n (intNode 0x0F)

/-- ROT (R192). -/
def execNRot (n : NodeBody) (s : State) : Out := s.fire n (intNode 0x10)

/-- POPC (R192). -/
def execNPopc (n : NodeBody) (s : State) : Out := s.fire n (intNode 0x11)

/-- CLZ (R192). -/
def execNClz (n : NodeBody) (s : State) : Out := s.fire n (intNode 0x12)

/-- BFX (R192). -/
def execNBfx (n : NodeBody) (s : State) : Out := s.fire n (intNode 0x13)

/-- BFI (R192). -/
def execNBfi (n : NodeBody) (s : State) : Out := s.fire n (intNode 0x14)

/-- SADD (R192). -/
def execNSadd (n : NodeBody) (s : State) : Out := s.fire n (intNode 0x15)

/-- SSUB (R192). -/
def execNSsub (n : NodeBody) (s : State) : Out := s.fire n (intNode 0x16)

/-- FADD (R193). -/
def execNFadd (n : NodeBody) (s : State) : Out := s.fire n (floatNode 0x20)

/-- FSUB (R193). -/
def execNFsub (n : NodeBody) (s : State) : Out := s.fire n (floatNode 0x21)

/-- FMUL (R193). -/
def execNFmul (n : NodeBody) (s : State) : Out := s.fire n (floatNode 0x22)

/-- FFMA (R193). -/
def execNFfma (n : NodeBody) (s : State) : Out := s.fire n (floatNode 0x23)

/-- FMIN (R194). -/
def execNFmin (n : NodeBody) (s : State) : Out := s.fire n (floatNode 0x24)

/-- FMAX (R194). -/
def execNFmax (n : NodeBody) (s : State) : Out := s.fire n (floatNode 0x25)

/-- FSGN (R194). -/
def execNFsgn (n : NodeBody) (s : State) : Out := s.fire n (floatNode 0x26)

/-- FRCP (R195). -/
def execNFrcp (n : NodeBody) (s : State) : Out := s.fire n (floatNode 0x27)

/-- FRSQ (R195). -/
def execNFrsq (n : NodeBody) (s : State) : Out := s.fire n (floatNode 0x28)

/-- FSQRT (R193). -/
def execNFsqrt (n : NodeBody) (s : State) : Out := s.fire n (floatNode 0x29)

/-- FDIV (R193). -/
def execNFdiv (n : NodeBody) (s : State) : Out := s.fire n (floatNode 0x2A)

/-- FEXP2 (R195). -/
def execNFexp2 (n : NodeBody) (s : State) : Out := s.fire n (floatNode 0x2B)

/-- FLOG2 (R195). -/
def execNFlog2 (n : NodeBody) (s : State) : Out := s.fire n (floatNode 0x2C)

/-- CMP (R196). -/
def execNCmp (n : NodeBody) (s : State) : Out := s.fire n cmpNode

/-- SEL (R197). -/
def execNSel (n : NodeBody) (s : State) : Out := s.fire n selNode

/-- MAND (R198). -/
def execNMand (n : NodeBody) (s : State) : Out := s.fire n (maskNode 0x42)

/-- MOR (R198). -/
def execNMor (n : NodeBody) (s : State) : Out := s.fire n (maskNode 0x43)

/-- MNOT (R198). -/
def execNMnot (n : NodeBody) (s : State) : Out := s.fire n (maskNode 0x44)

/-- ANY (R198). -/
def execNAny (n : NodeBody) (s : State) : Out := s.fire n (maskNode 0x45)

/-- ALL (R198). -/
def execNAll (n : NodeBody) (s : State) : Out := s.fire n (maskNode 0x46)

/-- LPERM (R202). -/
def execNLperm (n : NodeBody) (s : State) : Out := s.fire n (fun a =>
  let b := NodeCheck.width n.fmt.toNat
  moveNode a (fun i => elem a.r.val b i % (512 / b)) (fun i => laneBit b (a.r.mask &&& a.on) i))

/-- LBCAST (R202). -/
def execNLbcast (n : NodeBody) (s : State) : Out := s.fire n (fun a => moveNode a (fun _ => n.operand.toNat % (512 / NodeCheck.width n.fmt.toNat)) (fun _ => true))

/-- LROT (R202). -/
def execNLrot (n : NodeBody) (s : State) : Out := s.fire n (fun a =>
  let b := NodeCheck.width n.fmt.toNat; let m := 512 / b
  let k := (if n.hasImm then n.operand.toNat else elem a.r.val b 0) % m
  moveNode a (fun i => (i + m - k) % m) (fun _ => n.hasImm || laneBit b (a.r.mask &&& a.on) 0))

/-- LRED (R203). -/
def execNLred (n : NodeBody) (s : State) : Out := s.fire n lredNode

/-- LSCAN (R203). -/
def execNLscan (n : NodeBody) (s : State) : Out := s.fire n lscanNode

/-- CVT (R199). -/
def execNCvt (n : NodeBody) (s : State) : Out := s.fire n cvtNode

/-- PACK (R200). -/
def execNPack (n : NodeBody) (s : State) : Out := s.fire n packNode

/-- UNPACK (R200). -/
def execNUnpack (n : NodeBody) (s : State) : Out := s.fire n unpackNode

/-- LUT (R201). -/
def execNLut (n : NodeBody) (s : State) : Out := s.fire n (lutNode s)

end Sys2Proof.Machine
end

