-- ==== Sys2Proof/Machine/NodeControl.lean ====
section
/-! DEFINITION. Dataflow control nodes (R204 to R211), and the nodes that act on the frame alone: barriers, flags and
traps (R228, R234, R235). -/

namespace Sys2Proof.Machine

open Sys2Proof

/-- An operand with a mask. -/
def Operand.masked (v : Operand) (m : Mask) : Operand := { v with val := zeroOff v.val m, mask := m }

/-- The same value as a DATA token (R191). -/
def Operand.data (v : Operand) : Operand := { v with kind := 0#4 }

/-- Sends a firing's result on both destinations in its own frame. -/
def State.out (s : State) (a : Fire) (v : Operand) : State := s.sendBoth a.pk a.e a.n a.f a.fr.gen v

/-- A firing that finds the node not ready leaves the machine as it is. -/
def State.whenReady (s : State) (n : NodeBody) (f : Fire → State) : Out :=
  match s.ready n with
  | none => .next s
  | some a => .next (f a)

/-- A fault met at firing parks the frame; the operands stay in their slots and are withdrawn with the frame's other tokens,
so that the node fires again when the frame resumes (log 20). -/
def State.fireFault (s : State) (a : Fire) (r : FaultRec) : State := (s.markFired a.pk a.e).park a.pk a.f r

/-- Lanes on which a selector is false: both mask bits set and the lane word zero (R204). -/
def falseMask (p : Operand) : Mask := mkMask ((List.range 16).map (fun i => p.mask.getLsbD i && lane p.val i = 0))

/-- STEER (R204). -/
def execNSteer (n : NodeBody) (s : State) : Out := s.whenReady n (fun a =>
  let t := a.l.masked (a.l.mask &&& truthMask a.pr); let f := a.l.masked (a.l.mask &&& falseMask a.pr)
  let s := s.takeOperands a
  let s := if t.mask = 0#16 then s else s.sendTo a.pk a.e n.dest0 a.f a.fr.gen t
  if f.mask = 0#16 then s else s.sendTo a.pk a.e n.dest1 a.f a.fr.gen f)

/-- GATE (R204). -/
def execNGate (n : NodeBody) (s : State) : Out := s.whenReady n (fun a =>
  let t := a.l.masked (a.l.mask &&& truthMask a.pr)
  let s := s.takeOperands a
  if t.mask = 0#16 then s else s.out a t)

/-- MERGE (R205): a port that P does not call for is not waited for and not consumed. -/
def execNMerge (n : NodeBody) (s : State) : Out :=
  let t := s.site
  match s.mayFire, s.readPort n 2 with
  | some fr, some q =>
    let needL := truthMask q ≠ 0#16; let needR := falseMask q ≠ 0#16
    match (if needL then s.readPort n 0 else some noOperand), (if needR then s.readPort n 1 else some noOperand) with
    | some l, some r =>
      let p := s.plane t.plane
      let tm := truthMask q; let fm := falseMask q
      let m := (l.mask &&& tm) ||| (r.mask &&& fm)
      let v := mkVec 32 ((List.range 16).map (fun i =>
        if !m.getLsbD i then 0 else if tm.getLsbD i then lane l.val i else lane r.val i))
      let p := p.take t.elem t.node t.frame 2
      let p := if needL then p.take t.elem t.node t.frame 0 else p
      let p := if needR then p.take t.elem t.node t.frame 1 else p
      .next (((s.setPlane t.plane p).markFired t.plane t.elem).sendBoth t.plane t.elem n t.frame fr.gen
        ⟨v, m, if needL then l.kind else r.kind⟩)
    | _, _ => .next s
  | _, _ => .next s

/-- COPY, the node (R206). -/
def execNCopy (n : NodeBody) (s : State) : Out := s.whenReady n (fun a => (s.takeOperands a).out a a.l)

/-- CONST (R206). -/
def execNConst (n : NodeBody) (s : State) : Out := s.whenReady n (fun a =>
  (s.takeOperands a).out a ⟨zeroOff (immVec n.fmt.toNat n.operand.toNat) a.l.mask, a.l.mask, 0#4⟩)

/-- SINK (R206). -/
def execNSink (n : NodeBody) (s : State) : Out := s.whenReady n (fun a => s.takeOperands a)

/-- The value that ENTRY's selector names (Table 8.3). -/
def entryValue (p : Plane) (pk e sel itix : Nat) : Nat :=
  let (n0, n1) := match p.iter with | some t => (t.n0, t.n1) | none => (1, 1)
  match sel with
  | 0 => itix
  | 1 => itix % n0
  | 2 => itix / n0 % n1
  | 4 => itix / n0 / n1
  | 5 => relX pk e / p.tw
  | _ => relY pk e / p.th

/-- ENTRY (R207): fires once for each TRIG token, which lies in its slot. -/
def execNEntry (n : NodeBody) (s : State) : Out :=
  let t := s.site
  let p := s.plane t.plane
  match s.mayFire, p.slots.find (slotKey t.node t.frame 0 t.elem) with
  | some fr, some o =>
    if o.kind ≠ 2#4 then .next s
    else
      let b := NodeCheck.width n.fmt.toNat
      let v := mkVec b (List.replicate (512 / b) (entryValue p t.plane t.elem (n.operand.toNat % 8) fr.itix))
      .next (((s.setPlane t.plane (p.take t.elem t.node t.frame 0)).markFired t.plane t.elem).sendBoth t.plane t.elem n t.frame fr.gen
        ⟨v, 0xFFFF#16, 0#4⟩)
  | _, _ => .next s

/-- The agent number of a firing's frame. -/
def Fire.agent (a : Fire) : Nat := 2 ^ 32 + 8 * a.f + a.fr.gen

/-- The copy in which a firing takes place. -/
def Fire.copy (a : Fire) : Nat := a.p.copyOf a.pk a.e

/-- What a firing hands on with a token to another frame: its agent's horizon with the pair of the agent and its generation + 1
(R104). -/
def Fire.handOn (a : Fire) : Horizon :=
  let (h, g) := a.fr.agent a.copy
  mergeHorizon h (some [(a.agent, g + 1)])

/-- Sends a result to a colour's caller and gives the caller the sender's horizon (R104, R210). -/
def State.sendReturn (s : State) (a : Fire) (v : Operand) : State :=
  match a.fr.caller with
  | none => s
  | some c =>
    let s := match (s.plane c.plane).frame? c.frame with
      | some g => if g.gen = c.gen then
          let p := s.plane c.plane
          let g := g.setAgent (p.copyOf c.plane c.elem) (fun h => mergeHorizon h a.handOn) id
          s.setPlane c.plane { p with frames := p.frames.put c.frame g }
        else s
      | none => s
    s.post c.plane c.elem (2 ^ 43 + 4096 * a.pk + a.e) 1 c.frame c.gen c.node c.port 9 (v.result.narrow c.sel)

/-- Ends the frame's part in the firing element's copy, for the first time only (R208). -/
def State.partEnd (s : State) (a : Fire) : State := s.endPart a.pk a.f (a.p.copyOf a.pk a.e)

/-- EXIT (R208): a colour that ends so sends an RTRN with no live lane. -/
def execNExit (n : NodeBody) (s : State) : Out := s.whenReady n (fun a =>
  ((s.takeOperands a).sendReturn a ⟨0#512, 0#16, 0#4⟩).partEnd a)

/-- A fresh frame (R17): its identifier's generation, its iteration index, order and horizon. -/
def newFrame (gen itix order : Nat) (src : FrameSource) (h : Horizon) (caller : Option Caller) : Frame :=
  { gen := gen, itix := itix, order := order, src := src, flags := 0#6, ended := [], succ := none, caller := caller, horizon := h,
    agents := [], parked := false, lost := false, withdrawn := [], resume := [] }

/-- A successor's agent in the copy of a LOOP that sends into it takes the sender's horizon (R33, R85, R104). -/
def State.inherit (s : State) (a : Fire) (f g : Nat) : State :=
  let p := s.plane a.pk
  match p.frame? f with
  | some x => if x.gen = g then s.setPlane a.pk { p with frames := p.frames.put f (x.setAgent a.copy (fun _ => a.handOn) id) } else s
  | none => s

/-- LOOP (R33, R209). A draw that finds no identifier leaves the firing undone, and its element fires nothing else in this
fc. -/
def execNLoop (n : NodeBody) (s : State) : Out := s.whenReady n (fun a =>
  match a.fr.succ with
  | some (f, g) => (((s.takeOperands a).inherit a f g).sendBoth a.pk a.e n f g a.l).partEnd a
  | none =>
    match s.draw a.pk (fun gen order => newFrame gen a.fr.itix order .loop a.handOn none) with
    | none => { s with fired := (4096 * pkDie a.pk + a.e) :: s.fired }
    | some (f, s) =>
      let p := s.plane a.pk; let g := p.gen f
      let s := s.setPlane a.pk { p with frames := p.frames.put a.f { a.fr with succ := some (f, g) } }
      (((s.setPlane a.pk ((s.plane a.pk).consume n a.e a.node a.f)).markFired a.pk a.e).sendBoth a.pk a.e n f g a.l).partEnd a)

/-- The resident plane that is virtual plane `vp` of a context in the region at an origin (R303, R315). -/
def State.findPlane (s : State) (ctx die ox oy vp : Nat) : Option Nat :=
  ((List.range 4).map (planeKey die ox oy)).find? (fun k =>
    match s.planes.find k with | some p => p.ctx = ctx && p.vp = vp | none => false)

/-- Some live block of a context grants the region at an origin with a virtual plane (R303). -/
def State.regionGranted (s : State) (ctx die ox oy vp : Nat) : Bool :=
  s.blocks.any (fun (k, _) => k / 2 ^ 24 = ctx && match s.grant ctx (k % 2 ^ 24) with
    | some g => g.die = die && g.ox = ox && g.oy = oy && bit g.vps vp
    | none => false)

/-- Byte i of a binding (R304). -/
def bindByte (b i : Nat) : Nat := b / 2 ^ (8 * i) % 256

/-- The binding that DEST0 names through port 11. -/
def Plane.bind0 (p : Plane) (n : NodeBody) : Nat := (p.binds.get (bits n.dest0.toNat 28 24) 0#128).toNat

/-- SPAWN (R36, R210, R303). -/
def execNSpawn (n : NodeBody) (s : State) : Out := s.whenReady n (fun a =>
  let b := a.p.bind0 n
  let die := bindByte b 1 % 4; let ox := bindByte b 2 % 8; let oy := bindByte b 3 % 8; let vp := bindByte b 4 % 4
  if !s.regionGranted a.p.ctx die ox oy vp then
    s.fireFault a (s.frameRec a.pk a.e a.node a.f Cause.engineAccess 0 0 0)
  else match s.findPlane a.p.ctx die ox oy vp with
    | none => s
    | some ck =>
      if (s.plane ck).state ≠ .active ∨ (s.plane ck).frozen then s
      else
        let c : Caller := ⟨a.pk, a.e, bits n.dest1.toNat 28 24, bits n.dest1.toNat 30 29, bits n.dest1.toNat 11 8, a.f, a.fr.gen⟩
        let arg (v : Operand) : Operand := v.result.narrow (bits n.dest0.toNat 11 8)
        match s.draw ck (fun gen order => newFrame gen 0 order .spawn a.handOn (some c)) with
        | none => { s with fired := (4096 * pkDie a.pk + a.e) :: s.fired }
        | some (f, s) =>
          let g := (s.plane ck).gen f
          let ce := elemAt ck (bindByte b 5) (bindByte b 6)
          let src := 2 ^ 41 + 4096 * a.pk + a.e
          let s := s.setPlane a.pk ((s.plane a.pk).consume n a.e a.node a.f)
          let s := (s.markFired a.pk a.e).post ck ce src 1 f g (bindByte b 7) 0 8 (arg a.l)
          if n.hasR then s.post ck ce src 1 f g (bindByte b 7) 1 8 (arg a.r) else s)

/-- RETURN (R210). -/
def execNReturn (n : NodeBody) (s : State) : Out := s.whenReady n (fun a =>
  ((s.takeOperands a).sendReturn a a.l).partEnd a)

/-- TSEND (R211). -/
def execNTsend (n : NodeBody) (s : State) : Out := s.whenReady n (fun a =>
  let s := s.takeOperands a
  let s := if a.l.mask = 0#16 then s
    else
      let p := s.plane a.pk
      s.setPlane a.pk { p with tokq := p.tokq ++ [(zeroOff a.l.val a.l.mask, a.l.mask)] }
  s.out a a.l.data)

/-- BAR, entry (R228): a release at its scope; the copy has arrived. -/
def execNBar (n : NodeBody) (s : State) : Out := s.whenReady n (fun a =>
  let s := (s.takeOperands a).releaseGen (s.frameIss a.pk a.e a.node a.f a.fr.gen)
  let p := s.plane a.pk
  let me := (p.copyOf a.pk a.e, a.e, a.l)
  let bars := if p.bars.any (fun b => b.node = a.node && b.frame = a.f) then
      p.bars.map (fun b => if b.node = a.node ∧ b.frame = a.f then { b with arrived := b.arrived ++ [me] } else b)
    else p.bars ++ [⟨a.node, a.f, [me], none⟩]
  s.setPlane a.pk ({ p with bars := bars }.barCheck s.fc))

/-- FLAGS (R234). -/
def execNFlags (n : NodeBody) (s : State) : Out := s.whenReady n (fun a =>
  let region := n.operand.getLsbD 0; let clr := n.operand.getLsbD 1
  let fl := if region then a.p.flags0 else a.fr.flags
  let s := s.takeOperands a
  let s := if clr && !region then
      let p := s.plane a.pk
      s.setPlane a.pk { p with frames := p.frames.put a.f { a.fr with flags := 0#6 } }
    else s
  s.out a (flagVec fl))

/-- TRAPN (R235): when it traps, L is kept with the frame and sent when the frame resumes. -/
def execNTrapn (n : NodeBody) (s : State) : Out := s.whenReady n (fun a =>
  let s := s.takeOperands a
  if !n.hasP || truthMask a.pr ≠ 0#16 then
    let p := s.plane a.pk
    let s := s.setPlane a.pk { p with frames := p.frames.put a.f { a.fr with resume := a.fr.resume ++ [(a.e, a.node, a.l.val, a.l.mask)] } }
    s.park a.pk a.f (s.frameRec a.pk a.e a.node a.f Cause.userTrap 0 (n.operand.toNat % 65536) (a.l.val.toNat % 2 ^ 64))
  else s.out a a.l.data)

/-- Where a resumed frame's kept result is sent: through the destinations of the node that holds it. -/
def State.sendKept (s : State) (pk f : Nat) (k : Nat × Nat × Vec × Mask) : State :=
  let p := s.plane pk
  match p.frame? f with
  | none => s
  | some fr => s.sendBoth pk k.1 (Decode.nodeBody (p.word pk k.1 k.2.1)) f fr.gen ⟨k.2.2.1, k.2.2.2, 0#4⟩

end Sys2Proof.Machine
end

