-- ==== Sys2Proof/Machine/NodeLattice.lean ====
section
/-! DEFINITION. Plane nodes (R236 to R246) and the quantise path (R256 to R259). -/

namespace Sys2Proof.Machine

open Sys2Proof

/-! Lattices and shifts. -/

/-- The lattice of a plane node: column and row of its north-west element on the die, and its width and height in elements
(R236). -/
def Plane.lattice (p : Plane) (pk node e : Nat) : Nat × Nat × Nat × Nat :=
  let w := p.word pk e node / 2 ^ 64
  let l := (p.elems pk).filter (fun x => p.word pk x node / 2 ^ 64 = w)
  let x0 := l.foldl (fun m x => min m (x % 64)) 63; let x1 := l.foldl (fun m x => max m (x % 64)) 0
  let y0 := l.foldl (fun m x => min m (x / 64)) 63; let y1 := l.foldl (fun m x => max m (x / 64)) 0
  (x0, y0, x1 + 1 - x0, y1 + 1 - y0)

/-- The directions of R239 by the code of R143. -/
def direction (c : Nat) : Int × Int :=
  match c with
  | 0 => (0, -1)
  | 1 => (1, -1)
  | 2 => (1, 0)
  | 3 => (1, 1)
  | 4 => (0, 1)
  | 5 => (-1, 1)
  | 6 => (-1, 0)
  | _ => (-1, -1)

/-- m(u, S) of R239. -/
def mirror (u s : Int) : Int := if u < 0 then -1 - u else if s ≤ u then 2 * s - 1 - u else u

/-- The source of a site: column and row of its element and its lane, with the fc after which it is present; none where the
fill applies (R239, R240). -/
def shiftSource (mode W H : Nat) (d : Int × Int) (sx sy : Nat) : Option (Nat × Nat × Nat × Nat) :=
  let ux := (sx : Int) - d.1; let uy := (sy : Int) - d.2
  let ox := ux < 0 || (4 * W : Int) ≤ ux; let oy := uy < 0 || (4 * H : Int) ≤ uy
  let at_ (x y : Int) (wait : Nat) : Option (Nat × Nat × Nat × Nat) :=
    some (x.toNat / 4, y.toNat / 4, y.toNat % 4 * 4 + x.toNat % 4, wait)
  if !ox && !oy then at_ ux uy 1
  else match mode with
    | 0 =>
      let span := if ox && oy then max W H else if ox then W else H
      at_ (ux % (4 * W)) (uy % (4 * H)) (1 + (span + 7) / 8)
    | 2 => at_ (mirror ux (4 * W)) (mirror uy (4 * H)) 1
    | _ => none

/-- An element of the lattice needs a fill from outside it in some lane. -/
def needsFill (mode W H : Nat) (d : Int × Int) (ex ey : Nat) : Bool :=
  (List.range 16).any (fun i => (shiftSource mode W H d (4 * ex + i % 4) (4 * ey + i / 4)).isNone)

/-- The lane groups that an element at (ex, ey) sends when it fires a shift: destination column and row, waiting time, and
lanes with their values (R240). -/
def shiftSends (mode W H : Nat) (d : Int × Int) (ex ey : Nat) (old : Vec) : List (Nat × Nat × Nat × List (Nat × BitVec 32)) :=
  let near (n k : Nat) : List Nat := [(k + n - 1) % n, k, (k + 1) % n].eraseDups
  (near H ey).flatMap (fun fy => (near W ex).flatMap (fun fx =>
    let l := (List.range 16).filterMap (fun i =>
      match shiftSource mode W H d (4 * fx + i % 4) (4 * fy + i / 4) with
      | some (gx, gy, k, wait) => if gx = ex ∧ gy = ey then some (wait, i, BitVec.ofNat 32 (lane old k)) else none
      | none => none)
    ((l.map (fun x => x.1)).eraseDups).map (fun w => (fx, fy, w, (l.filter (fun x => x.1 = w)).map (fun x => x.2)))))

/-- The incoming link by which a lane group reaches (fx, fy) from (ex, ey): 0 to 2 for the step in x, and three times that in y
(R29, R240). -/
def shiftLink (W H ex ey fx fy : Nat) : Nat := 3 * min 2 ((fy + H - ey) % H) + min 2 ((fx + W - ex) % W)

/-- PSHIFT, firing (R240, R241). With EXTERN the node waits for R only where some lane needs the fill (log 22). -/
def execNPshift (n : NodeBody) (s : State) : Out :=
  let t := s.site
  let p := s.plane t.plane
  let mode := n.mod.toNat % 4
  let (x0, y0, W, H) := p.lattice t.plane t.node t.elem
  let d := direction (n.seq.toNat % 8)
  let ex := t.elem % 64 - x0; let ey := t.elem / 64 - y0
  let wantsR := mode = 3 ∧ needsFill mode W H d ex ey
  match s.mayFire, s.readPort n 0, (if wantsR then s.readPort n 1 else some noOperand) with
  | some fr, some l, some r =>
    let reg := p.phys t.plane t.elem (n.seq.toNat / 8)
    let old := p.wreg t.elem reg
    let groups := (shiftSends mode W H d ex ey old).map (fun (fx, fy, w, lanes) =>
      let dst := 64 * (y0 + fy) + x0 + fx
      ({ due := s.fc + w, elem := dst, node := t.node, frame := t.frame, gen := fr.gen, lanes := lanes, here := false
         link := shiftLink W H ex ey fx fy } : LaneGroup))
    let p := p.take t.elem t.node t.frame 0
    let p := if wantsR then p.take t.elem t.node t.frame 1 else p
    .next ((s.setPlane t.plane { p with
      shifts := p.shifts ++ [⟨t.elem, t.node, t.frame, fr.gen, s.fc, reg, old, l, if wantsR then some r else none⟩]
      groupsIn := p.groupsIn ++ groups }).markFired t.plane t.elem)
  | _, _, _ => .next s

/-- The lanes that a shift's fill gives: the operand under FIXED, the R token under EXTERN (R239). -/
def fillLane (n : NodeBody) (halo : Option Operand) (i : Nat) : Nat :=
  if n.mod.toNat % 4 = 3 then
    match halo with
    | some r => if r.mask.getLsbD i then lane r.val i else 0
    | none => 0
  else n.operand.toNat

/-- The completed value of a shift in an element, when every lane is present (R240). -/
def Plane.shiftValue (p : Plane) (pk : Nat) (x : Shift) (n : NodeBody) : Option Vec :=
  let (x0, y0, W, H) := p.lattice pk x.node x.elem
  let ex := x.elem % 64 - x0; let ey := x.elem / 64 - y0
  let got := (p.groupsIn.filter (fun g => g.here && g.elem = x.elem && g.node = x.node && g.frame = x.frame && g.gen = x.gen)).flatMap
    (fun g => g.lanes)
  let lanes := (List.range 16).map (fun i =>
    match shiftSource (n.mod.toNat % 4) W H (direction (n.seq.toNat % 8)) (4 * ex + i % 4) (4 * ey + i / 4) with
    | none => some (fillLane n x.halo i)
    | some _ => (got.find? (fun y => y.1 = i)).map (fun y => y.2.toNat))
  if lanes.all Option.isSome then some (mkVec 32 (lanes.map (fun o => o.getD 0))) else none

/-! Plane registers. -/

/-- PZROT (R242): the offset changes at the end of the fc. -/
def execNPzrot (n : NodeBody) (s : State) : Out := s.whenReady n (fun a =>
  let b := n.seq.toNat / 8; let len := max 1 (n.operand.toNat % 64)
  let z := a.p.zoff.get (32 * a.e + b) 0
  let z' := if n.operand.getLsbD 6 then (z + 1) % len else (z + len - 1) % len
  let s := s.takeOperands a
  let p := s.plane a.pk
  (s.setPlane a.pk { p with pend := p.pend ++ [.zoff (32 * a.e + b) z'] }).out a a.l.data)

/-- The physical register that a plane node names (R237). -/
def Fire.reg (a : Fire) : Nat := a.p.phys a.pk a.e (a.n.seq.toNat / 8)

/-- PLD (R243). -/
def execNPld (n : NodeBody) (s : State) : Out := s.whenReady n (fun a =>
  let m := a.l.mask &&& a.on
  (s.takeOperands a).out a ⟨zeroOff (a.p.wreg a.e a.reg) m, m, 0#4⟩)

/-- The lanes of a mask taken from one vector, the others from another. -/
def blend (m : Mask) (x y : Vec) : Vec := mkVec 32 ((List.range 16).map (fun i => if m.getLsbD i then lane x i else lane y i))

/-- PST (R243). -/
def execNPst (n : NodeBody) (s : State) : Out := s.whenReady n (fun a =>
  let m := a.l.mask &&& a.on
  let s := s.takeOperands a
  let p := s.plane a.pk
  (s.setPlane a.pk { p with pend := p.pend ++ [.wreg (32 * a.e + a.reg) (blend m a.l.val (a.p.wreg a.e a.reg))] }).out a a.l.data)

/-- PQUIET (R246). -/
def execNPquiet (n : NodeBody) (s : State) : Out := s.whenReady n (fun a =>
  let w := a.p.wreg a.e a.reg
  let s := s.takeOperands a
  let p := s.plane a.pk
  (s.setPlane a.pk { p with pend := p.pend ++ [.quiet a.e (w = a.p.snap.get a.e 0#512) w] }).out a a.l.data)

/-- One site of RULE: the table entry's index, and NV (R244). -/
def ruleIndex (c k q S : Nat) : Nat × Bool :=
  let k' := min k 8; let q' := min q (S - 1)
  let e := (9 * c + k') * S + q'
  (min e 63, 8 < k || S ≤ q || 63 < e)

/-- RULE (R244). -/
def execNRule (n : NodeBody) (s : State) : Out := s.whenReady n (fun a =>
  let o := n.operand.toNat
  let S := bits o 24 22 + 1
  let ws := a.p.wreg a.e a.reg
  let wc := a.p.wreg a.e (a.p.phys a.pk a.e (bits o 20 16))
  let m := a.l.mask &&& a.on
  let site (i : Nat) : Nat × Bool :=
    let (e, nv) := ruleIndex (if bit o 21 then lane wc i else 0) (lane a.l.val i) (lane ws i) S
    (s.edRead a.pk a.e (bits o 15 0 + 256 * (n.seq.toNat % 8) + 4 * e) 4, nv)
  let r := mkVec 32 ((List.range 16).map (fun i => if m.getLsbD i then (site i).1 else 0))
  let nv := (List.range 16).any (fun i => m.getLsbD i && (site i).2)
  let s := (s.takeOperands a).flag a.pk a.f a.fr.gen (if nv then Num.NV else 0)
  let p := s.plane a.pk
  (s.setPlane a.pk { p with pend := p.pend ++ [.wreg (32 * a.e + a.reg) (blend m r ws)] }).out a ⟨r, m, 0#4⟩)

/-! The quantise path (R257 to R259). -/

/-- State of a quantise-path node. -/
def Plane.q (p : Plane) (e node : Nat) : QuantSt := p.quant.get (32 * e + node) ⟨0, 0#64, 0#512, 0⟩

/-- The live frame of an iteration index. -/
def Plane.frameAt (p : Plane) (t : Nat) : Option Nat :=
  (p.frames.find? (fun (_, f) => f.itix = t && f.src = .iter && !f.parked)).map Prod.fst

/-- A path node fires for its tokens in ascending index only (R257). -/
def State.inTurn (s : State) : Bool :=
  let t := s.site; let p := s.plane t.plane
  match p.frame? t.frame with | some f => (p.q t.elem t.node).next = f.itix | none => false

/-- A firing of a path node advances its stream position. -/
def State.advanceQ (s : State) (a : Fire) (cur : BitVec 64) : State :=
  let p := s.plane a.pk
  s.setPlane a.pk { p with quant := p.quant.put (32 * a.e + a.node) { p.q a.e a.node with next := a.fr.itix + 1, cur := cur } }

/-- A lane of a path token: masked-off lanes enter as +0.0 (R257). -/
def pathLane (o : Operand) (i : Nat) : Nat := if o.mask.getLsbD i then lane o.val i else 0

/-- NV for a path token with a signalling NaN in some lane (R50). -/
def pathNv (o : Operand) : Nat :=
  if (List.range 16).any (fun i => (Num.decode (Num.fmtOf 10) (pathLane o i)).isSnan) then Num.NV else 0

/-- BMAX's running maximum of magnitudes, as an f32 pattern; any NaN makes it NaN (R73, R258). -/
def bmaxStep (m : Nat) (o : Operand) : Nat :=
  let t := Num.fmtOf 10
  (List.range 16).foldl (fun m i =>
    let x := pathLane o i % 2 ^ 31
    if (Num.decode t m).isNan || (Num.decode t x).isNan then Num.canonNaN t else max m x) m

/-- Tokens of a block of 2^k elements (R257). -/
def tokensPer (k : Nat) : Nat := max 1 (2 ^ k / 16)

/-- BMAX (R258). -/
def execNBmax (n : NodeBody) (s : State) : Out := s.whenReady n (fun a =>
  let d := tokensPer (n.operand.toNat % 16); let m := a.fr.itix % d
  if !s.inTurn then s
  else
    let M := bmaxStep (if m = 0 then 0 else (a.p.q a.e a.node).cur.toNat) a.l
    let s := ((s.takeOperands a).advanceQ a (if m = d - 1 then 0#64 else BitVec.ofNat 64 M)).flag a.pk a.f a.fr.gen (pathNv a.l)
    if m = d - 1 then s.out a ⟨mkVec 32 (List.replicate 16 M), 0xFFFF#16, 0#4⟩ else s)

/-- DELAY (R258). -/
def execNDelay (n : NodeBody) (s : State) : Out := s.whenReady n (fun a =>
  let d := max 1 (n.operand.toNat % 128); let m := a.fr.itix % d
  let present := (List.range (d - m)).all (fun k =>
    match a.p.frameAt (a.fr.itix + k) with
    | some f => a.p.slots.has (slotKey a.node f 0 a.e)
    | none => false)
  if !s.inTurn || !present then s
  else ((s.takeOperands a).advanceQ a 0#64).out a a.l.data)

/-- The pair (a + c, a − c), rounded to f32 with RNE (R72). -/
def butterfly (r : Num.Rnd) (x y : Nat) : Nat × Nat × Num.Rnd :=
  let t := Num.fmtOf 10
  let (u, r) := Num.fbin t 0x20 { r with mode := 0 } x y
  let (v, r) := Num.fbin t 0x21 r x y
  (u, v, r)

/-- BFLY (R72, R258). -/
def execNBfly (n : NodeBody) (s : State) : Out := s.whenReady n (fun a =>
  let j := n.operand.toNat % 16; let d := tokensPer (n.operand.toNat / 16 % 16); let m := a.fr.itix % d
  let r0 : Num.Rnd := ⟨0, a.rnd.s, 0⟩
  if !s.inTurn then s
  else if j < 4 then
    let (out, r) := (List.range 16).foldl (fun (acc, r) i =>
      if bit i j then (acc, r)
      else
        let (u, v, r) := butterfly r (pathLane a.l i) (pathLane a.l (i + 2 ^ j))
        (acc ++ [(i, u), (i + 2 ^ j, v)], r)) (([] : List (Nat × Nat)), r0)
    let v := mkVec 32 ((List.range 16).map (fun i => ((out.find? (fun x => x.1 = i)).map Prod.snd).getD 0))
    (((s.takeOperands a).advanceQ a 0#64).flag a.pk a.f a.fr.gen r.fl).out a ⟨v, 0xFFFF#16, 0#4⟩
  else if bit m (j - 4) then
    ((s.takeOperands a).advanceQ a 0#64).out a ⟨mkVec 32 ((List.range 16).map (pathLane a.l)), 0xFFFF#16, 0#4⟩
  else match a.p.frameAt (a.fr.itix + 2 ^ (j - 4)) with
    | none => s
    | some f => match a.p.slots.find (slotKey a.node f 0 a.e) with
      | none => s
      | some c =>
        let (us, vs, r) := (List.range 16).foldl (fun (us, vs, r) i =>
          let (u, v, r) := butterfly r (pathLane a.l i) (pathLane c i); (us ++ [u], vs ++ [v], r)) (([] : List Nat), ([] : List Nat), r0)
        let s := (s.takeOperands a).advanceQ a 0#64
        let p := s.plane a.pk
        let s := s.setPlane a.pk { p with slots := p.slots.put (slotKey a.node f 0 a.e) ⟨mkVec 32 vs, 0xFFFF#16, c.kind⟩ }
        (s.flag a.pk a.f a.fr.gen r.fl).out a ⟨mkVec 32 us, 0xFFFF#16, 0#4⟩)

/-! Identifier entries (Table 3.8), read as numbers. -/
def tidFmt (t : Nat) : Nat := bits t 68 64
def tidValid (t : Nat) : Bool := bit t 79
def tidBlk (t : Nat) : Nat := bits t 83 80
def tidSc (t : Nat) : Nat := bits t 87 84

/-- Width of an identifier's element (Table 3.8). -/
def tidWidth (t : Nat) : Nat := if 16 ≤ tidFmt t then 8 else NodeCheck.width (tidFmt t)

/-- c_s of R72 as a fraction. -/
def cScale (st : Nat) : Nat × Nat := if st % 2 = 0 then (1, 2 ^ (st / 2)) else (0xB504F3, 2 ^ 24 * 2 ^ ((st - 1) / 2))

/-- The product of a value and a fraction of positive numbers. -/
def timesFrac (v : Num.Val) (n d : Nat) : Num.Val :=
  match v with
  | .fin s x y => .fin s (x * n) (y * d)
  | w => w

/-- Largest exponent of an E8M0-scaled type (R73). -/
def emaxOf (fmt : Nat) : Int := if fmt = 14 then 2 else if fmt = 12 then 8 else if fmt = 13 then 15 else 0

/-- The scale of a block from its amax: the code, and the flags (R73). -/
def blockScale (tid stages amax : Nat) (r : Num.Rnd) : Nat × Num.Rnd :=
  let f32 := Num.fmtOf 10
  let (cn, cd) := cScale stages
  let (ay, r) := if stages = 0 then (amax, r) else Num.round f32 0 { r with mode := 0 } (timesFrac (Num.decode f32 amax) cn cd)
  if tidFmt tid = 15 then Num.round (Num.fmtOf 8) 1 { r with mode := 0 } (Num.decode f32 ay)
  else match Num.decode f32 ay with
    | .fin _ n d =>
      if n = 0 then (0, r)
      else
        let e := Num.floorLog n d - emaxOf (tidFmt tid)
        let e := if e < -127 then -127 else if 127 < e then 127 else e
        ((e + 127).toNat, r)
    | _ => (0xFF, r.raise Num.NV)

/-- An E8M0 code's value 2^(e − 127) as a fraction (R52). -/
def e8m0 (c : Nat) : Nat × Nat := if 127 ≤ c then (2 ^ (c - 127), 1) else (1, 2 ^ (127 - c))

/-- One element of QNT (R74). -/
def quantElem (tid stages scale : Nat) (r : Num.Rnd) (x : Nat) : Nat × Num.Rnd :=
  let v := Num.decode (Num.fmtOf 10) x
  let (cn, cd) := cScale stages
  let r := if v.isSnan then r.raise Num.NV else r
  if tidFmt tid = 15 then
    let half := timesFrac (Num.decode (Num.fmtOf 8) scale) 1 2
    let y := timesFrac v cn cd
    if y.isNan || half.isNan || scale % 2 ^ 15 = 0 then (0, r)
    else if Num.cmp y half = .gt then (1, r)
    else if Num.cmp y half.negate = .lt then (3, r)
    else (0, r)
  else if scale = 0xFF then (0, r.step)
  else
    let (sn, sd) := e8m0 scale
    let y := timesFrac v (cn * sd) (cd * sn)
    if tidFmt tid = 16 then
      let r := r.step
      match y with
      | .fin neg n d =>
        let (k, inx) := Num.roundInt r neg (64 * n) d
        let (c, hit) := Num.clamp (-127) 127 k
        (Num.ofInt 8 c, if hit then r.raise (Num.OF ||| Num.NX) else if inx then r.raise Num.NX else r)
      | _ => (0, r)
    else Num.round (Num.fmtOf (tidFmt tid)) 1 r y

/-- The frame in whose slot the R value of a block lies: that of the block's last position (R259). -/
def Plane.lastOf (p : Plane) (itix d : Nat) : Option Nat := p.frameAt (itix / d * d + d - 1)

/-- The R value of a QNT or DQNT, with the frame that holds it. -/
def Fire.blockR (a : Fire) (d : Nat) : Option (Nat × Operand) :=
  match a.p.lastOf a.fr.itix d with
  | none => none
  | some f => (a.p.slots.find (slotKey a.node f 1 a.e)).map (fun o => (f, o))

/-- The firing of a node that reads L of its own frame and R of its block's last frame; with both present, an identifier that was
not valid at load faults TID_INVALID (R259). -/
def State.whenBlock (s : State) (n : NodeBody) (f : Fire → Nat → Nat → Nat → Operand → State) : Out :=
  let t := s.site; let p := s.plane t.plane
  match s.mayFire, s.readPort n 0 with
  | some fr, some l =>
    let a : Fire := { pk := t.plane, e := t.elem, node := t.node, f := t.frame, p := p, fr := fr, n := n, l := l, r := noOperand, pr := noOperand,
                      rnd := ⟨n.mod.toNat % 8, p.srReg t.plane t.elem, 0⟩ }
    let tid := (p.q t.elem t.node).tid.toNat
    let d := tokensPer (tidBlk tid)
    if !s.inTurn then .next s
    else match a.blockR d with
      | none => .next s
      | some (rf, r) =>
        if tidValid tid then .next (f a tid d rf r)
        else .next (s.fireFault a (s.frameRec a.pk a.e a.node a.f Cause.tidInvalid 0 0 0))
  | _, _ => .next s

/-- Consumes L, and at the block's last position R, and advances the stream. -/
def State.takeBlock (s : State) (a : Fire) (d rf : Nat) (cur : BitVec 64) : State :=
  let p := a.p.take a.e a.node a.f 0
  let p := if a.fr.itix % d = d - 1 then p.take a.e a.node rf 1 else p
  ((s.setPlane a.pk p).markFired a.pk a.e).advanceQ a cur

/-- Records a firing's flags and stochastic register. -/
def State.noteRnd (s : State) (a : Fire) (r : Num.Rnd) : State :=
  let s := s.flag a.pk a.f a.fr.gen r.fl
  if r.s = a.rnd.s then s else let p := s.plane a.pk; s.setPlane a.pk { p with lfsr := p.lfsr.put a.e r.s }

/-- QNT (R73, R74, R259). -/
def execNQnt (n : NodeBody) (s : State) : Out := s.whenBlock n (fun a tid d rf rv =>
  let q := a.p.q a.e a.node
  let m := a.fr.itix % d
  let (sc, r) := if m = 0 then blockScale tid q.stages (pathLane rv 0) a.rnd else (q.cur.toNat, a.rnd)
  let r := { r with mode := a.rnd.mode }
  let (l, r) := (List.range 16).foldl (fun (acc, r) i => let (x, r) := quantElem tid q.stages sc r (pathLane a.l i); (acc ++ [x], r))
    (([] : List Nat), r)
  let b := tidWidth tid
  let s := (s.takeBlock a d rf (BitVec.ofNat 64 sc)).noteRnd a r
  let s := s.sendTo a.pk a.e n.dest0 a.f a.fr.gen ⟨mkVec b l, BitVec.ofNat 16 (2 ^ ((16 * b + 31) / 32) - 1), 0#4⟩
  if m = d - 1 then s.sendTo a.pk a.e n.dest1 a.f a.fr.gen ⟨BitVec.ofNat 512 sc, 1#16, 0#4⟩ else s)

/-- The value of an identifier's element (R52, R53), and TV. -/
def tidElem (fmt x : Nat) : Num.Val × Nat :=
  if fmt = 16 then (.ofInt (Num.toInt 8 x) 64 false, 0) else Num.elemVal fmt x

/-- A scale's value by SCFMT: 1 E8M0, 2 f16, 3 f32, 4 bf16; no scale counts as 1. -/
def scaleVal (sc x : Nat) : Num.Val :=
  match sc with
  | 0 => .fin false 1 1
  | 1 => if x % 256 = 255 then .nan false else let (n, d) := e8m0 (x % 256); .fin false n d
  | 2 => Num.decode (Num.fmtOf 8) (x % 65536)
  | 3 => Num.decode (Num.fmtOf 10) (x % 2 ^ 32)
  | _ => Num.decode (Num.fmtOf 9) (x % 65536)

/-- DQNT (R75, R259). -/
def execNDqnt (n : NodeBody) (s : State) : Out := s.whenBlock n (fun a tid d rf rv =>
  let b := tidWidth tid; let fmt := n.fmt.toNat
  let packed := zeroOff a.l.val a.l.mask
  let sv := scaleVal (tidSc tid) (pathLane rv 0)
  let (l, r) := (List.range 16).foldl (fun (acc, r) i =>
    let (v, tv) := tidElem (tidFmt tid) (elem packed b i)
    let (pr, f) := Num.mul v sv
    let (x, r) := Num.round (Num.fmtOf fmt) 1 (r.raise (tv ||| f)) pr
    (acc ++ [(x, true)], r)) (([] : List (Nat × Bool)), a.rnd)
  let (v, mk) := mkUnpacked fmt 16 l
  ((s.takeBlock a d rf 0#64).noteRnd a r).out a ⟨v, mk, 0#4⟩)

end Sys2Proof.Machine
end

