-- ==== Sys2Proof/Machine/Sched.lean ====
section
/-! DEFINITION. Scheduling shared by instructions and events: levels, deficit round robin, records that may run, and the
binding of virtual planes (R40, R45, R311 to R317). -/

namespace Sys2Proof.Machine

open Sys2Proof

/-! Records. -/

/-- Effective level of a queued record (R45, R312). -/
def State.level (s : State) (q : QRec) : Nat :=
  let age := max 1 (Csr.fld (s.csr (s.partOfCtx q.ctx) 0x0100) 15 0)
  min 7 (recPri q.record + (s.timer - q.estamp) / age)

/-- The queues from which a unit dispatches (R312). -/
def State.queuesOf (s : State) (u : Nat) : List Nat :=
  if isCore u then [128 + s.partOfUnit u] else (List.range 32).map (fun n => 32 * (u / 64) + n)

/-- Two rectangles of blocks share an element. -/
def overlaps (ox oy w h ox' oy' w' h' : Nat) : Bool :=
  ox < ox' + w' && ox' < ox + w && oy < oy' + h' && oy' < oy + h

/-- The key under which a block has a virtual plane bound. A plane keeps its binding until it is swapped out, whatever becomes of
the block's REGION meanwhile (R314, R315). -/
def State.boundKey (s : State) (ctx cbix vp : Nat) : Option Nat :=
  ((s.block ctx cbix).binds.find vp).filter (fun pk => s.planes.has pk)

/-- A saved plane of a block (R318). -/
def State.savedOf (s : State) (ctx cbix vp : Nat) : Option Saved :=
  s.saved.find? (fun v => v.ctx = ctx && v.cbix = cbix && v.vp = vp)

/-- The virtual planes that a region uses (Table 16.1). -/
def Region.used (g : Region) : List Nat := (List.range 4).filter (bit g.vps)

/-- Every virtual plane of a record's block is bound, resident and not being swapped out (R166, R314, R318). -/
def State.canRun (s : State) (q : QRec) : Bool :=
  let b := recCbix q.record
  match s.grant q.ctx b with
  | none => true
  | some g => g.used.all (fun vp => (s.savedOf q.ctx b vp).isNone &&
      match s.boundKey q.ctx b vp with
      | none => false
      | some pk => (s.plane pk).swap = 0)

/-- Records that may be popped from a list of queues, in queue and enqueue order: queue, record, level. -/
def State.eligible (s : State) (qs : List Nat) : List (Nat × QRec × Nat) :=
  qs.flatMap (fun k => if bit (s.qcfg k) 0 then
    ((s.queues.get k []).filter s.canRun).map (fun q => (k, q, s.level q)) else [])

/-- Takes a record out of its queue. -/
def State.unqueue (s : State) (k : Nat) (q : QRec) : State := { s with queues := s.queues.put k ((s.queues.get k []).erase q) }

/-- A unit pops a record (R41, R312, R314). -/
def State.popRecord (s : State) (u k : Nat) (q : QRec) (lvl : Nat) : State := (s.unqueue k q).startRecord u q lvl

/-- A block's key as a cycle names it. -/
def QRec.block (q : QRec) : Nat := blockKey q.ctx (recCbix q.record)

/-- The cycle of one level (R312): blocks with an eligible record that are not in it enter at its end. -/
def refreshCycle (old : List (Nat × Nat)) (named : List Nat) : List (Nat × Nat) :=
  old ++ (named.filter (fun b => !old.any (fun x => x.1 = b))).eraseDups.map (fun b => (b, 0))

/-- The queues of a cycle: those of its die, or the hub queue of its partition. -/
def cycleQueues (ck : Nat) : List Nat := if ck / 8 < 4 then (List.range 32).map (fun n => 32 * (ck / 8) + n) else [124 + ck / 8]

/-- A block left with no record at a level leaves the cycle and loses its deficit (R312). -/
def State.trimCycles (s : State) : State :=
  { s with cycles := s.cycles.map (fun (ck, l) => (ck, l.filter (fun (b, _) =>
      (cycleQueues ck).any (fun k => (s.queues.get k []).any (fun q => q.block = b && s.level q = ck % 8))))) }

/-- The record of a block that was queued first, of several (R312, R314). -/
def firstOf (l : List (Nat × QRec × Nat)) : Option (Nat × QRec × Nat) :=
  l.foldl (fun m x => match m with | none => some x | some y => if x.2.1.ord < y.2.1.ord then some x else some y) none

/-- What a unit pops next, with the state in which the cycle has moved on (R312). -/
def State.nextRecord (s : State) (u : Nat) : Option (State × Nat × QRec × Nat) :=
  let el := s.eligible (s.queuesOf u)
  match el with
  | [] => none
  | _ =>
    let top := el.foldl (fun m x => max m x.2.2) 0
    let at_ := el.filter (fun x => x.2.2 = top)
    let ck := 8 * (if isCore u then 4 + s.partOfUnit u else u / 64) + top
    let cyc := refreshCycle (s.cycles.get ck []) (at_.map (fun x => x.2.1.block))
    match cyc.span (fun c => !at_.any (fun x => x.2.1.block = c.1)) with
    | (_, []) => none
    | (passed, (b, d) :: rest) =>
      let d := if d = 0 then max 1 (s.block (b / 2 ^ 24) (b % 2 ^ 24)).blocks else d
      match firstOf (at_.filter (fun x => x.2.1.block = b)) with
      | none => none
      | some (k, q, lvl) =>
        let cyc := if d = 1 then rest ++ passed ++ [(b, 0)] else (b, d - 1) :: rest ++ passed
        some ({ s with cycles := s.cycles.put ck cyc }, k, q, lvl)

/-- What an idle sequencer steals (R313): highest level, then oldest ESTAMP, then lowest die, and within a block the record
enqueued first. -/
def State.stealRecord (s : State) (u : Nat) : Option (Nat × QRec × Nat) :=
  let dies := (List.range 4).filter (fun d => d ≠ u / 64 && s.partOfDie d = s.partOfUnit u)
  let el := (s.eligible (dies.flatMap (fun d => (List.range 32).map (fun n => 32 * d + n)))).filter (fun x =>
    match s.cb x.2.1.ctx (recCbix x.2.1.record) with | some b => !bit b 57 | none => true)
  match el.foldl (fun best x => match best with
    | none => some x
    | some y => if y.2.2 < x.2.2 ∨ (y.2.2 = x.2.2 ∧ x.2.1.estamp < y.2.1.estamp) then some x else best) none with
  | none => none
  | some x => firstOf (el.filter (fun y => y.2.2 = x.2.2 && y.2.1.block = x.2.1.block))

/-! Binding (R315, R316). -/

/-- Planes held on a physical plane in the elements of a rectangle. -/
def State.holders (s : State) (g : Region) (pp : Nat) : List Nat :=
  (s.planes.filter (fun (k, p) => pkDie k = g.die && pkPp k = pp && overlaps g.ox g.oy g.w g.h (pkOx k) (pkOy k) p.w p.h)).map Prod.fst

/-- The lowest physical plane that is free in every element of a region. -/
def State.freePlane (s : State) (g : Region) : Option Nat := (List.range 4).find? (fun pp => s.holders g pp = [])

/-- A plane's own priority: its setting, bounded by its block (R317). -/
def State.ownPrio (s : State) (pk : Nat) : Nat := min (s.plane pk).prio (s.effPrio (s.plane pk).ctx (s.plane pk).cbix)

/-- The firing priority of a plane, raised while it drains for a swap (R317). -/
def State.planePrio (s : State) (pk : Nat) : Nat :=
  if (s.plane pk).swap = 2 then max (s.ownPrio pk) (s.plane pk).drainPrio else s.ownPrio pk

/-- A plane is in the middle of a draw (R279): its ITER has not completed, and, once its source has stopped, frames of it are left. -/
def Plane.midDraw (p : Plane) : Bool :=
  match p.iter with
  | some t => t.draw && !t.complete && (t.running || p.frames.any (fun (_, f) => f.src ≠ .spawn))
  | none => false

/-- A plane is on its way out of its region and takes no wake any more (R318, R321). -/
def Plane.leaving (p : Plane) : Bool := p.swap = 2 || (p.swap = 1 && !p.midDraw)

/-- A plane may be chosen as a victim for a record of a level (R315). -/
def State.victim (s : State) (ctx cbix lvl pk : Nat) : Bool :=
  let p := s.plane pk
  !(p.ctx = ctx && p.cbix = cbix) && !p.midDraw && s.eff p.ctx p.cbix 3 159 128 ≤ s.timer - p.boundAt && s.ownPrio pk < lvl

/-- The candidate whose highest victim priority is lowest, ties to the lowest plane (R315). `data` are the planes that own element
data the plane to be bound needs: they are victims wherever it goes (R316). -/
def State.candidate (s : State) (ctx cbix lvl : Nat) (g : Region) (data : List Nat) : Option (List Nat) :=
  ((List.range 4).foldl (fun best pp =>
    let vs := (s.holders g pp ++ data).eraseDups
    if vs.all (s.victim ctx cbix lvl) then
      let top := vs.foldl (fun m k => max m (s.ownPrio k)) 0
      match best with
      | none => some (top, vs)
      | some (t, _) => if top < t then some (top, vs) else best
    else best) (none : Option (Nat × List Nat))).map Prod.snd

/-- Chooses planes as victims: they start to drain at the given level at least (R317, R318). -/
def State.chooseVictims (s : State) (lvl : Nat) (vs : List Nat) : State :=
  vs.foldl (fun s k => let p := s.plane k; if p.swap = 0 then s.setPlane k { p with swap := 1, drainPrio := lvl } else s) s

/-- Puts a plane into a region for a block. -/
def State.bindTo (s : State) (ctx cbix vp pk : Nat) (p : Plane) : State :=
  let b := s.block ctx cbix
  { s.setPlane pk p with blocks := s.blocks.put (blockKey ctx cbix) { b with binds := b.binds.put vp pk } }

/-- A newly bound plane, which is EMPTY. -/
def State.freshPlane (s : State) (ctx cbix vp : Nat) (g : Region) : Plane :=
  { Plane.reset with ctx := ctx, cbix := cbix, vp := vp, w := g.w, h := g.h, boundAt := s.timer }

/-- Binds an unbound virtual plane of a block in a region, or starts to swap out the victims that hold its place (R315). -/
def State.tryBind (s : State) (ctx cbix vp lvl : Nat) (g : Region) : State :=
    if (s.boundKey ctx cbix vp).isSome || (s.savedOf ctx cbix vp).isSome then s
    else match s.freePlane g with
      | some pp => s.bindTo ctx cbix vp (planeKey g.die g.ox g.oy pp) (s.freshPlane ctx cbix vp g)
      | none =>
        if (List.range 4).any (fun pp => (s.holders g pp).all (fun k => (s.plane k).swap ≠ 0)) then s
        else match s.candidate ctx cbix lvl g [] with
          | none => s
          | some vs => s.chooseVictims lvl vs

/-- The highest level among a block's queued records, if it has one. -/
def State.waitingLevel (s : State) (ctx cbix : Nat) : Option Nat :=
  (s.queues.flatMap (fun x => x.2)).foldl (fun m q =>
    if q.ctx = ctx ∧ recCbix q.record = cbix then some (match m with | none => s.level q | some k => max k (s.level q)) else m) none

/-- Whether some unit runs a record of a block. -/
def State.blockRuns (s : State) (ctx cbix : Nat) : Bool :=
  s.units.any (fun (_, u) => (u.status = .running || u.status = .sleeping) && u.ctx = ctx && recCbix u.record = cbix)

end Sys2Proof.Machine
end

