-- ==== Sys2Proof/Machine/SeqMem.lean ====
section
/-! DEFINITION. Memory access of sequencers and control cores (R78, R150, R151, R156 to R159). An access is performed when
the instruction executes, so no later instruction waits for it (log 24). -/

namespace Sys2Proof.Machine

open Sys2Proof

/-- Causes whose ADDR is the data address that raised them (Table 18.2). -/
def dataCause (c : Nat) : Bool :=
  (0x10 ≤ c && c ≤ 0x18) || c ∈ [Cause.align, Cause.range, Cause.race, Cause.memTimeout, Cause.atomicUnsupported, Cause.bankUnavailable]

/-- Causes with an INFO of their own (Table 18.3); for any other, INFO is the instruction's first word. -/
def ownInfo (c : Nat) : Bool :=
  (0x10 ≤ c && c ≤ 0x18) || (0x31 ≤ c && c ≤ 0x3B) ||
  c ∈ [Cause.race, Cause.config, Cause.backingFull, Cause.tlAhead, Cause.engineAccess, Cause.engineCmd, Cause.mxShape, Cause.mxSource,
    Cause.scaleMismatch, Cause.service]

/-- The trap of an instruction that fails, with the data address it concerns (Tables 18.2 and 18.3). -/
def State.trapErr (s : State) (i : Instr) (e : Err) (addr : Nat) : State :=
  s.trap e.cause (if ownInfo e.cause then e.info else iword i) (if dataCause e.cause then addr else s.me.pc.toNat) e.aux s.me.pc

/-- A trap of a cause without an address of its own. -/
def State.trapC (s : State) (i : Instr) (cause : Nat) : Out := .next (s.trapErr i ⟨cause, 0, 0⟩ 0)

/-- One access of the executing record: ALIGN before the address's range and translation (R78, R151). The value read, or the
trap's error. -/
def State.seqAccess (s : State) (va n : Nat) (k : Acc) (upd : Nat → Option Nat) : State × Except Err Nat :=
  if va % n ≠ 0 then (s, .error ⟨Cause.align, 0, 0⟩) else s.recAccess s.cur s.meIss va n k upd

/-- A load: its value goes to gd as `ext` extends it. -/
def State.seqLoad (s : State) (i : Instr) (d : BitVec 5) (va n : Nat) (k : Acc) (ext : Nat → Word) : Out :=
  match s.seqAccess va n k (fun _ => none) with
  | (s, .error e) => .next (s.trapErr i e va)
  | (s, .ok v) => .next (s.setG d (ext v)).adv

/-- A store of the low bytes of a value. -/
def State.seqStore (s : State) (i : Instr) (va n : Nat) (k : Acc) (v : Nat) : Out :=
  match s.seqAccess va n { k with wr := true } (fun _ => some (v % 2 ^ (8 * n))) with
  | (s, .error e) => .next (s.trapErr i e va)
  | (s, .ok _) => .next s.adv

/-- ea of R156, modulo 2^64 (R151). -/
def State.ea (s : State) (a : BitVec 5) (o : BitVec 14) : Nat := (s.g a + o.signExtend 64).toNat

/-- Sign extension of an n-byte value. -/
def sext64 (n v : Nat) : Word := BitVec.ofInt 64 (Num.toInt (8 * n) v)

/-- LD (R156). -/
def execSLd (d a : BitVec 5) (z : BitVec 2) (o : BitVec 14) (s : State) : Out :=
  s.seqLoad (.sLd d a z o) d (s.ea a o) (2 ^ z.toNat) {} (sext64 (2 ^ z.toNat))

/-- LD.n (R156). -/
def execSLdN (d a : BitVec 5) (z : BitVec 2) (o : BitVec 14) (s : State) : Out :=
  s.seqLoad (.sLdN d a z o) d (s.ea a o) (2 ^ z.toNat) {} (BitVec.ofNat 64)

/-- ST (R156). -/
def execSSt (d a : BitVec 5) (z : BitVec 2) (o : BitVec 14) (s : State) : Out :=
  s.seqStore (.sSt d a z o) (s.ea a o) (2 ^ z.toNat) {} (s.g d).toNat

/-- LDACQ (R157): an acquire at its scope. -/
def execSLdacq (d a : BitVec 5) (z : BitVec 2) (c : BitVec 4) (s : State) : Out :=
  s.seqLoad (.sLdacq d a z c) d (s.g a).toNat (2 ^ z.toNat) { atomic := true, acq := true, scope := c.toNat } (BitVec.ofNat 64)

/-- STREL (R157): a release at its scope. -/
def execSStrel (d a : BitVec 5) (z : BitVec 2) (c : BitVec 4) (s : State) : Out :=
  s.seqStore (.sStrel d a z c) (s.g a).toNat (2 ^ z.toNat) { atomic := true, rel := true, scope := c.toNat } (s.g d).toNat

/-- Whether an AMO reaches host memory with an operation that PCI Express does not have (R158). -/
def State.hostAmo (s : State) (va op : Nat) : Bool :=
  match s.translate s.cur s.meIss.die s.me.ctx va true false s.me.priv with
  | (_, .ok t) => target t.pa = .host && op ≠ 0 && op ≠ 8 && op ≠ 9
  | _ => false

/-- AMO (R158): indivisible, an acquire and a release at its scope. -/
def execSAmo (d a b : BitVec 5) (o : BitVec 4) (z : BitVec 1) (c : BitVec 4) (s : State) : Out :=
  let n := if z = 0#1 then 4 else 8
  let w := 8 * n
  let va := (s.g a).toNat
  let i := Instr.sAmo d a b o z c
  if va % n = 0 ∧ s.hostAmo va o.toNat then .next (s.trapErr i ⟨Cause.atomicUnsupported, 0, 0⟩ va)
  else match s.seqAccess va n { wr := true, atomic := true, acq := true, rel := true, scope := c.toNat }
      (fun old => some (amoOp o.toNat w old ((s.g b).toNat % 2 ^ w) ((s.g d).toNat % 2 ^ w))) with
    | (s, .error e) => .next (s.trapErr i e va)
    | (s, .ok v) => .next (s.setG d (if o.toNat = 6 ∨ o.toNat = 7 then BitVec.ofNat 64 v else sext64 n v)).adv

/-- FENCE (R87, R159): every earlier access of the record is performed already; a release and then an acquire. -/
def execSFence (_c : BitVec 4) (s : State) : Out := .next ((s.releaseGen s.meIss).acquireTop s.meIss).adv

/-- Bytes that the executing record reads as plain reads from an aligned place. -/
def State.seqRead (s : State) (va n align : Nat) : State × Except Err Nat :=
  if va % align ≠ 0 then (s, .error ⟨Cause.align, 0, 0⟩) else s.recAccess s.cur s.meIss va n {} (fun _ => none)

/-- An instruction of R180: PRIVILEGE in a record without privilege (R139 step 4). -/
def State.privileged (s : State) (i : Instr) (f : Out) : Out := if s.me.priv then f else s.trapAt i Cause.privilege

/-- The unit waits: nothing changes, and the instruction is tried again (R150). -/
def State.stall (s : State) : Out := .next s

end Sys2Proof.Machine
end

