-- ==== Sys2Proof/Machine/SeqCont.lean ====
section
/-! DEFINITION. Continuation instructions, trap return, service calls, halting and idling (R40, R161 to R165, R182). -/

namespace Sys2Proof.Machine

open Sys2Proof

/-- Reads and validates the record at an address (R161): the record, and the machine with its block live. -/
def State.validate (s : State) (va : Nat) : State × Except Err (BitVec 256) :=
  match s.seqRead va 32 32 with
  | (s, .error e) => (s, .error e)
  | (s, .ok n) =>
    let r := BitVec.ofNat 256 n
    if !recClean r then (s, .error ⟨Cause.badRecord, 0, 0⟩)
    else match s.makeLive s.me.ctx (recCbix r) with
      | .error c => (s, .error ⟨c, 0, 0⟩)
      | .ok s' => (s', .ok r)

/-- What hardware writes into a record at a hand-off: BPRI, and ESTAMP when it is queued (R39, R161). A page that cannot be
written keeps what it holds (log 25). -/
def State.stampRecord (s : State) (ctx va pri : Nat) (queued : Bool) : State :=
  let s := (s.poke ctx (va + 28) [BitVec.ofNat 8 pri]).getD s
  if queued then (s.poke ctx (va + 24) (leBytes 4 s.timer)).getD s else s

/-- ENQ's effect (R162, R311): the record queued, or left to wait in memory. -/
def State.handOver (s : State) (va : Nat) : State × Except Err (BitVec 256) :=
  match s.validate va with
  | (s, .error e) => (s, .error e)
  | (s1, .ok r) =>
    let ctx := s1.me.ctx; let b := recCbix r
    let pri := min (recPri r) (s1.effPrio ctx b)
    if recJoin r ≠ 0 then
      (({ s1 with waiting := s1.waiting ++ [(ctx, BitVec.ofNat 64 va, b)] }).stampRecord ctx va pri false, .ok r)
    else
      let k := s1.queueOf ctx b
      if k < 128 ∧ s1.partOfDie (k / 32) ≠ s1.partOfCtx ctx then (s, .error ⟨Cause.trPartition, 0, 0⟩)
      else if !bit (s1.qcfg k) 0 then (s, .error ⟨Cause.badRecord, 0, 0⟩)
      else if !s1.queueRoom k ctx then (s, .error ⟨Cause.backingFull, 0, 0⟩)
      else ((s1.enqueue ctx r (BitVec.ofNat 64 va) none none []).stampRecord ctx va pri true, .ok r)

/-- ENQ (R162). -/
def execSEnq (a : BitVec 5) (s : State) : Out :=
  let va := (s.g a).toNat
  match s.handOver va with
  | (s, .error e) => .next (s.trapErr (.sEnq a) e va)
  | (s, .ok _) => .next s.adv

/-- DONE (R162): every access of the record is performed already. -/
def execSDone (s : State) : Out := .next (s.endRecord s.cur)

/-- CONT (R162): ENQ, then DONE; a record of at least the highest level eligible on the die is popped by this unit at once. -/
def execSCont (a : BitVec 5) (s : State) : Out :=
  let va := (s.g a).toNat
  match s.handOver va with
  | (s, .error e) => .next (s.trapErr (.sCont a) e va)
  | (s, .ok r) =>
    let u := s.cur; let ctx := s.me.ctx; let k := s.queueOf ctx (recCbix r)
    let s := s.endRecord u
    if recJoin r ≠ 0 ∨ isCore u ≠ (128 ≤ k : Bool) then .next s
    else match (s.queues.get k []).getLast? with
      | none => .next s
      | some q =>
        let top := ((s.eligible (s.queuesOf u)).filter (fun x => x.2.1 ≠ q)).foldl (fun m x => max m x.2.2) 0
        if s.canRun q && top ≤ recPri q.record then .next (s.popRecord u k q (recPri q.record)) else .next s

/-- JOIN (R163). -/
def execSJoin (a b : BitVec 5) (s : State) : Out :=
  let va := (s.g a).toNat; let n := (s.g b).toNat
  let i := Instr.sJoin a b
  match s.validate va with
  | (s, .error e) => .next (s.trapErr i e va)
  | (s1, .ok r) =>
    if recJoin r = 0 then .next (s.trapErr i ⟨Cause.joinZero, 0, 0⟩ va)
    else if n = 0 ∨ 65535 < recJoin r + n then .next (s.trapErr i ⟨Cause.badRecord, 0, 0⟩ va)
    else match s1.recAccess s1.cur s1.meIss (va + 16) 2 { wr := true, atomic := true, scope := 6 } (fun old => some (old + n)) with
      | (_, .error e) => .next (s.trapErr i e (va + 16))
      | (s2, .ok _) => .next s2.adv

/-- SELF (R165). -/
def execSSelf (d : BitVec 5) (s : State) : Out := .next (s.setG d s.me.recAddr).adv

/-- ERET (R182, R357): ILLEGAL except on a control core that handles a trap of its own. -/
def execSEret (s : State) : Out :=
  s.privileged .sEret (if isCore s.cur && bit s.me.tinfo.toNat 38 then .next s.eret else s.trapAt .sEret Cause.illegal)

/-- SVC (R182): the record resumes at the next instruction. -/
def execSSvc (n : BitVec 7) (s : State) : Out :=
  .next (s.trap Cause.service n.toNat s.me.pc.toNat 0 (s.me.pc + 4#57))

/-- HALT (R182): ends the record and stops the unit. -/
def execSHalt (s : State) : Out :=
  s.privileged .sHalt (
    let s := s.endRecord s.cur
    .next (s.setMe { s.me with status := .halted }))

/-- IDLE (R182, R358): a control core sleeps while TPEND is zero. -/
def execSIdle (s : State) : Out :=
  s.privileged .sIdle (
    if !isCore s.cur then s.trapAt .sIdle Cause.illegal
    else
      let s := s.adv
      if s.me.tpend = 0#64 then .next (s.setMe { s.me with status := .sleeping }) else .next s)

/-! ARM (R164). -/

/-- The die whose event table an instruction of the executing unit uses. -/
def State.armDie (s : State) : Nat := if isCore s.cur then 4 else s.cur / 64

/-- Registers an event on a record, or counts it at once when its condition holds already (R164): BACKING_FULL when the die's
table and the context's spill entries are full. -/
def State.arm (s : State) (va : Nat) (k : ArmKind) (now : Bool) : State × Except Err Unit :=
  let a : Arm := ⟨s.armDie, s.me.ctx, BitVec.ofNat 64 va, k⟩
  if now then ({ s with trig := s.trig ++ [a] }, .ok ())
  else if 4096 ≤ (s.arms.filter (fun x => x.die = s.armDie)).length ∧ !s.spillFree s.me.ctx then (s, .error ⟨Cause.backingFull, 0, 0⟩)
  else ({ s with arms := s.arms ++ [a] }, .ok ())

/-- ARM after its event is known: validation, registration, and BPRI at the hand-off (R161, R164). -/
def State.armRecord (s : State) (i : Instr) (va : Nat) (find : State → BitVec 256 → State × Except (Err × Nat) (ArmKind × Bool)) : Out :=
  match s.validate va with
  | (s, .error e) => .next (s.trapErr i e va)
  | (s1, .ok r) => match find s1 r with
    | (_, .error (e, at_)) => .next (s.trapErr i e at_)
    | (s2, .ok (k, now)) => match s2.arm va k now with
      | (_, .error e) => .next (s.trapErr i e va)
      | (s3, .ok _) => .next ((s3.stampRecord s3.me.ctx va (min (recPri r) (s3.effPrio s3.me.ctx (recCbix r))) false).adv)

/-- The plane of the executing record's region that a virtual plane names: NO_REGION, none while it is not bound, or the
plane (R166, R315). A plane that the block does not use is bound when an instruction first names it (log 26). -/
def State.myPlane (s : State) (k : BitVec 2) : Except Nat (Option (State × Nat)) :=
  match s.me.region with
  | none => .error Cause.noRegion
  | some g =>
    let b := recCbix s.me.record
    match s.boundKey s.me.ctx b k.toNat with
    | some pk => .ok (some (s, pk))
    | none =>
      let s' := s.tryBind s.me.ctx b k.toNat s.me.elev g
      match s'.boundKey s.me.ctx b k.toNat with
      | some pk => .ok (some (s', pk))
      | none => .ok none

/-- ARM.iter (R164). -/
def execSArmIter (a : BitVec 5) (k : BitVec 2) (s : State) : Out :=
  s.armRecord (.sArmIter a k) (s.g a).toNat (fun s _ =>
    match s.myPlane k with
    | .error c => (s, .error (⟨c, 0, 0⟩, 0))
    | .ok none => (s, .error (⟨Cause.illegal, 0, 0⟩, 0))
    | .ok (some (s, pk)) => match (s.plane pk).iter with
      | none => (s, .error (⟨Cause.illegal, 0, 0⟩, 0))
      | some t => (s, .ok (.iter pk, t.complete)))

/-- The two doublewords of an event's descriptor. Each is read as an aligned doubleword, since R164 gives the descriptor's alignment
nowhere (log 107). -/
def State.armDesc (s : State) (va : Nat) : State × Except Err (Nat × Nat) :=
  match s.seqRead va 8 8 with
  | (s, .error e) => (s, .error e)
  | (s, .ok x) => match s.seqRead (va + 8) 8 8 with
    | (s, .error e) => (s, .error e)
    | (s, .ok y) => (s, .ok (x, y))

/-- ARM.tl (R164): a number beyond the last accepted command traps ILLEGAL. -/
def execSArmTl (a b : BitVec 5) (s : State) : Out :=
  s.armRecord (.sArmTl a b) (s.g a).toNat (fun s _ =>
    let va := (s.g b).toNat
    match s.armDesc va with
    | (s, .error e) => (s, .error (e, va))
    | (s, .ok (h, n)) =>
      match s.handleCause s.me.ctx (recCbix s.me.record) h with
      | some x => (s, .error (⟨x, 0, h⟩, 0))
      | none =>
        let c := s.engs.get (ctxKey h) ⟨0, 0, []⟩
        if c.accepted < n then (s, .error (⟨Cause.illegal, 0, 0⟩, 0)) else (s, .ok (.tl (ctxKey h) n, n ≤ c.counter)))

/-- ARM.watch (R164). -/
def execSArmWatch (a b : BitVec 5) (s : State) : Out :=
  s.armRecord (.sArmWatch a b) (s.g a).toNat (fun s _ =>
    let va := (s.g b).toNat
    match s.armDesc va with
    | (s, .error e) => (s, .error (e, va))
    | (s, .ok (w, v)) =>
      if w % 8 ≠ 0 then (s, .error (⟨Cause.align, 0, 0⟩, w))
      else match s.translate s.cur s.meIss.die s.me.ctx w false false s.me.priv with
        | (s, .error e) => (s, .error (errOf e false, w))
        | (s, .ok t) => match s.physRead t.slot t.pa 8 with
          | (s, .error c) => (s, .error (⟨c, 0, 0⟩, w))
          | (s, .ok x) => (s, .ok (.watch t.pa (BitVec.ofNat 64 v), leNat x ≠ v)))

end Sys2Proof.Machine
end

