-- ==== Sys2Proof/Machine/SeqRegion.lean ====
section
/-! DEFINITION. Region instructions other than CFGLD (R35, R166, R168 to R172). -/

namespace Sys2Proof.Machine

open Sys2Proof

/-- A region instruction on one plane: NO_REGION, a stall while the plane is not bound, ILLEGAL by Table 7.2, or its effect. -/
def State.onPlane (s : State) (i : Instr) (k : BitVec 2) (ok : Plane → Bool) (f : State → Nat → Plane → State) : Out :=
  match s.myPlane k with
  | .error c => s.trapC i c
  | .ok none => s.stall
  | .ok (some (s1, pk)) =>
    let p := s1.plane pk
    if ok p then .next (f s1 pk p).adv else s.trapC i Cause.illegal

/-- CFGACT (R168). -/
def execSCfgact (k : BitVec 2) (s : State) : Out :=
  s.onPlane (.sCfgact k) k (fun p => p.state = .loaded || p.state = .active) (fun s pk p => s.setPlane pk { p with state := .active })

/-- DRAIN (R35, R168): the source stops; the plane is LOADED at once when no frame is live. -/
def execSDrain (k : BitVec 2) (s : State) : Out :=
  s.onPlane (.sDrain k) k (fun p => p.state ≠ .empty) (fun s pk p =>
    if p.state ≠ .active then s
    else s.setPlane pk (({ p with state := .draining, iter := p.iter.map (fun t => { t with running := false }) } : Plane).drained))

/-- PRIO (R168): from the next fc. -/
def execSPrio (k : BitVec 2) (l : BitVec 3) (s : State) : Out :=
  s.onPlane (.sPrio k l) k (fun _ => true) (fun s pk p => s.setPlane pk { p with pend := p.pend ++ [.prio l.toNat] })

/-- The configuration is draw-atomic (R279). -/
def Plane.drawAtomic (p : Plane) : Bool := p.nodes.any (fun (_, w) => wOpc w.toNat = 0xB6)

/-- ITER (R34, R169). -/
def execSIter (k : BitVec 2) (a b c : BitVec 5) (s : State) : Out :=
  let n0 := (s.g a).toNat; let n1 := if b = 0#5 then 1 else (s.g b).toNat; let n2 := if c = 0#5 then 1 else (s.g c).toNat
  let bad := n0 = 0 ∨ n1 = 0 ∨ n2 = 0 ∨ a = 0#5 ∨ 2 ^ 48 ≤ n0 * n1 * n2
  s.onPlane (.sIter k a b c) k
    (fun p => !bad && p.state = .active && (match p.iter with | some t => t.complete | none => true))
    (fun s pk p =>
      let t : IterSt := ⟨n0, n1, n2, 0, true, false, s.me.horizon, s.timer, p.drawAtomic, 0⟩
      s.setPlane pk { p with priv := s.me.priv, iter := some t, quant := p.quant.map (fun (k, q) => (k, { q with next := 0, cur := 0#64 })) })

/-- SPLICE (R35, R170): the successor is ACTIVE at once and takes the predecessor's priority; the predecessor drains. -/
def execSSplice (k pr : BitVec 2) (s : State) : Out :=
  let i := Instr.sSplice k pr
  match s.myPlane k, s.myPlane pr with
  | .error c, _ => s.trapC i c
  | _, .error c => s.trapC i c
  | .ok (some (s1, pk)), .ok (some (_, qk)) =>
    let p := s1.plane pk; let q := s1.plane qk
    if k = pr ∨ p.state ≠ .loaded ∨ q.state ≠ .active then s.trapC i Cause.illegal
    else
      let q := { q with state := .draining, iter := q.iter.map (fun t => { t with running := false }) }
      let s := s1.setPlane qk q
      .next (s.setPlane pk { p with state := .active, prio := q.prio, pred := some qk, switched := [], waves := [] }).adv
  | _, _ => s.stall

/-- The value that TOKIN gives a node of a FMT (R171). -/
def tokinVec (fmt : Nat) (v : Word) : Vec :=
  let b := NodeCheck.width fmt
  mkVec b (List.replicate (512 / b) (v.toNat % 2 ^ b))

/-- TOKIN (R24, R171): from the next fc. -/
def execSTokin (k : BitVec 2) (a n : BitVec 5) (q : BitVec 2) (s : State) : Out :=
  let port := q.toNat
  let at_ (p : Plane) : List (Nat × Nat) := p.nodes.filterMap (fun (x, w) => if x % 32 = n.toNat then some (x / 32, w.toNat) else none)
  s.onPlane (.sTokin k a n q) k
    (fun p => (p.state = .loaded || p.state = .active) && port < 2 &&
      (at_ p).all (fun (_, w) => if port = 0 then wFire w 3 else wFire w 2))
    (fun s pk p =>
      let l := p.copies.flatMap (fun c => (at_ p).map (fun (te, w) =>
        Pending.stick (stickyKey (p.elemIn pk c te) n.toNat port) ⟨tokinVec (bits w 119 116) (s.g a), 0xFFFF#16, 0#4⟩))
      s.setPlane pk { p with pend := p.pend ++ l })

/-- TOKGET (R172). -/
def execSTokget (d a : BitVec 5) (k : BitVec 2) (s : State) : Out :=
  let i := Instr.sTokget d a k
  let va := (s.g a).toNat
  match s.myPlane k with
  | .error c => s.trapC i c
  | .ok none => s.stall
  | .ok (some (s1, pk)) =>
    let p := s1.plane pk
    if p.state = .empty then s.trapC i Cause.illegal
    else if va % 64 ≠ 0 then .next (s.trapErr i ⟨Cause.align, 0, 0⟩ va)
    else match p.tokq with
      | [] => .next (s1.setG d 0#64).adv
      | (v, m) :: rest => match s1.recAccess s1.cur s1.meIss va 64 { wr := true } (fun _ => some v.toNat) with
        | (s, .error e) => .next (s.trapErr i e va)
        | (s, .ok _) => .next ((s.setPlane pk { s.plane pk with tokq := rest }).setG d (BitVec.ofNat 64 (0x10000 + m.toNat))).adv

end Sys2Proof.Machine
end

