-- ==== Sys2Proof/Machine/NodeMem.lean ====
section
/-! DEFINITION. Memory, synchronisation, engine and conversation nodes: what each does when it fires (R212 to R224, R229 to
R233, R251 to R255, R270 to R278). Requests are performed by the steps of Machine/EvMemory.lean. -/

namespace Sys2Proof.Machine

open Sys2Proof

/-! Addresses and ports (R212, R213). -/

/-- Address space of a node's OPERAND: 0 virtual, 1 scratchpad. -/
def NodeAsp (n : NodeBody) : Nat := bits n.operand.toNat 31 30

/-- e of R212. -/
def elemCount (fmt asp : Nat) : Nat := if NodeCheck.width fmt = 64 ∨ asp = 0 then 8 else 16

/-- Address lanes of element j. -/
def addrLanes (asp e j : Nat) : List Nat := if asp = 0 then [2 * j, 2 * j + 1] else if e = 16 then [j] else [2 * j]

/-- Data lanes of element j. -/
def dataLanes (fmt e j : Nat) : List Nat := if NodeCheck.width fmt = 64 then [2 * j, 2 * j + 1] else [unpLane e j]

/-- The signed byte offset of Table 9.1. -/
def nodeOff (n : NodeBody) : Int := Num.toInt 23 (n.operand.toNat % 2 ^ 23)

/-- Address of element j before its range is checked (R212). -/
def nodeRaw (n : NodeBody) (e : Nat) (l : Operand) (j : Nat) : Nat :=
  if NodeAsp n = 0 then Num.ofInt 64 ((elem l.val 64 j : Nat) + nodeOff n)
  else Num.ofInt 32 ((lane l.val (if e = 16 then j else 2 * j) : Nat) + nodeOff n)

/-- Effective address of element j, or none when it is out of range (R212). -/
def nodeAddr (n : NodeBody) (e : Nat) (l : Operand) (j : Nat) : Option Nat :=
  let a := nodeRaw n e l j
  if a < (if NodeAsp n = 0 then 2 ^ 57 else 2 ^ 24) then some a else none

/-- All mask bits of a list of lanes are set. -/
def lanesLive (m : Mask) (l : List Nat) : Bool := l.all (fun i => m.getLsbD i)

/-- Lanes on which a request's predicate is true. -/
def reqOn (n : NodeBody) (p : Operand) : Mask := if n.hasP then truthMask p else 0xFFFF#16

/-- Live elements of a load, store or atomic request (R212). `data` says that the data lanes count. -/
def liveElems (n : NodeBody) (data : Bool) (l r p : Operand) : List Nat :=
  let fmt := n.fmt.toNat; let asp := NodeAsp n; let e := elemCount fmt asp
  (List.range e).filter (fun j =>
    lanesLive (l.mask &&& reqOn n p) (addrLanes asp e j) && (!data || lanesLive r.mask (dataLanes fmt e j)))

/-- Opcodes whose OPERAND names a memory port. -/
def hasPort (opc : Nat) : Bool := opc ∈ [0x80, 0x81, 0x82, 0x83, 0x86, 0x89, 0x8A, 0x91, 0x92, 0x93, 0x94, 0xB2]

/-- A port's number: 128·die + 2·block + unit. -/
def portAt (die bx by_ u : Nat) : Nat := 128 * die + 2 * (8 * by_ + bx) + u

/-- The port that an OPERAND names (Table 9.1). -/
def namedPort (pk o : Nat) : Nat := portAt (pkDie pk) (pkOx pk + bits o 26 24) (pkOy pk + bits o 29 27) (bits o 23 23)

/-- MP0 of an element's block. -/
def ownPort (pk e : Nat) : Nat := portAt (pkDie pk) (e % 64 / 8) (e / 64 / 8) 0

/-- Chain of a node's word: 0 none, 1 order chain 01, 2 order chain 10; and its sequence number (R143). -/
def seqChain (q : Nat) : Nat := q / 64
def seqNum (q : Nat) : Nat := q % 64

/-- Chained nodes of the tile: tile element, opcode, SEQ/CHAIN, OPERAND, DEST0. -/
def Plane.chainNodes (p : Plane) : List (Nat × Nat × Nat × Nat × Nat) :=
  (p.nodes.map (fun (k, w) => (k / 32, wOpc w.toNat, bits w.toNat 103 96, bits w.toNat 95 64, bits w.toNat 63 32))).filter
    (fun (_, o, q, _, _) => NodeCheck.chained o && seqChain q ≠ 0)

/-- The chain map of a chain (R93): its sequence numbers. -/
def Plane.chainMap (p : Plane) (c : Nat) : List Nat :=
  (p.chainNodes.filter (fun (_, _, q, _, _) => seqChain q = c)).map (fun (_, _, q, _, _) => seqNum q)

/-- The chain port of a copy (R213). -/
def Plane.chainPort (p : Plane) (pk copy : Nat) : Nat :=
  match p.chainNodes.find? (fun (_, o, _, _, _) => hasPort o) with
  | some (_, _, _, o, _) => namedPort pk o
  | none =>
    match p.chainNodes.foldl (fun best x => match best with
        | none => some x
        | some y => if seqNum x.2.2.1 < seqNum y.2.2.1 then some x else some y) none with
    | some (te, _, _, _, _) => ownPort pk (p.elemIn pk copy te)
    | none => ownPort pk (p.elemIn pk copy 0)

/-- The root port of a reduction binding (R302, R304). -/
def rootPort (pk b : Nat) : Nat := portAt (pkDie pk) (pkOx pk + bindByte b 1) (pkOy pk + bindByte b 2) (bindByte b 3 % 2)

/-- The port of a node's request (R213). -/
def Fire.port (a : Fire) (opc : Nat) : Nat :=
  if hasPort opc then namedPort a.pk a.n.operand.toNat
  else if opc = 0x90 ∨ opc = 0xB4 then rootPort a.pk (a.p.bind0 a.n)
  else if seqChain a.n.seq.toNat ≠ 0 then a.p.chainPort a.pk (a.p.copyOf a.pk a.e)
  else ownPort a.pk a.e

/-- A node sends its request (R215). -/
def State.request (s : State) (a : Fire) (opc : Nat) (stage : ReqStage) (done : Nat := 0) : State :=
  let (id, s) := s.newId
  let x : Req :=
    { plane := a.pk, elem := a.e, node := a.node, frame := a.f, gen := a.fr.gen, opc := opc, body := a.n, l := a.l,
      r := a.r, p := a.pr, port := a.port opc, stage := stage, at_ := s.fc, ord := id, done := done, got := [] }
  { s with reqs := s.reqs.put id x }

/-- A node that only sends a request. -/
def State.fireRequest (s : State) (n : NodeBody) (opc : Nat) : Out := s.whenReady n (fun a => (s.takeOperands a).request a opc .sent)

/-- Marks a sequence number performed or released (R93, R94). -/
def State.markSeq (s : State) (pk f copy q : Nat) : State :=
  if seqChain q = 0 then s
  else
    let p := s.plane pk
    s.setPlane pk { p with seqDone := p.seqDone ++ [(2 * f + (seqChain q - 1), copy, seqNum q)] }

/-! Loads and stores. -/

/-- LD (R218). -/
def execNLd (n : NodeBody) (s : State) : Out := s.fireRequest n 0x80
/-- LDV (R218). -/
def execNLdv (n : NodeBody) (s : State) : Out := s.fireRequest n 0x82

/-- A store node: the request, and R's token on its destinations at once (R92, R218). -/
def State.fireStore (s : State) (n : NodeBody) (opc : Nat) : Out := s.whenReady n (fun a =>
  ((s.takeOperands a).request a opc .sent).out a a.r.data)

/-- ST (R218). -/
def execNSt (n : NodeBody) (s : State) : Out := s.fireStore n 0x81
/-- STV (R218). -/
def execNStv (n : NodeBody) (s : State) : Out := s.fireStore n 0x83

/-- The element-data offsets of LDL and STL, with the element: live elements only (R219). -/
def localElems (n : NodeBody) (data : Bool) (l r p : Operand) : List (Nat × Nat) :=
  let fmt := n.fmt.toNat; let e := if NodeCheck.width fmt = 64 then 8 else 16
  ((List.range e).filter (fun j =>
    lanesLive (l.mask &&& reqOn n p) [unpLane e j] && (!data || lanesLive r.mask (dataLanes fmt e j)))).map
    (fun j => (j, lane l.val (unpLane e j) + n.operand.toNat % 65536))

/-- The first fault of an element-data access: ALIGN or ADDRESS_RANGE, with its offset (R219). -/
def localFault (w : Nat) (l : List (Nat × Nat)) : Option (Nat × Nat) :=
  l.findSome? (fun (_, o) => if o % w ≠ 0 then some (Cause.align, o) else if 0x7000 < o + w then some (Cause.range, o) else none)

/-- LDL (R219). -/
def execNLdl (n : NodeBody) (s : State) : Out := s.whenReady n (fun a =>
  let fmt := n.fmt.toNat; let w := NodeCheck.width fmt / 8; let e := if w = 8 then 8 else 16
  let es := localElems n false a.l a.r a.pr
  match localFault w es with
  | some (c, o) => s.fireFault a (s.frameRec a.pk a.e a.node a.f c o 0 0)
  | none =>
    let val (j : Nat) : Nat × Bool := match es.find? (fun x => x.1 = j) with
      | some (_, o) => (s.edRead a.pk a.e o w, true)
      | none => (0, false)
    let (v, m) := mkUnpacked fmt e ((List.range e).map val)
    (s.takeOperands a).out a ⟨zeroOff v m, m, 0#4⟩)

/-- STL (R219). -/
def execNStl (n : NodeBody) (s : State) : Out := s.whenReady n (fun a =>
  let fmt := n.fmt.toNat; let w := NodeCheck.width fmt / 8; let e := if w = 8 then 8 else 16
  let es := localElems n true a.l a.r a.pr
  match localFault w es with
  | some (c, o) => s.fireFault a (s.frameRec a.pk a.e a.node a.f c o 0 0)
  | none =>
    let s := es.foldl (fun s (j, o) => s.edWrite a.pk a.e o (leBytes w (unpacked a.r.val (8 * w) e j))) (s.takeOperands a)
    s.out a a.r.data)

/-- PREF (R220): the request, and L at once. -/
def execNPref (n : NodeBody) (s : State) : Out := s.whenReady n (fun a =>
  ((s.takeOperands a).request a 0x86 .sent).out a a.l.data)

/-- ORDT (R94, R220): releases its sequence number, and sends L. -/
def execNOrdt (n : NodeBody) (s : State) : Out := s.whenReady n (fun a =>
  ((s.takeOperands a).markSeq a.pk a.f (a.p.copyOf a.pk a.e) n.seq.toNat).out a a.l.data)

/-- LDT (R255). -/
def execNLdt (n : NodeBody) (s : State) : Out := s.fireRequest n 0x89
/-- STT (R255): R's token leaves at once (Table 10.1). -/
def execNStt (n : NodeBody) (s : State) : Out := s.fireStore n 0x8A

/-! Waiting, fences, atomics and locks. -/

/-- WAITW (R221): the watch is sent to its port. -/
def execNWaitw (n : NodeBody) (s : State) : Out := s.fireRequest n 0x88
/-- FENCE, the node (R222). -/
def execNFence (n : NodeBody) (s : State) : Out := s.fireRequest n 0x95
/-- CAS (R223). -/
def execNCas (n : NodeBody) (s : State) : Out := s.fireRequest n 0x93
/-- XCHG (R223). -/
def execNXchg (n : NodeBody) (s : State) : Out := s.fireRequest n 0x94
/-- LOCK (R224). -/
def execNLock (n : NodeBody) (s : State) : Out := s.fireRequest n 0x91
/-- UNLOCK (R224). -/
def execNUnlock (n : NodeBody) (s : State) : Out := s.fireRequest n 0x92
/-- VBUF (R272). -/
def execNVbuf (n : NodeBody) (s : State) : Out := s.fireRequest n 0xB2

/-! Reductions. -/

/-- The tree entry of a binding at an element, or none (R303). -/
def Plane.treeEntry (p : Plane) (pk b e : Nat) : Option Nat :=
  let first := bindByte b 4 + 256 * bindByte b 5; let count := bindByte b 6 + 256 * bindByte b 7
  let te := p.tileElem pk e
  (List.range count).find? (fun i =>
    let t := (p.tree.get (first + i) 0#32).toNat
    t % 256 = te % 64 && t / 256 % 256 = te / 64)

/-- Sends contributions into a tree for a request (R225). -/
def State.contribute (s : State) (a : Fire) (fmt op : Nat) (ord sp : Bool) (req : Nat) (l : List (Nat × Nat × Nat)) : State :=
  let b := bits a.n.dest0.toNat 28 24
  l.foldl (fun s (va, val, j) =>
    let (id, s) := s.newId
    let x : Contrib :=
      { plane := a.pk, copy := a.p.copyOf a.pk a.e, bind := b, at_ := a.p.treeEntry a.pk (a.p.bind0 a.n) a.e,
        va := va, sp := sp, val := val, fmt := fmt, op := op, scope := a.n.mod.toNat, ord := ord, key := (a.fr.itix, a.e, j),
        iss := s.frameIss a.pk a.e a.node a.f a.fr.gen, req := req, accepted := false, ready := false, arr := 0 }
    { s with contribs := s.contribs.put id x }) s

/-- RED (R225): the root port checks each element's address. -/
def execNRed (n : NodeBody) (s : State) : Out := s.whenReady n (fun a =>
  let fmt := n.fmt.toNat; let e := elemCount fmt (NodeAsp n)
  let s := s.takeOperands a
  let id := s.fresh
  let s := s.request a 0x90 .sent
  s.contribute a fmt (bits n.operand.toNat 25 24) (n.operand.getLsbD 23) (NodeAsp n = 1) id
    ((liveElems n true a.l a.r a.pr).map (fun j =>
      (nodeRaw n e a.l j, unpacked a.r.val (NodeCheck.width fmt) e j, j))))

/-! Timelines and engines. -/

/-- The engine handle of a binding (R304). -/
def bindHandle (b : Nat) : Nat := b / 2 ^ 64

/-- An engine context. -/
def State.eng (s : State) (k : Nat) : EngCtx := s.engs.get k ⟨0, 0, []⟩

/-- A firing whose L goes out through port 11: DEST0's lane select narrows its mask (R27). -/
def Fire.port11 (a : Fire) : Fire := { a with l := a.l.narrow (bits a.n.dest0.toNat 11 8) }

/-- A fault record of an engine cause (Table 18.3): the handle in AUX. -/
def State.engFault (s : State) (a : Fire) (cause h : Nat) : State :=
  s.fireFault a (s.frameRec a.pk a.e a.node a.f cause 0 0 h)

/-- A timeline acquire: the pair of R104 joins the horizon. -/
def State.timelinePair (s : State) (i : Issuer) (k n : Nat) : State :=
  s.setAgent i (fun h => mergeHorizon h (some [(engineAgent k, n)])) id

/-- TLW (R97, R229). -/
def execNTlw (n : NodeBody) (s : State) : Out := s.whenReady n (fun a =>
  let h := bindHandle (a.p.binds.get (n.operand.toNat % 32) 0#128).toNat
  let k := ctxKey h
  let c := if a.l.mask.getLsbD 0 && a.l.mask.getLsbD 1 then elem a.l.val 64 0 else 0
  match s.handleCause a.p.ctx a.p.cbix h with
  | some x => s.engFault a x h
  | none =>
    if (s.eng k).accepted < c then s.engFault a Cause.tlAhead h
    else
    let s := s.takeOperands a
    if c ≤ (s.eng k).counter then (s.timelinePair (s.frameIss a.pk a.e a.node a.f a.fr.gen) k c).out a a.l.data
    else s.request a 0x97 .waiting c)

/-- TLR (R97, R229). -/
def execNTlr (n : NodeBody) (s : State) : Out := s.whenReady n (fun a =>
  let h := bindHandle (a.p.binds.get (n.operand.toNat % 32) 0#128).toNat
  match s.handleCause a.p.ctx a.p.cbix h with
  | some x => s.engFault a x h
  | none => (s.takeOperands a).out a ⟨mkVec 64 (List.replicate 8 (s.eng (ctxKey h)).counter), 0xFFFF#16, 0#4⟩)

/-- The check of a copy command block against the handle in force (R175, R230). -/
def State.copyCause (s : State) (ctx cbix b h : Nat) : Option Nat :=
  let tid := bit b 240
  let fk := bits b 321 320
  let fh := hDie h * 2 ^ 30 + 1 * 2 ^ 28 + bits b 326 322 * 2 ^ 23 + bits b 328 327 * 2 ^ 19
  s.handleCause ctx cbix h <|>
  if bits b 511 337 ≠ 0 ∨ fk = 3 ∨ bits b 287 280 ≠ 0 ∨ bits b 255 242 ≠ 0 ∨ bits b 191 188 ≠ 0 ∨ bits b 127 124 ≠ 0 ∨
    hClass h ≠ 0 ∨ bits b 279 256 % 4 ≠ 0 ∨
    (tid && (bits b 223 192 ≠ 0 || bits b 120 64 ≠ 0 || bits b 123 121 ≠ 0 || bits b 184 128 ≠ 0 || bits b 187 185 ≠ 0)) ∨
    (!tid && (bits b 239 224 ≠ 0 || 1 < bits b 123 121 || 1 < bits b 187 185)) ∨
    (fk ≠ 0 ∧ !s.granted ctx cbix fh) then some Cause.engineCmd
  else none

/-- Queues a command for its context (R230). -/
def State.queueCmd (s : State) (kind : Nat) (h : Nat) (block : BitVec 512) (iss : Issuer) (body : NodeBody) (l : Operand) : State :=
  let hz := s.horizonOf iss
  let (id, s) := s.newId
  let x : Cmd :=
    { ctxKey := ctxKey h, csc := hCsc h, kind := kind, num := none, block := block, iss := iss, horizon := hz, body := body, l := l,
      tids := [], tries := 0, pos := 0, buf := [], leg := 0, err := none, stage := .queued, ord := id }
  { s with cmds := s.cmds.put id x }

/-- A firing of an engine node, whose L the lane select of DEST0 narrows (R27): access, then the block's own check, then the queue. -/
def State.fireCmd (s : State) (n : NodeBody) (kind : Nat) (check : Fire → Nat → Option Nat) : Out := s.whenReady n (fun a =>
  let a := a.port11
  let h := bindHandle (a.p.bind0 n)
  match s.handleCause a.p.ctx a.p.cbix h <|> check a h with
  | some c => s.engFault a c h
  | none => (s.takeOperands a).queueCmd kind h a.l.val (s.frameIss a.pk a.e a.node a.f a.fr.gen) n a.l)

/-- COPY, the engine node (R230). -/
def execNCopyEngine (n : NodeBody) (s : State) : Out := s.fireCmd n 0 (fun a h =>
  let b := a.l.val.toNat
  if a.l.mask ≠ 0xFFFF#16 ∨ (b % 2 ^ 64 ≠ 0 ∧ b % 2 ^ 64 ≠ h) then some Cause.engineCmd else s.copyCause a.p.ctx a.p.cbix b h)

/-- NETW (R231). -/
def execNNetw (n : NodeBody) (s : State) : Out := s.fireCmd n 1 (fun a h =>
  let b := a.l.val.toNat
  if a.l.mask ≠ 0xFFFF#16 ∨ hClass h ≠ 2 ∨ bits b 511 416 ≠ 0 ∨ bits b 391 384 ≠ 0 ∨ bits b 223 196 ≠ 0 ∨ bits b 191 185 ≠ 0 ∨
    bits b 127 64 ≠ 0 ∨ (b % 2 ^ 64 ≠ 0 ∧ b % 2 ^ 64 ≠ h) ∨ 2 < bits b 195 192 ∨ bits b 399 392 = 0 ∨ 64 < bits b 399 392 ∨
    bits b 255 224 = 0 then some Cause.engineCmd else none)

/-- MXLS (R251). -/
def execNMxls (n : NodeBody) (s : State) : Out := s.fireCmd n 2 (fun _ _ => none)
/-- MXSW (R251). -/
def execNMxsw (n : NodeBody) (s : State) : Out := s.fireCmd n 3 (fun _ _ => none)
/-- MXACC (R253). -/
def execNMxacc (n : NodeBody) (s : State) : Out := s.fireCmd n 4 (fun _ _ => none)
/-- MXQ (R254). -/
def execNMxq (n : NodeBody) (s : State) : Out := s.fireCmd n 5 (fun _ _ => none)

/-- MXST (R249, R252): its segment joins the row of its binding, frame and generation. -/
def execNMxst (n : NodeBody) (s : State) : Out := s.whenReady n (fun a =>
  let a := a.port11
  let h := bindHandle (a.p.bind0 n)
  match s.handleCause a.p.ctx a.p.cbix h with
  | some x => s.engFault a x h
  | none =>
    let o := n.operand.toNat
    let bnd := bits n.dest0.toNat 28 24
    let seg := (o % 32, a.e, n, a.l)
    let s := s.takeOperands a
    match s.rows.find? (fun (_, r) => r.plane = a.pk && r.bind = bnd && r.frame = a.f && r.gen = a.fr.gen && r.stage = .sent) with
    | some (k, r) => { s with rows := s.rows.put k { r with segs := r.segs ++ [seg] } }
    | none =>
      let (id, s) := s.newId
      let x : Row :=
        { plane := a.pk, bind := bnd, frame := a.f, gen := a.fr.gen, itix := a.fr.itix, ctxKey := ctxKey h, csc := hCsc h, segs := [seg],
          total := o / 32 % 32 + 1, iss := s.frameIss a.pk a.e a.node a.f a.fr.gen, num := none, at_ := s.fc, ord := 0, stage := .sent }
      { s with rows := s.rows.put id x })

/-! Conversations. -/

/-- The key of role register n of a context's region: registers are saved and restored with their context (R115). -/
def roleKey (ctx region n : Nat) : Nat := 8 * (256 * ctx + region) + n

/-- Role register n of a plane's region (R115). -/
def State.roleReg (s : State) (pk n : Nat) : Word := s.roles.get (roleKey (s.plane pk).ctx (pk / 4 % 256) n) 0#64

/-- Queues a send or delegation for its engine (R117). -/
def State.queueSend (s : State) (x : Send) : Nat × State :=
  let (id, s) := s.newId
  let y : Send := { x with ord := id }
  (id, { s with sends := s.sends.put id y })

/-- A send node of a frame (R232): the role register as it stands at the firing. -/
def State.fireSend (s : State) (n : NodeBody) (choose deleg : Bool) : Out := s.whenReady n (fun a =>
  let o := n.operand.toNat
  let v := s.roleReg a.pk (o % 8)
  let va := elem a.l.val 64 0
  let bytes := if choose || deleg || bit o 17 then [] else leBytes (bits o 16 8) (zeroOff a.l.val a.l.mask).toNat
  let x : Send :=
    { iss := s.frameIss a.pk a.e a.node a.f a.fr.gen, body := n, l := a.l, handle := BitVec.ofNat 64 (v.toNat / 2 ^ 30 * 2 ^ 30),
      role := bits v.toNat 29 27, kind := bits o 7 3, choose := choose, deleg := deleg, payload := bytes,
      desc := BitVec.ofNat 64 (if a.l.mask.getLsbD 0 && a.l.mask.getLsbD 1 then va else 0), close := none, reg := v.toNat, at_ := s.fc,
      due := s.due (pkDie a.pk), ord := 0, held := false }
  ((s.takeOperands a).queueSend x).2)

/-- CVSEND, the node (R232). -/
def execNCvsend (n : NodeBody) (s : State) : Out := s.fireSend n false false
/-- CVCHOOSE (R120, R232). -/
def execNCvchoose (n : NodeBody) (s : State) : Out := s.fireSend n true false
/-- CVDELEG, the node (R124, R232). -/
def execNCvdeleg (n : NodeBody) (s : State) : Out := s.fireSend n false true

/-- CVRECV (R122, R233): the waiting message of lowest send number goes to the frame drawn earliest whose trigger waits. -/
def execNCvrecv (n : NodeBody) (s : State) : Out := s.whenReady n (fun a =>
  let b := n.operand.toNat % 32
  if !s.feat 16 then s.fireFault a (s.frameRec a.pk a.e a.node a.f Cause.engineAccess 0 0 0)
  else
  let mine := a.p.cmsg.filter (fun m => m.1 = b)
  match mine.foldl (fun best m => match best with
      | none => some m
      | some x => if m.2.2.2.1 < x.2.2.2.1 then some m else some x) none with
  | none => s
  | some m =>
    let older := a.p.frames.any (fun (f, fr) => fr.order < a.fr.order && !fr.parked && a.p.slots.has (slotKey a.node f 0 a.e))
    if older then s
    else
      let s := s.takeOperands a
      let p := s.plane a.pk
      let s := (s.setPlane a.pk { p with cmsg := p.cmsg.erase m }).acquireTop (s.frameIss a.pk a.e a.node a.f a.fr.gen)
      s.out a ⟨m.2.2.2.2, 0xFFFF#16, 0#4⟩)

/-! Render nodes. -/

/-- The rays of a key (R271). -/
def State.rayOf (s : State) (pk b e f gen : Nat) : Option (Nat × Ray) :=
  s.rays.find? (fun (_, r) => r.plane = pk && r.bind = b && r.elem = e && r.frame = f && r.gen = gen)

/-- RAYINJ (R271). -/
def execNRayinj (n : NodeBody) (s : State) : Out := s.whenReady n (fun a =>
  let a := a.port11
  let b := bits n.dest0.toNat 28 24
  if !s.feat 17 then s.fireFault a (s.frameRec a.pk a.e a.node a.f Cause.engineAccess 0 0 0)
  else if (s.rayOf a.pk b a.e a.f a.fr.gen).isSome then s
  else if a.l.mask.toNat % 2 ^ 11 ≠ 2 ^ 11 - 1 ∨ lane a.l.val 10 / 8 ≠ 0 then
    s.fireFault a (s.frameRec a.pk a.e a.node a.f Cause.rayFormat 0 0 0)
  else
    let (id, s) := (s.takeOperands a).newId
    let x : Ray :=
      { plane := a.pk, elem := a.e, bind := b, frame := a.f, gen := a.fr.gen, body := n, nodeIx := a.node, vec := a.l.val,
        l := a.l, iss := s.frameIss a.pk a.e a.node a.f a.fr.gen, stack := [], node := none, best := (0, 0, 0, 0, 0, 0), nodes := 0, tris := 0, err := none, stage := .sent,
        ended := false, ord := id }
    { s with rays := s.rays.put id x })

/-- The hit record of a ray (Table 11.2). `best` holds t, u, v, PRIM, MAT and 1 for a front face, 3 for a back face, 0 for a
miss. -/
def Ray.record (r : Ray) : Vec :=
  let (t, u, v, prim, mat, fl) := r.best
  let hit := fl ≠ 0 ∧ r.err = none
  mkVec 32 ([if hit then t else 0x7F800000] ++ (if hit then [u, v, prim, mat] else [0, 0, 0, 0]) ++
    [(if hit then fl else 0) + (if r.err.isSome then 4 else 0), r.nodes, r.tris, r.err.getD 0 % 2 ^ 32, r.err.getD 0 / 2 ^ 32])

/-- RAYRCV (R271): a record with the error flag parks the frame, and is sent when the frame resumes. -/
def execNRayrcv (n : NodeBody) (s : State) : Out := s.whenReady n (fun a =>
  match s.rayOf a.pk (n.operand.toNat % 32) a.e a.f a.fr.gen with
  | none => s
  | some (k, r) =>
    if r.stage ≠ .done then s
    else
      let s := s.takeOperands a
      let s := { s with rays := s.rays.del k }
      match r.err with
      | none => s.out a ⟨r.record, 0x03FF#16, 0#4⟩
      | some ad =>
        let p := s.plane a.pk
        let s := s.setPlane a.pk { p with frames := p.frames.put a.f { a.fr with resume := a.fr.resume ++ [(a.e, a.node, r.record, 0x03FF#16)] } }
        s.park a.pk a.f (s.frameRec a.pk a.e a.node a.f Cause.rayBvh ad 0 0))

/-- A node that sends a request to its block's sampler, which early service does not have (R383). -/
def State.fireSampler (s : State) (n : NodeBody) (opc : Nat) : Out := s.whenReady n (fun a =>
  if s.feat 17 then (s.takeOperands a).request a opc .sent
  else s.fireFault a (s.frameRec a.pk a.e a.node a.f Cause.engineAccess 0 0 0))

/-- HGF (R276): the request to the block's sampler. -/
def execNHgf (n : NodeBody) (s : State) : Out := s.fireSampler n 0xB3
/-- TEX (R278). -/
def execNTex (n : NodeBody) (s : State) : Out := s.fireSampler n 0xB5

/-- Features per entry of a hash-grid identifier. -/
def hgF (t : Nat) : Nat := 2 ^ bits t 459 458

/-- The lane word that holds packed f16 element i. -/
def f16Lane (i : Nat) : Nat := i / 2

/-- HGS's sums over one firing (R277): entry, feature, sum and the lane part of its key, in order of first contribution. -/
def hgsSums (t : Nat) (pts : List (Nat × Nat × Nat × Nat)) (g : Vec) (on : Nat → Nat → Bool) (r : Num.Rnd) :
    List (Nat × Nat × Nat × Nat) × Num.Rnd :=
  let f32 := Num.fmtOf 10; let F := hgF t
  pts.foldl (fun (acc, r) (q, c, ix, w) =>
    (List.range F).foldl (fun (acc, r) f =>
      if !on q f then (acc, r)
      else
      let gv := Num.decode (Num.fmtOf 8) (elem g 16 (q * F + f))
      let (pv, fl) := Num.mul gv (Num.decode f32 w)
      let (v, r) := Num.round f32 0 (r.raise (fl ||| if gv.isSnan then Num.NV else 0)) pv
      if acc.any (fun x => x.1 = ix && x.2.1 = f) then
        let (acc, r) := acc.foldl (fun (l, r) x =>
          if x.1 = ix ∧ x.2.1 = f then
            let (y, r) := Num.fbin f32 0x20 r x.2.2.1 v
            (l ++ [(ix, f, y, x.2.2.2)], r)
          else (l ++ [x], r)) (([] : List (Nat × Nat × Nat × Nat)), r)
        (acc, r)
      else (acc ++ [(ix, f, v, 8 * q + c)], r)) (acc, r)) (([] : List (Nat × Nat × Nat × Nat)), r)

/-- HGS (R277): consumes the kept record and sends its sums into the tree. -/
def execNHgs (n : NodeBody) (s : State) : Out := s.whenReady n (fun a =>
  let node := n.operand.toNat % 32
  match s.keeps.find? (fun k => k.plane = a.pk && k.elem = a.e && k.node = node && k.frame = a.f && k.gen = a.fr.gen) with
  | none => s.fireFault a (s.frameRec a.pk a.e a.node a.f Cause.hgNokeep 0 0 0)
  | some k =>
    let t := k.tid.toNat; let F := hgF t
    let on (q f : Nat) : Bool := (a.l.mask &&& (if n.hasP then truthMask a.pr else 0xFFFF#16)).getLsbD (f16Lane (q * F + f))
    let (sums, r) := hgsSums t k.pts a.l.val on ⟨0, a.rnd.s, 0⟩
    let s := (s.takeOperands a).flag a.pk a.f a.fr.gen r.fl
    let s := { s with keeps := s.keeps.erase k }
    let id := s.fresh
    let s := s.request a 0xB4 .sent
    s.contribute a 10 0 (n.operand.getLsbD 5) (bits t 59 57 = 1) id (sums.map (fun (ix, f, v, key) =>
      (bits t 440 384 + 4 * F * (k.level * 2 ^ bits t 457 453 + ix) + 4 * f, v, key))))

/-- DRAWEND (R281): ends the frame's part in the copy as EXIT does. -/
def execNDrawend (n : NodeBody) (s : State) : Out := s.whenReady n (fun a =>
  ((s.takeOperands a).sendReturn a ⟨0#512, 0#16, 0#4⟩).partEnd a)

end Sys2Proof.Machine
end

