-- ==== Sys2Proof/Machine/Conv.lean ====
section
/-! DEFINITION. The conversation engine (R110 to R126, R387): images, endpoints, binding, the send check, delegation,
delivery, closing and freeing. -/

namespace Sys2Proof.Machine

open Sys2Proof

/-! Handles and slots (Table 5.3). -/

/-- The slot a handle names: 4096·die + index, or none for another module's. -/
def convKey (h : Nat) : Option Nat := if bits h 63 52 = Config.moduleNumber.toNat then some (bits h 51 38) else none

/-- The handle of a slot. -/
def convHandle (key : Nat) (gen : BitVec 8) : Nat := Config.moduleNumber.toNat * 2 ^ 52 + key * 2 ^ 38 + gen.toNat * 2 ^ 30

/-- A free slot that nothing has used. -/
def Conv.empty : Conv :=
  { gen := 0#8, open_ := false, closing := false, state := 0, sends := 0, scope := 0, owner := 0, ownerCbix := 0, region := none, part := 0,
    imageAt := 0, image := 0, eps := [], roles := [] }

/-- A slot. -/
def State.conv (s : State) (key : Nat) : Conv := s.convs.get key Conv.empty

/-- Replaces a slot. -/
def State.setConv (s : State) (key : Nat) (c : Conv) : State := { s with convs := s.convs.put key c }

/-- The open conversation that a handle names and whose generation it carries. -/
def State.live? (s : State) (h : Nat) : Option (Nat × Conv) :=
  let k := bits h 51 38; let c := s.conv k
  if c.open_ && decide (c.gen.toNat = bits h 37 30) && (convKey h).isSome then some (k, c) else none

/-! Images (Tables 5.1 and 5.2). -/

/-- Byte i of an image. -/
def Conv.byte (c : Conv) (i : Nat) : Nat := c.image / 2 ^ (8 * i) % 256

/-- Transition word i of an image. -/
def transition (img i : Nat) : Nat := img / 2 ^ (512 + 32 * i) % 2 ^ 32

/-- The number of transition words. -/
def transitions (img : Nat) : Nat := bits img 63 48

/-- What names a transition: STATE, ROLE and KIND. -/
def transKey (t : Nat) : Nat := bits t 30 17

/-- The rules of R112 on an image. -/
def imageOk (img : Nat) : Bool :=
  let ns := bits img 23 16; let nr := bits img 31 24; let nk := bits img 39 32; let nt := transitions img
  let ts := (List.range nt).map (transition img)
  bits img 15 0 = 1 && 1 ≤ ns && ns ≤ 64 && 1 ≤ nr && nr ≤ 8 && 1 ≤ nk && nk ≤ 32 && 1 ≤ nt && nt ≤ 1024 && bits img 47 40 < ns &&
  (List.range 32).all (fun k => img / 2 ^ (8 * (16 + k)) % 256 ≤ 32) && bits img 511 416 = 0 &&
  ts.all (fun t => bit t 31 && bits t 2 0 = 0 && bits t 30 25 < ns && bits t 16 11 < ns && bits t 24 22 < nr && bits t 21 17 < nk &&
    bits t 10 3 < 2 ^ nr && !bit img (64 + bits t 30 25)) &&
  (ts.map transKey).eraseDups.length = nt &&
  (List.range 32).all (fun k => !bit img (384 + k) || img / 2 ^ (8 * (16 + k)) % 256 = 0)

/-- NROLE of a conversation. -/
def Conv.nrole (c : Conv) : Nat := c.byte 3

/-- The transition of the state for a role and a kind. -/
def Conv.trans (c : Conv) (role kind : Nat) : Option Nat :=
  ((List.range (transitions c.image)).map (transition c.image)).find? (fun t => bits t 30 25 = c.state && bits t 24 22 = role && bits t 21 17 = kind)

/-- AUX and INFO of a conversation cause (Table 18.3). -/
def convErr (cause h st role kind : Nat) : Err := ⟨cause, st + 256 * role + 65536 * kind, h⟩

/-! Endpoints (Table 5.4). -/

/-- An endpoint descriptor read for a context: malformed cases give CV_BIND, misalignments ALIGN (R116). -/
def State.endpointOf (s : State) (ctx d : Nat) : Except Nat Endpoint :=
  let xc := bit d 80; let own := bits d 79 64
  if bits d 255 199 % 512 ≠ 0 ∨ bits d 191 135 % 4 ≠ 0 then .error Cause.align
  else if bits d 198 196 ≠ 0 ∨ bits d 134 81 ≠ 0 ∨ bits d 10 0 ≠ 0 ∨ 1 < bits d 63 62 ∨ bits d 195 192 < 2 ∨ 8 < bits d 195 192 ∨
    (!xc ∧ own ≠ 0) ∨ (xc ∧ !s.ctxLive own) then .error Cause.cvBind
  else .ok { ctx := if xc then own else ctx, rbase := bits d 255 199, rlog := bits d 195 192, cons := bits d 191 135,
             queue := bits d 63 62 = 1, module_ := bits d 61 50, die := bits d 49 48, rbx := bits d 47 45, rby := bits d 44 42,
             plane := bits d 41 40, eport := bits d 39 35, cbix := bits d 34 11, made := 0, uncounted := [], failing := false }

/-- Two endpoints are one (R114): every field of the descriptor agrees. -/
def Endpoint.same (a b : Endpoint) : Bool :=
  { a with made := 0, uncounted := [], failing := false } = { b with made := 0, uncounted := [], failing := false }

/-- The die on which an endpoint lies (R387): a hub queue lies on none. -/
def State.endpointDie (s : State) (e : Endpoint) : Option Nat :=
  if !e.queue then some e.die else if s.queueOf e.ctx e.cbix < 128 then some (s.queueOf e.ctx e.cbix / 32) else none

/-- An endpoint lies in a region (R387): a frame port by the origin block that it names, a queue by what its control block grants. -/
def State.endpointIn (s : State) (e : Endpoint) (g : Region) : Bool :=
  if !e.queue then e.die = g.die && e.rbx = g.ox && e.rby = g.oy
  else match s.grant e.ctx e.cbix with
    | some r => r.die = g.die && r.ox = g.ox && r.oy = g.oy && r.w = g.w && r.h = g.h
    | none => false

/-- An endpoint lies in a conversation's scope set (R387). -/
def State.inScope (s : State) (key : Nat) (c : Conv) (e : Endpoint) : Bool :=
  let here := e.module_ = Config.moduleNumber.toNat
  match c.scope with
  | 4 => e.ctx = c.owner && here && c.region.any (s.endpointIn e)
  | 0 | 5 => e.ctx = c.owner && here && s.endpointDie e = some (key / 4096)
  | 6 => e.ctx = c.owner && here
  | 7 => here && s.partOfCtx e.ctx = c.part
  | 8 => here || Config.sameSwitch e.module_
  | _ => here || Config.sameDomain e.module_

/-- The region number of a frame-port endpoint, for its role registers. -/
def Endpoint.regionNo (e : Endpoint) : Nat := 64 * e.die + 8 * e.rby + e.rbx

/-- The lowest free role register of a frame-port endpoint's region (R115). -/
def State.freeRole (s : State) (e : Endpoint) : Option Nat :=
  (List.range 8).find? (fun n => !bit (s.roles.get (roleKey e.ctx e.regionNo n) 0#64).toNat 26)

/-- A role register's content (Table 5.5). -/
def roleWord (h role : Nat) (e : Endpoint) : Word :=
  BitVec.ofNat 64 (h / 2 ^ 30 * 2 ^ 30 + role * 2 ^ 27 + 2 ^ 26 + e.eport * 2 ^ 21 + e.plane * 2 ^ 19)

/-- The registers that hold a role, or any role, of a conversation. -/
def State.rolesOf (s : State) (h : Nat) (role : Option Nat) : List Nat :=
  (s.roles.filter (fun (_, v) => (v.toNat / 2 ^ 30 == h / 2 ^ 30) && bit v.toNat 26 && role.all (fun r => bits v.toNat 29 27 == r))).map Prod.fst

/-- Clears the VALID bit of role registers (R124, R125). -/
def State.clearRoles (s : State) (l : List Nat) : State :=
  { s with roles := s.roles.map (fun (k, v) => (k, if l.contains k then v &&& ~~~(1#64 <<< 26) else v)) }

/-- The conversation with an endpoint among those it has met, and its place there. Deliveries are counted from 0 in each conversation
that binds the endpoint (log 110). -/
def Conv.meet (c : Conv) (e : Endpoint) : Conv × Nat :=
  match c.eps.findIdx? (fun x => x.same e) with
  | some i => (c, i)
  | none => ({ c with eps := c.eps ++ [e] }, c.eps.length)

/-- The endpoint that a role is bound to. -/
def Conv.bound (c : Conv) (role : Nat) : Option (Nat × Endpoint) :=
  match c.roles[role]? with
  | some (some i) => (c.eps[i]?).map (fun e => (i, e))
  | _ => none

/-- Binds a role to an endpoint, with its role register (R115, R116). -/
def State.bindRole (s : State) (key : Nat) (c : Conv) (role : Nat) (e : Endpoint) : State :=
  let (c, i) := c.meet e
  let s := s.setConv key { c with roles := c.roles.set role (some i) }
  if e.queue then s
  else match s.freeRole e with
    | some n => { s with roles := s.roles.put (roleKey e.ctx e.regionNo n) (roleWord (convHandle key c.gen) role e) }
    | none => s

/-! Delivery (R121, R122). -/

/-- The engine as an agent that accesses a context's memory without privilege (R385). -/
def engineIss (ctx die : Nat) : Issuer := { ctx := ctx, cbix := 0, priv := false, die := die, frame := none, unit := none }

/-- Messages that wait for a role, by id, in send-number order. -/
def State.waitingFor (s : State) (key role : Nat) : List (Nat × Delivery) :=
  (s.deliveries.filter (fun (_, d) => d.conv = key && d.role = role)).mergeSort (fun a b => a.2.num ≤ b.2.num)

/-- Messages that wait for the roles bound to an endpoint, by id, in the order in which it takes them (R121): by send number, and
those of one send by role. -/
def State.waitingAt (s : State) (key i : Nat) : List (Nat × Delivery) :=
  (s.deliveries.filter (fun (_, d) => d.conv = key && (match (s.conv key).bound d.role with | some (j, _) => j = i | none => false))).mergeSort
    (fun a b => a.2.num < b.2.num || (a.2.num = b.2.num && a.2.role ≤ b.2.role))

/-- The plane of a frame-port endpoint, when it is ACTIVE and not being swapped out (R126, R361). -/
def State.portPlane (s : State) (e : Endpoint) : Option Nat :=
  match s.findPlane e.ctx e.die e.rbx e.rby e.plane with
  | some pk => if (s.plane pk).state = .active ∧ (s.plane pk).swap = 0 then some pk else none
  | none => none

/-- Reads a consumer word as an acquire at the conversation's scope (R121). -/
def State.readCons (s : State) (e : Endpoint) (die scope : Nat) : State × Except Err Nat :=
  s.access (l2Tlb die) (engineIss e.ctx die) e.cons 4 { atomic := true, acq := true, scope := scope } (fun _ => none)

/-- Writes bytes to a ring as plain writes, in granules of at most 8 bytes. -/
def State.writeRun (s : State) (i : Issuer) (va : Nat) (l : List Byte) : State × Except (Err × Nat) Unit :=
  ((List.range ((l.length + 7) / 8)).foldl (fun (acc : State × Except (Err × Nat) Unit) k =>
    match acc with
    | (s, .error e) => (s, .error e)
    | (s, .ok _) =>
      let b := (l.drop (8 * k)).take 8
      match s.storeN (l2Tlb i.die) i (va + 8 * k) b.length (leNat b) with
      | (s, .error e) => (s, .error (e, va + 8 * k))
      | (s, .ok _) => (s, .ok ())) (s, .ok ()))

/-- A conversation's report to its owner's fault domain. -/
def State.ownerReport (s : State) (c : Conv) (cause addr info aux : Nat) : State :=
  s.report { cause := cause, addr := addr, info := info, aux := aux, ctx := c.owner, cbix := c.ownerCbix }

/-- A queue endpoint's delivery is counted by the oldest waiting ARM.conv on the role, or stays uncounted (R122). -/
def State.countDelivery (s : State) (key ep role : Nat) (gen : BitVec 8) (e : Endpoint) : State × Endpoint :=
  match s.arms.find? (fun a => a.kind = ArmKind.conv key ep role gen) with
  | some a => ({ s with arms := s.arms.erase a, trig := s.trig ++ [a] }, e)
  | none => (s, { e with uncounted := e.uncounted ++ [role] })

/-- Tries to deliver a waiting message (R121, R122, R126, R361). It is delivered only in send-number order for its endpoint, which is
here and takes it; an access that fails is reported once. -/
def State.deliverMsg (s : State) (id : Nat) : State :=
  match s.deliveries.find id with
  | none => s
  | some d =>
    let c := s.conv d.conv; let die := d.conv / 4096
    match c.bound d.role with
    | none => s
    | some (i, e) =>
      let first := match s.waitingAt d.conv i with | (k, _) :: _ => k = id | [] => false
      if !first ∨ e.module_ ≠ Config.moduleNumber.toNat ∨ (!e.queue ∧ (s.portPlane e).isNone) then s
      else
        let fail (s : State) (er : Err) (ad : Nat) : State :=
          let c := s.conv d.conv
          let s1 := s.setConv d.conv { c with eps := c.eps.set i { e with failing := true } }
          if e.failing then s1 else s1.ownerReport c er.cause ad er.info er.aux
        let hand (s : State) (v : Vec) : State :=
          match s.portPlane e with
          | none => s
          | some pk => let p := s.plane pk; s.setPlane pk { p with cmsg := p.cmsg ++ [(e.eport, d.conv, d.role, d.num, v)] }
        if d.wrote.map Prod.fst = some i then
          hand { s with deliveries := s.deliveries.del id } (d.vec ||| BitVec.ofNat 512 (((d.wrote.map Prod.snd).getD 0) * 2 ^ 192))
        else match s.readCons e die c.scope with
        | (s, .error er) => fail s er e.cons
        | (s, .ok cons) =>
          if 2 ^ e.rlog ≤ (e.made + 2 ^ 32 - cons) % 2 ^ 32 then
            let c := s.conv d.conv
            s.setConv d.conv { c with eps := c.eps.set i { e with failing := false } }
          else
            let slot := e.rbase + 512 * (e.made % 2 ^ e.rlog)
            let v := if d.payload.length ≤ 32 then d.vec else d.vec ||| BitVec.ofNat 512 ((slot + 64) * 2 ^ 192)
            match s.writeRun (engineIss e.ctx die) slot (leBytes 64 v.toNat ++ d.payload) with
            | (s, .error (er, ad)) => fail s er ad
            | (s, .ok _) =>
              let s := { s with deliveries := s.deliveries.del id }
              let e1 := { e with made := e.made + 1, failing := false }
              let (s, e2) := if e.queue then s.countDelivery d.conv i d.role c.gen e1 else (s, e1)
              let c := s.conv d.conv
              let s := s.setConv d.conv { c with eps := c.eps.set i e2 }
              if e.queue then s else hand s v

/-- The message vector of Table 5.6 without the payload's address. -/
def messageVec (kind sender role num : Nat) (payload : List Byte) : Vec :=
  let pay := if payload.length ≤ 32 then leNat payload else 0
  BitVec.ofNat 512 (kind + sender * 2 ^ 32 + role * 2 ^ 64 + payload.length * 2 ^ 96 + num % 2 ^ 64 * 2 ^ 128 + pay * 2 ^ 256)

/-- Spill entries of a context's conversation backing memory (R121). -/
def State.spillEntries (s : State) (ctx : Nat) : Nat := (s.desc ctx 42 2 * 4096 - 16384) / 512

/-- Waiting deliveries of the conversations that a context owns. -/
def State.spillHeld (s : State) (ctx : Nat) : Nat := (s.deliveries.filter (fun (_, d) => (s.conv d.conv).owner = ctx)).length

/-- A message to endpoint i could be written at once, after n others of the same send (R117). -/
def State.roomNow (s : State) (key i : Nat) (e : Endpoint) (n : Nat) : Bool :=
  s.waitingAt key i = [] && e.module_ = Config.moduleNumber.toNat && (e.queue || (s.portPlane e).isSome) &&
  (match (s.readCons e (key / 4096) (s.conv key).scope).2 with
    | .ok cons => (e.made + n + 2 ^ 32 - cons) % 2 ^ 32 < 2 ^ e.rlog
    | .error _ => false)

/-- Deliveries of a send to the given roles that need spill space: those that cannot be written at once (R117). `taken` holds the
endpoints to which earlier ones of them go. -/
def State.spillNeed (s : State) (key : Nat) : List Nat → List Nat → Nat
  | [], _ => 0
  | r :: l, taken => match (s.conv key).bound r with
    | none => s.spillNeed key l taken + 1
    | some (i, e) => b2n (!s.roomNow key i e (taken.count i)) + s.spillNeed key l (i :: taken)

/-! The send check (R117, R232). -/

/-- Whether an issuer of a send is the endpoint that holds the role (R117, R232). -/
def Send.holds (x : Send) (s : State) (c : Conv) : Bool :=
  match c.bound x.role with
  | none => false
  | some (_, e) =>
    match x.iss.frame with
    | some (pk, _, _, _, _) => !e.queue && e.ctx = x.iss.ctx && e.die = pkDie pk && e.rbx = pkOx pk && e.rby = pkOy pk &&
        e.plane = bits x.reg 20 19 && e.eport = bits x.reg 25 21 && e.plane = (s.plane pk).vp
    | none => e.queue && e.ctx = x.iss.ctx && e.cbix = x.iss.cbix

/-- The kind is a branch choice. -/
def Conv.isChoice (c : Conv) (kind : Nat) : Bool := bit c.image (384 + kind)

/-- The role register of a frame's send is not valid, or names another virtual plane (R232). -/
def State.badReg (s : State) (x : Send) : Bool :=
  match x.iss.frame with
  | some (pk, _, _, _, _) => !bit x.reg 26 || bits x.reg 20 19 ≠ (s.plane pk).vp
  | none => false

/-- Why a send is refused, in the order of R117: the error, or the slot with its conversation and transition. -/
def State.sendCause (s : State) (x : Send) : Except Err (Nat × Conv × Nat) :=
  let h := x.handle.toNat
  if s.badReg x then
    .error (convErr Cause.cvNotBound h 0 x.role x.kind)
  else match s.live? h with
    | none => .error (convErr Cause.cvClosed h 0 x.role x.kind)
    | some (k, c) =>
      let no (cause : Nat) : Except Err (Nat × Conv × Nat) := .error (convErr cause h c.state x.role x.kind)
      if c.closing then no Cause.cvClosed
      else if !x.holds s c then no Cause.cvNotBound
      else if c.isChoice x.kind ≠ x.choose then no Cause.cvChoice
      else if 8 * c.byte (16 + x.kind) < x.payload.length then no Cause.cvLength
      else match c.trans x.role x.kind with
        | none => no Cause.cvOutOfTurn
        | some t =>
          let need := s.spillNeed k ((List.range c.nrole).filter (bit (bits t 10 3))) []
          if s.spillEntries c.owner < s.spillHeld c.owner + need then no Cause.cvBusy else .ok (k, c, t)

/-- A legal send's effect (R117, R121): the state and the counter move, and the message goes to each receiver, at once where
its ring takes it. -/
def State.applySend (s : State) (x : Send) (k : Nat) (c : Conv) (t : Nat) : State :=
  let n := c.sends + 1
  let s := s.setConv k { c with sends := n, state := bits t 16 11 }
  ((List.range c.nrole).filter (bit (bits t 10 3))).foldl (fun s r =>
    let (id, s) := s.newId
    let d : Delivery := { conv := k, role := r, num := n, vec := messageVec x.kind x.role r n x.payload, payload := x.payload }
    ({ s with deliveries := s.deliveries.put id d }).deliverMsg id) s

/-- A refused send or delegation of a frame parks it and waits for PARKRES; one of a record is a precise trap (R117, R119). That of a frame
that is gone is dropped without a record (R353). -/
def State.refuseSend (s : State) (q : Nat) (x : Send) (e : Err) (addr : Nat) : State :=
  match x.iss.frame, x.iss.unit with
  | some (pk, el, node, f, g), _ =>
    let live : Bool := match (s.plane pk).frame? f with | some fr => fr.gen = g | none => false
    if !live then { s with sends := s.sends.del q }
    else
      let s := { s with sends := s.sends.put q { x with held := true } }
      s.park pk f (s.frameRec pk el node f e.cause addr e.info e.aux)
  | none, some u =>
    let i := if x.close.isSome then Instr.sCvclose 0#5 0#5 else if x.deleg then Instr.sCvdeleg 0#5 0#5 0#3 else Instr.sCvsend 0#5 0#5 0#5 0#3 0#5
    let old := s.cur
    let s := { s with sends := s.sends.del q, cur := u }
    let w := if ownInfo e.cause then e.info else match s.peek s.me.ctx s.me.pc.toNat 4 with | some v => v | none => iword i
    let s := s.setMe { s.me with wait := none }
    { s.trap e.cause w (if dataCause e.cause then addr else s.me.pc.toNat) e.aux s.me.pc with cur := old }
  | none, none => { s with sends := s.sends.del q }

/-- An accepted send or delegation: the sender is acknowledged and releases (R118, R123). -/
def State.acceptSend (s : State) (q : Nat) (x : Send) (v : Operand) : State :=
  let s := ({ s with sends := s.sends.del q }).releaseGen x.iss
  match x.iss.frame, x.iss.unit with
  | some (pk, el, _, f, g), _ => s.sendBoth pk el x.body f g v
  | none, some u =>
    let w := s.unit u
    s.setUnit u { w with wait := none, pc := w.pc + 4#57 }
  | none, none => s

/-- Order in which sends, delegations and closings of one conversation are checked (R117): by fc of arrival, a send before a
delegation or a CVCLOSE, by role, by order. -/
def Send.before (x y : Send) : Bool :=
  x.at_ < y.at_ || (x.at_ = y.at_ && ((!x.deleg && y.deleg) || (x.deleg = y.deleg && (x.role < y.role || (x.role = y.role && x.ord < y.ord)))))

/-- No other send of the same conversation comes first. -/
def State.sendTurn (s : State) (x : Send) : Bool :=
  !s.sends.any (fun (_, y) => !y.held && y.ord ≠ x.ord && y.handle.toNat / 2 ^ 38 = x.handle.toNat / 2 ^ 38 && y.before x)

/-- Bytes that the engine reads for an issuer, as plain reads (R232, R385). -/
def State.readFor (s : State) (i : Issuer) (va n : Nat) : State × Except Err (List Byte) :=
  match s.vreadAny i va n with
  | (s, .error e) => (s, .error (errOf e false))
  | (s, .ok b) => (s, .ok b)

/-- The engine checks a send (R117): the payload of a frame's send from memory is read first. -/
def State.checkSend (s : State) (q : Nat) : State :=
  match s.sends.find q with
  | none => s
  | some x =>
    if x.held ∨ x.deleg ∨ (!s.badReg x ∧ (convKey x.handle.toNat).isNone) ∨ !s.sendTurn x then s
    else if s.badReg x then s.refuseSend q x (convErr Cause.cvNotBound x.handle.toNat 0 x.role x.kind) 0
    else
      let o := x.body.operand.toNat
      let mem := x.iss.frame.isSome && !x.choose && bit o 17 && x.payload = []
      let (s, x, err) : State × Send × Option (Err × Nat) :=
        if !mem then (s, x, none)
        else if x.desc.toNat % 8 ≠ 0 then (s, x, some (⟨Cause.align, 0, 0⟩, x.desc.toNat))
        else match s.readFor x.iss x.desc.toNat (bits o 16 8) with
          | (s, .error e) => (s, x, some (e, x.desc.toNat))
          | (s, .ok b) => (s, { x with payload := b }, none)
      match err with
      | some (e, a) => s.refuseSend q x e a
      | none => match s.sendCause x with
        | .error e => s.refuseSend q x e 0
        | .ok (k, c, t) =>
          let s := s.applySend x k c t
          let n := c.sends + 1
          s.acceptSend q x ⟨BitVec.ofNat 512 n, 3#16, 0#4⟩

/-! Delegation (R124). -/

/-- A message vector without its payload's address. -/
def bareVec (v : Nat) : Vec := BitVec.ofNat 512 (if bits v 127 96 ≤ 32 then v else v / 2 ^ 256 * 2 ^ 256 + v % 2 ^ 192)

/-- Messages of a role that lie in an old queue endpoint's ring above its consumer word (R124). One that cannot be read is lost, all
of them when the consumer word cannot (log 111). -/
def State.oldSlots (s : State) (e : Endpoint) (key role : Nat) : State × List Delivery :=
  match s.readCons e (key / 4096) (s.conv key).scope with
  | (s, .error _) => (s, [])
  | (s, .ok cons) =>
    let n := (e.made + 2 ^ 32 - cons) % 2 ^ 32
    (List.range n).foldl (fun (acc : State × List Delivery) j =>
      let (s, l) := acc
      let slot := e.rbase + 512 * ((e.made - n + j) % 2 ^ e.rlog)
      match s.readFor (engineIss e.ctx (key / 4096)) slot 320 with
      | (s, .error _) => (s, l)
      | (s, .ok b) =>
        let v := leNat (b.take 64)
        if bits v 95 64 ≠ role then (s, l)
        else
          let len := bits v 127 96
          let d : Delivery := { conv := key, role := role, num := bits v 191 128, vec := bareVec v, payload := (b.drop 64).take len }
          (s, l ++ [d])) (s, [])

/-- Adds a waiting delivery. -/
def State.addDelivery (s : State) (d : Delivery) : State := let (id, s) := s.newId; { s with deliveries := s.deliveries.put id d }

/-- The engine takes back a message that a CMSG token of an edge port holds; it reads a payload from the ring without privilege
(R385). One that it cannot read goes on without its bytes (log 111). -/
def State.takeCmsg (s : State) (ctx key role num : Nat) (vec : Vec) (wrote : Option (Nat × Nat)) : State :=
  let v := vec.toNat; let len := bits v 127 96
  let (s, pay) := if len ≤ 32 then (s, leBytes len (v / 2 ^ 256))
    else match s.readFor (engineIss ctx (key / 4096)) (bits v 255 192) len with
      | (s, .ok b) => (s, b)
      | (s, .error _) => (s, [])
  s.addDelivery { conv := key, role := role, num := num, vec := bareVec v, payload := pay, wrote := wrote }

/-- CMSG tokens that wait at a plane's edge ports return to the engine (R167). -/
def State.returnCmsg (s : State) (p : Plane) : State :=
  p.cmsg.foldl (fun s (_, key, role, num, v) =>
    s.takeCmsg p.ctx key role num v
      (((s.conv key).bound role).map (fun x => (x.1, if bits v.toNat 127 96 ≤ 32 then 0 else bits v.toNat 255 192)))) s

/-- Takes back from the old endpoint what has not been received (R124 steps 3 and 4). -/
def State.takeBack (s : State) (key role i : Nat) (e : Endpoint) : State :=
  if e.queue then
    let (s, l) := s.oldSlots e key role
    let c := s.conv key
    let s := s.setConv key { c with eps := c.eps.set i { e with made := e.made - l.length, uncounted := e.uncounted.filter (· ≠ role) } }
    l.foldl State.addDelivery s
  else match s.findPlane e.ctx e.die e.rbx e.rby e.plane with
    | none => s
    | some pk =>
      let p := s.plane pk
      let mine := p.cmsg.filter (fun m => m.1 = e.eport && m.2.1 = key && m.2.2.1 = role)
      let s := s.setPlane pk { p with cmsg := p.cmsg.filter (fun m => !mine.contains m) }
      mine.foldl (fun s m => s.takeCmsg e.ctx key role m.2.2.2.1 m.2.2.2.2 none) s

/-- Messages that a delegation takes back from the old endpoint, each of which needs a spill entry (R124, R330). -/
def State.backNeed (s : State) (key role : Nat) (e : Endpoint) : Nat :=
  if e.queue then (s.oldSlots e key role).2.length
  else match s.findPlane e.ctx e.die e.rbx e.rby e.plane with
    | none => 0
    | some pk => ((s.plane pk).cmsg.filter (fun m => m.1 = e.eport && m.2.1 = key && m.2.2.1 = role)).length

/-- The conversation backing memory of a context does not hold the engine's state and n more spill entries (R121, R330, log 109). -/
def State.backingShort (s : State) (ctx n : Nat) : Bool :=
  s.desc ctx 42 2 < 4 || (n ≠ 0 && s.spillEntries ctx < s.spillHeld ctx + n)

/-- The descriptor that a CVBIND or CVDELEG names, read for its issuer: ALIGN, a translation cause, or CV_BIND (R116). -/
def State.readEndpoint (s : State) (i : Issuer) (va h role : Nat) : State × Except (Err × Nat) Endpoint :=
  if va % 32 ≠ 0 then (s, .error (⟨Cause.align, 0, 0⟩, va))
  else match s.readFor i va 32 with
    | (s, .error e) => (s, .error (e, va))
    | (s, .ok b) => match s.endpointOf i.ctx (leNat b) with
      | .error c => (s, .error (if c = Cause.align then ⟨c, 0, 0⟩ else convErr c h (match s.live? h with | some (_, v) => v.state | none => 0) role 0, va))
      | .ok e => (s, .ok e)

/-- Why a delegation is refused, in the order of R116 and R124, or what it needs. -/
def State.delegCause (s : State) (x : Send) : State × Except (Err × Nat) (Nat × Conv × Endpoint) :=
  let h := x.handle.toNat
  let bad (cause st : Nat) : Except (Err × Nat) (Nat × Conv × Endpoint) := .error (convErr cause h st x.role 0, x.desc.toNat)
  if s.badReg x then (s, bad Cause.cvNotBound 0)
  else match s.readEndpoint x.iss x.desc.toNat h x.role with
    | (s, .error (e, a)) =>
      (s, if e.cause = Cause.cvBind then (match s.live? h with
        | some (_, c) => if c.closing then bad Cause.cvClosed c.state else .error (e, a)
        | none => bad Cause.cvClosed 0) else .error (e, a))
    | (s, .ok e) => match s.live? h with
      | none => (s, bad Cause.cvClosed 0)
      | some (k, c) =>
        if c.closing then (s, bad Cause.cvClosed c.state)
        else if c.nrole ≤ x.role ∨ !(x.holds s c || (x.iss.frame.isNone && x.iss.ctx = c.owner)) then (s, bad Cause.cvNotBound c.state)
        else if !s.inScope k c e then (s, bad Cause.cvScope c.state)
        else if !e.queue ∧ (s.freeRole e).isNone then (s, bad Cause.cvNoRolereg c.state)
        else if s.backingShort c.owner (match c.bound x.role with | some (_, o) => s.backNeed k x.role o | none => 0) then
          (s, .error (⟨Cause.backingFull, 0, 0⟩, x.desc.toNat))
        else (s, .ok (k, c, e))

/-! Closing (R125, R126, R179). -/

/-- Every accepted message is delivered and every delivered slot of a bound endpoint released (R125). -/
def State.convDone (s : State) (key : Nat) : Bool :=
  let c := s.conv key
  !s.deliveries.any (fun (_, d) => d.conv = key) &&
  (List.range c.roles.length).all (fun r => match c.bound r with
    | none => true
    | some (_, e) => e.made = 0 || match (s.readCons e (key / 4096) c.scope).2 with
      | .ok cons => cons = e.made % 2 ^ 32
      | .error _ => false)

/-- A role whose waiting messages are lost once its conversation is closing: it is unbound, or its region is freed (R117, R126). -/
def State.orphaned (s : State) (c : Conv) (role : Nat) : Bool :=
  match c.bound role with
  | none => true
  | some (_, e) => !e.queue && (s.findPlane e.ctx e.die e.rbx e.rby e.plane).isNone &&
      !s.saved.any (fun v => v.ctx = e.ctx && v.vp = e.plane && v.region.die = e.die && v.region.ox = e.rbx && v.region.oy = e.rby) &&
      !s.regionGranted e.ctx e.die e.rbx e.rby e.plane

/-- Discards what can no longer be delivered in a closing conversation, with one CV_ORPHAN for each role (R117, R126). -/
def State.dropOrphans (s : State) (key : Nat) : State :=
  let c := s.conv key
  (List.range c.nrole).foldl (fun s r =>
    if s.orphaned c r ∧ s.waitingFor key r ≠ [] then
      ({ s with deliveries := s.deliveries.filter (fun (_, d) => !(d.conv = key && d.role = r)) }).ownerReport c Cause.cvOrphan 0
        (c.state + 256 * r) (convHandle key c.gen)
    else s) s

/-- Marks a conversation closing (R125). -/
def State.markClosing (s : State) (key : Nat) : State := (s.setConv key { s.conv key with closing := true }).dropOrphans key

/-- Frees a closing conversation's slot (R125), after what a freed region has orphaned meanwhile is gone (R126). -/
def State.freeConv (s : State) (key : Nat) : State :=
  if !((s.conv key).open_ && (s.conv key).closing) then s
  else
    let s := s.dropOrphans key; let c := s.conv key
    if s.convDone key then (s.clearRoles (s.rolesOf (convHandle key c.gen) none)).setConv key { Conv.empty with gen := c.gen + 1#8 } else s

/-- The engine applies a CVCLOSE (R125, R179): a further one finds the conversation closing and returns freed 0. -/
def State.closeConv (s : State) (q : Nat) (x : Send) (d : BitVec 5) : State :=
  let h := x.handle.toNat
  match s.live? h with
  | none => s.refuseSend q x (convErr Cause.cvClosed h 0 0 0) 0
  | some (k, c) =>
    if c.owner ≠ x.iss.ctx then s.refuseSend q x (convErr Cause.cvBind h c.state 0 0) 0
    else
      let s := if c.closing then s else (s.markClosing k).freeConv k
      let freed := b2n (!(s.conv k).open_)
      let s := { s with sends := s.sends.del q }
      match x.iss.unit with
      | none => s
      | some u => s.setUnit u { ((s.unit u).setG d (BitVec.ofNat 64 (c.state + 64 * b2n (bit c.image (64 + c.state)) + 128 * freed))) with
          wait := none, pc := (s.unit u).pc + 4#57 }

/-- The engine checks and applies a delegation (R124): the new register is written before the old one is cleared. A role that is not
bound yet may be delegated by the owner context (log 112). -/
def State.checkDeleg (s : State) (q : Nat) : State :=
  match s.sends.find q with
  | none => s
  | some x =>
    if x.held ∨ !x.deleg ∨ (x.close.isNone ∧ !s.badReg x ∧ (convKey x.handle.toNat).isNone) ∨ !s.sendTurn x then s
    else match x.close with
    | some d => s.closeConv q x d
    | none => match s.delegCause x with
      | (s, .error (e, a)) => s.refuseSend q x e a
      | (s, .ok (k, c, e)) =>
        let held := s.rolesOf x.handle.toNat (some x.role)
        let s := match c.bound x.role with
          | none => s
          | some (i, old) => s.takeBack k x.role i old
        ((s.bindRole k (s.conv k) x.role e).clearRoles held).acceptSend q x x.l.data

/-! Opening, binding and closing. -/

/-- The die whose engine serves the executing unit; a control core's is the first die of its partition (log 28). -/
def State.convDie (s : State) : Nat :=
  if isCore s.cur then ((List.range 4).find? (fun d => s.partOfDie d = s.partOfUnit s.cur)).getD 0 else s.cur / 64

/-- Free slots of a die's engine. -/
def State.freeSlots (s : State) (die : Nat) : List Nat := (List.range 4096).filter (fun i => !(s.conv (4096 * die + i)).open_)

/-- Protocol slots in use on a die: context and image address (R112). -/
def State.images (s : State) (die : Nat) : List (Nat × Nat) :=
  ((s.convs.filter (fun (k, c) => k / 4096 = die && c.open_)).map (fun (_, c) => (c.owner, c.imageAt))).eraseDups

/-- CVOPEN (R112, R113, R176). -/
def execSCvopen (d a : BitVec 5) (sc : BitVec 4) (s : State) : Out :=
  let i := Instr.sCvopen d a sc
  let va := (s.g a).toNat; let die := s.convDie
  let full : Err := convErr Cause.cvExhausted 0 0 0 0
  if va % 64 ≠ 0 then .next (s.trapErr i ⟨Cause.align, 0, 0⟩ va)
  else
    let free := s.freeSlots die
    let known := s.convs.find? (fun (k, c) => k / 4096 = die && c.open_ && c.owner = s.me.ctx && c.imageAt = va)
    if !s.feat 16 ∨ free = [] ∨ (known.isNone ∧ 64 ≤ (s.images die).length) then .next (s.trapErr i full va)
    else if s.desc s.me.ctx 42 2 < 4 then .next (s.trapErr i ⟨Cause.backingFull, 0, 0⟩ va)
    else
      let image : State × Except (Err × Nat) Nat := match known with
        | some (_, c) => (s, .ok c.image)
        | none => match s.readFor s.meIss va 64 with
          | (s, .error e) => (s, .error (e, va))
          | (s, .ok b) =>
            let n := min 1024 (transitions (leNat b))
            match s.readFor s.meIss (va + 64) (4 * n) with
            | (s, .error e) => (s, .error (e, va + 64))
            | (s, .ok t) => (s, .ok (leNat (b ++ t)))
      match image with
      | (_, .error (e, at_)) => .next (s.trapErr i e at_)
      | (s1, .ok img) =>
        if !imageOk img then s.trapC i Cause.protoInvalid
        else
          let ix := (free[Config.convSlot s1.draws % free.length]?).getD 0
          let key := 4096 * die + ix
          let b := recCbix s1.me.record
          let c : Conv := { gen := (s1.conv key).gen, open_ := true, closing := false, state := bits img 47 40, sends := 0,
                            scope := if sc.toNat = 0 then 5 else sc.toNat, owner := s1.me.ctx, ownerCbix := b, region := s1.grant s1.me.ctx b,
                            part := s1.partOfCtx s1.me.ctx, imageAt := va, image := img, eps := [], roles := List.replicate (bits img 31 24) none }
          let s := { s1 with draws := s1.draws + 1 }
          .next ((s.setConv key c).setG d (BitVec.ofNat 64 (convHandle key c.gen))).adv

/-- CVBIND (R115, R116, R177). -/
def execSCvbind (a b : BitVec 5) (r : BitVec 3) (s : State) : Out :=
  let i := Instr.sCvbind a b r
  let h := (s.g a).toNat; let va := (s.g b).toNat; let role := r.toNat
  let no (s : State) (cause st : Nat) : Out := .next (s.trapErr i (convErr cause h st role 0) va)
  match s.readEndpoint s.meIss va h role, s.live? h with
  | (_, .error (e, at_)), none => if e.cause = Cause.cvBind then no s Cause.cvClosed 0 else .next (s.trapErr i e at_)
  | (_, .error (e, at_)), some (_, c) => if e.cause = Cause.cvBind ∧ c.closing then no s Cause.cvClosed c.state else .next (s.trapErr i e at_)
  | (_, .ok _), none => no s Cause.cvClosed 0
  | (s1, .ok e), some (k, c) =>
    if c.closing then no s Cause.cvClosed c.state
    else if c.owner ≠ s.me.ctx ∨ c.nrole ≤ role ∨ (c.bound role).isSome then no s Cause.cvBind c.state
    else if !s.inScope k c e then no s Cause.cvScope c.state
    else if !e.queue ∧ (s.freeRole e).isNone then no s Cause.cvNoRolereg c.state
    else if s.backingShort c.owner 0 then .next (s.trapErr i ⟨Cause.backingFull, 0, 0⟩ va)
    else .next (s1.bindRole k c role e).adv

/-! Sends of a record (R178). -/

/-- Queues a send, a delegation or a CVCLOSE of the executing record, which waits for the answer. -/
def State.recordSend (s : State) (h role kind : Nat) (choose deleg : Bool) (payload : List Byte) (desc : Word)
    (close : Option (BitVec 5) := none) : Out :=
  let z : NodeBody := ⟨0#4, 0#4, 0#4, 0#4, 0#8, 0#32, 0#32, 0#32⟩
  let x : Send :=
    { iss := s.meIss, body := z, l := noOperand, handle := BitVec.ofNat 64 h, role := role, kind := kind, choose := choose, deleg := deleg,
      payload := payload, desc := desc, close := close, reg := 0, at_ := s.fc, due := s.due s.meIss.die, ord := 0, held := false }
  let (q, s) := s.queueSend x
  .next (s.setMe { s.me with wait := some q })

/-- CVCLOSE (R125, R179): the engine takes it in its place among the sends of its fc (R117), and the unit waits for it (R360). -/
def execSCvclose (d a : BitVec 5) (s : State) : Out := s.recordSend (s.g a).toNat 0 0 false true [] 0#64 (some d)

/-- CVSEND and CVSEND.choose up to the engine (R178). -/
def State.seqSend (s : State) (i : Instr) (d a b : BitVec 5) (r : BitVec 3) (k : BitVec 5) (choose : Bool) : Out :=
  let h := (s.g a).toNat; let n := (s.g d).toNat; let va := (s.g b).toNat
  if 256 < n then .next (s.trapErr i (convErr Cause.cvLength h 0 r.toNat k.toNat) 0)
  else if choose ∧ n ≠ 0 then .next (s.trapErr i (convErr Cause.cvChoice h 0 r.toNat k.toNat) 0)
  else if n ≠ 0 ∧ va % 8 ≠ 0 then .next (s.trapErr i ⟨Cause.align, 0, 0⟩ va)
  else match s.readFor s.meIss va n with
    | (s1, .error e) => .next (s1.trapErr i e va)
    | (s1, .ok l) => s1.recordSend h r.toNat k.toNat choose false l 0#64

/-- CVSEND (R178). -/
def execSCvsend (d a b : BitVec 5) (r : BitVec 3) (k : BitVec 5) (s : State) : Out := s.seqSend (.sCvsend d a b r k) d a b r k false

/-- CVSEND.choose (R120, R178). -/
def execSCvsendChoose (d a b : BitVec 5) (r : BitVec 3) (k : BitVec 5) (s : State) : Out :=
  s.seqSend (.sCvsendChoose d a b r k) d a b r k true

/-- CVDELEG (R124, R177). -/
def execSCvdeleg (a b : BitVec 5) (r : BitVec 3) (s : State) : Out := s.recordSend (s.g a).toNat r.toNat 0 false true [] (s.g b)

/-- ARM.conv (R122, R164): CV_CLOSED for a stale handle, CV_NOT_BOUND unless the role is bound to a queue endpoint that names
the record's control block. -/
def execSArmConv (a b : BitVec 5) (r : BitVec 3) (s : State) : Out :=
  s.armRecord (.sArmConv a b r) (s.g a).toNat (fun s rec0 =>
    let h := (s.g b).toNat
    match s.live? h with
    | none => (s, .error (convErr Cause.cvClosed h 0 r.toNat 0, 0))
    | some (k, c) => match c.bound r.toNat with
      | none => (s, .error (convErr Cause.cvNotBound h c.state r.toNat 0, 0))
      | some (i, e) =>
        if !e.queue ∨ e.ctx ≠ s.me.ctx ∨ e.cbix ≠ recCbix rec0 then (s, .error (convErr Cause.cvNotBound h c.state r.toNat 0, 0))
        else if s.backingShort c.owner 0 then (s, .error (⟨Cause.backingFull, 0, 0⟩, 0))
        else if e.uncounted.contains r.toNat then
          (s.setConv k { c with eps := c.eps.set i { e with uncounted := e.uncounted.erase r.toNat } }, .ok (.conv k i r.toNat c.gen, true))
        else (s, .ok (.conv k i r.toNat c.gen, false)))

end Sys2Proof.Machine
end

