-- ==== Sys2Proof/Machine/CfgImage.lean ====
section
/-! DEFINITION. The configuration image: reading it (R304) and checking it (R17, R31, R32, R71, R93, R95, R148, R225, R236,
R256, R300 to R303, R354). -/

namespace Sys2Proof.Machine

open Sys2Proof

/-- A failed check (R148): subcause, element x and y, node index. -/
structure CfgErr where
  sub : Nat
  x : Nat := 0
  y : Nat := 0
  node : Nat := 0x1F
  deriving DecidableEq, Repr

/-- Header of an image (Table 15.4). -/
structure CfgHead where
  raw : Nat
  deriving DecidableEq, Repr

/-- Bytes lo to hi of a header. -/
def CfgHead.bytes (h : CfgHead) (lo hi : Nat) : Nat := bits h.raw (8 * hi + 7) (8 * lo)

/-- A configuration being read: node words and routes by tile element, bindings and tree entries. -/
structure Image where
  nodes : Map (BitVec 128) := []
  routes : Map (BitVec 32) := []
  binds : Map (BitVec 128) := []
  tree : Map (BitVec 32) := []
  err : Option CfgErr := none
  deriving DecidableEq, Repr

/-- Keeps the first failed check. -/
def Image.fail (c : Image) (e : CfgErr) : Image := if c.err.isSome then c else { c with err := some e }

/-- n units of w bytes that the unit reads as plain reads, as one number; a failure names its address. -/
def State.readRun (s : State) (w va : Nat) : Nat → State × Except (Err × Nat) Nat
  | 0 => (s, .ok 0)
  | n + 1 =>
    match s.recAccess s.cur s.meIss va w {} (fun _ => none) with
    | (s, .error e) => (s, .error (e, va))
    | (s, .ok x) => match s.readRun w (va + w) n with
      | (s, .error e) => (s, .error e)
      | (s, .ok l) => (s, .ok (x + 2 ^ (8 * w) * l))

/-- The widest unit in which a part of an image can be read: its offset need not be aligned (R304). -/
def unitOf (va n : Nat) : Nat := if va % 8 = 0 ∧ n % 8 = 0 then 8 else if va % 4 = 0 ∧ n % 4 = 0 then 4 else 1

/-- n bytes of an image as one number. -/
def State.readPart (s : State) (va n : Nat) : State × Except (Err × Nat) Nat := s.readRun (unitOf va n) va (n / unitOf va n)

/-- Puts the node words of a record, in ascending index, and its route entries into a configuration. -/
def Image.addElem (c : Image) (te nmask rt body : Nat) : Image :=
  let ixs := (List.range 32).filter (bit nmask)
  let c := { c with nodes := (ixs.zipIdx).foldl (fun m (i, k) => m.put (32 * te + i) (BitVec.ofNat 128 (body / 2 ^ (128 * k)))) c.nodes }
  { c with routes := (List.range rt).foldl (fun m k =>
      m.put (256 * te + k + 1) (BitVec.ofNat 32 (body / 2 ^ (128 * ixs.length + 32 * k)))) c.routes }

/-- Reads the element records (Table 15.5): `last` is one more than the place of the record before, in ascending y and x. A record's
head and padding are checked here, before the node words, and a failure names the tile's coordinates (log 113). -/
def State.readElems (s : State) (va tw th last : Nat) (c : Image) : Nat → State × Except (Err × Nat) (Image × Nat)
  | 0 => (s, .ok (c, va))
  | n + 1 =>
    match s.readPart va 8 with
    | (s, .error e) => (s, .error e)
    | (s, .ok h) =>
      let x := bits h 7 0; let y := bits h 15 8; let rt := bits h 31 16; let nm := bits h 63 32
      let used := 8 + 16 * onesBelow nm 32 + 4 * rt
      let rest := (used + 15) / 16 * 16 - 8
      if tw ≤ x ∨ th ≤ y then (s, .ok (c.fail ⟨4, x % 64, y % 64, 0x1F⟩, va))
      else if 255 < rt ∨ 64 * y + x < last then (s, .ok (c.fail ⟨8, x, y, 0x1F⟩, va))
      else match s.readPart (va + 8) rest with
        | (s, .error e) => (s, .error e)
        | (s, .ok body) =>
          let c := c.addElem (64 * y + x) nm rt body
          let c := if body / 2 ^ (8 * (used - 8)) = 0 then c else c.fail ⟨8, x, y, 0x1F⟩
          s.readElems (va + 8 + rest) tw th (64 * y + x + 1) c n

/-- Bytes of a binding that its kind leaves zero, and its kind's own limits (R289, R304, Table 15.3): the subcause that fails, for a
region of w × h blocks and an image of `trees` tree entries. -/
def bindCause (w h trees b : Nat) : Option Nat :=
  let by1 := bindByte b
  match b % 256 with
  | 0 => if bits b 63 8 ≠ 0 then some 8 else if hClass (bindHandle b) = 0 ∨ hClass (bindHandle b) = 2 then none else some 0x0A
  | 1 => if bits b 63 8 ≠ 0 then some 8 else if hClass (bindHandle b) = 1 then none else some 0x0A
  | 2 => if bits b 127 64 ≠ 0 ∨ 1 < by1 3 ∨ trees < by1 4 + 256 * by1 5 + by1 6 + 256 * by1 7 then some 8
    else if w ≤ by1 1 ∨ h ≤ by1 2 then some 0x0B else none
  | 3 => if bits b 127 64 ≠ 0 ∨ 3 < by1 1 ∨ 7 < by1 2 ∨ 7 < by1 3 ∨ 3 < by1 4 ∨ 63 < by1 5 ∨ 63 < by1 6 ∨ 31 < by1 7 then some 8 else none
  | 4 => if bits b 127 8 ≠ 0 then some 8 else none
  | 5 => if bits b 127 8 ≠ 0 then some 8 else none
  | _ => some 8

/-! The checks on the whole (R148 step 1, R17, R31, R32). -/

/-- Length of the free list (R17). -/
def freeLen (f : Nat) : Nat := min 1024 (8192 / f)

/-- The configuration-wide parameters, in ascending subcause; a re-entrant configuration holds one copy (R210). -/
def headCause (h : CfgHead) (w ht : Nat) : Option Nat :=
  let fr := h.bytes 2 2; let d := h.bytes 3 3; let tw := h.bytes 6 6; let th := h.bytes 7 7
  if fr = 0 ∨ 16 < fr then some 1
  else if d = 0 then some 2
  else if freeLen (8 * fr) ≤ h.bytes 4 5 then some 3
  else if tw = 0 ∨ 64 < tw ∨ th = 0 ∨ 64 < th ∨ 8 * w % tw ≠ 0 ∨ 8 * ht % th ≠ 0 ∨
    (h.bytes 8 8 % 2 = 1 ∧ ¬ (tw = 8 * w ∧ th = 8 * ht)) then some 4
  else if h.bytes 0 1 ≠ 1 ∨ 1 < h.bytes 8 8 ∨ 32 < h.bytes 9 9 ∨ h.bytes 10 11 = 0 ∨ 4096 < h.bytes 10 11 ∨ h.bytes 22 63 ≠ 0 then some 8
  else none

/-- Reads NBIND records or NTREE entries into a table. -/
def tableOf {α : Type} (n w : Nat) (body : Nat) (f : Nat → α) : Map α :=
  (List.range n).map (fun i => (i, f (body / 2 ^ (w * i) % 2 ^ w)))

/-- Reads a whole image at an address (R304): its header and its parts. -/
def State.readImage (s : State) (va w ht : Nat) : State × Except (Err × Nat) (CfgHead × Image) :=
  match s.readPart va 64 with
  | (s, .error e) => (s, .error e)
  | (s, .ok l) =>
    let h : CfgHead := ⟨l⟩
    match headCause h w ht with
    | some c => (s, .ok (h, { err := some ⟨c, 0, 0, 0x1F⟩ }))
    | none => match s.readElems (va + 64) (h.bytes 6 6) (h.bytes 7 7) 0 {} (h.bytes 10 11) with
      | (s, .error e) => (s, .error e)
      | (s, .ok (c, _)) =>
        if c.err.isSome then (s, .ok (h, c))
        else match s.readPart (va + h.bytes 12 15) (16 * h.bytes 9 9) with
          | (s, .error e) => (s, .error e)
          | (s, .ok bl) => match s.readPart (va + h.bytes 16 19) (4 * h.bytes 20 21) with
            | (s, .error e) => (s, .error e)
            | (s, .ok tl) =>
              (s, .ok (h, { c with binds := tableOf (h.bytes 9 9) 128 bl (BitVec.ofNat 128),
                                   tree := tableOf (h.bytes 20 21) 32 tl (BitVec.ofNat 32) }))

/-! The checks on elements (R148 steps 2 to 4), made on the plane as it would be loaded. -/

/-- KIND of a binding, or none when the configuration does not define it. -/
def Plane.bindKind (p : Plane) (i : Nat) : Option Nat := (p.binds.find i).map (fun b => b.toNat % 256)

/-- A binding that an opcode names is of a kind that it accepts (Table 15.3). -/
def kindOk (opc k : Nat) : Bool :=
  if opc = 0xA0 ∨ opc = 0xA1 ∨ opc = 0x97 ∨ opc = 0x98 then k = 0
  else if 0xA2 ≤ opc ∧ opc ≤ 0xA6 then k = 1
  else if opc = 0x90 ∨ opc = 0xB4 then k = 2
  else if opc = 0x69 then k = 3
  else if opc = 0xC1 then k = 4
  else if opc = 0xB0 ∨ opc = 0xB1 then k = 5
  else true

/-- The binding that a node names, through DEST0 or its OPERAND. -/
def namedBind (w : Nat) : Option Nat :=
  let o := wOpc w
  if NodeCheck.binds0 o then some (bits w 60 56)
  else if o = 0x97 ∨ o = 0x98 ∨ o = 0xC1 ∨ o = 0xB1 then some (bits w 68 64)
  else none

/-- Destinations of a node that go to an element: destination word, and the element it reaches, none off the table. -/
def Plane.hops (p : Plane) (pk e w : Nat) : List (Nat × Option Nat) :=
  ([bits w 63 32, bits w 31 0].filter (fun d => bit d 31 && bits d 30 29 ≠ 3)).map (fun d =>
    if bits d 23 16 = 0 then (d, some e)
    else match p.routes.find (256 * p.tileElem pk e + bits d 23 16) with
      | none => (d, none)
      | some r =>
        let x := (relX pk e : Int) + sbyte (bits r.toNat 7 0); let y := (relY pk e : Int) + sbyte (bits r.toNat 15 8)
        if 0 ≤ x ∧ x < 8 * p.w ∧ 0 ≤ y ∧ y < 8 * p.h then (d, some (elemAt pk x.toNat y.toNat)) else (d, none))

/-- Nodes that send to a node's port, as element and node. -/
def Plane.sendersTo (p : Plane) (pk e node port : Nat) : List (Nat × Nat) :=
  ((p.placed pk).filter (fun (a, _, w) => (p.hops pk a w).any (fun (d, t) => t = some e && bits d 28 24 = node && bits d 30 29 = port))).map
    (fun (a, i, _) => (a, i))

/-- The node words of the chain of BFLY stages that ends at a node, from the last stage back to the source. -/
def Plane.bflyChain (p : Plane) (pk : Nat) : Nat → Nat × Nat → List Nat
  | 0, _ => []
  | n + 1, (e, i) =>
    let w := p.word pk e i
    if wOpc w ≠ 0x56 then []
    else w :: (match p.sendersTo pk e i 0 with | [x] => p.bflyChain pk n x | _ => [])

/-- DELAY, BMAX and the words of the BFLY stages of a quantise path, in path order, when its shape is one of R256's. -/
def Plane.quantPath (p : Plane) (pk e i : Nat) : Option ((Nat × Nat) × (Nat × Nat) × List Nat) :=
  match p.sendersTo pk e i 0, p.sendersTo pk e i 1 with
  | [(de, di)], [(be, bi)] =>
    if wOpc (p.word pk de di) ≠ 0x55 ∨ wOpc (p.word pk be bi) ≠ 0x54 then none
    else match p.sendersTo pk de di 0, p.sendersTo pk be bi 0 with
      | [a], [b] => if a = b then some ((de, di), (be, bi), (p.bflyChain pk 16 a).reverse) else none
      | _, _ => none
  | _, _ => none

/-- Identifier of a QNT node as it stands at load. -/
def State.qntTid (s : State) (ctx w : Nat) : Nat := (s.tids.get (256 * ctx + bits w 71 64) 0#512).toNat

/-- Causes of R71 and R256 at a QNT node: every node of its path that names a BLKLOG names the identifier's. -/
def State.quantCause (s : State) (p : Plane) (pk e i w : Nat) : Option Nat :=
  if wOpc w ≠ 0x57 then none
  else
    let t := s.qntTid p.ctx w; let k := tidBlk t
    let ops := p.nodes.map (fun (_, x) => wOpc x.toNat)
    match p.quantPath pk e i with
    | none => some 0x0A
    | some ((de, di), (be, bi), st) =>
      let dw := p.word pk de di; let bw := p.word pk be bi
      if bits bw 67 64 ≠ k ∨ st.any (fun w => bits w 71 68 ≠ k) then some 0x0A
      else if ops.contains 0x67 ∨ p.reent then some 0x0C
      else if (k < 4 ∨ 10 < k ∨ bits dw 95 64 * (512 / NodeCheck.width (bits dw 119 116)) ≠ 2 ^ k) then some 0x0D
      else if st ≠ [] ∧ st.map (fun w => bits w 67 64) ≠ List.range k then some 0x0E
      else none

/-- The blocks that a matrix array serves (R5), against a node's element and die. -/
def arrayServes (pk e h : Nat) : Bool :=
  let n := hUnit h
  hDie h = pkDie pk && e % 64 / 8 = n % 8 && (e / 64 / 8) / 2 = n / 8

/-- MXST nodes of one copy and binding: segment numbers and shared fields (R252). -/
def Plane.mxstOk (p : Plane) (pk c b w : Nat) : Bool :=
  let l := ((p.placed pk).filter (fun (e, _, x) => wOpc x = 0xA4 && bits x 60 56 = b && p.copyOf pk e = c)).map (fun (_, _, x) => x)
  let t := bits w 73 69 + 1
  l.all (fun x => bits x 95 69 = bits w 95 69) && (List.range t).all (fun i => (l.filter (fun x => bits x 68 64 = i)).length = 1) && l.length = t

/-- DEST, beyond what the word shows (R144, R147, R233, R249, R252, R277, R302). -/
def Plane.destCause (p : Plane) (pk e w : Nat) : Bool :=
  let o := wOpc w; let c := p.copyOf pk e
  (match namedBind w with
    | some b => (match p.bindKind b with
        | some k => !kindOk o k
        | none => true) ||
      ((o = 0xA4 || o = 0xA5 || o = 0xA6) && !arrayServes pk e (bindHandle (p.binds.get b 0#128).toNat)) ||
      (o = 0xA4 && !p.mxstOk pk c b w) ||
      (o = 0xC1 && 1 < ((p.placed pk).filter (fun (_, _, x) => wOpc x = 0xC1 && bits x 68 64 = b)).length)
    | none => false) ||
  (o = 0xB4 && (let k := p.word pk e (bits w 68 64); !(wOpc k = 0xB3 && bit k 76)))

/-- ROUTE at a node word (R28, R31, R212): a route index that is not in the element's table, or a port outside the region. -/
def Plane.routeCause (p : Plane) (pk e w : Nat) : Bool :=
  [bits w 63 32, bits w 31 0].any (fun d => bit d 31 && bits d 30 29 ≠ 3 && bits d 23 16 ≠ 0 && !p.routes.has (256 * p.tileElem pk e + bits d 23 16)) ||
  (hasPort (wOpc w) && (p.w ≤ bits w 90 88 || p.h ≤ bits w 93 91))

/-- Levels from a tree entry to the root, counted up to a bound; none for a loop or a longer chain (R303). -/
def Plane.treeDepth (p : Plane) (first count : Nat) : Nat → Nat → Option Nat
  | 0, _ => none
  | n + 1, i =>
    let par := bits (p.tree.get (first + i) 0#32).toNat 23 16
    if par = 0xFF then some 1 else if count ≤ par then none else (p.treeDepth first count n par).map (· + 1)

/-- CHAIN of a reduction binding (R225, R303): depth, loops, and fan-in counting child nodes and entering elements. It belongs to the
binding, whether or not a node names it. -/
def Plane.treeBad (p : Plane) (b : Nat) : Bool :=
  let v := (p.binds.get b 0#128).toNat
  let first := bindByte v 4 + 256 * bindByte v 5; let count := bindByte v 6 + 256 * bindByte v 7
  let ent (i : Nat) : Nat := (p.tree.get (first + i) 0#32).toNat
  let enter (i : Nat) : Nat := ((p.nodes.filter (fun (k, w) => (wOpc w.toNat = 0x90 || wOpc w.toNat = 0xB4) && bits w.toNat 60 56 = b &&
    k / 32 = 64 * bits (ent i) 15 8 + bits (ent i) 7 0)).map (fun (k, _) => k / 32)).eraseDups.length
  (List.range count).any (fun i => (p.treeDepth first count 8 i).isNone ||
    8 < ((List.range count).filter (fun j => bits (ent j) 23 16 = i)).length + enter i)

/-- CHAIN (R93, R95, R220, R225, R303). -/
def Plane.chainCause (p : Plane) (te w : Nat) : Bool :=
  let o := wOpc w; let q := bits w 103 96
  let ops := p.nodes.map (fun (_, x) => wOpc x.toNat)
  let looped := ops.contains 0x67 || p.reent
  let ordered := (o = 0x90 && bit w 87) || (o = 0xB4 && bit w 69)
  (o = 0x87 && seqChain q = 0) ||
  (NodeCheck.chained o && seqChain q ≠ 0 &&
    (1 < (p.chainNodes.filter (fun (_, _, x, _, _) => x = q)).length ||
     (hasPort o && p.chainNodes.any (fun (_, o', _, v, _) => hasPort o' && bits v 29 23 ≠ bits w 93 87)) ||
     (seqChain q = 2 && looped))) ||
  (ordered && (looped || 1 < (p.nodes.filter (fun (k, x) => k / 32 = te && wOpc x.toNat = o && bits x.toNat 60 56 = bits w 60 56 &&
    (if o = 0x90 then bit x.toNat 87 else bit x.toNat 69))).length))

/-- The registers of a PZROT node's ring: first and length. -/
def ringOf (w : Nat) : Nat × Nat := (bits w 103 99, bits w 69 64)

/-- Two rings of one element that are neither equal nor disjoint (R242). -/
def Plane.ringBad (p : Plane) (te w : Nat) : Bool :=
  wOpc w = 0x71 && (p.nodes.any (fun (k, x) => k / 32 = te && wOpc x.toNat = 0x71 &&
    (let (b, n) := ringOf w; let (b', n') := ringOf x.toNat; (b, n) ≠ (b', n') && b < b' + n' && b' < b + n)))

/-- BAR nodes of a copy beyond eight (R228). -/
def Plane.barBad (p : Plane) (w : Nat) : Bool := wOpc w = 0x96 && 8 < (p.nodes.filter (fun (_, x) => wOpc x.toNat = 0x96)).length

/-- The first failing cause of a node word in its element, in ascending code (R148 step 4). -/
def State.nodeCause (s : State) (p : Plane) (pk e i w : Nat) : Option Nat :=
  if w = 0 then none
  else
    let te := p.tileElem pk e
    let narrow := s.feat 13 || bits w 119 116 < 8 || bits w 119 116 = 10
    let loc := NodeCheck.localCause (wOpc w) (Decode.nodeBody w)
    if loc ≠ some 0x05 ∧ !narrow then some 0x06
    else match loc with
    | some c => if c ≤ 8 then some c else if p.ringBad te w || p.barBad w then some 8 else some c
    | none =>
      let q := s.quantCause p pk e i w
      if p.ringBad te w || p.barBad w then some 0x08
      else if p.destCause pk e w || q = some 0x0A then some 0x0A
      else if p.routeCause pk e w then some 0x0B
      else if p.chainCause te w || q = some 0x0C then some 0x0C
      else q

/-- The hops of a route from an element: every segment as the element it leaves and its direction (R300). -/
def routeSegs (e r : Nat) : List (Nat × Nat) :=
  let dx := sbyte (bits r 7 0); let dy := sbyte (bits r 15 8)
  let sx : Int := if dx < 0 then -1 else 1; let sy : Int := if dy < 0 then -1 else 1
  let hx (a : Int) : List (Nat × Nat) := (List.range dx.natAbs).map (fun (k : Nat) => ((a + sx * k).toNat, if dx < 0 then 0 else 1))
  let hy (a : Int) : List (Nat × Nat) := (List.range dy.natAbs).map (fun (k : Nat) => ((a + 64 * sy * k).toNat, if dy < 0 then 2 else 3))
  if bit r 16 then hy e ++ hx (e + 64 * dy) else hx e ++ hy (e + dx)

/-- A route-table entry is refused (R300). -/
def Plane.routeBad (p : Plane) (pk e k r : Nat) : Bool :=
  let dx := sbyte (bits r 7 0); let dy := sbyte (bits r 15 8)
  let x := (relX pk e : Int) + dx; let y := (relY pk e : Int) + dy
  (dx = 0 && dy = 0) || bits r 31 20 ≠ 0 || x < 0 || (8 * p.w : Int) ≤ x || y < 0 || (8 * p.h : Int) ≤ y || 128 < dx.natAbs + dy.natAbs ||
  (p.copies.any (fun c => p.routes.any (fun (key, r') =>
    let e' := p.elemIn pk c (key / 256)
    !(e' = e && key % 256 = k) && bits r'.toNat 19 17 = bits r 19 17 && (routeSegs e r).any (fun x => (routeSegs e' r'.toNat).contains x))))

/-- The opcodes of plane nodes (R236). -/
def planeNode (o : Nat) : Bool := 0x70 ≤ o && o ≤ 0x75

/-- A node word is a plane node whose lattice is no rectangle (R236). -/
def Plane.latticeBad (p : Plane) (pk e i w : Nat) : Bool :=
  planeNode (wOpc w) &&
  (let (_, _, W, H) := p.lattice pk i e
   ((p.elems pk).filter (fun x => p.word pk x i / 2 ^ 64 = w / 2 ^ 64)).length ≠ W * H)

/-- Elements of a die that BADNODE fences (R354). -/
def State.fenced (s : State) (die : Nat) : List Nat :=
  (List.range 16).filterMap (fun k =>
    let v := (s.csr (s.partOfDie die) (0x0040 + 16 * die + k)).toNat
    if v % 4 = 3 then some (64 * bits v 9 4 + bits v 15 10) else none)

/-- TILE naming the fenced element of a plane's region (R354). -/
def State.fenceErr (s : State) (pk : Nat) (p : Plane) : CfgErr :=
  match (s.fenced (pkDie pk)).filter (p.elems pk).contains with
  | e :: _ => ⟨4, e % 64, e / 64, 0x1F⟩
  | [] => ⟨4, 0, 0, 0x1F⟩

/-- The first failure in an element: its node words, its route table, its slots (R148). -/
def State.elemCause (s : State) (p : Plane) (pk e : Nat) : Option CfgErr :=
  let te := p.tileElem pk e
  let at_ (c n : Nat) : CfgErr := ⟨c, e % 64, e / 64, n⟩
  let word (i : Nat) : Nat := p.word pk e i
  let nodes := (List.range 32).findSome? (fun i =>
    if p.latticeBad pk e i (word i) then some (if p.skip = [] then at_ 4 i else s.fenceErr pk p)
    else (s.nodeCause p pk e i (word i)).map (fun c => at_ c i))
  let routes := (List.range 256).findSome? (fun k => match p.routes.find (256 * te + k) with
    | some r => if p.routeBad pk e k r.toNat then
        let user := (List.range 32).find? (fun i => let w := word i
          (bit w 63 && bits w 55 48 = k) || (bit w 31 && bits w 23 16 = k))
        some (at_ 0x0B (user.getD 0x1F)) else none
    | none => none)
  let slotsOf (w : Nat) : Nat := if w = 0 then 0 else
    b2n (wIn w 3 && !wFire w 3) + b2n (wIn w 2 && !wFire w 2) + b2n (wIn w 1)
  let slots := ((List.range 32).foldl (fun (acc : Nat × Option CfgErr) i =>
    let n := acc.1 + slotsOf (word i)
    (n, acc.2 <|> (if p.f < n then some (at_ 0x0F i) else none))) (0, none)).2
  nodes <|> routes <|> slots

/-- Nodes reached from a set of nodes in one firing, not along an edge with frame adjustment (R31). -/
def Plane.after (p : Plane) (pk : Nat) (l : List (Nat × Nat)) : List (Nat × Nat) :=
  (l.flatMap (fun (e, i) => (p.hops pk e (p.word pk e i)).filterMap (fun (d, t) =>
    match t with
    | some e' => if bits d 15 12 = 0 then some (e', bits d 28 24) else none
    | none => none))).eraseDups

/-- The longest firing chain from ENTRY to EXIT passes D (R31): some EXIT or DRAWEND is met at a position above D. -/
def Plane.tooDeep (p : Plane) (pk : Nat) : Nat → Nat → List (Nat × Nat) → Bool
  | 0, _, _ => false
  | n + 1, k, l =>
    (p.depth < k && l.any (fun (e, i) => wOpc (p.word pk e i) = 0x66 || wOpc (p.word pk e i) = 0xB6)) || p.tooDeep pk n (k + 1) (p.after pk l)

/-- The plane that an image makes of a region (R11, R17, R32, R167, R354). -/
def State.planeOf (s : State) (pk : Nat) (p : Plane) (h : CfgHead) (c : Image) : Plane :=
  let f := 8 * h.bytes 2 2
  let q : Plane := { Plane.reset with
    state := .loaded, ctx := p.ctx, cbix := p.cbix, priv := s.me.priv, vp := p.vp, w := p.w, h := p.h, f := f, depth := h.bytes 3 3,
    minfr := h.bytes 4 5, tw := h.bytes 6 6, th := h.bytes 7 7, reent := h.bytes 8 8 = 1, nodes := c.nodes, routes := c.routes,
    binds := c.binds, tree := c.tree, free := List.range (freeLen f), gens := p.gens, holds := p.holds, iter := p.iter,
    seed := BitVec.ofNat 32 (s.desc p.ctx 12 4), boundAt := p.boundAt, swap := p.swap }
  let bad := s.fenced (pkDie pk)
  { q with skip := (List.range (q.cols * q.rows)).filter (fun k => bad.any (fun e =>
      8 * pkOx pk ≤ e % 64 && e % 64 < 8 * (pkOx pk + q.w) && 8 * pkOy pk ≤ e / 64 && e / 64 < 8 * (pkOy pk + q.h) && q.copyOf pk e = k)) }

/-- The parent index of an entry of a binding's tree lies past its entries (R304). -/
def Plane.parentBad (p : Plane) (b : Nat) : Bool :=
  let first := bindByte b 4 + 256 * bindByte b 5; let count := bindByte b 6 + 256 * bindByte b 7
  (List.range count).any (fun i => let par := bits (p.tree.get (first + i) 0#32).toNat 23 16; par ≠ 0xFF && count ≤ par)

/-- Tree entries with a reserved byte or a parent that is none, or outside the tile (R304). -/
def Plane.treeCause (p : Plane) : Option Nat :=
  if p.tree.any (fun (_, t) => bits t.toNat 31 24 ≠ 0) || p.binds.any (fun (_, b) => b.toNat % 256 = 2 && p.parentBad b.toNat) then some 8
  else if p.tree.any (fun (_, t) => p.tw ≤ bits t.toNat 7 0 || p.th ≤ bits t.toNat 15 8) then some 4
  else none

/-- Bindings in order, then the tree table, then the trees (R302 to R304). -/
def Plane.tableCause (p : Plane) : Option CfgErr :=
  (p.binds.findSome? (fun (x : Nat × BitVec 128) => bindCause p.w p.h p.tree.length x.2.toNat) <|> p.treeCause <|>
    (if p.binds.any (fun (i, b) => b.toNat % 256 = 2 && p.treeBad i) then some 0x0C else none)).map (fun c => ⟨c, 0, 0, 0x1F⟩)

/-- DEPTH of the whole configuration (R31). -/
def Plane.depthCause (p : Plane) (pk : Nat) : Option CfgErr :=
  let entries := ((p.placed pk).filter (fun (_, _, w) => wOpc w = 0x65)).map (fun (e, i, _) => (e, i))
  if p.tooDeep pk (p.depth + (p.placed pk).length + 1) 1 entries then some ⟨2, 0, 0, 0x1F⟩ else none

/-- Every check on a plane as it would be loaded, in the order of R148: what concerns the whole, then element by element (log 27). -/
def State.cfgCheck (s : State) (pk : Nat) (p : Plane) : Option CfgErr :=
  p.depthCause pk <|> (if p.copies = [] then some (s.fenceErr pk p) else none) <|> p.tableCause <|>
  (p.elems pk).findSome? (s.elemCause p pk)

/-- The latched identifiers of a loaded plane's quantise path (R256). -/
def State.latch (s : State) (pk : Nat) (p : Plane) : Plane :=
  { p with quant := (p.placed pk).foldl (fun m (e, i, w) =>
      if wOpc w = 0x57 ∨ wOpc w = 0x58 then
        let st := match p.quantPath pk e i with | some (_, _, l) => l.length | none => 0
        m.put (32 * e + i) ⟨0, 0#64, BitVec.ofNat 512 (s.qntTid p.ctx w), st⟩
      else m) [] }

/-- A configuration that uses element data (R316). -/
def Plane.usesData (p : Plane) : Bool := p.nodes.any (fun (_, w) => wOpc w.toNat ∈ [0x53, 0x75, 0x84, 0x85])

/-- Elements of a plane whose data another context owns (R316). -/
def State.dataTaken (s : State) (pk : Nat) (p : Plane) : List Nat :=
  (p.elems pk).filter (fun e => match s.edOwner.find (4096 * pkDie pk + e) with | some c => c ≠ p.ctx | none => false)

/-- Planes that hold their context's data in some of the elements given. -/
def State.dataHolders (s : State) (die : Nat) (els : List Nat) : List Nat :=
  (s.planes.filter (fun (k, p) => pkDie k = die && els.any (fun e => s.edOwner.find (4096 * die + e) = some p.ctx && (p.elems k).contains e))).map
    Prod.fst

/-- CFGLD from an image address (R148, R166, R167). -/
def State.cfgld (s : State) (i : Instr) (k : BitVec 2) (va : Nat) (next : State → State) : Out :=
  match s.myPlane k with
  | .error c => s.trapC i c
  | .ok none => s.stall
  | .ok (some (s1, pk)) =>
    let p := s1.plane pk
    if p.state = .active ∨ p.state = .draining then s.trapC i Cause.illegal
    else if va % 64 ≠ 0 then .next (s.trapErr i ⟨Cause.align, 0, 0⟩ va)
    else match s1.readImage va p.w p.h with
      | (_, .error (e, at_)) => .next (s.trapErr i e at_)
      | (s1, .ok (h, c)) =>
        let fail (e : CfgErr) : Out :=
          .next ((s1.setPlane pk { p with state := .empty, nodes := [], routes := [], binds := [], tree := [] }).trap Cause.config e.sub
            s1.me.pc.toNat 0 s1.me.pc (some (e.x, e.y, e.node)))
        match c.err with
        | some e => fail e
        | none =>
          let q := s1.planeOf pk p h c
          match s1.cfgCheck pk q with
          | some e => fail e
          | none =>
            let taken := if q.usesData then s1.dataTaken pk q else []
            let vs := s.dataHolders (pkDie pk) taken
            if taken ≠ [] then .next (if vs.all (s.victim p.ctx p.cbix s.me.elev) then s.chooseVictims s.me.elev vs else s)
            else
              let s2 := (s1.returnCmsg p).setPlane pk (s1.latch pk q)
              let s2 := if q.usesData then { s2 with edOwner := (q.elems pk).foldl (fun m e => m.put (4096 * pkDie pk + e) q.ctx) s2.edOwner } else s2
              .next (next s2)

/-- CFGLD, the I form (R167). -/
def execSCfgld (k : BitVec 2) (a : BitVec 5) (s : State) : Out := s.cfgld (.sCfgld k a) k (s.g a).toNat State.adv

/-- CFGLD, the X form (R134, R167): with g0 as its base, the address of its own first word. -/
def execSCfgldX (k : BitVec 2) (a : BitVec 5) (i : BitVec 32) (s : State) : Out :=
  let base := if a = 0#5 then s.me.pc.setWidth 64 else s.g a
  s.cfgld (.sCfgldX k a i) k (base + i.signExtend 64).toNat State.advX

end Sys2Proof.Machine
end

