-- ==== Sys2Proof/Machine/Tensors.lean ====
section
/-! DEFINITION. Tensor identifiers (R68 to R70, R82): their checks, where an element, a scale and a metadata entry lie, the
tile view (R81), and reading and writing at such a place; TIDSET and TIDGET (R173). -/

namespace Sys2Proof.Machine

open Sys2Proof

/-! Fields of an entry (Table 3.8). -/
def tidBase (t : Nat) : Nat := bits t 56 0
def tidSpace (t : Nat) : Nat := bits t 59 57
def tidNdim (t : Nat) : Nat := bits t 70 69
def tidQaxis (t : Nat) : Bool := bit t 71
def tidLayout (t : Nat) : Nat := bits t 73 72
def tidH (t : Nat) : Nat := bits t 77 74
def tidSp24 (t : Nat) : Bool := bit t 78
def tidMeta (t : Nat) : Nat := bits t 127 88
def tidDim (t d : Nat) : Nat := bits t (159 + 32 * d) (128 + 32 * d)
def tidStr (t d : Nat) : Int := Num.toInt 32 (bits t (287 + 32 * d) (256 + 32 * d))
def tidScbase (t : Nat) : Nat := bits t 440 384

/-- HGLEV is zero, or the hash-grid fields are in range (R70). -/
def hashOk (t : Nat) : Bool :=
  let lev := bits t 452 448; let lg := bits t 457 453; let g := bits t 511 480
  lev ≤ 16 && (lev = 0 || (4 ≤ lg && lg ≤ 24 && bits t 479 464 ≠ 0 && 0x3F800000 < g && g < 0x7F800000))

/-- The entries that TIDSET admits (R70, R82). -/
def tidOk (t : Nat) : Bool :=
  bits t 463 461 = 0 && bits t 447 441 = 0 && bits t 63 60 = 0 && tidSc t ≤ 4 && tidLayout t ≠ 3 && tidBlk t ≤ 10 && tidFmt t ≤ 16 &&
  tidSpace t ≤ 1 && bits t 459 458 ≠ 3 && tidH t ≤ 6 &&
  (if tidLayout t = 0 then tidH t = 0 else tidSpace t = 1 && tidBase t % 512 = 0) &&
  (List.range 4).all (fun d => if d ≤ tidNdim t then tidDim t d ≠ 0 else tidDim t d = 1 && tidStr t d = 0) &&
  (if tidFmt t = 14 ∨ tidFmt t = 16 then tidSc t = 1 && tidBlk t = 5 else if tidFmt t = 15 then tidSc t = 2 && tidBlk t = 6 else true) &&
  (!tidSp24 t || tidDim t 0 % 4 = 0) && hashOk t

/-! Places. -/

/-- Where a value lies: scratchpad or virtual memory, its first byte (none when it is out of range), and its first bit. -/
structure Loc where
  sp : Bool
  at_ : Option Nat
  bitn : Nat
  deriving DecidableEq, Repr

/-- A virtual address, or none above 57 bits (R78). -/
def vaOf (a : Int) : Option Nat := let x := Num.ofInt 64 a; if x < 2 ^ 57 then some x else none

/-- A scratchpad offset, or none outside the 16 MiB (R80). -/
def spOf (a : Int) : Option Nat := if 0 ≤ a ∧ a < 2 ^ 24 then some a.toNat else none

/-- Physical offset of a logical byte of an identifier (R81). -/
def tileByte (t : Nat) (o : Int) : Int :=
  let q := o / 8; let line := q / 64; let slot := (q % 64).toNat
  let m := 2 ^ tidH t - 1
  let slot2 := if tidLayout t = 1 then slot - slot % (m + 1) + (((slot : Int) + line) % (m + 1)).toNat
    else if tidLayout t = 2 then slot ^^^ (line % (m + 1)).toNat else slot
  512 * line + 8 * slot2 + o % 8

/-- The place at a logical byte and bit from BASE. -/
def tidPlace (t : Nat) (o : Int) (b : Nat) : Loc :=
  if tidSpace t = 1 then ⟨true, spOf (tidBase t + (if tidLayout t = 0 then o else tileByte t o)), b⟩
  else ⟨false, vaOf (tidBase t + o), b⟩

/-- The place of element (i0, i1, i2, i3) (R69). -/
def tidElemAt (t i0 i1 i2 i3 : Nat) : Loc :=
  let o := (i0 : Int) * tidStr t 0 + i1 * tidStr t 1 + i2 * tidStr t 2 + i3 * tidStr t 3
  let n := o * tidWidth t
  tidPlace t (n / 8) (n % 8).toNat

/-- The place of metadata entry g (R69). -/
def tidMetaAt (t g : Nat) : Loc := tidPlace t (64 * tidMeta t + g / 2 : Nat) (4 * (g % 2))

/-- Bits of a scale (Table 3.8). -/
def scaleBits (sc : Nat) : Nat := if sc = 1 then 8 else if sc = 3 then 32 else 16

/-- The place of the scale of block n (R69). -/
def tidScaleAt (t n : Nat) : Loc :=
  let a : Int := tidScbase t + n * (scaleBits (tidSc t) / 8)
  if tidSpace t = 1 then ⟨true, spOf a, 0⟩ else ⟨false, vaOf a, 0⟩

/-- Elements in all, and blocks in all (R69). -/
def tidCount (t : Nat) : Nat := tidDim t 0 * tidDim t 1 * tidDim t 2 * tidDim t 3
def tidBlocks (t : Nat) : Nat :=
  let a := if tidQaxis t then 1 else 0
  let m := (tidDim t a + 2 ^ tidBlk t - 1) / 2 ^ tidBlk t
  tidCount t / max 1 (tidDim t a) * m

/-- The k-th element in ascending i0, i1, i2, i3, of a tensor whose rows count n elements. -/
def tidNth (t n k : Nat) : Loc :=
  let r := k / max 1 n
  tidElemAt t (k % max 1 n) (r % max 1 (tidDim t 1)) (r / max 1 (tidDim t 1) % max 1 (tidDim t 2))
    (r / max 1 (tidDim t 1) / max 1 (tidDim t 2))

/-! Reading and writing at a place, for an engine or a port. -/

/-- One byte; an address out of range is ADDRESS_RANGE. The error comes with its address. -/
def State.placeByte (s : State) (tlb : Nat) (i : Issuer) (sp : Bool) (a : Nat) : State × Except (Err × Nat) Nat :=
  if sp then
    if a < 2 ^ 24 then match s.physRead 0 (spAddr i.die a) 1 with
      | (s, .error c) => (s, .error (⟨c, 0, 0⟩, a))
      | (s, .ok b) => (s, .ok (leNat b))
    else (s, .error (⟨Cause.range, 0, 0⟩, a))
  else match s.loadN tlb i a 1 with
    | (s, .error e) => (s, .error (e, a))
    | (s, .ok b) => (s, .ok b)

/-- Bytes from the one at `a` on, as one number. -/
def State.placeBytes (s : State) (tlb : Nat) (i : Issuer) (sp : Bool) (a : Nat) : Nat → State × Except (Err × Nat) Nat
  | 0 => (s, .ok 0)
  | n + 1 => match s.placeByte tlb i sp a with
    | (s, .error e) => (s, .error e)
    | (s, .ok b) => match s.placeBytes tlb i sp (a + 1) n with
      | (s, .error e) => (s, .error e)
      | (s, .ok t) => (s, .ok (b + 256 * t))

/-- A value of w bits. -/
def State.placeRead (s : State) (tlb : Nat) (i : Issuer) (l : Loc) (w : Nat) : State × Except (Err × Nat) Nat :=
  match l.at_ with
  | none => (s, .error (⟨Cause.range, 0, 0⟩, 0))
  | some a => match s.placeBytes tlb i l.sp a (max 1 (w / 8)) with
    | (s, .error e) => (s, .error e)
    | (s, .ok v) => (s, .ok (v / 2 ^ l.bitn % 2 ^ w))

/-- Writes n bytes at once. -/
def State.placePut (s : State) (tlb : Nat) (i : Issuer) (sp : Bool) (a n v : Nat) : State × Except (Err × Nat) Unit :=
  if sp then
    if a + n ≤ 2 ^ 24 then match s.physWrite 0 (spAddr i.die a) (leBytes n v) with
      | (s, .error c) => (s, .error (⟨c, 0, 0⟩, a))
      | (s, .ok _) => (s, .ok ())
    else (s, .error (⟨Cause.range, 0, 0⟩, a))
  else match s.storeN tlb i a n (v % 2 ^ (8 * n)) with
    | (s, .error e) => (s, .error (e, a))
    | (s, .ok _) => (s, .ok ())

/-- Bytes whose values the spec leaves open, from draw k on. -/
def freeBytes (k n : Nat) : List Byte := (List.range n).map (fun i => Config.freeByte (k + i))

/-- The writes of n bytes at `a`, by offset and length: an aligned word of 8 bytes is written whole (R365), every other byte by
itself (R78). -/
def pieces (a n : Nat) : List (Nat × Nat) :=
  (List.range n).filterMap (fun j =>
    let w := (a + j) / 8 * 8
    if a ≤ w ∧ w + 8 ≤ a + n then (if w = a + j then some (j, 8) else none) else some (j, 1))

/-- Writes the pieces of a number that lies from `a` on. -/
def State.placePuts (s : State) (tlb : Nat) (i : Issuer) (sp : Bool) (a v : Nat) : List (Nat × Nat) → State × Except (Err × Nat) Unit
  | [] => (s, .ok ())
  | (j, n) :: l => match s.placePut tlb i sp (a + j) n (v / 2 ^ (8 * j)) with
    | (s, .error e) => (s, .error e)
    | (s, .ok _) => s.placePuts tlb i sp a v l

/-- Writes a value of w bits; one narrower than a byte is merged within its byte (R255). -/
def State.placeWrite (s : State) (tlb : Nat) (i : Issuer) (l : Loc) (w v : Nat) : State × Except (Err × Nat) Unit :=
  match l.at_ with
  | none => (s, .error (⟨Cause.range, 0, 0⟩, 0))
  | some a =>
    if 8 ≤ w then s.placePuts tlb i l.sp a v (pieces a (w / 8))
    else match s.placeByte tlb i l.sp a with
      | (s, .error e) => (s, .error e)
      | (s, .ok b) =>
        let old := b / 2 ^ l.bitn % 2 ^ w
        s.placePut tlb i l.sp a 1 (b - old * 2 ^ l.bitn + v % 2 ^ w * 2 ^ l.bitn)

/-! TIDSET and TIDGET. -/

/-- An identifier entry of a context. -/
def State.tid (s : State) (ctx i : Nat) : BitVec 512 := s.tids.get (256 * ctx + i) 0#512

/-- TIDSET (R70, R82, R173). -/
def execSTidset (a : BitVec 5) (i : BitVec 8) (s : State) : Out :=
  let x := Instr.sTidset a i
  let va := (s.g a).toNat
  match s.seqRead va 64 64 with
  | (s, .error e) => .next (s.trapErr x e va)
  | (s1, .ok t) =>
    if tidOk t then .next ({ s1 with tids := s1.tids.put (256 * s1.me.ctx + i.toNat) (BitVec.ofNat 512 t) }.adv)
    else s.trapC x Cause.illegal

/-- TIDGET (R173). -/
def execSTidget (a : BitVec 5) (i : BitVec 8) (s : State) : Out :=
  let va := (s.g a).toNat
  match s.seqAccess va 64 { wr := true } (fun _ => some (s.tid s.me.ctx i.toNat).toNat) with
  | (s, .error e) => .next (s.trapErr (.sTidget a i) e va)
  | (s, .ok _) => .next s.adv

end Sys2Proof.Machine
end

