-- ==== Sys2Proof/Machine/Engines.lean ====
section
/-! DEFINITION. Engine commands (R69, R84, R96 to R98, R175, R230, R231, R250, R385): acceptance and numbering, what a copy
moves, landing words, follow-on commands, errors and the timeline; COPYS and TLREAD (R174, R175). -/

namespace Sys2Proof.Machine

open Sys2Proof

/-! Context keys. -/
def keyClass (k : Nat) : Nat := k / 2 ^ 16
def keyDie (k : Nat) : Nat := k / 2 ^ 12 % 4
def keyUnit (k : Nat) : Nat := k / 2 ^ 4 % 32

/-- The handle that names a context with a CSC bit (Table 7.1). -/
def keyHandle (k : Nat) (csc : Bool) : Nat :=
  keyDie k * 2 ^ 30 + keyClass k * 2 ^ 28 + keyUnit k * 2 ^ 23 + k % 16 * 2 ^ 19 + b2n csc * 2 ^ 18

/-- A command's handle. -/
def Cmd.handle (c : Cmd) : Nat := keyHandle c.ctxKey c.csc

/-- The agent that performs a command: it acts for its issuer, on the engine's die (R85, R385). -/
def Cmd.agent (c : Cmd) : Issuer := { c.iss with die := keyDie c.ctxKey, eng := some (c.ctxKey, c.num.getD 0) }

/-- The TLB of a command's die. -/
def Cmd.tlb (c : Cmd) : Nat := l2Tlb (keyDie c.ctxKey)

/-! Acceptance (R96, R175, R230). -/

/-- Accepted commands of a context that are not complete. -/
def State.openCmds (s : State) (k : Nat) : Nat := (s.cmds.filter (fun (_, c) => c.ctxKey = k && c.num.isSome)).length

/-- Identifiers that a command names. -/
def Cmd.names (c : Cmd) : List Nat :=
  let b := c.block.toNat
  match c.kind with
  | 0 => [bits b 231 224, bits b 239 232]
  | 2 => [c.body.operand.toNat % 256]
  | _ => []

/-- Accepts a command: its number, and its identifiers as they stand (R96, R173). -/
def State.acceptCmd (s : State) (id : Nat) : State :=
  match s.cmds.find id with
  | none => s
  | some c =>
    let e := s.eng c.ctxKey; let n := e.accepted + 1
    let (o, s) := s.newId
    { s with
      engs := s.engs.put c.ctxKey { e with accepted := n }
      cmds := s.cmds.put id { c with num := some n, tids := c.names.map (s.tid c.iss.ctx), ord := o } }

/-- A command number as DEST1 receives it, in a DATA token (R230). -/
def numberVec (n : Nat) : Operand := ⟨BitVec.ofNat 512 (n % 2 ^ 64), 3#16, 0#4⟩

/-- An engine result or completion is of kind ECPL (R14), but for those that a rule calls DATA tokens (log 114). -/
def Operand.ecpl (v : Operand) : Operand := { v with kind := 7#4 }

/-- Sends a command's number, or its result, to the node's DEST1 in the issuing frame. -/
def State.cmdSend (s : State) (c : Cmd) (v : Operand) : State :=
  match c.iss.frame with
  | some (pk, e, _, f, g) => s.sendTo pk e c.body.dest1 f g v
  | none => s

/-- Whether a queued command is the next that its context accepts: the first to arrive, while fewer than 64 are open. -/
def State.acceptable (s : State) (c : Cmd) : Bool :=
  c.num.isNone && s.openCmds c.ctxKey < 64 && !s.cmds.any (fun (_, x) => x.ctxKey = c.ctxKey && x.num.isNone && x.ord < c.ord)

/-! What a copy moves. -/

/-- The source of one value: a place, or an element of a 2:4 tile expanded by its group's metadata entry (R84). -/
inductive Src where
  | at_ (l : Loc)
  | kept (md : Loc) (j : Nat) (a b : Loc)
  deriving DecidableEq, Repr

/-- One value to move. -/
structure Move where
  src : Src
  dst : Option Loc
  w : Nat
  deriving DecidableEq, Repr

/-- Identifiers of a command as accepted. -/
def Cmd.t (c : Cmd) (i : Nat) : Nat := ((c.tids[i]?).getD 0#512).toNat

/-- Scales are copied too (R175). -/
def Cmd.scaled (c : Cmd) : Bool := tidSc (c.t 0) ≠ 0 && tidSc (c.t 1) ≠ 0

/-- Rows of k that a tile of a format spans, from g of Table 10.5: none for a format that the table does not list. -/
def tileG (fmt : Nat) : Option Nat :=
  match fmt with
  | 11 => some 1
  | 10 => some 2
  | 8 => some 8
  | 9 => some 8
  | 12 => some 16
  | 13 => some 16
  | 14 => some 32
  | 15 => some 64
  | _ => none

/-- K of a tile's format. -/
def tileK (fmt : Nat) : Nat := 32 * (tileG fmt).getD 0

/-- A tile's format carries scales. -/
def tileScaled (fmt : Nat) : Bool := fmt = 14 || fmt = 15

/-- Values that a command moves in all: elements, metadata entries, scales. -/
def Cmd.parts (c : Cmd) : Nat × Nat × Nat :=
  let b := c.block.toNat; let s := c.t 0; let d := c.t 1
  if c.kind = 2 then (32 * tileK (tidFmt s), 0, if tileScaled (tidFmt s) then 1024 else 0)
  else if c.kind ≠ 0 then (0, 0, 0)
  else if !bit b 240 then (bits b 223 192, 0, 0)
  else
    let sp := tidSp24 s && tidSp24 d
    (if sp then tidCount s / 2 else tidCount s, if sp then tidCount s / 4 else 0, if c.scaled then tidBlocks s else 0)

/-- The number of values that a command moves. -/
def Cmd.total (c : Cmd) : Nat := let (e, m, k) := c.parts; e + m + k

/-- A place in a space of Table 7.3. -/
def spaceLoc (space : Nat) (a : Int) : Loc := if space = 1 then ⟨true, spOf a, 0⟩ else ⟨false, vaOf a, 0⟩

/-- The k-th value that a command moves. -/
def Cmd.move (c : Cmd) (k : Nat) : Move :=
  let b := c.block.toNat; let s := c.t 0; let d := c.t 1
  let (e, m, _) := c.parts
  if c.kind = 2 then
    let K := tileK (tidFmt s)
    if k < e then ⟨.at_ (tidElemAt s (k % K) (k / K) 0 0), none, tidWidth s⟩ else ⟨.at_ (tidScaleAt s (k - e)), none, scaleBits (tidSc s)⟩
  else if !bit b 240 then ⟨.at_ (spaceLoc (bits b 123 121) (bits b 120 64 + k)), some (spaceLoc (bits b 187 185) (bits b 184 128 + k)), 8⟩
  else if k < e then
    if tidSp24 s && !tidSp24 d then
      ⟨.kept (tidMetaAt s (k / 4)) (k % 4) (tidNth s (tidDim s 0 / 2) (k / 4 * 2)) (tidNth s (tidDim s 0 / 2) (k / 4 * 2 + 1)),
        some (tidNth d (tidDim d 0) k), tidWidth s⟩
    else
      let n := if tidSp24 s then tidDim s 0 / 2 else tidDim s 0
      ⟨.at_ (tidNth s n k), some (tidNth d n k), tidWidth s⟩
  else if k < e + m then ⟨.at_ (tidMetaAt s (k - e)), some (tidMetaAt d (k - e)), 4⟩
  else ⟨.at_ (tidScaleAt s (k - e - m)), some (tidScaleAt d (k - e - m)), scaleBits (tidSc s)⟩

/-- The errors of identifiers that a copy meets before it moves anything (R84, R175). -/
def Cmd.shapeCause (c : Cmd) : Option Nat :=
  let s := c.t 0; let d := c.t 1
  if c.kind ≠ 0 ∨ !bit c.block.toNat 240 then none
  else if !tidValid s ∨ !tidValid d then some Cause.tidInvalid
  else if tidFmt s ≠ tidFmt d ∨ tidNdim s ≠ tidNdim d ∨ (List.range 4).any (fun i => tidDim s i ≠ tidDim d i) ∨
    (c.scaled ∧ (tidSc s ≠ tidSc d ∨ tidBlk s ≠ tidBlk d ∨ tidQaxis s ≠ tidQaxis d)) ∨
    (!tidSp24 s ∧ tidSp24 d) ∨ (tidSp24 s ∧ !tidSp24 d ∧ tidSpace d ≠ 1) then some Cause.tidShape
  else none

/-- Reads the source of a move: TID_SHAPE for a metadata entry that does not ascend (R84). -/
def State.readSrc (s : State) (c : Cmd) (x : Src) (w : Nat) : State × Except (Err × Nat) Nat :=
  match x with
  | .at_ l => s.placeRead c.tlb c.agent l w
  | .kept md j a b => match s.placeRead c.tlb c.agent md 4 with
    | (s, .error e) => (s, .error e)
    | (s, .ok v) =>
      if v / 4 ≤ v % 4 then (s, .error (⟨Cause.tidShape, 0, 0⟩, 0))
      else if j = v % 4 then s.placeRead c.tlb c.agent a w
      else if j = v / 4 then s.placeRead c.tlb c.agent b w
      else (s, .ok 0)

/-- The cistern column that a place lies in, for a command's translation (R366). -/
def State.colOf (s : State) (c : Cmd) (l : Loc) : Option Nat :=
  match l.sp, l.at_ with
  | false, some a => match (s.translate c.tlb (keyDie c.ctxKey) c.iss.ctx a false false c.iss.priv).2 with
    | .ok t => match target t.pa with | .cistern k => some k | _ => none
    | .error _ => none
  | _, _ => none

/-- The places that give a value, with the bits of each: of an expanded tile the metadata entry, with its first value, and the
element that the entry names for the value, if it names one (R84). -/
def State.sources (s : State) (c : Cmd) (x : Src) (w : Nat) : List (Loc × Nat) :=
  match x with
  | .at_ l => [(l, w)]
  | .kept md j a b => (md, if j = 0 then 4 else 0) :: match (s.placeRead c.tlb c.agent md 4).2 with
    | .ok v => if j = v % 4 then [(a, w)] else if j = v / 4 then [(b, w)] else []
    | .error _ => []

/-- The standpipes of a move, one after the other: of its source, or its two sources, and of its destination (R366). An expanded
tile goes to a scratchpad (R84). -/
def State.moveCols (s : State) (c : Cmd) (m : Move) : Option Nat × Option Nat :=
  let dst := match m.dst with | some l => s.colOf c l | none => none
  match (s.sources c m.src m.w).filterMap (fun x => s.colOf c x.1) with
  | [] => (none, dst)
  | k :: l => (some k, l.find? (· ≠ k) <|> dst)

/-- Writes a value that has been read, or keeps it for a tile. -/
def State.deliverMove (s : State) (c : Cmd) (m : Move) (v : Nat) : State × Cmd × Option (Err × Nat) :=
  match m.dst with
  | none => (s, { c with pos := c.pos + 1, buf := c.buf ++ [v] }, none)
  | some l => match s.placeWrite c.tlb c.agent l m.w v with
    | (s, .error e) => (s, c, some e)
    | (s, .ok _) => (s, { c with pos := c.pos + 1 }, none)

/-- TV for a ternary code 0b10 that an engine reads for a frame (R53): in the frame of an MXLS too, which R53 does not name (DESIGN
CHOICE, log 115). -/
def State.flagTern (s : State) (c : Cmd) (m : Move) (v : Nat) : State :=
  match c.iss.frame with
  | some (pk, _, _, f, g) => if tidFmt (c.t 0) = 15 ∧ m.w = 2 ∧ v = 2 then s.flag pk f g Num.TV else s
  | none => s

/-- Moves values that need no standpipe, up to a number of them: what is left is done, or waits for a beat, or failed. -/
def State.runMoves (s : State) (c : Cmd) : Nat → State × Cmd × Option (Err × Nat)
  | 0 => (s, c, none)
  | n + 1 =>
    if c.total ≤ c.pos then (s, c, none)
    else
      let m := c.move c.pos
      if s.moveCols c m ≠ (none, none) then (s, c, none)
      else match s.readSrc c m.src m.w with
        | (s, .error e) => (s, c, some e)
        | (s, .ok v) => match (s.flagTern c m v).deliverMove c m v with
          | (s, c, some e) => (s, c, some e)
          | (s, c, none) => s.runMoves c n

/-! The timeline (R96, R97). -/

/-- The largest n such that every number up to it is complete. -/
def advanceCounter (ahead : List Nat) : Nat → Nat → Nat
  | 0, n => n
  | k + 1, n => if ahead.contains (n + 1) then advanceCounter ahead k (n + 1) else n

/-- The context that a TLW request waits on. -/
def State.tlwKey (s : State) (q : Req) : Nat :=
  ctxKey (bindHandle ((s.plane q.plane).binds.get (q.body.operand.toNat % 32) 0#128).toNat)

/-- Number n of a context is complete: the counter advances, and wakes TLW frames and armed records (R97, R164). -/
def State.completeNum (s : State) (k n : Nat) : State :=
  let e := s.eng k
  let ahead := n :: e.ahead
  let c := advanceCounter ahead ahead.length e.counter
  let fires (a : Arm) : Bool := match a.kind with | .tl k' m => k' = k && m ≤ c | _ => false
  { s with
    engs := s.engs.put k { e with counter := c, ahead := ahead.filter (fun x => c < x) }
    reqs := s.reqs.map (fun (i, q) =>
      if q.opc = 0x97 ∧ q.stage = .waiting ∧ s.planes.has q.plane ∧ s.tlwKey q = k ∧ q.done ≤ c then (i, { q with stage := .done }) else (i, q))
    trig := s.trig ++ s.arms.filter fires
    arms := s.arms.filter (fun a => !fires a) }

/-- A command leaves its context. -/
def State.endCmd (s : State) (id : Nat) (c : Cmd) : State :=
  { s with cmds := s.cmds.del id }.completeNum c.ctxKey (c.num.getD 0)

/-! Errors (R96, R230, R250). -/

/-- Runs an operation on a plane that may be saved, as if it were resident. -/
def State.withSaved (s : State) (pk : Nat) (f : State → State) : State :=
  if s.planes.has pk then f s
  else match s.saved.find? (fun v => v.key = pk) with
    | none => s
    | some v =>
      let s := f { s with planes := s.planes.put pk v.plane }
      let p := s.plane pk
      { s with planes := s.planes.del pk, saved := s.saved.map (fun x => if x.key = pk then { x with plane := p } else x) }

/-- A frame fault that an engine raises for an issuing frame that is live; otherwise a report (R250, R338, R353). -/
def State.engineError (s : State) (i : Issuer) (park : Bool) (e : Err) (addr aux info : Nat) : State :=
  let own := 0x10 ≤ e.cause ∧ e.cause ≤ 0x18
  let inf := if own then e.info else info
  let rep (s : State) : State := s.report { cause := e.cause, addr := addr, info := inf, aux := aux, cbix := i.cbix, ctx := i.ctx }
  match i.frame with
  | some (pk, el, node, f, g) =>
    let p := if s.planes.has pk then some (s.plane pk) else (s.saved.find? (fun v => v.key = pk)).map (fun v => v.plane)
    let live := match p with
      | some p => (match p.frame? f with | some fr => fr.gen = g | none => false)
      | none => false
    if park && live then
      let at_ (s : State) : FaultRec := s.frameRec pk el node f e.cause addr inf aux
      if s.planes.has pk then s.park pk f (at_ s) else s.withSaved pk (fun s => s.parkNow ⟨pk, f, g, 0, at_ s⟩)
    else rep s
  | none => rep s

/-- Causes that carry the handle and the command's number (Table 18.3). -/
def engineCause (c : Nat) : Bool :=
  c ∈ [Cause.engineAccess, Cause.engineCmd, Cause.tlAhead, Cause.mxShape, Cause.mxSource, Cause.scaleMismatch]

/-- A command completes in error (R96): no landing word, no follow-on. A matrix command parks its frame
(R250), and so does an identifier with VALID = 0 (R70). -/
def State.failCmd (s : State) (id : Nat) (c : Cmd) (e : Err) (addr : Nat) : State :=
  let aux := if engineCause e.cause then c.handle else e.aux
  let info := if engineCause e.cause then c.num.getD 0 % 2 ^ 32 else e.info
  (s.endCmd id c).engineError c.iss (1 < c.kind || e.cause = Cause.tidInvalid) e addr aux info

/-! Completion. -/

/-- Writes the landing word of a copy, as a release after its payload (R98). -/
def State.landWord (s : State) (c : Cmd) : State :=
  let b := c.block.toNat
  if !bit b 241 then s
  else
    let pa := spAddr (keyDie c.ctxKey) (bits b 279 256)
    match s.physWrite 0 pa (leBytes 4 (bits b 319 288)) with
    | (s, .ok _) => { s with landed := s.landed.put pa (c.ctxKey, c.num.getD 0) }
    | (s, .error _) => s

/-- Issues the follow-on MXLS or MXSW of a copy as its array context's next command, for the same issuer (R175, R385). -/
def State.followOn (s : State) (c : Cmd) : State :=
  let b := c.block.toNat; let fk := bits b 321 320
  if fk = 0 then s
  else
    let k := 2 ^ 16 + keyDie c.ctxKey * 2 ^ 12 + bits b 326 322 * 2 ^ 4 + bits b 328 327
    let (id, s) := s.newId
    let body : NodeBody := ⟨0#4, 0#4, 0#4, 0#4, 0#8, BitVec.ofNat 32 (bits b 336 329), 0#32, 0#32⟩
    let x : Cmd :=
      { ctxKey := k, csc := false, kind := if fk = 1 then 2 else 3, num := none, block := 0#512, iss := c.iss, body := body, l := noOperand,
        tids := [], tries := 0, pos := 0, buf := [], leg := 0, err := none, stage := .queued, ord := id, horizon := c.horizon }
    { s with cmds := s.cmds.put id x }.acceptCmd id

/-- A copy whose payload is performed: landing word, timeline, follow-on (R96, R98, R175). -/
def State.finishCopy (s : State) (id : Nat) (c : Cmd) : State := ((s.landWord c).endCmd id c).followOn c

/-- A standpipe that a command's next value needs is down (R368). -/
def State.pipeDown (s : State) (c : Cmd) : Bool :=
  let down (o : Option Nat) : Bool := match o with | some k => (match s.pipes.find k with | some p => p.down | none => false) | none => false
  let (a, b) := s.moveCols c (c.move c.pos)
  c.pos < c.total && (down a || down b)

/-- The address that a command's next value concerns. -/
def Cmd.nextAddr (c : Cmd) : Nat := match (c.move c.pos).src with | .at_ l => l.at_.getD 0 | .kept _ _ a _ => a.at_.getD 0

/-- Moves what needs no standpipe: the command as it then stands, or its error. -/
def State.advanceCmd (s : State) (c : Cmd) : State × Cmd × Option (Err × Nat) :=
  match c.err with
  | some (cause, info, a) => (s, c, some (⟨cause, info, 0⟩, a))
  | none =>
    match s.runMoves c (c.total - c.pos) with
    | (s, c, some e) => (s, c, some e)
    | (s, c, none) => if s.pipeDown c then (s, c, some (⟨Cause.bankUnavailable, 0, 0⟩, c.nextAddr)) else (s, c, none)

/-- A copy goes on, and completes once nothing is left (R96). -/
def State.runCopy (s : State) (id : Nat) (c : Cmd) : State :=
  match c.shapeCause with
  | some e => s.failCmd id c ⟨e, 0, 0⟩ 0
  | none => match s.advanceCmd c with
    | (s, c, some (e, a)) => s.failCmd id c e a
    | (s, c, none) => if c.total ≤ c.pos then s.finishCopy id c else { s with cmds := s.cmds.put id c }

/-- A network command (R231, R380, R381): PEER at or beyond the table's end is ENGINE_CMD; the local bytes are read for SEND and
WRITE, and written, with the peer's bytes, for READ (log 11). -/
def State.runNet (s : State) (id : Nat) (c : Cmd) : State :=
  let b := c.block.toNat; let n := bits b 255 224; let va := bits b 184 128
  if Csr.fld (s.csr (s.partOfCtx c.iss.ctx) 0x0402) 11 0 < bits b 287 256 then s.failCmd id c ⟨Cause.engineCmd, 0, 0⟩ 0
  else if bits b 195 192 = 2 then
    match { s with draws := s.draws + n }.placePuts c.tlb c.agent false va (leNat (freeBytes s.draws n)) (pieces va n) with
    | (s, .error (e, a)) => s.failCmd id c e a
    | (s, .ok _) => s.endCmd id c
  else match s.vreadAny c.agent va n with
    | (s, .error e) => s.failCmd id c (errOf e false) va
    | (s, .ok _) => s.endCmd id c

/-! Sequencer instructions. -/

/-- TLREAD (R97, R174). -/
def execSTlread (d a : BitVec 5) (s : State) : Out :=
  let h := (s.g a).toNat
  match s.handleCause s.me.ctx (recCbix s.me.record) h with
  | none => .next (s.setG d (BitVec.ofNat 64 (s.eng (ctxKey h)).counter)).adv
  | some c => .next (s.trapErr (.sTlread d a) ⟨c, 0, h⟩ 0)

/-- COPYS (R175): it stalls while the context holds 64 commands that are not complete, or others wait before it. -/
def execSCopys (d a : BitVec 5) (s : State) : Out :=
  let i := Instr.sCopys d a
  let va := (s.g a).toNat
  match s.seqRead va 64 64 with
  | (s, .error e) => .next (s.trapErr i e va)
  | (s1, .ok b) =>
    let h := b % 2 ^ 64
    match s1.copyCause s1.me.ctx (recCbix s1.me.record) b h with
    | some c => .next (s.trapErr i ⟨c, 0, h⟩ 0)
    | none =>
      if 64 ≤ s1.openCmds (ctxKey h) ∨ s1.cmds.any (fun (_, x) => x.ctxKey = ctxKey h && x.num.isNone) then s.stall
      else
        let z : NodeBody := ⟨0#4, 0#4, 0#4, 0#4, 0#8, 0#32, 0#32, 0#32⟩
        let id := s1.fresh
        let s2 := (s1.queueCmd 0 h (BitVec.ofNat 512 b) s1.meIss z noOperand).acceptCmd id
        .next (s2.setG d (BitVec.ofNat 64 (s2.eng (ctxKey h)).accepted)).adv

end Sys2Proof.Machine
end

