-- ==== Sys2Proof/Machine/Arrays.lean ====
section
/-! DEFINITION. Matrix arrays (R64, R65, R247 to R254): tiles, rows, accumulators, and the array's one order of effects. -/

namespace Sys2Proof.Machine

open Sys2Proof

/-! Shapes (Table 10.5). -/

/-- T of a tile's format: segments of a row. -/
def tileT (fmt : Nat) : Nat := if fmt = 11 ∨ fmt = 10 then 4 else if fmt = 14 then 9 else if fmt = 15 then 32 else 8

/-- U: segments of a row of C. -/
def tileU (fmt : Nat) : Nat := if fmt = 11 then 4 else 2

/-- Accumulator rows. -/
def tileRows (fmt : Nat) : Nat := if fmt = 11 then 256 else 512

/-- FMT of the elements of A for a tile's format (A8 chooses between the 8-bit types). -/
def rowFmt (fmt : Nat) (a8 : Bool) : Nat := if fmt = 12 ∨ fmt = 13 then (if a8 then 13 else 12) else if fmt = 15 then 0 else fmt

/-- Width of the elements of A. -/
def rowWidth (fmt : Nat) : Nat := if fmt = 15 then 8 else NodeCheck.width fmt

/-- FMT of the accumulator's additions. -/
def accFmt (fmt : Nat) : Nat := if fmt = 11 then 11 else 10

/-- Bits of an accumulator element. -/
def accWidth (fmt : Nat) : Nat := if fmt = 11 then 64 else 32

/-- The array of a context key. -/
def arrayOf (k : Nat) : Nat := k / 16

/-- An array that nothing has loaded (R247). -/
def ArraySt.empty : ArraySt := ⟨none, none, [], []⟩

/-- An array. -/
def State.array (s : State) (a : Nat) : ArraySt := s.arrays.get a ArraySt.empty

/-- Replaces an array. -/
def State.setArray (s : State) (a : Nat) (x : ArraySt) : State := { s with arrays := s.arrays.put a x }

/-! Arithmetic of a cell (R64, R65). -/

/-- The value of an element of A or of B, with its block's scale code, for a floating format. -/
def cellVal (fmt x scale : Nat) : Num.Val :=
  let v := (Num.elemVal fmt x).1
  if fmt = 14 then
    (if scale % 256 = 255 then .nan false else let (n, d) := e8m0 (scale % 256); timesFrac v n d)
  else v

/-- The exact sum of a k-group's products, and NV where R64 raises it. -/
def groupSum (l : List (Num.Val × Num.Val)) : Num.Val × Nat :=
  l.foldl (fun (acc, fl) (a, b) =>
    let (p, f1) := Num.mul a b
    let (q, f2) := Num.add 0 acc p
    (q, fl ||| f1 ||| f2 ||| (if a.isNan || b.isNan then Num.NV else 0))) (Num.Val.fin false 0 1, 0)

/-- Column c of a row, floating: the start value and the 32 group sums in ascending order, one rounding each (R64, R248). -/
def floatCell (t : Tile) (afmt : Nat) (row scales : List Nat) (c start : Nat) : Nat × Nat :=
  let g := (tileG t.fmt).getD 1; let K := tileK t.fmt; let f := Num.fmtOf (accFmt t.fmt)
  (List.range 32).foldl (fun (acc, fl) r =>
    let prods := (List.range g).map (fun j =>
      let k := g * r + j
      (cellVal afmt (row.getD k 0) (scales.getD r 127), cellVal t.fmt (t.elems.getD (k + K * c) 0) (t.scales.getD (32 * c + r) 127)))
    let (sum, f1) := groupSum prods
    let (v, f2) := Num.add 0 (Num.decode f acc) sum
    let (x, r0) := Num.round f 0 ⟨0, 0#32, f1 ||| f2⟩ v
    (x, fl ||| r0.fl)) (start, 0)

/-- Column c of a row, ternary: exact integer sums with saturation (R65), TV for code 0b10 (R53). -/
def ternCell (t : Tile) (row : List Nat) (c start : Nat) : Nat × Nat :=
  let K := tileK 15
  let (acc, fl) := (List.range 32).foldl (fun (acc, fl) r =>
    let (sum, f1) := (List.range 64).foldl (fun (sum, f1) j =>
      let k := 64 * r + j
      let x := t.elems.getD (k + K * c) 0
      let w : Int := if x = 1 then 1 else if x = 3 then -1 else 0
      (sum + w * Num.toInt 8 (row.getD k 0), f1 ||| (if x = 2 then Num.TV else 0))) ((0 : Int), 0)
    let (v, hit) := Num.clamp (-(2 ^ 31 - 1)) (2 ^ 31 - 1) (acc + sum)
    (v, fl ||| f1 ||| (if hit then Num.OF else 0))) (Num.toInt 32 start, 0)
  (Num.ofInt 32 acc, fl)

/-- A ternary accumulator times an f16 scale, rounded to f32 once; no scale counts as 1 (R65). -/
def ternScale (acc : Nat) (scale : Option Nat) : Nat × Nat :=
  let v := Num.Val.ofInt (Num.toInt 32 acc) 1 false
  let (p, f) := match scale with | some c => Num.mul v (Num.decode (Num.fmtOf 8) c) | none => (v, 0)
  let (x, r) := Num.round (Num.fmtOf 10) 0 ⟨0, 0#32, f⟩ p
  (x, r.fl)

/-- The 32 columns of a row from their start values, with flags. -/
def rowCells (t : Tile) (a8 : Bool) (row scales : List Nat) (start : Nat → Nat) : List Nat × Nat :=
  (List.range 32).foldl (fun (l, fl) c =>
    let (x, f) := if t.fmt = 15 then ternCell t row c (start c) else floatCell t (rowFmt t.fmt a8) row scales c (start c)
    (l ++ [x], fl ||| f)) ([], 0)

/-- The 32 columns in route mode: a ternary column is scaled at once (R248). -/
def routeCells (t : Tile) (a8 : Bool) (row scales : List Nat) : List Nat × Nat :=
  let (l, fl) := rowCells t a8 row scales (fun _ => 0)
  if t.fmt ≠ 15 then (l, fl)
  else l.zipIdx.foldl (fun (l, fl) (x, c) => let (y, f) := ternScale x (some (t.scales.getD (32 * c) 0)); (l ++ [y], fl ||| f)) ([], fl)

/-! Accumulators. -/

/-- An accumulator element of a row, in a tile's format (R248). -/
def ArraySt.accAt (a : ArraySt) (fmt row c : Nat) : Nat :=
  if fmt = 11 then (a.acc.get (64 * row + 2 * c) 0#32).toNat + 2 ^ 32 * (a.acc.get (64 * row + 2 * c + 1) 0#32).toNat
  else (a.acc.get (32 * row + c) 0#32).toNat

/-- Writes an accumulator element. -/
def ArraySt.setAcc (a : ArraySt) (fmt row c v : Nat) : ArraySt :=
  if fmt = 11 then { a with acc := (a.acc.put (64 * row + 2 * c) (BitVec.ofNat 32 v)).put (64 * row + 2 * c + 1) (BitVec.ofNat 32 (v / 2 ^ 32)) }
  else { a with acc := a.acc.put (32 * row + c) (BitVec.ofNat 32 v) }

/-- Latches the scales of columns that have none latched, for a ternary tile (R65). -/
def ArraySt.latchTern (a : ArraySt) (t : Tile) : ArraySt :=
  if t.fmt ≠ 15 then a
  else { a with latched := (List.range 32).foldl (fun m c => if m.has c then m else m.put c (BitVec.ofNat 16 (t.scales.getD (32 * c) 0))) a.latched }

/-! The one order of an array (R249). -/

/-- An earlier item of an array has not taken effect. A row, MXQ or MXACC does not wait for a load that cannot bear on it. -/
def State.arrayBusy (s : State) (arr ord : Nat) (skipLoads : Bool) : Bool :=
  s.rows.any (fun (_, r) => r.stage = .queued && arrayOf r.ctxKey = arr && r.ord < ord) ||
  s.cmds.any (fun (_, c) => c.num.isSome && 1 < c.kind && arrayOf c.ctxKey = arr && c.ord < ord &&
    !(skipLoads && c.kind = 2 && tidFmt (c.t 0) ≠ 15))

/-! Rows. -/

/-- The elements of a row of A, from its segments in order, masked-off lanes as zero (R252). -/
def Row.elems (r : Row) (w : Nat) : List Nat :=
  (List.range 32).flatMap (fun i => match r.segs.find? (fun x => x.1 = i) with
    | some (_, _, _, o) => (List.range (512 / w)).map (elem (zeroOff o.val o.mask) w)
    | none => [])

/-- Block scales of a row of MX-FP4, from segment 8 (R247). -/
def Row.scales (r : Row) : List Nat :=
  match r.segs.find? (fun x => x.1 = 8) with
  | some (_, _, _, o) => (List.range 32).map (elem (zeroOff o.val o.mask) 8)
  | none => []

/-- OPERAND that the MXST nodes of a row share (R252). -/
def Row.operand (r : Row) : Nat := match r.segs with | (_, _, n, _) :: _ => n.operand.toNat | [] => 0

/-- A row's own error (R250). -/
def rowCause (a : ArraySt) (total : Nat) (a8 : Bool) : Option Nat :=
  match a.active with
  | none => some Cause.mxShape
  | some t => if total ≠ tileT t.fmt ∨ (a8 ∧ t.fmt ≠ 12 ∧ t.fmt ≠ 13) then some Cause.mxShape else none

/-- A row of C as the segment u's token holds it. -/
def segVec (fmt : Nat) (l : List Nat) (u : Nat) : Vec := let n := 512 / accWidth fmt; mkVec (accWidth fmt) ((l.drop (n * u)).take n)

/-- Accepts a row whose last segment has arrived: its number and its place in the order (R249). -/
def State.acceptRow (s : State) (id : Nat) : State :=
  match s.rows.find id with
  | none => s
  | some r =>
    if r.stage ≠ .sent ∨ r.segs.length < r.total then s
    else
      let e := s.eng r.ctxKey; let (o, s) := s.newId
      { s with
        engs := s.engs.put r.ctxKey { e with accepted := e.accepted + 1 }
        rows := s.rows.put id { r with num := some (e.accepted + 1), ord := o, at_ := s.fc, stage := .queued } }

/-- Sends to DEST1 of the MXST node of a segment. -/
def State.rowSend (s : State) (r : Row) (seg : Nat) (v : Operand) : State :=
  match r.segs.find? (fun x => x.1 = seg) with
  | some (_, e, n, _) => s.sendTo r.plane e n.dest1 r.frame r.gen v
  | none => s

/-- An accepted row takes effect in its turn, from 66 fc after its acceptance on (R248, R249, R252). -/
def State.completeRow (s : State) (id : Nat) : State :=
  match s.rows.find id with
  | none => s
  | some r =>
    let arr := arrayOf r.ctxKey
    if r.stage ≠ .queued ∨ s.fc < r.at_ + 66 ∨ s.arrayBusy arr r.ord true then s
    else
      let a := s.array arr; let o := r.operand; let a8 := bit o 20; let n := r.num.getD 0
      let s0 := { s with rows := s.rows.del id }.completeNum r.ctxKey n
      match rowCause a r.total a8, a.active with
      | none, some t =>
        let row := r.elems (rowWidth t.fmt)
        if bit o 10 then
          let ix := (bits o 19 11 + r.itix) % tileRows t.fmt
          let a := a.latchTern t
          let (l, fl) := rowCells t a8 row r.scales (a.accAt t.fmt ix)
          let a := l.zipIdx.foldl (fun a (x, c) => a.setAcc t.fmt ix c x) a
          ((s0.setArray arr a).flag r.plane r.frame r.gen fl).rowSend r 0 (numberVec n).ecpl
        else
          let (l, fl) := routeCells t a8 row r.scales
          (List.range (tileU t.fmt)).foldl (fun s u => s.rowSend r u ⟨segVec t.fmt l u, 0xFFFF#16, 0#4⟩) (s0.flag r.plane r.frame r.gen fl)
      | c, _ => s0.engineError r.iss true ⟨c.getD Cause.mxShape, 0, 0⟩ 0 (keyHandle r.ctxKey r.csc) (n % 2 ^ 32)

/-! Commands. -/

/-- MXLS's errors of identifier, shape and source (R250). -/
def State.loadCause (s : State) (c : Cmd) : Option Nat :=
  let t := c.t 0; let fmt := tidFmt t
  if !tidValid t then some Cause.tidInvalid
  else if (tileG fmt).isNone ∨ tidDim t 0 ≠ tileK fmt ∨ tidDim t 1 ≠ 32 ∨ tidNdim t = 0 ∨ (tileScaled fmt ∧ tidQaxis t) ∨ tidSp24 t then
    some Cause.mxShape
  else if tidSpace t = 1 then none
  else match s.translate c.tlb (keyDie c.ctxKey) c.iss.ctx (tidBase t) false false c.iss.priv with
    | (_, .ok p) => if target p.pa = .cistern (32 * keyDie c.ctxKey + keyUnit c.ctxKey) then none else some Cause.mxSource
    | (_, .error _) => none

/-- SCALE_MISMATCH of a ternary tile (R65). -/
def ternMismatch (a : ArraySt) (t : Tile) : Bool :=
  t.fmt = 15 && (List.range 32).any (fun c =>
    let x := t.scales.getD (32 * c) 0
    (List.range 32).any (fun r => t.scales.getD (32 * c + r) 0 ≠ x) ||
    (match a.latched.find c with | some y => y.toNat ≠ x | none => false))

/-- An MXLS that fails leaves the shadow plane without a valid tile (R247). -/
def State.failLoad (s : State) (id : Nat) (c : Cmd) (e : Err) (addr : Nat) : State :=
  let arr := arrayOf c.ctxKey
  (s.setArray arr { s.array arr with shadow := none }).failCmd id c e addr

/-- MXLS goes on, and takes effect in its turn once all of the tile has been read (R249, R251). -/
def State.runLoad (s : State) (id : Nat) (c : Cmd) : State :=
  let arr := arrayOf c.ctxKey
  let busy := s.arrayBusy arr c.ord false
  match s.loadCause c with
  | some e => if busy then s else s.failLoad id c ⟨e, 0, 0⟩ 0
  | none => match s.advanceCmd c with
    | (s1, c, some (e, a)) => if busy then s else s1.failLoad id c e a
    | (s1, c, none) =>
      if busy ∨ c.pos < c.total then { s1 with cmds := s1.cmds.put id c }
      else
        let n := 32 * tileK (tidFmt (c.t 0))
        let t : Tile := ⟨tidFmt (c.t 0), c.buf.take n, c.buf.drop n⟩
        if ternMismatch (s1.array arr) t then s1.failLoad id c ⟨Cause.scaleMismatch, 0, 0⟩ 0
        else (s1.setArray arr { s1.array arr with shadow := some t }).endCmd id c

/-- MXSW takes effect after everything before it (R249, R251). -/
def State.applySwap (s : State) (id : Nat) (c : Cmd) : State :=
  let arr := arrayOf c.ctxKey; let a := s.array arr
  if s.arrayBusy arr c.ord false then s else (s.setArray arr { a with active := a.shadow, shadow := a.active }).endCmd id c

/-- MXACC in its turn (R253). -/
def State.runAcc (s : State) (id : Nat) (c : Cmd) : State :=
  let arr := arrayOf c.ctxKey; let a := s.array arr; let o := c.body.operand.toNat; let u := bits o 10 9
  if s.arrayBusy arr c.ord true then s
  else match a.active with
    | none => s.failCmd id c ⟨Cause.mxShape, 0, 0⟩ 0
    | some t =>
      if tileU t.fmt ≤ u then s.failCmd id c ⟨Cause.mxShape, 0, 0⟩ 0
      else
        let row := (o % 512 + (if c.l.mask.getLsbD 0 then lane c.l.val 0 else 0)) % tileRows t.fmt
        let n := 512 / accWidth t.fmt
        let cols := (List.range n).map (fun j => n * u + j)
        let (l, fl) := cols.foldl (fun (l, fl) k =>
          let x := a.accAt t.fmt row k
          if t.fmt = 15 then let (y, f) := ternScale x ((a.latched.find k).map BitVec.toNat); (l ++ [y], fl ||| f) else (l ++ [x], fl)) ([], 0)
        let a := if t.fmt = 15 then { a with latched := cols.foldl (fun m k => m.del k) a.latched } else a
        let a := if bit o 11 then cols.foldl (fun a k => a.setAcc t.fmt row k 0) a else a
        let s := (s.setArray arr a).cmdSend c (Operand.ecpl ⟨mkVec (accWidth t.fmt) l, 0xFFFF#16, 0#4⟩)
        let s := match c.iss.frame with | some (pk, _, _, f, g) => s.flag pk f g fl | none => s
        s.endCmd id c

/-- ReLU of an f32 pattern (R254). -/
def relu (x : Nat) : Nat :=
  let f := Num.fmtOf 10
  if (Num.decode f x).isNan then Num.canonNaN f else if 2 ^ 31 ≤ x then 0 else x

/-- MXQ in its turn (R254). -/
def State.runQuery (s : State) (id : Nat) (c : Cmd) : State :=
  let arr := arrayOf c.ctxKey; let o := c.body.operand.toNat
  if s.arrayBusy arr c.ord true then s
  else match (s.array arr).active with
    | none => s.failCmd id c ⟨Cause.mxShape, 0, 0⟩ 0
    | some t =>
      if t.fmt ≠ 8 ∧ t.fmt ≠ 9 then s.failCmd id c ⟨Cause.mxShape, 0, 0⟩ 0
      else
        let x := (List.range 32).map (elem (zeroOff c.l.val c.l.mask) 16)
        let (y, fl) := routeCells t false x []
        let y := if o % 4 = 1 then y.map relu else y
        let out := bits o 3 2
        let (v, fl) := if out = 0 then
            let (l, r) := y.foldl (fun (l, r) z => let (h, r) := Num.round (Num.fmtOf 8) 1 r (Num.decode (Num.fmtOf 10) z); (l ++ [h], r))
              (([] : List Nat), (⟨0, 0#32, fl⟩ : Num.Rnd))
            (mkVec 16 l, r.fl)
          else (mkVec 32 ((y.drop (16 * (out - 1))).take 16), fl)
        let s := s.cmdSend c (Operand.ecpl ⟨v, 0xFFFF#16, 0#4⟩)
        let s := match c.iss.frame with | some (pk, _, _, f, g) => s.flag pk f g fl | none => s
        s.endCmd id c

end Sys2Proof.Machine
end

