-- ==== Sys2Proof/Machine/SeqSys.lean ====
section
/-! DEFINITION. System instructions: TLBINV, KEYLD, SWAPOUT, SWAPIN, PARKRES and PARKKILL (R180, R183 to R186), with resuming
and killing what is parked (R348). -/

namespace Sys2Proof.Machine

open Sys2Proof

/-! Translations (R183). -/

/-- The partition that a TLB belongs to: units below 1000, ports from 1000, second levels from 10000. -/
def State.partOfTlb (s : State) (t : Nat) : Nat :=
  if t < 1000 then s.partOfUnit t else if t < 10000 then s.partOfDie ((t - 1000) / 128) else s.partOfDie (t - 10000)

/-- The partition that a TLB entry belongs to: in the hub's second level, which the control cores share, its context's (log 100). -/
def State.partOfEntry (s : State) (e : TlbEntry) : Nat := if e.tlb = l2Tlb 4 then s.partOfCtx e.ctx else s.partOfTlb e.tlb

/-- An entry matches a TLBINV: kind 00 the page at every page size, 01 the context, 10 every context. -/
def tlbMatch (kind ctx va : Nat) (e : TlbEntry) : Bool :=
  match kind with
  | 0 => e.ctx = ctx && e.vpn / 2 ^ e.size = va / 4096 / 2 ^ e.size
  | 1 => e.ctx = ctx
  | _ => true

/-- Invalidates the matching entries of a partition's TLBs. -/
def State.invalidate (s : State) (part kind ctx va : Nat) : State :=
  { s with tlb := s.tlb.filter (fun e => !(s.partOfEntry e = part && tlbMatch kind ctx va e)) }

/-- The endpoint of a waiting delivery belongs to a context and has a failing access. -/
def State.failingFor (s : State) (all : Bool) (ctx : Nat) (d : Delivery) : Bool :=
  match (s.conv d.conv).bound d.role with
  | some (_, e) => e.failing && (all || e.ctx = ctx)
  | none => false

/-- Tries the failing deliveries of a context again (R121). -/
def State.retryFailing (s : State) (all : Bool) (ctx : Nat) : State :=
  (s.deliveries.filter (fun (_, d) => s.failingFor all ctx d)).foldl (fun s (k, _) => s.deliverMsg k) s

/-- TLBINV (R183). -/
def execSTlbinv (a b : BitVec 5) (s : State) : Out :=
  let i := Instr.sTlbinv a b
  let va := (s.g a).toNat; let v := (s.g b).toNat; let kind := bits v 17 16; let ctx := bits v 15 0
  s.privileged i (
    if bits v 63 18 ≠ 0 ∨ kind = 3 ∨ (kind = 2 ∧ (va ≠ 0 ∨ ctx ≠ 0)) then s.trapAt i Cause.illegal
    else if kind ≠ 2 ∧ s.partOfCtx ctx ≠ s.partOfUnit s.cur then s.trapAt i Cause.trPartition
    else .next ((s.invalidate (s.partOfUnit s.cur) kind ctx va).retryFailing (kind = 2) ctx).adv)

/-! Key slots (R184). -/

/-- Lines of memory that something has written: every other line reads as zeros. -/
def State.touched (s : State) : List Nat := s.mem.map (fun c => c.1 / 64) ++ s.lineKey.map Prod.fst

/-- A slot is in use by a live context of a partition, or by a share group that contexts refer to (R333); entry 0 of the table is
unused. -/
def State.keyInUse (s : State) (part slot : Nat) : Bool :=
  let cb := (s.csr part 0x0200).toNat / 64; let gb := (s.csr part 0x0201).toNat / 64
  s.touched.any (fun l =>
    (cb ≤ l && l - cb < 65536 && s.partOfCtx (l - cb) = part && (s.desc (l - cb) 11 1 = 2 || s.desc (l - cb) 11 1 = 3) &&
      s.desc (l - cb) 8 2 % 8192 = slot) ||
    (gb ≤ l && l - gb < 1024 && (List.range 4).any (fun k =>
      let e := s.natAt (s.sysSlot part) (64 * l + 16 * k) 16
      (l ≠ gb || k ≠ 0) && e % 8192 = slot && bits e 63 32 ≠ 0)))

/-- KEYLD (R184, R336). -/
def execSKeyld (a b : BitVec 5) (s : State) : Out :=
  let i := Instr.sKeyld a b
  let slot := (s.g a).toNat; let va := (s.g b).toNat; let part := s.partOfUnit s.cur
  s.privileged i (
    if 8192 ≤ slot then s.trapAt i Cause.illegal
    else if slot < 8192 * part / s.parts ∨ 8192 * (part + 1) / s.parts ≤ slot then s.trapAt i Cause.trPartition
    else if s.keyInUse part slot then s.trapAt i Cause.keyBusy
    else match s.seqRead va 64 64 with
      | (s, .error e) => .next (s.trapErr i e va)
      | (s, .ok v) => .next { s with keys := s.keys.put slot (BitVec.ofNat 512 v) }.adv)

/-! Planes (R185, R318, R319). -/

/-- The plane that a block holds under a virtual plane, wherever its region lies. -/
def State.heldPlane (s : State) (ctx cbix vp : Nat) : Option Nat := (s.block ctx cbix).binds.find vp

/-- SWAPOUT (R185): the plane becomes a victim. -/
def execSSwapout (a : BitVec 5) (s : State) : Out :=
  let i := Instr.sSwapout a
  let v := (s.g a).toNat; let cbix := bits v 23 0; let vp := bits v 25 24
  s.privileged i (
    if bits v 63 26 ≠ 0 ∨ (s.savedOf s.me.ctx cbix vp).isSome then s.trapAt i Cause.illegal
    else match s.heldPlane s.me.ctx cbix vp with
      | none => s.trapAt i Cause.illegal
      | some pk =>
        if (s.plane pk).state = .empty then s.trapAt i Cause.illegal else .next (s.chooseVictims 0 [pk]).adv)

/-- SWAPIN (R185, R308): the saved plane is to be restored into the region that its block now names. It waits while the region is
smaller than the plane (log 106). -/
def execSSwapin (a : BitVec 5) (s : State) : Out :=
  let i := Instr.sSwapin a
  let v := (s.g a).toNat; let cbix := bits v 23 0; let vp := bits v 25 24
  s.privileged i (
    if bits v 63 26 ≠ 0 then s.trapAt i Cause.illegal
    else
      let s' := match s.makeLive s.me.ctx cbix with | .ok t => t | .error _ => s
      match s.savedOf s.me.ctx cbix vp, s'.grant s.me.ctx cbix with
      | some x, some g =>
        if (s.freePlane g).isNone then s.trapAt i Cause.illegal
        else .next { s' with saved := s.saved.map (fun (y : Saved) => if y.key = x.key then { y with restoring := true } else y) }.adv
      | _, _ => s.trapAt i Cause.illegal)

/-! Parked frames, trapped records and reports (R186, R348). -/

/-- A plane, resident or saved. -/
def State.planeAny (s : State) (pk : Nat) : Option Plane :=
  match s.planes.find pk with
  | some p => some p
  | none => (s.saved.find? (fun v => v.key = pk)).map (fun v => v.plane)

/-- Reports a record's STATE to software (Table 18.2). A page that cannot be written keeps what it holds (log 25). -/
def State.setParkState (s : State) (ctx addr st : Nat) : State :=
  match s.peek ctx (addr + 25) 1 with
  | some b => (s.poke ctx (addr + 25) [BitVec.ofNat 8 (b / 64 * 64 + st * 16 + b % 16)]).getD s
  | none => s

/-- The effect of PARKRES on a frame of a resident plane (R119, R348, R351): tokens return as arrivals from the next fc in
their arrival order, kept results are sent, held requests are issued again, refused sends are submitted again, with their role
register as it now stands (R360, log 108). -/
def State.unpark (s : State) (pk f : Nat) : State :=
  match (s.plane pk).frame? f with
  | none => s
  | some fr =>
    let (src, s) := s.newId
    let back : List Flight := fr.withdrawn.map (fun (e, t, v) => ⟨s.fc + 1, 2 ^ 60 + src, pk, e, t, v, parityOf v t⟩)
    let p := s.plane pk
    let s := s.setPlane pk { p with frames := p.frames.put f { fr with parked := false, withdrawn := [], resume := [] } }
    let s := { s with flights := s.flights ++ back }
    let s := fr.resume.foldl (fun s k => s.sendKept pk f k) s
    let mine (i : Issuer) : Bool := match i.frame with
      | some (a, _, _, b, g) => a = pk && b = f && g = fr.gen
      | none => false
    { s with
      reqs := s.reqs.map (fun (k, q) =>
        if q.plane = pk ∧ q.frame = f ∧ q.gen = fr.gen ∧ q.stage = .held then (k, { q with stage := .queued, at_ := s.fc }) else (k, q))
      sends := s.sends.map (fun (k, x) =>
        if x.held && mine x.iss then
          let r := (s.roleReg pk (x.body.operand.toNat % 8)).toNat
          let y : Send := { x with held := false, at_ := s.fc, due := s.due x.iss.die, reg := r }
          (k, if !x.deleg && bit x.reg 26 then y else { y with handle := BitVec.ofNat 64 (r / 2 ^ 30 * 2 ^ 30), role := bits r 29 27 })
        else (k, x)) }

/-- OVFX and OVFXLEN of a block and its ancestors are read again (R351). -/
def State.rereadOvf (s : State) (ctx cbix : Nat) : State :=
  (s.chain ctx 8 cbix).foldl (fun s (c, _) => match s.blocks.find (blockKey ctx c), s.cbMem ctx c with
    | some b, some m => { s with blocks := s.blocks.put (blockKey ctx c) { b with
        image := b.image / 2 ^ 416 * 2 ^ 416 + bits m 415 320 * 2 ^ 320 + b.image % 2 ^ 320 } }
    | _, _ => s) s

/-- A frozen plane whose area and extension have 4 KiB free fires again (R351). -/
def State.thaw (s : State) (pk : Nat) : State :=
  let p := s.plane pk
  if !p.frozen then s
  else
    let s := s.rereadOvf p.ctx p.cbix
    if s.inMem pk + 32 ≤ s.ovfCap pk then s.setPlane pk { p with frozen := false, discarded := 0 } else s

/-- Resumes a parked frame; that of a saved plane takes effect at swap-in (R348, Table 18.7). -/
def State.resumeFrame (s : State) (pk f : Nat) : State :=
  if s.planes.has pk then (s.unpark pk f).thaw pk
  else s.withSaved pk (fun s =>
    let p := s.plane pk
    match p.frame? f with
    | some fr => (s.setPlane pk { p with frames := p.frames.put f { fr with parked := false } }).thaw pk
    | none => s)

/-- The park that an address names for a record: its own context's, or with privilege any of its partition. -/
def State.findPark (s : State) (addr : Word) : Option Park :=
  match s.parks.find? (fun p => p.live && p.addr = addr && p.ctx = s.me.ctx) with
  | some p => some p
  | none => if s.me.priv then s.parks.find? (fun p => p.live && p.addr = addr && s.partOfCtx p.ctx = s.partOfUnit s.cur) else none

/-- The executing record may resume or kill a park (R186, R310). -/
def State.mayAct (s : State) (p : Park) : Bool := s.me.priv || (s.me.handler.isSome && p.dom = s.me.handler)

/-- PARKRES or PARKKILL up to its effect: PRIVILEGE, PARK_STATE, or the park. -/
def State.onPark (s : State) (i : Instr) (a : BitVec 5) (f : Park → Out) : Out :=
  if !s.me.priv ∧ s.me.handler.isNone then s.trapAt i Cause.privilege
  else match s.findPark (s.g a) with
    | none => s.trapAt i Cause.parkState
    | some p => if s.mayAct p then f p else s.trapAt i Cause.privilege

/-- Frees a trap-frame or report slot: STATE 00 (R347). -/
def State.freePark (s : State) (p : Park) : State :=
  let s := s.setParkState p.ctx p.addr.toNat 0
  { s with parks := s.parks.erase p }

/-- A parked frame's record is marked LOST. -/
def State.parkLost (s : State) (pk f : Nat) : Bool :=
  match s.planeAny pk with
  | some p => (match p.frame? f with | some fr => fr.lost | none => true)
  | none => true

/-- g1 to g31 and p1 to p7 as a trap frame holds them (Table 18.5). -/
def State.trapRegs (s : State) (ctx addr : Nat) : List Word × BitVec 8 :=
  ((List.range 31).map (fun i => BitVec.ofNat 64 ((s.peek ctx (addr + 0x40 + 8 * i) 8).getD 0)),
    BitVec.ofNat 8 ((s.peek ctx (addr + 0x138) 1).getD 0) &&& 0xFE#8)

/-- What walked into a translation fault is to walk again (R329). -/
def State.walkAgain (s : State) (p : Park) : State := match p.again with | some a => s.dropPage p.ctx a | none => s

/-- PARKRES (R186, R348). A block that has stopped being live meanwhile is handed to hardware again with its record (R308). -/
def execSParkres (a : BitVec 5) (s : State) : Out :=
  let i := Instr.sParkres a
  s.onPark i a (fun p =>
    let at_ := p.addr.toNat
    match p.kind with
    | .report => s.trapAt i Cause.parkState
    | .frame pk f _ =>
      if s.parkLost pk f then s.trapAt i Cause.parkState
      else
        let s := (s.setParkState p.ctx at_ 2).walkAgain p
        .next (({ s with parks := s.parks.erase p }).resumeFrame pk f).adv
    | .trap r addr pc h =>
      match s.walkOwn p.ctx at_ false with
      | .error e => .next (s.trapErr i (errOf e false) at_)
      | .ok _ =>
        let (regs, preds) := s.trapRegs p.ctx at_
        match s.makeLive p.ctx (recCbix r) with
        | .error c => s.trapAt i c
        | .ok s => .next ((((s.freePark p).walkAgain p).enqueue p.ctx (recSet r 143 128 0) addr h (some ⟨pc, regs, preds⟩) []).adv))

/-- PARKKILL (R186, R348); of a frame of a saved plane, its effect but for STATE waits for the swap-in (R318, R356). -/
def execSParkkill (a : BitVec 5) (s : State) : Out :=
  let i := Instr.sParkkill a
  s.onPark i a (fun p =>
    match p.kind with
    | .frame pk f g =>
      let s := s.setParkState p.ctx p.addr.toNat 3
      let s : State := { s with parks := s.parks.erase p }
      .next (if s.planes.has pk then s.killFrame pk f
        else { s with saved := s.saved.map (fun (v : Saved) => if v.key = pk then { v with kills := v.kills ++ [(f, g)] } else v) }).adv
    | _ => .next (s.freePark p).adv)

end Sys2Proof.Machine
end

