-- ==== Sys2Proof/Machine/EvFabric.lean ====
section
/-! DEFINITION. Events of the fabric: tokens, overflow, iteration sources, frames, splices, shifts, barriers and the draw
watchdog (R16, R18 to R21, R24, R34, R35, R37, R101, R228, R240, R245, R280, R354). An event that is not enabled leaves the
machine as it is. -/

namespace Sys2Proof.Machine

open Sys2Proof

/-- QUIET_SKIP at the site that the element has selected (R245). -/
def execEQuietSkip (s : State) : Out :=
  let t := s.site
  let n := Decode.nodeBody ((s.plane t.plane).word t.plane t.elem t.node)
  match s.ready n with
  | none => .next s
  | some a => match s.skipResult a with
    | none => .next s
    | some (v, m, k) => .next ((s.takeOperands a).sendBoth a.pk a.e n a.f a.fr.gen ⟨v, m, k⟩)

/-! Token arrival (R16, R24, R354). -/

/-- The die's parity log and bad-node table take a failure (R354, Tables 18.15 and 18.17). -/
def State.parityLog (s : State) (die e pp frame lanes : Nat) (tag : Bool) : State :=
  let part := s.partOfDie die
  let old := (s.csr part (0x0010 + die)).toNat
  let ks := List.range 16
  let bad (k : Nat) : Nat := (s.csr part (0x0040 + 16 * die + k)).toNat
  let named := ks.find? (fun k => bit (bad k) 0 && bits (bad k) 15 10 = e % 64 && bits (bad k) 9 4 = e / 64)
  let free := ks.find? (fun k => !bit (bad k) 0)
  let c := bits old 63 48
  let w : Nat := (if c = 65535 then c else c + 1) * 2 ^ 48 + b2n (bit old 47 || (named.isNone && free.isNone)) * 2 ^ 47 + pp * 2 ^ 40 +
    b2n tag * 2 ^ 39 + e % 64 * 2 ^ 33 + e / 64 * 2 ^ 27 + lanes * 2 ^ 11 + (if tag then 0 else frame) * 2 + 1
  let s := s.setCsr part (0x0010 + die) (BitVec.ofNat 64 w)
  let s := match named, free with
    | some k, _ =>
      let h := bits (bad k) 31 16
      s.setCsr part (0x0040 + 16 * die + k) (BitVec.ofNat 64 ((if h = 65535 then h else h + 1) * 2 ^ 16 + bad k % 2 ^ 16 / 4 * 4 + 3))
    | none, some k => s.setCsr part (0x0040 + 16 * die + k) (BitVec.ofNat 64 (2 ^ 16 + e % 64 * 2 ^ 10 + e / 64 * 2 ^ 4 + 3))
    | none, none => s
  s.pend part 3

/-- A frame loses a token: it is parked with LOST set (R354). -/
def State.loseToken (s : State) (pk f : Nat) (r : FaultRec) : State := (s.markLost pk f).park pk f { r with lost := true }

/-- The element whose receiver checks a token that fails its parity: on a route, one of those that its hops may cross, which is free
(R16, R28, log 120). -/
def State.receiver (s : State) (x : Flight) : Nat × State :=
  if x.src / 2 ^ 20 ≠ x.plane ∨ x.src % 256 = 0 then (x.elem, s)
  else
    let a := x.src / 256 % 4096
    let k (i n : Nat) : Nat := (Config.freeByte (s.draws + i)).toNat % (n + 1)
    let go (p q i : Nat) : Nat := if q ≤ p then p - k i (p - q) else p + k i (q - p)
    let e := 64 * go (a / 64) (x.elem / 64) 0 + go (a % 64) (x.elem % 64) 1
    (if e = a then x.elem else e, { s with draws := s.draws + 2 })

/-- A token whose parity check fails at an element (R16, R354): withdrawn, and its frame parked; every frame of the plane when the
tag failed. -/
def State.parityFail (s : State) (x : Flight) (e lanes : Nat) (tag : Bool) : State :=
  let pk := x.plane; let f := tagFrame x.tag; let node := if tag then 0 else tagNode x.tag
  let s := s.parityLog (pkDie pk) e (pkPp pk) f lanes tag
  let info := b2n tag + 2 * b2n (lanes ≠ 0) + 4 * lanes
  let r (s : State) (g : Nat) : FaultRec := s.frameRec pk e node g Cause.tokenParity 0 info 0
  if tag then ((s.plane pk).frames.map Prod.fst).foldl (fun s g => s.loseToken pk g (r s g)) s
  else match (s.plane pk).frame? f with
    | some fr => if fr.gen = tagGen x.tag then s.loseToken pk f (r s f) else s
    | none => s

/-- TOKEN_ARRIVAL (R24): at the end of an fc, the token that has covered its hops, behind no other token of its link (R28). One of a
plane that is gone is stale (R20). A reserved kind is taken as a failure of the tag, which holds it (R14, log 121). -/
def execETokenArrival (i : Nat) (s : State) : Out :=
  match s.flights[i]? with
  | none => .next s
  | some x =>
    if s.fc < x.due ∨ (s.flights.take i).any (fun y => y.src = x.src) then .next s
    else
      let s1 := { s with flights := s.flights.eraseIdx i }
      if !s.planes.has x.plane then (if s.saved.any (fun v => v.key = x.plane) then .next s else .next (s1.staleDrop x.plane))
      else
        let d := (parityOf x.pay x.tag ^^^ x.par).toNat
        if d = 0 ∧ tagKind x.tag < 12 then .next (s1.land x.plane x.elem x.tag x.pay)
        else if d = 0 then .next (s1.parityFail x x.elem 0 true)
        else
          let (e, s2) := s1.receiver x
          .next (s2.parityFail x e (d % 2 ^ 16) (2 ^ 16 ≤ d))

/-- OVERFLOW_RETURN (R37): the oldest spilled token of an element returns while the buffer has room, or its frame has a group, into
which it goes at once (R18). -/
def execEOverflowReturn (plane x y : Nat) (s : State) : Out :=
  let e := 64 * y + x; let p := s.plane plane
  match p.ovf.find? (fun w => w.elem = e && w.mem) with
  | none => .next s
  | some o =>
    if 64 ≤ (s.bufferOf (pkDie plane) e).length ∧ !p.groups.contains (e, tagFrame o.tag) then .next s
    else .next ((s.setPlane plane { p with ovf := p.ovf.map (fun w => if w = o then { w with mem := false } else w) }).rebind plane e)

/-! Iteration sources (R32, R34, R43, R320). -/

/-- Frames of a source: those it drew, and the passes of LOOP that succeed them (R33). -/
def Plane.sourceFrames (p : Plane) : Nat := (p.frames.filter (fun (_, f) => f.src ≠ .spawn)).length

/-- The window of a plane's source (R320). -/
def State.window (s : State) (p : Plane) : Nat :=
  min (Csr.fld (s.csr (s.partOfCtx p.ctx) 0x0101) 10 0) (s.block p.ctx p.cbix).frames

/-- Sends a TRIG token to every ENTRY node of a plane (R32, R207). -/
def State.trigger (s : State) (pk f gen : Nat) : State :=
  ((s.plane pk).placed pk).foldl (fun s (e, i, w) =>
    if wOpc w = 0x65 then s.post pk e (2 ^ 42 + pk) 1 f gen i 0 2 ⟨0#512, 0xFFFF#16, 0#4⟩ else s) s

/-- ITER_DRAW (R34): at most one frame in an fc. -/
def execEIterDraw (plane : Nat) (s : State) : Out :=
  let p := s.plane plane
  match p.iter with
  | none => .next s
  | some t =>
    if !s.planes.has plane ∨ p.state ≠ .active ∨ p.frozen ∨ p.swap = 2 ∨ !t.running ∨ t.complete ∨ t.n0 * t.n1 * t.n2 ≤ t.next ∨
      t.drawn = s.fc + 1 ∨ (s.freeIds plane).length ≤ p.minfr ∨ s.window p ≤ p.sourceFrames then .next s
    else match s.draw plane (fun gen order => newFrame gen t.next order .iter t.horizon none) with
      | none => .next s
      | some (f, s) =>
        let p := s.plane plane
        let s := s.setPlane plane { p with iter := some { t with next := t.next + 1, drawn := s.fc + 1 } }
        .next (s.trigger plane f (p.gen f))

/-! Frames (R19, R21, R32, R94, R102). -/

/-- Requests of opcodes whose answer a frame need not await to retire: engine waits and sampler requests. -/
def asyncOpc (o : Nat) : Bool := o = 0x97 || o = 0xB3 || o = 0xB5

/-- A frame may retire: its part has ended in every copy, it is not parked, and what it has issued is performed (R32, R94). -/
def State.mayRetire (s : State) (pk f : Nat) (fr : Frame) : Bool :=
  let p := s.plane pk
  !fr.parked && p.copies.all (fun c => fr.ended.contains c) &&
  !s.reqs.any (fun (_, q) => q.plane = pk && q.frame = f && q.gen = fr.gen && !asyncOpc q.opc) &&
  !s.sends.any (fun (_, x) => match x.iss.frame with
    | some (a, _, _, b, g) => a = pk && b = f && g = fr.gen
    | none => false) &&
  !s.parking.any (fun k => k.plane = pk && k.frame = f && k.gen = fr.gen)

/-- A frame retires (R18 to R21, R102). -/
def State.retire (s : State) (pk f : Nat) (fr : Frame) : State :=
  let p := s.plane pk
  let leak := s.holdsLock pk f fr.gen
  let s := s.dropLocks pk f fr.gen
  let s := { s with keeps := s.keeps.filter (fun k => !(k.plane = pk && k.frame = f && k.gen = fr.gen)) }
  let s := s.setPlane pk ({ p with retired := (f, fr.gen) :: p.retired.filter (· ≠ (f, fr.gen)) }.mergeFlags fr)
  let s := (s.dropHits pk f fr.gen).endFrame pk f
  let s := (s.setPlane pk (s.plane pk).drained).rebindAll pk
  if leak then s.report { s.frameRec pk 0 0 f Cause.lockLeak 0 0 0 with gen := fr.gen, itix := fr.itix } else s

/-- FRAME_RETIRE (R19). -/
def execEFrameRetire (plane frame : Nat) (s : State) : Out :=
  match (s.plane plane).frame? frame with
  | none => .next s
  | some fr => .next (if s.mayRetire plane frame fr then s.retire plane frame fr else s)

/-- Identifiers of a plane whose hold is over. -/
def Plane.expireHolds (p : Plane) (fc : Nat) : Plane := { p with holds := p.holds.filter (fun x => fc < x.2) }

/-- IDENTIFIER_HOLD_EXPIRY (R19): of every identifier whose 128 fc are over. -/
def execEIdentifierHoldExpiry (s : State) : Out := .next { s with planes := s.planes.map (fun (k, p) => (k, p.expireHolds s.fc)) }

/-- The last frame of a plane's ITER has retired, or its source has stopped and no frame is left (R34, R168). -/
def Plane.iterOver (p : Plane) : Bool :=
  match p.iter with
  | some t => (!t.running || t.n0 * t.n1 * t.n2 ≤ t.next) && p.sourceFrames = 0
  | none => true

/-- ITER_COMPLETE (R34, R101, R164): with every accepted contribution applied. -/
def execEIterComplete (plane : Nat) (s : State) : Out :=
  let p := s.plane plane
  match p.iter with
  | none => .next s
  | some t =>
    if t.complete ∨ !p.iterOver ∨ s.contribs.any (fun (_, c) => c.plane = plane) then .next s
    else
      let mine (a : Arm) : Bool := a.kind = .iter plane
      let s := s.setPlane plane { p with iter := some { t with running := false, complete := true } }
      .next { s with trig := s.trig ++ s.arms.filter mine, arms := s.arms.filter (fun a => !mine a) }

/-! Splices (R35). -/

/-- Routes of a plane that lead into an element: the element they leave, and their hops. -/
def Plane.routesInto (p : Plane) (pk e : Nat) : List (Nat × Nat) :=
  p.copies.flatMap (fun c => p.routes.filterMap (fun (k, r) =>
    let a := p.elemIn pk c (k / 256)
    let dx := sbyte (bits r.toNat 7 0); let dy := sbyte (bits r.toNat 15 8)
    if ((a : Int) + dx + 64 * dy).toNat = e then some (a, dx.natAbs + dy.natAbs) else none))

/-- WAVE_SEND (R35): the predecessor's last token has left the element, since no frame of the predecessor is live and no
token of it is on its way. -/
def execEWaveSend (plane x y : Nat) (s : State) : Out :=
  let e := 64 * y + x; let p := s.plane plane
  match p.pred with
  | none => .next s
  | some qk =>
    let q := s.plane qk
    if p.waves.any (fun w => w.1 = e) ∨ !(p.elems plane).contains e ∨ q.frames ≠ [] ∨ s.flights.any (fun f => f.plane = qk) then .next s
    else .next (s.setPlane plane { p with waves := p.waves ++ [(e, s.fc)] })

/-- ELEMENT_SWITCH (R35): WAVE has arrived on every incoming route, and no predecessor frame holds a group here. The splice is over
once every element has switched and every contribution of the predecessor is performed (R101). -/
def execEElementSwitch (plane x y : Nat) (s : State) : Out :=
  let e := 64 * y + x; let p := s.plane plane
  match p.pred with
  | none => .next s
  | some qk =>
    let q := s.plane qk
    let arrived (r : Nat × Nat) : Bool := p.waves.any (fun w => w.1 = r.1 && w.2 + r.2 ≤ s.fc)
    let stays : Bool := !p.switched.contains e && (!(p.elems plane).contains e || q.groups.any (fun g => g.1 = e) ||
      (s.planes.has qk && !(q.routesInto qk e).all arrived))
    if stays then .next s
    else
      let sw := if p.switched.contains e then p.switched else p.switched ++ [e]
      .next (s.setPlane plane (if (p.elems plane).all sw.contains && s.contribs.all (fun (_, c) => c.plane ≠ qk) then
          { p with pred := none, switched := [], waves := [] }
        else { p with switched := sw }))

/-! Shifts and barriers (R228, R237, R240). -/

/-- A plane's lane group i arrives, if it is due; a stale one is dropped and counted (R20, R240). -/
def State.groupArrives (s : State) (pk i : Nat) : State :=
  let p := s.plane pk
  match p.groupsIn[i]? with
  | none => s
  | some g =>
    let live : Bool := match p.frame? g.frame with | some f => f.gen = g.gen | none => false
    if g.here ∨ s.fc < g.due then s
    else if live then s.setPlane pk { p with groupsIn := p.groupsIn.set i { g with here := true } }
    else (s.setPlane pk { p with groupsIn := p.groupsIn.eraseIdx i }).staleDrop pk

/-- Finds the i-th lane group over all planes, in key order. -/
def locateGroup : Map Plane → Nat → Option (Nat × Nat)
  | [], _ => none
  | (k, p) :: t, i => if i < p.groupsIn.length then some (k, i) else locateGroup t (i - p.groupsIn.length)

/-- SHIFT_LANE_ARRIVAL (R240). -/
def execEShiftLaneArrival (i : Nat) (s : State) : Out :=
  match locateGroup s.planes i with
  | none => .next s
  | some (pk, j) => .next (s.groupArrives pk j)

/-- SHIFT_COMPLETE (R237, R240): the write waits for the end of the fc, and L is sent. -/
def execEShiftComplete (plane x y node frame : Nat) (s : State) : Out :=
  let e := 64 * y + x; let p := s.plane plane
  match p.shifts.find? (fun h => h.elem = e && h.node = node && h.frame = frame), p.frame? frame with
  | some h, some fr =>
    let n := Decode.nodeBody (p.word plane e node)
    if fr.gen ≠ h.gen ∨ fr.parked ∨ p.frozen ∨ s.fc ≤ h.at_ then .next s
    else match p.shiftValue plane h n with
      | none => .next s
      | some v =>
        let used (g : LaneGroup) : Bool := g.here && g.elem = e && g.node = node && g.frame = frame && g.gen = h.gen
        let s := s.setPlane plane { p with
          shifts := p.shifts.erase h
          groupsIn := p.groupsIn.filter (fun g => !used g)
          pendShift := p.pendShift ++ [(node, .wreg (32 * e + h.reg) v)] }
        .next (s.sendBoth plane e n frame fr.gen h.l.data)
  | _, _ => .next s

/-- Every copy that arrived at a barrier whose time has come sends its L, as an acquire (R228); on a plane that is on its way out, at
its return (R321). -/
def State.exitBar (s : State) (pk : Nat) (b : Bar) : State :=
  let p := s.plane pk
  let passed : Bool := match b.exit with | some t => t ≤ s.fc | none => false
  match p.frame? b.frame with
  | none => s
  | some fr =>
    if !passed ∨ p.leaving then s
    else (b.arrived.foldl (fun s (_, e, l) =>
      (s.acquireTop (s.frameIss pk e b.node b.frame fr.gen)).sendBoth pk e (Decode.nodeBody (p.word pk e b.node)) b.frame fr.gen l.data)
      (s.setPlane pk { p with bars := p.bars.erase b }))

/-- BARRIER_EXIT (R228): of every barrier whose copies have all arrived, 2 fc after, and H more between copies. -/
def execEBarrierExit (s : State) : Out :=
  .next (s.planes.foldl (fun s (pk, p) => p.bars.foldl (fun s b => s.exitBar pk b) s) s)

/-! The draw watchdog (R280). -/

/-- Frees element data that no plane of its owner needs any more (R316). -/
def State.freeData (s : State) : State :=
  { s with edOwner := s.edOwner.filter (fun (k, c) =>
      s.planes.any (fun (pk, p) => pkDie pk = k / 4096 && p.ctx = c && (p.elems pk).contains (k % 4096))) }

/-- A plane leaves its region (R166, R280, R318): its messages return to their engine, its tokens on their way are stale. -/
def State.dropPlane (s : State) (pk : Nat) : State :=
  let p := s.plane pk
  let s := s.returnCmsg p
  let b := s.block p.ctx p.cbix
  { s with
    planes := s.planes.del pk
    flights := s.flights.filter (fun f => f.plane ≠ pk)
    contribs := s.contribs.filter (fun (_, c) => c.plane ≠ pk)
    windows := s.windows.filter (fun (_, w) => w.plane ≠ pk)
    blocks := if s.blocks.has (blockKey p.ctx p.cbix) then
        s.blocks.put (blockKey p.ctx p.cbix) { b with binds := b.binds.filter (fun x => x.2 ≠ pk) }
      else s.blocks }

/-- Kills every frame of a plane, with its records' STATE 11 (Table 18.7). -/
def State.killPlane (s : State) (pk : Nat) : State :=
  let fs := (s.plane pk).frames.map Prod.fst
  let mine (k : Park) : Bool := match k.kind with | .frame a _ _ => a = pk | _ => false
  let s := (s.parks.filter mine).foldl (fun s k => s.setParkState k.ctx k.addr.toNat 3) s
  fs.foldl (fun s f => s.killFrame pk f) s

/-- A watchdog reset of a context: every plane's frames are killed and every plane is freed (R280). -/
def State.resetContext (s : State) (ctx : Nat) : State :=
  let ks := (s.planes.filter (fun (_, p) => p.ctx = ctx)).map Prod.fst
  let s := ks.foldl (fun s k => (s.killPlane k).dropPlane k) s
  let sv := s.saved.filter (fun v => v.ctx = ctx)
  let s := sv.foldl (fun s v => s.withSaved v.key (fun s => s.killPlane v.key)) s
  { s with saved := s.saved.filter (fun v => v.ctx ≠ ctx) }.freeData

/-- A draw whose allowance has expired resets its context, and is reported (R280). -/
def State.watchdog (s : State) (plane : Nat) : State :=
  let p := s.plane plane
  match p.iter with
  | none => s
  | some t =>
    let a := s.eff p.ctx p.cbix 6 191 160
    if !p.midDraw ∨ a = 0 ∨ s.timer < t.start + a ∨ !s.planes.has plane then s
    else
      let r : FaultRec :=
        { cause := Cause.drawWatchdog, cbix := p.cbix, ctx := p.ctx, die := pkDie plane, pplane := pkPp plane, vplane := p.vp,
          region := regionCode (pkOx plane) (pkOy plane) p.w p.h }
      (s.resetContext p.ctx).report r

/-- DRAW_WATCHDOG (R280): of every plane whose draw has run past its allowance. -/
def execEDrawWatchdog (s : State) : Out := .next (s.planes.foldl (fun s (k, _) => s.watchdog k) s)

end Sys2Proof.Machine
end

