-- ==== Sys2Proof/Machine/EvMemory.lean ====
section
/-! DEFINITION. Events of memory ports, locks, watches and reductions (R85 to R108, R212 to R227, R255, R272, R327). An event
that is not enabled leaves the machine as it is. -/

namespace Sys2Proof.Machine

open Sys2Proof

/-! Requests in their turn (R93 to R95, R215). -/

/-- The frame of a request as an issuer. -/
def State.reqIss (s : State) (q : Req) : Issuer := s.frameIss q.plane q.elem q.node q.frame q.gen

/-- The copy that a request comes from. -/
def State.reqCopy (s : State) (q : Req) : Nat := (s.plane q.plane).copyOf q.plane q.elem

/-- The TLB of a request's port (R328). -/
def Req.tlb (q : Req) : Nat := 1000 + q.port

/-- Number m of a chain is performed or released for a frame in a copy (R93, R94). -/
def State.numDone (s : State) (pk f gen copy c m : Nat) : Bool :=
  let p := s.plane pk
  p.seqDone.contains (2 * f + (c - 1), copy, m) ||
  ((match p.frame? f with | some fr => p.copies.all (fun x => fr.ended.contains x) | none => true) &&
   !s.reqs.any (fun (_, q) => q.plane = pk && q.frame = f && q.gen = gen && q.body.seq.toNat = 64 * c + m && s.reqCopy q = copy))

/-- A request's turn on its chain (R93, R95). Chain 10 waits for every frame of a lower index. -/
def State.chainTurn (s : State) (q : Req) (itix : Nat) : Bool :=
  let p := s.plane q.plane; let sq := q.body.seq.toNat; let c := seqChain sq; let cp := s.reqCopy q
  c = 0 ||
  ((p.chainMap c).all (fun m => seqNum sq ≤ m || s.numDone q.plane q.frame q.gen cp c m) &&
   (c ≠ 2 || p.frames.all (fun (g, x) => !(x.src = .iter && x.itix < itix) ||
     (p.chainMap 2).all (fun m => s.numDone q.plane g x.gen cp 2 m))))

/-- The frame of a request is live. -/
def State.reqLive (s : State) (q : Req) : Bool :=
  match (s.plane q.plane).frame? q.frame with | some fr => fr.gen = q.gen | none => false

/-- A port may issue a request: its plane is resident, the accesses and contributions of a splice's predecessor are performed (R35,
R101), its turn has come, and no response of another module is waited for (R108). What a killed frame has left behind waits for no
turn (R186). -/
def State.mayIssue (s : State) (r : Nat) (q : Req) : Bool :=
  let p := s.plane q.plane
  q.stage = .queued && s.planes.has q.plane && !s.late.any (fun x => x.req = r && x.waits) &&
  (match p.pred with
    | some k => (match s.planeAny k with | some x => x.frames = [] | none => true) && s.contribs.all (fun (_, c) => c.plane ≠ k)
    | none => true) &&
  (match p.frame? q.frame with
    | some fr => fr.gen ≠ q.gen || s.chainTurn q fr.itix
    | none => true)

/-- A request that goes to a memory port. -/
def Req.toPort (q : Req) : Bool := q.opc ≠ 0xB3 && q.opc ≠ 0xB5

/-- MEMORY_REQUEST_ACCEPT (R93, R215): requests of one element to one port arrive in the order sent (R30). -/
def execEMemoryRequestAccept (r : Nat) (s : State) : Out :=
  match s.reqs.find r with
  | none => .next s
  | some q =>
    let earlier := s.reqs.any (fun (k, x) => k < r && x.stage = .sent && x.toPort && x.port = q.port && x.elem = q.elem &&
      pkDie x.plane = pkDie q.plane)
    if q.stage ≠ .sent ∨ !q.toPort ∨ earlier then .next s
    else
      let (o, s) := s.newId
      .next { s with reqs := s.reqs.put r { q with stage := .queued, ord := o } }

/-- A request is performed: its number is released, and its response, if it has one, leaves for both destinations (R215). -/
def State.finishReq (s : State) (r : Nat) (q : Req) (v : Option Operand) : State :=
  let s := { s with reqs := s.reqs.del r }
  let s := if s.reqLive q then s.markSeq q.plane q.frame (s.reqCopy q) q.body.seq.toNat else s
  match v with
  | none => s
  | some v => s.sendBoth q.plane q.elem q.body q.frame q.gen { v with kind := 5#4 }

/-- A request faults: it is held at its port, and its frame is parked with its sequence number and the lane words performed
(R216, R344, R349). The fault of a frame that has gone is dropped with its request (R353). -/
def State.reqFault (s : State) (r : Nat) (q : Req) (e : Err) (addr lanes : Nat) : State :=
  let live := s.reqLive q
  let s := { s with reqs := if live then s.reqs.put r { q with stage := .held } else s.reqs.del r }
  let f : FaultRec := { s.frameRec q.plane q.elem q.node q.frame e.cause addr e.info e.aux with
    done := lanes, seq := seqNum q.body.seq.toNat, chain := seqChain q.body.seq.toNat }
  if live then s.park q.plane q.frame f (1 + q.port % 128) else s

/-! Elements of a request. -/

/-- One access of a request: its bit, its lane words, its place, the address that a fault names, its width in bits, and the value
and expected value that it carries. -/
structure Elt where
  j : Nat
  lanes : List Nat
  loc : Loc
  raw : Nat
  w : Nat
  val : Nat := 0
  exp : Nat := 0
  deriving DecidableEq, Repr

/-- The place of element j of an address node (R212). -/
def eltPlace (n : NodeBody) (e : Nat) (l : Operand) (j : Nat) : Loc := ⟨NodeAsp n = 1, nodeAddr n e l j, 0⟩

/-- Elements of LD, ST, XCHG and VBUF. -/
def scalarElts (n : NodeBody) (data : Bool) (q : Req) : List Elt :=
  let fmt := n.fmt.toNat; let e := elemCount fmt (NodeAsp n); let w := NodeCheck.width fmt
  (liveElems n data q.l q.r q.p).map (fun j =>
    { j := j, lanes := dataLanes fmt e j, loc := eltPlace n e q.l j, raw := nodeRaw n e q.l j, w := w, val := unpacked q.r.val w e j })

/-- Operations of CAS, by the element 2k (R223). -/
def casElts (n : NodeBody) (q : Req) : List Elt :=
  let fmt := n.fmt.toNat; let e := elemCount fmt (NodeAsp n); let w := NodeCheck.width fmt
  ((liveElems n true q.l q.r q.p).filter (fun j => j % 2 = 0 && lanesLive q.r.mask (dataLanes fmt e (j + 1)))).map (fun j =>
    { j := j, lanes := dataLanes fmt e j ++ dataLanes fmt e (j + 1), loc := eltPlace n e q.l j, raw := nodeRaw n e q.l j, w := w,
      val := unpacked q.r.val w e (j + 1), exp := unpacked q.r.val w e j })

/-- Lane words of LDV and STV at element 0's address (R218). -/
def vectorElts (n : NodeBody) (data : Bool) (q : Req) : List Elt :=
  let asp := NodeAsp n; let e := if asp = 0 then 8 else 16
  let raw := nodeRaw n e q.l 0
  if !lanesLive q.l.mask (addrLanes asp e 0) then []
  else ((List.range 16).filter (fun i => !data || q.r.mask.getLsbD i)).map (fun i =>
    { j := i, lanes := [i], loc := ⟨asp = 1, (nodeAddr n e q.l 0).map (· + 4 * i), 0⟩, raw := raw + 4 * i, w := 32, val := lane q.r.val i })

/-- Indices of LDT and STT: lane words 0 to 3 of L (R255). -/
def tensorIndex (l : Operand) (i : Nat) : Nat := if l.mask.getLsbD i then lane l.val i else 0

/-- Element j of a segment lies inside the tensor. -/
def insideTid (t : Nat) (tr : Bool) (l : Operand) (j : Nat) : Bool :=
  let i (d : Nat) : Nat := tensorIndex l d + (if d = (if tr then 1 else 0) then j else 0)
  (List.range 4).all (fun d => i d < tidDim t d)

/-- Elements of LDT and STT: all that lie inside the tensor (R255). -/
def tensorElts (t : Nat) (q : Req) : List Elt :=
  let tr := bit q.body.operand.toNat 8; let w := tidWidth t
  let i (d : Nat) : Nat := tensorIndex q.l d
  ((List.range (512 / w)).filter (insideTid t tr q.l)).map (fun j =>
    let loc := if tr then tidElemAt t (i 0) (i 1 + j) (i 2) (i 3) else tidElemAt t (i 0 + j) (i 1) (i 2) (i 3)
    { j := j, lanes := if w = 64 then [2 * j, 2 * j + 1] else [w * j / 32], loc := loc, raw := loc.at_.getD 0, w := w, val := elem q.r.val w j })

/-- The identifier that an LDT or STT names, as it stands (R255). -/
def State.reqTid (s : State) (q : Req) : Nat := (s.tid (s.plane q.plane).ctx (q.body.operand.toNat % 256)).toNat

/-- A request's elements, in the order in which they are checked, or TID_INVALID or TID_SHAPE. -/
def State.elts (s : State) (q : Req) : Except Nat (List Elt) :=
  let n := q.body
  if q.opc = 0x80 then .ok (scalarElts n false q)
  else if q.opc = 0x81 ∨ q.opc = 0x94 ∨ q.opc = 0xB2 then .ok (scalarElts n true q)
  else if q.opc = 0x93 then .ok (casElts n q)
  else if q.opc = 0x82 then .ok (vectorElts n false q)
  else if q.opc = 0x83 then .ok (vectorElts n true q)
  else if q.opc = 0x89 ∨ q.opc = 0x8A then
    let t := s.reqTid q
    if !tidValid t then .error Cause.tidInvalid else if tidSp24 t then .error Cause.tidShape
    else .ok (tensorElts t q)
  else .ok []

/-- Whether a request's elements write. -/
def reqWrites (opc : Nat) : Bool := opc ∈ [0x81, 0x83, 0x8A, 0x93, 0x94, 0xB2]

/-- The alignment that an element needs, in bytes (R78). -/
def eltAlign (opc : Nat) (x : Elt) : Nat := if opc = 0x82 ∨ opc = 0x83 then 4 else x.w / 8

/-- The check of one element before any is performed (R216): ALIGN, ADDRESS_RANGE, translation, and ATOMIC_UNSUPPORTED for a
VBUF on host memory (R272). -/
def State.checkElt (s : State) (q : Req) (x : Elt) : State × Option Err :=
  let i := s.reqIss q
  let off := if q.opc = 0x82 ∨ q.opc = 0x83 then (x.raw - 4 * x.j) % 64 else if 16 ≤ x.w then x.raw % (x.w / 8) else 0
  if off ≠ 0 then (s, some ⟨Cause.align, 0, 0⟩)
  else match x.loc.at_ with
    | none => (s, some ⟨Cause.range, 0, 0⟩)
    | some a =>
      if x.loc.sp then (s, if 2 ^ 24 ≤ a then some ⟨Cause.range, 0, 0⟩ else none)
      else match s.translate q.tlb i.die i.ctx a (reqWrites q.opc) false i.priv with
        | (s, .error c) => (s, some (errOf c (reqWrites q.opc)))
        | (s, .ok t) => (s, if q.opc = 0xB2 ∧ target t.pa = .host then some ⟨Cause.atomicUnsupported, 0, 0⟩ else none)

/-- Checks elements in ascending order up to the first that fails: its error, and the address it names. -/
def State.checkElts (s : State) (q : Req) : List Elt → State × Option (Err × Nat)
  | [] => (s, none)
  | x :: l => match s.checkElt q x with
    | (s, some e) => (s, some (e, if q.opc = 0x82 ∨ q.opc = 0x83 then x.raw - 4 * x.j else x.raw))
    | (s, none) => s.checkElts q l

/-- One access of n bytes to a place for an issuer: through a translation, or in its die's scratchpad, which no race-watch
directory covers (R103, R106). -/
def State.portAccess (s : State) (tlb : Nat) (i : Issuer) (sp : Bool) (a n : Nat) (k : Acc) (upd : Nat → Option Nat) :
    State × Except Err Nat :=
  if !sp then s.access tlb i a n k upd
  else
    let pa := spAddr i.die a
    let old := s.natAt 0 pa n
    match upd old with
    | none => (s.ordered i pa n false k false, .ok old)
    | some v => match s.physWrite 0 pa (leBytes n v) with
      | (s, .ok _) => (s.ordered i pa n false k true, .ok old)
      | (s, .error c) => (s, .error ⟨c, 0, 0⟩)

/-- Performs one element at its home node: the value read (R215, R218, R223, R255, R272). -/
def State.performElt (s : State) (q : Req) (x : Elt) : State × Except Err Nat :=
  let i := s.reqIss q; let a := x.loc.at_.getD 0; let sp := x.loc.sp; let n := max 1 (x.w / 8)
  let rmw : Acc := { wr := true, atomic := true, acq := true, rel := true, scope := q.body.mod.toNat }
  if q.opc = 0x93 then s.portAccess q.tlb i sp a n rmw (fun old => some (if old = x.exp then x.val else old))
  else if q.opc = 0x94 then s.portAccess q.tlb i sp a n rmw (fun _ => some x.val)
  else if q.opc = 0xB2 then s.portAccess q.tlb i sp a n rmw (fun old => some (min old x.val))
  else if reqWrites q.opc then
    if 8 ≤ x.w then s.portAccess q.tlb i sp a n { wr := true } (fun _ => some x.val)
    else match s.portAccess q.tlb i sp a 1 {} (fun _ => none) with
      | (s, .error e) => (s, .error e)
      | (s, .ok b) =>
        let old := b / 2 ^ x.loc.bitn % 2 ^ x.w
        s.portAccess q.tlb i sp a 1 { wr := true } (fun _ => some (b - old * 2 ^ x.loc.bitn + x.val % 2 ^ x.w * 2 ^ x.loc.bitn))
  else match s.portAccess q.tlb i sp a n {} (fun _ => none) with
    | (s, .error e) => (s, .error e)
    | (s, .ok v) => (s, .ok (v / 2 ^ x.loc.bitn % 2 ^ x.w))

/-- Lane words of the elements that a request has performed (Table 18.2 DONE). -/
def doneLanes (q : Req) (l : List Elt) : Nat :=
  ((l.filter (fun x => bit q.done x.j)).flatMap (fun x => x.lanes)).foldl (fun m i => m ||| 2 ^ i) 0

/-- The end of the time-out of what a request issues now. -/
def State.reqDue (s : State) (r : Nat) : Nat := s.due (match s.reqs.find r with | some q => (s.reqIss q).die | none => 0)

/-- One element of request r, at another module's home (R107, R108): its answer, or none while its response is not there. What the
home has kept of an earlier attempt is received, and nothing is performed again. -/
def State.farElt (s : State) (r j : Nat) (f : State → State × Except Err Nat) : State × Option (Except Err Nat) :=
  match s.late.find? (fun x => x.req = r && x.elt = j && !x.waits) with
  | some x => ({ s with late := s.late.erase x }, some (.ok (x.val.getD 0)))
  | none => match s.farResponse with
    | (0, s) => let (s, v) := f s; (s, some v)
    | (1, s) => ({ s with late := s.late ++ [⟨r, j, none, s.reqDue r, true⟩] }, none)
    | (_, s) => match f s with
      | (s, .ok v) => ({ s with late := s.late ++ [⟨r, j, some v, s.reqDue r, true⟩] }, none)
      | (s, .error e) => (s, some (.error e))

/-- An element of a request lies in another module's memory. -/
def State.eltFar (s : State) (q : Req) (x : Elt) : Bool :=
  !x.loc.sp && (match x.loc.at_ with | some a => s.remoteVa q.tlb (s.reqIss q) a (reqWrites q.opc) | none => false)

/-- Performs a list of elements in order: the request with what it has read, whether a response is waited for, or the error and its
element. -/
def State.performElts (s : State) (r : Nat) (q : Req) : List Elt → State × Req × Bool × Option (Err × Nat)
  | [] => (s, q, false, none)
  | x :: l => match (if s.eltFar q x then s.farElt r x.j (fun s => s.performElt q x) else (let (s, v) := s.performElt q x; (s, some v))) with
    | (s, none) => (s, q, true, none)
    | (s, some (.error e)) => (s, q, false, some (e, x.raw))
    | (s, some (.ok v)) => s.performElts r { q with done := q.done ||| 2 ^ x.j, got := q.got ++ [(x.j, v)] } l

/-- The value that a request has read for an element. -/
def Req.read (q : Req) (j : Nat) : Nat := ((q.got.find? (fun x => x.1 = j)).map Prod.snd).getD 0

/-- The response of a request whose elements are performed (R215, R218, R223, R255). Stores have sent R's token already. An LDT moves
codes, so a ternary 0b10 raises no TV (DESIGN CHOICE, log 116). -/
def reqAnswer (q : Req) (t : Nat) (l : List Elt) : Option Operand :=
  let n := q.body; let fmt := n.fmt.toNat; let e := elemCount fmt (NodeAsp n); let w := NodeCheck.width fmt
  let live (j : Nat) : Bool := l.any (fun x => x.j = j)
  let elems (f : Nat → Nat × Bool) : Operand := let (v, m) := mkUnpacked fmt e ((List.range e).map f); ⟨zeroOff v m, m, 0#4⟩
  if q.opc = 0x80 ∨ q.opc = 0x94 ∨ q.opc = 0xB2 then some (elems (fun j => (q.read j, live j)))
  else if q.opc = 0x93 then some (elems (fun j =>
    let k := j / 2 * 2
    (if j = k then q.read k else if l.any (fun x => x.j = k && x.exp = q.read k) then 2 ^ w - 1 else 0, live k)))
  else if q.opc = 0x82 then some ⟨mkVec 32 ((List.range 16).map q.read), if l = [] then 0#16 else 0xFFFF#16, 0#4⟩
  else if q.opc = 0x89 then
    let b := tidWidth t
    let m := mkMask ((List.range 16).map (fun i => l.any (fun x => x.lanes.contains i)))
    some ⟨mkVec b ((List.range (512 / b)).map (fun j => if live j then q.read j else 0)), m, 0#4⟩
  else none

/-- The writes of an STV, whose lane words make whole aligned words of 8 bytes where both halves are live (R218, R365). -/
def pairWords : List Elt → List Elt
  | x :: y :: l =>
    if x.loc.at_.getD 1 % 8 = 0 ∧ y.j = x.j + 1 then { x with lanes := x.lanes ++ y.lanes, w := 64, val := x.val + 2 ^ 32 * y.val } :: pairWords l
    else x :: pairWords (y :: l)
  | l => l

/-- What is performed of the elements checked: of an STT those whose lane word is live (R255), of an STV in whole words where it
can be (R365). -/
def toPerform (q : Req) (l : List Elt) : List Elt :=
  if q.opc = 0x8A then l.filter (fun x => elemLive q.r.mask x.w x.j)
  else if q.opc = 0x83 then pairWords l
  else l

/-- Issues a load, store, tensor access or atomic (R216): every element is checked, then those not performed yet are
performed. -/
def State.issueAccess (s : State) (r : Nat) (q : Req) : State :=
  match s.elts q with
  | .error c => s.reqFault r q ⟨c, 0, 0⟩ 0 0
  | .ok l =>
    let todo := l.filter (fun x => !bit q.done x.j)
    let what := toPerform q l
    match s.checkElts q todo with
    | (s, some (e, a)) => s.reqFault r q e a (doneLanes q what)
    | (s, none) => match s.performElts r q (what.filter (fun x => !bit q.done x.j)) with
      | (s, q, true, _) => { s with reqs := s.reqs.put r q }
      | (s, q, false, some (e, a)) => s.reqFault r q e a (doneLanes q what)
      | (s, q, false, none) => s.finishReq r q (reqAnswer q (s.reqTid q) l)

/-! Locks (R102, R224). -/

/-- The lowest live element of a LOCK or UNLOCK. -/
def lockElem (q : Req) : Option Nat := (liveElems q.body false q.l q.r q.p).head?

/-- The number of the bank that homes an address, or none in host memory and where there is no memory. -/
def homeBank (pa : Nat) : Option Nat :=
  match target pa with
  | .hbm k => some k
  | .cistern c => some (1000 + 64 * c + (cisternPlace pa).2.1)
  | .scratch d => some (20000 + 64 * d + pa / 8 % 64)
  | .remote m => some (100000 + m)
  | .host => none
  | .hole => none

/-- The token of an address (R102). -/
def lockToken (pa : Nat) : Option Nat := (homeBank pa).map (fun b => 256 * b + (bits pa 13 6 ^^^ bits pa 21 14))

/-- Physical address and watch bit of a lock's address, or its error with the address that the record names. -/
def State.lockPlace (s : State) (q : Req) (j : Nat) : State × Except (Err × Nat) (Nat × Bool) :=
  let n := q.body; let e := elemCount n.fmt.toNat (NodeAsp n); let i := s.reqIss q; let raw := nodeRaw n e q.l j
  match nodeAddr n e q.l j with
  | none => (s, .error (⟨Cause.range, 0, 0⟩, raw))
  | some a =>
    if NodeAsp n = 1 then (s, .ok (spAddr i.die a, false))
    else match s.translate q.tlb i.die i.ctx a false false i.priv with
      | (s, .error c) => (s, .error (errOf c false, raw))
      | (s, .ok t) => (s, .ok (t.pa, t.watch))

/-- What becomes of the response to a request at an address's home: at once, unless it is in another module (R108). -/
def State.farAnswer (s : State) (pa : Nat) : Nat × State := if isRemote pa then s.farResponse else (0, s)

/-- Another module's home has kept what it did for a request (R108). -/
def State.keptFor (s : State) (r : Nat) : Bool := s.late.any (fun x => x.req = r && !x.waits && x.val.isSome)

/-- That is received, and forgotten. -/
def State.forget (s : State) (r : Nat) : State := { s with late := s.late.filter (fun x => x.req ≠ r) }

/-- The response of a LOCK or UNLOCK, performed or not, is waited for. -/
def State.await (s : State) (r : Nat) (performed : Bool) : State :=
  { s with late := s.late ++ [⟨r, 0, if performed then some 0 else none, s.reqDue r, true⟩] }

/-- A LOCK joins its token's FIFO; the token is granted at once when it is free. One that is issued again takes up what its first
attempt has come to at another module's home (R108). -/
def State.issueLock (s : State) (r : Nat) (q : Req) : State :=
  match lockElem q with
  | none => s.finishReq r q (some q.l)
  | some j => match s.lockPlace q j with
    | (s, .error (e, a)) => s.reqFault r q e a 0
    | (s, .ok (pa, _)) => match lockToken pa with
      | none => s.reqFault r q ⟨Cause.atomicUnsupported, 0, 0⟩ (nodeRaw q.body (elemCount q.body.fmt.toNat (NodeAsp q.body)) q.l j) 0
      | some k =>
        let t := s.tokens.get k ⟨none, []⟩; let me := some (q.plane, q.frame, q.gen)
        if t.holder = me then
          (if s.keptFor r then { s.forget r with reqs := s.reqs.put r { q with stage := .done } }
           else s.reqFault r q ⟨Cause.lockReentry, 0, 0⟩ 0 0)
        else if t.fifo.contains r then { s.forget r with reqs := s.reqs.put r { q with stage := .waiting, at_ := s.reqDue r } }
        else match s.farAnswer pa with
          | (1, s) => s.await r false
          | (a, s) =>
            if t.holder.isSome then
              { s with tokens := s.tokens.put k { t with fifo := t.fifo ++ [r] }, reqs := s.reqs.put r { q with stage := .waiting, at_ := s.reqDue r } }
            else
              let s := { s with tokens := s.tokens.put k ⟨me, []⟩ }
              if a = 0 then { s with reqs := s.reqs.put r { q with stage := .done } } else s.await r true

/-- An UNLOCK releases at its scope and returns the token; one that another module's home has performed is finished by what it kept. -/
def State.issueUnlock (s : State) (r : Nat) (q : Req) : State :=
  match (if s.keptFor r then none else lockElem q) with
  | none => (s.forget r).finishReq r q (some q.l)
  | some j => match s.lockPlace q j with
    | (s, .error (e, a)) => s.reqFault r q e a 0
    | (s, .ok (pa, w)) => match (lockToken pa).bind (fun k => (s.tokens.find k).map (fun t => (k, t))) with
      | none => s.reqFault r q ⟨Cause.lockState, 0, 0⟩ 0 0
      | some (k, t) =>
        if t.holder ≠ some (q.plane, q.frame, q.gen) then s.reqFault r q ⟨Cause.lockState, 0, 0⟩ 0 0
        else match s.farAnswer pa with
          | (1, s) => s.await r false
          | (a, s) =>
            let s := (s.ordered (s.reqIss q) pa 1 w { rel := true, scope := q.body.mod.toNat } false).grantNext k t.fifo
            if a = 0 then s.finishReq r q (some q.l) else s.await r true

/-! Waits that are over. -/

/-- The physical address of a WAITW's word. -/
def waitAddr (s : State) (q : Req) (off : Nat) : Nat := spAddr (s.reqIss q).die off

/-- What the acquire of a request that wakes adds to its frame's horizon (R104). -/
def State.wakeAcquire (s : State) (q : Req) : State :=
  let i := s.reqIss q
  if q.opc = 0x88 then match s.landed.find q.done with
    | some (k, n) => s.timelinePair i k n
    | none => s.acquireTop i
  else if q.opc = 0x97 then s.timelinePair i (s.tlwKey q) q.done
  else match lockElem q with
    | none => s.acquireTop i
    | some j => match s.lockPlace q j with
      | (_, .error _) => s.acquireTop i
      | (s, .ok (pa, w)) => s.ordered i pa 1 w { acq := true, scope := q.body.mod.toNat } false

/-- WAITW, LOCK and TLW requests whose wait is over wake their frames, on resident planes that are not on
their way out, where a woken frame is saved as woken (R99, R102, R221, R224, R229, R321). -/
def State.wakeReqs (s : State) : State :=
  (s.reqs.filter (fun (_, q) => q.stage = .done && s.planes.has q.plane && !(s.plane q.plane).leaving)).foldl (fun s (r, q) => (s.wakeAcquire q).finishReq r q (some q.l)) s

/-! Contributions and requests that only wait. -/

/-- Whether a request still has contributions that its tree has not accepted. -/
def State.unaccepted (s : State) (r : Nat) : Bool := s.contribs.any (fun (_, c) => c.req = r && !c.accepted)

/-- Issues a request in its turn: what it does at its port. -/
def State.issue (s : State) (r : Nat) (q : Req) : State :=
  if q.opc = 0x86 then s.finishReq r q none
  else if q.opc = 0x95 then (((s.releaseGen (s.reqIss q)).acquireTop (s.reqIss q)).finishReq r q (some q.l))
  else if q.opc = 0x90 ∨ q.opc = 0xB4 then (if s.unaccepted r then s else s.finishReq r q none)
  else if q.opc = 0x91 then s.issueLock r q
  else if q.opc = 0x92 then s.issueUnlock r q
  else if q.opc ∈ [0x80, 0x81, 0x82, 0x83, 0x89, 0x8A, 0x93, 0x94, 0xB2] then s.issueAccess r q
  else s

/-- MEMORY_ACCESS_PERFORM (R93, R215, R216). An unchained FENCE has nothing before it in dependency order that is not performed,
since what leads to it is a response (R222). -/
def execEMemoryAccessPerform (r : Nat) (s : State) : Out :=
  match s.reqs.find r with
  | none => .next s
  | some q => .next (if s.mayIssue r q then (s.issue r q).wakeReqs else s)

/-- WATCH_ADMISSION (R99, R221): FIFO among the requests of a bank, while its list holds fewer than 64. -/
def execEWatchAdmission (r : Nat) (s : State) : Out :=
  match s.reqs.find r with
  | none => .next s
  | some q =>
    if q.opc ≠ 0x88 ∨ !s.mayIssue r q then .next s
    else match (List.range 16).find? (fun i => q.l.mask.getLsbD i) with
      | none => .next (s.finishReq r q (some q.l))
      | some i =>
        let off := lane q.l.val i
        if off % 4 ≠ 0 then .next (s.reqFault r q ⟨Cause.align, 0, 0⟩ off 0)
        else if 2 ^ 24 ≤ off then .next (s.reqFault r q ⟨Cause.range, 0, 0⟩ off 0)
        else
          let pa := waitAddr s q off; let die := (s.reqIss q).die
          let bank (x : Nat) : Nat := 64 * die + x / 8 % 64
          let onList := (s.reqs.filter (fun (_, x) => x.opc = 0x88 && x.stage = .waiting && (s.reqIss x).die = die && bank x.done = bank pa)).length
          let ahead := s.reqs.any (fun (k, x) => k ≠ r && x.opc = 0x88 && s.mayIssue k x && x.ord < q.ord && (s.reqIss x).die = die &&
            (match (List.range 16).find? (fun j => x.l.mask.getLsbD j) with
              | some j => lane x.l.val j / 8 % 64 = off / 8 % 64
              | none => false))
          if 64 ≤ onList ∨ ahead then .next s
          else if s.natAt 0 pa 4 = q.body.operand.toNat then .next { s with reqs := s.reqs.put r { q with stage := .done, done := pa } }.wakeReqs
          else .next { s with reqs := s.reqs.put r { q with stage := .waiting, done := pa } }

/-- The address that a record names for element j of a request. -/
def State.eltRaw (s : State) (q : Req) (j : Nat) : Nat :=
  match lockElem q, s.elts q with
  | some i, .ok [] => nodeRaw q.body (elemCount q.body.fmt.toNat (NodeAsp q.body)) q.l i
  | _, .ok l => ((l.find? (fun x => x.j = j)).map (fun x => x.raw)).getD 0
  | _, .error _ => 0

/-- The elements that a request has performed, as DONE gives them. -/
def State.reqDone (s : State) (q : Req) : Nat := match s.elts q with | .ok l => doneLanes q (toPerform q l) | .error _ => 0

/-- A LOCK waits for a token of another module. -/
def State.lockFar (s : State) (q : Req) : Bool :=
  q.opc = 0x91 && q.stage = .waiting && (match lockElem q with
    | some j => (match (s.lockPlace q j).2 with | .ok (pa, _) => isRemote pa | .error _ => false)
    | none => false)

/-- A request to another module has had no response within the time-out in force at its issue (R108, R349, R374): its frame is
parked, and the home keeps what it has performed for the request, for as long again. -/
def State.reqTimeout (s : State) (r : Nat) (q : Req) : State :=
  let past (t : Nat) : Bool := s.planes.has q.plane && t ≤ s.fc
  let keep := s.reqDue r
  let fault (s : State) (j : Nat) : State := s.reqFault r q ⟨Cause.memTimeout, 0, 0⟩ (s.eltRaw q j) (s.reqDone q)
  match s.late.find? (fun x => x.req = r && x.waits) with
  | some x =>
    if past x.at_ then
      fault { s with late := s.late.erase x ++ (if x.val.isSome then [{ x with at_ := keep, waits := false }] else []) } x.elt
    else s
  | none =>
    if s.lockFar q && past q.at_ then fault { s with late := s.late ++ [⟨r, 0, some 0, keep, false⟩] } 0 else s

/-- MEM_TIMEOUT_EXPIRY (R108, R374): of a request to another module, or of a send to another module's conversation. -/
def execEMemTimeoutExpiry (r : Nat) (s : State) : Out :=
  match s.reqs.find r, s.sends.find r with
  | some q, _ => .next (s.reqTimeout r q)
  | none, some x =>
    if x.held ∨ (convKey x.handle.toNat).isSome ∨ s.fc < x.due then .next s
    else .next (s.refuseSend r x ⟨Cause.memTimeout, 0, 0⟩ 0)
  | none, none => .next s

/-- KEPT_RESPONSE_EXPIRY (R108, R374): of every response that has been held for twice the time-out, here or for this module at
another one. -/
def execEKeptResponseExpiry (s : State) : Out :=
  .next { s with
    kept := s.kept.filter (fun (_, x) => s.fc < x.at_)
    late := s.late.filter (fun x => s.reqs.has x.req && (x.waits || s.fc < x.at_)) }

/-- The die whose second level a TLB shares. -/
def tlbDie (t : Nat) : Nat := if t < 256 then t / 64 else if t < 1000 then 4 else if t < 10000 then (t - 1000) / 128 else t - 10000

/-- PAGE_WALK (R327): a walk that fails leaves nothing; its fault is the access's own. -/
def execEPageWalk (tlb ctx : Nat) (va : BitVec 64) (wr fe priv : Bool) (s : State) : Out :=
  match s.translate tlb (tlbDie tlb) ctx va.toNat wr fe priv with
  | (s', .ok _) => .next s'
  | (_, .error _) => .next s

/-! Reductions (R101, R225 to R227, R303). -/

/-- An address of a contribution as windows name it. -/
def Contrib.place (c : Contrib) : Nat := c.va + (if c.sp then 2 ^ 60 else 0)

/-- The copy under which a tree node keeps its windows; the root serves every copy. -/
def windowCopy (at_ : Option Nat) (copy : Nat) : Nat := if at_.isNone then 0 else copy

/-- The window of a contribution where it stands. -/
def Contrib.window (c : Contrib) : Window :=
  { plane := c.plane, copy := windowCopy c.at_ c.copy, bind := c.bind, at_ := c.at_, va := c.place, blk := c.key.1 / 64 }

/-- Puts a contribution where it stands: a plain one goes on to the sole writer, an ordered one into its window. -/
def State.placeContrib (s : State) (id : Nat) (c : Contrib) : State :=
  let (o, s) := s.newId
  if !c.ord then { s with contribs := s.contribs.put id { c with accepted := true, ready := true, at_ := none, arr := o } }
  else
    let s := { s with contribs := s.contribs.put id { c with accepted := true, arr := o } }
    if s.windows.any (fun (_, w) => w = c.window) then s else { s with windows := s.windows.put o c.window }

/-- The root port's check of an element (R216, R227). -/
def State.rootCheck (s : State) (q : Req) (c : Contrib) : State × Option Err :=
  let i := s.reqIss q; let n := NodeCheck.width c.fmt / 8
  if c.va % n ≠ 0 then (s, some ⟨Cause.align, 0, 0⟩)
  else if (if c.sp then 2 ^ 24 else 2 ^ 57) ≤ c.va then (s, some ⟨Cause.range, 0, 0⟩)
  else if c.sp then (s, none)
  else match s.translate q.tlb i.die i.ctx c.va true false i.priv with
    | (s, .error e) => (s, some (errOf e true))
    | (s, .ok _) => (s, none)

/-- REDUCTION_ACCEPT (R227): the last acceptance performs the request for its frame. -/
def execEReductionAccept (c : Nat) (s : State) : Out :=
  match s.contribs.find c with
  | none => .next s
  | some x => match s.reqs.find x.req with
    | none => .next s
    | some q =>
      if x.accepted ∨ !s.mayIssue x.req q then .next s
      else match s.rootCheck q x with
        | (s, some e) => .next (s.reqFault x.req q e x.va 0)
        | (s, none) =>
          let s := s.placeContrib c x
          .next (if s.unaccepted x.req then s else s.finishReq x.req q none)

/-- The parent of a tree entry of a binding: none for the root port. -/
def Plane.treeParent (p : Plane) (b i : Nat) : Option Nat :=
  let first := bindByte b 4 + 256 * bindByte b 5
  let par := bits (p.tree.get (first + i) 0#32).toNat 23 16
  if par = 0xFF then none else some par

/-- Whether entry j lies above entry i, looking at most k levels up. -/
def Plane.above (p : Plane) (b j : Nat) : Nat → Nat → Bool
  | 0, _ => false
  | k + 1, i => match p.treeParent b i with
    | none => false
    | some x => x = j || p.above b j k x

/-- A window whose contributions pass through the node of another one. -/
def Plane.feeds (p : Plane) (w x : Window) : Bool :=
  x.bind = w.bind && x.va = w.va && x.blk = w.blk &&
  (match x.at_, w.at_ with
    | none, _ => false
    | some _, none => true
    | some i, some j => x.copy = w.copy && p.above (p.binds.get w.bind 0#128).toNat j 8 i)

/-- Block m of a plane's iteration indices is over: all its frames are drawn and none is live (R226). -/
def Plane.blockOver (p : Plane) (m : Nat) : Bool :=
  !p.frames.any (fun (_, f) => f.src ≠ .spawn && f.itix / 64 = m) &&
  (match p.iter with
    | some t => !t.running || t.n0 * t.n1 * t.n2 ≤ t.next || 64 * (m + 1) ≤ t.next
    | none => true)

/-- A window may close (R226). -/
def State.mayClose (s : State) (w : Window) : Bool :=
  match s.planeAny w.plane with
  | none => false
  | some p => (p.blockOver w.blk || p.iterOver) && !s.windows.any (fun (_, x) => x.plane = w.plane && p.feeds w x)

/-- Order of keys (R225). -/
def keyLt (a b : Nat × Nat × Nat) : Bool := a.1 < b.1 || (a.1 = b.1 && (a.2.1 < b.2.1 || (a.2.1 = b.2.1 && a.2.2 < b.2.2)))

/-- Inserts a contribution in key order. -/
def insertKey (c : Nat × Contrib) : List (Nat × Contrib) → List (Nat × Contrib)
  | [] => [c]
  | d :: l => if keyLt c.2.key d.2.key then c :: d :: l else d :: insertKey c l

/-- The sequential sum of contributions in key order: the first with the sum as its value, and the flags raised (R66, R226). -/
def sumKeys : List (Nat × Contrib) → Option (Nat × Contrib × Nat)
  | [] => none
  | (id, c) :: l =>
    let (v, r) := l.foldl (fun (v, r) (_, d) => combine c.fmt c.op r v d.val) (c.val, (⟨0, 0#32, 0⟩ : Num.Rnd))
    some (id, { c with val := v }, r.fl)

/-- Raises flags in the register of the plane that holds a tree (R227). -/
def State.treeFlag (s : State) (pk fl : Nat) : State := s.planeFlag pk fl

/-- RED_WINDOW_CLOSE (R226): the sum goes to the parent, or, from the root, to memory in its turn. -/
def execERedWindowClose (w : Nat) (s : State) : Out :=
  match s.windows.find w with
  | none => .next s
  | some x =>
    if !s.mayClose x then .next s
    else
      let mine := s.contribs.filter (fun (_, c) => c.ord && c.accepted && !c.ready && c.window = x)
      let s := { s with windows := s.windows.del w, contribs := s.contribs.filter (fun (k, _) => !mine.any (fun y => y.1 = k)) }
      match sumKeys (mine.foldl (fun l c => insertKey c l) []) with
      | none => .next s
      | some (id, c, fl) =>
        let s := s.treeFlag x.plane fl
        match x.at_ with
        | none => .next { s with contribs := s.contribs.put id { c with ready := true } }
        | some i =>
          let b := match s.planeAny x.plane with | some p => p.treeParent (p.binds.get x.bind 0#128).toNat i | none => none
          .next (s.placeContrib id { c with at_ := b })

/-- A sum of a lower block may still reach the address (R226). -/
def State.lowerBlock (s : State) (id : Nat) (c : Contrib) : Bool :=
  let m := c.key.1 / 64
  s.windows.any (fun (_, w) => w.plane = c.plane && w.bind = c.bind && w.va = c.place && w.blk < m) ||
  s.contribs.any (fun (k, d) => k ≠ id && d.plane = c.plane && d.bind = c.bind && d.ord && d.place = c.place && d.key.1 / 64 < m) ||
  (match s.planeAny c.plane with
    | some p => !p.iterOver && p.frames.any (fun (_, f) => f.src ≠ .spawn && f.itix / 64 < m)
    | none => false)

/-- The root port of a contribution's binding, and the sole writer there as an issuer (R101, R303). -/
def State.soleWriter (s : State) (c : Contrib) : Nat × Issuer :=
  let b := match s.planeAny c.plane with | some p => (p.binds.get c.bind 0#128).toNat | none => 0
  (1000 + rootPort c.plane b, { c.iss with frame := none, unit := none })

/-- REDUCTION_APPLY (R66, R101, R225, R227): one ⊕ into memory, a release at MOD's scope when its ITER is over and its tree flushes;
a store that fails is reported, and what it carries is lost. -/
def execEReductionApply (c : Nat) (s : State) : Out :=
  match s.contribs.find c with
  | none => .next s
  | some x =>
    let (tlb, i) := s.soleWriter x
    let earlier := s.contribs.any (fun (k, d) => k ≠ c && d.plane = x.plane && d.bind = x.bind && d.ready && !d.ord && d.place = x.place && d.arr < x.arr)
    if !x.ready ∨ (if x.ord then s.lowerBlock c x else earlier) then .next s
    else
      let n := NodeCheck.width x.fmt / 8
      let s := { s with contribs := s.contribs.del c }
      let lost (s : State) (e : Err) : State :=
        let at_ := (s.planeAny x.plane).getD Plane.reset
        s.report { cause := e.cause, addr := x.va, info := e.info, aux := e.aux, ctx := at_.ctx, cbix := at_.cbix }
      match s.portAccess tlb i x.sp x.va n {} (fun _ => none) with
      | (s, .error e) => .next (lost s e)
      | (s, .ok old) =>
        let (v, r) := combine x.fmt x.op ⟨0, 0#32, 0⟩ old x.val
        let flush : Bool := match s.planeAny x.plane with | some p => p.iterOver | none => false
        match s.portAccess tlb i x.sp x.va n { wr := true, rel := flush, scope := x.scope } (fun _ => some v) with
        | (s, .error e) => .next (lost s e)
        | (s, .ok _) => .next (s.treeFlag x.plane r.fl)

end Sys2Proof.Machine
end

