-- ==== Sys2Proof/Machine/EvEngine.lean ====
section
/-! DEFINITION. Events of engines, arrays and the conversation engines (R96, R117, R121, R124, R125, R230, R249, R251, R380).
An event that is not enabled leaves the machine as it is. -/

namespace Sys2Proof.Machine

open Sys2Proof

/-- ENGINE_COMMAND_ACCEPT (R230): the number goes to DEST1. -/
def execEEngineCommandAccept (c : Nat) (s : State) : Out :=
  match s.cmds.find c with
  | none => .next s
  | some x =>
    if 1 < x.kind ∨ !s.acceptable x then .next s
    else .next ((s.acceptCmd c).cmdSend x (numberVec ((s.eng x.ctxKey).accepted + 1)))

/-- ENGINE_COMMAND_COMPLETE (R96): a copy, a network command, MXACC or MXQ goes on, and completes once it is performed or has
failed. -/
def execEEngineCommandComplete (c : Nat) (s : State) : Out :=
  match s.cmds.find c with
  | none => .next s
  | some x =>
    if x.num.isNone then .next s
    else if x.kind = 0 then .next (s.runCopy c x).wakeReqs
    else if x.kind = 1 then .next (s.runNet c x).wakeReqs
    else if x.kind = 4 then .next (s.runAcc c x).wakeReqs
    else if x.kind = 5 then .next (s.runQuery c x).wakeReqs
    else .next s

/-- ARRAY_COMMAND_ACCEPT (R249, R251): DEST1 of MXLS and MXSW receives the number. -/
def execEArrayCommandAccept (c : Nat) (s : State) : Out :=
  match s.cmds.find c with
  | none => .next s
  | some x =>
    if x.kind < 2 ∨ !s.acceptable x then .next s
    else
      let s' := s.acceptCmd c
      .next (if x.kind ≤ 3 then s'.cmdSend x (numberVec ((s.eng x.ctxKey).accepted + 1)) else s')

/-- MXLS_COMPLETE (R251). -/
def execEMxlsComplete (c : Nat) (s : State) : Out :=
  match s.cmds.find c with
  | none => .next s
  | some x => .next (if x.num.isSome ∧ x.kind = 2 then (s.runLoad c x).wakeReqs else s)

/-- MXSW_APPLY (R249, R251). -/
def execEMxswApply (c : Nat) (s : State) : Out :=
  match s.cmds.find c with
  | none => .next s
  | some x => .next (if x.num.isSome ∧ x.kind = 3 then (s.applySwap c x).wakeReqs else s)

/-- MATRIX_ROW_ACCEPT (R249). -/
def execEMatrixRowAccept (r : Nat) (s : State) : Out := .next (s.acceptRow r)

/-- MATRIX_ROW_COMPLETE (R249, R252). -/
def execEMatrixRowComplete (r : Nat) (s : State) : Out := .next (s.completeRow r).wakeReqs

/-- NE_RETRANSMIT (R380): after 16 retransmissions the command completes in error. -/
def execENeRetransmit (c : Nat) (s : State) : Out :=
  match s.cmds.find c with
  | none => .next s
  | some x =>
    if x.kind ≠ 1 ∨ x.num.isNone then .next s
    else if 16 ≤ x.tries then .next (s.failCmd c x ⟨Cause.memTimeout, 0, 0⟩ 0).wakeReqs
    else .next { s with cmds := s.cmds.put c { x with tries := x.tries + 1 } }

/-- SEND_CHECK (R117). -/
def execESendCheck (q : Nat) (s : State) : Out := .next (s.checkSend q)

/-- DELEGATION_CHECK (R124). -/
def execEDelegationCheck (q : Nat) (s : State) : Out := .next (s.checkDeleg q)

/-- The endpoint of a waiting delivery has a failing access (R121). -/
def State.deliveryFailing (s : State) (d : Delivery) : Bool :=
  match (s.conv d.conv).bound d.role with
  | some (_, e) => e.failing
  | none => false

/-- RING_DELIVERY (R121). -/
def execERingDelivery (d : Nat) (s : State) : Out :=
  match s.deliveries.find d with
  | none => .next s
  | some x => .next (if s.deliveryFailing x then s else s.deliverMsg d)

/-- DELIVERY_RETRY (R121): of every delivery whose endpoint has a failing access. -/
def execEDeliveryRetry (s : State) : Out :=
  .next (s.deliveries.foldl (fun s (k, d) => if s.deliveryFailing d then s.deliverMsg k else s) s)

/-- CONVERSATION_FREE (R125): of every closing conversation whose slots are released. -/
def execEConversationFree (s : State) : Out := .next (s.convs.foldl (fun s (k, _) => s.freeConv k) s)

end Sys2Proof.Machine
end

