-- ==== Sys2Proof/Machine/EvRender.lean ====
section
/-! DEFINITION. Events of the runnel and the samplers (R260 to R278): rays and their exact tests, hash-grid and texture
results. An event that is not enabled leaves the machine as it is. -/

namespace Sys2Proof.Machine

open Sys2Proof

/-! Exact values. Rounding modes by Table 3.4: 0 RNE, 2 RUP, 3 RDN. -/

/-- An f32 pattern's value. -/
def f32v (x : Nat) : Num.Val := Num.decode (Num.fmtOf 10) x

/-- A value rounded to f32; no flag is kept. -/
def r32 (mode : Nat) (v : Num.Val) : Nat := (Num.round (Num.fmtOf 10) 0 ⟨mode, 0#32, 0⟩ v).1

/-- Order of values: a ≤ b; false for a NaN. -/
def leVal (a b : Num.Val) : Bool := !a.isNan && !b.isNan && (match Num.cmp a b with | .gt => false | _ => true)

/-- The larger of two values. -/
def maxVal (a b : Num.Val) : Num.Val := if leVal a b then b else a

/-- The smaller of two values. -/
def minVal (a b : Num.Val) : Num.Val := if leVal a b then a else b

/-- A value that is neither NaN nor infinite. -/
def finVal : Num.Val → Bool
  | .fin _ _ _ => true
  | _ => false

/-- A finite value that is ±0. -/
def zeroVal : Num.Val → Bool
  | .fin _ n _ => n = 0
  | _ => false

/-- A 32-bit free value (log 11). -/
def State.free32 (s : State) : Nat × State :=
  (leNat ((List.range 4).map (fun i => Config.freeByte (s.draws + i))), { s with draws := s.draws + 4 })

/-! Rays. -/

/-- Component a of a ray's origin, of its direction, and its bounds (Table 11.1). -/
def Ray.o (r : Ray) (a : Nat) : Num.Val := f32v (lane r.vec a)
def Ray.d (r : Ray) (a : Nat) : Num.Val := f32v (lane r.vec (4 + a))
def Ray.tmin (r : Ray) : Num.Val := f32v (lane r.vec 3)
def Ray.flags (r : Ray) : Nat := lane r.vec 10

/-- A void ray (R261). -/
def Ray.void (r : Ray) : Bool :=
  (List.range 8).any (fun i => !finVal (f32v (lane r.vec i))) ||
  !leVal (.fin false 0 1) r.tmin || !leVal r.tmin (f32v (lane r.vec 7)) || (List.range 3).all (fun a => zeroVal (r.d a))

/-- Rays in flight on a die (R260). -/
def State.inFlight (s : State) (die : Nat) : Nat := (s.rays.filter (fun (_, r) => pkDie r.plane = die && r.stage = .queued)).length

/-- RAY_ACCEPT (R261, R271): in arrival order, while the runnel holds fewer than 4,096 rays; L leaves on DEST1. -/
def execERayAccept (r : Nat) (s : State) : Out :=
  match s.rays.find r with
  | none => .next s
  | some x =>
    if x.stage ≠ .sent ∨ 4096 ≤ s.inFlight (pkDie x.plane) ∨
      s.rays.any (fun (_, y) => y.stage = .sent && pkDie y.plane = pkDie x.plane && y.ord < x.ord) then .next s
    else
      let y : Ray :=
        { x with
          stage := .queued
          stack := if x.void then [] else [⟨elem x.vec 64 4, 1, 0⟩]
          best := (lane x.vec 7, 0, 0, 2 ^ 32, 0, 0) }
      .next ({ s with rays := s.rays.put r y }.sendTo x.plane x.elem x.body.dest1 x.frame x.gen x.l.data)

/-- The runnel reads for the frame that injected a ray, whatever has become of it, and raises no race exception (R105, R260). -/
def Ray.reader (x : Ray) : Issuer := { x.iss with frame := none }

/-- A ray ends with an error at an address (R269). -/
def Ray.fail (x : Ray) (a : Nat) : Ray := { x with err := some a, ended := true, stack := [], node := none }

/-- The node or triangle that a ray in flight needs next. -/
def Ray.next (x : Ray) : Option RayItem := if x.stage = .queued ∧ !x.ended then x.stack.head? else none

/-- Byte i of a node or triangle, and an f32 or n32 field of it. -/
def byteOf (l : List Byte) (i : Nat) : Nat := (l[i]?.getD 0#8).toNat
def wordOf (l : List Byte) (i : Nat) : Nat := leNat ((l.drop i).take 4)

/-- Children of a node that exist. -/
def nodeKids (l : List Byte) : List Nat := (List.range 8).filter (bit (byteOf l 88))

/-- Child i is a node. -/
def kidInner (l : List Byte) (i : Nat) : Bool := bit (byteOf l 15) i

/-- What R269 refuses in a node itself. -/
def nodeBad (l : List Byte) : Bool :=
  (List.range 39).any (fun i => byteOf l (89 + i) ≠ 0) ||
  (List.range 3).any (fun a => byteOf l (12 + a) = 0 || byteOf l (12 + a) = 255) ||
  (nodeKids l).any (fun i =>
    let b := byteOf l (32 + i)
    if kidInner l i then b ≠ 0 else 39 < b % 32 + b / 32 + 1)

/-- NODE_INJECTION (R260, R269). -/
def execENodeInjection (r : Nat) (s : State) : Out :=
  match s.rays.find r with
  | none => .next s
  | some x => match x.next with
    | none => .next s
    | some it =>
      if it.tris ≠ 0 ∨ x.node.isSome then .next s
      else
        let put (s : State) (y : Ray) : Out := .next { s with rays := s.rays.put r y }
        if it.addr % 128 ≠ 0 ∨ 32 < it.depth then put s (x.fail it.addr)
        else match s.vread x.reader it.addr 128 with
          | (s, .error _) => put s (x.fail it.addr)
          | (s, .ok l) => put s (if nodeBad l then x.fail it.addr else { x with node := some (it.addr, l) })

/-- The interval of a child on an axis (R264). -/
def kidBox (l : List Byte) (a i : Nat) : Num.Val × Num.Val :=
  let p := f32v (wordOf l (4 * a)); let e := byteOf l (12 + a)
  let at_ (q : Nat) : Num.Val := (Num.add 0 p (.scaled false q e 127)).1
  (f32v (r32 3 (at_ (byteOf l (40 + 8 * a + i)))), f32v (r32 2 (at_ (byteOf l (64 + 8 * a + i)))))

/-- The k-th of the f32 values that draw d leaves open (log 11). -/
def freeVal (d k : Nat) : Num.Val := f32v (leNat ((List.range 4).map (fun i => Config.freeByte (d + 4 * k + i))))

/-- Entry and exit of a child on an axis, or none for a miss (R266). Where the box is not a number there, both are left open, and
given as `o`. -/
def Ray.axis (x : Ray) (a : Nat) (b o : Num.Val × Num.Val) : Option (Num.Val × Num.Val) :=
  if zeroVal (x.d a) then (if leVal b.1 (x.o a) && leVal (x.o a) b.2 then some (.inf true, .inf false) else none)
  else if b.1.isNan || b.2.isNan then some o
  else
    let t (v : Num.Val) : Num.Val := (Num.div (Num.add 0 v (x.o a).negate).1 (x.d a)).1
    some (f32v (r32 3 (minVal (t b.1) (t b.2))), f32v (r32 2 (maxVal (t b.1) (t b.2))))

/-- The entry of a child that the ray hits: max(tmin, its three entries) (R264, R266). What is left open is taken from draw d. -/
def Ray.kidEntry (x : Ray) (l : List Byte) (d i : Nat) : Option Num.Val :=
  let open_ (a : Nat) : Num.Val × Num.Val := (freeVal d (6 * i + 2 * a), freeVal d (6 * i + 2 * a + 1))
  if (List.range 3).any (fun a => byteOf l (64 + 8 * a + i) < byteOf l (40 + 8 * a + i)) then none
  else match x.axis 0 (kidBox l 0 i) (open_ 0), x.axis 1 (kidBox l 1 i) (open_ 1), x.axis 2 (kidBox l 2 i) (open_ 2) with
    | some (n0, f0), some (n1, f1), some (n2, f2) =>
      let near := maxVal (maxVal (maxVal x.tmin n0) n1) n2
      let far := minVal (minVal (minVal (f32v x.best.1) f0) f1) f2
      if leVal near far then some near else none
    | _, _, _ => none

/-- Inserts a child in ascending entry, behind those that tie with it. -/
def insertKid (e : Num.Val) (i : RayItem) : List (Num.Val × RayItem) → List (Num.Val × RayItem)
  | [] => [(e, i)]
  | (f, j) :: l => if Num.cmp e f == .lt then (e, i) :: (f, j) :: l else (f, j) :: insertKid e i l

/-- Child i of a node as an item of the stack (R264). -/
def kidItem (l : List Byte) (depth i : Nat) : RayItem :=
  let base (k : Nat) : Nat := leNat ((l.drop k).take 8)
  if kidInner l i then ⟨(base 16 + 128 * ((nodeKids l).filter (fun k => k < i && kidInner l k)).length) % 2 ^ 64, depth + 1, 0⟩
  else ⟨(base 24 + 48 * (byteOf l (32 + i) % 32)) % 2 ^ 64, depth + 1, byteOf l (32 + i) / 32 + 1⟩

/-- A node whose boxes are not numbers on some axis. -/
def nodeNan (l : List Byte) : Bool := (List.range 3).any (fun a => (f32v (wordOf l (4 * a))).isNan)

/-- BOX_TEST (R266, R268): the children hit go onto the stack, nearest first. -/
def execEBoxTest (r : Nat) (s : State) : Out :=
  match s.rays.find r with
  | none => .next s
  | some x => match x.next, x.node with
    | some it, some (_, l) =>
      let kids := (nodeKids l).foldl (fun acc i => match x.kidEntry l s.draws i with | some e => insertKid e (kidItem l it.depth i) acc | none => acc)
        ([] : List (Num.Val × RayItem))
      let y := { x with node := none, nodes := x.nodes + 1, stack := kids.map Prod.snd ++ x.stack.tail }
      .next { s with rays := s.rays.put r y, draws := if nodeNan l then s.draws + 192 else s.draws }
    | _, _ => .next s

/-! Triangles, in integers: an f32 is its value times 2^149. -/

/-- A finite f32 value times 2^149. -/
def fix149 (v : Num.Val) : Int :=
  match v with
  | .fin neg n d => Num.sgn neg (n * 2 ^ 149 / d)
  | _ => 0

/-- Cross product and dot product. -/
def cross (a b : Int × Int × Int) : Int × Int × Int :=
  (a.2.1 * b.2.2 - a.2.2 * b.2.1, a.2.2 * b.1 - a.1 * b.2.2, a.1 * b.2.1 - a.2.1 * b.1)
def dot (a b : Int × Int × Int) : Int := a.1 * b.1 + a.2.1 * b.2.1 + a.2.2 * b.2.2
def minus (a b : Int × Int × Int) : Int × Int × Int := (a.1 - b.1, a.2.1 - b.2.1, a.2.2 - b.2.2)

/-- A quotient of integers rounded to the nearest f32. -/
def ratio32 (n d : Int) : Nat := r32 0 (.ofInt (if d < 0 then -n else n) d.natAbs false)

/-- Vertex k of a triangle. -/
def vertex (l : List Byte) (k : Nat) : Int × Int × Int :=
  let c (i : Nat) : Int := fix149 (f32v (wordOf l (12 * k + 4 * i)))
  (c 0, c 1, c 2)

/-- Where the ray's line meets the closed triangle: t, u, v as f32 patterns, and whether it meets the back face (R267). -/
def Ray.meets (x : Ray) (l : List Byte) : Option (Nat × Nat × Nat × Bool) :=
  let v0 := vertex l 0; let e1 := minus (vertex l 1) v0; let e2 := minus (vertex l 2) v0
  let o := (fix149 (x.o 0), fix149 (x.o 1), fix149 (x.o 2)); let d := (fix149 (x.d 0), fix149 (x.d 1), fix149 (x.d 2))
  let n := cross e1 e2; let nd := dot n d
  let s := minus o v0
  let det := -nd
  let sg (z : Int) : Int := if det < 0 then -z else z
  let u := sg (dot s (cross d e2)); let v := sg (dot d (cross s e1)); let t := sg (dot e2 (cross s e1))
  if nd = 0 ∨ u < 0 ∨ v < 0 ∨ (det.natAbs : Int) < u + v then none
  else some (ratio32 t det.natAbs, ratio32 u det.natAbs, ratio32 v det.natAbs, 0 < nd)

/-- A candidate against the best so far (R267). -/
def Ray.candidate (x : Ray) (l : List Byte) (c : Nat × Nat × Nat × Bool) : Ray :=
  let (t, u, v, back) := c
  let prim := wordOf l 36; let two := bit (wordOf l 44) 0
  let culled := !two && (if back then bit x.flags 1 else bit x.flags 2)
  let (bt, _, _, bp, _, _) := x.best
  let lower := !(f32v t).isNan && (match Num.cmp (f32v t) (f32v bt) with | .lt => true | .eq => prim < bp | .gt => false)
  if culled ∨ !leVal x.tmin (f32v t) ∨ !lower then x
  else
    let y := { x with best := (t, u, v, prim, wordOf l 40, if back then 3 else 1) }
    if bit x.flags 0 then { y with ended := true, stack := [], node := none } else y

/-- TRIANGLE_TEST (R267 to R269). A triangle with a vertex that is not finite has no exact value: what the test gives is left
open (log 11). -/
def execETriangleTest (r : Nat) (s : State) : Out :=
  match s.rays.find r with
  | none => .next s
  | some x => match x.next with
    | none => .next s
    | some it =>
      if it.tris = 0 then .next s
      else
        let put (s : State) (y : Ray) : Out := .next { s with rays := s.rays.put r y }
        if it.addr % 16 ≠ 0 then put s (x.fail it.addr)
        else match s.vread x.reader it.addr 48 with
          | (s, .error _) => put s (x.fail it.addr)
          | (s, .ok l) =>
            if 1 < wordOf l 44 then put s (x.fail it.addr)
            else
              let rest := if it.tris = 1 then x.stack.tail else ⟨(it.addr + 48) % 2 ^ 64, it.depth, it.tris - 1⟩ :: x.stack.tail
              let y := { x with tris := x.tris + 1, stack := rest }
              if (List.range 9).all (fun i => finVal (f32v (wordOf l (4 * i)))) then
                put s (match y.meets l with | some c => y.candidate l c | none => y)
              else
                let (t, s) := s.free32; let (u, s) := s.free32; let (v, s) := s.free32; let (b, s) := s.free32
                put s (if bit b 0 then y.candidate l (t, u, v, bit b 1) else y)

/-- RAY_COMPLETE (R268, R271): nothing is left to visit, or the ray has ended; a hit for a frame that is gone is dropped
as stale (R20). -/
def execERayComplete (r : Nat) (s : State) : Out :=
  match s.rays.find r with
  | none => .next s
  | some x =>
    if x.stage ≠ .queued ∨ !(x.ended || (x.stack = [] && x.node.isNone)) then .next s
    else
      let live : Bool := match s.planeAny x.plane with
        | some p => (match p.frame? x.frame with | some f => f.gen = x.gen | none => false)
        | none => false
      .next (if live then { s with rays := s.rays.put r { x with stage := .done } } else ({ s with rays := s.rays.del r } : State).staleDrop x.plane)

/-! Samplers. -/

/-- The sampler as an issuer for a request's frame: it has no race exception to raise (R105). -/
def State.samplerIss (s : State) (q : Req) : Issuer := { s.reqIss q with eng := some (2 ^ 20, 0) }

/-- Reads values at places, in order: the values, or the first error with its address (R216, R276, R278). -/
def State.sampleReads (s : State) (q : Req) (w : Nat) : List Loc → State × Except (Err × Nat) (List Nat)
  | [] => (s, .ok [])
  | x :: l =>
    if (x.at_.getD 0) % (w / 8) ≠ 0 then (s, .error (⟨Cause.align, 0, 0⟩, x.at_.getD 0))
    else match s.placeRead (l2Tlb (s.samplerIss q).die) (s.samplerIss q) x w with
      | (s, .error e) => (s, .error e)
      | (s, .ok v) => match s.sampleReads q w l with
        | (s, .error e) => (s, .error e)
        | (s, .ok t) => (s, .ok (v :: t))

/-- An f32 operation rounded to nearest. -/
def fop (op : Nat) (r : Num.Rnd) (a b : Nat) : Nat × Num.Rnd := Num.fbin (Num.fmtOf 10) op r a b

/-- The floor of a finite value. -/
def floorVal (v : Num.Val) : Int :=
  match v with
  | .fin neg n d => if neg then -((n + d - 1) / d : Nat) else (n / d : Nat)
  | _ => 0

/-- One as an f32 pattern. -/
def one32 : Nat := 0x3F800000

/-- N_l of a level (R273). -/
def hgRes (t level : Nat) : Nat :=
  let r : Num.Rnd := ⟨0, 0#32, 0⟩
  let p := (List.range level).foldl (fun p _ => (fop 0x22 r p (bits t 511 480)).1) one32
  let m := (fop 0x22 r (r32 0 (.ofInt (bits t 479 464) 1 false)) p).1
  match f32v m with
  | .fin _ n d => min (n / d) (2 ^ 24)
  | _ => 2 ^ 24

/-- A coordinate: its cell and its fraction as an f32 pattern (R274). -/
def hgAxis (n x : Nat) (r : Num.Rnd) : Nat × Nat × Num.Rnd :=
  let v := f32v x
  let r := if v.isNan then r.raise Num.NV else r
  let c : Num.Val := match v with
    | .nan _ => .fin false 0 1
    | .inf neg => .fin false (if neg then 0 else 1) 1
    | .fin neg a b => if neg then .fin false 0 1 else if b < a then .fin false 1 1 else .fin false a b
  let (sx, r) := Num.round (Num.fmtOf 10) 0 r (Num.mul c (.ofInt n 1 false)).1
  let i := (floorVal (f32v sx)).toNat
  let (fx, r) := Num.round (Num.fmtOf 10) 0 r (Num.add 0 (f32v sx) (.ofInt (-(i : Int)) 1 false)).1
  (i, fx, r)

/-- The index of a corner (R274). -/
def hgIndex (n T : Nat) (cs : List Nat) : Nat :=
  if (n + 1) ^ cs.length ≤ 2 ^ T then cs.reverse.foldl (fun acc c => acc * (n + 1) + c) 0
  else
    let h (i k : Nat) : Nat := (cs.getD i 0) * k % 2 ^ 32
    ((h 0 1) ^^^ (h 1 0x9E3779B1) ^^^ (h 2 0xC2B2AE3D)) % 2 ^ T

/-- Corners of a point with index and weight, in ascending order (R274, R275). -/
def hgCorners (t n : Nat) (xs : List Nat) (r : Num.Rnd) : List (Nat × Nat × Nat) × Num.Rnd :=
  let d := xs.length
  let (axes, r) := xs.foldl (fun (l, r) x => let (i, fx, r) := hgAxis n x r; let (gx, r) := fop 0x21 r one32 fx; (l ++ [(i, gx, fx)], r))
    (([] : List (Nat × Nat × Nat)), r)
  (List.range (2 ^ d)).foldl (fun (l, r) c =>
    let at_ (k : Nat) : Nat × Nat × Nat := axes.getD k (0, one32, one32)
    let a (k : Nat) : Nat := if bit c k then (at_ k).2.2 else (at_ k).2.1
    let (w, r) := fop 0x22 r (a 0) (a 1)
    let (w, r) := fop 0x22 r w (if d = 3 then a 2 else one32)
    let cs := (List.range d).map (fun k => min ((at_ k).1 + b2n (bit c k)) n)
    (l ++ [(c, hgIndex n (bits t 457 453) cs, w)], r)) (([] : List (Nat × Nat × Nat)), r)

/-- Points of HGF and TEX that are live (R276). -/
def livePoints (q : Req) (three : Bool) : List Nat :=
  let on := reqOn q.body q.p
  (List.range 8).filter (fun k => lanesLive (q.l.mask &&& on) [2 * k, 2 * k + 1] && (!three || lanesLive (q.r.mask &&& on) [k]))

/-- TID_INVALID or TID_SHAPE of HGF (R276). -/
def hgfCause (q : Req) (t : Nat) : Option Nat :=
  let o := q.body.operand.toNat
  if !tidValid t then some Cause.tidInvalid
  else if bits t 452 448 ≤ bits o 11 8 ∨ tidFmt t ≠ 8 ∨ tidBase t % 64 ≠ 0 ∨ (bit t 460 ∧ !q.body.hasR) then some Cause.tidShape
  else none

/-- A sampler's answer: the flags of its roundings, and the token (R276, R352). -/
def State.sampled (s : State) (r : Nat) (q : Req) (fl : Nat) (v : Operand) : State :=
  (s.flag q.plane q.frame q.gen fl).finishReq r q (some v)

/-- HGF (R275, R276). -/
def State.runHgf (s : State) (r : Nat) (q : Req) : State :=
  let o := q.body.operand.toNat; let t := s.reqTid q; let level := bits o 11 8; let F := hgF t; let n := hgRes t level
  match hgfCause q t with
  | some c => s.reqFault r q ⟨c, 0, 0⟩ 0 0
  | none =>
    let three := bit t 460
    let (pts, rnd) := (livePoints q three).foldl (fun (l, rnd) k =>
      let xs := [lane q.l.val (2 * k), lane q.l.val (2 * k + 1)] ++ (if three then [lane q.r.val k] else [])
      let (cs, rnd) := hgCorners t n xs rnd
      (l ++ cs.map (fun (c, ix, w) => (k, c, ix, w)), rnd)) (([] : List (Nat × Nat × Nat × Nat)), (⟨0, 0#32, 0⟩ : Num.Rnd))
    let loc (ix f : Nat) : Loc := spaceLoc (tidSpace t) (tidBase t + 2 * F * (level * 2 ^ bits t 457 453 + ix) + 2 * f : Nat)
    let places := pts.flatMap (fun (_, _, ix, _) => (List.range F).map (loc ix))
    match s.sampleReads q 16 places with
    | (s, .error (e, a)) => s.reqFault r q e a 0
    | (s, .ok vals) =>
      let feature (k f : Nat) (rnd : Num.Rnd) : Nat × Num.Rnd :=
        let (acc, rnd) := (pts.zipIdx).foldl (fun (acc, rnd) (p, i) =>
          if p.1 ≠ k then (acc, rnd)
          else
            let ev := Num.decode (Num.fmtOf 8) (vals.getD (i * F + f) 0)
            let (pv, fl) := Num.mul (f32v p.2.2.2) ev
            let (m, rnd) := Num.round (Num.fmtOf 10) 0 (rnd.raise (fl ||| if ev.isSnan then Num.NV else 0)) pv
            fop 0x20 rnd acc m) (0, rnd)
        Num.round (Num.fmtOf 8) 1 rnd (f32v acc)
      let live := livePoints q three
      let (out, rnd) := (List.range (8 * F)).foldl (fun (l, rnd) j =>
        if live.contains (j / F) then let (v, rnd) := feature (j / F) (j % F) rnd; (l ++ [v], rnd) else (l ++ [0], rnd))
        (([] : List Nat), rnd)
      let mask := mkMask ((List.range 16).map (fun i => live.any (fun k => (List.range F).any (fun f => (k * F + f) / 2 = i))))
      let frame : Bool := match (s.plane q.plane).frame? q.frame with | some fr => fr.gen = q.gen | none => false
      let x : Keep := { plane := q.plane, elem := q.elem, node := q.node, frame := q.frame, gen := q.gen, level := level, tid := BitVec.ofNat 512 t, pts := pts }
      let other (k : Keep) : Bool := !(k.plane = x.plane && k.elem = x.elem && k.node = x.node && k.frame = x.frame && k.gen = x.gen)
      let s := if bit o 12 && frame then { s with keeps := s.keeps.filter other ++ [x] } else s
      s.sampled r q rnd.fl ⟨mkVec 16 out, mask, 0#4⟩

/-- TID_INVALID or TID_SHAPE of TEX (R278). -/
def texCause (q : Req) (t : Nat) : Option Nat :=
  if !tidValid t then some Cause.tidInvalid
  else if !(tidFmt t ∈ [8, 9, 10, 12]) ∨ tidNdim t ≠ 2 ∨ 4 < tidDim t 0 ∨ tidSp24 t ∨ (q.body.fmt.toNat = 10 ∧ 2 < tidDim t 0) then
    some Cause.tidShape
  else none

/-- An axis of a texture point before it is resolved: index, and the exact fraction (R278). A product that overflows has no
index: what it gives is left open (log 11). -/
def State.texAxis (s : State) (bilinear : Bool) (size x : Nat) (r : Num.Rnd) : State × Int × Num.Val × Num.Rnd :=
  let v := f32v x
  let (v, r) : Num.Val × Num.Rnd := if finVal v then (v, r) else (.fin false 0 1, r.raise Num.NV)
  let (su, r) := Num.round (Num.fmtOf 10) 0 r (Num.mul v (.ofInt size 1 false)).1
  let (su, r) := if bilinear then fop 0x21 r su 0x3F000000 else (su, r)
  let z := f32v su
  if finVal z then (s, floorVal z, (Num.add 0 z (.ofInt (-(floorVal z)) 1 false)).1, r)
  else
    let (i, s) := s.free32; let (f, s) := s.free32
    (s, (i : Int), f32v f, r)

/-- A texel index resolved by the address mode (R278). -/
def texResolve (clamp : Bool) (size : Nat) (i : Int) : Nat :=
  if clamp then (min (max i 0) ((size : Int) - 1)).toNat else (i % (size : Int)).toNat

/-- Texels of a point with their weights: one of no weight for nearest, four for bilinear (R275, R278). -/
def State.texPoint (s : State) (q : Req) (t k : Nat) (r : Num.Rnd) : State × List (Nat × Nat × Nat × Nat) × Num.Rnd :=
  let o := q.body.operand.toNat; let bil := bit o 8; let W := tidDim t 1; let H := tidDim t 2
  let (s, i, fu, r) := s.texAxis bil W (lane q.l.val (2 * k)) r
  let (s, j, fv, r) := s.texAxis bil H (lane q.l.val (2 * k + 1)) r
  let at_ (a b : Nat) : Nat × Nat := (texResolve (bit o 9) W (i + a), texResolve (bit o 9) H (j + b))
  if !bil then (s, [(k, (at_ 0 0).1, (at_ 0 0).2, one32)], r)
  else
    let one : Num.Val := .fin false 1 1
    let (gu, r) := Num.round (Num.fmtOf 10) 0 r (Num.add 0 one fu.negate).1
    let (gv, r) := Num.round (Num.fmtOf 10) 0 r (Num.add 0 one fv.negate).1
    let (l, r) := (List.range 4).foldl (fun (l, r) c =>
      let a := if bit c 0 then fu else f32v gu
      let b := if bit c 1 then fv else f32v gv
      let (w, r) := Num.round (Num.fmtOf 10) 0 r (Num.mul a b).1
      (l ++ [(k, (at_ (c % 2) (c / 2)).1, (at_ (c % 2) (c / 2)).2, w)], r)) (([] : List (Nat × Nat × Nat × Nat)), r)
    (s, l, r)

/-- TEX (R278). The tile view does not apply to it (R83). -/
def State.runTex (s : State) (r : Nat) (q : Req) : State :=
  let t := s.reqTid q; let o := q.body.operand.toNat
  match texCause q t with
  | some c => s.reqFault r q ⟨c, 0, 0⟩ 0 0
  | none =>
    let C := tidDim t 0; let fmt := tidFmt t; let w := NodeCheck.width fmt; let out := q.body.fmt.toNat
    let live := livePoints q false
    let (s1, pts, rnd) := live.foldl (fun (s, l, rnd) k => let (s, m, rnd) := State.texPoint s q t k rnd; (s, l ++ m, rnd))
      (s, ([] : List (Nat × Nat × Nat × Nat)), (⟨0, 0#32, 0⟩ : Num.Rnd))
    let flat := t - bits t 77 72 * 2 ^ 72
    match s1.sampleReads q w (pts.flatMap (fun (_, x, y, _) => (List.range C).map (fun ch => tidElemAt flat ch x y 0))) with
    | (s1, .error (e, a)) => s1.reqFault r q e a 0
    | (s1, .ok vals) =>
      let S := (s1.plane q.plane).srReg q.plane q.elem
      let final (v : Num.Val) (rnd : Num.Rnd) : Nat × Num.Rnd :=
        let (x, z) := Num.round (Num.fmtOf out) 1 { rnd with mode := q.body.mod.toNat % 8 } v
        (x, { z with mode := 0 })
      let channel (k ch : Nat) (rnd : Num.Rnd) : Nat × Num.Rnd :=
        let mine := (pts.zipIdx).filter (fun (p, _) => p.1 = k)
        if !bit o 8 then
          let v := match mine with | (_, i) :: _ => Num.decode (Num.fmtOf fmt) (vals.getD (i * C + ch) 0) | [] => .fin false 0 1
          final v (if v.isSnan then rnd.raise Num.NV else rnd)
        else
          let (acc, rnd) := mine.foldl (fun (acc, rnd) (p, i) =>
            let tv := Num.decode (Num.fmtOf fmt) (vals.getD (i * C + ch) 0)
            let (pv, fl) := Num.mul (f32v p.2.2.2) tv
            let (m, rnd) := Num.round (Num.fmtOf 10) 0 (rnd.raise (fl ||| if tv.isSnan then Num.NV else 0)) pv
            fop 0x20 rnd acc m) (0, rnd)
          final (f32v acc) rnd
      let (l, rnd) := (List.range (8 * C)).foldl (fun (l, rnd) j =>
        if live.contains (j / C) then let (v, rnd) := channel (j / C) (j % C) rnd; (l ++ [v], rnd) else (l ++ [0], rnd))
        (([] : List Nat), { rnd with s := S })
      let b := NodeCheck.width out
      let mask := mkMask ((List.range 16).map (fun i => live.any (fun k => (List.range C).any (fun ch => (k * C + ch) * b / 32 = i))))
      let p := s1.plane q.plane
      let s1 := if rnd.s = S then s1 else s1.setPlane q.plane { p with lfsr := p.lfsr.put q.elem rnd.s }
      s1.sampled r q rnd.fl ⟨mkVec b l, mask, 0#4⟩

/-- SAMPLER_RESULT (R276, R278): a frame that has retired still takes the flags; its token is stale (R352). -/
def execESamplerResult (r : Nat) (s : State) : Out :=
  match s.reqs.find r with
  | none => .next s
  | some q =>
    if (q.stage ≠ .sent ∧ q.stage ≠ .queued) ∨ !s.planes.has q.plane then .next s
    else if q.opc = 0xB3 then .next (s.runHgf r q)
    else if q.opc = 0xB5 then .next (s.runTex r q)
    else .next s

end Sys2Proof.Machine
end

