-- ==== Sys2Proof/Machine/Regs.lean ====
section
/-! DEFINITION. Reading and writing control registers (R181, R324, R337, R359, R372), with what a write does beside storing:
cistern and lane injection (R375), link retraining (R373), partitioning (R337). The instructions CSRRD and CSRWR and the
register events share these operations. -/

namespace Sys2Proof.Machine

open Sys2Proof

/-! Reading. -/

/-- CURCB of the executing unit (Table 16.8). -/
def State.curcb (s : State) : Word :=
  let x := s.me; let c := recCbix x.record
  BitVec.ofNat 64 (b2n x.recPriv * 2 ^ 31 + (s.block x.ctx c).level % 8 * 2 ^ 27 + x.elev % 8 * 2 ^ 24 + c)

/-- The executing unit's partition. -/
def State.myPart (s : State) : Nat := s.partOfUnit s.cur

/-- A register of a die outside the executing unit's partition (R372; for the registers of spec/16 and spec/18, log 29). -/
def State.foreign (s : State) (n : Nat) : Bool :=
  match Csr.dieOf n with
  | some d => s.partOfDie d ≠ s.myPart
  | none => false

/-- The value that CSRRD reads: fields that are WO or reserved hold zero always (R181). -/
def State.regValue (s : State) (n : Nat) : Word :=
  let x := s.me
  if n = 0 then x.tvec
  else if n = 1 then x.tepc
  else if n = 2 then x.tinfo
  else if n = 3 then x.tval
  else if n = 4 then x.tpend
  else if n = 5 then x.tien
  else if n = 0x0103 then s.curcb
  else if s.foreign n then 0#64
  else s.csr s.myPart n

/-- What a read does to the register: PWRSTAT's stretch count is cleared (Table 22.5). -/
def State.readEffect (s : State) (n : Nat) : State :=
  if n = 0x0401 then s.setCsr s.myPart n (Csr.setFld (s.csr s.myPart n) 7 1 0) else s

/-! Writing. -/

/-- The DIEP rule of Table 17.10. -/
def partcfgOk (v : Nat) : Bool :=
  let P := bits v 9 8 + 1
  let die (d : Nat) : Nat := bits v (2 * d + 1) (2 * d)
  (List.range 4).all (fun d => die d < P) && (List.range P).all (fun p => (List.range 4).any (fun d => die d = p))

/-- The key of a lock of a register written once. -/
def State.lockKey (s : State) (n : Nat) : Nat := if n = 0x0203 then n else 65536 * s.myPart + n

/-- A write of PARTCFG (R336, R337): ILLEGAL when it breaks the DIEP rule, and nothing once it is locked. -/
def State.writePartcfg (s : State) (v : Word) : Except Nat State :=
  if s.locks.contains 0x0203 then .ok s
  else if !partcfgOk v.toNat then .error Cause.illegal
  else .ok { s.setCsr 0 0x0203 (v &&& Csr.lockMask 0x0203) with locks := 0x0203 :: s.locks }

/-- A write of CTXBASE or SGTBASE, once (R181). -/
def State.writeOnce (s : State) (n : Nat) (v : Word) : State :=
  let k := s.lockKey n
  if s.locks.contains k then s else { s.setCsr s.myPart n (v &&& Csr.lockMask n) with locks := k :: s.locks }

/-- The physical address of a cistern word: column, bank, word index (R364). -/
def cisternWord (col bank word : Nat) : Nat :=
  2 ^ 39 + 2 ^ 28 * col + word / 512 * 2 ^ 18 + bank * 4096 + word % 512 * 8

/-- Inverts a stored bit of a word: a second inversion of one bit restores it (R375). -/
def State.flipBit (s : State) (w b : Nat) : State :=
  let l := s.flips.get w []
  let l' := if l.contains b then l.filter (· ≠ b) else l ++ [b]
  { s with flips := if l' = [] then s.flips.del w else s.flips.put w l' }

/-- A write of CINJ (Table 20.6, R375). -/
def State.writeCinj (s : State) (v : Nat) : State :=
  let d := bits v 46 45; let b := bits v 14 8
  if bit v 0 && s.partOfDie d = s.myPart && b < 72 && s.feat 18 then
    s.flipBit (cisternWord (32 * d + bits v 44 40) (bits v 39 34) (bits v 33 15) / 8) b
  else s

/-- A write of LINJ (Table 20.7, R372). -/
def State.writeLinj (s : State) (v : Word) : State :=
  if s.partOfDie (bits v.toNat 46 45) = s.myPart then
    s.setCsr s.myPart 0x0389 (Csr.written 0x0389 (s.csr s.myPart 0x0389) v) else s

/-- Width and selection of a link whose failed lanes are given (R373): 16 lanes, else the lowest half, else the lowest
quarter that holds none, else down. -/
def linkShape (failed : Nat) : Nat × Nat :=
  if failed = 0 then (0, 0)
  else match (List.range 2).find? (fun h => bits failed (8 * h + 7) (8 * h) = 0) with
    | some h => (1, h)
    | none => match (List.range 4).find? (fun q => bits failed (4 * q + 3) (4 * q) = 0) with
      | some q => (2, q)
      | none => (3, 0)

/-- A KLSTAT value with one more retraining step, and the failed lanes, width and selection given. -/
def linkStep (v : Word) (failed width sel : Nat) : Word :=
  Csr.setFld (Csr.setFld (Csr.setFld (Csr.setFld v 47 32 (Csr.fld v 47 32 + 1)) 31 16 failed) 3 2 width) 5 4 sel

/-- Retrains a link toward 16 lanes: the lanes that train are kept, and its traffic pauses (R373). -/
def State.retrain (s : State) (p : Nat) (trained : BitVec 16) : State :=
  let n := 0x0390 + p
  let failed := 65535 - trained.toNat
  let (w, sel) := linkShape failed
  { s.setCsr s.myPart n (linkStep (s.csr s.myPart n) failed w sel) with paused := if s.paused.contains p then s.paused else p :: s.paused }

/-- A write of KLSTAT(p): RETRAIN is WO (Table 20.9). Which lanes train is a free value (log 10). -/
def State.writeKlstat (s : State) (p : Nat) (v : Word) : State :=
  if bit v.toNat 0 && s.feat 15 then { s with draws := s.draws + 1 }.retrain p (Config.lanes s.draws) else s

/-- A write of a control core's own register. -/
def State.writeOwn (s : State) (n : Nat) (v : Word) : State :=
  let x := s.me
  let w (old : Word) : Word := Csr.written n old v
  if n = 0 then s.setMe { x with tvec := w x.tvec }
  else if n = 1 then s.setMe { x with tepc := w x.tepc }
  else if n = 2 then s.setMe { x with tinfo := w x.tinfo }
  else if n = 3 then s.setMe { x with tval := w x.tval }
  else if n = 4 then s.setMe { x with tpend := w x.tpend }
  else s.setMe { x with tien := w x.tien }

/-- A write of a register that only stores, by the access code of each field and the register's own corrections. -/
def State.writePlain (s : State) (n : Nat) (v : Word) : State :=
  s.setCsr s.myPart n (Csr.correct n (Csr.written n (s.csr s.myPart n) v) (v &&& Csr.w1cMask n))

/-- A write of CBDOWN: a bank whose bit is cleared returns to service, its remap copies rewritten (R369, log 119). -/
def State.writeCbdown (s : State) (n : Nat) (v : Word) : State :=
  let back (b : Nat) : Bool := b / 64 = n - 0x0300 && bit (s.csr s.myPart n &&& v).toNat (b % 64)
  { s.writePlain n v with
    remap := s.remap.filter (fun (k, _) => !back (k / 2 ^ 19)), remapCache := s.remapCache.filter (fun (b, _) => !back b) }

/-- A write of a control register (R181): ILLEGAL when all its fields are RO, or the state. -/
def State.regWrite (s : State) (n : Nat) (v : Word) : Except Nat State :=
  if Csr.allRO n then .error Cause.illegal
  else if n = 0x0203 then s.writePartcfg v
  else if n ≤ 5 then .ok (s.writeOwn n v)
  else if s.foreign n then .ok s
  else if n = 0x0200 ∨ n = 0x0201 then .ok (s.writeOnce n v)
  else if 0x0300 ≤ n ∧ n ≤ 0x037F then .ok (s.writeCbdown n v)
  else if n = 0x0388 then .ok (s.writeCinj v.toNat)
  else if n = 0x0389 then .ok (s.writeLinj v)
  else if 0x0390 ≤ n then (if n ≤ 0x039B then .ok (s.writeKlstat (n - 0x0390) v) else .ok (s.writePlain n v))
  else .ok (s.writePlain n v)

/-- The numbers of control registers that the executing unit has (R135, R139, R359). -/
def State.hasReg (s : State) (n : Nat) : Bool := Csr.defined n && (!Csr.isCore n || isCore s.cur)

/-- CSRRD (R181). -/
def execSCsrrd (d : BitVec 5) (i : BitVec 16) (s : State) : Out :=
  let x := Instr.sCsrrd d i
  s.privileged x (
    if !s.hasReg i.toNat then s.trapAt x Cause.illegal
    else .next (((s.readEffect i.toNat).setG d (s.regValue i.toNat)).adv))

/-- CSRWR (R181). -/
def execSCsrwr (d : BitVec 5) (i : BitVec 16) (s : State) : Out :=
  let x := Instr.sCsrwr d i
  s.privileged x (
    if !s.hasReg i.toNat then s.trapAt x Cause.illegal
    else match s.regWrite i.toNat (s.g d) with
      | .error c => s.trapAt x c
      | .ok s => .next s.adv)

/-! The register events: what a write or read by the executing unit's partition does. -/

/-- CINJ_GO (R375). -/
def execECinjGo (v : BitVec 64) (s : State) : Out := .next (s.writeCinj v.toNat)

/-- LINJ_WRITE (R375). -/
def execELinjWrite (v : BitVec 64) (s : State) : Out := .next (s.writeLinj v)

/-- KLSTAT_RETRAIN (R373): the lanes that train are given with the event. -/
def execEKlstatRetrain (port : Nat) (trained : BitVec 16) (s : State) : Out :=
  .next (if port < 12 ∧ s.feat 15 ∧ !s.foreign (0x0390 + port) then s.retrain port trained else s)

/-- CBDOWN_CLEAR (R369): the banks whose bits are written as 1 return to service. -/
def execECbdownClear (die arr : Nat) (v : BitVec 64) (s : State) : Out :=
  let n := 0x0300 + 32 * die + arr
  .next (if die < 4 ∧ arr < 32 ∧ !s.foreign n then s.writeCbdown n v else s)

/-- PARTCFG_WRITE (R337): a value that breaks the rule of DIEP traps ILLEGAL. -/
def execEPartcfgWrite (v : BitVec 64) (s : State) : Out :=
  match s.writePartcfg v with
  | .error c => s.trapAt (.sCsrwr 0#5 0x0203#16) c
  | .ok s => .next s

/-- PWRSTAT_READ (R382). -/
def execEPwrstatRead (d : BitVec 5) (s : State) : Out := .next ((s.readEffect 0x0401).setG d (s.regValue 0x0401))

/-- REGISTER_WRITE (R181): a register without behaviour of its own; an undefined one, or one with fields RO only, traps
ILLEGAL. -/
def execERegisterWrite (num : BitVec 16) (v : BitVec 64) (s : State) : Out :=
  if !s.hasReg num.toNat then s.trapAt (.sCsrwr 0#5 num) Cause.illegal
  else match s.regWrite num.toNat v with
    | .error c => s.trapAt (.sCsrwr 0#5 num) c
    | .ok s => .next s

end Sys2Proof.Machine
end

