-- ==== Sys2Proof/Machine/EvLinks.lean ====
section
/-! DEFINITION. Events of standpipes, Kredan links, power, the host endpoint and the network engine (R107, R108, R366 to R384).
An event that is not enabled leaves the machine as it is. -/

namespace Sys2Proof.Machine

open Sys2Proof

/-! Standpipes (R366 to R370). A standpipe is named by its column, 32·die + n. -/

/-- A standpipe after reset. -/
def Pipe.reset : Pipe :=
  { swaps := [], down := false, beat := none, at_ := 0, failed := false, retries := 0, failing := [], found := [], swapped := [], training := false,
    deferred := none }

/-- A standpipe. -/
def State.pipe (s : State) (k : Nat) : Pipe := s.pipes.get k Pipe.reset

/-- Replaces a standpipe. -/
def State.setPipe (s : State) (k : Nat) (p : Pipe) : State := { s with pipes := s.pipes.put k p }

/-- A register of the partition that holds a standpipe's die. -/
def State.pipeCsr (s : State) (k n : Nat) : Word := s.csr (s.partOfDie (k / 32)) n

/-- Writes the die's standpipe log (Table 20.5, R371). -/
def State.splog (s : State) (k type bank lane spares retries : Nat) : State :=
  let d := k / 32; let part := s.partOfDie d
  let e := BitVec.ofNat 64 (type * 2 ^ 62 + k % 32 * 2 ^ 35 + bank * 2 ^ 29 + lane * 2 ^ 17 + spares * 2 ^ 12 + retries * 2 ^ 8)
  s.setCsr part (0x0384 + d) (logEvent (s.csr part (0x0384 + d)) e)

/-- STRETRY (Table 20.8). -/
def State.stretry (s : State) (k : Nat) : Nat := Csr.fld (s.pipeCsr k 0x038A) 3 0

/-- The lane, data and parity lanes 0 to 2,111, whose beats LINJ inverts on a standpipe: none when the named lane carries
nothing (R371, R375, Table 20.7). A lane that was swapped again is carried by its last spare. -/
def State.inverted (s : State) (k : Nat) : Option Nat :=
  let v := (s.pipeCsr k 0x0389).toNat; let lane := bits v 39 28; let swaps := (s.pipe k).swaps
  if !bit v 0 ∨ bits v 46 45 ≠ k / 32 ∨ bits v 44 40 ≠ k % 32 then none
  else if lane < 2112 then (if swaps.contains lane then none else some lane)
  else match swaps[lane - 2112]? with
    | some l => if (swaps.drop (lane - 2111)).contains l then none else some l
    | none => none

/-- The parity group of a lane (R366). -/
def laneGroup (lane : Nat) : Nat := if lane < 2048 then lane / 32 else lane - 2048

/-- A beat leaves: the groups whose parity will fail at the far end are those of inverted lanes (R366, R375). -/
def State.leave (s : State) (k : Nat) (p : Pipe) : Pipe :=
  { p with at_ := s.fc, failed := false, failing := (s.inverted k).toList.map laneGroup }

/-- Physical address of a place, for a command. -/
def State.paOf (s : State) (c : Cmd) (l : Loc) : Option Nat :=
  match l.sp, l.at_ with
  | false, some a => match (s.translate c.tlb (keyDie c.ctxKey) c.iss.ctx a false false c.iss.priv).2 with
    | .ok t => some t.pa
    | .error _ => none
  | _, _ => none

/-- The standpipe that a command's next value travels, of its source first (R366): none when nothing is to be moved so. -/
def State.nextPipe (s : State) (c : Cmd) : Option Nat :=
  let live : Bool := match c.kind with | 0 => c.shapeCause.isNone | 2 => (s.loadCause c).isNone | _ => false
  if !live || c.num.isNone || c.err.isSome || c.total ≤ c.pos then none
  else match s.moveCols c (c.move c.pos) with
    | (some a, b) => if c.leg = 0 then some a else b
    | (none, b) => b

/-- The oldest command whose next value travels a standpipe: transfers of one column keep their order (R366). -/
def State.pipeCmd (s : State) (k : Nat) : Option (Nat × Cmd) :=
  s.cmds.foldl (fun best (i, c) =>
    if s.nextPipe c = some k then match best with
      | none => some (i, c)
      | some (_, b) => if c.ord < b.ord then some (i, c) else best
    else best) none

/-- Bits that a value takes on a standpipe: what of its source comes through it, else the value. -/
def State.beatBits (s : State) (c : Cmd) (pipe : Nat) (m : Move) : Nat :=
  match (s.sources c m.src m.w).filter (fun x => s.colOf c x.1 = some pipe) with
  | [] => if s.moveCols c m = (none, none) then 0 else m.w
  | l => (l.map Prod.snd).sum

/-- A value travels with the first of a beat: over the same standpipes, or, in an expanded tile, over none (R84). -/
def State.rides (s : State) (c : Cmd) (m : Move) : Bool :=
  m.w = (c.move c.pos).w &&
  (s.moveCols c m = s.moveCols c (c.move c.pos) || (match m.src with | .kept .. => s.moveCols c m = (none, none) | .at_ _ => false))

/-- The values of one beat: the command's next ones that travel with the first, while they take no more than the bits that are left
of 256 bytes. -/
def State.beatMoves (s : State) (c : Cmd) (pipe : Nat) : Nat → Nat → Nat → List Move
  | 0, _, _ => []
  | n + 1, room, k =>
    let m := c.move k; let b := s.beatBits c pipe m
    if c.total ≤ k ∨ !s.rides c m ∨ room < b then [] else m :: s.beatMoves c pipe n (room - b) (k + 1)

/-- A beat of n values ends with a whole word of the destination where the next value belongs to that word (R365). -/
def Cmd.wholeBeat (c : Cmd) (n : Nat) : Nat :=
  let tail := match (c.move (c.pos + n)).dst with
    | some ⟨false, some a, b⟩ => (8 * (a % 8) + b) / max 1 (c.move c.pos).w
    | _ => 0
  if c.pos + n < c.total ∧ tail < n then n - tail else n

/-- The moves of the next beat on a standpipe. -/
def State.nextBeat (s : State) (c : Cmd) (pipe : Nat) : List Move :=
  let l := s.beatMoves c pipe 2048 2048 c.pos
  l.take (c.wholeBeat l.length)

/-- The bank from which a beat comes, or to which it goes (Table 20.5). -/
def State.beatBank (s : State) (c : Cmd) : Nat :=
  let m := c.move c.pos
  let src : Option Nat := match m.src with | .at_ l => s.paOf c l | .kept _ _ a _ => s.paOf c a
  let dst : Option Nat := match m.dst with | some l => s.paOf c l | none => none
  let bank (o : Option Nat) : Option Nat := match o with
    | some pa => (match target pa with | .cistern _ => some (cisternPlace pa).2.1 | _ => none)
    | none => none
  ((if c.leg = 0 then bank src else none) <|> bank dst).getD 0

/-- Reads the values of a beat, once, at their bank (R365, R366): what has been read before the first error. -/
def State.readBeat (s : State) (c : Cmd) : List Move → List Nat → State × List Nat × Option (Err × Nat)
  | [], vs => (s, vs, none)
  | m :: l, vs => match s.readSrc c m.src m.w with
    | (s, .error e) => (s, vs, some e)
    | (s, .ok v) => (s.flagTern c m v).readBeat c l (vs ++ [v])

/-- A command has met an error on a standpipe, with which it completes. -/
def Cmd.failWith (c : Cmd) (e : Err) (addr : Nat) : Cmd := { c with err := some (e.cause, e.info, addr) }

/-- STANDPIPE_BEAT (R366): one beat at a time travels a standpipe. -/
def execEStandpipeBeat (pipe : Nat) (s : State) : Out :=
  let p := s.pipe pipe
  if p.down ∨ p.training ∨ p.beat.isSome then .next s
  else match s.pipeCmd pipe with
    | none => .next s
    | some (i, c) =>
      let w := (c.move c.pos).w; let bank := s.beatBank c
      let go (s : State) (vs : List Nat) : State := s.setPipe pipe (s.leave pipe { p with beat := some (i, bank, w, vs), retries := 0, found := [], swapped := [] })
      if c.leg = 1 then .next (go s c.buf)
      else match s.readBeat c (s.nextBeat c pipe) [] with
        | (s, [], some (e, a)) => .next { s with cmds := s.cmds.put i (c.failWith e a) }
        | (s, vs, _) => .next (go s vs)

/-- How many of the next values, of those that are there, fill one aligned word of 8 bytes of the destination: 1 when they do not. -/
def Cmd.wordRun (c : Cmd) (here : Nat) : Nat :=
  let w := (c.move c.pos).w; let n := 64 / max 1 w
  match (c.move c.pos).dst with
  | some ⟨sp, some a, 0⟩ =>
    if a % 8 = 0 ∧ n ≤ here ∧ c.pos + n ≤ c.total ∧ (List.range n).all (fun j =>
      (c.move (c.pos + j)).w = w && (c.move (c.pos + j)).dst = some ⟨sp, some (a + j * w / 8), j * w % 8⟩) then n else 1
  | _ => 1

/-- Writes n values that fill a word, in one write, or a single one. -/
def State.deliverRun (s : State) (c : Cmd) (n : Nat) (vs : List Nat) : State × Cmd × Option (Err × Nat) :=
  let m := c.move c.pos
  match n, m.dst with
  | 0, _ => (s, c, none)
  | 1, _ => s.deliverMove c m (vs.headD 0)
  | _, none => (s, c, none)
  | _, some l => match s.placeWrite c.tlb c.agent l (n * m.w) ((vs.take n).foldr (fun v x => v % 2 ^ m.w + 2 ^ m.w * x) 0) with
    | (s, .error e) => (s, c, some e)
    | (s, .ok _) => (s, { c with pos := c.pos + n }, none)

/-- Delivers the values of a beat that has arrived, in order, up to an error: a whole word of the destination at once (R365). -/
def State.deliverBeat (s : State) (c : Cmd) : Nat → List Nat → State × Cmd
  | 0, _ => (s, c)
  | k + 1, vs =>
    let n := c.wordRun vs.length
    if vs = [] then (s, c)
    else match s.deliverRun c n vs with
      | (s, c, some (e, a)) => (s, c.failWith e a)
      | (s, c, none) => s.deliverBeat c k (vs.drop n)

/-- A beat has arrived whole. What travels two standpipes goes on to the second. -/
def State.beatArrived (s : State) (i : Nat) (vs : List Nat) : State :=
  match s.cmds.find i with
  | none => s
  | some c =>
    let both := match s.moveCols c (c.move c.pos) with | (some _, some _) => true | _ => false
    if both && c.leg = 0 then { s with cmds := s.cmds.put i { c with leg := 1, buf := vs } }
    else
      let c := if both then { c with leg := 0, buf := [] } else c
      let (s, c) := s.deliverBeat c vs.length vs
      { s with cmds := s.cmds.put i c }

/-- BEAT_PARITY_CHECK (R366, R367): two fc after a beat left. One that passes at the end of a sequence is logged. -/
def State.parityCheck (s : State) (pipe : Nat) : State :=
  let p := s.pipe pipe
  match p.beat with
  | none => s
  | some (i, bank, _, vs) =>
    if p.failed ∨ p.training ∨ s.fc < p.at_ + 2 then s
    else if p.failing ≠ [] then s.setPipe pipe { p with failed := true, found := [] }
    else
      let s := match p.swapped with
        | [] => if p.retries = 0 then s else s.splog pipe 0 bank 0 p.swaps.length p.retries
        | l :: t => s.splog pipe 1 bank (t.foldl min l) p.swaps.length (s.stretry pipe)
      (s.setPipe pipe { p with beat := none, retries := 0, failing := [], swapped := [] }).beatArrived i vs

/-- BEAT_PARITY_CHECK (R366, R367): of every standpipe. -/
def execEBeatParityCheck (s : State) : Out := .next (s.pipes.foldl (fun s (k, _) => s.parityCheck k) s)

/-- BEAT_RETRY (R367): 4 fc after the previous attempt, up to STRETRY times. -/
def State.retryBeat (s : State) (pipe : Nat) : State :=
  let p := s.pipe pipe
  if p.beat.isNone ∨ !p.failed ∨ p.found ≠ [] ∨ p.training ∨ s.stretry pipe ≤ p.retries ∨ s.fc < p.at_ + 4 then s
  else s.setPipe pipe (s.leave pipe { p with retries := p.retries + 1 })

/-- BEAT_RETRY (R367): of every standpipe. -/
def execEBeatRetry (s : State) : Out := .next (s.pipes.foldl (fun s (k, _) => s.retryBeat k) s)

/-- The failing lanes that a test of the failing groups finds. -/
def State.testLanes (s : State) (k : Nat) : List Nat :=
  ((s.inverted k).filter (fun l => (s.pipe k).failing.contains (laneGroup l))).toList

/-- LANE_TEST (R367, R368): 64 fc after the last retry failed. No failing lane, or more than the free spares, takes the
standpipe down. -/
def State.testBeat (s : State) (pipe : Nat) : State :=
  let p := s.pipe pipe
  match p.beat with
  | none => s
  | some (i, bank, _, _) =>
    if !p.failed ∨ p.found ≠ [] ∨ p.training ∨ p.retries < s.stretry pipe ∨ s.fc < p.at_ + 66 then s
    else
      let l := s.testLanes pipe
      if l ≠ [] ∧ l.length + p.swaps.length ≤ 16 then s.setPipe pipe { p with found := l }
      else
        let s := s.setPipe pipe { p with down := true, beat := none, failed := false, failing := [], swapped := [], retries := 0, deferred := none }
        let s := s.splog pipe 2 bank 0 p.swaps.length p.retries
        { s with cmds := match s.cmds.find i with
          | some c => s.cmds.put i (c.failWith ⟨Cause.bankUnavailable, 0, 0⟩ c.nextAddr)
          | none => s.cmds }

/-- LANE_TEST (R367, R368): of every standpipe. -/
def execELaneTest (s : State) : Out := .next (s.pipes.foldl (fun s (k, _) => s.testBeat k) s)

/-- LANE_SWAP (R367): 16 fc after the test, each failing lane takes the lowest free spare, and the beat is sent again. One that then
fails is retried like any other (R375, log 123). -/
def State.swapLanes (s : State) (pipe : Nat) : State :=
  let p := s.pipe pipe
  if p.beat.isNone ∨ !p.failed ∨ p.found = [] ∨ p.training ∨ s.fc < p.at_ + 82 then s
  else
    let p := { p with swaps := p.swaps ++ p.found, swapped := p.swapped ++ p.found, found := [], retries := 0 }
    let s := s.setPipe pipe p
    s.setPipe pipe (s.leave pipe p)

/-- LANE_SWAP (R367): of every standpipe. -/
def execELaneSwap (s : State) : Out := .next (s.pipes.foldl (fun s (k, _) => s.swapLanes k) s)

/-- A transfer is in progress on a standpipe (R370). -/
def State.pipeBusy (s : State) (k : Nat) : Bool := (s.pipe k).beat.isSome || (s.pipeCmd k).isSome

/-- STANDPIPE_RETRAIN (R370): at once when no transfer is in progress, else deferred until the standpipe is idle. -/
def execEStandpipeRetrain (pipe : Nat) (s : State) : Out :=
  let p := s.pipe pipe
  if p.down ∨ p.training then .next s
  else if !s.pipeBusy pipe then .next (s.setPipe pipe { p with training := true, deferred := none })
  else .next (s.setPipe pipe { p with deferred := some (p.deferred.getD s.timer) })

/-- RETRAIN_FORCED (R370): RTDEF has passed before the standpipe was idle; the beat in flight is sent again after the retraining. -/
def State.forceRetrain (s : State) (pipe : Nat) : State :=
  let p := s.pipe pipe
  match p.deferred with
  | none => s
  | some t =>
    if !s.pipeBusy pipe ∨ s.timer < t + Csr.fld (s.pipeCsr pipe 0x038A) 11 8 then s
    else
      let bank := match p.beat with | some (_, b, _, _) => b | none => 0
      let s := s.setPipe pipe { p with training := true, deferred := none, retries := 0, failed := false, found := [] }
      s.splog pipe 3 bank 0 p.swaps.length p.retries

/-- RETRAIN_FORCED (R370): of every standpipe. -/
def execERetrainForced (s : State) : Out := .next (s.pipes.foldl (fun s (k, _) => s.forceRetrain k) s)

/-- RETRAIN_COMPLETE (R370): an abandoned beat is sent again. -/
def State.endRetrain (s : State) (pipe : Nat) : State :=
  let p := s.pipe pipe
  if !p.training then s
  else
    let p := { p with training := false }
    s.setPipe pipe (if p.beat.isSome then s.leave pipe p else p)

/-- RETRAIN_COMPLETE (R370): of every standpipe. -/
def execERetrainComplete (s : State) : Out := .next (s.pipes.foldl (fun s (k, _) => s.endRetrain k) s)

/-! Kredan links (R373). -/

/-- A link's register (Table 20.9), in the partition of its die. -/
def State.klstat (s : State) (port : Nat) : Word := s.csr (s.partOfDie (port / 3)) (0x0390 + port)

/-- A lane carries flits at the link's width. -/
def laneUsed (v lane : Nat) : Bool :=
  match bits v 3 2 with
  | 0 => true
  | 1 => lane / 8 = bits v 5 4
  | 2 => lane / 4 = bits v 5 4
  | _ => false

/-- The width below a width, with the failed lanes given (R373). -/
def stepDown (width failed : Nat) : Nat × Nat :=
  match width with
  | 0 => (match (List.range 2).find? (fun h => bits failed (8 * h + 7) (8 * h) = 0) with | some h => (1, h) | none => (3, 0))
  | 1 => (match (List.range 4).find? (fun q => bits failed (4 * q + 3) (4 * q) = 0) with | some q => (2, q) | none => (3, 0))
  | _ => (3, 0)

/-- A lane fails: a lane in use takes the link a step down, under a pause. -/
def State.failLane (s : State) (port lane : Nat) : State :=
  let part := s.partOfDie (port / 3); let n := 0x0390 + port; let v := s.klstat port
  let failed := Csr.fld v 31 16 ||| 2 ^ lane
  if !laneUsed v.toNat lane then s.setCsr part n (Csr.setFld v 31 16 failed)
  else
    let (w, sel) := stepDown (Csr.fld v 3 2) failed
    { s.setCsr part n (linkStep v failed w sel) with paused := if s.paused.contains port then s.paused else port :: s.paused }

/-- LANE_FAIL (R373). -/
def execELaneFail (port lane : Nat) (s : State) : Out :=
  .next (if s.feat 15 ∧ port < 12 ∧ lane < 16 then s.failLane port lane else s)

/-- LINK_REPLAY (R373): more than 8 replays within 1 µs fail the lane that causes them. -/
def execELinkReplay (port lane : Nat) (s : State) : Out :=
  if !s.feat 15 ∨ 12 ≤ port ∨ 16 ≤ lane then .next s
  else
    let k := 16 * port + lane
    let (t, n) := s.replays.get k (s.timer, 0)
    let n := if t = s.timer then n + 1 else 1
    let s := { s with replays := s.replays.put k (s.timer, n) }
    .next (if n = 9 then s.failLane port lane else s)

/-- LINK_RESUME (R373). -/
def execELinkResume (port : Nat) (s : State) : Out := .next { s with paused := s.paused.filter (· ≠ port) }

/-! Power (R382, Table 22.5). -/

/-- Replaces a field of PWRSTAT. -/
def State.setPwr (s : State) (hi lo v : Nat) : State := s.setCsr 0 0x0401 (Csr.setFld (s.csr 0 0x0401) hi lo v)

/-- DROOP_STRETCH (R382): the count saturates. -/
def execEDroopStretch (s : State) : Out :=
  let v := s.csr 0 0x0401; let n := Csr.fld v 7 1
  .next (if bit v.toNat 0 then s else (s.setPwr 0 0 1).setPwr 7 1 (if n = 127 then n else n + 1))

/-- DROOP_RECOVER (R382). -/
def execEDroopRecover (s : State) : Out := .next (s.setPwr 0 0 0)

/-- POWER_CAP_STEP (R382): one step of 1/64, between 0.65 GHz and 1.3 GHz. -/
def execEPowerCapStep (watts : BitVec 16) (s : State) : Out :=
  let s := s.setPwr 31 16 watts.toNat
  let v := s.csr 0 0x0401; let clk := Csr.fld v 15 8
  .next (s.setPwr 15 8 (if Csr.fld v 47 32 < watts.toNat then (if 32 < clk then clk - 1 else clk) else if clk < 64 then clk + 1 else clk))

/-! Accesses that come with a physical address: the host's, another module's, and the network engine's counters. A line is
accessed under the key that it was last written with (log 124). -/

/-- The agent of the host, another module, or the network engine. -/
def outsider : Issuer := { ctx := 0, cbix := 0, priv := false, die := 0, frame := none, unit := none }

/-- Reads n bytes at a home node. -/
def State.rawRead (s : State) (pa n : Nat) : State × Except Nat Nat :=
  match target pa with
  | .hbm _ => (s, .ok (leNat ((List.range n).map (fun i => Memory.read s.mem (pa + i)))))
  | .hole => (s, .error Cause.trPa)
  | .host => (s, .error Cause.trPa)
  | .remote _ => (s, .error Cause.trPa)
  | _ => match s.physRead 0 pa n with
    | (s, .ok b) => (s, .ok (leNat b))
    | (s, .error c) => (s, .error c)

/-- Writes n bytes at a home node. -/
def State.rawWrite (s : State) (pa n v : Nat) : State × Except Nat Unit :=
  match target pa with
  | .hbm _ =>
    let m := (leBytes n v).zipIdx.foldl (fun m (b, i) => Memory.write m (pa + i) b) s.mem
    ({ s with mem := m }.watchHook pa n, .ok ())
  | .hole => (s, .error Cause.trPa)
  | .host => (s, .error Cause.trPa)
  | .remote _ => (s, .error Cause.trPa)
  | _ => s.physWrite 0 pa (leBytes n v)

/-- What an operation writes, from the value that it reads: none for a load. -/
def busValue (op : BusOp) (size : Nat) (old data cmp : Nat) : Option Nat :=
  match op with
  | .store => some data
  | .amo k => some (amoOp k.toNat (8 * size) old (data % 2 ^ (8 * size)) (cmp % 2 ^ (8 * size)))
  | _ => none

/-- A request reads or writes memory: 1, 2, 4 or 8 bytes, aligned, and 4 or 8 for an atomic of Table 6.6 (R78, R158, R378). -/
def busOk (op : BusOp) (pa size : Nat) : Bool :=
  (size = 1 || size = 2 || size = 4 || size = 8) && pa % size = 0 &&
  (match op with | .load => true | .store => true | .amo k => decide (4 ≤ size ∧ k.toNat < 10) | _ => false)

/-- What the host can ask for: loads, stores, and the AtomicOps FetchAdd, Swap and CAS (R378). -/
def hostOp (op : BusOp) : Bool :=
  match op with
  | .load => true
  | .store => true
  | .amo k => k = 0#4 || k = 8#4 || k = 9#4
  | _ => false

/-- Whether memory of this module is at an address (Table 17.1, Table 22.6); in early service HBM stack 0 alone is (R383). -/
def State.present (s : State) (pa : Nat) : Bool :=
  match target pa with
  | .hbm k => s.feat (19 + k)
  | .cistern _ => s.feat 18
  | .scratch d => s.full && s.feat (27 + d)
  | _ => false

/-- What a request from outside is for its order: an atomic is an acquire and a release at SYSTEM scope (log 122). -/
def busAcc (op : BusOp) : Acc :=
  match op with
  | .load => { scope := 11 }
  | .store => { wr := true, scope := 11 }
  | _ => { wr := true, atomic := true, acq := true, rel := true, scope := 11 }

/-- Performs a request from outside, indivisibly, under the race-watch directory of its home (R103, R105, R107): the value read, and
the machine. A request that meets an absent or failing place does nothing. -/
def State.busPerform (s : State) (far : Nat) (op : BusOp) (pa size data cmp : Nat) : State × Option Nat :=
  if !busOk op pa size || !s.present pa then (s, none)
  else
    let k := busAcc op; let i : Issuer := { outsider with far := far }
    match (if op = .store then (s, .ok 0) else s.rawRead pa size) with
    | (s, .error _) => (s, none)
    | (s, .ok old) => match busValue op size old data cmp with
      | none => (s.ordered i pa size true k false, some old)
      | some v => match s.rawWrite pa size v with
        | (s, .error _) => (s, none)
        | (s, .ok _) => (s.ordered i pa size true k true, some old)

/-- A LOCK or UNLOCK of an agent of another module (R102, R107): its answer, 0 or the cause, or none while it waits. -/
def State.farToken (s : State) (src id : Nat) (op : BusOp) (pa agent : Nat) : State × Option Nat :=
  match (if s.present pa then lockToken pa else none) with
  | none => (s, none)
  | some k =>
    let t := s.tokens.get k ⟨none, []⟩; let me := some (2 ^ 40 + src, agent, 0)
    if op = .unlock then
      if t.holder ≠ me then (s, some Cause.lockState)
      else ((s.ordered { outsider with far := src + 3 } pa 1 true { rel := true, scope := 11 } false).grantNext k t.fifo, some 0)
    else if t.holder = me then (s, some Cause.lockReentry)
    else if t.holder.isSome then
      let (n, s) := s.newId
      ({ s with tokens := s.tokens.put k { t with fifo := t.fifo ++ [n] }, farLocks := s.farLocks.put n ⟨src, id, agent, s.homePart pa⟩ }, none)
    else ({ s with tokens := s.tokens.put k ⟨me, []⟩ }, some 0)

/-- What a request of another module does at its home, and its answer; `data` of a LOCK or UNLOCK names the agent (log 122). -/
def State.farPerform (s : State) (src id : Nat) (op : BusOp) (pa size data cmp : Nat) : State × Option Nat :=
  if op = .lock ∨ op = .unlock then s.farToken src id op pa data else s.busPerform (src + 3) op pa size data cmp

/-- REMOTE_ACCESS_ARRIVAL (R107, R108): a request that is performed already gives its kept response again, and one that waits for a
lock token goes on waiting. -/
def execERemoteAccessArrival (src id : Nat) (op : BusOp) (pa : Nat) (size : Nat) (data cmp : BitVec 64) (s : State) : Out :=
  if !s.feat 15 ∨ s.kept.any (fun (_, k) => k.src = src && k.id = id) ∨ s.farLocks.any (fun (_, k) => k.src = src && k.id = id) then .next s
  else match s.farPerform src id op pa size data.toNat cmp.toNat with
    | (s, none) => .next s.wakeReqs
    | (s, some v) =>
      let (n, s) := s.newId
      .next { s with kept := s.kept.put n ⟨src, id, BitVec.ofNat 64 v, s.fc + 2 * s.memto (s.homePart pa)⟩ }.wakeReqs

/-! The host's windows (R378, R379). -/

/-- A doorbell write (R379): bit 31 sets TPEND.DOORBELL, else the slot in [3:0] is launched in its turn. -/
def State.doorbell (s : State) (win : Nat) (v : Nat) : State :=
  if s.parts ≤ win then s
  else if bit v 31 then s.pend win 2
  else if bits v 30 4 ≠ 0 then s
  else { s with bells := s.bells.put win (s.bells.get win [] ++ [v % 16]) }

/-- DOORBELL_LAUNCH (R379). -/
def execEDoorbellLaunch (win : Nat) (v : BitVec 32) (s : State) : Out := .next (if bit v.toNat 31 then s else s.doorbell win v.toNat)

/-- DOORBELL_NOTIFY (R379). -/
def execEDoorbellNotify (win : Nat) (v : BitVec 32) (s : State) : Out := .next (if bit v.toNat 31 then s.doorbell win v.toNat else s)

/-- BAR0 as the host names it in a request (log 30). -/
def bar0 : Nat := 2 ^ 52

/-- A byte that the host writes into a window (Table 22.1): CAUSE is read-only, STATUS takes 0 from the host. -/
def State.slotByte (s : State) (o : Nat) (v : Byte) : State :=
  let k := o % 65536
  if 1024 ≤ k ∨ k % 64 = 37 ∨ (k % 64 = 36 ∧ v ≠ 0#8) then s else { s with slotsHost := s.slotsHost.put o v }

/-- A write of BAR0: launch slots, and the doorbell word of each window; a window of no partition ignores it. -/
def State.barWrite (s : State) (o size v : Nat) : State :=
  let win := o / 65536
  if s.parts ≤ win then s
  else if o % 65536 = 0x800 ∧ size = 4 then s.doorbell win (v % 2 ^ 32)
  else (leBytes size v).zipIdx.foldl (fun s (b, i) => s.slotByte (o + i) b) s

/-- HOST_REQUEST (R378): a request to module memory is performed there; a store to BAR0 writes its window. A host's load leaves
nothing behind in the module, but for what the bank corrects. -/
def execEHostRequest (op : BusOp) (pa : Nat) (size : Nat) (data cmp : BitVec 64) (s : State) : Out :=
  if bar0 ≤ pa ∧ pa < bar0 + 262144 then
    .next (if op = .store ∧ busOk op pa size then s.barWrite (pa - bar0) size data.toNat else s)
  else .next (if hostOp op then (s.busPerform 1 op pa size data.toNat cmp.toNat).1.wakeReqs else s)

/-- Byte i of a launch slot. -/
def State.slotAt (s : State) (win slot i : Nat) : Byte := s.slotsHost.get (65536 * win + 64 * slot + i) 0#8

/-- A number of a launch slot. -/
def State.slotNat (s : State) (win slot i n : Nat) : Nat := leNat ((List.range n).map (fun j => s.slotAt win slot (i + j)))

/-- The checks of a launch in their order (R379, R161, R311): the cause, or the machine with the record queued. -/
def State.launch (s : State) (win slot : Nat) : Except Nat State :=
  let ctx := s.slotNat win slot 32 2; let r := BitVec.ofNat 256 (s.slotNat win slot 0 32)
  let zero (i n : Nat) : Bool := s.slotNat win slot i n = 0
  let root : Bool := match s.cb ctx (recCbix r) with | some b => bits b 23 0 = recCbix r | none => false
  if s.partOfCtx ctx ≠ win ∨ !s.ctxLive ctx then .error Cause.trContext
  else if !zero 34 2 ∨ !zero 38 26 ∨ recJoin r ≠ 0 then .error Cause.badRecord
  else if !root ∨ !recClean r then .error Cause.badRecord
  else match s.makeLive ctx (recCbix r) with
    | .error c => .error c
    | .ok s' =>
      let k := s'.queueOf ctx (recCbix r)
      if k < 128 ∧ s'.partOfDie (k / 32) ≠ win then .error Cause.trPartition
      else if !bit (s'.qcfg k) 0 then .error Cause.badRecord
      else if !s'.queueRoom k ctx then .error Cause.backingFull
      else .ok (s'.enqueue ctx r 0#64 none none [])

/-- Writes STATUS and CAUSE of a slot. -/
def State.slotStatus (s : State) (win slot st cause : Nat) : State :=
  let b := 65536 * win + 64 * slot
  { s with slotsHost := (s.slotsHost.put (b + 36) (BitVec.ofNat 8 st)).put (b + 37) (BitVec.ofNat 8 cause) }

/-- HOST_LAUNCH (R379): the oldest doorbell of a window; the release of STATUS, and TPEND.DOORBELL in any case. -/
def execEHostLaunch (win : Nat) (s : State) : Out :=
  match s.bells.get win [] with
  | [] => .next s
  | slot :: rest =>
    let s := { s with bells := s.bells.put win rest }
    .next (match s.launch win slot with
      | .error c => (s.slotStatus win slot 2 c).pend win 2
      | .ok s => (s.slotStatus win slot 1 0).pend win 2)

/-! The network engine (R381). -/

/-- The network engine's accesses for a context of a partition. -/
def State.netIss (s : State) (part ctx : Nat) : Issuer :=
  { outsider with ctx := ctx, far := 2, die := ((List.range 4).find? (fun d => s.partOfDie d = part)).getD 0 }

/-- Increments completion counter c of a partition as a release at SYSTEM scope; a number beyond NECTB.NUM is nothing. -/
def State.netCount (s : State) (part c : Nat) : State :=
  let v := s.csr part 0x0403; let pa := bits v.toNat 51 12 * 4096 + 8 * c
  if 16 * (Csr.fld v 11 0 + 1) ≤ c then s
  else match s.rawRead pa 8 with
    | (s, .error _) => s
    | (s, .ok n) => match s.rawWrite pa 8 ((n + 1) % 2 ^ 64) with
      | (s, .error _) => s
      | (s, .ok _) => s.ordered { outsider with far := 2 } pa 8 true { wr := true, rel := true, scope := 11 } true

/-- NE_INCOMING_WRITE (R381): the bytes are placed under the race-watch directory (R105), whole words at once (R365), and the counter
is incremented once every one has been. -/
def execENeIncomingWrite (part ctx : Nat) (addr : BitVec 64) (bytes : List (BitVec 8)) (rcnt : BitVec 16) (s : State) : Out :=
  if !s.feat 14 ∨ s.partOfCtx ctx ≠ part then .next s
  else match s.placePuts (s.netIss part ctx).tlb (s.netIss part ctx) false addr.toNat (leNat bytes) (pieces addr.toNat bytes.length) with
    | (s, .error _) => .next s.wakeReqs
    | (s, .ok _) => .next (s.netCount part rcnt.toNat).wakeReqs

/-- NE_INCOMING_READ (R381): plain reads; the bytes leave the module. -/
def execENeIncomingRead (part ctx : Nat) (addr : BitVec 64) (len : Nat) (s : State) : Out :=
  .next (if !s.feat 14 ∨ s.partOfCtx ctx ≠ part then s else (s.vreadAny (s.netIss part ctx) addr.toNat len).1)

/-! Bring-up (R328, R383, R384). -/

/-- MODULE_RESET (R383): the counter of free values alone goes on (log 6). -/
def execEModuleReset (s : State) : Out := .next { State.reset with draws := s.draws }

/-- FULL_SERVICE (R384): every control core in IDLE, and every plane of FD0:B(0,0) EMPTY. -/
def execEFullService (s : State) : Out :=
  let idle := (List.range 8).all (fun i => (s.unit (256 + i)).status = .idle || (s.unit (256 + i)).status = .sleeping)
  let empty := s.planes.all (fun (k, p) => !(pkDie k = 0 && pkOx k = 0 && pkOy k = 0) || p.state = .empty)
  if s.full ∨ !idle ∨ !empty then .next s
  else .next ((List.range 4).foldl (fun s p => s.pend p 2) (s.setCsr 0 0x0400 0xFFFFE514#64))

/-- PARTITION_RESET (R328): both TLB levels of the partition. -/
def execEPartitionReset (part : Nat) (s : State) : Out := .next (s.invalidate part 2 0 0)

end Sys2Proof.Machine
end

