-- ==== Sys2Proof/Machine/EvSched.lean ====
section
/-! DEFINITION. Events of the scheduler: dispatch and stealing, binding, swap-out and swap-in, waking and restarting units
(R182, R312 to R321, R358). An event that is not enabled leaves the machine as it is. -/

namespace Sys2Proof.Machine

open Sys2Proof

/-! Dispatch (R312, R313, R383). -/

/-- A unit is present and idle: in early service only the control cores and FD0:B(0,0) run (R383). -/
def State.unitFree (s : State) (u : Nat) : Bool :=
  u < 264 && (s.unit u).status = .idle && (isCore u || (s.feat (27 + u / 64) && (s.full || u = 0)))

/-- DISPATCH (R312). -/
def execEDispatch (unit : Nat) (s : State) : Out :=
  if !s.unitFree unit then .next s
  else match s.nextRecord unit with
    | none => .next s
    | some (s, k, q, lvl) => .next (s.popRecord unit k q lvl)

/-- STEAL (R313): after STEALT of idleness, with nothing to dispatch on its own die. -/
def execESteal (unit : Nat) (s : State) : Out :=
  let steal := Csr.fld (s.csr (s.partOfUnit unit) 0x0100) 31 16
  if !s.unitFree unit ∨ isCore unit ∨ s.timer < (s.unit unit).idleAt + steal ∨ s.eligible (s.queuesOf unit) ≠ [] then .next s
  else match s.stealRecord unit with
    | none => .next s
    | some (k, q, lvl) => .next (s.popRecord unit k q lvl)

/-! Binding (R315). -/

/-- Binds a virtual plane that an eligible record's block uses. -/
def State.bindFor (s : State) (ctx cbix vp : Nat) : State :=
  match s.waitingLevel ctx cbix, s.grant ctx cbix with
  | some lvl, some g => if g.used.contains vp then s.tryBind ctx cbix vp lvl g else s
  | _, _ => s

/-- PLANE_BIND (R315). -/
def execEPlaneBind (ctx cbix vp : Nat) (s : State) : Out := .next (s.bindFor ctx cbix vp)

/-- PLANE_BIND_RECHECK (R315): with the levels that aging has given the waiting records by now. -/
def execEPlaneBindRecheck (ctx cbix vp : Nat) (s : State) : Out := .next (s.bindFor ctx cbix vp)

/-! Moving a plane to another key: what refers to it follows (R318, R319). -/

/-- A move of a plane: its key, the new one, and what becomes of its elements, its ports and its die. -/
structure Move2 where
  old : Nat
  new : Nat
  elem : Nat → Nat
  port : Nat → Nat
  die : Nat

/-- The entries of a table under new keys. -/
def Map.rekey {α : Type} (m : Map α) (f : Nat → Nat) : Map α := m.foldl (fun acc (k, v) => acc.put (f k) v) []

/-- A tag that names the new physical plane. -/
def Move2.tag (m : Move2) (t : BitVec 42) : BitVec 42 := BitVec.ofNat 42 (t.toNat % 2 ^ 40 + pkPp m.new * 2 ^ 40)

/-- An issuer in a plane that moves. -/
def Move2.iss (m : Move2) (i : Issuer) : Issuer :=
  match i.frame with
  | some (pk, e, n, f, g) => if pk = m.old then { i with die := m.die, frame := some (m.new, m.elem e, n, f, g) } else i
  | none => i

/-- A plane's own contents at their new elements. Every element keeps its stochastic-rounding register, stepped or not (R56, R319). -/
def Move2.plane (m : Move2) (p : Plane) : Plane :=
  { p with
    slots := p.slots.rekey (fun k => k / 4096 * 4096 + m.elem (k % 4096))
    sticky := p.sticky.rekey (fun k => 64 * m.elem (k / 64) + k % 64)
    groups := p.groups.map (fun (e, f) => (m.elem e, f))
    slotAt := p.slotAt.rekey (fun k => k / 4096 * 4096 + m.elem (k % 4096))
    ovf := p.ovf.map (fun w => { w with elem := m.elem w.elem, tag := m.tag w.tag })
    wregs := p.wregs.rekey (fun k => 32 * m.elem (k / 32) + k % 32)
    zoff := p.zoff.rekey (fun k => 32 * m.elem (k / 32) + k % 32)
    lfsr := (p.elems m.old).foldl (fun r e => r.put (m.elem e) (p.srReg m.old e)) []
    quiet := p.quiet.rekey m.elem
    snap := p.snap.rekey m.elem
    held := p.held.rekey (fun k => 32 * m.elem (k / 32) + k % 32)
    shifts := p.shifts.map (fun x => { x with elem := m.elem x.elem })
    groupsIn := p.groupsIn.map (fun x => { x with elem := m.elem x.elem })
    quant := p.quant.rekey (fun k => 32 * m.elem (k / 32) + k % 32)
    bars := p.bars.map (fun b => { b with arrived := b.arrived.map (fun (c, e, l) => (c, m.elem e, l)) })
    switched := p.switched.map m.elem
    waves := p.waves.map (fun (e, t) => (m.elem e, t))
    frames := p.frames.map (fun (k, f) => (k, { f with
      withdrawn := f.withdrawn.map (fun (e, t, v) => (m.elem e, m.tag t, v))
      resume := f.resume.map (fun (e, n, v) => (m.elem e, n, v)) })) }

/-- Another plane's references to a plane that moves. -/
def Move2.refs (m : Move2) (p : Plane) : Plane :=
  { p with
    pred := if p.pred = some m.old then some m.new else p.pred
    frames := p.frames.map (fun (k, f) => (k, { f with caller := f.caller.map (fun c =>
      if c.plane = m.old then { c with plane := m.new, elem := m.elem c.elem } else c) })) }

/-- Everything outside the planes that refers to a plane that moves. -/
def State.rekey (s : State) (m : Move2) : State :=
  let k (x : Nat) : Nat := if x = m.old then m.new else x
  let e (x y : Nat) : Nat := if x = m.old then m.elem y else y
  { s with
    planes := s.planes.map (fun (i, p) => (i, m.refs p))
    saved := s.saved.map (fun (v : Saved) => { v with plane := m.refs v.plane })
    flights := s.flights.map (fun f => if f.plane = m.old then
      { f with plane := m.new, elem := m.elem f.elem, tag := m.tag f.tag, par := f.par ^^^ parityOf f.pay f.tag ^^^ parityOf f.pay (m.tag f.tag) } else f)
    reqs := s.reqs.map (fun (i, q) => (i, if q.plane = m.old then { q with plane := m.new, elem := m.elem q.elem, port := m.port q.port } else q))
    cmds := s.cmds.map (fun (i, c) => (i, { c with iss := m.iss c.iss }))
    rows := s.rows.map (fun (i, r) => (i, if r.plane = m.old then
      { r with plane := m.new, iss := m.iss r.iss, segs := r.segs.map (fun (g, y, n, o) => (g, m.elem y, n, o)) } else r))
    rays := s.rays.map (fun (i, r) => (i, { r with plane := k r.plane, elem := e r.plane r.elem, iss := m.iss r.iss }))
    keeps := s.keeps.map (fun x => { x with plane := k x.plane, elem := e x.plane x.elem })
    contribs := s.contribs.map (fun (i, c) => (i, { c with plane := k c.plane, iss := m.iss c.iss }))
    windows := s.windows.map (fun (i, w) => (i, { w with plane := k w.plane }))
    sends := s.sends.map (fun (i, x) => (i, { x with iss := m.iss x.iss }))
    tokens := s.tokens.map (fun (i, t) => (i, { t with holder := t.holder.map (fun (a, f, g) => (k a, f, g)) }))
    arms := s.arms.map (fun a => { a with kind := match a.kind with | .iter pk => .iter (k pk) | x => x })
    races := s.races.map (fun r => { r with wiss := m.iss r.wiss })
    parks := s.parks.map (fun x => { x with kind := match x.kind with | .frame pk f g => .frame (k pk) f g | y => y })
    parking := s.parking.map (fun x => { x with plane := k x.plane }) }

/-! Swap-out (R185, R318). -/

/-- SWAP_OUT_START (R318): no record of the block runs, and a draw is over; the plane then draws nothing more. -/
def execESwapOutStart (plane : Nat) (s : State) : Out :=
  let p := s.plane plane
  if !s.planes.has plane ∨ p.swap ≠ 1 ∨ p.midDraw ∨ s.blockRuns p.ctx p.cbix then .next s
  else .next (s.setPlane plane { p with swap := 2 })

/-- A turn of a node that leaves its mark on the element. -/
def State.marks (s : State) : Out → Bool
  | .next t => t.fired ≠ s.fired
  | _ => false

/-- The node at the site does something when its turn comes: its declared ports hold values, or, where readiness depends on more,
its own rule says so. A LOOP or SPAWN that finds no identifier does no more than hold its element (R209). -/
def State.hasTurn (s : State) (w : Nat) : Bool :=
  let n := Decode.nodeBody w
  match w / 2 ^ 120 % 256 with
  | 0x54 => s.marks (execNBmax n s)
  | 0x55 => s.marks (execNDelay n s)
  | 0x56 => s.marks (execNBfly n s)
  | 0x57 => s.marks (execNQnt n s)
  | 0x58 => s.marks (execNDqnt n s)
  | 0x61 => s.marks (execNMerge n s)
  | 0x65 => s.marks (execNEntry n s)
  | 0x67 => s.marks (execNLoop n s)
  | 0x69 => s.marks (execNSpawn n s)
  | 0x70 => s.marks (execNPshift n s)
  | 0xB0 => s.marks (execNRayinj n s)
  | 0xB1 => s.marks (execNRayrcv n s)
  | 0xC1 => s.marks (execNCvrecv n s)
  | _ => (s.ready n).isSome

/-- A LOOP or SPAWN at the site would take its operand. -/
def State.draws? (s : State) (w : Nat) : Bool :=
  let n := Decode.nodeBody w; let t := s.site; let k := slotKey t.node t.frame 0 t.elem
  let taken (o : Out) : Bool := match o with
    | .next s' => !(s'.plane t.plane).slots.has k
    | _ => false
  match w / 2 ^ 120 % 256 with
  | 0x67 => taken (execNLoop n s)
  | 0x69 => taken (execNSpawn n s)
  | _ => true

/-- A node of a live frame is ready to fire; one that waits for a message sleeps (R217). -/
def State.firing (s : State) (pk : Nat) : Bool :=
  let p := s.plane pk
  p.frames.any (fun (f, fr) => !fr.parked && (p.placed pk).any (fun (e, i, w) =>
    let s := { s with site := ⟨pk, e, f, i⟩, fired := [] }
    wOpc w ≠ 0xC1 && s.hasTurn w && s.draws? w))

/-- Whether a request keeps its frame from being saved: sleepers, those that have woken, requests held, and those that
wait behind them do not (R217, R321, R349). -/
def State.reqActive (s : State) (r : Nat) (q : Req) : Bool :=
  match q.stage with
  | .waiting => false
  | .held => false
  | .done => false
  | .queued => s.late.any (fun x => x.req = r && x.waits) || (q.opc ≠ 0x88 && s.mayIssue r q)
  | .sent => true

/-- An issuer is a frame of a plane. -/
def Issuer.of (i : Issuer) (pk : Nat) : Bool := match i.frame with | some (k, _) => k = pk | none => false

/-- A plane has drained: what is left sleeps or is parked (R318). -/
def State.quiescent (s : State) (pk : Nat) : Bool :=
  let p := s.plane pk
  p.pred = none && p.pend = [] && p.pendShift = [] && !s.firing pk &&
  !s.flights.any (fun f => f.plane = pk) && !s.parking.any (fun x => x.plane = pk) &&
  !s.reqs.any (fun (r, q) => q.plane = pk && s.reqActive r q) &&
  !s.sends.any (fun (_, x) => !x.held && x.iss.of pk) &&
  !s.cmds.any (fun (_, c) => c.num.isNone && c.iss.of pk) &&
  !s.rows.any (fun (_, r) => r.plane = pk && r.stage = .queued) &&
  !s.rays.any (fun (_, r) => r.plane = pk && r.stage ≠ .done)

/-- Elements in which a plane is the last of its context that holds element data (R316). -/
def State.lastData (s : State) (pk : Nat) : List Nat :=
  let p := s.plane pk; let d := pkDie pk
  (p.elems pk).filter (fun e => s.edOwner.find (4096 * d + e) = some p.ctx &&
    !s.planes.any (fun (k, q) => k ≠ pk && pkDie k = d && q.ctx = p.ctx && (q.elems k).contains e))

/-- A cell of element data lies in one of the elements of a die. -/
def inData (d : Nat) (els : List Nat) (c : Host.Cell) : Bool := els.contains (c.1 / 28672 - 4096 * d) && c.1 / 28672 / 4096 = d

/-- Withdraws the watches and lock requests of a plane; they are queued again at their ports (R217). -/
def State.withdrawReqs (s : State) (pk : Nat) : State :=
  let mine (q : Req) : Bool := q.plane = pk && q.stage = .waiting && (q.opc = 0x88 || q.opc = 0x91)
  { s with
    tokens := s.tokens.map (fun (k, t) => (k, { t with fifo := t.fifo.filter (fun r => match s.reqs.find r with | some q => !mine q | none => false) }))
    reqs := s.reqs.map (fun (k, q) => (k, if mine q then { q with stage := .queued, done := 0 } else q)) }

/-- Writes element data into a save area: element k of the region, row-major, past its plane state and token slots (Table 16.2). -/
def State.saveData (s : State) (p : Plane) (pk a : Nat) (els : List Nat) : State :=
  els.foldl (fun s e =>
    let k := relY pk e * (8 * p.w) + relX pk e
    (List.range 7).foldl (fun s i =>
      s.pokeSys p.ctx (a + 0x2000 + 61440 * k + 32768 + 4096 * i)
        ((List.range 4096).map (fun j => Memory.read s.edata (edAddr pk e (4096 * i + j))))) s) s

/-- Writes the plane state and the token slots of n elements, 32 KiB each, whose layout Table 16.2 does not give: free bytes from
draw d on (log 40). -/
def State.saveElems (s : State) (ctx a d n : Nat) : State :=
  (List.range n).foldl (fun s k => (List.range 8).foldl (fun s i =>
    s.pokeSys ctx (a + 0x2000 + 61440 * k + 4096 * i) (freeBytes (d + 32768 * k + 4096 * i) 4096)) s) s

/-- Writes the save area of a plane (Table 16.2): the fields whose layout the table gives, and free bytes where it does not
(log 40). -/
def State.saveArea (s : State) (pk : Nat) (els : List Nat) : State :=
  let p := s.plane pk; let a := s.planeArea p; let d := s.draws
  let s : State := { s with draws := d + 16 + 32768 * (64 * p.w * p.h) }
  let s := s.pokeSys p.ctx (a + 0x08) (freeBytes d 8)
  let s := s.pokeSys p.ctx (a + 0x10) (leBytes 8 p.flags.toNat)
  let s := s.pokeSys p.ctx (a + 0x18) (freeBytes (d + 8) 8)
  let s := s.saveElems p.ctx a (d + 16) (64 * p.w * p.h)
  let s := s.pokeSys p.ctx (a + 0x100) ((List.range 8).flatMap (fun i => leBytes 8 (s.roleReg pk i).toNat))
  let n := min 64 p.tokq.length
  let s := s.pokeSys p.ctx (a + 0x200) (leBytes 8 (n + 2 ^ 32 * (p.tokq.length - n)))
  let s := s.pokeSys p.ctx (a + 0x240) ((p.tokq.take 64).flatMap (fun x => leBytes 2 x.2.toNat))
  let s := s.pokeSys p.ctx (a + 0x1000) ((p.tokq.take 64).flatMap (fun x => leBytes 64 x.1.toNat))
  s.saveData p pk a els

/-- SWAP_OUT_SAVE (R316, R318, R321): the plane leaves its region, and status 2 is written last. -/
def execESwapOutSave (plane : Nat) (s : State) : Out :=
  let p := s.plane plane
  if !s.planes.has plane ∨ p.swap ≠ 2 ∨ !s.quiescent plane then .next s
  else
    let region : Region := ⟨pkDie plane, pkOx plane, pkOy plane, p.w, p.h, 0⟩
    let a := s.planeArea p; let d := pkDie plane
    let els := s.lastData plane
    let s := (s.returnCmsg p).setPlane plane { p with cmsg := [] }
    let s := (s.withdrawReqs plane).saveArea plane els
    let key := 2 ^ 20 * (s.fresh + 1) + plane
    let m : Move2 := ⟨plane, key, id, id, d⟩
    let v : Saved :=
      { key := key, ctx := p.ctx, cbix := p.cbix, vp := p.vp, plane := s.plane plane, region := region,
        els := els, edata := s.edata.filter (inData d els), restoring := false, kills := [] }
    let b := s.block p.ctx p.cbix
    let s := { s with
      fresh := s.fresh + 1
      planes := s.planes.del plane
      saved := s.saved ++ [v]
      blocks := if s.blocks.has (blockKey p.ctx p.cbix) then
          s.blocks.put (blockKey p.ctx p.cbix) { b with binds := b.binds.filter (fun x => x.2 ≠ plane) } else s.blocks
      edata := s.edata.filter (fun c => !inData d els c)
      edOwner := s.edOwner.filter (fun (k, _) => !(k / 4096 = d && els.contains (k % 4096))) }
    .next (((s.rekey m).pokeSys p.ctx a (leBytes 8 2)).wakeReqs)

/-! Swap-in (R319). -/

/-- The move of a saved plane into a region that holds it, at the region's origin (log 106). -/
def Saved.move (v : Saved) (g : Region) (pk : Nat) : Move2 :=
  let mx (x : Nat) : Nat := x + 8 * g.ox - 8 * v.region.ox
  let my (y : Nat) : Nat := y + 8 * g.oy - 8 * v.region.oy
  { old := v.key, new := pk, die := g.die,
    elem := fun e => 64 * my (e / 64) + mx (e % 64)
    port := fun p =>
      let b := p % 128 / 2
      128 * g.die + 2 * (8 * (b / 8 + g.oy - v.region.oy) + (b % 8 + g.ox - v.region.ox)) + p % 2 }

/-- n bytes of a plane's save area, which hardware reads under the system slot (R335); none where they cannot be read. -/
def State.areaRead (s : State) (p : Plane) (off n : Nat) : Option Nat :=
  (s.peekTr p.ctx (s.planeArea p + off)).bind (fun t =>
    if s.intact t.pa n then some (s.natAt (s.sysSlot (s.partOfCtx p.ctx)) t.pa n) else none)

/-- The plane as Table 16.2 gives it back: the flag register and the token queue as the save area holds them, the vectors beyond 64
where R211 spilled them. What the table does not lay out, and what cannot be read, is as it was saved (log 40). -/
def State.reload (s : State) (p : Plane) : Plane :=
  let held := match s.areaRead p 0x200 8, s.areaRead p 0x240 128, s.areaRead p 0x1000 4096 with
    | some n, some masks, some vecs => (List.range (min 64 (n % 2 ^ 32))).map (fun i =>
        (BitVec.ofNat 512 (vecs / 2 ^ (512 * i)), BitVec.ofNat 16 (masks / 2 ^ (16 * i))))
    | _, _, _ => p.tokq.take 64
  { p with
    flags := match s.areaRead p 0x10 8 with | some f => BitVec.ofNat 6 f | none => p.flags
    tokq := held ++ p.tokq.drop 64 }

/-- The data of an element that was saved with a plane, as the save area holds it, or as it was saved where that cannot be read. -/
def State.savedData (s : State) (x : Saved) (e : Nat) : List Host.Cell :=
  let k := relY x.key e * (8 * x.plane.w) + relX x.key e; let base := 28672 * (4096 * x.region.die + e)
  (List.range 7).flatMap (fun i => match s.areaRead x.plane (0x2000 + 61440 * k + 32768 + 4096 * i) 4096 with
    | some n => (leBytes 4096 n).zipIdx.map (fun (b, j) => (base + 4096 * i + j, b))
    | none => x.edata.filter (fun c => base + 4096 * i ≤ c.1 && c.1 < base + 4096 * (i + 1)))

/-- Restores element data that was saved with any plane of the context in the elements that a plane returns to, where it takes
nothing from another owner (R316). -/
def State.restoreData (s : State) (v : Saved) (m : Move2) : State :=
  let d := v.region.die; let all := v.plane.elems v.key
  let els := all.filter (fun e =>
    s.saved.any (fun x => x.ctx = v.ctx && x.region.die = d && x.els.contains e) && s.edOwner.get (4096 * m.die + m.elem e) v.ctx = v.ctx)
  let owned := if v.plane.usesData then all else els
  let back : List Host.Cell := (s.saved.filter (fun x => x.ctx = v.ctx && x.region.die = d)).flatMap (fun x =>
    (x.els.filter els.contains).flatMap (s.savedData x))
  { s with
    saved := s.saved.map (fun (x : Saved) => if x.ctx = v.ctx ∧ x.region.die = d then
      { x with els := x.els.filter (fun e => !els.contains e), edata := x.edata.filter (fun c => !inData d els c) } else x)
    edata := back.foldl (fun l c => Memory.write l (28672 * (4096 * m.die + m.elem (c.1 / 28672 % 4096)) + c.1 % 28672) c.2) s.edata
    edOwner := owned.foldl (fun o e => o.put (4096 * m.die + m.elem e) v.ctx) s.edOwner }

/-- Sets A in the leaves through which hardware reads a save area (R326). -/
def State.touchArea (s : State) (p : Plane) : State :=
  (List.range (2 + 15 * (64 * p.w * p.h))).foldl (fun s i => s.touch p.ctx (s.planeArea p + 4096 * i)) s

/-- The planes of other owners whose element data a saved plane needs in a region (R316). -/
def State.dataHeld (s : State) (v : Saved) (g : Region) : List Nat :=
  if v.plane.usesData then s.dataHolders g.die (s.dataTaken (planeKey g.die g.ox g.oy 0) v.plane) else []

/-- The role registers that name a virtual plane go with it from one region of its context to another, each under its number where
that is free (R115). -/
def State.moveRoles (s : State) (ctx vp from_ dst : Nat) : State :=
  if from_ = dst then s
  else (List.range 8).foldl (fun s n =>
    let w := s.roles.get (roleKey ctx from_ n) 0#64
    if !bit w.toNat 26 ∨ bits w.toNat 20 19 ≠ vp ∨ bit (s.roles.get (roleKey ctx dst n) 0#64).toNat 26 then s
    else { s with roles := (s.roles.put (roleKey ctx dst n) w).put (roleKey ctx from_ n) 0#64 }) s

/-- Restores a plane (R319): status 3, the plane that its save area holds with its sleepers and what PARKRES and PARKKILL did
meanwhile (R318), then status 0. -/
def State.restore (s : State) (v : Saved) (g : Region) (pk : Nat) : State :=
  let m := v.move g pk
  let p := { m.plane (s.reload v.plane) with swap := 0, drainPrio := 0, boundAt := s.timer }
  let a := s.planeArea p
  let s := (s.pokeSys p.ctx a (leBytes 8 3)).touchArea v.plane
  let s := s.restoreData v m
  let s := { s with saved := s.saved.filter (fun x => x.key ≠ v.key) }
  let s := (s.rekey m).bindTo v.ctx v.cbix v.vp pk (m.refs p)
  let woken (q : Req) : Bool := q.plane = pk && q.opc = 0x97 && q.stage = .waiting && q.done ≤ (s.eng (s.tlwKey q)).counter
  let s := { s with reqs := s.reqs.map (fun (k, q) => (k, if woken q then { q with stage := .done } else q)) }
  let s := s.moveRoles v.ctx v.vp (v.key / 4 % 256) (pk / 4 % 256)
  let s := v.kills.foldl (fun s (f, g) => if (s.plane pk).gen f = g then s.killFrame pk f else s) s
  let s := (s.plane pk).frames.foldl (fun s (f, fr) => if fr.parked then s else s.unpark pk f) s
  (s.pokeSys p.ctx a (leBytes 8 0)).wakeReqs

/-- SWAP_IN (R185, R319): on SWAPIN, or for an eligible record of the block; when its place or its element data is held, victims
are chosen by R315 and R316. -/
def execESwapIn (ctx cbix vp : Nat) (s : State) : Out :=
  match s.savedOf ctx cbix vp, s.grant ctx cbix with
  | some v, some g =>
    let lvl := s.waitingLevel ctx cbix
    let data := s.dataHeld v g
    if (!v.restoring ∧ lvl.isNone) ∨ g.w < v.plane.w ∨ g.h < v.plane.h then .next s
    else match s.freePlane g, data, lvl with
      | some pp, [], _ => .next (s.restore v g (planeKey g.die g.ox g.oy pp))
      | some _, _, some l => .next (if data.all (s.victim ctx cbix l) then s.chooseVictims l data else s)
      | none, _, some l =>
        if (List.range 4).any (fun pp => (s.holders g pp ++ data).all (fun k => (s.plane k).swap ≠ 0)) then .next s
        else .next (s.chooseVictims l ((s.candidate ctx cbix l g data).getD []))
      | _, _, none => .next s
  | _, _ => .next s

/-! Units. -/

/-- A control core in IDLE whose TPEND is nonzero. -/
def UnitSt.wakes (x : UnitSt) : Bool := x.status = .sleeping && x.tpend ≠ 0#64

/-- IDLE_WAKE (R358): of every control core in IDLE whose TPEND is nonzero. -/
def execEIdleWake (s : State) : Out :=
  .next { s with units := s.units.map (fun (u, x) => (u, if isCore u && x.wakes then { x with status := .running } else x)) }

/-- UNIT_RESTART (R182). -/
def execEUnitRestart (unit : Nat) (s : State) : Out :=
  let x := s.unit unit
  .next (if x.status = .halted then s.setUnit unit { x with status := .idle, idleAt := s.timer } else s)

end Sys2Proof.Machine
end

