-- ==== Sys2Proof/Machine/Tick.lean ====
section
/-! DEFINITION. The end of an fc, and the order in which this model lets the agents of the machine move within the next one
(R4, R16, R21, R23, R24, R34, R237, R240, R242, R245, R343). -/

namespace Sys2Proof.Machine

open Sys2Proof

/-! The end of an fc. -/

/-- A change that takes effect at the end of the fc. -/
def Plane.applyPend (p : Plane) : Pending → Plane
  | .wreg k v => { p with wregs := p.wregs.put k v }
  | .zoff k z => { p with zoff := p.zoff.put k z }
  | .quiet e q v => { p with
      quiet := p.quiet.put e (q, ((p.quiet.find e).map Prod.snd).getD false)
      snap := p.snap.put e v }
  | .stick k v => { p with sticky := p.sticky.put k v }
  | .prio n => { p with prio := n }

/-- Inserts a shift's write in ascending order of its node. -/
def insertShift (x : Nat × Pending) : List (Nat × Pending) → List (Nat × Pending)
  | [] => [x]
  | y :: t => if x.1 < y.1 then x :: y :: t else y :: insertShift x t

/-- A plane at the end of an fc: quiet bits of this fc become those of the one before (R245), changes are applied in order and
shifts by node (R237), and the flag register is what FLAGR will read (R234). -/
def Plane.endFc (p : Plane) : Plane :=
  let p := { p with quiet := p.quiet.map (fun ((k, q) : Nat × Bool × Bool) => (k, q.1, q.1)) }
  let l := p.pend ++ (p.pendShift.foldl (fun l x => insertShift x l) []).map Prod.snd
  let p := l.foldl Plane.applyPend { p with pend := [], pendShift := [] }
  { p with flags0 := p.flags }

/-- A time-out that waits for another module is extended by each fc in which a link of its partition pauses (R374). -/
def State.extend (s : State) : State :=
  let on (die : Nat) : Nat := b2n (s.paused.any (fun p => s.partOfDie (p / 3) = s.partOfDie die))
  let reqOn (r : Nat) : Nat := match s.reqs.find r with | some q => on (s.reqIss q).die | none => 0
  if s.paused = [] then s
  else { s with
    late := s.late.map (fun x => if x.waits then { x with at_ := x.at_ + reqOn x.req } else x)
    reqs := s.reqs.map (fun ((r, q) : Nat × Req) => (r, if q.opc = 0x91 ∧ q.stage = .waiting then { q with at_ := q.at_ + reqOn r } else q))
    sends := s.sends.map (fun ((i, x) : Nat × Send) => (i, { x with due := x.due + on x.iss.die })) }

/-- The clocks advance (R4, log 7). -/
def State.clock (s : State) : State := { s with fc := s.fc + 1, timer := s.timer + Config.timerAdvance s.fc, fired := [] }

/-- The end of an fc: changes are applied, planes whose queues have outgrown their area freeze (R351), frames that met a fault are
parked (R343), and the clocks advance. -/
def State.endFc (s : State) : State :=
  let s : State := { s with planes := s.planes.map (fun ((k, p) : Nat × Plane) => (k, p.endFc)) }
  ((s.planes.map Prod.fst).foldl State.spillCheck s).applyParks.extend.clock

/-! Who moves in an fc. An event that is not enabled when its turn comes leaves the machine as it is, so a list may name more
than can move. -/

/-- Firings that a plane has ready: element, in the order of 64y + x (R209) and then of dies, priority, distance of the plane from the round-robin pointer, draw order, node, and
the site (R23). -/
def State.readySites (s : State) (pk : Nat) : List (Nat × Nat × Nat × Nat × Nat × Site) :=
  let p := s.plane pk; let pr := s.planePrio pk
  (p.placed pk).flatMap (fun (e, i, w) =>
    let key := 4096 * pkDie pk + e
    let place := 4 * e + pkDie pk
    p.frames.filterMap (fun (f, fr) =>
      let t : Site := ⟨pk, e, f, i⟩
      if { s with site := t }.hasTurn w then
        some (place, 7 - pr, (pkPp pk + 4 - s.rr.get key 0) % 4, fr.order, i, t) else none))

/-- The order of R23 between two firings of one element. -/
def siteBefore (a b : Nat × Nat × Nat × Nat × Nat × Site) : Bool :=
  let (ka, pa, ra, oa, na, _) := a; let (kb, pb, rb, ob, nb, _) := b
  ka < kb || (ka = kb && (pa < pb || (pa = pb && (ra < rb || (ra = rb && (oa < ob || (oa = ob && na < nb)))))))

/-- Inserts a firing in that order. -/
def insertSite (x : Nat × Nat × Nat × Nat × Nat × Site) :
    List (Nat × Nat × Nat × Nat × Nat × Site) → List (Nat × Nat × Nat × Nat × Nat × Site)
  | [] => [x]
  | y :: t => if siteBefore x y then x :: y :: t else y :: insertSite x t

/-- Firings of an fc, in the order of R23: the first that can fire takes its element. -/
def State.fireActs (s : State) : List Act :=
  let l := s.planes.flatMap (fun (k, p) => if p.frames = [] then [] else s.readySites k)
  (l.foldl (fun acc x => insertSite x acc) []).map (fun x => .fire x.2.2.2.2.2)

/-- Arrivals of the end of this fc (R24): each index as it will be once those before it have left the list, with the links that a
token has been left waiting on. -/
def dueActs (s : State) : List Flight → Nat → List Nat → List Act
  | [], _, _ => []
  | x :: l, i, held =>
    if x.due ≤ s.fc ∧ !held.contains x.src ∧ !s.saved.any (fun v => v.key = x.plane) then .event (.eTokenArrival i) :: dueActs s l i held
    else dueActs s l (i + 1) (x.src :: held)

/-- Sources, splices, shifts, barriers and overflow of a plane. -/
def Plane.acts (p : Plane) (pk : Nat) : List Act :=
  (p.shifts.map (fun x => Act.event (.eShiftComplete pk (x.elem % 64) (x.elem / 64) x.node x.frame))) ++
  ((p.ovf.filter (fun w => w.mem)).map (fun w => Act.event (.eOverflowReturn pk (w.elem % 64) (w.elem / 64)))) ++
  (if p.pred.isSome then (p.elems pk).flatMap (fun e => [Act.event (.eWaveSend pk (e % 64) (e / 64)), .event (.eElementSwitch pk (e % 64) (e / 64))])
    else []) ++
  (if p.iter.isSome then [.event (.eIterComplete pk), .event (.eIterDraw pk)] else []) ++
  (if p.swap = 0 then [] else [.event (.eSwapOutStart pk), .event (.eSwapOutSave pk)])

/-- What a request waits for at its port or unit. -/
def reqActs (r : Nat) (q : Req) : List Act :=
  if q.opc = 0xB3 ∨ q.opc = 0xB5 then [.event (.eSamplerResult r)]
  else match q.stage with
    | .sent => [.event (.eMemoryRequestAccept r)]
    | .queued => if q.opc = 0x88 then [] else [.event (.eMemoryAccessPerform r), .event (.eMemTimeoutExpiry r)]
    | .waiting => if q.opc = 0x91 then [.event (.eMemTimeoutExpiry r)] else []
    | _ => []

/-- What a command waits for. -/
def cmdActs (i : Nat) (c : Cmd) : List Act :=
  match c.num, c.kind with
  | none, k => [.event (if k ≤ 1 then .eEngineCommandAccept i else .eArrayCommandAccept i)]
  | some _, 2 => [.event (.eMxlsComplete i)]
  | some _, 3 => [.event (.eMxswApply i)]
  | some _, _ => [.event (.eEngineCommandComplete i)]

/-- A retraining interval of a standpipe ended with the last fc: RTINT counts from 0 on the reference timer (R370, log 60). -/
def State.retrainDue (s : State) (pipe : Nat) : Bool :=
  let n := Csr.fld (s.pipeCsr pipe 0x038A) 31 16
  s.timer / n ≠ (s.timer - Config.timerAdvance (s.fc - 1)) / n

/-- What standpipes may do. -/
def State.pipeActs (s : State) : List Act :=
  (if s.pipes = [] then [] else [.event .eBeatParityCheck, .event .eBeatRetry, .event .eLaneTest, .event .eLaneSwap, .event .eRetrainForced,
    .event .eRetrainComplete]) ++
  ((s.pipes.filter (fun (k, p) => p.deferred.isSome || s.retrainDue k)).map (fun (k, _) => Act.event (.eStandpipeRetrain k))) ++
  (((s.cmds.filterMap (fun (_, c) => s.nextPipe c)).eraseDups).map (fun k => Act.event (.eStandpipeBeat k)))

/-- What a ray waits for. -/
def rayActs (i : Nat) (r : Ray) : List Act :=
  match r.stage, r.node, r.stack with
  | .sent, _, _ => [.event (.eRayAccept i)]
  | .done, _, _ => []
  | _, some _, _ => [.event (.eBoxTest i)]
  | _, none, x :: _ => [.event (if x.tris = 0 then .eNodeInjection i else .eTriangleTest i), .event (.eRayComplete i)]
  | _, none, [] => [.event (.eRayComplete i)]

/-- Binding and swap-in of the virtual planes that queued records need. -/
def State.bindActs (s : State) : List Act :=
  let bs := (s.queues.flatMap (fun (_, q) => q.map (fun r => (r.ctx, recCbix r.record)))).eraseDups
  bs.flatMap (fun (c, b) => match s.grant c b with
    | none => []
    | some g => g.used.map (fun v => if (s.savedOf c b v).isSome then Act.event (.eSwapIn c b v) else .event (.ePlaneBind c b v)))

/-- What units may do: run, wake, dispatch, steal. -/
def State.unitActs (s : State) : List Act :=
  (s.units.flatMap (fun (u, x) => match x.status with
    | .running => [Act.unit u]
    | _ => [])) ++
  (if s.queues.all (fun (_, q) => q = []) then [] else
    ((List.range 264).filter s.unitFree).flatMap (fun u => [Act.event (.eDispatch u), .event (.eSteal u)]))

/-- Everything that may move in an fc before its arrivals without the world outside: retirement first (R20), since an event that a
swap meets is applied first (R321); every other event; firings; each running unit once; and last the watched words, against what the
fc has written (R287), and the draws that run out in it (R280). What only the outside does is on no list. -/
def State.acts (s : State) : List Act :=
  (s.planes.flatMap (fun (k, p) => p.frames.map (fun (f, _) => Act.event (.eFrameRetire k f)))) ++
  (((List.range (s.planes.map (fun (_, p) => p.groupsIn.length)).sum).map (fun i => Act.event (.eShiftLaneArrival i))).reverse) ++
  (s.planes.flatMap (fun (k, p) => p.acts k)) ++
  (s.reqs.flatMap (fun (r, q) => reqActs r q)) ++
  ((s.contribs.filter (fun (_, c) => !c.accepted)).map (fun (c, _) => Act.event (.eReductionAccept c))) ++
  (s.windows.map (fun (w, _) => Act.event (.eRedWindowClose w))) ++
  ((s.contribs.filter (fun (_, c) => c.ready)).map (fun (c, _) => Act.event (.eReductionApply c))) ++
  (s.cmds.flatMap (fun (i, c) => cmdActs i c)) ++
  (s.rows.map (fun (r, x) => Act.event (if x.stage = .sent then .eMatrixRowAccept r else .eMatrixRowComplete r))) ++
  (s.rays.flatMap (fun (i, r) => rayActs i r)) ++
  (s.sends.flatMap (fun (i, x) => [Act.event (if x.deleg then .eDelegationCheck i else .eSendCheck i), .event (.eMemTimeoutExpiry i)])) ++
  (s.deliveries.map (fun (d, _) => Act.event (.eRingDelivery d))) ++
  [.event .eIdentifierHoldExpiry, .event .eBarrierExit, .event .eConversationFree, .event .eKeptResponseExpiry,
   .event .eIdleWake, .event .eDeliveryRetry] ++ s.pipeActs ++
  ((s.bells.filter (fun (_, l) => l ≠ [])).map (fun (w, _) => Act.event (.eHostLaunch w))) ++
  ((s.saved.filter (fun v => v.restoring)).map (fun v => Act.event (.eSwapIn v.ctx v.cbix v.vp))) ++
  s.bindActs ++ s.fireActs ++ s.unitActs ++
  ((s.reqs.filter (fun (_, q) => q.opc = 0x88)).map (fun (r, _) => Act.event (.eWatchAdmission r))) ++
  (s.planes.map (fun (k, _) => Act.event (.eIterComplete k))) ++ [.event .eDrawWatchdog]

/-- Nothing is left to move in an fc but its arrivals, and when they have landed the fc ends and the next begins. -/
def State.tick (s : State) : State :=
  match dueActs s s.flights 0 [] with
  | [] => let s := s.endFc; { s with agenda := s.acts }
  | l => { s with agenda := l }

/-- What every move is followed by: join counts of events that have happened (R164), frames whose wait is over (R99, R102), blocks
that have stopped being live (R308) and blocks left without a record at a level (R312). -/
def State.tidy (s : State) : State := (s.settle.wakeReqs).reapBlocks.trimCycles

/-- A unit fetches and executes: it is running and does not wait for a conversation engine's answer (R139, R178). -/
def UnitSt.runs (x : UnitSt) : Bool := x.status = .running && x.wait.isNone

/-- The instruction of the node at the firing site. -/
def State.siteInstr (s : State) : Option Instr :=
  let t := s.site
  match Decode.nodeWord ((s.plane t.plane).word t.plane t.elem t.node) with
  | .ok i => some i
  | .error _ => none

end Sys2Proof.Machine
end

