-- ==== Sys2Proof/Machine/Dispatch.lean ====
section
/-! DEFINITION. One arm per constructor of Instr: the meaning of each instruction, by name. -/

namespace Sys2Proof.Machine

open Sys2Proof

/-- The meaning of an instruction. -/
def exec (i : Instr) (s : State) : Host.Outcome State Fault Refusal :=
  match i with
  | .sAdd d a b => Sys2Proof.Machine.execSAdd d a b s
  | .sSub d a b => Sys2Proof.Machine.execSSub d a b s
  | .sMul d a b => Sys2Proof.Machine.execSMul d a b s
  | .sMulh d a b => Sys2Proof.Machine.execSMulh d a b s
  | .sMulhn d a b => Sys2Proof.Machine.execSMulhn d a b s
  | .sDiv d a b => Sys2Proof.Machine.execSDiv d a b s
  | .sDivn d a b => Sys2Proof.Machine.execSDivn d a b s
  | .sRem d a b => Sys2Proof.Machine.execSRem d a b s
  | .sRemn d a b => Sys2Proof.Machine.execSRemn d a b s
  | .sAnd d a b => Sys2Proof.Machine.execSAnd d a b s
  | .sOr d a b => Sys2Proof.Machine.execSOr d a b s
  | .sXor d a b => Sys2Proof.Machine.execSXor d a b s
  | .sAndn d a b => Sys2Proof.Machine.execSAndn d a b s
  | .sShl d a b => Sys2Proof.Machine.execSShl d a b s
  | .sShr d a b => Sys2Proof.Machine.execSShr d a b s
  | .sSar d a b => Sys2Proof.Machine.execSSar d a b s
  | .sMin d a b => Sys2Proof.Machine.execSMin d a b s
  | .sMax d a b => Sys2Proof.Machine.execSMax d a b s
  | .sMinn d a b => Sys2Proof.Machine.execSMinn d a b s
  | .sMaxn d a b => Sys2Proof.Machine.execSMaxn d a b s
  | .sSel d a b c => Sys2Proof.Machine.execSSel d a b c s
  | .sClz d a => Sys2Proof.Machine.execSClz d a s
  | .sPopc d a => Sys2Proof.Machine.execSPopc d a s
  | .sCmp p a b c => Sys2Proof.Machine.execSCmp p a b c s
  | .sAddi d a im => Sys2Proof.Machine.execSAddi d a im s
  | .sAndi d a im => Sys2Proof.Machine.execSAndi d a im s
  | .sOri d a im => Sys2Proof.Machine.execSOri d a im s
  | .sXori d a im => Sys2Proof.Machine.execSXori d a im s
  | .sShli d a sh => Sys2Proof.Machine.execSShli d a sh s
  | .sShri d a sh => Sys2Proof.Machine.execSShri d a sh s
  | .sSari d a sh => Sys2Proof.Machine.execSSari d a sh s
  | .sLdi d im => Sys2Proof.Machine.execSLdi d im s
  | .sLdhi d h im => Sys2Proof.Machine.execSLdhi d h im s
  | .sCmpiCcLow c p a im => Sys2Proof.Machine.execSCmpiCcLow c p a im s
  | .sCmpiCcHigh c p a im => Sys2Proof.Machine.execSCmpiCcHigh c p a im s
  | .sLdiX d im => Sys2Proof.Machine.execSLdiX d im s
  | .sAddiX d a im => Sys2Proof.Machine.execSAddiX d a im s
  | .sAndiX d a im => Sys2Proof.Machine.execSAndiX d a im s
  | .sOriX d a im => Sys2Proof.Machine.execSOriX d a im s
  | .sXoriX d a im => Sys2Proof.Machine.execSXoriX d a im s
  | .sCmpiX p c a im => Sys2Proof.Machine.execSCmpiX p c a im s
  | .sLd d a sh o => Sys2Proof.Machine.execSLd d a sh o s
  | .sLdN d a sh o => Sys2Proof.Machine.execSLdN d a sh o s
  | .sSt d a sh o => Sys2Proof.Machine.execSSt d a sh o s
  | .sLdacq d a z c => Sys2Proof.Machine.execSLdacq d a z c s
  | .sStrel d a z c => Sys2Proof.Machine.execSStrel d a z c s
  | .sAmo d a b o z c => Sys2Proof.Machine.execSAmo d a b o z c s
  | .sFence c => Sys2Proof.Machine.execSFence c s
  | .sBr p sh o => Sys2Proof.Machine.execSBr p sh o s
  | .sJmp o => Sys2Proof.Machine.execSJmp o s
  | .sJmpi a => Sys2Proof.Machine.execSJmpi a s
  | .sCall o => Sys2Proof.Machine.execSCall o s
  | .sCont a => Sys2Proof.Machine.execSCont a s
  | .sEnq a => Sys2Proof.Machine.execSEnq a s
  | .sJoin a b => Sys2Proof.Machine.execSJoin a b s
  | .sArmIter a k => Sys2Proof.Machine.execSArmIter a k s
  | .sArmTl a b => Sys2Proof.Machine.execSArmTl a b s
  | .sArmWatch a b => Sys2Proof.Machine.execSArmWatch a b s
  | .sArmConv a b r => Sys2Proof.Machine.execSArmConv a b r s
  | .sSelf d => Sys2Proof.Machine.execSSelf d s
  | .sCfgld k a => Sys2Proof.Machine.execSCfgld k a s
  | .sCfgldX k a im => Sys2Proof.Machine.execSCfgldX k a im s
  | .sCfgact k => Sys2Proof.Machine.execSCfgact k s
  | .sIter k a b n => Sys2Proof.Machine.execSIter k a b n s
  | .sSplice k p => Sys2Proof.Machine.execSSplice k p s
  | .sDrain k => Sys2Proof.Machine.execSDrain k s
  | .sPrio k l => Sys2Proof.Machine.execSPrio k l s
  | .sTokin k a n p => Sys2Proof.Machine.execSTokin k a n p s
  | .sTokget d a k => Sys2Proof.Machine.execSTokget d a k s
  | .sTidset a im => Sys2Proof.Machine.execSTidset a im s
  | .sTidget a im => Sys2Proof.Machine.execSTidget a im s
  | .sTlread d a => Sys2Proof.Machine.execSTlread d a s
  | .sCopys d a => Sys2Proof.Machine.execSCopys d a s
  | .sCvopen d a sh => Sys2Proof.Machine.execSCvopen d a sh s
  | .sCvbind a b r => Sys2Proof.Machine.execSCvbind a b r s
  | .sCvsend d a b r k => Sys2Proof.Machine.execSCvsend d a b r k s
  | .sCvsendChoose d a b r k => Sys2Proof.Machine.execSCvsendChoose d a b r k s
  | .sCvdeleg a b r => Sys2Proof.Machine.execSCvdeleg a b r s
  | .sCvclose d a => Sys2Proof.Machine.execSCvclose d a s
  | .sCsrrd d im => Sys2Proof.Machine.execSCsrrd d im s
  | .sCsrwr d im => Sys2Proof.Machine.execSCsrwr d im s
  | .sSvc n => Sys2Proof.Machine.execSSvc n s
  | .sTlbinv a b => Sys2Proof.Machine.execSTlbinv a b s
  | .sKeyld a b => Sys2Proof.Machine.execSKeyld a b s
  | .sSwapout a => Sys2Proof.Machine.execSSwapout a s
  | .sSwapin a => Sys2Proof.Machine.execSSwapin a s
  | .sParkres a => Sys2Proof.Machine.execSParkres a s
  | .sParkkill a => Sys2Proof.Machine.execSParkkill a s
  | .nIadd n => Sys2Proof.Machine.execNIadd n s
  | .nIsub n => Sys2Proof.Machine.execNIsub n s
  | .nImul n => Sys2Proof.Machine.execNImul n s
  | .nImulh n => Sys2Proof.Machine.execNImulh n s
  | .nImad n => Sys2Proof.Machine.execNImad n s
  | .nIabs n => Sys2Proof.Machine.execNIabs n s
  | .nIneg n => Sys2Proof.Machine.execNIneg n s
  | .nImin n => Sys2Proof.Machine.execNImin n s
  | .nImax n => Sys2Proof.Machine.execNImax n s
  | .nAnd n => Sys2Proof.Machine.execNAnd n s
  | .nOr n => Sys2Proof.Machine.execNOr n s
  | .nXor n => Sys2Proof.Machine.execNXor n s
  | .nNot n => Sys2Proof.Machine.execNNot n s
  | .nShl n => Sys2Proof.Machine.execNShl n s
  | .nShr n => Sys2Proof.Machine.execNShr n s
  | .nSar n => Sys2Proof.Machine.execNSar n s
  | .nRot n => Sys2Proof.Machine.execNRot n s
  | .nPopc n => Sys2Proof.Machine.execNPopc n s
  | .nClz n => Sys2Proof.Machine.execNClz n s
  | .nBfx n => Sys2Proof.Machine.execNBfx n s
  | .nBfi n => Sys2Proof.Machine.execNBfi n s
  | .nSadd n => Sys2Proof.Machine.execNSadd n s
  | .nSsub n => Sys2Proof.Machine.execNSsub n s
  | .nFadd n => Sys2Proof.Machine.execNFadd n s
  | .nFsub n => Sys2Proof.Machine.execNFsub n s
  | .nFmul n => Sys2Proof.Machine.execNFmul n s
  | .nFfma n => Sys2Proof.Machine.execNFfma n s
  | .nFmin n => Sys2Proof.Machine.execNFmin n s
  | .nFmax n => Sys2Proof.Machine.execNFmax n s
  | .nFsgn n => Sys2Proof.Machine.execNFsgn n s
  | .nFrcp n => Sys2Proof.Machine.execNFrcp n s
  | .nFrsq n => Sys2Proof.Machine.execNFrsq n s
  | .nFsqrt n => Sys2Proof.Machine.execNFsqrt n s
  | .nFdiv n => Sys2Proof.Machine.execNFdiv n s
  | .nFexp2 n => Sys2Proof.Machine.execNFexp2 n s
  | .nFlog2 n => Sys2Proof.Machine.execNFlog2 n s
  | .nCmp n => Sys2Proof.Machine.execNCmp n s
  | .nSel n => Sys2Proof.Machine.execNSel n s
  | .nMand n => Sys2Proof.Machine.execNMand n s
  | .nMor n => Sys2Proof.Machine.execNMor n s
  | .nMnot n => Sys2Proof.Machine.execNMnot n s
  | .nAny n => Sys2Proof.Machine.execNAny n s
  | .nAll n => Sys2Proof.Machine.execNAll n s
  | .nLperm n => Sys2Proof.Machine.execNLperm n s
  | .nLbcast n => Sys2Proof.Machine.execNLbcast n s
  | .nLrot n => Sys2Proof.Machine.execNLrot n s
  | .nLred n => Sys2Proof.Machine.execNLred n s
  | .nLscan n => Sys2Proof.Machine.execNLscan n s
  | .nCvt n => Sys2Proof.Machine.execNCvt n s
  | .nPack n => Sys2Proof.Machine.execNPack n s
  | .nUnpack n => Sys2Proof.Machine.execNUnpack n s
  | .nLut n => Sys2Proof.Machine.execNLut n s
  | .nBmax n => Sys2Proof.Machine.execNBmax n s
  | .nDelay n => Sys2Proof.Machine.execNDelay n s
  | .nBfly n => Sys2Proof.Machine.execNBfly n s
  | .nQnt n => Sys2Proof.Machine.execNQnt n s
  | .nDqnt n => Sys2Proof.Machine.execNDqnt n s
  | .nSteer n => Sys2Proof.Machine.execNSteer n s
  | .nMerge n => Sys2Proof.Machine.execNMerge n s
  | .nGate n => Sys2Proof.Machine.execNGate n s
  | .nCopy n => Sys2Proof.Machine.execNCopy n s
  | .nConst n => Sys2Proof.Machine.execNConst n s
  | .nEntry n => Sys2Proof.Machine.execNEntry n s
  | .nExit n => Sys2Proof.Machine.execNExit n s
  | .nLoop n => Sys2Proof.Machine.execNLoop n s
  | .nSink n => Sys2Proof.Machine.execNSink n s
  | .nSpawn n => Sys2Proof.Machine.execNSpawn n s
  | .nReturn n => Sys2Proof.Machine.execNReturn n s
  | .nTsend n => Sys2Proof.Machine.execNTsend n s
  | .nPshift n => Sys2Proof.Machine.execNPshift n s
  | .nPzrot n => Sys2Proof.Machine.execNPzrot n s
  | .nPld n => Sys2Proof.Machine.execNPld n s
  | .nPst n => Sys2Proof.Machine.execNPst n s
  | .nPquiet n => Sys2Proof.Machine.execNPquiet n s
  | .nRule n => Sys2Proof.Machine.execNRule n s
  | .nLd n => Sys2Proof.Machine.execNLd n s
  | .nSt n => Sys2Proof.Machine.execNSt n s
  | .nLdv n => Sys2Proof.Machine.execNLdv n s
  | .nStv n => Sys2Proof.Machine.execNStv n s
  | .nLdl n => Sys2Proof.Machine.execNLdl n s
  | .nStl n => Sys2Proof.Machine.execNStl n s
  | .nPref n => Sys2Proof.Machine.execNPref n s
  | .nOrdt n => Sys2Proof.Machine.execNOrdt n s
  | .nWaitw n => Sys2Proof.Machine.execNWaitw n s
  | .nLdt n => Sys2Proof.Machine.execNLdt n s
  | .nStt n => Sys2Proof.Machine.execNStt n s
  | .nRed n => Sys2Proof.Machine.execNRed n s
  | .nLock n => Sys2Proof.Machine.execNLock n s
  | .nUnlock n => Sys2Proof.Machine.execNUnlock n s
  | .nCas n => Sys2Proof.Machine.execNCas n s
  | .nXchg n => Sys2Proof.Machine.execNXchg n s
  | .nFence n => Sys2Proof.Machine.execNFence n s
  | .nBar n => Sys2Proof.Machine.execNBar n s
  | .nTlw n => Sys2Proof.Machine.execNTlw n s
  | .nTlr n => Sys2Proof.Machine.execNTlr n s
  | .nCopyEngine n => Sys2Proof.Machine.execNCopyEngine n s
  | .nNetw n => Sys2Proof.Machine.execNNetw n s
  | .nMxls n => Sys2Proof.Machine.execNMxls n s
  | .nMxsw n => Sys2Proof.Machine.execNMxsw n s
  | .nMxst n => Sys2Proof.Machine.execNMxst n s
  | .nMxacc n => Sys2Proof.Machine.execNMxacc n s
  | .nMxq n => Sys2Proof.Machine.execNMxq n s
  | .nRayinj n => Sys2Proof.Machine.execNRayinj n s
  | .nRayrcv n => Sys2Proof.Machine.execNRayrcv n s
  | .nVbuf n => Sys2Proof.Machine.execNVbuf n s
  | .nHgf n => Sys2Proof.Machine.execNHgf n s
  | .nHgs n => Sys2Proof.Machine.execNHgs n s
  | .nTex n => Sys2Proof.Machine.execNTex n s
  | .nDrawend n => Sys2Proof.Machine.execNDrawend n s
  | .nCvsend n => Sys2Proof.Machine.execNCvsend n s
  | .nCvrecv n => Sys2Proof.Machine.execNCvrecv n s
  | .nCvchoose n => Sys2Proof.Machine.execNCvchoose n s
  | .nCvdeleg n => Sys2Proof.Machine.execNCvdeleg n s
  | .nFlags n => Sys2Proof.Machine.execNFlags n s
  | .nTrapn n => Sys2Proof.Machine.execNTrapn n s
  | .eTokenArrival im => Sys2Proof.Machine.execETokenArrival im s
  | .eOverflowReturn plane x y => Sys2Proof.Machine.execEOverflowReturn plane x y s
  | .eIterDraw plane => Sys2Proof.Machine.execEIterDraw plane s
  | .eFrameRetire plane frame => Sys2Proof.Machine.execEFrameRetire plane frame s
  | .eIterComplete plane => Sys2Proof.Machine.execEIterComplete plane s
  | .eWaveSend plane x y => Sys2Proof.Machine.execEWaveSend plane x y s
  | .eElementSwitch plane x y => Sys2Proof.Machine.execEElementSwitch plane x y s
  | .eMemoryRequestAccept r => Sys2Proof.Machine.execEMemoryRequestAccept r s
  | .eMemoryAccessPerform r => Sys2Proof.Machine.execEMemoryAccessPerform r s
  | .eMemTimeoutExpiry r => Sys2Proof.Machine.execEMemTimeoutExpiry r s
  | .eWatchAdmission r => Sys2Proof.Machine.execEWatchAdmission r s
  | .eReductionAccept c => Sys2Proof.Machine.execEReductionAccept c s
  | .eRedWindowClose w => Sys2Proof.Machine.execERedWindowClose w s
  | .eReductionApply c => Sys2Proof.Machine.execEReductionApply c s
  | .eEngineCommandAccept c => Sys2Proof.Machine.execEEngineCommandAccept c s
  | .eEngineCommandComplete c => Sys2Proof.Machine.execEEngineCommandComplete c s
  | .eSendCheck q => Sys2Proof.Machine.execESendCheck q s
  | .eDelegationCheck q => Sys2Proof.Machine.execEDelegationCheck q s
  | .eRingDelivery d => Sys2Proof.Machine.execERingDelivery d s
  | .eMatrixRowAccept r => Sys2Proof.Machine.execEMatrixRowAccept r s
  | .eMatrixRowComplete r => Sys2Proof.Machine.execEMatrixRowComplete r s
  | .eArrayCommandAccept c => Sys2Proof.Machine.execEArrayCommandAccept c s
  | .eMxlsComplete c => Sys2Proof.Machine.execEMxlsComplete c s
  | .eMxswApply c => Sys2Proof.Machine.execEMxswApply c s
  | .eShiftLaneArrival im => Sys2Proof.Machine.execEShiftLaneArrival im s
  | .eShiftComplete plane x y node frame => Sys2Proof.Machine.execEShiftComplete plane x y node frame s
  | .eRayAccept r => Sys2Proof.Machine.execERayAccept r s
  | .eNodeInjection r => Sys2Proof.Machine.execENodeInjection r s
  | .eBoxTest r => Sys2Proof.Machine.execEBoxTest r s
  | .eTriangleTest r => Sys2Proof.Machine.execETriangleTest r s
  | .eRayComplete r => Sys2Proof.Machine.execERayComplete r s
  | .eSamplerResult r => Sys2Proof.Machine.execESamplerResult r s
  | .eDispatch unit => Sys2Proof.Machine.execEDispatch unit s
  | .eSteal unit => Sys2Proof.Machine.execESteal unit s
  | .ePlaneBind ctx cbix vp => Sys2Proof.Machine.execEPlaneBind ctx cbix vp s
  | .eSwapOutStart plane => Sys2Proof.Machine.execESwapOutStart plane s
  | .eSwapOutSave plane => Sys2Proof.Machine.execESwapOutSave plane s
  | .eSwapIn ctx cbix vp => Sys2Proof.Machine.execESwapIn ctx cbix vp s
  | .eHostLaunch win => Sys2Proof.Machine.execEHostLaunch win s
  | .eStandpipeBeat pipe => Sys2Proof.Machine.execEStandpipeBeat pipe s
  | .eStandpipeRetrain pipe => Sys2Proof.Machine.execEStandpipeRetrain pipe s
  | .sRet => Sys2Proof.Machine.execSRet s
  | .sDone => Sys2Proof.Machine.execSDone s
  | .sEret => Sys2Proof.Machine.execSEret s
  | .sHalt => Sys2Proof.Machine.execSHalt s
  | .sIdle => Sys2Proof.Machine.execSIdle s
  | .eQuietSkip => Sys2Proof.Machine.execEQuietSkip s
  | .eIdentifierHoldExpiry => Sys2Proof.Machine.execEIdentifierHoldExpiry s
  | .eKeptResponseExpiry => Sys2Proof.Machine.execEKeptResponseExpiry s
  | .ePageWalk tlb ctx va wr fe priv => Sys2Proof.Machine.execEPageWalk tlb ctx va wr fe priv s
  | .eBarrierExit => Sys2Proof.Machine.execEBarrierExit s
  | .eConversationFree => Sys2Proof.Machine.execEConversationFree s
  | .eDrawWatchdog => Sys2Proof.Machine.execEDrawWatchdog s
  | .ePlaneBindRecheck ctx cbix vp => Sys2Proof.Machine.execEPlaneBindRecheck ctx cbix vp s
  | .eIdleWake => Sys2Proof.Machine.execEIdleWake s
  | .eUnitRestart unit => Sys2Proof.Machine.execEUnitRestart unit s
  | .eDoorbellLaunch win v => Sys2Proof.Machine.execEDoorbellLaunch win v s
  | .eDoorbellNotify win v => Sys2Proof.Machine.execEDoorbellNotify win v s
  | .eNeIncomingWrite part ctx addr bytes rcnt => Sys2Proof.Machine.execENeIncomingWrite part ctx addr bytes rcnt s
  | .eNeIncomingRead part ctx addr len => Sys2Proof.Machine.execENeIncomingRead part ctx addr len s
  | .eNeRetransmit c => Sys2Proof.Machine.execENeRetransmit c s
  | .eBeatParityCheck => Sys2Proof.Machine.execEBeatParityCheck s
  | .eBeatRetry => Sys2Proof.Machine.execEBeatRetry s
  | .eLaneTest => Sys2Proof.Machine.execELaneTest s
  | .eLaneSwap => Sys2Proof.Machine.execELaneSwap s
  | .eRetrainForced => Sys2Proof.Machine.execERetrainForced s
  | .eRetrainComplete => Sys2Proof.Machine.execERetrainComplete s
  | .eLaneFail port lane => Sys2Proof.Machine.execELaneFail port lane s
  | .eLinkResume port => Sys2Proof.Machine.execELinkResume port s
  | .eDroopStretch => Sys2Proof.Machine.execEDroopStretch s
  | .eDroopRecover => Sys2Proof.Machine.execEDroopRecover s
  | .ePowerCapStep watts => Sys2Proof.Machine.execEPowerCapStep watts s
  | .eModuleReset => Sys2Proof.Machine.execEModuleReset s
  | .eFullService => Sys2Proof.Machine.execEFullService s
  | .eCinjGo v => Sys2Proof.Machine.execECinjGo v s
  | .eLinjWrite v => Sys2Proof.Machine.execELinjWrite v s
  | .eKlstatRetrain port trained => Sys2Proof.Machine.execEKlstatRetrain port trained s
  | .eCbdownClear die arr v => Sys2Proof.Machine.execECbdownClear die arr v s
  | .ePartcfgWrite v => Sys2Proof.Machine.execEPartcfgWrite v s
  | .ePwrstatRead d => Sys2Proof.Machine.execEPwrstatRead d s
  | .eRegisterWrite num v => Sys2Proof.Machine.execERegisterWrite num v s
  | .eRemoteAccessArrival src id op pa size data cmp => Sys2Proof.Machine.execERemoteAccessArrival src id op pa size data cmp s
  | .eHostRequest op pa size data cmp => Sys2Proof.Machine.execEHostRequest op pa size data cmp s
  | .ePartitionReset part => Sys2Proof.Machine.execEPartitionReset part s
  | .eLinkReplay port lane => Sys2Proof.Machine.execELinkReplay port lane s
  | .eDeliveryRetry => Sys2Proof.Machine.execEDeliveryRetry s

end Sys2Proof.Machine
end

