-- ==== Sys2Proof/Machine/Fetch.lean ====
section
/-! DEFINITION. Fetching a sequencer instruction (R129, R139 steps 1 to 3). -/

namespace Sys2Proof.Machine

open Sys2Proof

/-- A trap met while fetching or decoding: cause, INFO and ADDR. -/
structure FetchTrap where
  cause : Nat
  info : Nat
  addr : Nat
  deriving DecidableEq, Repr

/-- Fetches a word at an address for the executing unit (R139 step 1, R151, Table 18.3). `at_` is the address that a failure
reports, `first` the instruction's first word, or 0 while it is not known. -/
def State.fetchWord (s : State) (pc at_ first : Nat) : State × Except FetchTrap Nat :=
  let i := s.meIss
  match s.translate s.cur i.die i.ctx pc false true i.priv with
  | (s, .error e) => (s, .error ⟨e.1, e.2 % 8 + 16, at_⟩)
  | (s, .ok t) =>
    let (late, s) := if isRemote t.pa then s.farResponse else (0, s)
    if late ≠ 0 then (s, .error ⟨Cause.memTimeout, first, at_⟩)
    else match s.physRead t.slot t.pa 4 with
    | (s, .error c) => (s, .error ⟨c, first, at_⟩)
    | (s, .ok b) => (s, .ok (Decode.leNat b))

/-- The first translation of a record finds its context outside STATE 2 (R330), whatever a TLB holds. -/
def State.badContext (s : State) : Bool := s.me.first && !s.ctxLive s.me.ctx

/-- The record has made its first translation. -/
def State.begun (s : State) : State := if s.me.first then s.setMe { s.me with first := false } else s

/-- Registers that only a control core has; a sequencer finds their numbers undefined (R139 step 2, R359). -/
def coreOnly : Instr → Bool
  | .sCsrrd _ n => Csr.isCore n.toNat
  | .sCsrwr _ n => Csr.isCore n.toNat
  | _ => false

/-- Decodes a first word and its extension for the executing unit. -/
def State.decodeWord (s : State) (w x : Nat) : Except FetchTrap Instr :=
  match Decode.seqWord w x with
  | .error _ => .error ⟨Cause.illegal, w, s.me.pc.toNat⟩
  | .ok i => if coreOnly i && !isCore s.cur then .error ⟨Cause.illegal, w, s.me.pc.toNat⟩ else .ok i

/-- Fetches and decodes the instruction at the program counter. -/
def State.fetch (s : State) : State × Except FetchTrap Instr :=
  let pc := s.me.pc.toNat
  if s.badContext then (s, .error ⟨Cause.trContext, 4 + 16, pc⟩)
  else match s.begun.fetchWord pc pc 0 with
  | (s, .error e) => (s, .error e)
  | (s, .ok w) =>
    if Decode.isX w then
      match s.fetchWord (s.me.pc + 4#57).toNat pc w with
      | (s, .error e) => (s, .error e)
      | (s, .ok x) => (s, s.decodeWord w x)
    else (s, s.decodeWord w 0)

/-- The trap that a failing fetch takes. -/
def State.fetchTrap (s : State) (e : FetchTrap) : State := s.trap e.cause e.info e.addr 0 s.me.pc

end Sys2Proof.Machine
end

