-- ==== Sys2Proof/Machine/Step.lean ====
section
/-! DEFINITION. One step: the agent that the agenda names moves, and when none is left the fc ends. -/

namespace Sys2Proof.Machine

open Sys2Proof

/-- What follows every move that goes on (R99, R102, R164, R308). -/
def settled : Host.Outcome State Fault Refusal → Host.Outcome State Fault Refusal
  | .next s => .next s.tidy
  | o => o

/-- A unit's turn: it fetches, decodes and executes one instruction, or takes the trap of a fetch that fails. -/
def stepUnit (u : Nat) (s : State) : Host.Outcome State Fault Refusal :=
  let s := { s with cur := u }
  if !s.me.runs then .next s
  else match s.fetch with
    | (s, .error e) => settled (.next (s.fetchTrap e))
    | (s, .ok i) => settled (exec i s)

/-- A node's turn at a site. -/
def stepNode (t : Site) (s : State) : Host.Outcome State Fault Refusal :=
  let s := { s with site := t }
  match s.siteInstr with
  | none => .next s
  | some i => settled (exec i s)

/-- Another agent's turn. -/
def stepEvent (i : Instr) (s : State) : Host.Outcome State Fault Refusal :=
  if i.isEvent then settled (exec i s) else .next s

/-- One step of the machine. -/
def step (s : State) : Host.Outcome State Fault Refusal :=
  match s.agenda with
  | [] => .next s.tick
  | .unit u :: rest => stepUnit u { s with agenda := rest }
  | .fire t :: rest => stepNode t { s with agenda := rest }
  | .event i :: rest => stepEvent i { s with agenda := rest }

/-! Placing an instruction where the next step fetches (log 2). -/

/-- Control core CC0 runs with privilege at address 0, which its first-level TLB maps to physical 0, and moves next. -/
def State.withSeqWord (s : State) (w : Nat) : State :=
  let x : UnitSt := { s.unit 256 with status := .running, priv := true, pc := 0#57, wait := none }
  let mem := (List.range 8).foldl (fun m i => Memory.write m i (BitVec.ofNat 8 (w / 2 ^ (8 * i)))) s.mem
  { s with
    units := s.units.put 256 x
    mem := mem
    lineKey := s.lineKey.del 0
    tlb := ⟨256, x.ctx, 0, 0, 0x30F#64, 0⟩ :: s.tlb
    agenda := [.unit 256] }

/-- The node word stands at node 0 of element (0,0) in an active plane, frame 0 is live, every port it declares holds a token,
and the element fires next. -/
def State.withNodeWord (s : State) (w : Nat) : State :=
  let n := Decode.nodeBody w
  let o : Operand := ⟨0#512, 0xFFFF#16, if w / 2 ^ 120 % 256 = 0x65 then 2#4 else 0#4⟩
  let fr : Frame :=
    { gen := 0, itix := 0, order := 0, src := .iter, flags := 0#6, ended := [], succ := none, caller := none, horizon := none,
      agents := [], parked := false, lost := false, withdrawn := [], resume := [] }
  let put (m : Map Operand) (b : Bool) (port : Nat) : Map Operand := if b then m.put (slotKey 0 0 port 0) o else m
  let p : Plane := { Plane.reset with
    state := .active
    nodes := [(0, BitVec.ofNat 128 w)]
    frames := [(0, fr)]
    groups := [(0, 0)]
    slots := put (put (put [] n.hasL 0) n.hasR 1) n.hasP 2
    sticky := (if n.hasL && n.stickyL then [(0, o)] else []) ++ (if n.hasR && n.stickyR then [(1, o)] else []) }
  { s with planes := s.planes.put 0 p, fired := [], agenda := [.fire ⟨0, 0, 0, 0⟩] }

/-- The machine with an instruction, numbered as spec/opcode_table.json numbers it, where step fetches next. -/
def State.withFetchWord (s : State) (nbits w : Nat) : State :=
  if nbits = 128 then s.withNodeWord (w % 2 ^ 128) else s.withSeqWord (w % 2 ^ nbits)

end Sys2Proof.Machine
end

