-- ==== Sys2Proof/Safety.lean ====
section
/-! DEFINITION. What a well-kept machine is, and what a safe run is. -/

namespace Sys2Proof

open Sys2Proof.Machine

/-- Memory and element data are in their canonical form. -/
def MemoryOk (s : State) : Prop := Memory.wf s.mem = true ∧ Memory.wf s.edata = true

/-- A step that goes on. -/
def Goes (o : Host.Outcome State Fault Refusal) : Prop := ∃ s, o = .next s

/-- A run of k steps that neither faults nor is refused. -/
def SafeFor : Nat → State → Prop
  | 0, _ => True
  | k + 1, s => ∃ t, step s = .next t ∧ SafeFor k t

end Sys2Proof
end

