-- ==== Sys2Proof/Certificates/Slice0/Obligations.lean ====
section
/-! DEFINITION. The statements about the model, with the words they are made of. Each docstring names the rules of the manual
that it formalises; the tests give a witness for every statement that has hypotheses. -/

namespace Sys2Proof.Claim

open Sys2Proof Sys2Proof.Machine

/-! Sequencers and control cores: what an instruction writes, and what it leaves. -/

/-- Nothing has changed but the executing unit: every other unit, memory, planes and every other field are as before. -/
def OnlyUnit (s t : State) : Prop := t = { s with units := t.units } ∧ ∀ u, u ≠ s.cur → t.unit u = s.unit u

/-- gd := v (discarded for g0), the program counter moves on by `len` bytes, and nothing else changes (R129, R131). -/
def WritesG (s t : State) (d : BitVec 5) (v : Word) (len : BitVec 57) : Prop :=
  OnlyUnit s t ∧ t.me = { s.me with regs := t.me.regs, pc := s.me.pc + len } ∧
  ∀ r, t.g r = if r = d ∧ d ≠ 0#5 then v else s.g r

/-- pd := b (discarded for p0), the program counter moves on by `len` bytes, and nothing else changes (R129, R131). -/
def WritesP (s t : State) (d : BitVec 3) (b : Bool) (len : BitVec 57) : Prop :=
  OnlyUnit s t ∧ t.me = { s.me with preds := t.me.preds, pc := s.me.pc + len } ∧
  ∀ r, t.me.p r = if r = d ∧ d ≠ 0#3 then b else s.me.p r

/-- The instruction completes with a value in gd that has the property given. -/
def Gives (i : Instr) (s : State) (d : BitVec 5) (len : BitVec 57) (value : Word → Prop) : Prop :=
  ∃ t v, exec i s = .next t ∧ WritesG s t d v len ∧ value v

/-- The instruction completes with a predicate that holds exactly when the relation does. -/
def Decides (i : Instr) (s : State) (d : BitVec 3) (len : BitVec 57) (rel : Prop) : Prop :=
  ∃ t b, exec i s = .next t ∧ WritesP s t d b len ∧ (b = true ↔ rel)

/-- The relation of a condition code (Table 6.4). -/
def relation (cc : Nat) (a b : Word) : Prop :=
  (cc = 0 ∧ a.toNat = b.toNat) ∨ (cc = 1 ∧ a.toNat ≠ b.toNat) ∨ (cc = 2 ∧ a.toInt < b.toInt) ∨ (cc = 3 ∧ b.toInt ≤ a.toInt) ∨
  (cc = 4 ∧ a.toInt ≤ b.toInt) ∨ (cc = 5 ∧ b.toInt < a.toInt) ∨ (cc = 6 ∧ a.toNat < b.toNat) ∨ (cc = 7 ∧ b.toNat ≤ a.toNat)

/-- The program counter is `pc`, and no other thing has changed. -/
def Jumps (s t : State) (pc : BitVec 57) : Prop := OnlyUnit s t ∧ t.me = { s.me with pc := pc }

end Sys2Proof.Claim

open Sys2Proof Sys2Proof.Machine Sys2Proof.Claim

/-- R153, arithmetic: ADD, SUB, MUL, MULH, MULHN, DIV, DIVN, REM and REMN, with the results that the rule gives for a division
by zero and for −2^63 by −1. -/
def Obligations.ArithmeticGivesExactResults : Prop :=
  ∀ (s : State) (d a b : BitVec 5),
    Gives (.sAdd d a b) s d 4 (fun v => v.toNat = ((s.g a).toNat + (s.g b).toNat) % 2 ^ 64) ∧
    Gives (.sSub d a b) s d 4 (fun v => v.toNat = ((s.g a).toNat + 2 ^ 64 - (s.g b).toNat) % 2 ^ 64) ∧
    Gives (.sMul d a b) s d 4 (fun v => v.toNat = (s.g a).toNat * (s.g b).toNat % 2 ^ 64) ∧
    Gives (.sMulh d a b) s d 4 (fun v => v.toInt = (s.g a).toInt * (s.g b).toInt / 2 ^ 64) ∧
    Gives (.sMulhn d a b) s d 4 (fun v => v.toNat = (s.g a).toNat * (s.g b).toNat / 2 ^ 64) ∧
    Gives (.sDiv d a b) s d 4 (fun v => v.toInt =
      if (s.g b).toInt = 0 then -1
      else if (s.g a).toInt = -2 ^ 63 ∧ (s.g b).toInt = -1 then -2 ^ 63 else (s.g a).toInt.tdiv (s.g b).toInt) ∧
    Gives (.sDivn d a b) s d 4 (fun v => v.toNat =
      if (s.g b).toNat = 0 then 2 ^ 64 - 1 else (s.g a).toNat / (s.g b).toNat) ∧
    Gives (.sRem d a b) s d 4 (fun v => v.toInt =
      if (s.g b).toInt = 0 then (s.g a).toInt else (s.g a).toInt.tmod (s.g b).toInt) ∧
    Gives (.sRemn d a b) s d 4 (fun v => v.toNat =
      if (s.g b).toNat = 0 then (s.g a).toNat else (s.g a).toNat % (s.g b).toNat)

/-- R153, the other operations: logic bit by bit, shifts by B[5:0], minima and maxima, SEL, CLZ and POPC. -/
def Obligations.LogicShiftAndSelectResults : Prop :=
  ∀ (s : State) (d a b : BitVec 5) (c : BitVec 3),
    Gives (.sAnd d a b) s d 4 (fun v => ∀ k < 64, v.getLsbD k = ((s.g a).getLsbD k && (s.g b).getLsbD k)) ∧
    Gives (.sOr d a b) s d 4 (fun v => ∀ k < 64, v.getLsbD k = ((s.g a).getLsbD k || (s.g b).getLsbD k)) ∧
    Gives (.sXor d a b) s d 4 (fun v => ∀ k < 64, v.getLsbD k = ((s.g a).getLsbD k != (s.g b).getLsbD k)) ∧
    Gives (.sAndn d a b) s d 4 (fun v => ∀ k < 64, v.getLsbD k = ((s.g a).getLsbD k && !(s.g b).getLsbD k)) ∧
    Gives (.sShl d a b) s d 4 (fun v => v.toNat = (s.g a).toNat * 2 ^ ((s.g b).toNat % 64) % 2 ^ 64) ∧
    Gives (.sShr d a b) s d 4 (fun v => v.toNat = (s.g a).toNat / 2 ^ ((s.g b).toNat % 64)) ∧
    Gives (.sSar d a b) s d 4 (fun v => v.toInt = (s.g a).toInt / 2 ^ ((s.g b).toNat % 64)) ∧
    Gives (.sMin d a b) s d 4 (fun v => v.toInt = min (s.g a).toInt (s.g b).toInt) ∧
    Gives (.sMax d a b) s d 4 (fun v => v.toInt = max (s.g a).toInt (s.g b).toInt) ∧
    Gives (.sMinn d a b) s d 4 (fun v => v.toNat = min (s.g a).toNat (s.g b).toNat) ∧
    Gives (.sMaxn d a b) s d 4 (fun v => v.toNat = max (s.g a).toNat (s.g b).toNat) ∧
    Gives (.sSel d a b c) s d 4 (fun v => v = if s.me.p c then s.g a else s.g b) ∧
    Gives (.sClz d a) s d 4 (fun v => v.toNat = if (s.g a).toNat = 0 then 64 else 63 - Nat.log2 (s.g a).toNat) ∧
    Gives (.sPopc d a) s d 4 (fun v => v.toNat = ((List.range 64).filter (fun k => (s.g a).getLsbD k)).length)

/-- R132, R134, R155: the immediate forms, I and X. -/
def Obligations.ImmediateFormsGiveResults : Prop :=
  ∀ (s : State) (d a : BitVec 5) (i : BitVec 16) (j : BitVec 32) (c : BitVec 6) (h : BitVec 2),
    Gives (.sAddi d a i) s d 4 (fun v => (v.toInt - ((s.g a).toInt + i.toInt)) % 2 ^ 64 = 0) ∧
    Gives (.sAndi d a i) s d 4 (fun v => ∀ k < 64, v.getLsbD k = ((s.g a).getLsbD k && i.getLsbD k)) ∧
    Gives (.sOri d a i) s d 4 (fun v => ∀ k < 64, v.getLsbD k = ((s.g a).getLsbD k || i.getLsbD k)) ∧
    Gives (.sXori d a i) s d 4 (fun v => ∀ k < 64, v.getLsbD k = ((s.g a).getLsbD k != i.getLsbD k)) ∧
    Gives (.sShli d a c) s d 4 (fun v => v.toNat = (s.g a).toNat * 2 ^ c.toNat % 2 ^ 64) ∧
    Gives (.sShri d a c) s d 4 (fun v => v.toNat = (s.g a).toNat / 2 ^ c.toNat) ∧
    Gives (.sSari d a c) s d 4 (fun v => v.toInt = (s.g a).toInt / 2 ^ c.toNat) ∧
    Gives (.sLdi d i) s d 4 (fun v => v.toInt = i.toInt) ∧
    Gives (.sLdhi d h i) s d 4 (fun v => ∀ k < 64, v.getLsbD k =
      if k / 16 = h.toNat then i.getLsbD (k % 16) else (s.g d).getLsbD k) ∧
    Gives (.sLdiX d j) s d 8 (fun v => v.toInt = j.toInt) ∧
    Gives (.sAddiX d a j) s d 8 (fun v => (v.toInt - ((s.g a).toInt + j.toInt)) % 2 ^ 64 = 0) ∧
    Gives (.sAndiX d a j) s d 8 (fun v => ∀ k < 64, v.getLsbD k = ((s.g a).getLsbD k && j.getLsbD k)) ∧
    Gives (.sOriX d a j) s d 8 (fun v => ∀ k < 64, v.getLsbD k = ((s.g a).getLsbD k || j.getLsbD k)) ∧
    Gives (.sXoriX d a j) s d 8 (fun v => ∀ k < 64, v.getLsbD k = ((s.g a).getLsbD k != j.getLsbD k))

/-- R136, R154, R155: every comparison writes its predicate by Table 6.4, signed or unsigned as the code says; the immediate is
compared after its sign extension. CMP's word is the one that R154 lays out. -/
def Obligations.ComparisonsWriteTheirPredicate : Prop :=
  ∀ (s : State) (p : BitVec 3) (a b : BitVec 5) (cc : BitVec 3) (lo : BitVec 2) (i : BitVec 16) (j : BitVec 32),
    Decides (.sCmp p a b cc) s p 4 (relation cc.toNat (s.g a) (s.g b)) ∧
    Decides (.sCmpiCcLow lo p a i) s p 4 (relation lo.toNat (s.g a) (BitVec.ofInt 64 i.toInt)) ∧
    Decides (.sCmpiCcHigh lo p a i) s p 4 (relation (4 + lo.toNat) (s.g a) (BitVec.ofInt 64 i.toInt)) ∧
    Decides (.sCmpiX p cc a j) s p 8 (relation cc.toNat (s.g a) (BitVec.ofInt 64 j.toInt)) ∧
    decodeTableWord 32 (0x04000000 + p.toNat * 2 ^ 21 + a.toNat * 2 ^ 16 + b.toNat * 2 ^ 11 + cc.toNat) = some (.sCmp p a b cc)

/-- R133, R160: where branches and jumps go, that CALL leaves the next word's address in g31, and that nothing else changes.
JMPI and RET jump to an aligned address below 2^57. -/
def Obligations.BranchesAndJumpsReachTheirTarget : Prop :=
  ∀ (s : State) (p : BitVec 3) (sense : BitVec 1) (o : BitVec 22) (f : BitVec 26) (a : BitVec 5),
    (∃ t, exec (.sBr p sense o) s = .next t ∧ ∃ pc, Jumps s t pc ∧
      (pc.toNat : Int) = ((s.me.pc.toNat : Int) + (if (s.me.p p = true ↔ sense = 1#1) then 4 * o.toInt else 4)) % 2 ^ 57) ∧
    (∃ t, exec (.sJmp f) s = .next t ∧ ∃ pc, Jumps s t pc ∧ (pc.toNat : Int) = ((s.me.pc.toNat : Int) + 4 * f.toInt) % 2 ^ 57) ∧
    (∃ t, exec (.sCall f) s = .next t ∧ OnlyUnit s t ∧ t.me = { s.me with regs := t.me.regs, pc := t.me.pc } ∧
      (t.me.pc.toNat : Int) = ((s.me.pc.toNat : Int) + 4 * f.toInt) % 2 ^ 57 ∧
      ∀ r, (t.g r).toNat = if r = 31#5 then (s.me.pc.toNat + 4) % 2 ^ 57 else (s.g r).toNat) ∧
    ((s.g a).toNat % 4 = 0 → (s.g a).toNat < 2 ^ 57 →
      ∃ t, exec (.sJmpi a) s = .next t ∧ ∃ pc, Jumps s t pc ∧ pc.toNat = (s.g a).toNat) ∧
    ((s.g 31#5).toNat % 4 = 0 → (s.g 31#5).toNat < 2 ^ 57 →
      ∃ t, exec .sRet s = .next t ∧ ∃ pc, Jumps s t pc ∧ pc.toNat = (s.g 31#5).toNat)

namespace Sys2Proof.Claim

open Sys2Proof Sys2Proof.Machine

/-! Memory, as the executing unit reaches it. -/

/-- An access of the executing record lies in another module, whose response comes to it as `n` says: 0 in time, 1 not in time and
not performed, 2 not in time though performed (R108). -/
def FarAs (s : State) (va : Nat) (wr : Bool) (n : Nat) (s0 : State) : Prop :=
  s.remoteVa s.cur s.meIss va wr = true ∧ s.farResponse = (n, s0)

/-- An access of the executing record that nothing stops before it is performed: it is aligned, it lies in this module or its
response is in time, it is translated to `tr` (which leaves the machine as s1), and it raises no race. -/
def Reaches (s : State) (va n : Nat) (k : Acc) (s1 : State) (tr : Tr) : Prop :=
  va % n = 0 ∧ ∃ s0, (s.remoteVa s.cur s.meIss va k.wr = false ∧ s0 = s ∨ FarAs s va k.wr 0 s0) ∧
  s0.translate s.cur s.meIss.die s.me.ctx va k.wr false s.me.priv = (s1, .ok tr) ∧
  (tr.watch = true → s1.race s.meIss tr.pa n k = none)

/-- ga + sext(off) modulo 2^64 (R151, R156). -/
def ea (s : State) (a : BitVec 5) (o : BitVec 14) : Nat := ((((s.g a).toNat : Int) + o.toInt) % 2 ^ 64).toNat

/-- `v` stands at `pa`, and every byte outside reads through the same key slot as it did. -/
def Stores (s t : State) (slot pa : Nat) (v : List Byte) : Prop :=
  (∀ j (h : j < v.length), t.byteAt slot (pa + j) = v[j]) ∧ ∀ a, a < pa ∨ pa + v.length ≤ a → t.byteAt slot a = s.byteAt slot a

/-- Memory in its canonical form, and no word of the access with three or more wrong bits, whose decoding is open (R365). -/
def Sound (s : State) (pa n : Nat) : Prop :=
  Memory.wf s.mem = true ∧ ∀ w ∈ wordsOf pa n, (s.flips.get w []).length < 3

/-- The new value of an AMO on `w` bits (Table 6.6). -/
def AmoResult (op w old v e new : Nat) : Prop :=
  new < 2 ^ w ∧
  (op = 0 → new = (old + v) % 2 ^ w) ∧
  (op = 1 → ∀ k, new.testBit k = (old.testBit k && v.testBit k)) ∧
  (op = 2 → ∀ k, new.testBit k = (old.testBit k || v.testBit k)) ∧
  (op = 3 → ∀ k, new.testBit k = (old.testBit k != v.testBit k)) ∧
  (op = 4 → (BitVec.ofNat w new).toInt = min (BitVec.ofNat w old).toInt (BitVec.ofNat w v).toInt) ∧
  (op = 5 → (BitVec.ofNat w new).toInt = max (BitVec.ofNat w old).toInt (BitVec.ofNat w v).toInt) ∧
  (op = 6 → new = min old v) ∧ (op = 7 → new = max old v) ∧ (op = 8 → new = v) ∧ (op = 9 → new = if old = e then v else old)

/-- What an acquire at a place makes of a horizon (R104): TOP unless the granule is watched; else the pair and the horizon that
its release left there are merged in. -/
def Acquires (s : State) (tr : Tr) (old new : Horizon) : Prop :=
  (¬(tr.watch = true ∧ (dirOf tr.pa).isSome = true) → new = none) ∧
  (tr.watch = true → (dirOf tr.pa).isSome = true → ∀ r, s.races.find? (fun r => r.granule = tr.pa / 64) = some r →
    (∀ w g h, r.rel = some (w, g, h) → new = mergeHorizon old (mergeHorizon h (some [(w, g + 1)]))) ∧ (r.rel = none → new = old))

/-- The record stops with a trap of the instruction: the cause, its first word as INFO, and the address (Table 18.2). -/
def TrapsWith (i : Instr) (s : State) (cause addr : Nat) : Prop :=
  exec i s = .next (s.trap cause (iword i) addr 0 s.me.pc)

end Sys2Proof.Claim

/-- R151, R156, R157: a load writes the bytes at its address, little-endian and extended as its form says; LDACQ is also an
acquire. The rest is as translating and reading left it. -/
def Obligations.LoadsWriteTheBytesRead : Prop :=
  ∀ (s s1 s2 : State) (tr : Tr) (bytes : List Byte) (d a : BitVec 5) (z : BitVec 2) (o : BitVec 14) (c : BitVec 4),
    (Reaches s (ea s a o) (2 ^ z.toNat) {} s1 tr → s1.physRead tr.slot tr.pa (2 ^ z.toNat) = (s2, .ok bytes) →
      (∃ t v, exec (.sLd d a z o) s = .next t ∧ WritesG s2 t d v 4 ∧
        v.toInt = (BitVec.ofNat (8 * 2 ^ z.toNat) (leNat bytes)).toInt) ∧
      (∃ t v, exec (.sLdN d a z o) s = .next t ∧ WritesG s2 t d v 4 ∧ v.toNat = leNat bytes)) ∧
    (Reaches s (s.g a).toNat (2 ^ z.toNat) { atomic := true, acq := true, scope := c.toNat } s1 tr →
      s1.physRead tr.slot tr.pa (2 ^ z.toNat) = (s2, .ok bytes) →
      ∃ t, exec (.sLdacq d a z c) s = .next t ∧ OnlyUnit s2 t ∧
        t.me = { s2.me with regs := t.me.regs, pc := s2.me.pc + 4, horizon := t.me.horizon } ∧
        (∀ r, (t.g r).toNat = if r = d ∧ d ≠ 0#5 then leNat bytes else (s2.g r).toNat) ∧
        Acquires s2 tr s2.me.horizon t.me.horizon)

/-- R156, R157, R103: a store leaves the low bytes of gd at the address that ga and the offset give, and every other byte as it
was; a watched granule's directory entry names the writer and its bytes. STREL raises the release generation. -/
def Obligations.StoresPlaceTheLowBytes : Prop :=
  ∀ (s s1 s2 : State) (tr : Tr) (d a : BitVec 5) (z : BitVec 2) (o : BitVec 14) (c : BitVec 4),
    (Reaches s (ea s a o) (2 ^ z.toNat) { wr := true } s1 tr →
      s1.physWrite tr.slot tr.pa (leBytes (2 ^ z.toNat) (s.g d).toNat) = (s2, .ok ()) →
      ∃ t, exec (.sSt d a z o) s = .next t ∧ t = { s2 with units := t.units, races := t.races } ∧
        (∀ u, u ≠ s.cur → t.unit u = s2.unit u) ∧ t.me = { s2.me with pc := s2.me.pc + 4 } ∧
        (Sound s1 tr.pa (2 ^ z.toNat) → Stores s1 t tr.slot tr.pa (leBytes (2 ^ z.toNat) (s.g d).toNat)) ∧
        (tr.watch = true → (dirOf tr.pa).isSome = true → ∃ r, t.races.head? = some r ∧ r.granule = tr.pa / 64 ∧
          r.writer = 2 ^ 33 + s2.me.serial ∧ r.gen = s2.me.relGen ∧ r.bytes = byteMask tr.pa (2 ^ z.toNat) ∧ r.atomic = false)) ∧
    (Reaches s (s.g a).toNat (2 ^ z.toNat) { wr := true, atomic := true, rel := true, scope := c.toNat } s1 tr →
      s1.physWrite tr.slot tr.pa (leBytes (2 ^ z.toNat) (s.g d).toNat) = (s2, .ok ()) →
      ∃ t, exec (.sStrel d a z c) s = .next t ∧ t = { s2 with units := t.units, races := t.races } ∧
        (∀ u, u ≠ s.cur → t.unit u = s2.unit u) ∧
        t.me = { s2.me with pc := s2.me.pc + 4, relGen := (s2.me.relGen + 1) % 2 ^ 32 } ∧
        (Sound s1 tr.pa (2 ^ z.toNat) → Stores s1 t tr.slot tr.pa (leBytes (2 ^ z.toNat) (s.g d).toNat)) ∧
        (tr.watch = true → (dirOf tr.pa).isSome = true → ∃ r, t.races.head? = some r ∧ r.granule = tr.pa / 64 ∧
          r.writer = 2 ^ 33 + s2.me.serial ∧ r.rel = some (2 ^ 33 + s2.me.serial, s2.me.relGen, s2.me.horizon)))

/-- R158, R159, Table 6.6: AMO reads, computes and writes in one step, is an acquire and a release, and gives the old value;
FENCE makes the horizon TOP and raises the release generation. -/
def Obligations.AtomicsReadModifyAndWrite : Prop :=
  ∀ (s s1 s2 s3 : State) (tr : Tr) (bytes : List Byte) (new : Nat) (d a b : BitVec 5) (o : BitVec 4) (z : BitVec 1) (c : BitVec 4),
    let n := if z = 0#1 then 4 else 8
    (o.toNat ≤ 9 → Reaches s (s.g a).toNat n { wr := true, atomic := true, acq := true, rel := true, scope := c.toNat } s1 tr →
      (target tr.pa ≠ .host ∨ o.toNat = 0 ∨ 8 ≤ o.toNat) →
      s1.physRead tr.slot tr.pa n = (s2, .ok bytes) →
      AmoResult o.toNat (8 * n) (leNat bytes) ((s.g b).toNat % 2 ^ (8 * n)) ((s.g d).toNat % 2 ^ (8 * n)) new →
      s2.physWrite tr.slot tr.pa (leBytes n new) = (s3, .ok ()) →
      ∃ t v, exec (.sAmo d a b o z c) s = .next t ∧ t = { s3 with units := t.units, races := t.races } ∧
        (∀ u, u ≠ s.cur → t.unit u = s3.unit u) ∧
        t.me = { s3.me with regs := t.me.regs, pc := s3.me.pc + 4, horizon := t.me.horizon, relGen := (s3.me.relGen + 1) % 2 ^ 32 } ∧
        (∀ r, t.g r = if r = d ∧ d ≠ 0#5 then v else s3.g r) ∧
        (if o.toNat = 6 ∨ o.toNat = 7 then v.toNat = leNat bytes else v.toInt = (BitVec.ofNat (8 * n) (leNat bytes)).toInt) ∧
        Acquires s3 tr s3.me.horizon t.me.horizon ∧
        (Sound s2 tr.pa n → Stores s2 t tr.slot tr.pa (leBytes n new))) ∧
    (∃ t, exec (.sFence c) s = .next t ∧ OnlyUnit s t ∧
      t.me = { s.me with pc := s.me.pc + 4, horizon := none, relGen := (s.me.relGen + 1) % 2 ^ 32 })

/-- R78, R133, R151: an access that is not aligned to its size traps ALIGN, before its range counts; an aligned address of 2^57
or more traps ADDRESS_RANGE; so does a jump's. R108, R150: an access to another module whose response is late traps MEM_TIMEOUT,
whether it has been performed or not. Each trap saves the address. -/
def Obligations.BadAddressesTrap : Prop :=
  ∀ (s s0 : State) (d a b : BitVec 5) (z : BitVec 2) (y : BitVec 1) (o : BitVec 14) (c op : BitVec 4),
    let n := 2 ^ z.toNat; let m := if y = 0#1 then 4 else 8; let va := ea s a o; let ga := (s.g a).toNat
    (va % n ≠ 0 → TrapsWith (.sLd d a z o) s 0x04 va ∧ TrapsWith (.sLdN d a z o) s 0x04 va ∧ TrapsWith (.sSt d a z o) s 0x04 va) ∧
    (ga % n ≠ 0 → TrapsWith (.sLdacq d a z c) s 0x04 ga ∧ TrapsWith (.sStrel d a z c) s 0x04 ga) ∧
    (ga % m ≠ 0 → TrapsWith (.sAmo d a b op y c) s 0x04 ga) ∧
    (ga % 4 ≠ 0 → TrapsWith (.sJmpi a) s 0x04 ga) ∧
    (va % n = 0 → 2 ^ 57 ≤ va →
      TrapsWith (.sLd d a z o) s 0x05 va ∧ TrapsWith (.sLdN d a z o) s 0x05 va ∧ TrapsWith (.sSt d a z o) s 0x05 va) ∧
    (ga % n = 0 → 2 ^ 57 ≤ ga → TrapsWith (.sLdacq d a z c) s 0x05 ga ∧ TrapsWith (.sStrel d a z c) s 0x05 ga) ∧
    (ga % m = 0 → 2 ^ 57 ≤ ga → TrapsWith (.sAmo d a b op y c) s 0x05 ga) ∧
    (ga % 4 = 0 → 2 ^ 57 ≤ ga → TrapsWith (.sJmpi a) s 0x05 ga) ∧
    let late (i : Instr) (at_ k : Nat) (c : Acc) (upd : Nat → Option Nat) : Prop := at_ % k = 0 →
      (FarAs s at_ c.wr 1 s0 → exec i s = .next (s0.trap 0x0E (iword i) at_ 0 s0.me.pc)) ∧
      ∀ s1 old, FarAs s at_ c.wr 2 s0 → s0.access s.cur s.meIss at_ k c upd = (s1, .ok old) →
        exec i s = .next (s1.trap 0x0E (iword i) at_ 0 s1.me.pc)
    let low := some ((s.g d).toNat % 2 ^ (8 * n))
    late (.sLd d a z o) va n {} (fun _ => none) ∧ late (.sLdN d a z o) va n {} (fun _ => none) ∧
    late (.sSt d a z o) va n { wr := true } (fun _ => low) ∧
    late (.sLdacq d a z c) ga n { atomic := true, acq := true, scope := c.toNat } (fun _ => none) ∧
    late (.sStrel d a z c) ga n { wr := true, atomic := true, rel := true, scope := c.toNat } (fun _ => low) ∧
    late (.sAmo d a b op y c) ga m { wr := true, atomic := true, acq := true, rel := true, scope := c.toNat }
      (fun x => some (amoOp op.toNat (8 * m) x ((s.g b).toNat % 2 ^ (8 * m)) ((s.g d).toNat % 2 ^ (8 * m))))

/-- R335, R365, Table 17.1: bytes written at a home node stand there, and through the same key slot every other byte of memory
reads as before. -/
def Obligations.AStoreIsReadBack : Prop :=
  ∀ (s t : State) (slot pa : Nat) (v : List Byte), Sound s pa v.length → s.physWrite slot pa v = (t, .ok ()) →
    Stores s t slot pa v ∧ Memory.wf t.mem = true ∧
    (s.keys = t.keys ∧ s.planes = t.planes ∧ s.queues = t.queues ∧ s.tlb = t.tlb ∧ ∀ u r, (t.unit u).g r = (s.unit u).g r)

namespace Sys2Proof.Claim

open Sys2Proof Sys2Proof.Machine

/-! Exceptions, records and the system instructions. -/

/-- Hardware wrote into memory, and nothing else changed but what such a write wakes and the log registers of the cistern: of the
armed events only watches may be counted, and those counted already stay so. -/
def Wrote (s t : State) : Prop :=
  t = { s with mem := t.mem, lineKey := t.lineKey, draws := t.draws, units := t.units, csrs := t.csrs, flips := t.flips, poison := t.poison,
               remap := t.remap, remapCache := t.remapCache, reqs := t.reqs, landed := t.landed, trig := t.trig, arms := t.arms } ∧
  (∀ u, t.unit u = { s.unit u with tpend := (t.unit u).tpend }) ∧ t.reqs.map Prod.fst = s.reqs.map Prod.fst ∧
  (∀ x ∈ s.trig, x ∈ t.trig) ∧ (∀ x ∈ t.arms, x ∈ s.arms) ∧
  ∀ x ∈ s.arms, x ∈ t.arms ∨ (x ∈ t.trig ∧ ∃ p v, x.kind = .watch p v)

/-- Hardware writes bytes at an address of a context's memory, or cannot (log 25): they stand there, the leaf that translates the
address is marked, and every byte outside them and outside that leaf's line reads as it did. -/
def Pokes (s t : State) (ctx va : Nat) (v : List Byte) : Prop :=
  (s.poke ctx va v = none ∧ t = s) ∨
  ∃ leaf lvl ea slot, va < 2 ^ 57 ∧ s.walkOwn ctx va true = .ok (leaf, lvl, ea, slot) ∧ Wrote s t ∧
    let pa := (trOf leaf (leafSize lvl leaf) slot va).pa
    (Sound s pa v.length →
      (∀ j (h : j < v.length), t.byteAt slot (pa + j) = v[j]) ∧
      ∀ x, x < pa ∨ pa + v.length ≤ x → x / 64 ≠ ea / 64 → t.byteAt slot x = s.byteAt slot x)

/-- What hardware writes into a record at a hand-off (R161): BPRI, and ESTAMP when the record is queued. -/
def Stamps (s t : State) (ctx va pri : Nat) (queued : Bool) : Prop :=
  ∃ u, Pokes s u ctx (va + 28) [BitVec.ofNat 8 pri] ∧ (queued = true → Pokes u t ctx (va + 24) (leBytes 4 u.timer)) ∧ (queued = false → t = u)

/-- A control core that takes traps itself: TVEC.EN is set and it handles none (R357). -/
def TakesTraps (s : State) : Prop := 256 ≤ s.cur ∧ s.me.tvec.getLsbD 0 = true ∧ s.me.tinfo.getLsbD 38 = false

/-- What a trap leaves on a control core that takes it (R357, Tables 18.8 to 18.11): the pc saved, the cause and INFO, the
privilege before, TA set, the address, and the pc at VEC with privilege. -/
def TrapTaken (s t : State) (cause info addr : Nat) (resume : BitVec 57) : Prop :=
  OnlyUnit s t ∧
  t.me = { s.me with tepc := t.me.tepc, tinfo := t.me.tinfo, tval := t.me.tval, pc := t.me.pc, priv := true } ∧
  t.me.tepc.toNat = resume.toNat ∧ t.me.tval.toNat = addr % 2 ^ 64 ∧
  t.me.tinfo.toNat = cause % 2 ^ 8 * 2 ^ 40 + (if s.me.priv then 2 ^ 39 else 0) + 2 ^ 38 + info % 2 ^ 32 ∧
  t.me.pc.toNat = s.me.tvec.toNat / 4 % 2 ^ 55 * 4

/-- The fault record that a trap of the executing record writes (R338, Tables 18.1 and 18.2). -/
def trapRecord (s : State) (cause info addr : Nat) : FaultRec :=
  let core := decide (256 ≤ s.cur)
  { aux := 0, addr := addr, info := info, cause := cause, cbix := recCbix s.me.record, ctx := s.me.ctx, kind := 1, state := 1,
    die := if core then 0 else s.cur / 64, x := if core then 0 else s.cur % 8 * 8, y := if core then 0 else s.cur / 8 % 8 * 8 }

/-- The record that a queue holds last differs from `r` in BPRI and ESTAMP alone: its BPRI is at most the block's effective
priority, and ESTAMP is the time (R39, R161, R311). -/
def QueuedAs (s : State) (q : QRec) (r : BitVec 256) (addr : Word) (ctx pri : Nat) : Prop :=
  q.addr = addr ∧ q.ctx = ctx ∧ q.estamp = s.timer ∧ recPri q.record = min (recPri r) pri ∧
  q.record.toNat / 2 ^ 192 % 2 ^ 32 = s.timer % 2 ^ 32 ∧ recCptr q.record = recCptr r ∧ recFptr q.record = recFptr r ∧
  recJoin q.record = recJoin r ∧ recCbix q.record = recCbix r

/-- The executing record reads the 32-byte record at `va`, which passes the checks of R161 in their order: aligned and readable,
every reserved field zero, CPTR and FPTR aligned, and its block live or made live. That leaves the machine as s1. -/
def Validates (s : State) (va : Nat) (s1 : State) (r : BitVec 256) : Prop :=
  ∃ s0 z tr b, Reaches s va 32 {} s0 tr ∧ s0.physRead tr.slot tr.pa 32 = (z, .ok b) ∧ r = BitVec.ofNat 256 (leNat b) ∧
    recCptr r % 4 = 0 ∧ recFptr r % 8 = 0 ∧ r.toNat / 2 ^ 227 = 0 ∧ r.toNat / 2 ^ 176 % 2 ^ 16 = 0 ∧ r.toNat / 2 ^ 147 % 2 ^ 5 = 0 ∧
    r.toNat / 2 ^ 121 % 2 ^ 7 = 0 ∧ r.toNat / 2 ^ 57 % 2 ^ 7 = 0 ∧ z.makeLive z.me.ctx (recCbix r) = .ok s1

/-- A record is queued last in queue k, and nothing else changes but TPEND.HUBQ of the cores that a hub queue names (R311, R358). -/
def Enqueues (s z : State) (k : Nat) (q : QRec) : Prop :=
  z = { s with queues := s.queues.put k (s.queues.get k [] ++ [q]), fresh := s.fresh + 1, units := z.units } ∧
  (k < 128 → z.units = s.units) ∧
  ∀ v, z.unit v = { s.unit v with tpend := if 128 ≤ k ∧ 256 ≤ v ∧ v < 264 ∧ s.partOfUnit v = k - 128 ∧ (s.unit v).tien.getLsbD 1 = true
    then (s.unit v).tpend ||| 2#64 else (s.unit v).tpend }

/-- The queue of a record's block can take it: in the issuer's partition, enabled, with room (R161, R311). -/
def Fits (s : State) (r : BitVec 256) : Prop :=
  let k := s.queueOf s.me.ctx (recCbix r)
  (128 ≤ k ∨ s.partOfDie (k / 32) = s.partOfCtx s.me.ctx) ∧ (s.qcfg k).testBit 0 = true ∧ s.queueRoom k s.me.ctx = true

/-- The hand-over of a record whose JOIN is zero: it is queued with its priority bounded and its time written, in memory too. -/
def HandsOver (s1 u : State) (r : BitVec 256) (q : QRec) (va : Word) : Prop :=
  let pri := s1.effPrio s1.me.ctx (recCbix r)
  QueuedAs s1 q r va s1.me.ctx pri ∧ q.handler = none ∧ q.resume = none ∧ q.args = [] ∧ q.ord = s1.fresh ∧
  ∃ z, Enqueues s1 z (s1.queueOf s1.me.ctx (recCbix r)) q ∧ Stamps z u s1.me.ctx va.toNat (min (recPri r) pri) true

/-- The hand-over of a record that waits in memory for its JOIN. -/
def LeavesToWait (s1 u : State) (r : BitVec 256) (va : Word) : Prop :=
  Stamps { s1 with waiting := s1.waiting ++ [(s1.me.ctx, va, recCbix r)] } u s1.me.ctx va.toNat
    (min (recPri r) (s1.effPrio s1.me.ctx (recCbix r))) false

/-- An event that has been found, in machine s2, for a validated record: ARM registers it, or counts it at once when
its condition holds; BPRI is written at the hand-off (R161, R164). -/
def Arms (s : State) (i : Instr) (s2 : State) (r : BitVec 256) (va : Word) (x : ArmKind) (holds : Prop) : Prop :=
  let arm : Arm := ⟨s2.armDie, s2.me.ctx, va, x⟩
  let pri := min (recPri r) (s2.effPrio s2.me.ctx (recCbix r))
  (holds → ∃ u, exec i s = .next u.adv ∧ Stamps { s2 with trig := s2.trig ++ [arm] } u s2.me.ctx va.toNat pri false) ∧
  (¬holds → (s2.arms.filter (fun y => y.die = s2.armDie)).length < 4096 ∨ s2.spillFree s2.me.ctx = true →
    ∃ u, exec i s = .next u.adv ∧ Stamps { s2 with arms := s2.arms ++ [arm] } u s2.me.ctx va.toNat pri false)

end Sys2Proof.Claim

/-- R357: a trap on a control core that takes traps saves what Table 18.9 to 18.11 say and goes on at VEC with privilege; SVC
is such a trap, whose record resumes at the next instruction; ERET gives the pc and the privilege back and clears TA. A trap
and its return leave the program counter and the privilege as they were. R182, R357: ERET on a control core that handles a trap. -/
def Obligations.ControlCoresTakeTrapsAndReturn : Prop :=
  (∀ (s : State) (cause info addr aux : Nat) (resume : BitVec 57) (n : BitVec 7), TakesTraps s →
    TrapTaken s (s.trap cause info addr aux resume) cause info addr resume ∧
    (∃ t, exec (.sSvc n) s = .next t ∧ TrapTaken s t 0x03 n.toNat s.me.pc.toNat (s.me.pc + 4)) ∧
    (resume.toNat % 4 = 0 →
      ∃ t, exec .sEret (s.trap cause info addr aux resume) = .next t ∧ OnlyUnit s t ∧ t.me.pc = resume ∧ t.me.priv = s.me.priv ∧
        t.me.tinfo.getLsbD 38 = false ∧ t.me.regs = s.me.regs ∧ t.me.preds = s.me.preds)) ∧
  (∀ (s : State), s.me.priv = true → 256 ≤ s.cur → s.me.tinfo.getLsbD 38 = true →
    ∃ t, exec .sEret s = .next t ∧ OnlyUnit s t ∧
      t.me = { s.me with pc := t.me.pc, priv := s.me.tinfo.getLsbD 39, tinfo := t.me.tinfo } ∧
      t.me.pc.toNat = s.me.tepc.toNat % 2 ^ 57 / 4 * 4 ∧
      ∀ k < 64, t.me.tinfo.getLsbD k = (s.me.tinfo.getLsbD k && decide (k ≠ 38)))

/-- R345 to R347, Table 18.5: a trap of any other unit puts the fault record, g1 to g31, the predicates, the resume address and
the record into the lowest free trap-frame slot of its context, delivers it, and sets the unit idle. -/
def Obligations.TrapsWriteATrapFrame : Prop :=
  ∀ (s s1 s2 : State) (cause info addr : Nat) (resume : BitVec 57) (slot : Nat),
    (s.cur < 256 ∨ s.me.tvec.getLsbD 0 = false ∨ s.me.tinfo.getLsbD 38 = true) →
    let f := trapRecord s cause info addr
    let r := s.endRecord s.cur
    let a := r.desc s.me.ctx 24 8 + 512 * slot
    r.freeSlot s.me.ctx = some slot →
    r.poke s.me.ctx a (trapFrame (f.bits s.timer) s.me.regs.toList s.me.preds resume.toNat s.me.record) = some s1 →
    (s1.recordRelease s.me.ctx a (s1.effHscope s.me.ctx (recCbix s.me.record))).deliver s.me.ctx (recCbix s.me.record) cause
      (BitVec.ofNat 64 a) s.me.handler = some s2 →
    s.trap cause info addr 0 resume = { s2 with parks := s2.parks ++
      [⟨s.me.ctx, BitVec.ofNat 64 a, .trap s.me.record s.me.recAddr resume s.me.handler, s1.domainOf s.me.ctx (recCbix s.me.record), true, false,
        if 0x10 ≤ cause ∧ cause ≤ 0x18 then some addr else none⟩] } ∧
    Pokes r s1 s.me.ctx a (trapFrame (f.bits s.timer) s.me.regs.toList s.me.preds resume.toNat s.me.record) ∧ (s1.unit s.cur).status = .idle ∧
    (∀ i, i < slot → ∃ p ∈ s.parks, p.live = true ∧ p.ctx = s.me.ctx ∧ p.addr = BitVec.ofNat 64 (r.desc s.me.ctx 24 8 + 512 * i))

/-- R180, R139: in a record without privilege every instruction of the system section but SVC traps PRIVILEGE, with its first
word and its address; so do PARKRES and PARKKILL outside a handler record. -/
def Obligations.PrivilegedInstructionsNeedPrivilege : Prop :=
  ∀ (s : State) (a b d : BitVec 5) (n : BitVec 16), s.me.priv = false →
    TrapsWith .sEret s 0x02 s.me.pc.toNat ∧ TrapsWith .sHalt s 0x02 s.me.pc.toNat ∧ TrapsWith .sIdle s 0x02 s.me.pc.toNat ∧
    TrapsWith (.sCsrrd d n) s 0x02 s.me.pc.toNat ∧ TrapsWith (.sCsrwr d n) s 0x02 s.me.pc.toNat ∧
    TrapsWith (.sTlbinv a b) s 0x02 s.me.pc.toNat ∧ TrapsWith (.sKeyld a b) s 0x02 s.me.pc.toNat ∧
    TrapsWith (.sSwapout a) s 0x02 s.me.pc.toNat ∧ TrapsWith (.sSwapin a) s 0x02 s.me.pc.toNat ∧
    (s.me.handler = none → TrapsWith (.sParkres a) s 0x02 s.me.pc.toNat ∧ TrapsWith (.sParkkill a) s 0x02 s.me.pc.toNat)

/-- R162, R165, R182, R358: DONE ends the record, HALT stops the unit, IDLE sleeps while TPEND is zero, SELF, whose word R165 lays out, gives
the record's address; IDLE_WAKE wakes the cores whose TPEND is nonzero, and a restart makes a halted unit idle. -/
def Obligations.UnitsStopSleepAndWake : Prop :=
  ∀ (s : State) (d : BitVec 5) (u : Nat),
    (∃ t, exec .sDone s = .next t ∧ OnlyUnit s t ∧ t.me = { s.me with status := .idle, idleAt := s.timer, handler := none, wait := none }) ∧
    (s.me.priv = true → ∃ t, exec .sHalt s = .next t ∧ OnlyUnit s t ∧
      t.me = { s.me with status := .halted, idleAt := s.timer, handler := none, wait := none }) ∧
    (s.me.priv = true → 256 ≤ s.cur → ∃ t, exec .sIdle s = .next t ∧ OnlyUnit s t ∧
      t.me = { s.me with pc := s.me.pc + 4, status := if s.me.tpend = 0 then .sleeping else s.me.status }) ∧
    (s.me.priv = true → s.cur < 256 → TrapsWith .sIdle s 0x01 s.me.pc.toNat) ∧
    (∃ t, exec (.sSelf d) s = .next t ∧ WritesG s t d s.me.recAddr 4) ∧
    decodeTableWord 32 (0x94000000 + d.toNat * 2 ^ 21) = some (.sSelf d) ∧
    (∃ t, exec .eIdleWake s = .next t ∧ t = { s with units := t.units } ∧
      ∀ v, t.unit v = if 256 ≤ v ∧ (s.unit v).status = .sleeping ∧ (s.unit v).tpend ≠ 0 then { s.unit v with status := .running } else s.unit v) ∧
    (∃ t, exec (.eUnitRestart u) s = .next t ∧ t = { s with units := t.units } ∧
      ∀ v, t.unit v = if v = u ∧ (s.unit v).status = .halted then { s.unit v with status := .idle, idleAt := s.timer } else s.unit v)

/-- R161: what CONT, ENQ, JOIN and ARM accept: an aligned record of which the reserved fields are zero, and a block that is then
live. R162, R311: ENQ queues a record whose JOIN is zero, with its priority bounded and its time written, in memory too, and leaves any
other to wait. CONT does the same and ends the running record; its unit, when it serves the queue, pops a record that may run and
whose PRI is at least the level of every other eligible one, and starts it at once. -/
def Obligations.EnqAndContHandARecordOver : Prop :=
  (∀ (s s1 : State) (va : Nat) (r : BitVec 256), s.validate va = (s1, .ok r) →
    va % 32 = 0 ∧ s1.blocks.has (blockKey s1.me.ctx (recCbix r)) = true ∧ recCptr r % 4 = 0 ∧ recFptr r % 8 = 0 ∧
    r.toNat / 2 ^ 227 = 0 ∧ r.toNat / 2 ^ 176 % 2 ^ 16 = 0 ∧ r.toNat / 2 ^ 147 % 2 ^ 5 = 0 ∧ r.toNat / 2 ^ 121 % 2 ^ 7 = 0 ∧
    r.toNat / 2 ^ 57 % 2 ^ 7 = 0) ∧
  (∀ (s s1 : State) (r : BitVec 256) (a : BitVec 5), Validates s (s.g a).toNat s1 r →
    let k := s1.queueOf s1.me.ctx (recCbix r)
    (recJoin r = 0 → Fits s1 r → ∃ u q, HandsOver s1 u r q (s.g a) ∧ exec (.sEnq a) s = .next u.adv ∧
      (u.queueOf u.me.ctx (recCbix r) = k →
      let w := u.endRecord u.cur
      let pops := (256 ≤ s1.cur ↔ 128 ≤ k) ∧ w.canRun q = true ∧ ∀ x ∈ w.eligible (w.queuesOf w.cur), x.2.1 ≠ q → x.2.2 ≤ recPri q.record
      (¬pops → exec (.sCont a) s = .next w) ∧
      (pops → ∃ t, exec (.sCont a) s = .next t ∧ t = w.popRecord w.cur k q (recPri q.record) ∧ t.me.status = .running ∧
        t.me.record = q.record ∧ t.me.recAddr = s.g a ∧ t.me.pc.toNat = recCptr r ∧ t.g 1#5 = BitVec.ofNat 64 (recFptr r) ∧
        t.queues.get k [] = (s1.queues.get k [] ++ [q]).erase q))) ∧
    (recJoin r ≠ 0 → ∃ u, LeavesToWait s1 u r (s.g a) ∧ exec (.sEnq a) s = .next u.adv ∧ exec (.sCont a) s = .next (u.endRecord u.cur)))

/-- R163: JOIN adds gb to the record's count in memory, as one atomic access at CONTEXT scope, when the count is not zero already
and does not pass 65,535; it traps JOIN_ZERO, or RECORD, and changes nothing, otherwise. R164, R161: ARM registers its event on the
record, or counts it at once when its condition holds already; BPRI is written at the hand-off. -/
def Obligations.JoinAndArmCountDown : Prop :=
  (∀ (s s1 s2 s3 s4 : State) (r : BitVec 256) (a b : BitVec 5) (tr : Tr) (old : List Byte), Validates s (s.g a).toNat s1 r →
    let n := (s.g b).toNat
    (recJoin r = 0 → TrapsWith (.sJoin a b) s 0x09 s.me.pc.toNat) ∧
    (recJoin r ≠ 0 → n = 0 ∨ 65535 < recJoin r + n → TrapsWith (.sJoin a b) s 0x07 s.me.pc.toNat) ∧
    (recJoin r ≠ 0 → n ≠ 0 → recJoin r + n ≤ 65535 →
      Reaches s1 ((s.g a).toNat + 16) 2 { wr := true, atomic := true, scope := 6 } s2 tr → s2.physRead tr.slot tr.pa 2 = (s3, .ok old) →
      s3.physWrite tr.slot tr.pa (leBytes 2 (leNat old + n)) = (s4, .ok ()) →
      ∃ t, exec (.sJoin a b) s = .next t ∧ t = { s4.adv with races := t.races } ∧
        (Sound s3 tr.pa 2 → Stores s3 t tr.slot tr.pa (leBytes 2 (leNat old + n))))) ∧
  (∀ (s s1 s2 s3 s4 : State) (r : BitVec 256) (a b : BitVec 5) (k : BitVec 2) (h n pk : Nat) (t : IterSt) (tr : Tr) (bytes : List Byte),
    Validates s (s.g a).toNat s1 r →
    (s1.myPlane k = .ok (some (s2, pk)) → (s2.plane pk).iter = some t →
      Arms s (.sArmIter a k) s2 r (s.g a) (.iter pk) (t.complete = true)) ∧
    (s1.armDesc (s.g b).toNat = (s2, .ok (h, n)) → s2.handleCause s2.me.ctx (recCbix s2.me.record) h = none →
      n ≤ (s2.engs.get (ctxKey h) ⟨0, 0, []⟩).accepted →
      Arms s (.sArmTl a b) s2 r (s.g a) (.tl (ctxKey h) n) (n ≤ (s2.engs.get (ctxKey h) ⟨0, 0, []⟩).counter)) ∧
    (s1.armDesc (s.g b).toNat = (s2, .ok (h, n)) → h % 8 = 0 →
      s2.translate s2.cur s2.meIss.die s2.me.ctx h false false s2.me.priv = (s3, .ok tr) → s3.physRead tr.slot tr.pa 8 = (s4, .ok bytes) →
      Arms s (.sArmWatch a b) s4 r (s.g a) (.watch tr.pa (BitVec.ofNat 64 n)) (leNat bytes ≠ n)))

namespace Sys2Proof.Claim

open Sys2Proof Sys2Proof.Machine

/-! Regions, control registers, engines and conversations, as instructions reach them. -/

/-- One plane is `p` now, and nothing else has changed. -/
def PlaneSet (s t : State) (pk : Nat) (p : Plane) : Prop :=
  t = { s with planes := t.planes } ∧ t.plane pk = p ∧ ∀ k, k ≠ pk → t.plane k = s.plane k

/-- An instruction of the plane Kn of the executing record's region, which is bound under `pk`, completes with that plane as
`p`. -/
def OnPlane (i : Instr) (s s1 : State) (k : BitVec 2) (pk : Nat) (p : Plane → Plane) : Prop :=
  s.myPlane k = .ok (some (s1, pk)) → ∃ t, exec i s = .next t ∧ PlaneSet s1.adv t pk (p (s1.plane pk))

/-- The iteration source stopped. -/
def stopped (p : Plane) : Option IterSt := p.iter.map (fun t => { t with running := false })

/-- The executing record reads n bytes at `va`, and nothing stops it (R150): the machine is then s2, and v the number. -/
def Reads (s : State) (va n : Nat) (s2 : State) (v : Nat) : Prop :=
  ∃ s1 tr b, Reaches s va n {} s1 tr ∧ s1.physRead tr.slot tr.pa n = (s2, .ok b) ∧ v = leNat b

/-- Bit k of a register when `v` is written to it: RW bits take gd's, a 1 clears a W1C bit, and the others stay (R181). -/
def writtenBit (n : Nat) (old v : Word) (k : Nat) : Bool :=
  if (Csr.rwMask n).getLsbD k then v.getLsbD k else old.getLsbD k && !((Csr.w1cMask n).getLsbD k && v.getLsbD k)

/-- Fields, by place and width, of which a register's entry says that some values are written as others, or are cleared beside
another field (Tables 16.4 to 16.9, 18.15, 20.4, 20.8 and 22.5). -/
def adjusted (n : Nat) : List (Nat × Nat) :=
  if n = 0x101 then [(0, 11)] else if n = 0x100 then [(0, 16), (16, 16)] else if n = 0x38A then [(16, 16), (8, 4)]
  else if n = 0x401 then [(32, 16)] else if 0x110 ≤ n ∧ n ≤ 0x190 then [(4, 4)] else if 0x10 ≤ n ∧ n ≤ 0x13 then [(48, 16)]
  else if 0x380 ≤ n ∧ n ≤ 0x387 then [(40, 16)] else []

/-- What such a field holds for a value x that is written, or kept, when gd is `v`. The least value of SCHEDCTL's two fields and the
greatest of TAGWIN's are the model's (log 90). -/
def adjust (n lo x : Nat) (v : Word) : Nat :=
  if n = 0x101 then max 1 (min 1024 x) else if n = 0x38A ∧ lo = 8 then max 1 (min 8 x) else if n = 0x100 ∨ n = 0x38A then max 1 x
  else if n = 0x401 then max 100 (min 2400 x) else if 0x110 ≤ n then (if n ≤ 0x190 then max 7 x else if v.getLsbD 60 then 0 else x)
  else if v.getLsbD 0 then 0 else x

/-- A register that only stores what is written, as its entry says. -/
def StoresInto (n : Nat) (old v new : Word) : Prop :=
  (∀ k < 64, (∀ f ∈ adjusted n, k < f.1 ∨ f.1 + f.2 ≤ k) → new.getLsbD k = writtenBit n old v k) ∧
  ∀ f ∈ adjusted n, ∃ x, (∀ k < f.2, x.testBit k = writtenBit n old v (f.1 + k)) ∧ x < 2 ^ f.2 ∧
    new.toNat / 2 ^ f.1 % 2 ^ f.2 = adjust n f.1 x v

/-- One control register of a partition is `v` now, and every other is as before. -/
def OnlyCsr (s t : State) (p n : Nat) (v : Word) : Prop :=
  ∀ q m, q < 4 → m < 65536 → t.csr q m = if m = n ∧ (q = p ∨ moduleCsr n = true) then v else s.csr q m

/-- Hardware writes STATE of a park's record, the rest of its byte as it was, where it can (Table 18.2, R347). -/
def StateWritten (s t : State) (p : Park) (st : Nat) : Prop :=
  (s.peek p.ctx (p.addr.toNat + 25) 1 = none ∧ t = s) ∨
  ∃ b, s.peek p.ctx (p.addr.toNat + 25) 1 = some b ∧ Pokes s t p.ctx (p.addr.toNat + 25) [BitVec.ofNat 8 (b / 64 * 64 + st * 16 + b % 16)]

/-- A park is gone, and what walked into its translation fault is to walk again: the entries of its page are gone too (R329). -/
def Unparked (s t : State) (p : Park) : Prop :=
  t = { s with parks := s.parks.erase p, tlb := t.tlb } ∧
  ∀ e, e ∈ t.tlb ↔ e ∈ s.tlb ∧ ∀ a, p.again = some a → ¬(e.ctx = p.ctx ∧ a / 4096 / 2 ^ e.size = e.vpn / 2 ^ e.size)

/-- The executing record may act on a park (R186). -/
def MayActOn (s : State) (p : Park) : Prop := s.me.priv = true ∨ (s.me.handler ≠ none ∧ p.dom = s.me.handler)

end Sys2Proof.Claim

/-- R168 to R170, R34, R35: CFGACT activates a plane; DRAIN stops its source, and the plane is LOADED at once when no frame is live;
PRIO takes effect from the next fc; ITER starts a source of n0·n1·n2 draws; SPLICE hands over to a loaded plane. R166, Table 7.2: a
region instruction of a record whose block grants no region traps NO_REGION; one that the plane's state forbids traps ILLEGAL. -/
def Obligations.RegionInstructionsActOrTrap : Prop :=
  (∀ (s s1 s2 : State) (k j : BitVec 2) (l : BitVec 3) (a b c : BitVec 5) (pk qk : Nat),
    ((s1.plane pk).state = .loaded ∨ (s1.plane pk).state = .active →
      OnPlane (.sCfgact k) s s1 k pk (fun p => { p with state := .active })) ∧
    ((s1.plane pk).state = .active →
      OnPlane (.sDrain k) s s1 k pk (fun p => { p with state := if p.frames = [] then .loaded else .draining, iter := stopped p })) ∧
    OnPlane (.sPrio k l) s s1 k pk (fun p => { p with pend := p.pend ++ [.prio l.toNat] }) ∧
    (let n0 := (s.g a).toNat; let n1 := if b = 0#5 then 1 else (s.g b).toNat; let n2 := if c = 0#5 then 1 else (s.g c).toNat
     0 < n0 → 0 < n1 → 0 < n2 → n0 * n1 * n2 < 2 ^ 48 → (s1.plane pk).state = .active →
      (∀ t, (s1.plane pk).iter = some t → t.complete = true) →
      OnPlane (.sIter k a b c) s s1 k pk (fun p => { p with
        priv := s1.me.priv
        iter := some ⟨n0, n1, n2, 0, true, false, s1.me.horizon, s1.timer, p.nodes.any (fun x => x.2.toNat / 2 ^ 120 = 0xB6), 0⟩
        quant := p.quant.map (fun x => (x.1, { x.2 with next := 0, cur := 0 })) })) ∧
    (s.myPlane k = .ok (some (s1, pk)) → s.myPlane j = .ok (some (s2, qk)) → k ≠ j → pk ≠ qk →
      (s1.plane pk).state = .loaded → (s1.plane qk).state = .active →
      ∃ t, exec (.sSplice k j) s = .next t ∧ t = { s1.adv with planes := t.planes } ∧ (∀ x, x ≠ pk → x ≠ qk → t.plane x = s1.plane x) ∧
        t.plane qk = { s1.plane qk with state := .draining, iter := stopped (s1.plane qk) } ∧
        t.plane pk = { s1.plane pk with state := .active, prio := (s1.plane qk).prio, pred := some qk, switched := [], waves := [] })) ∧
  (∀ (s s1 : State) (k j : BitVec 2) (l : BitVec 3) (a b c : BitVec 5) (q : BitVec 2) (d : BitVec 5) (pk : Nat),
    (s.me.region = none →
      TrapsWith (.sCfgact k) s 0x0A s.me.pc.toNat ∧ TrapsWith (.sDrain k) s 0x0A s.me.pc.toNat ∧ TrapsWith (.sPrio k l) s 0x0A s.me.pc.toNat ∧
      TrapsWith (.sIter k a b c) s 0x0A s.me.pc.toNat ∧ TrapsWith (.sSplice k j) s 0x0A s.me.pc.toNat ∧
      TrapsWith (.sTokin k a b q) s 0x0A s.me.pc.toNat ∧ TrapsWith (.sTokget d a k) s 0x0A s.me.pc.toNat ∧
      TrapsWith (.sCfgld k a) s 0x0A s.me.pc.toNat) ∧
    (s.myPlane k = .ok (some (s1, pk)) →
      ((s1.plane pk).state = .empty → TrapsWith (.sCfgact k) s 0x01 s.me.pc.toNat ∧ TrapsWith (.sDrain k) s 0x01 s.me.pc.toNat ∧
        TrapsWith (.sTokget d a k) s 0x01 s.me.pc.toNat) ∧
      ((s1.plane pk).state ≠ .active → TrapsWith (.sIter k a b c) s 0x01 s.me.pc.toNat) ∧
      ((s1.plane pk).state = .active ∨ (s1.plane pk).state = .draining → TrapsWith (.sCfgld k a) s 0x01 s.me.pc.toNat)))

/-- R24, R171, R172, R211: TOKIN gives every copy of a node a sticky operand from the next fc; TOKGET takes the oldest vector of
the token queue, stores it and answers its mask with bit 16 set, or answers zero. -/
def Obligations.TokensCrossTheRegionBoundary : Prop :=
  ∀ (s s1 s2 s3 : State) (k q : BitVec 2) (a n d : BitVec 5) (pk : Nat), s.myPlane k = .ok (some (s1, pk)) →
    (((s1.plane pk).state = .loaded ∨ (s1.plane pk).state = .active) → q.toNat < 2 →
      (∀ x ∈ (s1.plane pk).nodes, x.1 % 32 = n.toNat → x.2.getLsbD (107 - q.toNat) = true) →
      ∃ t l, exec (.sTokin k a n q) s = .next t ∧ PlaneSet s1.adv t pk { s1.plane pk with pend := (s1.plane pk).pend ++ l } ∧
        (∀ c ∈ (s1.plane pk).copies, ∀ x ∈ (s1.plane pk).nodes, x.1 % 32 = n.toNat → ∃ v : Operand,
          Pending.stick (64 * (s1.plane pk).elemIn pk c (x.1 / 32) + 2 * n.toNat + q.toNat) v ∈ l ∧ v.mask = 0xFFFF#16 ∧ v.kind = 0#4 ∧
          ∀ e, e < 512 / NodeCheck.width (x.2.toNat / 2 ^ 116 % 16) → elem v.val (NodeCheck.width (x.2.toNat / 2 ^ 116 % 16)) e =
            (s1.g a).toNat % 2 ^ NodeCheck.width (x.2.toNat / 2 ^ 116 % 16)) ∧
        l.length = (s1.plane pk).copies.length * ((s1.plane pk).nodes.filter (fun x => x.1 % 32 = n.toNat)).length) ∧
    ((s1.plane pk).state ≠ .empty → (s.g a).toNat % 64 = 0 → (s1.plane pk).tokq = [] →
      ∃ t, exec (.sTokget d a k) s = .next t ∧ WritesG s1 t d 0 4) ∧
    (∀ v m rest tr, (s1.plane pk).state ≠ .empty → (s1.plane pk).tokq = (v, m) :: rest →
      Reaches s1 (s.g a).toNat 64 { wr := true } s2 tr → s2.physWrite tr.slot tr.pa (leBytes 64 v.toNat) = (s3, .ok ()) →
      ∃ t, exec (.sTokget d a k) s = .next t ∧ t = { s3 with units := t.units, races := t.races, planes := t.planes } ∧
        t.plane pk = { s3.plane pk with tokq := rest } ∧ (∀ j, j ≠ pk → t.plane j = s3.plane j) ∧
        WritesG { s3 with races := t.races, planes := t.planes } t d (BitVec.ofNat 64 (2 ^ 16 + m.toNat)) 4 ∧
        (Sound s2 tr.pa 64 → Stores s2 t tr.slot tr.pa (leBytes 64 v.toNat)))

/-- R148, R167: CFGLD, in either form, of an image that every check accepts loads the plane with the image's configuration; a
failed check leaves the plane EMPTY and traps CONFIG with its subcause and place. Messages that wait at the plane's edge ports go
back to the conversation engine first. -/
def Obligations.CfgldLoadsWhatTheChecksAccept : Prop :=
  ∀ (s s1 s2 : State) (k : BitVec 2) (a : BitVec 5) (i : BitVec 32) (pk : Nat) (h : CfgHead) (c : Image) (x : Bool),
    let va := if x then ((if a = 0#5 then s.me.pc.setWidth 64 else s.g a) + i.signExtend 64).toNat else (s.g a).toNat
    let ins := if x then Instr.sCfgldX k a i else .sCfgld k a
    s.myPlane k = .ok (some (s1, pk)) → ((s1.plane pk).state = .empty ∨ (s1.plane pk).state = .loaded) → va % 64 = 0 →
    s1.readImage va (s1.plane pk).w (s1.plane pk).h = (s2, .ok (h, c)) →
    let q := s2.planeOf pk (s1.plane pk) h c
    (c.err = none → s2.cfgCheck pk q = none → (q.usesData = true → s2.dataTaken pk q = []) →
      ∃ t p, exec ins s = .next t ∧
        (let z := s2.returnCmsg (s1.plane pk)
         t = { (if x then z.advX else z.adv) with planes := t.planes, edOwner := t.edOwner } ∧ ∀ j, j ≠ pk → t.plane j = z.plane j) ∧
        (∀ e, t.edOwner.find e = if q.usesData = true ∧ ∃ y ∈ q.elems pk, e = 4096 * pkDie pk + y then some q.ctx else s2.edOwner.find e) ∧
        t.plane pk = p ∧ p.cmsg = [] ∧ p.state = .loaded ∧ p.nodes = c.nodes ∧ p.routes = c.routes ∧ p.binds = c.binds ∧
        p.tree = c.tree ∧ p.f = 8 * (h.raw / 2 ^ 16 % 2 ^ 8) ∧ p.depth = h.raw / 2 ^ 24 % 2 ^ 8 ∧ p.tw = h.raw / 2 ^ 48 % 2 ^ 8 ∧
        p.th = h.raw / 2 ^ 56 % 2 ^ 8 ∧ p.frames = [] ∧ p.slots = [] ∧ p.free = List.range (min 1024 (8192 / p.f)) ∧ p.flags = 0 ∧
        p.ctx = (s1.plane pk).ctx ∧ p.w = (s1.plane pk).w ∧ p.h = (s1.plane pk).h ∧ p.gens = (s1.plane pk).gens) ∧
    (∀ e, c.err = some e ∨ (c.err = none ∧ s2.cfgCheck pk q = some e) → ∃ u, PlaneSet s2 u pk { s1.plane pk with
        state := .empty, nodes := [], routes := [], binds := [], tree := [] } ∧
      exec ins s = .next (u.trap 0x06 e.sub s2.me.pc.toNat 0 s2.me.pc (some (e.x, e.y, e.node))))

/-- R70, R82, R173, R174, R309, R336: TIDSET takes an entry that R70 admits and refuses any other; TIDGET stores it; TLREAD reads a
granted context's counter. -/
def Obligations.IdentifiersAndTimelinesAreRead : Prop :=
  ∀ (s s1 s2 : State) (d a : BitVec 5) (i : BitVec 8) (v : Nat) (tr : Tr),
    (Reads s (s.g a).toNat 64 s1 v →
      (tidOk v = true → ∃ t, exec (.sTidset a i) s = .next t ∧ t = { s1.adv with tids := t.tids } ∧
        ∀ c j, j < 256 → t.tid c j = if c = s1.me.ctx ∧ j = i.toNat then BitVec.ofNat 512 v else s1.tid c j) ∧
      (tidOk v = false → TrapsWith (.sTidset a i) s 0x01 s.me.pc.toNat)) ∧
    (let w := leBytes 64 (s.tid s.me.ctx i.toNat).toNat
     Reaches s (s.g a).toNat 64 { wr := true } s1 tr → s1.physWrite tr.slot tr.pa w = (s2, .ok ()) →
      ∃ t, exec (.sTidget a i) s = .next t ∧ t = { s2.adv with races := t.races } ∧ (Sound s1 tr.pa 64 → Stores s1 t tr.slot tr.pa w)) ∧
    (s.handleCause s.me.ctx (recCbix s.me.record) (s.g a).toNat = none →
      ∃ t, exec (.sTlread d a) s = .next t ∧ WritesG s t d (BitVec.ofNat 64 (s.engs.get (ctxKey (s.g a).toNat) ⟨0, 0, []⟩).counter) 4) ∧
    (s.granted s.me.ctx (recCbix s.me.record) (s.g a).toNat = false →
      exec (.sTlread d a) s = .next (s.trap 0x25 0 s.me.pc.toNat (s.g a).toNat s.me.pc))

/-- R96, R175: COPYS hands a command to a granted copy engine, which accepts it as the next number of its context; gd is that
number. While 64 commands of the context are not complete it waits. -/
def Obligations.CopysQueuesTheNextCommand : Prop :=
  ∀ (s s1 : State) (d a : BitVec 5) (b : Nat),
    let h := b % 2 ^ 64
    let n := (s1.engs.get (ctxKey h) ⟨0, 0, []⟩).accepted + 1
    Reads s (s.g a).toNat 64 s1 b →
    s1.copyCause s1.me.ctx (recCbix s1.me.record) b h = none →
    ((s1.openCmds (ctxKey h) < 64 ∧ (∀ x ∈ s1.cmds, x.2.ctxKey = ctxKey h → x.2.num ≠ none)) →
      ∃ t c, exec (.sCopys d a) s = .next t ∧
        t = { s1 with units := t.units, fresh := t.fresh, cmds := t.cmds, engs := t.engs } ∧
        t.cmds.find s1.fresh = some c ∧ (∀ j, j ≠ s1.fresh → t.cmds.find j = s1.cmds.find j) ∧
        c.ctxKey = ctxKey h ∧ c.kind = 0 ∧ c.num = some n ∧ c.block = BitVec.ofNat 512 b ∧ c.iss = s1.meIss ∧ c.pos = 0 ∧ c.horizon = s1.horizonOf s1.meIss ∧
        c.tids = [s1.tid s1.me.ctx (b / 2 ^ 224 % 256), s1.tid s1.me.ctx (b / 2 ^ 232 % 256)] ∧
        (t.engs.get (ctxKey h) ⟨0, 0, []⟩).accepted = n ∧ (∀ j, j ≠ ctxKey h → t.engs.find j = s1.engs.find j) ∧
        (∀ u, u ≠ s1.cur → t.unit u = s1.unit u) ∧ t.me = { s1.me with regs := t.me.regs, pc := s1.me.pc + 4 } ∧
        ∀ r, t.g r = if r = d ∧ d ≠ 0#5 then BitVec.ofNat 64 n else s1.g r) ∧
    (64 ≤ s1.openCmds (ctxKey h) → exec (.sCopys d a) s = .next s)

/-- R181, R324, R359, R372: CSRRD reads every control register that the unit has; a register of another partition's die reads zero,
and reading PWRSTAT clears its stretch count. A register that the unit lacks traps ILLEGAL. R181, R337, R359, R369, R372, R373,
R375: CSRWR writes every control register that the unit has, by the access code of each field and as the register's entry says; it
does nothing to one of another partition's die, and traps ILLEGAL at CURCB, at FEAT, and at a value that PARTCFG forbids. -/
def Obligations.ControlRegistersReadAndWrite : Prop :=
  (∀ (s : State) (d : BitVec 5) (n : BitVec 16), s.me.priv = true →
    ((Csr.defined n.toNat = true ∧ (n.toNat ≤ 5 → 256 ≤ s.cur)) →
      ∃ t v, exec (.sCsrrd d n) s = .next t ∧ t = { s with units := t.units, csrs := t.csrs } ∧ WritesG { s with csrs := t.csrs } t d v 4 ∧
        (n.toNat ≠ 0x401 → t.csrs = s.csrs) ∧
        (n.toNat = 0x401 → ∃ w, OnlyCsr s t 0 0x401 w ∧ ∀ k < 64, w.getLsbD k = ((s.csr 0 0x401).getLsbD k && !decide (1 ≤ k ∧ k ≤ 7))) ∧
        (n.toNat ≤ 5 → v = [s.me.tvec, s.me.tepc, s.me.tinfo, s.me.tval, s.me.tpend, s.me.tien][n.toNat]!) ∧
        (n.toNat = 0x103 → v.toNat = (if s.me.recPriv then 2 ^ 31 else 0) + (s.block s.me.ctx (recCbix s.me.record)).level % 8 * 2 ^ 27 +
          s.me.elev % 8 * 2 ^ 24 + recCbix s.me.record) ∧
        (5 < n.toNat → n.toNat ≠ 0x103 → Csr.dieOf n.toNat = none → v = s.csr (s.partOfUnit s.cur) n.toNat) ∧
        (∀ x, Csr.dieOf n.toNat = some x → v = if s.partOfDie x = s.partOfUnit s.cur then s.csr (s.partOfUnit s.cur) n.toNat else 0)) ∧
    ((Csr.defined n.toNat = false ∨ (n.toNat ≤ 5 ∧ s.cur < 256)) →
      TrapsWith (.sCsrrd d n) s 0x01 s.me.pc.toNat ∧ TrapsWith (.sCsrwr d n) s 0x01 s.me.pc.toNat)) ∧
  (∀ (s : State) (d : BitVec 5) (n : BitVec 16), s.me.priv = true → Csr.defined n.toNat = true → (n.toNat ≤ 5 → 256 ≤ s.cur) →
    let i := Instr.sCsrwr d n; let m := n.toNat; let v := s.g d; let p := s.partOfUnit s.cur
    let far := ∃ x, Csr.dieOf m = some x ∧ s.partOfDie x ≠ p
    ((m = 0x103 ∨ m = 0x400) → TrapsWith i s 0x01 s.me.pc.toNat) ∧
    (m ≤ 5 → ∃ t, exec i s = .next t ∧ OnlyUnit s t ∧
      t.me = { s.me with pc := s.me.pc + 4, tvec := t.me.tvec, tepc := t.me.tepc, tinfo := t.me.tinfo, tval := t.me.tval, tpend := t.me.tpend,
                         tien := t.me.tien } ∧
      ∀ j (h : j < 6), let old := [s.me.tvec, s.me.tepc, s.me.tinfo, s.me.tval, s.me.tpend, s.me.tien][j]
        let new := [t.me.tvec, t.me.tepc, t.me.tinfo, t.me.tval, t.me.tpend, t.me.tien][j]
        if j = m then ∀ k < 64, new.getLsbD k = writtenBit m old v k else new = old) ∧
    (far → exec i s = .next s.adv) ∧
    (m = 0x203 → (s.locks.contains 0x203 = true → exec i s = .next s.adv) ∧
      (s.locks.contains 0x203 = false → partcfgOk v.toNat = false → TrapsWith i s 0x01 s.me.pc.toNat) ∧
      (s.locks.contains 0x203 = false → partcfgOk v.toNat = true → ∃ t, exec i s = .next t ∧
        t = { s.adv with csrs := t.csrs, locks := t.locks } ∧ t.locks.contains 0x203 = true ∧ OnlyCsr s t 0 0x203 (v &&& 0x3FF#64))) ∧
    ((m = 0x200 ∨ m = 0x201) → ∃ t, exec i s = .next t ∧ t = { s.adv with csrs := t.csrs, locks := t.locks } ∧
      t.locks.contains (65536 * p + m) = true ∧
      OnlyCsr s t p m (if s.locks.contains (65536 * p + m) then s.csr p m else v &&& 0x000FFFFFFFFFF000#64)) ∧
    (¬far → 0x300 ≤ m → m ≤ 0x37F → ∃ t w, exec i s = .next t ∧
      t = { s.adv with csrs := t.csrs, remap := t.remap, remapCache := t.remapCache } ∧ OnlyCsr s t p m w ∧ w = s.csr p m &&& ~~~v ∧
      (∀ x, x ∈ t.remap ↔ x ∈ s.remap ∧ ¬(x.1 / 2 ^ 25 = m - 0x300 ∧ (s.csr p m &&& v).getLsbD (x.1 / 2 ^ 19 % 64) = true)) ∧
      ∀ x, x ∈ t.remapCache ↔ x ∈ s.remapCache ∧ ¬(x.1 / 64 = m - 0x300 ∧ (s.csr p m &&& v).getLsbD (x.1 % 64) = true)) ∧
    (m = 0x388 → ∃ t, exec i s = .next t ∧ t = { s.adv with flips := t.flips } ∧
      let die := v.toNat / 2 ^ 45 % 4; let b := v.toNat / 2 ^ 8 % 128
      let word := cisternWord (32 * die + v.toNat / 2 ^ 40 % 32) (v.toNat / 2 ^ 34 % 64) (v.toNat / 2 ^ 15 % 2 ^ 19) / 8
      ∀ w j, (j ∈ t.flips.get w [] ↔
        if v.getLsbD 0 = true ∧ s.partOfDie die = p ∧ b < 72 ∧ s.feat 18 = true ∧ w = word ∧ j = b then j ∉ s.flips.get w [] else j ∈ s.flips.get w [])) ∧
    (m = 0x389 → ∃ t w, exec i s = .next t ∧ t = { s.adv with csrs := t.csrs } ∧ OnlyCsr s t p m w ∧
      if s.partOfDie (v.toNat / 2 ^ 45 % 4) = p then StoresInto m (s.csr p m) v w else w = s.csr p m) ∧
    (¬far → 0x390 ≤ m → m ≤ 0x39B → (v.getLsbD 0 = false ∨ s.feat 15 = false → exec i s = .next s.adv) ∧
      (v.getLsbD 0 = true → s.feat 15 = true → ∃ t w failed, exec i s = .next t ∧
        t = { s.adv with csrs := t.csrs, draws := s.draws + 1, paused := t.paused } ∧ OnlyCsr s t p m w ∧
        (∀ x, x ∈ t.paused ↔ x = m - 0x390 ∨ x ∈ s.paused) ∧ failed < 65536 ∧ w.toNat / 2 ^ 16 % 65536 = failed ∧
        w.toNat / 2 ^ 32 % 65536 = ((s.csr p m).toNat / 2 ^ 32 + 1) % 65536 ∧
        (let wide := w.toNat / 4 % 4; let sel := w.toNat / 16 % 4
         (wide = 0 ↔ failed = 0) ∧ (wide = 1 → failed / 2 ^ (8 * sel) % 256 = 0) ∧ (wide = 2 → failed / 2 ^ (4 * sel) % 16 = 0) ∧
         (2 ≤ wide → ∀ h < 2, failed / 2 ^ (8 * h) % 256 ≠ 0) ∧ (wide = 3 → ∀ q < 4, failed / 2 ^ (4 * q) % 16 ≠ 0)))) ∧
    (¬far → 5 < m → m ∉ [0x103, 0x200, 0x201, 0x203, 0x388, 0x389, 0x400] → (m < 0x300 ∨ 0x37F < m) → (m < 0x390 ∨ 0x39B < m) →
      ∃ t w, exec i s = .next t ∧ t = { s.adv with csrs := t.csrs } ∧ OnlyCsr s t p m w ∧ StoresInto m (s.csr p m) v w))

/-- R183, R184, R328, R335: TLBINV drops the entries of the issuer's partition that its kind names, and no other, and the accesses
of the conversation engine that failed in those contexts are made again (R121); KEYLD fills a key slot that nothing uses from memory. -/
def Obligations.TranslationsAndKeysAreReplaced : Prop :=
  ∀ (s s1 : State) (a b : BitVec 5) (v : Nat), s.me.priv = true →
    (let kind := (s.g b).toNat / 2 ^ 16 % 4; let ctx := (s.g b).toNat % 2 ^ 16; let part := s.partOfUnit s.cur
     (s.g b).toNat < 2 ^ 18 → kind < 3 → (kind = 2 → s.g a = 0 ∧ ctx = 0) → (kind ≠ 2 → s.partOfCtx ctx = part) →
      ∃ z t : State, exec (.sTlbinv a b) s = .next t ∧ z = { s with tlb := z.tlb } ∧ t = (z.retryFailing (decide (kind = 2)) ctx).adv ∧
        (∀ e, e ∈ z.tlb ↔ e ∈ s.tlb ∧ ¬(s.partOfEntry e = part ∧
          (kind = 2 ∨ (kind = 1 ∧ e.ctx = ctx) ∨ (kind = 0 ∧ e.ctx = ctx ∧ e.vpn / 2 ^ e.size = (s.g a).toNat / 4096 / 2 ^ e.size)))) ∧
        ((∀ x ∈ s.deliveries, s.failingFor (decide (kind = 2)) ctx x.2 = false) → t = z.adv)) ∧
    (let slot := (s.g a).toNat; let part := s.partOfUnit s.cur
     8192 * part / s.parts ≤ slot → slot < 8192 * (part + 1) / s.parts → slot < 8192 → s.keyInUse part slot = false →
      Reads s (s.g b).toNat 64 s1 v →
      ∃ t, exec (.sKeyld a b) s = .next t ∧ t = { s1.adv with keys := t.keys } ∧
        ∀ k, t.key k = if k = slot then BitVec.ofNat 512 v else s1.key k)

/-- R185, R318, R319: SWAPOUT makes a bound plane of the named block a victim, if it is not one already; SWAPIN asks for a saved
plane's return into the region that the block now names, when a plane of that region is free. -/
def Obligations.SwapInstructionsStartTheirSwap : Prop :=
  ∀ (s s1 : State) (a : BitVec 5) (pk : Nat) (x : Saved) (g : Region), s.me.priv = true →
    let cbix := (s.g a).toNat % 2 ^ 24; let vp := (s.g a).toNat / 2 ^ 24
    vp < 4 →
    ((s.block s.me.ctx cbix).binds.find vp = some pk → s.savedOf s.me.ctx cbix vp = none → (s.plane pk).state ≠ .empty →
      ∃ t, exec (.sSwapout a) s = .next t ∧
        PlaneSet s.adv t pk (if (s.plane pk).swap = 0 then { s.plane pk with swap := 1, drainPrio := 0 } else s.plane pk)) ∧
    (s.savedOf s.me.ctx cbix vp = some x → (s.makeLive s.me.ctx cbix = .ok s1 ∨ ((∀ u, s.makeLive s.me.ctx cbix ≠ .ok u) ∧ s1 = s)) →
      s1.grant s.me.ctx cbix = some g → (s.freePlane g).isSome = true →
      ∃ t, exec (.sSwapin a) s = .next t ∧ t = { s1.adv with saved := t.saved } ∧ t.saved.length = s.saved.length ∧
        ∀ j (h : j < s.saved.length), t.saved[j]? = some { s.saved[j] with restoring := s.saved[j].restoring || decide (s.saved[j].key = x.key) })

/-- R186, R343, R347, R348, R351, R360: PARKRES of a parked frame lets it go on: STATE is written, its withdrawn tokens arrive in
their order from the next fc, results kept for it are sent, its held accesses are issued again, and its refused sends are submitted
again with their role register as it now stands. A frame of a saved plane goes on after its swap-in. PARKRES of a trapped record
queues it where it stopped, with the registers of its trap frame. A report and a frame marked LOST do not resume. R19, R20, R21,
R102, R186, R318, R348: PARKKILL of a parked frame ends it without its flags: its generation advances, its identifier goes to the
tail of the free list, held for 128 fc, and what was held for it is gone. Of a frame of a saved plane, that waits for the swap-in.
PARKKILL of a trapped record or a report frees the slot. -/
def Obligations.ParkedWorkResumesOrEnds : Prop :=
  (∀ (s : State) (a : BitVec 5), (s.me.priv = true ∨ s.me.handler ≠ none) →
    (s.findPark (s.g a) = none → TrapsWith (.sParkres a) s 0x0B s.me.pc.toNat) ∧
    ∀ (p : Park), s.findPark (s.g a) = some p →
    (¬MayActOn s p → TrapsWith (.sParkres a) s 0x02 s.me.pc.toNat) ∧
    (MayActOn s p →
    (∀ pk f g fr, p.kind = .frame pk f g → s.planes.has pk = true → (s.plane pk).frame? f = some fr → fr.lost = false →
      ∃ u w t l m, StateWritten s u p 2 ∧ Unparked u w p ∧ exec (.sParkres a) s = .next t ∧
        t = { w.adv with planes := t.planes, flights := t.flights, fresh := s.fresh + 1, reqs := t.reqs, sends := t.sends, blocks := t.blocks } ∧
        (∀ k, k ≠ pk → t.plane k = s.plane k) ∧
        t.plane pk = { s.plane pk with
          frames := (s.plane pk).frames.put f { fr with parked := false, withdrawn := [], resume := [] }
          frozen := (t.plane pk).frozen, discarded := (t.plane pk).discarded } ∧
        ((s.plane pk).frozen = false → t.blocks = s.blocks ∧ (t.plane pk).frozen = false ∧ (t.plane pk).discarded = (s.plane pk).discarded) ∧
        t.flights = s.flights ++ l ++ m ∧
        l.map (fun x => (x.plane, x.elem, x.tag, x.pay, x.due)) = fr.withdrawn.map (fun x => (pk, x.1, x.2.1, x.2.2, s.fc + 1)) ∧
        (∀ x ∈ m, x.plane = pk ∧ tagFrame x.tag = f % 1024 ∧ tagGen x.tag = fr.gen % 8) ∧ (fr.resume = [] → m = []) ∧
        t.reqs = u.reqs.map (fun x => (x.1,
          if x.2.plane = pk ∧ x.2.frame = f ∧ x.2.gen = fr.gen ∧ x.2.stage = .held then { x.2 with stage := .queued, at_ := s.fc } else x.2)) ∧
        ∀ k x, s.sends.find k = some x → ∃ y, t.sends.find k = some y ∧
          let mine := x.held = true ∧ ∃ e n, x.iss.frame = some (pk, e, n, f, fr.gen)
          let r := (s.roleReg pk (x.body.operand.toNat % 8)).toNat
          (¬mine → y = x) ∧
          (mine → y = { x with held := false, at_ := s.fc, due := s.due x.iss.die, reg := r, handle := y.handle, role := y.role } ∧
            (x.deleg = true ∨ x.reg / 2 ^ 26 % 2 = 0 → y.handle = BitVec.ofNat 64 (r / 2 ^ 30 * 2 ^ 30) ∧ y.role = r / 2 ^ 27 % 8) ∧
            (x.deleg = false → x.reg / 2 ^ 26 % 2 = 1 → y.handle = x.handle ∧ y.role = x.role))) ∧
    (∀ pk f g fr v, p.kind = .frame pk f g → s.planes.has pk = false → s.saved.find? (fun x => x.key = pk) = some v →
      v.plane.frame? f = some fr → fr.lost = false →
      ∃ u w t q, StateWritten s u p 2 ∧ Unparked u w p ∧ exec (.sParkres a) s = .next t ∧
        t = { w.adv with saved := t.saved, blocks := t.blocks } ∧
        t.saved = s.saved.map (fun x => if x.key = pk then { x with plane := q } else x) ∧
        q = { v.plane with frames := v.plane.frames.put f { fr with parked := false }, frozen := q.frozen, discarded := q.discarded } ∧
        (v.plane.frozen = false → t.blocks = s.blocks ∧ q.frozen = false ∧ q.discarded = v.plane.discarded)) ∧
    (∀ pk f g, p.kind = .frame pk f g → s.parkLost pk f = true → TrapsWith (.sParkres a) s 0x0B s.me.pc.toNat) ∧
    (∀ r addr pc h tr s1, p.kind = .trap r addr pc h → s.walkOwn p.ctx p.addr.toNat false = .ok tr →
      s.makeLive p.ctx (recCbix r) = .ok s1 →
      ∃ u w z q, StateWritten s1 u p 0 ∧ Unparked u w p ∧ exec (.sParkres a) s = .next z.adv ∧
        Enqueues w z (w.queueOf p.ctx (recCbix r)) q ∧ q.handler = h ∧ q.args = [] ∧ q.ord = s.fresh ∧ recJoin q.record = 0 ∧
        QueuedAs w q (recSet r 143 128 0) addr p.ctx (w.effPrio p.ctx (recCbix r)) ∧
        q.resume = some ⟨pc, (s.trapRegs p.ctx p.addr.toNat).1, (s.trapRegs p.ctx p.addr.toNat).2⟩) ∧
    (p.kind = .report → TrapsWith (.sParkres a) s 0x0B s.me.pc.toNat))) ∧
  (∀ (s : State) (a : BitVec 5), (s.me.priv = true ∨ s.me.handler ≠ none) →
    (s.findPark (s.g a) = none → TrapsWith (.sParkkill a) s 0x0B s.me.pc.toNat) ∧
    ∀ (p : Park), s.findPark (s.g a) = some p →
    (¬MayActOn s p → TrapsWith (.sParkkill a) s 0x02 s.me.pc.toNat) ∧
    (MayActOn s p →
    (∀ pk f g fr, p.kind = .frame pk f g → s.planes.has pk = true → (s.plane pk).frame? f = some fr →
      ∃ u t, StateWritten s u p 3 ∧ exec (.sParkkill a) s = .next t ∧
        t = { u.adv with planes := t.planes, reqs := t.reqs, rays := t.rays, csrs := t.csrs, keeps := t.keeps, rows := t.rows,
                         contribs := t.contribs, parks := t.parks, sends := t.sends, tokens := t.tokens, farLocks := t.farLocks,
                         kept := t.kept, parking := t.parking } ∧
        (∀ k, k ≠ pk → t.plane k = s.plane k) ∧ (t.plane pk).frames = (s.plane pk).frames.del f ∧ (t.plane pk).flags = (s.plane pk).flags ∧
        (t.plane pk).gen f = ((s.plane pk).gen f + 1) % 8 ∧ (t.plane pk).free = (s.plane pk).free ++ [f] ∧
        (t.plane pk).holds.get f 0 = s.fc + 128 ∧ (∀ e, (e, f) ∉ (t.plane pk).groups) ∧ (f, fr.gen) ∉ (t.plane pk).retired ∧
        (t.plane pk).state = (if (s.plane pk).state = .draining ∧ (s.plane pk).frames.del f = [] then .loaded else (s.plane pk).state) ∧
        (∀ x ∈ t.reqs, ¬(x.2.plane = pk ∧ x.2.frame = f ∧ x.2.gen = fr.gen ∧ x.2.stage = .held)) ∧
        (∀ x ∈ t.sends, ¬(x.2.held = true ∧ ∃ e n, x.2.iss.frame = some (pk, e, n, f, fr.gen))) ∧
        (∀ x, x ∈ t.parks ↔ x ∈ s.parks.erase p ∧ x.kind ≠ .frame pk f fr.gen)) ∧
    (∀ pk f g, p.kind = .frame pk f g → s.planes.has pk = false →
      ∃ u t, StateWritten s u p 3 ∧ exec (.sParkkill a) s = .next t ∧ t = { u.adv with parks := s.parks.erase p, saved := t.saved } ∧
        t.saved = s.saved.map (fun x => if x.key = pk then { x with kills := x.kills ++ [(f, g)] } else x)) ∧
    ((∀ pk f g, p.kind ≠ .frame pk f g) →
      ∃ u, StateWritten s u p 0 ∧ exec (.sParkkill a) s = .next { u.adv with parks := s.parks.erase p })))

/-- R112, R113, R176: CVOPEN takes a free slot of the unit's die, in the image's initial state with every role unbound, and gives
its handle. An image that the die knows already is not read again. R115, R116, R177, Table 5.5: CVBIND binds an unbound role of an
open conversation of the record's context to an endpoint in its scope, and gives a frame-port endpoint the lowest free role register
of its context in its region. -/
def Obligations.ConversationsOpenAndBind : Prop :=
  (∀ (s s0 s1 : State) (d a : BitVec 5) (sc : BitVec 4) (img : Nat) (b w : List Byte),
    let va := (s.g a).toNat; let die := s.convDie
    let known := s.convs.find? (fun x => x.1 / 4096 = die && x.2.open_ && x.2.owner = s.me.ctx && x.2.imageAt = va)
    va % 64 = 0 → s.feat 16 = true → s.freeSlots die ≠ [] → 4 ≤ s.desc s.me.ctx 42 2 →
    ((∃ x, known = some x ∧ x.2.image = img ∧ s1 = s) ∨
     (known = none ∧ (s.images die).length < 64 ∧ s.readFor s.meIss va 64 = (s0, .ok b) ∧
      s0.readFor s.meIss (va + 64) (4 * min 1024 (transitions (leNat b))) = (s1, .ok w) ∧ leNat (b ++ w) = img)) →
    imageOk img = true →
    ∃ t key, exec (.sCvopen d a sc) s = .next t ∧ t = { s1 with units := t.units, convs := t.convs, draws := t.draws } ∧
      key / 4096 = die ∧ (s.conv key).open_ = false ∧ (∀ k, k ≠ key → t.conv k = s1.conv k) ∧
      (t.conv key).open_ = true ∧ (t.conv key).closing = false ∧ (t.conv key).state = img / 2 ^ 40 % 256 ∧ (t.conv key).sends = 0 ∧
      (t.conv key).scope = (if sc = 0#4 then 5 else sc.toNat) ∧
      (t.conv key).owner = s1.me.ctx ∧ (t.conv key).image = img ∧ (t.conv key).gen = (s1.conv key).gen ∧ (t.conv key).eps = [] ∧
      (t.conv key).roles = List.replicate (img / 2 ^ 24 % 256) none ∧
      (∀ u, u ≠ s1.cur → t.unit u = s1.unit u) ∧ t.me = { s1.me with regs := t.me.regs, pc := s1.me.pc + 4 } ∧
      ∀ r, t.g r = if r = d ∧ d ≠ 0#5 then
        BitVec.ofNat 64 (Config.moduleNumber.toNat * 2 ^ 52 + key * 2 ^ 38 + (s1.conv key).gen.toNat * 2 ^ 30) else s1.g r) ∧
  (∀ (s s1 : State) (a b : BitVec 5) (r : BitVec 3) (e : Endpoint) (k : Nat) (c : Conv),
    s.readEndpoint s.meIss (s.g b).toNat (s.g a).toNat r.toNat = (s1, .ok e) → s.live? (s.g a).toNat = some (k, c) → c.closing = false →
    c.owner = s.me.ctx → r.toNat < c.nrole → r.toNat < c.roles.length → c.bound r.toNat = none → s.inScope k c e = true →
    (e.queue = false → s.freeRole e ≠ none) → s.backingShort c.owner 0 = false →
    ∃ t i x, exec (.sCvbind a b r) s = .next t ∧ t = { s1.adv with convs := t.convs, roles := t.roles } ∧
      (∀ j, j ≠ k → t.conv j = s1.conv j) ∧ (t.conv k).bound r.toNat = some (i, x) ∧ x.same e = true ∧
      (∀ q, q ≠ r.toNat → (t.conv k).roles[q]? = c.roles[q]?) ∧
      (e.queue = true → t.roles = s1.roles) ∧
      (∀ n, e.queue = false → s1.freeRole e = some n →
        ∀ j, t.roles.get j 0 = if j = 8 * (256 * e.ctx + 64 * e.die + 8 * e.rby + e.rbx) + n then
            BitVec.ofNat 64 ((Config.moduleNumber.toNat * 2 ^ 52 + k * 2 ^ 38 + c.gen.toNat * 2 ^ 30) / 2 ^ 30 * 2 ^ 30 + r.toNat * 2 ^ 27 +
              2 ^ 26 + e.eport * 2 ^ 21 + e.plane * 2 ^ 19)
          else s1.roles.get j 0))

/-- R117, R120, R124, R177, R178: CVSEND, CVSEND.choose and CVDELEG of a record hand their send or delegation to the engine, with
the payload as read, and the unit waits for the answer. Too long a payload traps CV_LENGTH, and a choice with one CV_CHOICE. -/
def Obligations.SendsGoToTheEngine : Prop :=
  ∀ (s s1 : State) (d a b : BitVec 5) (r : BitVec 3) (k : BitVec 5) (l : List Byte),
    let n := (s.g d).toNat
    let sent (i : Instr) (s1 : State) (kind : Nat) (choose deleg : Bool) (payload : List Byte) : Prop :=
      ∃ t x, exec i s = .next t ∧ t = { s1 with units := t.units, sends := t.sends, fresh := s1.fresh + 1 } ∧
        t.sends = s1.sends.put s1.fresh x ∧ x.iss = s1.meIss ∧ x.handle = s.g a ∧ x.role = r.toNat ∧ x.kind = kind ∧ x.choose = choose ∧
        x.deleg = deleg ∧ x.close = none ∧ x.payload = payload ∧ x.held = false ∧ x.at_ = s1.fc ∧ x.due = s1.due s1.meIss.die ∧ x.ord = s1.fresh ∧ (deleg = true → x.desc = s.g b) ∧
        (∀ u, u ≠ s1.cur → t.unit u = s1.unit u) ∧ t.me = { s1.me with wait := some s1.fresh }
    (n ≤ 256 → (n ≠ 0 → (s.g b).toNat % 8 = 0) → s.readFor s.meIss (s.g b).toNat n = (s1, .ok l) →
      sent (.sCvsend d a b r k) s1 k.toNat false false l) ∧
    (n = 0 → sent (.sCvsendChoose d a b r k) s k.toNat true false []) ∧
    sent (.sCvdeleg a b r) s 0 false true [] ∧
    (256 < n → exec (.sCvsend d a b r k) s = .next (s.trap 0x38 (256 * r.toNat + 65536 * k.toNat) s.me.pc.toNat (s.g a).toNat s.me.pc)) ∧
    (n ≠ 0 → n ≤ 256 →
      exec (.sCvsendChoose d a b r k) s = .next (s.trap 0x37 (256 * r.toNat + 65536 * k.toNat) s.me.pc.toNat (s.g a).toNat s.me.pc))

/-- R117, R125, R179: CVCLOSE takes its place at the engine among the sends of its fc, and the unit waits. There the owner's CVCLOSE
marks the conversation closing, and frees it when nothing is outstanding; a further one leaves it closing. gd tells the state,
whether it is terminal, and whether this CVCLOSE has freed the slot. A stale handle traps CV_CLOSED, another context's CV_BIND.
R122, R161, R164: ARM.conv on a role bound to a queue endpoint that names the record's block counts a delivery that nothing has
counted at once, and else waits for the next. -/
def Obligations.ConversationsCloseAndArm : Prop :=
  (∀ (s : State) (d a : BitVec 5) (q k u : Nat) (c : Conv) (x : Send) (r : BitVec 5),
    (∃ t y, exec (.sCvclose d a) s = .next t ∧ t = { s with units := t.units, sends := t.sends, fresh := s.fresh + 1 } ∧
      t.sends = s.sends.put s.fresh y ∧ y.iss = s.meIss ∧ y.handle = s.g a ∧ y.close = some d ∧ y.deleg = true ∧ y.held = false ∧
      y.at_ = s.fc ∧ y.ord = s.fresh ∧ (∀ v, v ≠ s.cur → t.unit v = s.unit v) ∧ t.me = { s.me with wait := some s.fresh }) ∧
    (s.sends.find q = some x → x.held = false → x.deleg = true → x.close = some r → x.iss.frame = none → x.iss.unit = some u →
      s.sendTurn x = true →
      (let z : State := ({ s with sends := s.sends.del q, cur := u } : State).setUnit u { s.unit u with wait := none }
       (s.live? x.handle.toNat = none → exec (.eDelegationCheck q) s =
          .next { z.trap 0x35 0 (s.unit u).pc.toNat x.handle.toNat (s.unit u).pc with cur := s.cur }) ∧
       (s.live? x.handle.toNat = some (k, c) → c.owner ≠ x.iss.ctx → exec (.eDelegationCheck q) s =
          .next { z.trap 0x33 c.state (s.unit u).pc.toNat x.handle.toNat (s.unit u).pc with cur := s.cur })) ∧
      (s.live? x.handle.toNat = some (k, c) → c.owner = x.iss.ctx →
        ∃ t, exec (.eDelegationCheck q) s = .next t ∧ t.sends = s.sends.del q ∧ (∀ j, j ≠ k → t.conv j = s.conv j) ∧
          t.unit u = { s.unit u with regs := (t.unit u).regs, wait := none, pc := (s.unit u).pc + 4, tpend := (t.unit u).tpend } ∧
          (∀ g, (t.unit u).g g = if g = r ∧ r ≠ 0#5 then BitVec.ofNat 64 (c.state + (if c.image.testBit (64 + c.state) then 64 else 0) +
            (if (t.conv k).open_ then 0 else 128)) else (s.unit u).g g) ∧
          (c.closing = true → t.conv k = c ∧ t = { s with units := t.units, sends := t.sends }) ∧
          (c.closing = false → ((t.conv k).open_ = true ∧ t.conv k = { c with closing := true }) ∨
            ((t.conv k).open_ = false ∧ (t.conv k).gen = c.gen + 1 ∧
              ∀ y ∈ t.roles, y.2.toNat / 2 ^ 30 = x.handle.toNat / 2 ^ 30 → y.2.getLsbD 26 = false)) ∧
          (c.closing = false → (∀ j < c.nrole, s.orphaned c j = false ∨ s.waitingFor k j = []) →
            t = { s with units := t.units, sends := t.sends, convs := t.convs, roles := t.roles } ∧
            (∀ v, v ≠ u → t.unit v = s.unit v) ∧
            ((t.conv k).open_ = false ↔ (s.setConv k { c with closing := true }).convDone k = true))))) ∧
  (∀ (s s1 : State) (rec0 : BitVec 256) (a b : BitVec 5) (r : BitVec 3) (k i : Nat) (c : Conv) (e : Endpoint),
    Validates s (s.g a).toNat s1 rec0 → s1.live? (s.g b).toNat = some (k, c) → c.bound r.toNat = some (i, e) →
    e.queue = true → e.ctx = s1.me.ctx → e.cbix = recCbix rec0 → s1.backingShort c.owner 0 = false →
    (let z : State := { s1 with convs := s1.convs.put k { c with eps := c.eps.set i { e with uncounted := e.uncounted.erase r.toNat } } }
     r.toNat ∈ e.uncounted → Arms s (.sArmConv a b r) z rec0 (s.g a) (.conv k i r.toNat c.gen) True) ∧
    (r.toNat ∉ e.uncounted → Arms s (.sArmConv a b r) s1 rec0 (s.g a) (.conv k i r.toNat c.gen) False))

namespace Sys2Proof.Claim

open Sys2Proof Sys2Proof.Machine

/-! A node's firing: what it computes on, what it consumes, and what it sends. -/

/-- The predicate leaves the lane on, or the node has none (R15, R188). -/
def On (a : Fire) (i : Nat) : Prop := a.n.hasP = true → a.pr.mask.getLsbD i = true ∧ lane a.pr.val i ≠ 0

/-- The lane word whose mask bit decides for lane word i (R187). -/
def deciding (b i : Nat) : Nat := if b = 64 then i / 2 * 2 else i

/-- An element-wise node computes lane word i (R15, R187, R188). -/
def Live (a : Fire) (b i : Nat) : Prop :=
  a.l.mask.getLsbD (deciding b i) = true ∧ a.r.mask.getLsbD (deciding b i) = true ∧ On a (deciding b i)

/-- FIRE.GATE carries L through the lane (R188). -/
def Passes (a : Fire) (i : Nat) : Prop := a.n.gate = true ∧ ¬On a i

/-- The result of computed lane words V: zero and masked off where nothing was computed, L's own where FIRE.GATE carries it. -/
def Blends (a : Fire) (live : Nat → Prop) (V W : Vec) (m : Mask) : Prop :=
  ∀ i < 16, (Passes a i → lane W i = (if a.l.mask.getLsbD i then lane a.l.val i else 0) ∧ m.getLsbD i = a.l.mask.getLsbD i) ∧
    (¬Passes a i → (m.getLsbD i = true ↔ live i) ∧ (live i → lane W i = lane V i) ∧ (¬live i → lane W i = 0))

/-- Lanes that a lane-select code keeps (Table 2.6). -/
def Selects (c i : Nat) : Prop :=
  (4 ≤ c → c ≤ 7 → i / 4 = c - 4) ∧ (c = 8 → i < 8) ∧ (c = 9 → 8 ≤ i) ∧ (c = 10 → i % 2 = 0) ∧ (c = 11 → i % 2 = 1)

/-- The token that a result leaves on a destination word: where it goes, when it lands, its tag and its payload (R13, R26 to
R28, Table 6.9). -/
def TokenOf (s : State) (pk e : Nat) (d : BitVec 32) (frame gen : Nat) (v : Operand) (f : Flight) : Prop :=
  let w := d.toNat
  let ri := w / 2 ^ 16 % 256
  let r := ((s.plane pk).routes.get (256 * (s.plane pk).tileElem pk e + ri) 0#32).toNat
  let dx := (BitVec.ofNat 8 r).toInt; let dy := (BitVec.ofNat 8 (r / 256)).toInt
  f.plane = pk ∧ (∀ i < 16, lane f.pay i = if v.mask.getLsbD i then lane v.val i else 0) ∧ f.par = parityOf f.pay f.tag ∧ f.tag.toNat / 2 ^ 40 = pk % 4 ∧
  tagFrame f.tag = frame % 1024 ∧ tagGen f.tag = gen % 8 ∧ tagNode f.tag = w / 2 ^ 24 % 32 ∧ tagPort f.tag = w / 2 ^ 29 % 4 ∧
  tagKind f.tag = v.kind.toNat ∧
  (∀ i < 16, f.tag.getLsbD i = true ↔ v.mask.getLsbD i = true ∧ Selects (w / 2 ^ 8 % 16) i) ∧
  (ri = 0 → f.elem = e ∧ f.due = s.fc) ∧
  (ri ≠ 0 → 0 ≤ (e : Int) + dx + 64 * dy → 0 < dx.natAbs + dy.natAbs →
    (f.elem : Int) = e + dx + 64 * dy ∧ f.due + 1 = s.fc + dx.natAbs + dy.natAbs)

/-- A destination word that is not used sends nothing; one that is used, and names no edge port, sends one token. -/
def Sends (s : State) (pk e : Nat) (d : BitVec 32) (frame gen : Nat) (v : Operand) (l : List Flight) : Prop :=
  (d.getLsbD 31 = false ∨ d.toNat / 2 ^ 29 % 4 = 3 → l = []) ∧
  (d.getLsbD 31 = true → d.toNat / 2 ^ 29 % 4 ≠ 3 → ∃ f, l = [f] ∧ TokenOf s pk e d frame gen v f)

/-- A result goes to DEST0 and then to DEST1 (R26). -/
def Both (s : State) (pk e : Nat) (n : NodeBody) (frame gen : Nat) (v : Operand) (l : List Flight) : Prop :=
  ∃ l0 l1, l = l0 ++ l1 ∧ Sends s pk e n.dest0 frame gen v l0 ∧ Sends s pk e n.dest1 frame gen v l1

/-- What is sent joins what is on its way, and it is a result on both destinations. -/
def SendsBoth (s t : State) (pk e : Nat) (n : NodeBody) (frame gen : Nat) (v : Operand) : Prop :=
  ∃ l, t.flights = s.flights ++ l ∧ Both s pk e n frame gen v l

/-- The element has fired in this fc, and its round robin has moved past the plane (R23). -/
def HasFired (s t : State) (pk e : Nat) : Prop :=
  t.fired = (4096 * pkDie pk + e) :: s.fired ∧
  ∀ k, t.rr.find k = if k = 4096 * pkDie pk + e then some ((pkPp pk + 1) % 4) else s.rr.find k

/-- Slots that the firing empties: its declared operands that are not sticky (R22). -/
def Consumed (a : Fire) (k : Nat) : Prop :=
  (a.n.hasL = true ∧ a.n.stickyL = false ∧ k = slotKey a.node a.f 0 a.e) ∨
  (a.n.hasR = true ∧ a.n.stickyR = false ∧ k = slotKey a.node a.f 1 a.e) ∨ (a.n.hasP = true ∧ k = slotKey a.node a.f 2 a.e)

/-- The operands have been consumed, and no other slot has changed. -/
def Consumes (a : Fire) (p q : Plane) : Prop :=
  ∀ k, (Consumed a k → q.slots.find k = none) ∧ (¬Consumed a k → q.slots.find k = p.slots.find k)

/-- No plane but the one given has changed. -/
def OtherPlanes (s t : State) (pk : Nat) : Prop := ∀ k, k ≠ pk → t.planes.find k = s.planes.find k

/-- The firing's flags go to its own frame's set, and no other frame has changed (R21). -/
def Flagged (a : Fire) (p q : Plane) (fl : Nat) : Prop :=
  ∀ f, q.frames.find f = if f = a.f then some { a.fr with flags := a.fr.flags ||| BitVec.ofNat 6 fl } else p.frames.find f

/-- The instruction completes as a firing that sends `v`, raises flags, leaves S in the element's stochastic-rounding register,
and leaves changes for the end of the fc. Nothing else changes. -/
def Fires (i : Instr) (s : State) (a : Fire) (v : Operand) (fl : Nat) (S : BitVec 32) (pend : List Pending) : Prop :=
  ∃ t, exec i s = .next t ∧ t = { s with planes := t.planes, fired := t.fired, rr := t.rr, flights := t.flights } ∧
    HasFired s t a.pk a.e ∧ OtherPlanes s t a.pk ∧ SendsBoth s t a.pk a.e a.n a.f a.fr.gen v ∧
    t.plane a.pk = { s.plane a.pk with
      slots := (t.plane a.pk).slots, frames := (t.plane a.pk).frames, lfsr := (t.plane a.pk).lfsr,
      held := (t.plane a.pk).held, pend := (s.plane a.pk).pend ++ pend } ∧
    Consumes a (s.plane a.pk) (t.plane a.pk) ∧ Flagged a (s.plane a.pk) (t.plane a.pk) fl ∧
    (∀ e, (t.plane a.pk).srReg a.pk e = if e = a.e then S else (s.plane a.pk).srReg a.pk e) ∧
    (∀ k, (t.plane a.pk).held.find k = if a.n.qs = true ∧ k = 32 * a.e + a.node then some (v.val, v.mask, v.kind)
      else (s.plane a.pk).held.find k)

/-- The site's node is ready and does not skip (R22, R245). -/
def Ready (s : State) (n : NodeBody) (a : Fire) : Prop := s.ready n = some a ∧ s.skipResult a = none

/-- The signed or unsigned value of an element of an integer FMT. -/
def ival (n : NodeBody) (b x : Nat) : Int := if n.fmt.toNat < 4 then (BitVec.ofNat b x).toInt else (x % 2 ^ b : Nat)

/-- Least and greatest value of an integer FMT. -/
def ilo (n : NodeBody) (b : Nat) : Int := if n.fmt.toNat < 4 then -2 ^ (b - 1) else 0
def ihi (n : NodeBody) (b : Nat) : Int := if n.fmt.toNat < 4 then 2 ^ (b - 1) - 1 else 2 ^ b - 1

/-- An integer node completes with elements of the property given (of the node, the width, L's and R's element, and the
result), and raises OF exactly when an element that it computes is clamped. -/
def IntGives (i : NodeBody → Instr) (value : NodeBody → Nat → Nat → Nat → Nat → Prop)
    (clamps : NodeBody → Nat → Nat → Nat → Prop) : Prop :=
  ∀ (s : State) (n : NodeBody) (a : Fire), n.fmt.toNat < 8 → Ready s n a →
    let b := NodeCheck.width n.fmt.toNat
    ∃ V W m fl, Fires (i n) s a ⟨W, m, 0#4⟩ fl ((s.plane a.pk).srReg a.pk a.e) [] ∧ Blends a (Live a b) V W m ∧
      (∀ j < 512 / b, Live a b (b * j / 32) → value n b (elem a.l.val b j) (elem a.r.val b j) (elem V b j)) ∧
      ((∃ j < 512 / b, Live a b (b * j / 32) ∧ clamps n b (elem a.l.val b j) (elem a.r.val b j)) → fl = 4) ∧
      ((∀ j < 512 / b, Live a b (b * j / 32) → ¬clamps n b (elem a.l.val b j) (elem a.r.val b j)) → fl = 0)

/-- No element is clamped. -/
def never (_ : NodeBody) (_ _ _ : Nat) : Prop := False

/-- The write-back of IMAD and FFMA, at the end of the fc: the lanes computed, into the register named; a lane that P turns off
writes nothing, though it be half of a live element (R188, R192, R237). -/
def WritesBack (a : Fire) (b : Nat) (W : Vec) (pend : List Pending) : Prop :=
  let c := a.n.operand.toNat % 32
  (a.n.operand.getLsbD 5 = false → pend = []) ∧
  (a.n.operand.getLsbD 5 = true → ∃ X, pend = [.wreg (32 * a.e + a.p.phys a.pk a.e c) X] ∧ ∀ i < 16,
    (Live a b i → On a i → lane X i = lane W i) ∧ (¬(Live a b i ∧ On a i) → lane X i = lane (a.p.wreg a.e (a.p.phys a.pk a.e c)) i))

end Sys2Proof.Claim

/-- R22, R187, R188, R192: the integer nodes. Each computes its live elements as the rule's table says, consumes its operands,
sends its result with the mask of R15, and changes nothing else but its frame's flags. -/
def Obligations.IntegerNodesComputeEachElement : Prop :=
  IntGives .nIadd (fun _ b x y z => z = (x + y) % 2 ^ b) never ∧
  IntGives .nIsub (fun _ b x y z => (z + y) % 2 ^ b = x) never ∧
  IntGives .nImul (fun _ b x y z => z = x * y % 2 ^ b) never ∧
  IntGives .nImulh (fun n b x y z => (z : Int) = ival n b x * ival n b y / 2 ^ b % 2 ^ b) never ∧
  IntGives .nIabs (fun n b x _ z => z = (ival n b x).natAbs % 2 ^ b) never ∧
  IntGives .nIneg (fun _ b x _ z => (z + x) % 2 ^ b = 0) never ∧
  IntGives .nImin (fun n b x y z => ival n b z = min (ival n b x) (ival n b y)) never ∧
  IntGives .nImax (fun n b x y z => ival n b z = max (ival n b x) (ival n b y)) never ∧
  IntGives .nAnd (fun _ b x y z => ∀ k < b, z.testBit k = (x.testBit k && y.testBit k)) never ∧
  IntGives .nOr (fun _ b x y z => ∀ k < b, z.testBit k = (x.testBit k || y.testBit k)) never ∧
  IntGives .nXor (fun _ b x y z => ∀ k < b, z.testBit k = (x.testBit k != y.testBit k)) never ∧
  IntGives .nNot (fun _ b x _ z => ∀ k < b, z.testBit k = !x.testBit k) never ∧
  IntGives .nShl (fun _ b x y z => z = x * 2 ^ (y % b) % 2 ^ b) never ∧
  IntGives .nShr (fun _ b x y z => z = x / 2 ^ (y % b)) never ∧
  IntGives .nSar (fun _ b x y z => (BitVec.ofNat b z).toInt = (BitVec.ofNat b x).toInt / 2 ^ (y % b)) never ∧
  IntGives .nRot (fun _ b x y z => ∀ k < b, z.testBit ((k + y) % b) = x.testBit k) never ∧
  IntGives .nPopc (fun _ b x _ z => z = ((List.range b).filter (fun k => x.testBit k)).length % 2 ^ b) never ∧
  IntGives .nClz (fun _ b x _ z => z = if x = 0 then b else b - 1 - Nat.log2 x) never ∧
  IntGives .nBfx (fun n b x _ z => ∀ pos width, n.operand.toNat = pos + 256 * width → pos < b → 1 ≤ width → pos + width ≤ b →
    ∀ k < b, z.testBit k = if k < width then x.testBit (pos + k)
      else decide (n.fmt.toNat < 4) && x.testBit (pos + width - 1)) never ∧
  IntGives .nBfi (fun n b x y z => ∀ pos width, n.operand.toNat = pos + 256 * width → pos < b → 1 ≤ width → pos + width ≤ b →
    ∀ k < b, z.testBit k = if pos ≤ k ∧ k < pos + width then y.testBit (k - pos) else x.testBit k) never ∧
  IntGives .nSadd (fun n b x y z => ival n b z = max (ilo n b) (min (ihi n b) (ival n b x + ival n b y)))
    (fun n b x y => ival n b x + ival n b y < ilo n b ∨ ihi n b < ival n b x + ival n b y) ∧
  IntGives .nSsub (fun n b x y z => ival n b z = max (ilo n b) (min (ihi n b) (ival n b x - ival n b y)))
    (fun n b x y => ival n b x - ival n b y < ilo n b ∨ ihi n b < ival n b x - ival n b y) ∧
  (∀ (s : State) (n : NodeBody) (a : Fire), n.fmt.toNat < 8 → Ready s n a →
    let b := NodeCheck.width n.fmt.toNat
    ∃ V W m pend, Fires (.nImad n) s a ⟨W, m, 0#4⟩ 0 ((s.plane a.pk).srReg a.pk a.e) pend ∧ Blends a (Live a b) V W m ∧
      WritesBack a b W pend ∧
      ∀ j < 512 / b, Live a b (b * j / 32) → elem V b j =
        (elem a.l.val b j * elem a.r.val b j + elem (a.p.wreg a.e (a.p.phys a.pk a.e (n.operand.toNat % 32))) b j) % 2 ^ b)

namespace Sys2Proof.Claim

open Sys2Proof Sys2Proof.Machine

/-! Exact values, one rounding, and the floating-point nodes. -/

/-- The exact value of a finite operand. -/
def q : Num.Val → ℚ
  | .fin neg n d => (if neg then -1 else 1) * (n : ℚ) / d
  | _ => 0

/-- Where a value that is not NaN lies on the line, with the infinities at its ends. -/
def place : Num.Val → WithBot (WithTop ℚ)
  | .inf true => ⊥
  | .inf false => ((⊤ : WithTop ℚ) : WithBot (WithTop ℚ))
  | v => ((q v : WithTop ℚ) : WithBot (WithTop ℚ))

/-- A bit pattern of the type that stands for a finite value. -/
def Finite (t : Num.Fmt) (x : Nat) : Prop := x < 2 ^ t.width ∧ ∃ neg n d, Num.decode t x = .fin neg n d

/-- The exact value of a bit pattern. -/
def qOf (t : Num.Fmt) (x : Nat) : ℚ := q (Num.decode t x)

/-- x is the value of the type to which v rounds in a mode (Table 3.4, R57); S is the register after its step. -/
def RoundedTo (t : Num.Fmt) (mode : Nat) (S : BitVec 32) (v : ℚ) (x : Nat) : Prop :=
  Finite t x ∧
  (mode = 0 → ∀ y, Finite t y → |qOf t x - v| ≤ |qOf t y - v| ∧ (|qOf t x - v| = |qOf t y - v| → qOf t y ≠ qOf t x → x % 2 = 0)) ∧
  (mode = 1 → |qOf t x| ≤ |v| ∧ 0 ≤ qOf t x * v ∧ ∀ y, Finite t y → |qOf t y| ≤ |v| → |qOf t y| ≤ |qOf t x|) ∧
  (mode = 2 → v ≤ qOf t x ∧ ∀ y, Finite t y → v ≤ qOf t y → qOf t x ≤ qOf t y) ∧
  (mode = 3 → qOf t x ≤ v ∧ ∀ y, Finite t y → qOf t y ≤ v → qOf t y ≤ qOf t x) ∧
  (mode = 4 → (∀ y, Finite t y → qOf t y = v → qOf t x = v) ∧
    ∀ lo hi, Finite t lo → Finite t hi → 0 ≤ qOf t lo * v → 0 ≤ qOf t hi * v → |qOf t lo| < |v| → |v| < |qOf t hi| →
      (∀ y, Finite t y → ¬(|qOf t lo| < |qOf t y| ∧ |qOf t y| < |qOf t hi|)) →
      qOf t x = if (S.toNat : ℤ) ≤ ⌊2 ^ 32 * (|v| - |qOf t lo|) / (|qOf t hi| - |qOf t lo|)⌋ then qOf t hi else qOf t lo)

/-- The result and the rounding state that one rounding of a value gives, after raising flags. -/
def Rounds (t : Num.Fmt) (R : Num.Rnd) (f : Nat) (v : Num.Val) (x : Nat) (R' : Num.Rnd) : Prop := (x, R') = Num.round t 0 (R.raise f) v

/-- NV is raised when an operand is a signalling NaN. -/
def nv (a c : Num.Val) : Nat := if a.isSnan || c.isSnan then 1 else 0

/-- The exact sum of two values, with the flag of an invalid one (R193). -/
def SumOf (mode : Nat) (a c v : Num.Val) (f : Nat) : Prop :=
  (a.isNan = true ∨ c.isNan = true → v.isNan = true ∧ f = nv a c) ∧
  (∀ x y, a = .inf x → c = .inf y → (x = y → v = a ∧ f = 0) ∧ (x ≠ y → v.isNan = true ∧ f = 1)) ∧
  (∀ x neg n d, (a = .inf x ∧ c = .fin neg n d) ∨ (c = .inf x ∧ a = .fin neg n d) → v = .inf x ∧ f = 0) ∧
  (∀ x n d y m e, a = .fin x n d → c = .fin y m e → ∃ z k g, v = .fin z k g ∧ 0 < g ∧ f = 0 ∧ q v = q a + q c ∧
    (k = 0 → (z = true ↔ if n = 0 ∧ m = 0 ∧ x = y then x = true else mode = 3)))

/-- The exact product. -/
def ProductOf (a c v : Num.Val) (f : Nat) : Prop :=
  (a.isNan = true ∨ c.isNan = true → v.isNan = true ∧ f = nv a c) ∧
  (∀ x y, a = .inf x → c = .inf y → v = .inf (x != y) ∧ f = 0) ∧
  (∀ x neg n d, (a = .inf x ∧ c = .fin neg n d) ∨ (c = .inf x ∧ a = .fin neg n d) →
    (n = 0 → v.isNan = true ∧ f = 1) ∧ (n ≠ 0 → v = .inf (x != neg) ∧ f = 0)) ∧
  (∀ x n d y m e, a = .fin x n d → c = .fin y m e → ∃ k g, v = .fin (x != y) k g ∧ 0 < g ∧ f = 0 ∧ q v = q a * q c)

/-- The exact quotient; a finite nonzero value by zero is infinite and raises DZ. -/
def QuotientOf (a c v : Num.Val) (f : Nat) : Prop :=
  (a.isNan = true ∨ c.isNan = true → v.isNan = true ∧ f = nv a c) ∧
  (∀ x y, a = .inf x → c = .inf y → v.isNan = true ∧ f = 1) ∧
  (∀ x neg n d, a = .inf x → c = .fin neg n d → v = .inf (x != neg) ∧ f = 0) ∧
  (∀ x neg n d, a = .fin neg n d → c = .inf x → v.neg = (neg != x) ∧ (∃ g, v = .fin (neg != x) 0 g) ∧ f = 0) ∧
  (∀ x n d y m e, a = .fin x n d → c = .fin y m e →
    (m = 0 → n = 0 → v.isNan = true ∧ f = 1) ∧ (m = 0 → n ≠ 0 → v = .inf (x != y) ∧ f = 2) ∧
    (m ≠ 0 → ∃ k g, v = .fin (x != y) k g ∧ 0 < g ∧ f = 0 ∧ q v = q a / q c))

/-- The smaller or the larger of two operands, as its bits, and the flag (R194). -/
def PickOf (t : Num.Fmt) (isMax : Bool) (x y z f : Nat) : Prop :=
  let a := Num.decode t x; let c := Num.decode t y
  f = nv a c ∧
  (a.isNan = true → c.isNan = true → z = Num.canonNaN t) ∧ (a.isNan = true → c.isNan = false → z = y) ∧
  (a.isNan = false → c.isNan = true → z = x) ∧
  (a.isNan = false → c.isNan = false → (z = x ∨ z = y) ∧
    (place a < place c → z = if isMax then y else x) ∧ (place c < place a → z = if isMax then x else y) ∧
    (place a = place c → a.neg = true → c.neg = false → z = if isMax then y else x) ∧
    (place a = place c → a.neg = false → c.neg = true → z = if isMax then x else y))

/-- The two-step result of R195 for a value of sign `neg` whose square is `sq`: truncated to two bits more than the type has, and
then rounded; OF and UF are those of that rounding, and NX says that the result is not the value. -/
def TwoStep (t : Num.Fmt) (R : Num.Rnd) (neg : Bool) (sq : ℚ) (x : Nat) (R' : Num.Rnd) : Prop :=
  ∃ (k N D : Nat) (e : ℤ) (exact : Bool), 2 ^ (t.f + 2) ≤ k ∧ k < 2 ^ (t.f + 3) ∧ 0 < D ∧ (N : ℚ) / D = k * 2 ^ e ∧
    ((k : ℚ) * 2 ^ e) ^ 2 ≤ sq ∧ sq < (((k : ℚ) + 1) * 2 ^ e) ^ 2 ∧ (exact = true ↔ ((k : ℚ) * 2 ^ e) ^ 2 = sq) ∧
    (let r := Num.roundMag t 1 R.step neg N D true; x = r.1 ∧ R' = if exact then r.2 else r.2.raise 16)

/-- The rows of Table 8.2 for one operand: +0, −0, +∞, −∞ and finite below zero, each as a result and its flag, with NaN. -/
def Special (t : Num.Fmt) (R : Num.Rnd) (a : Num.Val) (pz nz pi ni : Nat × Nat) (belowZero : Option (Nat × Nat)) (x : Nat) (R' : Num.Rnd) :
    Prop :=
  (∀ sn, a = .nan sn → x = Num.canonNaN t ∧ R' = R.step.raise (if sn then 1 else 0)) ∧
  (∀ d, a = .fin false 0 d → (x, R') = (pz.1, R.step.raise pz.2)) ∧ (∀ d, a = .fin true 0 d → (x, R') = (nz.1, R.step.raise nz.2)) ∧
  (a = .inf false → (x, R') = (pi.1, R.step.raise pi.2)) ∧ (a = .inf true → (x, R') = (ni.1, R.step.raise ni.2)) ∧
  (∀ r, belowZero = some r → ∀ n d, a = .fin true (n + 1) d → (x, R') = (r.1, R.step.raise r.2))

/-- +∞, −∞ and the canonical NaN as bits. -/
def infOf (t : Num.Fmt) (neg : Bool) : Nat := Num.withSign t neg ((2 ^ t.e - 1) * 2 ^ t.f)

/-- A floating-point node completes; each live element and the rounding state after it have the property given, in ascending
order. -/
def FloatGives (i : NodeBody → Instr) (top : Nat)
    (op : NodeBody → Num.Fmt → Nat → Nat → Nat → Num.Rnd → Nat → Num.Rnd → Prop) : Prop :=
  ∀ (s : State) (n : NodeBody) (a : Fire), 8 ≤ n.fmt.toNat → n.fmt.toNat ≤ top → Ready s n a →
    let b := NodeCheck.width n.fmt.toNat
    let w := a.p.wreg a.e (a.p.phys a.pk a.e (n.operand.toNat % 32))
    ∃ (V W : Vec) (m : Mask) (R : Nat → Num.Rnd) (pend : List Pending),
      R 0 = ⟨n.mod.toNat % 8, (s.plane a.pk).srReg a.pk a.e, 0⟩ ∧
      Fires (i n) s a ⟨W, m, 0#4⟩ (R (512 / b)).fl (R (512 / b)).s pend ∧ Blends a (Live a b) V W m ∧
      (i n = .nFfma n → WritesBack a b W pend) ∧ (i n ≠ .nFfma n → pend = []) ∧
      ∀ j < 512 / b, (Live a b (b * j / 32) → op n (Num.fmtOf n.fmt.toNat) (elem a.l.val b j) (elem a.r.val b j) (elem w b j) (R j)
          (elem V b j) (R (j + 1))) ∧ (¬Live a b (b * j / 32) → R (j + 1) = R j)

end Sys2Proof.Claim

/-- R51, R55, R57, R58, R60: one rounding of a finite nonzero value to f16, bf16, f32 or f64. In range it gives the neighbour that
the mode names, with NX exactly when it is inexact; far beyond the range it overflows as IEEE 754-2019 says, or, as a conversion by
default, to the largest finite value. -/
def Obligations.RoundingIsCorrect : Prop :=
  ∀ (k sat : Nat) (R : Num.Rnd) (neg : Bool) (n d : Nat), 8 ≤ k → k ≤ 11 → R.mode ≤ 4 → 0 < n → 0 < d → sat < 2 →
    let t := Num.fmtOf k; let v := q (.fin neg n d); let r := Num.round t sat R (.fin neg n d)
    (|v| ≤ qOf t (Num.maxFinite t) → RoundedTo t R.mode r.2.s v r.1 ∧ r.1.testBit (t.e + t.f) = neg ∧
      (qOf t r.1 = v → r.2 = R.step) ∧ (qOf t r.1 ≠ v → r.2 = R.step.raise 16 ∨ r.2 = R.step.raise 24) ∧
      (2 ^ (1 - (t.bias : ℤ)) ≤ |v| → qOf t r.1 ≠ v → r.2 = R.step.raise 16)) ∧
    ((2 : ℚ) ^ (t.bias + 1) ≤ |v| → r.2 = R.step.raise 20 ∧
      r.1 = if sat = 1 ∨ R.mode = 1 ∨ (R.mode = 2 ∧ neg = true) ∨ (R.mode = 3 ∧ neg = false)
        then Num.withSign t neg (Num.maxFinite t) else infOf t neg)

/-- R51, R57, R193 to R195, Table 8.2: the floating-point nodes. Each live element is computed exactly and rounded once, in
ascending order; the reciprocals are truncated first; special operands give what the tables say. For FEXP2 and FLOG2 the results
that are exact are stated. -/
def Obligations.FloatNodesRoundOnce : Prop :=
  FloatGives .nFadd 11 (fun _ t x y _ R z R' => ∃ v f, SumOf R.mode (Num.decode t x) (Num.decode t y) v f ∧ Rounds t R f v z R') ∧
  FloatGives .nFsub 11 (fun _ t x y _ R z R' => ∃ v f, SumOf R.mode (Num.decode t x) (Num.decode t y).negate v f ∧ Rounds t R f v z R') ∧
  FloatGives .nFmul 11 (fun _ t x y _ R z R' => ∃ v f, ProductOf (Num.decode t x) (Num.decode t y) v f ∧ Rounds t R f v z R') ∧
  FloatGives .nFdiv 11 (fun _ t x y _ R z R' => ∃ v f, QuotientOf (Num.decode t x) (Num.decode t y) v f ∧ Rounds t R f v z R') ∧
  FloatGives .nFfma 11 (fun _ t x y w R z R' => ∃ p f v g, ProductOf (Num.decode t x) (Num.decode t y) p f ∧
    SumOf R.mode p (Num.decode t w) v g ∧ Rounds t R (f ||| g) v z R') ∧
  FloatGives .nFmin 11 (fun _ t x y _ R z R' => ∃ f, PickOf t false x y z f ∧ R' = R.raise f) ∧
  FloatGives .nFmax 11 (fun _ t x y _ R z R' => ∃ f, PickOf t true x y z f ∧ R' = R.raise f) ∧
  FloatGives .nFsgn 11 (fun _ t x y _ R z R' => R' = R.raise (nv (Num.decode t x) (Num.decode t y)) ∧
    ((Num.decode t x).isNan = true → z = Num.canonNaN t) ∧
    ((Num.decode t x).isNan = false → z % 2 ^ (t.e + t.f) = x % 2 ^ (t.e + t.f) ∧ z.testBit (t.e + t.f) = y.testBit (t.e + t.f))) ∧
  FloatGives .nFsqrt 11 (fun _ t x _ _ R z R' => let a := Num.decode t x
    (∀ sn, a = .nan sn → z = Num.canonNaN t ∧ R' = R.step.raise (if sn then 1 else 0)) ∧
    (a = .inf false → z = x ∧ R' = R.step) ∧ (a = .inf true → z = Num.canonNaN t ∧ R' = R.step.raise 1) ∧
    (∀ neg d, a = .fin neg 0 d → z = x ∧ R' = R.step) ∧ (∀ n d, a = .fin true (n + 1) d → z = Num.canonNaN t ∧ R' = R.step.raise 1) ∧
    (∀ n d, a = .fin false (n + 1) d → ∃ (N D : Nat) (exact : Bool), 0 < D ∧ (z, R') = Num.roundMag t 0 R.step false N D exact ∧
      (exact = true → ((N : ℚ) / D) ^ 2 = q a) ∧ (exact = false → |((N : ℚ) / D) ^ 2 - q a| * 2 ^ 130 ≤ q a))) ∧
  FloatGives .nFrcp 11 (fun _ t x _ _ R z R' => let a := Num.decode t x
    Special t R a (infOf t false, 2) (infOf t true, 2) (0, 0) (2 ^ (t.e + t.f), 0) none z R' ∧
    ∀ neg n d, a = .fin neg (n + 1) d → TwoStep t R neg (1 / (q a) ^ 2) z R') ∧
  FloatGives .nFrsq 11 (fun _ t x _ _ R z R' => let a := Num.decode t x
    Special t R a (infOf t false, 2) (infOf t true, 2) (0, 0) (Num.canonNaN t, 1) (some (Num.canonNaN t, 1)) z R' ∧
    ∀ n d, a = .fin false (n + 1) d → TwoStep t R false (1 / q a) z R') ∧
  FloatGives .nFexp2 10 (fun _ t x _ _ R z R' => let a := Num.decode t x
    let one := t.bias * 2 ^ t.f
    Special t R a (one, 0) (one, 0) (infOf t false, 0) (0, 0) none z R' ∧
    ∀ neg n d, ∀ k : ℤ, a = .fin neg (n + 1) d → q a = k → 1 - (t.bias : ℤ) ≤ k → k ≤ t.bias →
      (z : ℤ) = (k + t.bias) * 2 ^ t.f ∧ R' = R.step) ∧
  FloatGives .nFlog2 10 (fun _ t x _ _ R z R' => let a := Num.decode t x
    Special t R a (infOf t true, 2) (infOf t true, 2) (infOf t false, 0) (Num.canonNaN t, 1) (some (Num.canonNaN t, 1)) z R' ∧
    ∀ n d, ∀ k : ℤ, a = .fin false (n + 1) d → q a = 2 ^ k → qOf t z = k ∧ R' = R.step)

namespace Sys2Proof.Claim

open Sys2Proof Sys2Proof.Machine

/-! Comparison, selection, predicates, lane movement, conversion and tables. -/

/-- A condition of Table 6.10 on two elements (R196). -/
def Holds (n : NodeBody) (b cc x y : Nat) : Prop :=
  if n.fmt.toNat < 8 then
    (cc = 0 ∧ x = y) ∨ (cc = 1 ∧ x ≠ y) ∨ (cc = 2 ∧ ival n b x < ival n b y) ∨ (cc = 3 ∧ ival n b x ≤ ival n b y) ∨
    (cc = 4 ∧ ival n b y < ival n b x) ∨ (cc = 5 ∧ ival n b y ≤ ival n b x)
  else
    let a := Num.decode (Num.fmtOf n.fmt.toNat) x; let c := Num.decode (Num.fmtOf n.fmt.toNat) y
    if a.isNan = true ∨ c.isNan = true then cc = 1 ∨ cc = 7
    else (cc = 0 ∧ place a = place c) ∨ (cc = 1 ∧ place a ≠ place c) ∨ (cc = 2 ∧ place a < place c) ∨ (cc = 3 ∧ place a ≤ place c) ∨
      (cc = 4 ∧ place c < place a) ∨ (cc = 5 ∧ place c ≤ place a) ∨ cc = 6

/-- The comparison of two elements raises NV (R196). -/
def Invalid (n : NodeBody) (cc x y : Nat) : Prop :=
  let a := Num.decode (Num.fmtOf n.fmt.toNat) x; let c := Num.decode (Num.fmtOf n.fmt.toNat) y
  8 ≤ n.fmt.toNat ∧ (a.isSnan = true ∨ c.isSnan = true ∨ ((a.isNan = true ∨ c.isNan = true) ∧ 2 ≤ cc ∧ cc ≤ 5))

/-- A node that raises no flag and takes no rounding step completes with a result of the property given. -/
def FiresWith (i : NodeBody → Instr) (n : NodeBody) (kind : BitVec 4) (result : State → Fire → Vec → Mask → Prop) : Prop :=
  ∀ (s : State) (a : Fire), Ready s n a →
    ∃ W m, Fires (i n) s a ⟨W, m, kind⟩ 0 ((s.plane a.pk).srReg a.pk a.e) [] ∧ result s a W m

/-- Both of L's and R's mask bits are set; a lane word that is off is zero. -/
def Masked (m : Mask) (W : Vec) (live : Nat → Prop) : Prop := ∀ i < 16, (m.getLsbD i = true ↔ live i) ∧ (¬live i → lane W i = 0)

/-- The lane word that holds element j of a 32-bit or 64-bit FMT, first of its words. -/
def wordOf (b j : Nat) : Nat := if b = 64 then 2 * j else j

/-- Element j of L is present as a source (R189, R202). -/
def Source (a : Fire) (b j : Nat) : Prop := a.l.mask.getLsbD (wordOf b j) = true ∧ On a (wordOf b j)

/-- The result of moving elements: element e comes from element `src e`, and is live when that source, the scalar operand it needs
and its own lane are (R189, R202). -/
def Moves (src : NodeBody → Fire → Nat → Nat) (extra : NodeBody → Fire → Nat → Prop) (_ : State) (a : Fire) (W : Vec) (m : Mask) : Prop :=
  let b := NodeCheck.width a.n.fmt.toNat
  let live (e : Nat) : Prop := Source a b (src a.n a e) ∧ extra a.n a e ∧ On a (wordOf b e)
  ∃ V, Blends a (fun i => live (i * 32 / b)) V W m ∧ ∀ e < 512 / b, live e → elem V b e = elem a.l.val b (src a.n a e)

/-- One ⊕ of LRED and LSCAN (R203). -/
def Combines (n : NodeBody) (x y : Nat) (R : Num.Rnd) (z : Nat) (R' : Num.Rnd) : Prop :=
  let b := NodeCheck.width n.fmt.toNat; let t := Num.fmtOf n.fmt.toNat; let op := n.operand.toNat % 4
  if n.fmt.toNat < 8 then R' = R ∧ (op = 0 → z = (x + y) % 2 ^ b) ∧ (op = 1 → ival n b z = min (ival n b x) (ival n b y)) ∧
    (op = 2 → ival n b z = max (ival n b x) (ival n b y))
  else (op = 0 → ∃ v f, SumOf R.mode (Num.decode t x) (Num.decode t y) v f ∧ Rounds t R f v z R') ∧
    (op = 1 ∨ op = 2 → ∃ f, PickOf t (op == 2) x y z f ∧ R' = R.raise f)

/-- One level of the tree of R62: w pairs, in ascending order. -/
def Level (n : NodeBody) (w : Nat) (f g : Nat → Option Nat) (R R' : Num.Rnd) : Prop :=
  ∃ T : Nat → Num.Rnd, T 0 = R ∧ T w = R' ∧ ∀ i < w,
    (∀ x y, f (2 * i) = some x → f (2 * i + 1) = some y → ∃ z, g i = some z ∧ Combines n x y (T i) z (T (i + 1))) ∧
    (f (2 * i) = none ∨ f (2 * i + 1) = none → g i = (f (2 * i)).or (f (2 * i + 1)) ∧ T (i + 1) = T i)

/-- The integer to which a value rounds in a mode (R59). -/
def RoundedInt (mode : Nat) (S : BitVec 32) (v : ℚ) (k : ℤ) : Prop :=
  (mode = 0 → |(k : ℚ) - v| ≤ 1 / 2 ∧ (|(k : ℚ) - v| = 1 / 2 → k % 2 = 0)) ∧ (mode = 1 → |(k : ℚ)| ≤ |v| ∧ |v| < |(k : ℚ)| + 1 ∧ 0 ≤ k * v) ∧
  (mode = 2 → k = ⌈v⌉) ∧ (mode = 3 → k = ⌊v⌋) ∧
  (mode = 4 → 0 ≤ k * v ∧ |(k : ℚ)| = if (⌊|v|⌋ : ℚ) = |v| then |v|
    else if (S.toNat : ℤ) ≤ ⌊2 ^ 32 * (|v| - ⌊|v|⌋)⌋ then ⌊|v|⌋ + 1 else ⌊|v|⌋)

/-- The value and the flag of an element of any FMT (Tables 3.2 and 3.3, R199). -/
def ValueOf (fmt x : Nat) (v : Num.Val) (f : Nat) : Prop :=
  let b := NodeCheck.width fmt
  (fmt < 8 → (∃ neg n d, v = .fin neg n d ∧ 0 < d ∧ (n = 0 → neg = false)) ∧ f = 0 ∧
    q v = if fmt < 4 then ((BitVec.ofNat b x).toInt : ℚ) else (x % 2 ^ b : Nat)) ∧
  (8 ≤ fmt → fmt < 15 → v = Num.decode (Num.fmtOf fmt) (x % 2 ^ b) ∧ f = 0) ∧
  (fmt = 15 → (∃ neg n d, v = .fin neg n d ∧ 0 < d) ∧ (q v = if x % 4 = 1 then 1 else if x % 4 = 3 then -1 else 0) ∧
    f = if x % 4 = 2 then 32 else 0)

/-- Bounds of an integer FMT code. -/
def loOf (fmt : Nat) : ℤ := if fmt < 4 then -2 ^ (NodeCheck.width fmt - 1) else 0
def hiOf (fmt : Nat) : ℤ := if fmt < 4 then 2 ^ (NodeCheck.width fmt - 1) - 1 else 2 ^ NodeCheck.width fmt - 1

/-- One conversion (R58, R59, R199): source element x, result z, and the rounding state before and after. -/
def Converts (dst src : Nat) (ovf : Bool) (x : Nat) (R : Num.Rnd) (z : Nat) (R' : Num.Rnd) : Prop :=
  ∃ v f, ValueOf src x v f ∧
  (dst < 8 → src < 8 → ∃ k : ℤ, (k : ℚ) = q v ∧
    (ovf = false → (z : ℤ) = k % 2 ^ NodeCheck.width dst ∧ R' = R.raise f) ∧
    (ovf = true → (z : ℤ) = max (loOf dst) (min (hiOf dst) k) % 2 ^ NodeCheck.width dst ∧
      R' = (R.raise f).raise (if k < loOf dst ∨ hiOf dst < k then 4 else 0))) ∧
  (dst < 8 → 8 ≤ src →
    (v.isNan = true → z = 0 ∧ R' = (R.raise f).step.raise 1) ∧
    (∀ neg, v = .inf neg → (z : ℤ) = (if neg then loOf dst else hiOf dst) % 2 ^ NodeCheck.width dst ∧ R' = (R.raise f).step.raise 1) ∧
    (∀ neg n d, v = .fin neg n d → ∃ k, RoundedInt R.mode R'.s (q v) k ∧
      (z : ℤ) = max (loOf dst) (min (hiOf dst) k) % 2 ^ NodeCheck.width dst ∧
      R' = (R.raise f).step.raise (if k < loOf dst ∨ hiOf dst < k then 1 else if (k : ℚ) = q v then 0 else 16))) ∧
  (dst = 15 →
    (v.isNan = true → z = 0 ∧ R' = (R.raise f).step.raise 1) ∧
    (∀ neg, v = .inf neg → z = (if neg then 3 else 1) ∧ R' = (R.raise f).step) ∧
    (∀ neg n d, v = .fin neg n d → ∃ k, RoundedInt R.mode R'.s (q v) k ∧ z = (if k < 0 then 3 else if k = 0 then 0 else 1) ∧
      R' = (R.raise f).step.raise (if k < -1 ∨ 1 < k then 20 else if (k : ℚ) = q v then 0 else 16))) ∧
  (8 ≤ dst → dst < 15 → let t := Num.fmtOf dst; let R1 := (R.raise f).raise (if v.isSnan then 1 else 0)
    (dst = src → z = (if v.isNan then Num.canonNaN t else x % 2 ^ NodeCheck.width dst) ∧ R' = R1.step) ∧
    (dst ≠ src → (z, R') = Num.round t (if ovf then 2 else 1) R1 v))

/-- The result that holds converted elements: e of them, unpacked (R187, R199). -/
def Places (a : Fire) (fmt e : Nat) (z : Nat → Nat) (W : Vec) (m : Mask) : Prop :=
  let b := NodeCheck.width fmt
  let word (j : Nat) : Nat := if e = 8 then 2 * j else j
  let live (j : Nat) : Prop := a.l.mask.getLsbD (word j) = true ∧ On a (word j)
  ∃ V, Blends a (fun i => if b = 64 ∨ e = 16 then live (if b = 64 then i / 2 else i) else i % 2 = 0 ∧ live (i / 2)) V W m ∧
    ∀ j < e, live j → (b = 64 → elem V 64 j = z j) ∧ (b = 32 → lane V (word j) = z j) ∧
      (b < 32 → lane V (word j) % 2 ^ b = z j ∧ (lane V (word j) : ℤ) = (if fmt < 4 then (BitVec.ofNat b (z j)).toInt else z j) % 2 ^ 32)

/-- A node of e elements in unpacked form completes; the elements and the rounding state have the property given, in ascending
order. -/
def Unpacks (i : NodeBody → Instr) (ok : NodeBody → Prop) (count : NodeBody → Nat)
    (op : State → Fire → Nat → Num.Rnd → Nat → Num.Rnd → Prop) : Prop :=
  ∀ (s : State) (n : NodeBody) (a : Fire), ok n → Ready s n a →
    ∃ (W : Vec) (m : Mask) (z : Nat → Nat) (R : Nat → Num.Rnd),
      R 0 = ⟨n.mod.toNat % 8, (s.plane a.pk).srReg a.pk a.e, 0⟩ ∧
      Fires (i n) s a ⟨W, m, 0#4⟩ (R (count n)).fl (R (count n)).s [] ∧ Places a n.fmt.toNat (count n) z W m ∧
      ∀ j < count n, let w := if count n = 8 then 2 * j else j
        (a.l.mask.getLsbD w = true → On a w → op s a j (R j) (z j) (R (j + 1))) ∧
        (¬(a.l.mask.getLsbD w = true ∧ On a w) → R (j + 1) = R j)

/-- Entry i of a node's table in element data, little-endian (R201). -/
def entryAt (s : State) (a : Fire) (i : Nat) : Nat :=
  let w := NodeCheck.width a.n.fmt.toNat / 8
  leNat ((List.range w).map (fun k => Memory.read s.edata (edAddr a.pk a.e (a.n.operand.toNat % 65536 + i * w + k))))

/-- The value of an interpolated table between two entries at u = un/ud, with its flags (R201). -/
def Between (x y : Num.Val) (u : ℚ) (v : Num.Val) (f : Nat) : Prop :=
  (x.isNan = true ∨ y.isNan = true → v.isNan = true ∧ f = nv x y) ∧
  (x.isNan = false → y.isNan = false → (u = 0 → v = x ∧ f = 0) ∧ (u ≠ 0 →
    (∀ p q', x = .inf p → y = .inf q' → (p = q' → v.isNan = true ∧ f = 1) ∧ (p ≠ q' → v.isNan = true ∧ f = 1)) ∧
    (∀ p neg n d, x = .inf p → y = .fin neg n d → v.isNan = true ∧ f = 1) ∧
    (∀ p neg n d, y = .inf p → x = .fin neg n d → v = .inf p ∧ f = 0) ∧
    (∀ p n d r m e, x = .fin p n d → y = .fin r m e → ∃ z k g, v = .fin z k g ∧ 0 < g ∧ f = 0 ∧ q v = q x + u * (q y - q x))))

end Sys2Proof.Claim

/-- R187 to R189, R196 to R198: CMP writes all ones or zeros to each live element and sends a PRED token; SEL chooses by the bits
of P; MAND, MOR and MNOT act bit by bit, and ANY and ALL over the live lanes. -/
def Obligations.ComparisonAndPredicateNodes : Prop :=
  (∀ (s : State) (n : NodeBody) (a : Fire), n.fmt.toNat < 12 → (n.fmt.toNat < 8 → n.mod.toNat < 6) → n.mod.toNat < 8 → Ready s n a →
    let b := NodeCheck.width n.fmt.toNat; let cc := n.mod.toNat
    ∃ V W m fl, Fires (.nCmp n) s a ⟨W, m, 1#4⟩ fl ((s.plane a.pk).srReg a.pk a.e) [] ∧ Blends a (Live a b) V W m ∧
      (∀ j < 512 / b, Live a b (b * j / 32) → (Holds n b cc (elem a.l.val b j) (elem a.r.val b j) → elem V b j = 2 ^ b - 1) ∧
        (¬Holds n b cc (elem a.l.val b j) (elem a.r.val b j) → elem V b j = 0)) ∧
      ((∃ j < 512 / b, Live a b (b * j / 32) ∧ Invalid n cc (elem a.l.val b j) (elem a.r.val b j)) → fl = 1) ∧
      ((∀ j < 512 / b, Live a b (b * j / 32) → ¬Invalid n cc (elem a.l.val b j) (elem a.r.val b j)) → fl = 0)) ∧
  (∀ n, FiresWith .nSel n 0#4 (fun _ a W m =>
    let b := NodeCheck.width n.fmt.toNat
    let live (i : Nat) : Prop := a.l.mask.getLsbD (deciding b i) = true ∧ a.r.mask.getLsbD (deciding b i) = true ∧
      a.pr.mask.getLsbD (deciding b i) = true
    Masked m W live ∧ ∀ j < 512 / b, live (b * j / 32) →
      elem W b j = if elem a.pr.val b j ≠ 0 then elem a.l.val b j else elem a.r.val b j)) ∧
  (∀ n, FiresWith .nMand n 1#4 (fun _ a W m => Masked m W (fun i => a.l.mask.getLsbD i = true ∧ a.r.mask.getLsbD i = true) ∧
    ∀ i < 16, m.getLsbD i = true → ∀ k < 32, (lane W i).testBit k = ((lane a.l.val i).testBit k && (lane a.r.val i).testBit k))) ∧
  (∀ n, FiresWith .nMor n 1#4 (fun _ a W m => Masked m W (fun i => a.l.mask.getLsbD i = true ∧ a.r.mask.getLsbD i = true) ∧
    ∀ i < 16, m.getLsbD i = true → ∀ k < 32, (lane W i).testBit k = ((lane a.l.val i).testBit k || (lane a.r.val i).testBit k))) ∧
  (∀ n, n.hasR = false → n.hasImm = false → FiresWith .nMnot n 1#4 (fun _ a W m => Masked m W (fun i => a.l.mask.getLsbD i = true) ∧
    ∀ i < 16, m.getLsbD i = true → ∀ k < 32, (lane W i).testBit k = !(lane a.l.val i).testBit k)) ∧
  (∀ n, FiresWith .nAny n 1#4 (fun _ a W m => m = 0xFFFF#16 ∧ ∀ i < 16,
    ((∃ j < 16, a.l.mask.getLsbD j = true ∧ lane a.l.val j ≠ 0) → lane W i = 2 ^ 32 - 1) ∧
    ((∀ j < 16, a.l.mask.getLsbD j = true → lane a.l.val j = 0) → lane W i = 0))) ∧
  (∀ n, FiresWith .nAll n 1#4 (fun _ a W m => m = 0xFFFF#16 ∧ ∀ i < 16,
    ((∀ j < 16, a.l.mask.getLsbD j = true → lane a.l.val j ≠ 0) → lane W i = 2 ^ 32 - 1) ∧
    ((∃ j < 16, a.l.mask.getLsbD j = true ∧ lane a.l.val j = 0) → lane W i = 0)))

/-- R62, R63, R189, R200, R202, R203: lane movement, reduction and scan, and packing. -/
def Obligations.LanesMoveReduceAndPack : Prop :=
  (∀ n, NodeCheck.width n.fmt.toNat = 32 ∨ NodeCheck.width n.fmt.toNat = 64 →
    let b := NodeCheck.width n.fmt.toNat; let m := 512 / b
    FiresWith .nLperm n 0#4 (Moves (fun _ a i => elem a.r.val b i % m)
      (fun _ a i => a.r.mask.getLsbD (wordOf b i) = true ∧ On a (wordOf b i))) ∧
    FiresWith .nLbcast n 0#4 (Moves (fun n _ _ => n.operand.toNat % m) (fun _ _ _ => True)) ∧
    FiresWith .nLrot n 0#4 (Moves (fun n a i => (i + m - (if n.hasImm then n.operand.toNat else elem a.r.val b 0) % m) % m)
      (fun n a _ => n.hasImm = true ∨ (a.r.mask.getLsbD 0 = true ∧ On a 0)))) ∧
  (∀ (s : State) (n : NodeBody) (a : Fire), NodeCheck.width n.fmt.toNat = 32 ∨ NodeCheck.width n.fmt.toNat = 64 →
    n.fmt.toNat < 12 → n.operand.toNat % 4 ≠ 3 → Ready s n a →
    let b := NodeCheck.width n.fmt.toNat; let m := 512 / b; let top := if b = 64 then 3 else 4
    (∃ (W : Vec) (k : Mask) (G : Nat → Nat → Option Nat) (R : Nat → Num.Rnd), R 0 = ⟨n.mod.toNat % 8, (s.plane a.pk).srReg a.pk a.e, 0⟩ ∧
      Fires (.nLred n) s a ⟨W, k, 0#4⟩ (R top).fl (R top).s [] ∧
      (∀ e < m, (Source a b e → G 0 e = some (elem a.l.val b e)) ∧ (¬Source a b e → G 0 e = none)) ∧
      (∀ l < top, Level n (m / 2 ^ (l + 1)) (G l) (G (l + 1)) (R l) (R (l + 1))) ∧
      (∀ z, G top 0 = some z → elem W b 0 = z ∧ (∀ e < m, e ≠ 0 → elem W b e = 0) ∧ k = if b = 64 then 3#16 else 1#16) ∧
      (G top 0 = none → W = 0#512 ∧ k = 0#16)) ∧
    (∃ (V W : Vec) (k : Mask) (R : Nat → Num.Rnd), R 0 = ⟨n.mod.toNat % 8, (s.plane a.pk).srReg a.pk a.e, 0⟩ ∧
      Fires (.nLscan n) s a ⟨W, k, 0#4⟩ (R m).fl (R m).s [] ∧
      Blends a (fun i => Source a b (i * 32 / b)) V W k ∧
      ∀ e < m, (¬Source a b e → R (e + 1) = R e) ∧
        (Source a b e → (∀ p < e, ¬Source a b p) → elem V b e = elem a.l.val b e ∧ R (e + 1) = R e) ∧
        (Source a b e → ∀ p < e, Source a b p → (∀ r, p < r → r < e → ¬Source a b r) →
          Combines n (elem V b p) (elem a.l.val b e) (R e) (elem V b e) (R (e + 1))))) ∧
  (∀ n, NodeCheck.width n.fmt.toNat < 32 → let b := NodeCheck.width n.fmt.toNat; let k := n.operand.toNat % 16
    k < 32 / b →
    FiresWith .nPack n 0#4 (fun _ a W m => ∀ w < 16, let own : Prop := 16 * k ≤ w * (32 / b) ∧ w * (32 / b) < 16 * (k + 1)
      (own → (m.getLsbD w = true ↔ ∀ t < 32 / b, a.r.mask.getLsbD (w * (32 / b) + t - 16 * k) = true) ∧
        ∀ t < 32 / b, m.getLsbD w = true → elem W b (w * (32 / b) + t) = lane a.r.val (w * (32 / b) + t - 16 * k) % 2 ^ b) ∧
      (¬own → (m.getLsbD w = true ↔ n.hasL = true ∧ a.l.mask.getLsbD w = true) ∧
        (m.getLsbD w = true → lane W w = lane a.l.val w)) ∧
      (m.getLsbD w = false → lane W w = 0)) ∧
    FiresWith .nUnpack n 0#4 (fun _ a W m => Masked m W (fun i => a.l.mask.getLsbD ((16 * k + i) / (32 / b)) = true) ∧
      ∀ i < 16, m.getLsbD i = true → lane W i % 2 ^ b = elem a.l.val b (16 * k + i) ∧
        (lane W i : ℤ) = (if n.fmt.toNat < 4 then (BitVec.ofNat b (elem a.l.val b (16 * k + i))).toInt
          else elem a.l.val b (16 * k + i)) % 2 ^ 32))

/-- R58, R59, R187, R199, R201: CVT converts each element in unpacked form; LUT reads its table directly or interpolates. -/
def Obligations.ConversionsAndTables : Prop :=
  Unpacks .nCvt (fun _ => True)
    (fun n => if NodeCheck.width (n.operand.toNat % 16) = 64 ∨ NodeCheck.width n.fmt.toNat = 64 then 8 else 16)
    (fun _ a j R z R' =>
      let sb := NodeCheck.width (a.n.operand.toNat % 16)
      let wide : Prop := sb = 64 ∨ NodeCheck.width a.n.fmt.toNat = 64
      (sb = 64 → Converts a.n.fmt.toNat (a.n.operand.toNat % 16) (a.n.mod.getLsbD 3) (elem a.l.val 64 j) R z R') ∧
      (sb ≠ 64 → wide → Converts a.n.fmt.toNat (a.n.operand.toNat % 16) (a.n.mod.getLsbD 3) (lane a.l.val (2 * j) % 2 ^ sb) R z R') ∧
      (¬wide → Converts a.n.fmt.toNat (a.n.operand.toNat % 16) (a.n.mod.getLsbD 3) (lane a.l.val j % 2 ^ sb) R z R')) ∧
  Unpacks .nLut (fun n => n.fmt.toNat < 12 ∧ (n.operand.getLsbD 20 = true → 8 ≤ n.fmt.toNat ∧ 1 ≤ n.operand.toNat / 65536 % 16))
    (fun n => if NodeCheck.width n.fmt.toNat = 64 then 8 else 16)
    (fun s a j R z R' =>
      let b := NodeCheck.width a.n.fmt.toNat; let t := Num.fmtOf a.n.fmt.toNat; let N := 2 ^ (a.n.operand.toNat / 65536 % 16)
      let x := lane a.l.val (wordOf b j); let R1 := if N ≤ x then R.raise 1 else R; let e := entryAt s a (if N ≤ x then N - 1 else x)
      (a.n.operand.getLsbD 20 = false →
        (a.n.fmt.toNat < 8 → z = e ∧ R' = R1) ∧
        (8 ≤ a.n.fmt.toNat → z = (if (Num.decode t e).isNan then Num.canonNaN t else e) ∧
          R' = if (Num.decode t e).isSnan then R1.raise 1 else R1)) ∧
      (a.n.operand.getLsbD 20 = true →
        let wide := Num.fmtOf (if b = 64 then 11 else 10)
        let p := Num.decode wide (if b = 64 then elem a.l.val 64 j else lane a.l.val j)
        (p.isNan = true → z = Num.canonNaN t ∧ R' = if b = 16 then (R.raise 1).step.step else (R.raise 1).step) ∧
        (p.isNan = false → ∃ (pos : ℚ) (v : Num.Val) (f x : Nat) (R2 : Num.Rnd),
          (∀ neg, p = .inf neg → pos = if neg then 0 else (N - 1 : ℚ)) ∧
          (∀ neg n d, p = .fin neg n d → pos = max 0 (min (q p) (N - 1))) ∧
          (let i := min ⌊pos⌋₊ (N - 2)
           Between (Num.decode t (entryAt s a i)) (Num.decode t (entryAt s a (i + 1))) (pos - i) v f) ∧
          Rounds wide R f v x R2 ∧ (b ≠ 16 → z = x ∧ R' = R2) ∧ (b = 16 → (z, R') = Num.round t 0 R2 (Num.decode wide x)))))

namespace Sys2Proof.Claim

open Sys2Proof Sys2Proof.Machine

/-! Nodes that route tokens, and nodes that begin, end and call frames. -/

/-- The firing consumes its operands and sends tokens. Nothing else changes. -/
def PassesOn (i : Instr) (s : State) (a : Fire) (sent : List Flight → Prop) : Prop :=
  ∃ t l, exec i s = .next t ∧ t = { s with planes := t.planes, fired := t.fired, rr := t.rr, flights := s.flights ++ l } ∧
    HasFired s t a.pk a.e ∧ OtherPlanes s t a.pk ∧ t.plane a.pk = { s.plane a.pk with slots := (t.plane a.pk).slots } ∧
    Consumes a (s.plane a.pk) (t.plane a.pk) ∧ sent l

/-- T is v with only the lanes given. -/
def Only (v : Operand) (keep : Nat → Prop) (T : Operand) : Prop :=
  T.kind = v.kind ∧ ∀ i < 16, (T.mask.getLsbD i = true ↔ v.mask.getLsbD i = true ∧ keep i) ∧
    (v.mask.getLsbD i = true → keep i → lane T.val i = lane v.val i) ∧ (¬(v.mask.getLsbD i = true ∧ keep i) → lane T.val i = 0)

/-- Some lane of a token is live. -/
def Some' (v : Operand) : Prop := ∃ i < 16, v.mask.getLsbD i = true

/-- A selector's lane is true, or false (R15, R204). -/
def True' (p : Operand) (i : Nat) : Prop := p.mask.getLsbD i = true ∧ lane p.val i ≠ 0
def False' (p : Operand) (i : Nat) : Prop := p.mask.getLsbD i = true ∧ lane p.val i = 0

/-- The vector that an immediate stands for (R142): each element of FMT. -/
def Immediate (n : NodeBody) (j x : Nat) (v : Vec) : Prop :=
  elem v (NodeCheck.width n.fmt.toNat) j = x ∧
  (NodeCheck.width n.fmt.toNat < 64 → x = n.operand.toNat % 2 ^ NodeCheck.width n.fmt.toNat) ∧
  (n.fmt.toNat = 11 → x = n.operand.toNat * 2 ^ 32) ∧ (n.fmt.toNat = 3 → (x : ℤ) = n.operand.toInt % 2 ^ 64) ∧
  (n.fmt.toNat = 7 → x = n.operand.toNat)

/-- The copy of a firing's element. -/
def copyOf (a : Fire) : Nat := a.p.copyOf a.pk a.e

/-- What the frame's agent in the firing's copy hands on with a token to another frame: its horizon, with its own release (R85, R104). -/
def handed (a : Fire) : Horizon :=
  mergeHorizon (a.fr.agent (copyOf a)).1 (some [(2 ^ 32 + 8 * a.f + a.fr.gen, (a.fr.agent (copyOf a)).2 + 1)])

/-- The frames of every plane after a frame's part has ended in a copy. `takes` gives the new horizon of a frame's agent in a copy
(R85, R104). -/
def EndsPart (s t : State) (a : Fire) (takes : Nat → Nat → Frame → Nat → Horizon → Horizon) : Prop :=
  ∀ k f, ((s.plane k).frames.find f = none → (t.plane k).frames.find f = none) ∧
    ∀ fr, (s.plane k).frames.find f = some fr → ∃ x, (t.plane k).frames.find f = some x ∧
      x = { fr with
        agents := x.agents, ended := if k = a.pk ∧ f = a.f ∧ copyOf a ∉ a.fr.ended then fr.ended ++ [copyOf a] else fr.ended } ∧
      ∀ cp, x.agent cp = (takes k f fr cp (fr.agent cp).1, (fr.agent cp).2)

/-- A colour's caller acquires, in the copy of the element that called, when the colour returns (R104, R210). -/
def callerTakes (s : State) (a : Fire) (returns : Bool) (k f : Nat) (fr : Frame) (cp : Nat) (h : Horizon) : Horizon :=
  match a.fr.caller with
  | some c => if returns = true ∧ c.plane = k ∧ c.frame = f ∧ c.gen = fr.gen ∧ cp = (s.plane k).copyOf k c.elem then mergeHorizon h (handed a) else h
  | none => h

/-- The RTRN token that goes to a caller with a value (R210): local delivery at the caller's element, with the lanes that
the call's DEST1 selects. -/
def ReturnTo (s : State) (c : Caller) (v : Operand) (f : Flight) : Prop :=
  f.plane = c.plane ∧ f.elem = c.elem ∧ f.due = s.fc ∧ (∀ i < 16, lane f.pay i = if v.mask.getLsbD i then lane v.val i else 0) ∧ f.par = parityOf f.pay f.tag ∧ f.tag.toNat / 2 ^ 40 = c.plane % 4 ∧
  tagFrame f.tag = c.frame % 1024 ∧ tagGen f.tag = c.gen % 8 ∧ tagNode f.tag = c.node % 32 ∧ tagPort f.tag = c.port % 4 ∧
  tagKind f.tag = 9 ∧ ∀ i < 16, f.tag.getLsbD i = true ↔ v.mask.getLsbD i = true ∧ Selects c.sel i

/-- A node that ends its frame's part in the copy, returning `v` to a caller or not. Nothing else changes. -/
def EndsFrame (i : Instr) (s : State) (a : Fire) (returns : Bool) (v : Operand) : Prop :=
  ∃ t, exec i s = .next t ∧ t = { s with planes := t.planes, fired := t.fired, rr := t.rr, flights := t.flights } ∧
    HasFired s t a.pk a.e ∧ EndsPart s t a (callerTakes s a returns) ∧
    (a.fr.caller = none ∨ returns = false → t.flights = s.flights) ∧
    (∀ c, a.fr.caller = some c → returns = true → ∃ f, t.flights = s.flights ++ [f] ∧ ReturnTo s c v f) ∧
    (∀ k, k ≠ a.pk → t.plane k = { s.plane k with frames := (t.plane k).frames }) ∧
    t.plane a.pk = { s.plane a.pk with
      frames := (t.plane a.pk).frames, slots := (t.plane a.pk).slots, bars := (t.plane a.pk).bars } ∧
    (t.plane a.pk).bars = (if copyOf a ∈ a.fr.ended then (s.plane a.pk).bars
      else (s.plane a.pk).bars.map ((t.plane a.pk).barExit s.fc)) ∧
    Consumes a (s.plane a.pk) (t.plane a.pk)

/-- A frame that a draw begins (R17, R33, R36). -/
def Drawn (s : State) (pk f itix : Nat) (src : FrameSource) (h : Horizon) (c : Option Caller) (fr : Frame) : Prop :=
  fr = { gen := (s.plane pk).gens.get f 0, itix := itix, order := s.fresh + 1, src := src, flags := 0#6, ended := [], succ := none,
         caller := c, horizon := h, agents := [], parked := false, lost := false, withdrawn := [], resume := [] }

/-- A draw that finds no identifier: the node has not fired, and its element fires nothing else in this fc (R209). -/
def Waits (i : Instr) (s : State) (a : Fire) : Prop := exec i s = .next { s with fired := (4096 * pkDie a.pk + a.e) :: s.fired }

end Sys2Proof.Claim

/-- R26, R142, R204 to R206: STEER, GATE, MERGE, COPY, CONST and SINK. A lane goes where its predicate says, a destination that
gets no live lane gets no token, and MERGE neither waits for nor consumes a port that P does not call for. -/
def Obligations.RoutingNodesSendTheirLanes : Prop :=
  (∀ (s : State) (n : NodeBody) (a : Fire), s.ready n = some a →
    PassesOn (.nSteer n) s a (fun l => ∃ T F l0 l1, l = l0 ++ l1 ∧ Only a.l (True' a.pr) T ∧ Only a.l (False' a.pr) F ∧
      (Some' T → Sends s a.pk a.e n.dest0 a.f a.fr.gen T l0) ∧ (¬Some' T → l0 = []) ∧
      (Some' F → Sends s a.pk a.e n.dest1 a.f a.fr.gen F l1) ∧ (¬Some' F → l1 = [])) ∧
    PassesOn (.nGate n) s a (fun l => ∃ T, Only a.l (True' a.pr) T ∧ (Some' T → Both s a.pk a.e n a.f a.fr.gen T l) ∧ (¬Some' T → l = [])) ∧
    PassesOn (.nCopy n) s a (Both s a.pk a.e n a.f a.fr.gen a.l) ∧
    PassesOn (.nConst n) s a (fun l => ∃ V T, (∀ j < 512 / NodeCheck.width n.fmt.toNat, ∃ x, Immediate n j x V) ∧
      Only ⟨V, a.l.mask, 0#4⟩ (fun _ => True) T ∧ Both s a.pk a.e n a.f a.fr.gen T l) ∧
    PassesOn (.nSink n) s a (fun l => l = [])) ∧
  (∀ (s : State) (n : NodeBody) (fr : Frame) (l r q : Operand), n.inp = 0b1110#4 → n.fire = 0#4 → s.mayFire = some fr →
    let t := s.site; let p := s.plane t.plane; let key (port : Nat) : Nat := slotKey t.node t.frame port t.elem
    let needL : Prop := ∃ i < 16, True' q i; let needR : Prop := ∃ i < 16, False' q i
    p.slots.find (key 2) = some q → (needL → p.slots.find (key 0) = some l) → (needR → p.slots.find (key 1) = some r) →
    ∃ u sent W m kind, exec (.nMerge n) s = .next u ∧
      u = { s with planes := u.planes, fired := u.fired, rr := u.rr, flights := s.flights ++ sent } ∧
      HasFired s u t.plane t.elem ∧ OtherPlanes s u t.plane ∧ u.plane t.plane = { p with slots := (u.plane t.plane).slots } ∧
      (∀ k, (k = key 2 ∨ (k = key 0 ∧ needL) ∨ (k = key 1 ∧ needR) → (u.plane t.plane).slots.find k = none) ∧
        (¬(k = key 2 ∨ (k = key 0 ∧ needL) ∨ (k = key 1 ∧ needR)) → (u.plane t.plane).slots.find k = p.slots.find k)) ∧
      (needL → kind = l.kind) ∧ (¬needL → needR → kind = r.kind) ∧ Both s t.plane t.elem n t.frame fr.gen ⟨W, m, kind⟩ sent ∧
      ∀ i < 16, (True' q i → m.getLsbD i = l.mask.getLsbD i ∧ lane W i = if l.mask.getLsbD i then lane l.val i else 0) ∧
        (False' q i → m.getLsbD i = r.mask.getLsbD i ∧ lane W i = if r.mask.getLsbD i then lane r.val i else 0) ∧
        (q.mask.getLsbD i = false → m.getLsbD i = false ∧ lane W i = 0))

/-- R32, R33, R36, R104, R207 to R210, R281: ENTRY gives a frame its index; EXIT, DRAWEND and RETURN end its part in a copy, and
answer a colour's caller; LOOP and SPAWN draw a frame and send into it, or wait for an identifier. -/
def Obligations.FramesBeginLoopCallAndEnd : Prop :=
  (∀ (s : State) (n : NodeBody) (fr : Frame) (o : Operand) (it : IterSt), s.mayFire = some fr →
    let t := s.site; let p := s.plane t.plane; let key := slotKey t.node t.frame 0 t.elem; let sel := n.operand.toNat % 8
    let b := NodeCheck.width n.fmt.toNat
    p.slots.find key = some o → o.kind = 2#4 → p.iter = some it →
    ∃ u l W x, exec (.nEntry n) s = .next u ∧ u = { s with planes := u.planes, fired := u.fired, rr := u.rr, flights := s.flights ++ l } ∧
      HasFired s u t.plane t.elem ∧ OtherPlanes s u t.plane ∧ u.plane t.plane = { p with slots := (u.plane t.plane).slots } ∧
      (∀ k, (u.plane t.plane).slots.find k = if k = key then none else p.slots.find k) ∧
      Both s t.plane t.elem n t.frame fr.gen ⟨W, 0xFFFF#16, 0#4⟩ l ∧ (∀ j < 512 / b, elem W b j = x % 2 ^ b) ∧
      (sel = 0 → x = fr.itix) ∧ (sel = 1 → x = fr.itix % it.n0) ∧ (sel = 2 → x = fr.itix / it.n0 % it.n1) ∧
      (sel = 4 → x = fr.itix / (it.n0 * it.n1)) ∧ (sel = 5 → x = (t.elem % 64 - 8 * (t.plane / 4 % 8)) / p.tw) ∧
      (sel = 6 → x = (t.elem / 64 - 8 * (t.plane / 32 % 8)) / p.th)) ∧
  (∀ (s : State) (n : NodeBody) (a : Fire), s.ready n = some a →
    EndsFrame (.nExit n) s a true ⟨0#512, 0#16, 0#4⟩ ∧ EndsFrame (.nDrawend n) s a true ⟨0#512, 0#16, 0#4⟩ ∧
    EndsFrame (.nReturn n) s a true a.l) ∧
  (∀ (s : State) (n : NodeBody) (a : Fire), s.ready n = some a →
    (∀ f g, a.fr.succ = some (f, g) → ∃ t, exec (.nLoop n) s = .next t ∧
      t = { s with planes := t.planes, fired := t.fired, rr := t.rr, flights := t.flights } ∧
      HasFired s t a.pk a.e ∧ OtherPlanes s t a.pk ∧ SendsBoth s t a.pk a.e n f g a.l ∧
      EndsPart s t a (fun k x fr cp h => if k = a.pk ∧ x = f ∧ fr.gen = g ∧ cp = copyOf a then handed a else h) ∧
      t.plane a.pk = { s.plane a.pk with slots := (t.plane a.pk).slots, frames := (t.plane a.pk).frames, bars := (t.plane a.pk).bars } ∧
      Consumes a (s.plane a.pk) (t.plane a.pk)) ∧
    (a.fr.succ = none → s.freeIds a.pk = [] → Waits (.nLoop n) s a) ∧
    (∀ f rest, a.fr.succ = none → s.freeIds a.pk = f :: rest → let g := (s.plane a.pk).gens.get f 0
      ∃ t fr, exec (.nLoop n) s = .next t ∧
      t = { s with planes := t.planes, fired := t.fired, rr := t.rr, flights := t.flights, fresh := s.fresh + 1 } ∧
      HasFired s t a.pk a.e ∧ OtherPlanes s t a.pk ∧ SendsBoth s t a.pk a.e n f g a.l ∧
      t.plane a.pk = { s.plane a.pk with
        slots := (t.plane a.pk).slots, frames := (t.plane a.pk).frames, bars := (t.plane a.pk).bars
        free := (s.plane a.pk).free.erase f } ∧
      Consumes a (s.plane a.pk) (t.plane a.pk) ∧
      Drawn s a.pk f a.fr.itix .loop (handed a) none fr ∧
      ∀ k, (t.plane a.pk).frames.find k = if k = a.f then some { a.fr with
          succ := some (f, g), ended := if copyOf a ∈ a.fr.ended then a.fr.ended else a.fr.ended ++ [copyOf a] }
        else if k = f then some fr else (s.plane a.pk).frames.find k)) ∧
  (∀ (s : State) (n : NodeBody) (a : Fire), s.ready n = some a →
    let bd := ((s.plane a.pk).binds.get (n.dest0.toNat / 2 ^ 24 % 32) 0#128).toNat
    let byte (i : Nat) : Nat := bd / 2 ^ (8 * i) % 256
    let die := byte 1 % 4; let ox := byte 2 % 8; let oy := byte 3 % 8; let vp := byte 4 % 4
    (s.regionGranted (s.plane a.pk).ctx die ox oy vp = false → ∃ r, exec (.nSpawn n) s = .next { s with
        fired := (4096 * pkDie a.pk + a.e) :: s.fired, rr := s.rr.put (4096 * pkDie a.pk + a.e) ((pkPp a.pk + 1) % 4)
        parking := s.parking ++ [⟨a.pk, a.f, a.fr.gen, 0, r⟩] } ∧ r.cause = 0x25 ∧ r.node = a.node ∧ r.frame = a.f) ∧
    (s.regionGranted (s.plane a.pk).ctx die ox oy vp = true → s.findPlane (s.plane a.pk).ctx die ox oy vp = none →
      exec (.nSpawn n) s = .next s) ∧
    (∀ ck, s.regionGranted (s.plane a.pk).ctx die ox oy vp = true → s.findPlane (s.plane a.pk).ctx die ox oy vp = some ck →
      ((s.plane ck).state ≠ .active ∨ (s.plane ck).frozen = true → exec (.nSpawn n) s = .next s) ∧
      ((s.plane ck).state = .active → (s.plane ck).frozen = false → s.freeIds ck = [] → Waits (.nSpawn n) s a) ∧
      (∀ f rest, (s.plane ck).state = .active → (s.plane ck).frozen = false → s.freeIds ck = f :: rest → ∃ t fr l, exec (.nSpawn n) s = .next t ∧
        t = { s with planes := t.planes, fired := t.fired, rr := t.rr, flights := s.flights ++ l, fresh := s.fresh + 1 } ∧
        HasFired s t a.pk a.e ∧ (∀ k, k ≠ a.pk → k ≠ ck → t.planes.find k = s.planes.find k) ∧
        (∀ k, t.plane k = { s.plane k with
          slots := (t.plane k).slots, frames := (t.plane k).frames
          free := if k = ck then (s.plane k).free.erase f else (s.plane k).free }) ∧
        (∀ k, k ≠ a.pk → (t.plane k).slots = (s.plane k).slots) ∧ Consumes a (s.plane a.pk) (t.plane a.pk) ∧
        (∀ k g, (t.plane k).frames.find g = if k = ck ∧ g = f then some fr else (s.plane k).frames.find g) ∧
        Drawn s ck f 0 .spawn (handed a)
          (some ⟨a.pk, a.e, n.dest1.toNat / 2 ^ 24 % 32, n.dest1.toNat / 2 ^ 29 % 4, n.dest1.toNat / 2 ^ 8 % 16, a.f, a.fr.gen⟩) fr ∧
        l.length = (if n.hasR then 2 else 1) ∧ ∀ i (h : i < l.length), l[i].plane = ck ∧ l[i].due = s.fc ∧
          l[i].elem = elemAt ck (byte 5) (byte 6) ∧ tagNode l[i].tag = byte 7 % 32 ∧ tagPort l[i].tag = i ∧ tagKind l[i].tag = 8 ∧
          tagFrame l[i].tag = f % 1024 ∧ tagGen l[i].tag = fr.gen % 8 ∧
          let v := if i = 0 then a.l else a.r
          ∀ j < 16, lane l[i].pay j = (if v.mask.getLsbD j then lane v.val j else 0) ∧
            (l[i].tag.getLsbD j = true ↔ v.mask.getLsbD j = true ∧ Selects (n.dest0.toNat / 2 ^ 8 % 16) j))))

/-- R211, R228, R234, R235: TSEND queues its vector for the region's thread; BAR records the copy's arrival as a release of the frame's
agent there; FLAGS gives
the frame's flags or the region's, and may clear the frame's; TRAPN parks its frame with USER_TRAP and keeps L for its resumption. -/
def Obligations.QueuesBarriersFlagsAndTraps : Prop :=
  ∀ (s : State) (n : NodeBody) (a : Fire), s.ready n = some a →
    (¬Some' a.l → PassesOn (.nTsend n) s a (Both s a.pk a.e n a.f a.fr.gen { a.l with kind := 0#4 })) ∧
    (Some' a.l → ∃ t T, exec (.nTsend n) s = .next t ∧
      t = { s with planes := t.planes, fired := t.fired, rr := t.rr, flights := t.flights } ∧ HasFired s t a.pk a.e ∧ OtherPlanes s t a.pk ∧
      Only a.l (fun _ => True) T ∧ SendsBoth s t a.pk a.e n a.f a.fr.gen { a.l with kind := 0#4 } ∧
      t.plane a.pk = { s.plane a.pk with slots := (t.plane a.pk).slots, tokq := (s.plane a.pk).tokq ++ [(T.val, T.mask)] } ∧
      Consumes a (s.plane a.pk) (t.plane a.pk)) ∧
    (∃ t, exec (.nBar n) s = .next t ∧ t = { s with planes := t.planes, fired := t.fired, rr := t.rr } ∧
      HasFired s t a.pk a.e ∧ OtherPlanes s t a.pk ∧
      t.plane a.pk = { s.plane a.pk with slots := (t.plane a.pk).slots, frames := (t.plane a.pk).frames, bars := (t.plane a.pk).bars } ∧
      Consumes a (s.plane a.pk) (t.plane a.pk) ∧
      (∃ x, (∀ f, (t.plane a.pk).frames.find f = if f = a.f then some x else (s.plane a.pk).frames.find f) ∧
        x = { a.fr with agents := x.agents } ∧
        ∀ cp, x.agent cp = ((a.fr.agent cp).1, if cp = copyOf a then ((a.fr.agent cp).2 + 1) % 2 ^ 32 else (a.fr.agent cp).2)) ∧
      (∃ b ∈ (t.plane a.pk).bars, b.node = a.node ∧ b.frame = a.f ∧ (copyOf a, a.e, a.l) ∈ b.arrived) ∧
      (∀ b ∈ (t.plane a.pk).bars, b.node ≠ a.node ∨ b.frame ≠ a.f → ∃ c ∈ (s.plane a.pk).bars, b = { c with exit := b.exit })) ∧
    (let own := n.operand.getLsbD 0 = false; let fl := if n.operand.getLsbD 0 then (s.plane a.pk).flags0 else a.fr.flags
     ∃ t, exec (.nFlags n) s = .next t ∧ t = { s with planes := t.planes, fired := t.fired, rr := t.rr, flights := t.flights } ∧
      HasFired s t a.pk a.e ∧ OtherPlanes s t a.pk ∧
      t.plane a.pk = { s.plane a.pk with slots := (t.plane a.pk).slots, frames := (t.plane a.pk).frames } ∧
      Consumes a (s.plane a.pk) (t.plane a.pk) ∧
      (∀ f, (t.plane a.pk).frames.find f = if f = a.f ∧ own ∧ n.operand.getLsbD 1 = true then some { a.fr with flags := 0#6 }
        else (s.plane a.pk).frames.find f) ∧
      ∃ W, SendsBoth s t a.pk a.e n a.f a.fr.gen ⟨W, 0xFFFF#16, 0#4⟩ ∧ ∀ i < 16, lane W i = fl.toNat) ∧
    (n.hasP = true → (∀ i < 16, ¬True' a.pr i) → PassesOn (.nTrapn n) s a (Both s a.pk a.e n a.f a.fr.gen { a.l with kind := 0#4 })) ∧
    (n.hasP = false ∨ (∃ i < 16, True' a.pr i) → ∃ t r, exec (.nTrapn n) s = .next t ∧
      t = { s with planes := t.planes, fired := t.fired, rr := t.rr, parking := s.parking ++ [⟨a.pk, a.f, a.fr.gen, 0, r⟩] } ∧
      HasFired s t a.pk a.e ∧ OtherPlanes s t a.pk ∧ r.cause = 0x43 ∧ r.info = n.operand.toNat % 65536 ∧
      r.aux = a.l.val.toNat % 2 ^ 64 ∧ r.node = a.node ∧ r.frame = a.f ∧ r.gen = a.fr.gen ∧ r.itix = a.fr.itix ∧
      t.plane a.pk = { s.plane a.pk with slots := (t.plane a.pk).slots, frames := (t.plane a.pk).frames } ∧
      Consumes a (s.plane a.pk) (t.plane a.pk) ∧
      ∀ f, (t.plane a.pk).frames.find f = if f = a.f then some { a.fr with resume := a.fr.resume ++ [(a.e, a.node, a.l.val, a.l.mask)] }
        else (s.plane a.pk).frames.find f)

namespace Sys2Proof.Claim

open Sys2Proof Sys2Proof.Machine

/-! Plane nodes and the quantise path. -/

/-- The firing consumes its operands, raises flags, leaves changes for the end of the fc, and sends. Nothing else changes. -/
def Does (i : Instr) (s : State) (a : Fire) (fl : Nat) (pend : List Pending) (sent : List Flight → Prop) : Prop :=
  ∃ t l, exec i s = .next t ∧ t = { s with planes := t.planes, fired := t.fired, rr := t.rr, flights := s.flights ++ l } ∧
    HasFired s t a.pk a.e ∧ OtherPlanes s t a.pk ∧
    t.plane a.pk = { s.plane a.pk with
      slots := (t.plane a.pk).slots, frames := (t.plane a.pk).frames, pend := (s.plane a.pk).pend ++ pend } ∧
    Consumes a (s.plane a.pk) (t.plane a.pk) ∧ Flagged a (s.plane a.pk) (t.plane a.pk) fl ∧ sent l

/-- L as a DATA token, on both destinations. -/
def ForwardsL (s : State) (a : Fire) : List Flight → Prop := Both s a.pk a.e a.n a.f a.fr.gen { a.l with kind := 0#4 }

/-- The plane register that field [103:99] names, as it stands (R237). -/
def namedReg (a : Fire) (n : Nat) : Nat := a.p.phys a.pk a.e n

/-- The source of a site under a shift (R239): its coordinates, and the fc after which its lane is present (R240). -/
def SourceOf (mode W H : Nat) (d : ℤ × ℤ) (sx sy : Nat) (gx gy wait : Nat) : Prop :=
  let ux : ℤ := sx - d.1; let uy : ℤ := sy - d.2
  let inX : Prop := 0 ≤ ux ∧ ux < 4 * W; let inY : Prop := 0 ≤ uy ∧ uy < 4 * H
  let m (u S : ℤ) : ℤ := if u < 0 then -1 - u else if S ≤ u then 2 * S - 1 - u else u
  (inX ∧ inY ∧ (gx : ℤ) = ux ∧ (gy : ℤ) = uy ∧ wait = 1) ∨
  (¬(inX ∧ inY) ∧ mode = 0 ∧ (gx : ℤ) = ux % (4 * W) ∧ (gy : ℤ) = uy % (4 * H) ∧
    (inY → wait = 1 + (W + 7) / 8) ∧ (inX → wait = 1 + (H + 7) / 8) ∧ (¬inX → ¬inY → wait = 1 + (max W H + 7) / 8)) ∨
  (¬(inX ∧ inY) ∧ mode = 2 ∧ (gx : ℤ) = m ux (4 * W) ∧ (gy : ℤ) = m uy (4 * H) ∧ wait = 1)

/-- The direction of a code of R143. -/
def towards (c : Nat) : ℤ × ℤ :=
  (if c = 1 ∨ c = 2 ∨ c = 3 then 1 else if c = 5 ∨ c = 6 ∨ c = 7 then -1 else 0,
    if c = 0 ∨ c = 1 ∨ c = 7 then -1 else if c = 3 ∨ c = 4 ∨ c = 5 then 1 else 0)

/-- The element of the lattice at (fx, fy) needs a fill in some lane (R239, R241). -/
def NeedsFill (mode W H : Nat) (d : ℤ × ℤ) (fx fy : Nat) : Prop :=
  ∃ i < 16, ∀ gx gy wait, ¬SourceOf mode W H d (4 * fx + i % 4) (4 * fy + i / 4) gx gy wait

/-- One site of RULE (R244): the index of its entry, and whether it raises NV. -/
def SiteOf (c k q S e : Nat) (nv : Prop) : Prop :=
  let k' := if 8 < k then 8 else k; let q' := if S ≤ q then S - 1 else q; let x := (9 * c + k') * S + q'
  e = (if 63 < x then 63 else x) ∧ (nv ↔ 8 < k ∨ S ≤ q ∨ 63 < x)

/-- A lane of a path token: masked-off lanes enter as +0.0 (R257). -/
def entering (o : Operand) (i : Nat) : Nat := if o.mask.getLsbD i then lane o.val i else 0

/-- Length in tokens of a block of 2^k elements (R257). -/
def blockLen (k : Nat) : Nat := if k < 4 then 1 else 2 ^ (k - 4)

/-- A path node's firing for its frame: it advances the node's place in the stream, raises flags, keeps a value, and sends. Nothing
else changes but the slots given. -/
def Streams (i : Instr) (s : State) (a : Fire) (cur : BitVec 64) (fl : Nat) (S : BitVec 32) (slots : Map Operand → Prop)
    (sent : List Flight → Prop) : Prop :=
  ∃ t l, exec i s = .next t ∧ t = { s with planes := t.planes, fired := t.fired, rr := t.rr, flights := s.flights ++ l } ∧
    HasFired s t a.pk a.e ∧ OtherPlanes s t a.pk ∧
    t.plane a.pk = { s.plane a.pk with
      slots := (t.plane a.pk).slots, frames := (t.plane a.pk).frames, quant := (t.plane a.pk).quant, lfsr := (t.plane a.pk).lfsr } ∧
    (∀ k, (t.plane a.pk).quant.find k = if k = 32 * a.e + a.node then
        some { (s.plane a.pk).quant.get k ⟨0, 0#64, 0#512, 0⟩ with next := a.fr.itix + 1, cur := cur }
      else (s.plane a.pk).quant.find k) ∧
    (∀ e, (t.plane a.pk).srReg a.pk e = if e = a.e then S else (s.plane a.pk).srReg a.pk e) ∧
    Flagged a (s.plane a.pk) (t.plane a.pk) fl ∧ slots (t.plane a.pk).slots ∧ sent l

/-- The state that a path node keeps, and its turn: it fires for its frame's index next (R257). -/
def pathState (s : State) (a : Fire) : QuantSt := (s.plane a.pk).quant.get (32 * a.e + a.node) ⟨0, 0#64, 0#512, 0⟩
def InTurn (s : State) (a : Fire) : Prop := (pathState s a).next = a.fr.itix

/-- A pair of BFLY (R72): both results rounded to f32 with RNE, and the flags. -/
def PairOf (x c u v fl : Nat) : Prop :=
  let t := Num.fmtOf 10
  ∃ a f R b g R', SumOf 0 (Num.decode t x) (Num.decode t c) a f ∧ Rounds t ⟨0, 0#32, 0⟩ f a u R ∧
    SumOf 0 (Num.decode t x) (Num.decode t c).negate b g ∧ Rounds t ⟨0, 0#32, 0⟩ g b v R' ∧ fl = R.fl ||| R'.fl

/-- A value times a positive number, kept exactly. -/
def TimesOf (v : Num.Val) (c : ℚ) (w : Num.Val) : Prop :=
  (v.isNan = true → w = v) ∧ (∀ n, v = .inf n → w = v) ∧ (∀ neg n d, v = .fin neg n d → ∃ m e, w = .fin neg m e ∧ 0 < e ∧ q w = q v * c)

/-- c_s of R72. -/
def norm (st : Nat) : ℚ := if st % 2 = 0 then 1 / 2 ^ (st / 2) else 0xB504F3 / 2 ^ 24 / 2 ^ ((st - 1) / 2)

/-- The scale that QNT forms from amax under an identifier's format (R73), with the flags. -/
def ScaleOf (fmt st amax code fl : Nat) : Prop :=
  let f32 := Num.fmtOf 10; let emax : ℤ := if fmt = 14 then 2 else if fmt = 12 then 8 else if fmt = 13 then 15 else 0
  ∃ ay f0, (if st = 0 then ay = amax ∧ f0 = 0 else ∃ w R, TimesOf (Num.decode f32 amax) (norm st) w ∧ Rounds f32 ⟨0, 0#32, 0⟩ 0 w ay R ∧ f0 = R.fl) ∧
    (fmt = 15 → ∃ R, (code, R) = Num.round (Num.fmtOf 8) 1 ⟨0, 0#32, f0⟩ (Num.decode f32 ay) ∧ fl = R.fl) ∧
    (fmt ≠ 15 →
      (∀ neg d, Num.decode f32 ay = .fin neg 0 d → code = 0 ∧ fl = f0) ∧
      (∀ neg n d, Num.decode f32 ay = .fin neg (n + 1) d → fl = f0 ∧ ∃ e : ℤ, (2 : ℚ) ^ e ≤ |qOf f32 ay| ∧ |qOf f32 ay| < 2 ^ (e + 1) ∧
        (code : ℤ) = max (-127) (min 127 (e - emax)) + 127) ∧
      ((∀ neg n d, Num.decode f32 ay ≠ .fin neg n d) → code = 255 ∧ fl = f0 ||| 1))

/-- One element of QNT (R50, R74): its code, and the rounding state; a signalling NaN raises NV. -/
def QuantOf (fmt st code x : Nat) (R0 : Num.Rnd) (z : Nat) (R' : Num.Rnd) : Prop :=
  let v := Num.decode (Num.fmtOf 10) x
  let R := R0.raise (if v.isSnan then 1 else 0)
  (fmt = 15 → R' = R ∧ (v.isNan = true ∨ code % 2 ^ 15 = 0 → z = 0) ∧
    ∀ neg n d, v = .fin neg n d → code % 2 ^ 15 ≠ 0 → (∃ s m e, Num.decode (Num.fmtOf 8) code = .fin s m e) →
    let y := q v * norm st; let half := qOf (Num.fmtOf 8) code / 2
    z = if half < y then 1 else if y < -half then 3 else 0) ∧
  (fmt ≠ 15 → code = 255 → z = 0 ∧ R' = R.step) ∧
  (fmt ≠ 15 → code < 255 → ∃ y, TimesOf v (norm st * 2 ^ (127 - (code : ℤ))) y ∧
    (fmt = 16 → ∀ neg n d, y = .fin neg n d → ∃ k, RoundedInt R.mode R'.s (64 * q y) k ∧ (z : ℤ) = max (-127) (min 127 k) % 256 ∧
      R' = R.step.raise (if k < -127 ∨ 127 < k then 20 else if (k : ℚ) = 64 * q y then 0 else 16)) ∧
    (fmt < 15 → (z, R') = Num.round (Num.fmtOf fmt) 1 R y))

/-- The value of a scale under an identifier's SCFMT (R52, R53). -/
def ScaleVal (sc x : Nat) (v : Num.Val) : Prop :=
  (sc = 0 → v = .fin false 1 1) ∧
  (sc = 1 → x % 256 = 255 → v.isNan = true) ∧
  (sc = 1 → x % 256 < 255 → ∃ n d, v = .fin false n d ∧ 0 < d ∧ q v = 2 ^ ((x % 256 : Nat) - 127 : ℤ)) ∧
  (sc = 2 → v = Num.decode (Num.fmtOf 8) (x % 2 ^ 16)) ∧ (sc = 3 → v = Num.decode (Num.fmtOf 10) x) ∧
  (sc = 4 → v = Num.decode (Num.fmtOf 9) (x % 2 ^ 16))

/-- The value of an element under an identifier's format, with TV for ternary code 0b10 (R52, R53). -/
def TidValue (fmt x : Nat) (v : Num.Val) (f : Nat) : Prop :=
  (fmt = 16 → f = 0 ∧ (∃ neg n d, v = .fin neg n d ∧ 0 < d) ∧ q v = (BitVec.ofNat 8 x).toInt / 64) ∧ (fmt < 16 → ValueOf fmt x v f)

/-- The firing of a QNT or a DQNT finds its turn, its own L, and its block's R in the slot of the block's last frame (R259). -/
def BlockPresent (s : State) (n : NodeBody) (a : Fire) (d rf : Nat) (r : Operand) : Prop :=
  let t := s.site
  a.pk = t.plane ∧ a.e = t.elem ∧ a.node = t.node ∧ a.f = t.frame ∧ a.p = s.plane t.plane ∧ a.n = n ∧ s.mayFire = some a.fr ∧
  s.readPort n 0 = some a.l ∧ InTurn s a ∧
  d = blockLen ((pathState s a).tid.toNat / 2 ^ 80 % 16) ∧ (s.plane a.pk).frameAt (a.fr.itix / d * d + d - 1) = some rf ∧
  (s.plane a.pk).slots.find (slotKey a.node rf 1 a.e) = some r

/-- The same, and its identifier was valid when the plane was loaded. -/
def BlockReady (s : State) (n : NodeBody) (a : Fire) (d rf : Nat) (r : Operand) : Prop :=
  BlockPresent s n a d rf r ∧ (pathState s a).tid.getLsbD 79 = true

/-- Slots after a firing of a QNT or a DQNT: L is consumed, and R at the block's last position. -/
def TakesBlock (s : State) (a : Fire) (d rf : Nat) (m : Map Operand) : Prop :=
  ∀ k, m.find k = if k = slotKey a.node a.f 0 a.e ∨ (a.fr.itix % d = d - 1 ∧ k = slotKey a.node rf 1 a.e) then none
    else (s.plane a.pk).slots.find k

end Sys2Proof.Claim

/-- R236 to R246: the plane nodes. A shift sends each old lane of its element to exactly the sites whose source it is, and stays
pending; PZROT, PST, PQUIET and RULE leave their change for the end of the fc; PLD and RULE give registers' and tables' values. -/
def Obligations.PlaneNodesShiftReadAndWrite : Prop :=
  (∀ (s : State) (n : NodeBody) (fr : Frame) (l r : Operand), n.inp.getLsbD 3 = true → n.fire = 0#4 → n.inp.getLsbD 0 = false →
    s.mayFire = some fr → let t := s.site; let p := s.plane t.plane
    let (x0, y0, W, H) := p.lattice t.plane t.node t.elem
    let mode := n.mod.toNat % 4; let d := towards (n.seq.toNat % 8); let ex := t.elem % 64 - x0; let ey := t.elem / 64 - y0
    let reg := p.phys t.plane t.elem (n.seq.toNat / 8); let old := p.wregs.get (32 * t.elem + reg) 0#512
    let wantsR : Prop := mode = 3 ∧ NeedsFill mode W H d ex ey
    let key (port : Nat) : Nat := slotKey t.node t.frame port t.elem
    ex < W → ey < H → p.slots.find (key 0) = some l → (wantsR → n.inp.getLsbD 2 = true ∧ p.slots.find (key 1) = some r) →
    ∃ u gs halo, exec (.nPshift n) s = .next u ∧ u = { s with planes := u.planes, fired := u.fired, rr := u.rr } ∧
      HasFired s u t.plane t.elem ∧ OtherPlanes s u t.plane ∧ (wantsR → halo = some r) ∧ (¬wantsR → halo = none) ∧
      u.plane t.plane = { p with
        slots := (u.plane t.plane).slots, groupsIn := p.groupsIn ++ gs
        shifts := p.shifts ++ [⟨t.elem, t.node, t.frame, fr.gen, s.fc, reg, old, l, halo⟩] } ∧
      (∀ k, (u.plane t.plane).slots.find k = if k = key 0 then none else if k = key 1 ∧ halo.isSome then none else p.slots.find k) ∧
      (∀ g ∈ gs, g.node = t.node ∧ g.frame = t.frame ∧ g.gen = fr.gen ∧ g.here = false) ∧
      (∀ fx fy i, fx < W → fy < H → i < 16 → ∀ gx gy wait, SourceOf mode W H d (4 * fx + i % 4) (4 * fy + i / 4) gx gy wait →
        gx / 4 = ex → gy / 4 = ey → ∃ g ∈ gs, g.elem = 64 * (y0 + fy) + x0 + fx ∧ g.due = s.fc + wait ∧
          ∃ v, (i, v) ∈ g.lanes ∧ v.toNat = lane old (gy % 4 * 4 + gx % 4)) ∧
      (∀ g ∈ gs, ∀ i v, (i, v) ∈ g.lanes → ∃ fx fy gx gy wait, g.elem = 64 * (y0 + fy) + x0 + fx ∧ g.due = s.fc + wait ∧
        SourceOf mode W H d (4 * fx + i % 4) (4 * fy + i / 4) gx gy wait ∧ gx / 4 = ex ∧ gy / 4 = ey ∧
        v.toNat = lane old (gy % 4 * 4 + gx % 4))) ∧
  (∀ (s : State) (n : NodeBody) (a : Fire), s.ready n = some a →
    let reg := namedReg a (n.seq.toNat / 8); let w := a.p.wregs.get (32 * a.e + reg) 0#512
    let on (i : Nat) : Prop := a.l.mask.getLsbD i = true ∧ On a i
    (∀ len, len = n.operand.toNat % 64 → 2 ≤ len → ∃ z, Does (.nPzrot n) s a 0 [.zoff (32 * a.e + n.seq.toNat / 8) z] (ForwardsL s a) ∧
      let z0 := a.p.zoff.get (32 * a.e + n.seq.toNat / 8) 0
      (z : ℤ) = (if n.operand.getLsbD 6 then (z0 : ℤ) + 1 else z0 - 1) % len) ∧
    (∃ W m, Does (.nPld n) s a 0 [] (Both s a.pk a.e n a.f a.fr.gen ⟨W, m, 0#4⟩) ∧
      ∀ i < 16, (m.getLsbD i = true ↔ on i) ∧ (on i → lane W i = lane w i) ∧ (¬on i → lane W i = 0)) ∧
    (∃ X, Does (.nPst n) s a 0 [.wreg (32 * a.e + reg) X] (ForwardsL s a) ∧
      ∀ i < 16, (on i → lane X i = lane a.l.val i) ∧ (¬on i → lane X i = lane w i)) ∧
    (∃ b, Does (.nPquiet n) s a 0 [.quiet a.e b w] (ForwardsL s a) ∧
      (b = true ↔ ∀ i < 16, lane w i = lane (a.p.snap.get a.e 0#512) i)) ∧
    (let o := n.operand.toNat; let wc := a.p.wregs.get (32 * a.e + namedReg a (o / 2 ^ 16 % 32)) 0#512; let S := o / 2 ^ 22 % 8 + 1
     let site (i e : Nat) (nv : Prop) : Prop := SiteOf (if n.operand.getLsbD 21 then lane wc i else 0) (lane a.l.val i) (lane w i) S e nv
     ∃ W m X fl, Does (.nRule n) s a fl [.wreg (32 * a.e + reg) X] (Both s a.pk a.e n a.f a.fr.gen ⟨W, m, 0#4⟩) ∧
      (∀ i < 16, (m.getLsbD i = true ↔ on i) ∧ (¬on i → lane W i = 0 ∧ lane X i = lane w i) ∧
        (on i → lane X i = lane W i ∧ ∀ e nv, site i e nv →
          lane W i = leNat ((List.range 4).map (fun k => Memory.read s.edata
            (edAddr a.pk a.e (o % 2 ^ 16 + 256 * (n.seq.toNat % 8) + 4 * e + k)))))) ∧
      ((∃ i < 16, on i ∧ ∃ e, site i e True) → fl = 1) ∧ ((∀ i < 16, on i → ∃ e, site i e False) → fl = 0)))

/-- R52, R53, R72 to R75, R257 to R259: the quantise path. Each node fires for its tokens in ascending index: BMAX keeps and sends
the block's largest magnitude, DELAY waits for the rest of its block, BFLY sends sums and differences, QNT sends elements and the
scale, DQNT decodes. An identifier that was not valid at load parks the frame. -/
def Obligations.QuantisePathFiresInStreamOrder : Prop :=
  (∀ (s : State) (n : NodeBody) (a : Fire), s.ready n = some a →
    (¬InTurn s a → exec (.nBmax n) s = .next s ∧ exec (.nDelay n) s = .next s ∧ exec (.nBfly n) s = .next s) ∧
    (InTurn s a → let st := (s.plane a.pk).srReg a.pk a.e
      (let d := blockLen (n.operand.toNat % 16); let m := a.fr.itix % d; let f32 := Num.fmtOf 10
       let M0 := if m = 0 then 0 else (pathState s a).cur.toNat
       M0 < 2 ^ 31 → ∃ M, M < 2 ^ 31 ∧ Streams (.nBmax n) s a (if m = d - 1 then 0#64 else BitVec.ofNat 64 M)
          (if (List.range 16).any (fun i => (Num.decode f32 (entering a.l i)).isSnan) then 1 else 0) st
          (fun q => ∀ k, (Consumed a k → q.find k = none) ∧ (¬Consumed a k → q.find k = (s.plane a.pk).slots.find k))
          (fun l => (m ≠ d - 1 → l = []) ∧ (m = d - 1 → ∃ V, (∀ i < 16, lane V i = M) ∧ Both s a.pk a.e n a.f a.fr.gen ⟨V, 0xFFFF#16, 0#4⟩ l)) ∧
        ((Num.decode f32 M0).isNan = true ∨ (∃ i < 16, (Num.decode f32 (entering a.l i)).isNan = true) → M = Num.canonNaN f32) ∧
        ((Num.decode f32 M0).isNan = false → (∀ i < 16, (Num.decode f32 (entering a.l i)).isNan = false) →
          (M = M0 ∨ ∃ i < 16, M = entering a.l i % 2 ^ 31) ∧ place (Num.decode f32 M0) ≤ place (Num.decode f32 M) ∧
          ∀ i < 16, place (Num.decode f32 (entering a.l i % 2 ^ 31)) ≤ place (Num.decode f32 M))) ∧
      (let d := n.operand.toNat % 128; let m := a.fr.itix % d
       0 < d → (∀ k, m + k < d → ∃ f, (s.plane a.pk).frameAt (a.fr.itix + k) = some f ∧
          ((s.plane a.pk).slots.find (slotKey a.node f 0 a.e)).isSome = true) →
        Streams (.nDelay n) s a 0#64 0 st
          (fun q => ∀ k, (Consumed a k → q.find k = none) ∧ (¬Consumed a k → q.find k = (s.plane a.pk).slots.find k)) (ForwardsL s a)) ∧
      (let j := n.operand.toNat % 16; let m := a.fr.itix % blockLen (n.operand.toNat / 16 % 16)
       (j < 4 → ∃ (V : Vec) (fl : Nat) (f : Nat → Nat), Streams (.nBfly n) s a 0#64 fl st
            (fun q => ∀ k, (Consumed a k → q.find k = none) ∧ (¬Consumed a k → q.find k = (s.plane a.pk).slots.find k))
            (Both s a.pk a.e n a.f a.fr.gen ⟨V, 0xFFFF#16, 0#4⟩) ∧
          (∀ i < 16, i / 2 ^ j % 2 = 0 → PairOf (entering a.l i) (entering a.l (i + 2 ^ j)) (lane V i) (lane V (i + 2 ^ j)) (f i)) ∧
          ∀ k, fl.testBit k = true ↔ ∃ i < 16, i / 2 ^ j % 2 = 0 ∧ (f i).testBit k = true) ∧
       (4 ≤ j → m / 2 ^ (j - 4) % 2 = 1 → ∃ V, Streams (.nBfly n) s a 0#64 0 st
            (fun q => ∀ k, (Consumed a k → q.find k = none) ∧ (¬Consumed a k → q.find k = (s.plane a.pk).slots.find k))
            (Both s a.pk a.e n a.f a.fr.gen ⟨V, 0xFFFF#16, 0#4⟩) ∧ ∀ i < 16, lane V i = entering a.l i) ∧
       (4 ≤ j → m / 2 ^ (j - 4) % 2 = 0 → ∀ f c, (s.plane a.pk).frameAt (a.fr.itix + 2 ^ (j - 4)) = some f →
          (s.plane a.pk).slots.find (slotKey a.node f 0 a.e) = some c → f ≠ a.f →
          ∃ (U V : Vec) (fl : Nat) (g : Nat → Nat), Streams (.nBfly n) s a 0#64 fl st
            (fun q => q.find (slotKey a.node f 0 a.e) = some ⟨V, 0xFFFF#16, c.kind⟩ ∧ ∀ k, k ≠ slotKey a.node f 0 a.e →
              (Consumed a k → q.find k = none) ∧ (¬Consumed a k → q.find k = (s.plane a.pk).slots.find k))
            (Both s a.pk a.e n a.f a.fr.gen ⟨U, 0xFFFF#16, 0#4⟩) ∧
          (∀ i < 16, PairOf (entering a.l i) (entering c i) (lane U i) (lane V i) (g i)) ∧
          ∀ k, fl.testBit k = true ↔ ∃ i < 16, (g i).testBit k = true)))) ∧
  (∀ (s : State) (n : NodeBody) (a : Fire) (d rf : Nat) (r : Operand), BlockReady s n a d rf r →
    let tid := (pathState s a).tid.toNat; let fmt := tid / 2 ^ 64 % 32; let sc := tid / 2 ^ 84 % 16
    let b := if 16 ≤ fmt then 8 else NodeCheck.width fmt; let m := a.fr.itix % d
    (fmt = 12 ∨ fmt = 13 ∨ fmt = 14 ∨ fmt = 15 ∨ fmt = 16 → ∃ (code f0 : Nat) (R : Nat → Num.Rnd) (V : Vec),
      (m = 0 → ScaleOf fmt (pathState s a).stages (entering r 0) code f0) ∧ (m ≠ 0 → code = (pathState s a).cur.toNat ∧ f0 = 0) ∧
      R 0 = ⟨n.mod.toNat % 8, (s.plane a.pk).srReg a.pk a.e, f0⟩ ∧
      (∀ i < 16, QuantOf fmt (pathState s a).stages code (entering a.l i) (R i) (elem V b i) (R (i + 1))) ∧ V.toNat < 2 ^ (16 * b) ∧
      Streams (.nQnt n) s a (BitVec.ofNat 64 code) (R 16).fl (R 16).s (TakesBlock s a d rf) (fun l => ∃ l0 l1, l = l0 ++ l1 ∧
        Sends s a.pk a.e n.dest0 a.f a.fr.gen ⟨V, BitVec.ofNat 16 (2 ^ ((16 * b + 31) / 32) - 1), 0#4⟩ l0 ∧
        (m = d - 1 → Sends s a.pk a.e n.dest1 a.f a.fr.gen ⟨BitVec.ofNat 512 code, 1#16, 0#4⟩ l1) ∧ (m ≠ d - 1 → l1 = []))) ∧
    (8 ≤ n.fmt.toNat → n.fmt.toNat ≤ 10 → fmt ≤ 16 → b ≤ 32 → sc ≤ 4 → ∃ (z : Nat → Nat) (R : Nat → Num.Rnd) (V : Vec),
      R 0 = ⟨n.mod.toNat % 8, (s.plane a.pk).srReg a.pk a.e, 0⟩ ∧
      (∀ i < 16, ∃ v f w c g, TidValue fmt (if a.l.mask.getLsbD (b * i / 32) then elem a.l.val b i else 0) v f ∧
        ScaleVal sc (entering r 0) w ∧ ProductOf v w c g ∧
        (z i, R (i + 1)) = Num.round (Num.fmtOf n.fmt.toNat) 1 ((R i).raise (f ||| g)) c ∧ lane V i = z i) ∧
      Streams (.nDqnt n) s a 0#64 (R 16).fl (R 16).s (TakesBlock s a d rf) (Both s a.pk a.e n a.f a.fr.gen ⟨V, 0xFFFF#16, 0#4⟩))) ∧
  (∀ (s : State) (n : NodeBody) (a : Fire) (d rf : Nat) (v : Operand), BlockPresent s n a d rf v → (pathState s a).tid.getLsbD 79 = false →
    ∃ r, r.cause = 0x28 ∧ r.node = a.node ∧ r.frame = a.f ∧ ∀ i ∈ [Instr.nQnt n, Instr.nDqnt n], exec i s = .next { s with
      fired := (4096 * pkDie a.pk + a.e) :: s.fired
      rr := s.rr.put (4096 * pkDie a.pk + a.e) ((pkPp a.pk + 1) % 4)
      parking := s.parking ++ [⟨a.pk, a.f, a.fr.gen, 0, r⟩] })

namespace Sys2Proof.Claim

open Sys2Proof Sys2Proof.Machine

/-! Nodes that send requests, commands, contributions, messages and rays. -/

/-- The fault record of a firing (Tables 18.1 and 18.2). -/
def firingRecord (a : Fire) (cause addr info aux : Nat) : FaultRec :=
  { cause := cause, addr := addr, info := info, aux := aux, itix := a.fr.itix, cbix := a.p.cbix, ctx := a.p.ctx, state := 1,
    lost := a.fr.lost, die := pkDie a.pk, pplane := a.pk % 4, vplane := a.p.vp, x := a.e % 64, y := a.e / 64, node := a.node,
    frame := a.f, gen := a.fr.gen
    region := pkOx a.pk * 2 ^ 9 + pkOy a.pk * 2 ^ 6 + (a.p.w - 1) * 2 ^ 3 + (a.p.h - 1) }

/-- The firing faults: nothing is consumed or sent, and its frame is parked at the end of the fc (R343). -/
def FiringFaults (i : Instr) (s : State) (a : Fire) (cause addr info aux : Nat) : Prop :=
  exec i s = .next { s with
    fired := (4096 * pkDie a.pk + a.e) :: s.fired
    rr := s.rr.put (4096 * pkDie a.pk + a.e) ((a.pk % 4 + 1) % 4)
    parking := s.parking ++ [⟨a.pk, a.f, a.fr.gen, 0, firingRecord a cause addr info aux⟩] }

/-- The number of a memory port: 128·die + 2·(8·block row + block column) + unit. -/
def portNumber (die bx by' u : Nat) : Nat := 128 * die + 2 * (8 * by' + bx) + u

/-- The port that a request goes to (R213): the one its OPERAND names, the root of its binding's tree, or, without either, MP0 of its
own block when it is on no chain and else its copy's chain port. -/
def PortOf (a : Fire) (opc port : Nat) : Prop :=
  let o := a.n.operand.toNat
  let b := (a.p.binds.get (a.n.dest0.toNat / 2 ^ 24 % 32) 0#128).toNat
  let named : Prop := opc ∈ [0x80, 0x81, 0x82, 0x83, 0x86, 0x89, 0x8A, 0x91, 0x92, 0x93, 0x94, 0xB2]
  let tree : Prop := opc = 0x90 ∨ opc = 0xB4
  (named → port = portNumber (pkDie a.pk) (pkOx a.pk + o / 2 ^ 24 % 8) (pkOy a.pk + o / 2 ^ 27 % 8) (o / 2 ^ 23 % 2)) ∧
  (tree → port = portNumber (pkDie a.pk) (pkOx a.pk + b / 2 ^ 8 % 256) (pkOy a.pk + b / 2 ^ 16 % 256) (b / 2 ^ 24 % 256 % 2)) ∧
  (¬named → ¬tree → a.n.seq.toNat / 64 = 0 → port = portNumber (pkDie a.pk) (a.e % 64 / 8) (a.e / 64 / 8) 0) ∧
  (¬named → ¬tree → a.n.seq.toNat / 64 ≠ 0 → port = a.p.chainPort a.pk (copyOf a))

/-- The request of a firing, as it leaves (R215). -/
def RequestOf (s : State) (a : Fire) (opc : Nat) (x : Req) : Prop :=
  x = { plane := a.pk, elem := a.e, node := a.node, frame := a.f, gen := a.fr.gen, opc := opc, body := a.n, l := a.l, r := a.r, p := a.pr,
        port := x.port, stage := .sent, at_ := s.fc, ord := s.fresh, done := 0, got := [] } ∧ PortOf a opc x.port

/-- The firing consumes its operands, sends tokens, and changes fields of the machine that are given. Nothing else changes. -/
def FiresInto (i : Instr) (s : State) (a : Fire) (sent : List Flight → Prop) (t : State) (others : State → State → Prop) : Prop :=
  exec i s = .next t ∧ HasFired s t a.pk a.e ∧ OtherPlanes s t a.pk ∧
  t.plane a.pk = { s.plane a.pk with slots := (t.plane a.pk).slots } ∧ Consumes a (s.plane a.pk) (t.plane a.pk) ∧
  (∃ l, t.flights = s.flights ++ l ∧ sent l) ∧
  others { s with planes := t.planes, fired := t.fired, rr := t.rr, flights := t.flights } t

/-- A node that sends its request to its port, and tokens at once. -/
def Asks (i : Instr) (s : State) (a : Fire) (opc : Nat) (sent : List Flight → Prop) : Prop :=
  ∃ t x, FiresInto i s a sent t (fun u t => t = { u with reqs := s.reqs.put s.fresh x, fresh := s.fresh + 1 }) ∧ RequestOf s a opc x

/-- No token. -/
def Nothing (l : List Flight) : Prop := l = []

/-- R's value as a DATA token, on both destinations (R92). -/
def ForwardsR (s : State) (a : Fire) : List Flight → Prop := Both s a.pk a.e a.n a.f a.fr.gen { a.r with kind := 0#4 }

/-- Lane word in which a node of e elements places one (R199, R212). -/
def elemWord (e j : Nat) : Nat := if e = 8 then 2 * j else j

/-- An element of L's address lanes that P leaves on, and, for a store, of R's data lanes (R212, R219): the lanes of its address
and of its data. -/
def LiveRequest (a : Fire) (data : Bool) (lanes words : List Nat) : Prop :=
  (∀ i ∈ lanes, a.l.mask.getLsbD i = true ∧ On a i) ∧ (data = true → ∀ i ∈ words, a.r.mask.getLsbD i = true)

/-- Elements of a node: 8 when FMT has 64 bits (or, for a request, addresses are virtual), else 16. -/
def elements (a : Fire) (request : Bool) : Nat :=
  if NodeCheck.width a.n.fmt.toNat = 64 ∨ (request = true ∧ a.n.operand.toNat / 2 ^ 30 = 0) then 8 else 16

/-- Data lanes of element j. -/
def dataWords (a : Fire) (e j : Nat) : List Nat := if NodeCheck.width a.n.fmt.toNat = 64 then [2 * j, 2 * j + 1] else [elemWord e j]

/-- The data of element j of R: its 64 bits, or the low bits of its lane word. -/
def dataOf (a : Fire) (e j : Nat) : Nat :=
  let b := NodeCheck.width a.n.fmt.toNat
  if b = 64 then elem a.r.val 64 j else lane a.r.val (elemWord e j) % 2 ^ b

/-- Element j of an LDL or an STL: live, and its offset (R219). -/
def LocalLive (a : Fire) (data : Bool) (j : Nat) : Prop :=
  let e := elements a false
  j < e ∧ LiveRequest a data [elemWord e j] (dataWords a e j)
def localOffset (a : Fire) (j : Nat) : Nat := lane a.l.val (elemWord (elements a false) j) + a.n.operand.toNat % 2 ^ 16

/-- The access faults: its offset is not aligned, or its last byte lies beyond 0x6FFF. -/
def LocalFaults (a : Fire) (o cause : Nat) : Prop :=
  let w := NodeCheck.width a.n.fmt.toNat / 8
  (o % w ≠ 0 ∧ cause = 0x04) ∨ (o % w = 0 ∧ 0x7000 < o + w ∧ cause = 0x05)

/-- A lane word that holds an element of FMT, unpacked (R187). -/
def Unpacked (fmt x word : Nat) : Prop :=
  let b := NodeCheck.width fmt
  (fmt < 4 → (BitVec.ofNat 32 word).toInt = (BitVec.ofNat b x).toInt) ∧ (4 ≤ fmt → word = x % 2 ^ b)

/-- The contributions that a firing sends into its tree, in this order (R225): address, value and lane part of the key. -/
def Contributes (s t : State) (a : Fire) (fmt op : Nat) (ord sp : Bool) (l : List (Nat × Nat × Nat)) : Prop :=
  (∀ k, (k ≤ s.fresh ∨ s.fresh + l.length < k) → t.contribs.find k = s.contribs.find k) ∧
  ∀ i x, l[i]? = some x → t.contribs.find (s.fresh + 1 + i) = some
    { plane := a.pk, copy := copyOf a, bind := a.n.dest0.toNat / 2 ^ 24 % 32
      at_ := a.p.treeEntry a.pk (a.p.binds.get (a.n.dest0.toNat / 2 ^ 24 % 32) 0#128).toNat a.e
      va := x.1, sp := sp, val := x.2.1, fmt := fmt, op := op, scope := a.n.mod.toNat, ord := ord, key := (a.fr.itix, a.e, x.2.2)
      iss := { ctx := a.p.ctx, cbix := a.p.cbix, priv := a.p.priv, die := pkDie a.pk, frame := some (a.pk, a.e, a.node, a.f, a.fr.gen), unit := none }
      req := s.fresh, accepted := false, ready := false, arr := 0 }

/-- Address lanes and address of element j of a request, before its range is checked (R212). -/
def requestLanes (a : Fire) (j : Nat) : List Nat :=
  if a.n.operand.toNat / 2 ^ 30 = 0 then [2 * j, 2 * j + 1] else [elemWord (elements a true) j]
def RequestAddress (a : Fire) (j va : Nat) : Prop :=
  let off := (BitVec.ofNat 23 a.n.operand.toNat).toInt
  (a.n.operand.toNat / 2 ^ 30 = 0 → (va : ℤ) = ((elem a.l.val 64 j : ℤ) + off) % 2 ^ 64) ∧
  (a.n.operand.toNat / 2 ^ 30 ≠ 0 → (va : ℤ) = ((lane a.l.val (elemWord (elements a true) j) : ℤ) + off) % 2 ^ 32)

/-- The frame after its agent in the firing's copy has changed its horizon (R85, R104). -/
def AgentTurns (a : Fire) (fr : Frame) (f : Horizon → Horizon) : Prop :=
  fr = { a.fr with agents := fr.agents } ∧ fr.agent (copyOf a) = (f (a.fr.agent (copyOf a)).1, (a.fr.agent (copyOf a)).2) ∧
    ∀ c, c ≠ copyOf a → fr.agent c = a.fr.agent c

/-- The engine handle of a binding, and the frame as the issuer of a command or a send. -/
def handleOf (a : Fire) (b : Nat) : Nat := (a.p.binds.get b 0#128).toNat / 2 ^ 64
def issuerOf (a : Fire) : Issuer :=
  { ctx := a.p.ctx, cbix := a.p.cbix, priv := a.p.priv, die := pkDie a.pk, frame := some (a.pk, a.e, a.node, a.f, a.fr.gen), unit := none }

/-- L as it goes out through port 11: on the lanes that DEST0 selects (R27). -/
def Leaves (a : Fire) (l : Operand) : Prop :=
  l.val = a.l.val ∧ l.kind = a.l.kind ∧
    ∀ i < 16, l.mask.getLsbD i = true ↔ a.l.mask.getLsbD i = true ∧ Selects (a.n.dest0.toNat / 2 ^ 8 % 16) i

/-- A handle's fault: the context is not granted to the caller, or its unit lies in another partition (R175, R336). -/
def HandleFault (s : State) (ctx cbix h : Nat) (c : Nat) : Prop :=
  (s.granted ctx cbix h = false ∧ c = 0x25) ∨
  (s.granted ctx cbix h = true ∧ h / 2 ^ 28 % 4 ≠ 2 ∧ s.partOfDie (h / 2 ^ 30 % 4) ≠ s.partOfCtx ctx ∧ c = 0x18)

/-- The firing queues a command for the context of its binding, with L as its block and its frame's horizon (R104, R230). -/
def Commands (i : Instr) (s : State) (a : Fire) (l : Operand) (kind : Nat) : Prop :=
  let h := handleOf a (a.n.dest0.toNat / 2 ^ 24 % 32)
  ∃ t x, FiresInto i s a Nothing t (fun u t => t = { u with cmds := s.cmds.put s.fresh x, fresh := s.fresh + 1 }) ∧
    x = { ctxKey := ctxKey h, csc := h.testBit 18, kind := kind, num := none, block := l.val, iss := issuerOf a,
          horizon := (a.fr.agent (copyOf a)).1, body := a.n, l := l, tids := [], tries := 0, pos := 0, buf := [], leg := 0, err := none, stage := .queued, ord := s.fresh }

/-- A command block of NETW that R231 accepts. -/
def WorkRequest (b h : Nat) : Prop :=
  h / 2 ^ 28 % 4 = 2 ∧ b / 2 ^ 416 % 2 ^ 96 = 0 ∧ b / 2 ^ 384 % 2 ^ 8 = 0 ∧ b / 2 ^ 196 % 2 ^ 28 = 0 ∧ b / 2 ^ 185 % 2 ^ 7 = 0 ∧
  b / 2 ^ 64 % 2 ^ 64 = 0 ∧ (b % 2 ^ 64 = 0 ∨ b % 2 ^ 64 = h) ∧ b / 2 ^ 192 % 16 ≤ 2 ∧ 1 ≤ b / 2 ^ 392 % 2 ^ 8 ∧ b / 2 ^ 392 % 2 ^ 8 ≤ 64 ∧
  b / 2 ^ 224 % 2 ^ 32 ≠ 0

/-- A send or delegation that a firing hands to its engine (R117, R232). -/
def SendOf (s : State) (a : Fire) (choose deleg : Bool) (x : Send) : Prop :=
  let o := a.n.operand.toNat; let v := (s.roles.get (8 * (256 * (s.plane a.pk).ctx + a.pk / 4 % 256) + o % 8) 0#64).toNat
  x = { iss := issuerOf a, body := a.n, l := a.l, handle := x.handle, role := v / 2 ^ 27 % 8, kind := o / 2 ^ 3 % 32, choose := choose,
        deleg := deleg, payload := x.payload, desc := x.desc, close := none, reg := v, at_ := s.fc, due := s.due (pkDie a.pk),
        ord := s.fresh, held := false } ∧
  x.handle.toNat = v / 2 ^ 30 * 2 ^ 30 ∧
  (a.l.mask.getLsbD 0 = true → a.l.mask.getLsbD 1 = true → x.desc.toNat = elem a.l.val 64 0) ∧
  (choose = false → deleg = false → o.testBit 17 = false → x.payload.length = o / 2 ^ 8 % 2 ^ 9 ∧ ∀ k (h : k < x.payload.length), k < 64 →
    x.payload[k].toNat = if a.l.mask.getLsbD (k / 4) then elem a.l.val 8 k else 0)

/-- One term of HGS (R277): the gradient's feature times the corner's weight, rounded to f32. -/
def GradientTerm (g w v : Nat) : Prop :=
  ∃ p f R, ProductOf (Num.decode (Num.fmtOf 8) g) (Num.decode (Num.fmtOf 10) w) p f ∧ Rounds (Num.fmtOf 10) ⟨0, 0#32, 0⟩ f p v R

end Sys2Proof.Claim

/-- R79, R92, R94, R212, R213, R215, R218 to R225, R272: the memory nodes. Each consumes its operands and sends its request to its
port; stores send R's token at once, PREF its L; RED sends its live elements into its tree; ORDT releases its number and sends L. LDL
and STL read and write element data in the fc in which they fire. -/
def Obligations.MemoryNodesSendTheirRequest : Prop :=
  ∀ (s : State) (n : NodeBody) (a : Fire), s.ready n = some a →
    (∀ x ∈ [(Instr.nLd n, 0x80), (.nLdv n, 0x82), (.nWaitw n, 0x88), (.nLdt n, 0x89), (.nLock n, 0x91), (.nUnlock n, 0x92), (.nCas n, 0x93),
        (.nXchg n, 0x94), (.nFence n, 0x95), (.nVbuf n, 0xB2)], Asks x.1 s a x.2 Nothing) ∧
    (∀ x ∈ [(Instr.nSt n, 0x81), (.nStv n, 0x83), (.nStt n, 0x8A)], Asks x.1 s a x.2 (ForwardsR s a)) ∧
    Asks (.nPref n) s a 0x86 (ForwardsL s a) ∧
    (n.seq.toNat / 64 ≠ 0 → ∃ t, exec (.nOrdt n) s = .next t ∧
      t = { s with planes := t.planes, fired := t.fired, rr := t.rr, flights := t.flights } ∧ HasFired s t a.pk a.e ∧
      OtherPlanes s t a.pk ∧ Consumes a (s.plane a.pk) (t.plane a.pk) ∧ (∃ l, t.flights = s.flights ++ l ∧ ForwardsL s a l) ∧
      t.plane a.pk = { s.plane a.pk with
        slots := (t.plane a.pk).slots
        seqDone := (s.plane a.pk).seqDone ++ [(2 * a.f + (n.seq.toNat / 64 - 1), copyOf a, n.seq.toNat % 64)] }) ∧
    (∃ (t : State) (x : Req) (js : List Nat) (l : List (Nat × Nat × Nat)),
      FiresInto (.nRed n) s a Nothing t (fun u t => t = { u with
        reqs := s.reqs.put s.fresh x, contribs := t.contribs, fresh := s.fresh + 1 + l.length }) ∧
      RequestOf s a 0x90 x ∧ js.Pairwise (· < ·) ∧
      (∀ j, j ∈ js ↔ j < elements a true ∧ LiveRequest a true (requestLanes a j) (dataWords a (elements a true) j)) ∧
      l.map (fun x => x.2.2) = js ∧ (∀ x ∈ l, RequestAddress a x.2.2 x.1 ∧ x.2.1 = dataOf a (elements a true) x.2.2) ∧
      Contributes s t a n.fmt.toNat (n.operand.toNat / 2 ^ 24 % 4) (n.operand.getLsbD 23) (decide (n.operand.toNat / 2 ^ 30 = 1)) l) ∧
    (let w := NodeCheck.width n.fmt.toNat / 8
     8 ≤ NodeCheck.width n.fmt.toNat →
      ((∀ j c, LocalLive a false j → ¬LocalFaults a (localOffset a j) c) → ∃ W m, PassesOn (.nLdl n) s a (Both s a.pk a.e n a.f a.fr.gen ⟨W, m, 0#4⟩) ∧
        ∀ j < elements a false,
          (∀ i ∈ dataWords a (elements a false) j, (m.getLsbD i = true ↔ LocalLive a false j) ∧ (¬LocalLive a false j → lane W i = 0)) ∧
          (LocalLive a false j → w = 8 → elem W 64 j = s.edRead a.pk a.e (localOffset a j) w) ∧
          (LocalLive a false j → w < 8 → Unpacked n.fmt.toNat (s.edRead a.pk a.e (localOffset a j) w) (lane W (elemWord (elements a false) j)))) ∧
      (∀ j c, LocalLive a false j → LocalFaults a (localOffset a j) c → (∀ k c, k < j → LocalLive a false k → ¬LocalFaults a (localOffset a k) c) →
        FiringFaults (.nLdl n) s a c (localOffset a j) 0 0) ∧
      ((∀ j c, LocalLive a true j → ¬LocalFaults a (localOffset a j) c) → Memory.wf s.edata = true →
        ∃ t, FiresInto (.nStl n) s a (ForwardsR s a) t (fun u t => t = { u with edata := t.edata }) ∧ ∀ k,
          (∀ j, LocalLive a true j → (∀ j', j < j' → LocalLive a true j' → ¬(localOffset a j' ≤ k ∧ k < localOffset a j' + w)) →
            ∀ b < w, k = localOffset a j + b → (Memory.read t.edata (edAddr a.pk a.e k)).toNat = dataOf a (elements a false) j / 2 ^ (8 * b) % 256) ∧
          ((∀ j, LocalLive a true j → ∀ b < w, k ≠ edAddr a.pk a.e (localOffset a j + b)) → Memory.read t.edata k = Memory.read s.edata k)) ∧
      (∀ j c, LocalLive a true j → LocalFaults a (localOffset a j) c → (∀ k c, k < j → LocalLive a true k → ¬LocalFaults a (localOffset a k) c) →
        FiringFaults (.nStl n) s a c (localOffset a j) 0 0))

/-- R97, R104, R175, R229 to R231, R249 to R254: the engine nodes. TLW sends L at once when its context's counter has reached n, and
else waits; TLR gives the counter; COPY, NETW, MXLS, MXSW, MXACC and MXQ queue a command, and MXST adds its segment to its row. A
context that is not granted faults ENGINE_ACCESS, a number not accepted TL_AHEAD, and a block that is not well formed ENGINE_CMD. -/
def Obligations.EngineNodesQueueTheirCommands : Prop :=
  ∀ (s : State) (n : NodeBody) (a : Fire), s.ready n = some a →
    (let h := handleOf a (n.operand.toNat % 32); let none' : Prop := ∀ c, ¬HandleFault s a.p.ctx a.p.cbix h c; let c := if a.l.mask.getLsbD 0 && a.l.mask.getLsbD 1 then elem a.l.val 64 0 else 0
     let e := s.engs.get (ctxKey h) ⟨0, 0, []⟩
     (∀ x, HandleFault s a.p.ctx a.p.cbix h x → FiringFaults (.nTlw n) s a x 0 0 h ∧ FiringFaults (.nTlr n) s a x 0 0 h) ∧
     (none' → e.accepted < c → FiringFaults (.nTlw n) s a 0x24 0 0 h) ∧
     (none' → c ≤ e.accepted → e.counter < c → ∃ t x, FiresInto (.nTlw n) s a Nothing t (fun u t => t = { u with
        reqs := s.reqs.put s.fresh x, fresh := s.fresh + 1 }) ∧ x.opc = 0x97 ∧ x.stage = .waiting ∧ x.done = c ∧ x.plane = a.pk ∧ x.elem = a.e ∧
        x.node = a.node ∧ x.frame = a.f ∧ x.gen = a.fr.gen ∧ x.body = n ∧ x.l = a.l) ∧
     (none' → c ≤ e.accepted → c ≤ e.counter → ∃ t, exec (.nTlw n) s = .next t ∧
        t = { s with planes := t.planes, fired := t.fired, rr := t.rr, flights := t.flights } ∧ HasFired s t a.pk a.e ∧ OtherPlanes s t a.pk ∧
        t.plane a.pk = { s.plane a.pk with slots := (t.plane a.pk).slots, frames := (t.plane a.pk).frames } ∧
        Consumes a (s.plane a.pk) (t.plane a.pk) ∧ (∃ l, t.flights = s.flights ++ l ∧ ForwardsL s a l) ∧
        ∃ fr, AgentTurns a fr (fun h' => mergeHorizon h' (some [(2 ^ 35 + ctxKey h, c)])) ∧
          ∀ f, (t.plane a.pk).frames.find f = if f = a.f then some fr else (s.plane a.pk).frames.find f) ∧
     (none' → ∃ V, PassesOn (.nTlr n) s a (Both s a.pk a.e n a.f a.fr.gen ⟨V, 0xFFFF#16, 0#4⟩) ∧
        ∀ j < 8, elem V 64 j = e.counter % 2 ^ 64)) ∧
    (let h := handleOf a (n.dest0.toNat / 2 ^ 24 % 32); let b := a.l.val.toNat
     ∃ l, Leaves a l ∧ let whole : Prop := l.mask = 0xFFFF#16 ∧ (b % 2 ^ 64 = 0 ∨ b % 2 ^ 64 = h)
     (∀ c, HandleFault s a.p.ctx a.p.cbix h c →
        ∀ i ∈ [Instr.nCopyEngine n, .nNetw n, .nMxls n, .nMxsw n, .nMxst n, .nMxacc n, .nMxq n], FiringFaults i s a c 0 0 h) ∧
     ((∀ c, ¬HandleFault s a.p.ctx a.p.cbix h c) →
      (∀ x ∈ [(Instr.nMxls n, 2), (.nMxsw n, 3), (.nMxacc n, 4), (.nMxq n, 5)], Commands x.1 s a l x.2) ∧
      (whole → s.copyCause a.p.ctx a.p.cbix b h = none → Commands (.nCopyEngine n) s a l 0) ∧
      (¬whole → FiringFaults (.nCopyEngine n) s a 0x26 0 0 h) ∧
      (whole → ∀ c, s.copyCause a.p.ctx a.p.cbix b h = some c → FiringFaults (.nCopyEngine n) s a c 0 0 h) ∧
      (l.mask = 0xFFFF#16 → WorkRequest b h → Commands (.nNetw n) s a l 1) ∧
      (¬(l.mask = 0xFFFF#16 ∧ WorkRequest b h) → FiringFaults (.nNetw n) s a 0x26 0 0 h) ∧
      (let o := n.operand.toNat; let bnd := n.dest0.toNat / 2 ^ 24 % 32; let seg := (o % 32, a.e, n, l)
       let mine (r : Row) : Bool := decide (r.plane = a.pk ∧ r.bind = bnd ∧ r.frame = a.f ∧ r.gen = a.fr.gen ∧ r.stage = .sent)
       (∀ k r, s.rows.find? (fun x => mine x.2) = some (k, r) →
          ∃ t, FiresInto (.nMxst n) s a Nothing t (fun u t => t = { u with rows := s.rows.put k { r with segs := r.segs ++ [seg] } })) ∧
       (s.rows.find? (fun x => mine x.2) = none →
          ∃ t x, FiresInto (.nMxst n) s a Nothing t (fun u t => t = { u with rows := s.rows.put s.fresh x, fresh := s.fresh + 1 }) ∧
            x = { plane := a.pk, bind := bnd, frame := a.f, gen := a.fr.gen, itix := a.fr.itix, ctxKey := ctxKey h, csc := h.testBit 18, segs := [seg],
                  total := o / 32 % 32 + 1, iss := issuerOf a, num := none, at_ := s.fc, ord := 0, stage := .sent }))))

/-- R115, R117, R120, R122, R124, R232, R233, R262, R271, R276 to R278, R383: the conversation and render nodes. Sends go to their
engine with the role register as it stands; CVRECV sends the waiting message of lowest number; RAYINJ queues a ray and RAYRCV sends
its hit; HGF and TEX ask their sampler; HGS consumes the kept record and sends its sums. In early service the units behind CVRECV,
RAYINJ, HGF and TEX fault ENGINE_ACCESS. -/
def Obligations.ConversationAndRenderNodes : Prop :=
  ∀ (s : State) (n : NodeBody) (a : Fire), s.ready n = some a →
    (∀ x ∈ [(Instr.nCvsend n, false, false), (.nCvchoose n, true, false), (.nCvdeleg n, false, true)],
      ∃ t y, FiresInto x.1 s a Nothing t (fun u t => t = { u with sends := s.sends.put s.fresh y, fresh := s.fresh + 1 }) ∧
        SendOf s a x.2.1 x.2.2 y) ∧
    (s.feat 16 = false → FiringFaults (.nCvrecv n) s a 0x25 0 0 0) ∧
    (s.feat 16 = true →
      ((∀ m ∈ a.p.cmsg, m.1 ≠ n.operand.toNat % 32) → exec (.nCvrecv n) s = .next s) ∧
      (∀ m ∈ a.p.cmsg, m.1 = n.operand.toNat % 32 →
        (∀ m' ∈ a.p.cmsg, m'.1 = n.operand.toNat % 32 → m' = m ∨ m.2.2.2.1 < m'.2.2.2.1) →
        (∀ x ∈ a.p.frames, x.2.order < a.fr.order → x.2.parked = false → a.p.slots.find (slotKey a.node x.1 0 a.e) = none) →
        ∃ t, exec (.nCvrecv n) s = .next t ∧ t = { s with planes := t.planes, fired := t.fired, rr := t.rr, flights := t.flights } ∧
          HasFired s t a.pk a.e ∧ OtherPlanes s t a.pk ∧
          t.plane a.pk = { s.plane a.pk with
            slots := (t.plane a.pk).slots, frames := (t.plane a.pk).frames, cmsg := (s.plane a.pk).cmsg.erase m } ∧
          Consumes a (s.plane a.pk) (t.plane a.pk) ∧
          (∃ fr, AgentTurns a fr (fun _ => none) ∧
            ∀ f, (t.plane a.pk).frames.find f = if f = a.f then some fr else (s.plane a.pk).frames.find f) ∧
          SendsBoth s t a.pk a.e n a.f a.fr.gen ⟨m.2.2.2.2, 0xFFFF#16, 0#4⟩)) ∧
    (s.feat 17 = false → ∀ i ∈ [Instr.nRayinj n, .nHgf n, .nTex n], FiringFaults i s a 0x25 0 0 0) ∧
    (s.feat 17 = true → ∀ x ∈ [(Instr.nHgf n, 0xB3), (.nTex n, 0xB5)], Asks x.1 s a x.2 Nothing) ∧
    (let key (b : Nat) (r : Ray) : Prop := r.plane = a.pk ∧ r.bind = b ∧ r.elem = a.e ∧ r.frame = a.f ∧ r.gen = a.fr.gen
     let bnd := n.dest0.toNat / 2 ^ 24 % 32
     ∃ l, Leaves a l ∧ let formed : Prop := (∀ i ≤ 10, l.mask.getLsbD i = true) ∧ lane a.l.val 10 < 8
     (s.feat 17 = true →
       ((∃ x ∈ s.rays, key bnd x.2) → exec (.nRayinj n) s = .next s) ∧
       ((∀ x ∈ s.rays, ¬key bnd x.2) → ¬formed → FiringFaults (.nRayinj n) s a 0x2D 0 0 0) ∧
       ((∀ x ∈ s.rays, ¬key bnd x.2) → formed →
         ∃ t x, FiresInto (.nRayinj n) s a Nothing t (fun u t => t = { u with rays := s.rays.put s.fresh x, fresh := s.fresh + 1 }) ∧
           key bnd x ∧ x.body = n ∧ x.nodeIx = a.node ∧ x.vec = a.l.val ∧ x.l = l ∧ x.iss = issuerOf a ∧ x.node = none ∧ x.stage = .sent ∧ x.ended = false ∧ x.ord = s.fresh ∧
           x.stack = [] ∧ x.best = (0, 0, 0, 0, 0, 0) ∧ x.nodes = 0 ∧ x.tris = 0 ∧ x.err = none)) ∧
     (let b := n.operand.toNat % 32
      ((∀ x ∈ s.rays, ¬key b x.2) → exec (.nRayrcv n) s = .next s) ∧
      (∀ k r, s.rays.find? (fun x => x.2.plane = a.pk && x.2.bind = b && x.2.elem = a.e && x.2.frame = a.f && x.2.gen = a.fr.gen) = some (k, r) →
        (r.stage ≠ .done → exec (.nRayrcv n) s = .next s) ∧
        ∀ t' u' v' prim mat fl, r.best = (t', u', v', prim, mat, fl) → r.stage = .done → ∃ W,
          (let hit : Prop := fl ≠ 0 ∧ r.err = none
           (∀ i < 16, (hit → i < 5 → lane W i = [t', u', v', prim, mat].getD i 0 % 2 ^ 32) ∧
             (¬hit → i < 5 → lane W i = if i = 0 then 0x7F800000 else 0) ∧
             (i = 5 → lane W i = ((if fl ≠ 0 ∧ r.err = none then fl else 0) + (if r.err = none then 0 else 4)) % 2 ^ 32) ∧
             (i = 6 → lane W i = r.nodes % 2 ^ 32) ∧ (i = 7 → lane W i = r.tris % 2 ^ 32) ∧
             (i = 8 → lane W i = r.err.getD 0 % 2 ^ 32) ∧ (i = 9 → lane W i = r.err.getD 0 / 2 ^ 32 % 2 ^ 32) ∧ (10 ≤ i → lane W i = 0))) ∧
          (r.err = none → ∃ t, FiresInto (.nRayrcv n) s a (Both s a.pk a.e n a.f a.fr.gen ⟨W, 0x03FF#16, 0#4⟩) t
            (fun u t => t = { u with rays := s.rays.del k })) ∧
          (∀ ad, r.err = some ad → ∃ t, exec (.nRayrcv n) s = .next t ∧ t = { s with
              planes := t.planes, fired := t.fired, rr := t.rr, rays := s.rays.del k
              parking := s.parking ++ [⟨a.pk, a.f, a.fr.gen, 0, firingRecord a 0x2E ad 0 0⟩] } ∧
            HasFired s t a.pk a.e ∧ OtherPlanes s t a.pk ∧ Consumes a (s.plane a.pk) (t.plane a.pk) ∧
            t.plane a.pk = { s.plane a.pk with slots := (t.plane a.pk).slots, frames := (t.plane a.pk).frames } ∧
            ∀ f, (t.plane a.pk).frames.find f = if f = a.f then some { a.fr with resume := a.fr.resume ++ [(a.e, a.node, W, 0x03FF#16)] }
              else (s.plane a.pk).frames.find f)))) ∧
    (let mine (k : Keep) : Prop := k.plane = a.pk ∧ k.elem = a.e ∧ k.node = n.operand.toNat % 32 ∧ k.frame = a.f ∧ k.gen = a.fr.gen
     ((∀ k ∈ s.keeps, ¬mine k) → FiringFaults (.nHgs n) s a 0x2F 0 0 0) ∧
     (∀ k, s.keeps.find? (fun k => k.plane = a.pk && k.elem = a.e && k.node = n.operand.toNat % 32 && k.frame = a.f && k.gen = a.fr.gen) = some k →
       let T := k.tid.toNat; let F := 2 ^ (T / 2 ^ 458 % 4)
       ∃ (t : State) (x : Req) (fl : Nat) (terms sums : List (Nat × Nat × Nat × Nat)) (add : Nat → Nat → Nat),
         exec (.nHgs n) s = .next t ∧ t = { s with
           planes := t.planes, fired := t.fired, rr := t.rr, keeps := s.keeps.erase k
           reqs := s.reqs.put s.fresh x, contribs := t.contribs, fresh := s.fresh + 1 + sums.length } ∧
         HasFired s t a.pk a.e ∧ OtherPlanes s t a.pk ∧ Consumes a (s.plane a.pk) (t.plane a.pk) ∧
         t.plane a.pk = { s.plane a.pk with slots := (t.plane a.pk).slots, frames := (t.plane a.pk).frames } ∧
         Flagged a (s.plane a.pk) (t.plane a.pk) fl ∧ RequestOf s a 0xB4 x ∧
         (∀ u v, ∃ w f R, SumOf 0 (Num.decode (Num.fmtOf 10) u) (Num.decode (Num.fmtOf 10) v) w f ∧
           Rounds (Num.fmtOf 10) ⟨0, 0#32, 0⟩ f w (add u v) R) ∧
         -- the terms, point by point, corner by corner, feature by feature: entry, feature, value, and the lane part of a key
         List.Forall₂ (fun p z => z.1 = p.1.2.2.1 ∧ z.2.1 = p.2 ∧ z.2.2.2 = 8 * p.1.1 + p.1.2.1 ∧
             GradientTerm (elem a.l.val 16 (p.1.1 * F + p.2)) p.1.2.2.2 z.2.2.1)
           (k.pts.flatMap (fun p => ((List.range F).filter (fun f => a.l.mask.getLsbD ((p.1 * F + f) / 2) &&
             (!n.hasP || (a.pr.mask.getLsbD ((p.1 * F + f) / 2) && decide (lane a.pr.val ((p.1 * F + f) / 2) ≠ 0))))).map (fun f => (p, f)))) terms ∧
         -- one sum for each entry and feature: its first term gives the key
         (sums.map (fun z => (z.1, z.2.1))).Nodup ∧ (∀ z ∈ terms, (z.1, z.2.1) ∈ sums.map (fun z => (z.1, z.2.1))) ∧
         (∀ z ∈ sums, ∃ v l, terms.filter (fun y => y.1 = z.1 && y.2.1 = z.2.1) = (z.1, z.2.1, v, z.2.2.2) :: l ∧
           z.2.2.1 = l.foldl (fun acc y => add acc y.2.2.1) v) ∧
         Contributes s t a 10 0 (n.operand.getLsbD 5) (decide (T / 2 ^ 57 % 8 = 1))
           (sums.map (fun z => (T / 2 ^ 384 % 2 ^ 57 + 4 * F * (k.level * 2 ^ (T / 2 ^ 453 % 32) + z.1) + 4 * z.2.1, z.2.2.1, z.2.2.2)))))

namespace Sys2Proof.Claim

open Sys2Proof Sys2Proof.Machine

/-! Events of the fabric: tokens, iteration sources, frames, splices, shifts and barriers. -/

/-- Flight i has covered its hops, and nothing of its link is before it (R24, R28). Its plane is there. -/
def Arriving (s : State) (i : Nat) (x : Flight) : Prop :=
  s.flights[i]? = some x ∧ x.due ≤ s.fc ∧ (∀ j < i, ∀ y, s.flights[j]? = some y → y.src ≠ x.src) ∧ s.planes.has x.plane = true

/-- The token leaves its route, and nothing else changes but its plane, which becomes `p`. -/
def ArrivesAs (s : State) (i : Nat) (x : Flight) (p : Plane) : Prop :=
  ∃ t, exec (.eTokenArrival i) s = .next t ∧
    t = { s with flights := s.flights.eraseIdx i, planes := t.planes, arrivals := s.arrivals + 1 } ∧
    t.plane x.plane = p ∧ OtherPlanes s t x.plane

/-- STALEDROP of a plane counts n tokens, and no other control register changes (R20). -/
def CountsStale (s t : State) (pk n : Nat) : Prop :=
  ∀ part k, k < 65536 → t.csr part k = if k = 0x20 + 4 * pkDie pk + pk % 4 ∧ (moduleCsr k = true ∨ part = s.partOfDie (pkDie pk))
    then s.csr part k + BitVec.ofNat 64 n else s.csr part k

/-- A token is lost for want of room: its frame is marked and the plane is frozen (R351). -/
def Lost (s t : State) (pk f : Nat) : Prop :=
  (t.plane pk).frozen = true ∧ (t.plane pk).discarded = (s.plane pk).discarded + 1 ∧
  ∀ fr, (s.plane pk).frames.find f = some fr → (t.plane pk).frames.find f = some { fr with lost := true }

/-- The element at which a token's parity fails: its destination, or on a route one that its hops may cross (R16, R28). -/
def Receives (x : Flight) (e : Nat) : Prop :=
  let a := x.src / 256 % 4096
  let between (p q r : Nat) : Prop := min p q ≤ r ∧ r ≤ max p q
  e = x.elem ∨ (x.src / 2 ^ 20 = x.plane ∧ x.src % 256 ≠ 0 ∧ e ≠ a ∧ e < 4096 ∧
    between (a % 64) (x.elem % 64) (e % 64) ∧ between (a / 64) (x.elem / 64) (e / 64))

/-- The value of a token. -/
def valueOf (x : Flight) : Operand := ⟨x.pay, BitVec.ofNat 16 x.tag.toNat, BitVec.ofNat 4 (tagKind x.tag)⟩

/-- Slot groups of an element are all bound (R17). -/
def Full (p : Plane) (e : Nat) : Prop := 384 / p.f ≤ (p.groups.filter (fun g => g.1 = e)).length

/-- The entry that has lain longest in an element's buffer, with its plane (R37). -/
def Oldest (s : State) (d e k : Nat) (o : Waiting) : Prop :=
  (k, o) ∈ s.bufferOf d e ∧ o.arr < s.arrivals ∧ ∀ z ∈ s.bufferOf d e, z = (k, o) ∨ o.arr < z.2.arr

/-- The first spilled token of an element. -/
def FirstSpilled (l : List Waiting) (e : Nat) (o : Waiting) : Prop :=
  ∃ pre suf, l = pre ++ o :: suf ∧ o.elem = e ∧ o.mem = true ∧ ∀ y ∈ pre, ¬(y.elem = e ∧ y.mem = true)

/-- A plane with a waiting token in its slot. -/
def InSlot (p : Plane) (o : Waiting) : Plane :=
  let k := slotKey (tagNode o.tag) (tagFrame o.tag) (tagPort o.tag) o.elem
  { p with
    slots := p.slots.put k ⟨o.pay, BitVec.ofNat 16 o.tag.toNat, BitVec.ofNat 4 (tagKind o.tag)⟩, slotAt := p.slotAt.put k o.arr
    ovf := p.ovf.filter (fun w => w ≠ o) }

/-- The element and its neighbours in the region have been quiet (R245). -/
def Quiet (p : Plane) (pk e : Nat) : Prop :=
  (p.quiet.find e).map Prod.fst = some true ∧
  ∀ x y, x < 8 * p.w → y < 8 * p.h → ((x : ℤ) - relX pk e).natAbs ≤ 1 → ((y : ℤ) - relY pk e).natAbs ≤ 1 → ¬(x = relX pk e ∧ y = relY pk e) →
    p.skip.contains (p.copyOf pk (elemAt pk x y)) = true ∨ (p.quiet.find (elemAt pk x y)).map Prod.snd = some true

/-- A node of the plane sends its TRIG token (R32). -/
def TrigOf (s : State) (pk e node frame gen : Nat) (f : Flight) : Prop :=
  f.plane = pk ∧ f.elem = e ∧ f.due = s.fc ∧ f.pay = 0#512 ∧ f.par = parityOf f.pay f.tag ∧ f.tag.toNat / 2 ^ 40 = pk % 4 ∧
  tagFrame f.tag = frame % 1024 ∧ tagGen f.tag = gen % 8 ∧ tagNode f.tag = node % 32 ∧ tagPort f.tag = 0 ∧ tagKind f.tag = 2 ∧
  tagMask f.tag = 0xFFFF#16

/-- A draw has run past the allowance of its block (R280). -/
def Overdue (s : State) (pk : Nat) : Prop :=
  let a := s.eff (s.plane pk).ctx (s.plane pk).cbix 6 191 160
  s.planes.has pk = true ∧ a ≠ 0 ∧ ∃ t, (s.plane pk).iter = some t ∧ t.draw = true ∧ t.complete = false ∧
    (t.running = true ∨ ∃ f ∈ (s.plane pk).frames, f.2.src ≠ .spawn) ∧ t.start + a ≤ s.timer

/-- What a frame has issued is performed, and its part has ended everywhere (R32, R94). -/
def Over (s : State) (pk f : Nat) (fr : Frame) : Prop :=
  fr.parked = false ∧ (∀ c ∈ (s.plane pk).copies, c ∈ fr.ended) ∧
  (∀ q ∈ s.reqs, q.2.plane = pk → q.2.frame = f → q.2.gen = fr.gen → q.2.opc = 0x97 ∨ q.2.opc = 0xB3 ∨ q.2.opc = 0xB5) ∧
  (∀ x ∈ s.sends, ∀ e n, x.2.iss.frame ≠ some (pk, e, n, f, fr.gen)) ∧
  (∀ k ∈ s.parking, ¬(k.plane = pk ∧ k.frame = f ∧ k.gen = fr.gen))

/-- A lane of a shift has come (R240). -/
def Present (p : Plane) (h : Shift) (i : Nat) (v : BitVec 32) : Prop :=
  ∃ g ∈ p.groupsIn, g.here = true ∧ g.elem = h.elem ∧ g.node = h.node ∧ g.frame = h.frame ∧ g.gen = h.gen ∧ (i, v) ∈ g.lanes

end Sys2Proof.Claim

/-- R16, R18, R20, R24, R25, R28, R37, R245, R354: a token that arrives is dropped when it is stale, kept with a parked frame, and
else it fills its sticky port, its slot, a group newly bound, or the overflow buffer; a collision, or a parity failure, parks its
frame. Spilled tokens return. A quiet node sends its held result again. -/
def Obligations.TokensLandAtTheirNode : Prop :=
  (∀ (s : State) (i : Nat) (x : Flight), Arriving s i x → parityOf x.pay x.tag = x.par → tagKind x.tag < 12 →
    let p := s.plane x.plane; let e := x.elem; let f := tagFrame x.tag; let nd := tagNode x.tag; let pt := tagPort x.tag; let d := pkDie x.plane
    let key := slotKey nd f pt e; let w := p.word x.plane e nd
    ((∀ fr, p.frames.find f = some fr → fr.gen ≠ tagGen x.tag) →
      ∃ t, exec (.eTokenArrival i) s = .next t ∧
        t = { s with flights := s.flights.eraseIdx i, csrs := t.csrs, arrivals := s.arrivals + 1 } ∧ CountsStale s t x.plane 1) ∧
    ∀ fr, p.frames.find f = some fr → fr.gen = tagGen x.tag →
      (fr.parked = true → s.inMem x.plane < s.ovfCap x.plane → ArrivesAs s i x { p with frames := p.frames.put f { fr with withdrawn := fr.withdrawn ++ [(e, x.tag, x.pay)] } }) ∧
      (fr.parked = true → s.ovfCap x.plane ≤ s.inMem x.plane → ∃ t, exec (.eTokenArrival i) s = .next t ∧ Lost s t x.plane f) ∧
      (fr.parked = false →
        let sticky : Prop := (pt = 0 ∧ w.testBit 107 = true) ∨ (pt = 1 ∧ w.testBit 106 = true)
        (sticky → ArrivesAs s i x { p with sticky := p.sticky.put (64 * e + 2 * nd + pt) (valueOf x) }) ∧
        (¬sticky → (e, f) ∈ p.groups → p.slots.find key = none →
          ArrivesAs s i x { p with slots := p.slots.put key (valueOf x), slotAt := p.slotAt.put key s.arrivals }) ∧
        (¬sticky → (e, f) ∈ p.groups → p.slots.find key ≠ none → ∃ r, exec (.eTokenArrival i) s = .next
            { s with flights := s.flights.eraseIdx i, arrivals := s.arrivals + 1, parking := s.parking ++ [⟨x.plane, f, fr.gen, 0, r⟩] } ∧
          r.cause = 0x41 ∧ r.node = nd ∧ r.x = e % 64 ∧ r.y = e / 64 ∧ r.aux = x.pay.toNat % 2 ^ 64 ∧
          r.info = nd + 2 ^ 5 * pt + 2 ^ 7 * tagKind x.tag + 2 ^ 11 * (x.tag.toNat % 2 ^ 16)) ∧
        (¬sticky → (e, f) ∉ p.groups → ¬Full p e → p.slots.find key = none →
          ArrivesAs s i x { p with
            groups := p.groups ++ [(e, f)], slots := p.slots.put key (valueOf x), slotAt := p.slotAt.put key s.arrivals }) ∧
        (let w' : Waiting := ⟨e, x.tag, x.pay, false, s.arrivals⟩
         ¬sticky → (e, f) ∉ p.groups → Full p e →
          ((s.bufferOf d e).length < 64 → ArrivesAs s i x { p with ovf := p.ovf ++ [w'] }) ∧
          (64 ≤ (s.bufferOf d e).length → ∀ k o, Oldest s d e k o →
            (s.inMem k < s.ovfCap k → ∃ t, exec (.eTokenArrival i) s = .next t ∧
              t = { s with flights := s.flights.eraseIdx i, planes := t.planes, arrivals := s.arrivals + 1 } ∧
              ∀ j, t.plane j = { s.plane j with
                ovf := ((s.plane j).ovf ++ (if j = x.plane then [w'] else [])).map (fun y => if j = k ∧ y = o then { y with mem := true } else y) }) ∧
            (s.ovfCap k ≤ s.inMem k → ∃ t, exec (.eTokenArrival i) s = .next t ∧ Lost s t k (tagFrame o.tag)))))) ∧
  (∀ (s : State) (i : Nat) (x : Flight), s.flights[i]? = some x → x.due ≤ s.fc →
    (∀ j < i, ∀ y, s.flights[j]? = some y → y.src ≠ x.src) → s.planes.has x.plane = false → (∀ v ∈ s.saved, v.key ≠ x.plane) →
    ∃ t, exec (.eTokenArrival i) s = .next t ∧ t = { s with flights := s.flights.eraseIdx i, csrs := t.csrs } ∧ CountsStale s t x.plane 1) ∧
  (∀ (s : State) (i : Nat) (x : Flight), Arriving s i x →
    let d := (parityOf x.pay x.tag ^^^ x.par).toNat; let lanes := d % 2 ^ 16; let die := pkDie x.plane; let p := s.plane x.plane
    let tag : Prop := 2 ^ 16 ≤ d ∨ d = 0
    d ≠ 0 ∨ 12 ≤ tagKind x.tag → x.elem < 4096 → (∀ f fr, p.frames.find f = some fr → fr.parked = false) →
    ∃ t e, exec (.eTokenArrival i) s = .next t ∧ Receives x e ∧ (d = 0 → e = x.elem) ∧
      t = { s with flights := s.flights.eraseIdx i, csrs := t.csrs, units := t.units, planes := t.planes, parking := t.parking, draws := t.draws } ∧
      (∀ u, t.unit u = { s.unit u with tpend := (t.unit u).tpend }) ∧ OtherPlanes s t x.plane ∧
      t.plane x.plane = { p with frames := (t.plane x.plane).frames } ∧
      (let log := (t.csr (s.partOfDie die) (0x10 + die)).toNat; let old := (s.csr (s.partOfDie die) (0x10 + die)).toNat
       log / 2 ^ 48 = min 65535 (old / 2 ^ 48 + 1) ∧ log / 2 ^ 40 % 4 = x.plane % 4 ∧ (log.testBit 39 = true ↔ tag) ∧
       log / 2 ^ 33 % 64 = e % 64 ∧ log / 2 ^ 27 % 64 = e / 64 % 64 ∧ log / 2 ^ 11 % 2 ^ 16 = lanes ∧ log % 2 = 1 ∧
       (log.testBit 47 = true ∨ ∃ k < 16, let b := (t.csr (s.partOfDie die) (0x40 + 16 * die + k)).toNat
         b % 4 = 3 ∧ b / 2 ^ 10 % 64 = e % 64 ∧ b / 2 ^ 4 % 64 = e / 64 % 64)) ∧
      (∀ f fr, p.frames.find f = some fr →
        ((tag ∨ (f = tagFrame x.tag ∧ fr.gen = tagGen x.tag)) → (t.plane x.plane).frames.find f = some { fr with lost := true } ∧
          ∃ r, ⟨x.plane, f, fr.gen, 0, r⟩ ∈ t.parking ∧ r.cause = 0x40 ∧ r.lost = true ∧
            r.info = (if 2 ^ 16 ≤ d ∨ d = 0 then 1 else 0) + (if lanes = 0 then 0 else 2) + 4 * lanes) ∧
        (¬(tag ∨ (f = tagFrame x.tag ∧ fr.gen = tagGen x.tag)) → (t.plane x.plane).frames.find f = some fr))) ∧
  (∀ (s : State) (pk x y : Nat) (o : Waiting),
    let e := 64 * y + x; let p := s.plane pk; let mine := (e, tagFrame o.tag)
    let free : Prop := p.slots.find (slotKey (tagNode o.tag) (tagFrame o.tag) (tagPort o.tag) e) = none
    let room : Prop := (s.bufferOf (pkDie pk) e).length < 64
    FirstSpilled p.ovf e o →
    (Full p e → mine ∉ p.groups → room → (∀ w ∈ p.ovf, w.elem = e → w.mem = false → (e, tagFrame w.tag) ∉ p.groups) →
      ∃ u, exec (.eOverflowReturn pk x y) s = .next u ∧
        PlaneSet s u pk { p with ovf := p.ovf.map (fun w => if w = o then { w with mem := false } else w) }) ∧
    (Full p e → mine ∈ p.groups → free → p.ovf.filter (fun w => w.elem = e) = [o] →
      ∃ u, exec (.eOverflowReturn pk x y) s = .next u ∧ PlaneSet s u pk (InSlot p o)) ∧
    (¬Full p e → mine ∉ p.groups → free → room → p.ovf.filter (fun w => w.elem = e) = [o] →
      ∃ u, exec (.eOverflowReturn pk x y) s = .next u ∧ PlaneSet s u pk { InSlot p o with groups := p.groups ++ [mine] })) ∧
  (∀ (s : State) (a : Fire) (v : Vec) (m : Mask) (k : BitVec 4),
    let n := Decode.nodeBody ((s.plane s.site.plane).word s.site.plane s.site.elem s.site.node)
    s.ready n = some a → n.qs = true → Quiet (s.plane a.pk) a.pk a.e → (s.plane a.pk).held.find (32 * a.e + a.node) = some (v, m, k) →
    PassesOn .eQuietSkip s a (Both s a.pk a.e n a.f a.fr.gen ⟨v, m, k⟩))

/-- R17, R19, R21, R32, R34, R43, R101, R102, R164, R166, R280, R320: the iteration source draws one frame in an fc, while the free
list holds more than its reserve and fewer than its window are live, and sends TRIG to every ENTRY node; a frame retires with its
flags, its groups freed and its identifier held for 128 fc; an ITER completes with its last frame; an overdue draw resets its
context. -/
def Obligations.FramesAreDrawnAndRetire : Prop :=
  (∀ (s : State) (pk f : Nat) (it : IterSt) (rest : List Nat),
    let p := s.plane pk
    s.planes.has pk = true → p.iter = some it → p.state = .active → p.frozen = false → p.swap ≠ 2 → it.running = true → it.complete = false →
    it.next < it.n0 * it.n1 * it.n2 → it.drawn ≠ s.fc + 1 → p.minfr < (s.freeIds pk).length → p.sourceFrames < s.window p →
    s.freeIds pk = f :: rest →
    ∃ t l fr, exec (.eIterDraw pk) s = .next t ∧ t = { s with planes := t.planes, fresh := s.fresh + 1, flights := s.flights ++ l } ∧
      OtherPlanes s t pk ∧
      t.plane pk = { p with
        free := p.free.erase f, frames := (t.plane pk).frames, iter := some { it with next := it.next + 1, drawn := s.fc + 1 } } ∧
      Drawn s pk f it.next .iter it.horizon none fr ∧
      (∀ g, (t.plane pk).frames.find g = if g = f then some fr else p.frames.find g) ∧
      List.Forall₂ (fun x y => TrigOf s pk x.1 x.2.1 f fr.gen y) ((p.placed pk).filter (fun x => x.2.2 / 2 ^ 120 % 256 = 0x65)) l) ∧
  (∀ (s : State) (pk f : Nat) (fr : Frame), let p := s.plane pk
    let hit (r : Ray) : Bool := decide (r.plane = pk ∧ r.frame = f ∧ r.gen = fr.gen ∧ r.stage = .done)
    p.frames.find f = some fr → Over s pk f fr → (∀ x ∈ p.ovf, x.elem < 4096) →
    ∃ t r, exec (.eFrameRetire pk f) s = .next (if s.holdsLock pk f fr.gen then t.report r else t) ∧
      t = { s with
        planes := t.planes, keeps := t.keeps, tokens := t.tokens, farLocks := t.farLocks, kept := t.kept, reqs := t.reqs, rays := t.rays
        csrs := t.csrs, parking := t.parking } ∧ OtherPlanes s t pk ∧
      (s.holdsLock pk f fr.gen = false → t.tokens = s.tokens ∧ t.reqs = s.reqs ∧ t.farLocks = s.farLocks ∧ t.kept = s.kept) ∧
      t.rays = s.rays.filter (fun x => !hit x.2) ∧ CountsStale s t pk (s.rays.filter (fun x => hit x.2)).length ∧
      (p.ovf = [] → t.parking = s.parking) ∧
      r.cause = 0x23 ∧ r.frame = f ∧ r.gen = fr.gen ∧ r.itix = fr.itix ∧ r.ctx = p.ctx ∧ r.cbix = p.cbix ∧
      (∀ k, k ∈ t.keeps ↔ k ∈ s.keeps ∧ ¬(k.plane = pk ∧ k.frame = f ∧ k.gen = fr.gen)) ∧
      (let q := t.plane pk
       (∀ g, q.frames.find g = if g = f then none else p.frames.find g) ∧ (∀ g, q.gens.get g 0 = if g = f then (p.gens.get f 0 + 1) % 8 else p.gens.get g 0) ∧
       (∀ g, q.holds.find g = if g = f then some (s.fc + 128) else p.holds.find g) ∧ q.free = p.free ++ [f] ∧ q.flags = p.flags ||| fr.flags ∧
       (f, fr.gen) ∈ q.retired ∧ (∀ e, (e, f) ∉ q.groups) ∧ (∀ k, k / 2 ^ 14 % 1024 = f → q.slots.find k = none) ∧
       (∀ x ∈ q.ovf, tagFrame x.tag ≠ f) ∧
       q.state = (if p.state = .draining ∧ q.frames = [] then .loaded else p.state))) ∧
  (∀ (s : State) (pk : Nat) (it : IterSt), let p := s.plane pk
    p.iter = some it → it.complete = false → (it.running = false ∨ it.n0 * it.n1 * it.n2 ≤ it.next) →
    (∀ x ∈ p.frames, x.2.src = .spawn) → (∀ c ∈ s.contribs, c.2.plane ≠ pk) →
    ∃ t, exec (.eIterComplete pk) s = .next t ∧ t = { s with planes := t.planes, trig := t.trig, arms := t.arms } ∧ OtherPlanes s t pk ∧
      t.plane pk = { p with iter := some { it with running := false, complete := true } } ∧
      (∀ a, a ∈ t.trig ↔ a ∈ s.trig ∨ (a ∈ s.arms ∧ a.kind = .iter pk)) ∧ (∀ a, a ∈ t.arms ↔ a ∈ s.arms ∧ a.kind ≠ .iter pk)) ∧
  (∀ s : State, ∃ t, exec .eIdentifierHoldExpiry s = .next t ∧ t = { s with planes := t.planes } ∧
    ∀ k, t.planes.find k = (s.planes.find k).map (fun p => { p with holds := p.holds.filter (fun x => s.fc < x.2) })) ∧
  (∀ s : State, ∃ u : Nat → State, u 0 = s ∧ exec .eDrawWatchdog s = .next (u s.planes.length) ∧
    ∀ i k p, s.planes[i]? = some (k, p) →
      (Overdue (u i) k → ∃ r, u (i + 1) = ((u i).resetContext ((u i).plane k).ctx).report r ∧ r.cause = 0x44 ∧
        r.ctx = ((u i).plane k).ctx ∧ r.cbix = ((u i).plane k).cbix ∧ r.vplane = ((u i).plane k).vp) ∧
      (¬Overdue (u i) k → u (i + 1) = u i)) ∧
  (∀ (s : State) (c : Nat), let t := s.resetContext c
    (∀ k p, t.planes.find k = some p → p.ctx ≠ c) ∧ ∀ v ∈ t.saved, v.ctx ≠ c)

/-- R35, R228, R237, R240: under a splice an element sends WAVE once no frame and no token of the predecessor is left, and switches
once WAVE has come on every incoming route and no predecessor frame holds a group there; a shift completes with every lane it
awaits, for the end of the fc, and sends L; a barrier whose time has come sends every arrival's L. -/
def Obligations.SplicesShiftsAndBarriersComplete : Prop :=
  (∀ (s : State) (pk qk x y : Nat), let e := 64 * y + x; let p := s.plane pk
    p.pred = some qk → e ∈ p.elems pk → (∀ w ∈ p.waves, w.1 ≠ e) → (s.plane qk).frames = [] → (∀ f ∈ s.flights, f.plane ≠ qk) →
    ∃ t, exec (.eWaveSend pk x y) s = .next t ∧ PlaneSet s t pk { p with waves := p.waves ++ [(e, s.fc)] }) ∧
  (∀ (s : State) (pk qk x y : Nat), let e := 64 * y + x; let p := s.plane pk
    p.pred = some qk → e ∈ p.elems pk → e ∉ p.switched → (∀ g ∈ (s.plane qk).groups, g.1 ≠ e) →
    (∀ r ∈ (s.plane qk).routesInto qk e, ∃ w ∈ p.waves, w.1 = r.1 ∧ w.2 + r.2 ≤ s.fc) →
    ∃ t, exec (.eElementSwitch pk x y) s = .next t ∧ PlaneSet s t pk
      (if (∀ z ∈ p.elems pk, z ∈ p.switched ∨ z = e) ∧ ∀ c ∈ s.contribs, c.2.plane ≠ qk then { p with pred := none, switched := [], waves := [] }
       else { p with switched := p.switched ++ [e] })) ∧
  (∀ (s : State) (i pk j : Nat) (g : LaneGroup), let p := s.plane pk
    locateGroup s.planes i = some (pk, j) → p.groupsIn[j]? = some g → g.here = false → g.due ≤ s.fc →
    ((∃ fr, p.frames.find g.frame = some fr ∧ fr.gen = g.gen) → ∃ t, exec (.eShiftLaneArrival i) s = .next t ∧
      PlaneSet s t pk { p with groupsIn := p.groupsIn.set j { g with here := true } }) ∧
    ((∀ fr, p.frames.find g.frame = some fr → fr.gen ≠ g.gen) → ∃ t, exec (.eShiftLaneArrival i) s = .next t ∧
      t = { s with planes := t.planes, csrs := t.csrs } ∧ OtherPlanes s t pk ∧
      t.plane pk = { p with groupsIn := p.groupsIn.eraseIdx j } ∧ CountsStale s t pk 1)) ∧
  (∀ (s : State) (pk x y node frame : Nat) (h : Shift) (fr : Frame), let e := 64 * y + x; let p := s.plane pk
    let n := Decode.nodeBody (p.word pk e node); let (x0, y0, W, H) := p.lattice pk node e
    let mode := n.mod.toNat % 4; let ex := e % 64 - x0; let ey := e / 64 - y0
    let from_ (i : Nat) : Prop := ∃ gx gy wait, SourceOf mode W H (towards (n.seq.toNat % 8)) (4 * ex + i % 4) (4 * ey + i / 4) gx gy wait
    p.shifts.find? (fun h => h.elem = e && h.node = node && h.frame = frame) = some h → p.frames.find frame = some fr → fr.gen = h.gen →
    fr.parked = false → p.frozen = false → h.at_ < s.fc → ex < W → ey < H →
    (∀ i < 16, from_ i → ∃ v, Present p h i v ∧ ∀ w, Present p h i w → w = v) →
    ∃ t l V, exec (.eShiftComplete pk x y node frame) s = .next t ∧ t = { s with planes := t.planes, flights := s.flights ++ l } ∧
      OtherPlanes s t pk ∧
      t.plane pk = { p with
        shifts := p.shifts.erase h, groupsIn := (t.plane pk).groupsIn
        pendShift := p.pendShift ++ [(node, .wreg (32 * e + h.reg) V)] } ∧
      (∀ g, g ∈ (t.plane pk).groupsIn ↔ g ∈ p.groupsIn ∧
        ¬(g.here = true ∧ g.elem = e ∧ g.node = node ∧ g.frame = frame ∧ g.gen = h.gen)) ∧
      Both s pk e n frame fr.gen { h.l with kind := 0#4 } l ∧
      ∀ i < 16, (from_ i → Present p h i (BitVec.ofNat 32 (lane V i))) ∧
        (¬from_ i → lane V i = if mode = 3 then (match h.halo with
          | some r => if r.mask.getLsbD i then lane r.val i else 0
          | none => 0) else n.operand.toNat)) ∧
  (∀ s : State, let bs := s.planes.flatMap (fun x => x.2.bars.map (fun b => (x.1, b)))
    ∃ u : Nat → State, u 0 = s ∧ exec .eBarrierExit s = .next (u bs.length) ∧
      ∀ i pk b, bs[i]? = some (pk, b) →
        let p := (u i).plane pk
        let gone : Prop := p.swap = 2 ∨ (p.swap = 1 ∧ p.midDraw = false)
        (∀ fr t, p.frames.find b.frame = some fr → b.exit = some t → t ≤ s.fc → ¬gone →
          ∃ ls, u (i + 1) = { u i with planes := (u (i + 1)).planes, flights := (u i).flights ++ ls.flatten } ∧
            OtherPlanes (u i) (u (i + 1)) pk ∧
            (u (i + 1)).plane pk = { p with bars := p.bars.erase b, frames := ((u (i + 1)).plane pk).frames } ∧
            (∃ fr', fr' = { fr with agents := fr'.agents } ∧
              (∀ c, fr'.agent c = if ∃ x ∈ b.arrived, p.copyOf pk x.2.1 = c then (none, (fr.agent c).2) else fr.agent c) ∧
              ∀ g, ((u (i + 1)).plane pk).frames.find g = if g = b.frame then some fr' else p.frames.find g) ∧
            List.Forall₂ (fun x l => Both (u i) pk x.2.1 (Decode.nodeBody (p.word pk x.2.1 b.node)) b.frame fr.gen { x.2.2 with kind := 0#4 } l)
              b.arrived ls) ∧
        ((p.frames.find b.frame = none ∨ gone ∨ ∀ t, b.exit = some t → s.fc < t) → u (i + 1) = u i))

namespace Sys2Proof.Claim

open Sys2Proof Sys2Proof.Machine

/-! Events of memory ports, locks, watches and reductions. -/

/-- The firing that sent a request, as far as its operands and its place tell. -/
def firingOf (s : State) (q : Req) : Fire :=
  { pk := q.plane, e := q.elem, node := q.node, f := q.frame, p := s.plane q.plane, fr := newFrame q.gen 0 0 .iter none none, n := q.body,
    l := q.l, r := q.r, pr := q.p, rnd := ⟨0, 0#32, 0⟩ }

/-- The frame that sent a request lives, and the copy that it comes from. -/
def FrameLives (s : State) (q : Req) : Prop := ∃ fr, (s.plane q.plane).frames.find q.frame = some fr ∧ fr.gen = q.gen
def reqCopyOf (s : State) (q : Req) : Nat := (s.plane q.plane).copyOf q.plane q.elem

/-- The request is done: it leaves its port, its number is released while its frame lives, and its response, if there is one, is
sent (R215). `fs` says what becomes of the frames. -/
def Finishes (s t : State) (r : Nat) (q : Req) (v : Option Operand) (fs : Map Frame → Prop) : Prop :=
  ∃ l, t = { s with reqs := s.reqs.del r, planes := t.planes, flights := s.flights ++ l } ∧ OtherPlanes s t q.plane ∧
    t.plane q.plane = { s.plane q.plane with frames := (t.plane q.plane).frames, seqDone := (t.plane q.plane).seqDone } ∧
    fs (t.plane q.plane).frames ∧
    (let c := q.body.seq.toNat / 64
     (c = 0 ∨ ¬FrameLives s q → (t.plane q.plane).seqDone = (s.plane q.plane).seqDone) ∧
     (c ≠ 0 → FrameLives s q → (t.plane q.plane).seqDone =
       (s.plane q.plane).seqDone ++ [(2 * q.frame + (c - 1), reqCopyOf s q, q.body.seq.toNat % 64)])) ∧
    (v = none → l = []) ∧ (∀ o, v = some o → Both s q.plane q.elem q.body q.frame q.gen { o with kind := 5#4 } l)

/-- Of the frames of a request's plane only its own has changed, while it lives: the horizon and release generation of its agent in
the request's copy become `g` of what they were (R85, R103, R104). -/
def OwnFrame (s : State) (q : Req) (g : Horizon × Nat → Horizon × Nat) (m : Map Frame) : Prop :=
  (∀ f, f ≠ q.frame → m.find f = (s.plane q.plane).frames.find f) ∧ (¬FrameLives s q → m = (s.plane q.plane).frames) ∧
  ∀ fr, (s.plane q.plane).frames.find q.frame = some fr → fr.gen = q.gen → ∃ x, m.find q.frame = some x ∧
    x = { fr with agents := x.agents } ∧ x.agent (reqCopyOf s q) = g (fr.agent (reqCopyOf s q)) ∧ ∀ c, c ≠ reqCopyOf s q → x.agent c = fr.agent c

/-- No frame has changed. -/
def SameFrames (s : State) (q : Req) (m : Map Frame) : Prop := m = (s.plane q.plane).frames

/-- The request is held at its port, and its frame is parked (R216, R344); of a frame that is gone, both are dropped (R353). -/
def RequestFaults (s t : State) (r : Nat) (q : Req) (cause addr info aux lanes : Nat) : Prop :=
  (¬FrameLives s q → t = { s with reqs := s.reqs.del r }) ∧
  (FrameLives s q → ∃ f, t = { s with
      reqs := s.reqs.put r { q with stage := .held }, parking := s.parking ++ [⟨q.plane, q.frame, q.gen, 1 + q.port % 128, f⟩] } ∧
    f.cause = cause ∧ f.addr = addr ∧ f.info = info ∧ f.aux = aux ∧ f.done = lanes ∧ f.node = q.node ∧ f.frame = q.frame ∧ f.gen = q.gen ∧
    f.x = q.elem % 64 ∧ f.y = q.elem / 64 ∧ f.seq = q.body.seq.toNat % 64 ∧ f.chain = q.body.seq.toNat / 64 ∧
    f.ctx = (s.plane q.plane).ctx ∧ f.cbix = (s.plane q.plane).cbix)

/-- Elements of a request of scalar data, in ascending order (R212, R223): which are live, where, and with what data. CAS takes pairs:
its expected values and its new ones. -/
def ScalarElements (s : State) (q : Req) (data pairs : Bool) (l : List Elt) : Prop :=
  let a := firingOf s q; let e := elements a true; let b := NodeCheck.width q.body.fmt.toNat
  (l.map Elt.j).Pairwise (· < ·) ∧
  (∀ j, j ∈ l.map Elt.j ↔ j < e ∧ LiveRequest a data (requestLanes a j) (dataWords a e j) ∧
    (pairs = true → j % 2 = 0 ∧ ∀ i ∈ dataWords a e (j + 1), q.r.mask.getLsbD i = true)) ∧
  ∀ x ∈ l, x.w = b ∧ RequestAddress a x.j x.raw ∧ x.loc.sp = decide (q.body.operand.toNat / 2 ^ 30 = 1) ∧ x.loc.bitn = 0 ∧
    x.loc.at_ = (if x.raw < (if q.body.operand.toNat / 2 ^ 30 = 0 then 2 ^ 57 else 2 ^ 24) then some x.raw else none) ∧
    (pairs = false → x.val = dataOf a e x.j) ∧ (pairs = true → x.exp = dataOf a e x.j ∧ x.val = dataOf a e (x.j + 1))

/-- Elements of LDV and STV: lane words at 4-byte steps from element 0's address (R218). -/
def VectorElements (s : State) (q : Req) (data : Bool) (l : List Elt) : Prop :=
  let a := firingOf s q
  (¬(∀ i ∈ requestLanes a 0, q.l.mask.getLsbD i = true) → l = []) ∧
  ((∀ i ∈ requestLanes a 0, q.l.mask.getLsbD i = true) → (l.map Elt.j).Pairwise (· < ·) ∧
    (∀ i, i ∈ l.map Elt.j ↔ i < 16 ∧ (data = true → q.r.mask.getLsbD i = true)) ∧
    ∃ va, RequestAddress a 0 va ∧ ∀ x ∈ l, x.w = 32 ∧ x.raw = va + 4 * x.j ∧ x.loc.sp = decide (q.body.operand.toNat / 2 ^ 30 = 1) ∧
      x.loc.bitn = 0 ∧ x.val = lane q.r.val x.j ∧
      x.loc.at_ = (if va < (if q.body.operand.toNat / 2 ^ 30 = 0 then 2 ^ 57 else 2 ^ 24) then some (va + 4 * x.j) else none))

/-- One element is performed, as its node says (R215, R218, R223, R255, R272): what was read, and the state after. -/
def ElementDone (s : State) (q : Req) (x : Elt) (t : State) (old : Nat) : Prop :=
  let plain : Acc := {}
  let rmw : Acc := { wr := true, atomic := true, acq := true, rel := true, scope := q.body.mod.toNat }
  let go (k : Acc) (upd : Nat → Option Nat) : Prop := s.portAccess q.tlb (s.reqIss q) x.loc.sp (x.loc.at_.getD 0) (x.w / 8) k upd = (t, .ok old)
  let part (a b : State) (k : Acc) (upd : Nat → Option Nat) (m : Nat) : Prop :=
    a.portAccess q.tlb (s.reqIss q) x.loc.sp (x.loc.at_.getD 0) 1 k upd = (b, .ok m)
  (8 ≤ x.w ∧ x.loc.bitn = 0 ∧ old < 2 ^ x.w ∧
    (q.opc = 0x80 ∨ q.opc = 0x82 ∨ q.opc = 0x89 → go plain (fun _ => none)) ∧
    (q.opc = 0x81 ∨ q.opc = 0x83 ∨ q.opc = 0x8A → go { wr := true } (fun _ => some x.val)) ∧
    (q.opc = 0x93 → go rmw (fun m => some (if m = x.exp then x.val else m))) ∧
    (q.opc = 0x94 → go rmw (fun _ => some x.val)) ∧ (q.opc = 0xB2 → go rmw (fun m => some (min m x.val)))) ∨
  -- a tensor's element of less than a byte lies in one byte, whose other bits stay
  (x.w < 8 ∧ q.opc = 0x89 ∧ ∃ m, part s t plain (fun _ => none) m ∧ old = m / 2 ^ x.loc.bitn % 2 ^ x.w) ∨
  (x.w < 8 ∧ q.opc = 0x8A ∧ ∃ a m, part s a plain (fun _ => none) m ∧ part a t { wr := true } (fun _ =>
    some (m - m / 2 ^ x.loc.bitn % 2 ^ x.w * 2 ^ x.loc.bitn + x.val % 2 ^ x.w * 2 ^ x.loc.bitn)) old)

/-- One element is served: at its home in this module; at another module's, whose response is there in time; or by what that one has
kept of an earlier attempt (R107, R108). -/
def ElementServed (s : State) (r : Nat) (q : Req) (x : Elt) (t : State) (old : Nat) : Prop :=
  let kept := s.late.find? (fun y => y.req = r && y.elt = x.j && !y.waits)
  (s.eltFar q x = false ∧ ElementDone s q x t old) ∨
  (s.eltFar q x = true ∧ kept = none ∧ ∃ s0, s.farResponse = (0, s0) ∧ ElementDone s0 q x t old) ∨
  (s.eltFar q x = true ∧ ∃ y, kept = some y ∧ t = { s with late := s.late.erase y } ∧ old = y.val.getD 0)

/-- Two lane words of an STV that make one aligned word of 8 bytes are stored as that word (R365). -/
def Paired : List Elt → List Elt → Prop
  | l, [] => l = []
  | l, w :: ws =>
    (∃ x y m, l = x :: y :: m ∧ x.loc.at_.getD 1 % 8 = 0 ∧ y.j = x.j + 1 ∧
      w = { x with lanes := x.lanes ++ y.lanes, w := 64, val := x.val + 2 ^ 32 * y.val } ∧ Paired m ws) ∨
    (∃ m, l = w :: m ∧ (∀ y n, m = y :: n → ¬(w.loc.at_.getD 1 % 8 = 0 ∧ y.j = w.j + 1)) ∧ Paired m ws)

/-- What a port performs of a request's elements, once all are checked: of an STT those whose lane word is live (R255). -/
def Performs (q : Req) (l m : List Elt) : Prop :=
  (q.opc ≠ 0x83 → q.opc ≠ 0x8A → m = l) ∧ (q.opc = 0x8A → m = l.filter (fun x => q.r.mask.getLsbD (x.w * x.j / 32))) ∧
  (q.opc = 0x83 → Paired l m)

/-- What becomes of a lock's request at its home: at once there in this module, or in another one in time (R107, R108). -/
def HomeAnswers (s : State) (pa : Nat) (t : State) : Prop :=
  ((∀ m, target pa ≠ .remote m) ∧ t = s) ∨ ((∃ m, target pa = .remote m) ∧ s.farResponse = (0, t))

/-- The response of LD, XCHG, VBUF and CAS: what was read, unpacked, with the mask of the live elements; CAS says beside each old value
whether it was the expected one. -/
def ScalarAnswer (q : Req) (l : List Elt) (old : Nat → Nat) (v : Operand) : Prop :=
  let b := NodeCheck.width q.body.fmt.toNat; let e := if b = 64 ∨ q.body.operand.toNat / 2 ^ 30 = 0 then 8 else 16
  let words (j : Nat) : List Nat := if b = 64 then [2 * j, 2 * j + 1] else [elemWord e j]
  let holds (j x : Nat) : Prop := (b = 64 → elem v.val 64 j = x) ∧ (b < 64 → Unpacked q.body.fmt.toNat x (lane v.val (elemWord e j)))
  let on (j : Nat) (b : Prop) : Prop := ∀ i ∈ words j, (v.mask.getLsbD i = true ↔ b)
  v.kind = 0#4 ∧
  (q.opc ≠ 0x93 → ∀ j < e, on j (j ∈ l.map Elt.j) ∧ ∀ i x, l[i]? = some x → x.j = j → holds j (old i)) ∧
  (q.opc = 0x93 → ∀ k, 2 * k + 1 < e → on (2 * k) (2 * k ∈ l.map Elt.j) ∧ on (2 * k + 1) (2 * k ∈ l.map Elt.j) ∧
    ∀ i x, l[i]? = some x → x.j = 2 * k → holds (2 * k) (old i) ∧ holds (2 * k + 1) (if old i = x.exp then 2 ^ b - 1 else 0))

/-- The request stands in a port's queue and its turn has come, with its frame live there (R35, R93, R95). -/
def Turn (s : State) (r : Nat) (q : Req) (opc : Nat) : Prop := s.reqs.find r = some q ∧ s.mayIssue r q = true ∧ q.opc = opc

/-- The lowest live element of a LOCK or an UNLOCK (R224). -/
def LowestLive (s : State) (q : Req) (j : Nat) : Prop :=
  let a := firingOf s q
  let live (j : Nat) : Prop := j < elements a true ∧ LiveRequest a false (requestLanes a j) []
  live j ∧ ∀ k < j, ¬live k

/-- A contribution stands where its tree has taken it: a plain one on its way to the sole writer, an ordered one in its window
(R225 to R227). -/
def PlacedAs (s t : State) (id : Nat) (c : Contrib) : Prop :=
  ∃ c', t = { s with contribs := s.contribs.put id c', windows := t.windows, fresh := s.fresh + 1 } ∧ c'.arr = s.fresh ∧
    (c.ord = false → c' = { c with accepted := true, ready := true, at_ := none, arr := s.fresh } ∧ t.windows = s.windows) ∧
    (c.ord = true → c' = { c with accepted := true, arr := s.fresh } ∧
      ((∃ w ∈ s.windows, w.2 = c.window) → t.windows = s.windows) ∧
      ((∀ w ∈ s.windows, w.2 ≠ c.window) → t.windows = s.windows.put s.fresh c.window))

end Sys2Proof.Claim

/-- R93, R99, R102, R104, R212, R215 to R218, R221 to R224, R272: memory ports. A port queues a request, and performs it in its turn:
each live element in ascending order, and then the response; a check that fails holds it and parks its frame. FENCE is an acquire and
a release; LOCK takes its token or waits for it, UNLOCK returns it; WAITW waits until the word holds its value. -/
def Obligations.MemoryPortsServeRequests : Prop :=
  (∀ (s : State) (r : Nat) (q : Req), s.reqs.find r = some q → q.stage = .sent → q.opc ≠ 0xB3 → q.opc ≠ 0xB5 →
    (∀ k x, (k, x) ∈ s.reqs → k < r → x.stage = .sent → x.opc ≠ 0xB3 → x.opc ≠ 0xB5 → x.port = q.port → x.elem = q.elem →
      pkDie x.plane ≠ pkDie q.plane) →
    exec (.eMemoryRequestAccept r) s = .next { s with reqs := s.reqs.put r { q with stage := .queued, ord := s.fresh }, fresh := s.fresh + 1 }) ∧
  (∀ (s : State) (q : Req), q.body.operand.toNat < 2 ^ 31 →
    (q.opc = 0x80 → ∃ l, s.elts q = .ok l ∧ ScalarElements s q false false l) ∧
    (q.opc = 0x81 ∨ q.opc = 0x94 ∨ q.opc = 0xB2 → ∃ l, s.elts q = .ok l ∧ ScalarElements s q true false l) ∧
    (q.opc = 0x93 → ∃ l, s.elts q = .ok l ∧ ScalarElements s q true true l) ∧
    (q.opc = 0x82 → ∃ l, s.elts q = .ok l ∧ VectorElements s q false l) ∧ (q.opc = 0x83 → ∃ l, s.elts q = .ok l ∧ VectorElements s q true l)) ∧
  (∀ (s s1 : State) (r : Nat) (q : Req) (opc : Nat) (l m : List Elt) (u : Nat → State) (old : Nat → Nat),
    opc ∈ [0x80, 0x81, 0x82, 0x83, 0x89, 0x8A, 0x93, 0x94, 0xB2] → Turn s r q opc → q.done = 0 → q.got = [] → s.elts q = .ok l →
    (l.map Elt.j).Nodup → s.checkElts q l = (s1, none) → Performs q l m → u 0 = s1 →
    (∀ i x, m[i]? = some x → ElementServed (u i) r q x (u (i + 1)) (old i)) →
    ∃ t v, exec (.eMemoryAccessPerform r) s = .next t.wakeReqs ∧ Finishes (u m.length) t r q v (SameFrames (u m.length) q) ∧
      (opc = 0x81 ∨ opc = 0x83 ∨ opc = 0x8A → v = none) ∧
      (opc = 0x80 ∨ opc = 0x93 ∨ opc = 0x94 ∨ opc = 0xB2 → 8 ≤ NodeCheck.width q.body.fmt.toNat → ∃ o, v = some o ∧ ScalarAnswer q l old o) ∧
      (opc = 0x82 → ∃ o, v = some o ∧ (o.mask = if l = [] then 0#16 else 0xFFFF#16) ∧ ∀ i x, l[i]? = some x → x.j < 16 → lane o.val x.j = old i % 2 ^ 32) ∧
      (opc = 0x89 → ∃ o, v = some o ∧ (∀ i < 16, o.mask.getLsbD i = true ↔ ∃ x ∈ l, i ∈ x.lanes) ∧
        ∀ i x, l[i]? = some x → x.j < 512 / x.w → x.w = tidWidth ((u m.length).reqTid q) → elem o.val x.w x.j = old i)) ∧
  (∀ (s s1 : State) (r : Nat) (q : Req) (opc : Nat) (l : List Elt) (e : Err) (addr : Nat),
    opc ∈ [0x80, 0x81, 0x82, 0x83, 0x89, 0x8A, 0x93, 0x94, 0xB2] → Turn s r q opc → q.done = 0 → s.elts q = .ok l → s.checkElts q l = (s1, some (e, addr)) →
    ∃ t, exec (.eMemoryAccessPerform r) s = .next t.wakeReqs ∧ RequestFaults s1 t r q e.cause addr e.info e.aux 0) ∧
  -- the response of another module is not there: it is waited for
  (∀ (s s1 s2 : State) (r : Nat) (q : Req) (opc : Nat) (l m : List Elt) (x : Elt), opc ∈ [0x80, 0x81, 0x82, 0x83, 0x89, 0x8A, 0x93, 0x94, 0xB2] →
    Turn s r q opc → q.done = 0 → s.elts q = .ok l → s.checkElts q l = (s1, none) → Performs q l (x :: m) → s1.eltFar q x = true →
    (∀ y ∈ s1.late, ¬(y.req = r ∧ y.elt = x.j)) → s1.farResponse = (1, s2) →
    exec (.eMemoryAccessPerform r) s = .next ({ s2 with
      late := s2.late ++ [(⟨r, x.j, none, s2.reqDue r, true⟩ : Late)], reqs := s2.reqs.put r q }).wakeReqs) ∧
  (∀ (s : State) (r : Nat) (q : Req) (c : Nat), Turn s r q 0x89 ∨ Turn s r q 0x8A →
    (c = 0x28 ∧ (s.reqTid q).testBit 79 = false) ∨ (c = 0x29 ∧ (s.reqTid q).testBit 79 = true ∧ tidSp24 (s.reqTid q) = true) →
    ∃ t, exec (.eMemoryAccessPerform r) s = .next t.wakeReqs ∧ RequestFaults s t r q c 0 0 0 0) ∧
  (∀ (s : State) (r : Nat) (q : Req),
    (Turn s r q 0x86 → ∃ t, exec (.eMemoryAccessPerform r) s = .next t.wakeReqs ∧ Finishes s t r q none (SameFrames s q)) ∧
    (Turn s r q 0x95 → ∃ t, exec (.eMemoryAccessPerform r) s = .next t.wakeReqs ∧
      Finishes s t r q (some q.l) (OwnFrame s q (fun a => (none, (a.2 + 1) % 2 ^ 32)))) ∧
    (Turn s r q 0x90 ∨ Turn s r q 0xB4 → (∀ c ∈ s.contribs, c.2.req = r → c.2.accepted = true) →
      ∃ t, exec (.eMemoryAccessPerform r) s = .next t.wakeReqs ∧ Finishes s t r q none (SameFrames s q)) ∧
    (Turn s r q 0x91 → (∀ j, ¬LowestLive s q j) →
      ∃ t, exec (.eMemoryAccessPerform r) s = .next t.wakeReqs ∧ Finishes s t r q (some q.l) (SameFrames s q)) ∧
    (Turn s r q 0x92 → (∀ j, ¬LowestLive s q j) → ∃ t, exec (.eMemoryAccessPerform r) s = .next t.wakeReqs ∧
      Finishes { s with late := s.late.filter (fun x => x.req ≠ r) } t r q (some q.l) (SameFrames s q))) ∧
  (∀ (s s1 s2 : State) (r : Nat) (q : Req) (j pa k : Nat) (w : Bool), LowestLive s q j → s.lockPlace q j = (s1, .ok (pa, w)) → lockToken pa = some k →
    HomeAnswers s1 pa s2 → (∀ y ∈ s.late, y.req ≠ r) → s1.late = s.late →
    (Turn s r q 0x91 → s1.tokens.find k = none → exec (.eMemoryAccessPerform r) s = .next ({ s2 with
      tokens := s2.tokens.put k ⟨some (q.plane, q.frame, q.gen), []⟩, reqs := s2.reqs.put r { q with stage := .done } }).wakeReqs) ∧
    (∀ x, Turn s r q 0x91 → s1.tokens.find k = some x → x.holder ≠ some (q.plane, q.frame, q.gen) → x.holder ≠ none → r ∉ x.fifo →
      exec (.eMemoryAccessPerform r) s = .next ({ s2 with
        tokens := s2.tokens.put k { x with fifo := x.fifo ++ [r] }
        reqs := s2.reqs.put r { q with stage := .waiting, at_ := s2.reqDue r } }).wakeReqs) ∧
    (∀ x, Turn s r q 0x91 → s1.tokens.find k = some x → x.holder = some (q.plane, q.frame, q.gen) →
      ∃ t, exec (.eMemoryAccessPerform r) s = .next t.wakeReqs ∧ RequestFaults s1 t r q 0x21 0 0 0 0) ∧
    (Turn s r q 0x92 → (∀ x, s1.tokens.find k = some x → x.holder ≠ some (q.plane, q.frame, q.gen)) →
      ∃ t, exec (.eMemoryAccessPerform r) s = .next t.wakeReqs ∧ RequestFaults s1 t r q 0x22 0 0 0 0) ∧
    (∀ x rest, Turn s r q 0x92 → w = false → s1.tokens.find k = some x → x.holder = some (q.plane, q.frame, q.gen) →
      let own : Horizon × Nat → Horizon × Nat := fun a => (a.1, (a.2 + 1) % 2 ^ 32)
      (x.fifo = [] → ∃ t, exec (.eMemoryAccessPerform r) s = .next t.wakeReqs ∧
        Finishes { s2 with tokens := s2.tokens.del k } t r q (some q.l) (OwnFrame s2 q own)) ∧
      (∀ r' q', x.fifo = r' :: rest → s2.reqs.find r' = some q' → q'.stage ≠ .held → ∃ t, exec (.eMemoryAccessPerform r) s = .next t.wakeReqs ∧
        Finishes { s2 with tokens := s2.tokens.put k ⟨some (q'.plane, q'.frame, q'.gen), rest⟩, reqs := s2.reqs.put r' { q' with stage := .done } }
          t r q (some q.l) (OwnFrame s2 q own)))) ∧
  (∀ (s : State) (r : Nat) (q : Req), Turn s r q 0x88 →
    ((∀ i < 16, q.l.mask.getLsbD i = false) → ∃ t, exec (.eWatchAdmission r) s = .next t ∧ Finishes s t r q (some q.l) (SameFrames s q)) ∧
    ∀ i < 16, q.l.mask.getLsbD i = true → (∀ j < i, q.l.mask.getLsbD j = false) →
      let off := lane q.l.val i; let die := pkDie q.plane; let pa := spAddr die off; let bank (x : Nat) : Nat := 64 * die + x / 8 % 64
      (off % 4 ≠ 0 → ∃ t, exec (.eWatchAdmission r) s = .next t ∧ RequestFaults s t r q 0x04 off 0 0 0) ∧
      (off % 4 = 0 → 2 ^ 24 ≤ off → ∃ t, exec (.eWatchAdmission r) s = .next t ∧ RequestFaults s t r q 0x05 off 0 0 0) ∧
      (off % 4 = 0 → off < 2 ^ 24 →
        (s.reqs.filter (fun x => x.2.opc = 0x88 && x.2.stage = .waiting && pkDie x.2.plane = die && bank x.2.done = bank pa)).length < 64 →
        (∀ x ∈ s.reqs, x.1 ≠ r → x.2.opc = 0x88 → s.mayIssue x.1 x.2 = true → q.ord ≤ x.2.ord) →
        (s.natAt 0 pa 4 = q.body.operand.toNat →
          exec (.eWatchAdmission r) s = .next ({ s with reqs := s.reqs.put r { q with stage := .done, done := pa } }).wakeReqs) ∧
        (s.natAt 0 pa 4 ≠ q.body.operand.toNat →
          exec (.eWatchAdmission r) s = .next { s with reqs := s.reqs.put r { q with stage := .waiting, done := pa } }))) ∧
  (∀ s : State, let rs := s.reqs.filter (fun x => x.2.stage = .done && s.planes.has x.2.plane && !(s.plane x.2.plane).leaving)
    ∃ u : Nat → State, u 0 = s ∧ s.wakeReqs = u rs.length ∧ ∀ i r q, rs[i]? = some (r, q) →
      (q.opc = 0x88 → Finishes (u i) (u (i + 1)) r q (some q.l) (OwnFrame (u i) q (fun a => (match (u i).landed.find q.done with
          | some (k, n) => mergeHorizon a.1 (some [(2 ^ 35 + k, n)])
          | none => none, a.2)))) ∧
      (q.opc = 0x97 → Finishes (u i) (u (i + 1)) r q (some q.l) (OwnFrame (u i) q (fun a =>
        (mergeHorizon a.1 (some [(2 ^ 35 + (u i).tlwKey q, q.done)]), a.2)))) ∧
      (q.opc = 0x91 → ∀ j pa s', LowestLive (u i) q j → (u i).lockPlace q j = (s', .ok (pa, false)) →
        Finishes s' (u (i + 1)) r q (some q.l) (OwnFrame s' q (fun a => (none, a.2)))))

/-- R66, R101, R108, R225 to R227, R303, R327, R374: time-outs, page walks and reductions. A contribution that passes the root's check
is accepted, and with the last its request is performed; a window that closes sums its contributions in ascending key, and passes the
sum on; the sole writer applies one ⊕ to memory at a time. -/
def Obligations.TimeoutsWalksAndReductions : Prop :=
  (∀ (s : State) (r : Nat) (q : Req), s.reqs.find r = some q → s.planes.has q.plane = true →
    let keep (x : Late) : List Late := if x.val.isSome then [{ x with at_ := s.reqDue r, waits := false }] else []
    (∀ x y l m, s.late.find? (fun x => x.req = r && x.waits) = some x → x.at_ ≤ s.fc → s.elts q = .ok l →
      l.find? (fun y => y.j = x.elt) = some y → Performs q l m →
      ∃ t, exec (.eMemTimeoutExpiry r) s = .next t ∧
        RequestFaults { s with late := s.late.erase x ++ keep x } t r q 0x0E y.raw 0 0 (doneLanes q m)) ∧
    (∀ j, s.late.find? (fun x => x.req = r && x.waits) = none → q.opc = 0x91 → q.stage = .waiting → LowestLive s q j →
      (∃ pa w m, (s.lockPlace q j).2 = .ok (pa, w) ∧ target pa = .remote m) → q.at_ ≤ s.fc →
      ∃ t va, exec (.eMemTimeoutExpiry r) s = .next t ∧ RequestAddress (firingOf s q) j va ∧
        RequestFaults { s with late := s.late ++ [⟨r, 0, some 0, s.reqDue r, false⟩] } t r q 0x0E va 0 0 0)) ∧
  (∀ (s : State) (r : Nat) (x : Send) (pk e n f g : Nat) (fr : Frame), s.reqs.find r = none → s.sends.find r = some x → x.held = false →
    convKey x.handle.toNat = none → x.due ≤ s.fc → x.iss.frame = some (pk, e, n, f, g) →
    (s.plane pk).frames.find f = some fr → fr.gen = g →
    ∃ rec0, exec (.eMemTimeoutExpiry r) s = .next { s with
        sends := s.sends.put r { x with held := true }, parking := s.parking ++ [⟨pk, f, fr.gen, 0, rec0⟩] } ∧ rec0.cause = 0x0E ∧ rec0.node = n) ∧
  (∀ s : State, ∃ t, exec .eKeptResponseExpiry s = .next t ∧ t = { s with kept := t.kept, late := t.late } ∧
    (∀ x, x ∈ t.kept ↔ x ∈ s.kept ∧ s.fc < x.2.at_) ∧
    ∀ x, x ∈ t.late ↔ x ∈ s.late ∧ s.reqs.find x.req ≠ none ∧ (x.waits = true ∨ s.fc < x.at_)) ∧
  (∀ (s s1 : State) (tlb ctx : Nat) (va : BitVec 64) (wr fe priv : Bool) (tr : Tr), s.translate tlb (tlbDie tlb) ctx va.toNat wr fe priv = (s1, .ok tr) →
    exec (.ePageWalk tlb ctx va wr fe priv) s = .next s1) ∧
  (∀ (s s1 : State) (c : Nat) (x : Contrib) (q : Req), s.contribs.find c = some x → s.reqs.find x.req = some q → s.mayIssue x.req q = true → x.accepted = false →
    (s.rootCheck q x = (s1, none) → ∃ t v, exec (.eReductionAccept c) s = .next v ∧ PlacedAs s1 t c x ∧
      ((∃ d ∈ t.contribs, d.2.req = x.req ∧ d.2.accepted = false) → v = t) ∧
      ((∀ d ∈ t.contribs, d.2.req = x.req → d.2.accepted = true) → Finishes t v x.req q none (SameFrames t q))) ∧
    (∀ e, s.rootCheck q x = (s1, some e) → ∃ t, exec (.eReductionAccept c) s = .next t ∧ RequestFaults s1 t x.req q e.cause x.va e.info e.aux 0) ∧
    (let n := NodeCheck.width x.fmt / 8; let top := if x.sp then 2 ^ 24 else 2 ^ 57
     (x.va % n ≠ 0 → s.rootCheck q x = (s, some ⟨0x04, 0, 0⟩)) ∧ (x.va % n = 0 → top ≤ x.va → s.rootCheck q x = (s, some ⟨0x05, 0, 0⟩)) ∧
     (x.va % n = 0 → x.va < top → x.sp = true → s.rootCheck q x = (s, none)))) ∧
  (∀ (s : State) (w : Nat) (x : Window), s.windows.find w = some x → s.mayClose x = true →
    let mine (c : Contrib) : Prop := c.ord = true ∧ c.accepted = true ∧ c.ready = false ∧ c.window = x
    let s0 : State := { s with windows := s.windows.del w, contribs := s.contribs.filter (fun c => !decide (mine c.2)) }
    ((s.contribs.map Prod.fst).Nodup → (∀ c ∈ s.contribs, ¬mine c.2) → exec (.eRedWindowClose w) s = .next s0) ∧
    (∀ (l : List (Nat × Contrib)) (id : Nat) (c : Contrib) (sum : Nat → Nat) (fl : Nat), (s.contribs.map Prod.fst).Nodup →
      l.Perm (s.contribs.filter (fun c => decide (mine c.2))) → l.Pairwise (fun a b => keyLt a.2.key b.2.key = true) → l[0]? = some (id, c) →
      sum 0 = c.val →
      (∃ R : Nat → Num.Rnd, R 1 = ⟨0, 0#32, 0⟩ ∧ (R l.length).fl = fl ∧ ∀ i d, 0 < i → l[i]? = some d →
        (sum i, R (i + 1)) = combine c.fmt c.op (R i) (sum (i - 1)) d.2.val) →
      ∃ t, exec (.eRedWindowClose w) s = .next t ∧
        (x.at_ = none → t = { s0.planeFlag x.plane fl with contribs := s0.contribs.put id { c with val := sum (l.length - 1), ready := true } }) ∧
        (∀ i, x.at_ = some i → ∀ p, s.planes.find x.plane = some p →
          PlacedAs (s0.planeFlag x.plane fl) t id { c with val := sum (l.length - 1), at_ := p.treeParent (p.binds.get x.bind 0#128).toNat i }))) ∧
  (∀ (s s1 s2 : State) (c old v : Nat) (R : Num.Rnd) (x : Contrib) (p : Plane), s.contribs.find c = some x → x.ready = true → s.planes.find x.plane = some p →
    (x.ord = true → s.lowerBlock c x = false) →
    (x.ord = false → ∀ k d, (k, d) ∈ s.contribs → k ≠ c → d.plane = x.plane → d.bind = x.bind → d.ready = true → d.ord = false → d.place = x.place → x.arr ≤ d.arr) →
    let b := (p.binds.get x.bind 0#128).toNat
    let tlb := 1000 + portNumber (pkDie x.plane) (pkOx x.plane + b / 2 ^ 8 % 256) (pkOy x.plane + b / 2 ^ 16 % 256) (b / 2 ^ 24 % 256 % 2)
    let i : Issuer := { x.iss with frame := none, unit := none }; let n := NodeCheck.width x.fmt / 8
    ({ s with contribs := s.contribs.del c }).portAccess tlb i x.sp x.va n {} (fun _ => none) = (s1, .ok old) →
    (v, R) = combine x.fmt x.op ⟨0, 0#32, 0⟩ old x.val →
    (∃ o, s1.portAccess tlb i x.sp x.va n { wr := true, rel := p.iterOver, scope := x.scope } (fun _ => some v) = (s2, .ok o)) →
    exec (.eReductionApply c) s = .next (s2.planeFlag x.plane R.fl)) ∧
  (∀ (fmt op x y : Nat), op < 3 → (fmt < 8 → let b := NodeCheck.width fmt; let n : NodeBody := ⟨BitVec.ofNat 4 fmt, 0#4, 0#4, 0#4, 0#8, BitVec.ofNat 32 op, 0#32, 0#32⟩
      x < 2 ^ b → y < 2 ^ b → ∀ R, (∃ z, Combines n x y R z R ∧ combine fmt op R x y = (z, R))) ∧
    (8 ≤ fmt → fmt ≤ 11 → ∀ R z R', combine fmt op R x y = (z, R') →
      Combines ⟨BitVec.ofNat 4 fmt, 0#4, 0#4, 0#4, 0#8, BitVec.ofNat 32 op, 0#32, 0#32⟩ x y R z R'))

namespace Sys2Proof.Claim

open Sys2Proof Sys2Proof.Machine

/-! Events of engines and matrix arrays. -/

/-- A command is complete: its number counts, the counter moves to the end of the run of complete numbers, and what waited for it
wakes (R96, R97, R164). -/
def CompletesNumber (s t : State) (k n : Nat) : Prop :=
  let e := s.engs.get k ⟨0, 0, []⟩
  ∃ c, t = { s with engs := t.engs, reqs := t.reqs, trig := t.trig, arms := t.arms } ∧ e.counter ≤ c ∧
    (∀ m, e.counter < m → m ≤ c → m = n ∨ m ∈ e.ahead) ∧ c + 1 ≠ n ∧ c + 1 ∉ e.ahead ∧
    (∀ j, t.engs.find j = if j = k then some { e with counter := c, ahead := (n :: e.ahead).filter (fun m => c < m) } else s.engs.find j) ∧
    (∀ i, t.reqs.find i = (s.reqs.find i).map (fun q =>
      if q.opc = 0x97 ∧ q.stage = .waiting ∧ s.planes.has q.plane = true ∧ s.tlwKey q = k ∧ q.done ≤ c then { q with stage := .done } else q)) ∧
    (∀ a, a ∈ t.trig ↔ a ∈ s.trig ∨ (a ∈ s.arms ∧ ∃ m, a.kind = .tl k m ∧ m ≤ c)) ∧
    (∀ a, a ∈ t.arms ↔ a ∈ s.arms ∧ ∀ m, a.kind = .tl k m → c < m)

/-- The next command that its context accepts (R175, R230). -/
def NextOf (s : State) (c : Nat) (x : Cmd) : Prop :=
  s.cmds.find c = some x ∧ x.num = none ∧ s.openCmds x.ctxKey < 64 ∧ ∀ y ∈ s.cmds, y.2.ctxKey = x.ctxKey → y.2.num = none → x.ord ≤ y.2.ord

/-- A context accepts a command: its number, and the identifiers as they stand; with `tells`, DEST1 of its node receives the number. -/
def Accepts (s t : State) (c : Nat) (x : Cmd) (tells : Bool) (names : List Nat) : Prop :=
  let n := (s.engs.get x.ctxKey ⟨0, 0, []⟩).accepted + 1
  ∃ l, t = { s with
      engs := s.engs.put x.ctxKey { s.engs.get x.ctxKey ⟨0, 0, []⟩ with accepted := n }
      cmds := s.cmds.put c { x with num := some n, tids := names.map (s.tid x.iss.ctx), ord := s.fresh }
      fresh := s.fresh + 1, flights := s.flights ++ l } ∧
    (tells = false ∨ x.iss.frame = none → l = []) ∧
    ∀ pk e nd f g, tells = true → x.iss.frame = some (pk, e, nd, f, g) → Sends s pk e x.body.dest1 f g ⟨BitVec.ofNat 512 (n % 2 ^ 64), 3#16, 0#4⟩ l

/-- A token goes to DEST1 of a command's node. -/
def Tells (s t : State) (x : Cmd) (v : Operand) : Prop :=
  ∃ l, t = { s with flights := s.flights ++ l } ∧ (x.iss.frame = none → l = []) ∧
    ∀ pk e nd f g, x.iss.frame = some (pk, e, nd, f, g) → Sends s pk e x.body.dest1 f g v l

/-- The landing word of a copy is stored after its payload (R98). -/
def Lands (s t : State) (x : Cmd) (n : Nat) : Prop :=
  let b := x.block.toNat; let pa := spAddr (keyDie x.ctxKey) (b / 2 ^ 256 % 2 ^ 24)
  (b.testBit 241 = false → t = s) ∧
  (b.testBit 241 = true → ∃ y, s.physWrite 0 pa (leBytes 4 (b / 2 ^ 288 % 2 ^ 32)) = (y, .ok ()) ∧
    t = { y with landed := y.landed.put pa (x.ctxKey, n) })

/-- The follow-on of a copy becomes the next command of its array context, for the same issuer (R175). -/
def FollowsOn (s t : State) (x : Cmd) : Prop :=
  let b := x.block.toNat; let fk := b / 2 ^ 320 % 4
  let k := 2 ^ 16 + keyDie x.ctxKey * 2 ^ 12 + b / 2 ^ 322 % 32 * 2 ^ 4 + b / 2 ^ 327 % 4
  let n := (s.engs.get k ⟨0, 0, []⟩).accepted + 1
  (fk = 0 → t = s) ∧
  (fk ≠ 0 → ∃ z, t = { s with
      cmds := s.cmds.put s.fresh z, fresh := s.fresh + 2, engs := s.engs.put k { s.engs.get k ⟨0, 0, []⟩ with accepted := n } } ∧
    z.ctxKey = k ∧ z.kind = (if fk = 1 then 2 else 3) ∧ z.num = some n ∧ z.iss = x.iss ∧ z.stage = .queued ∧
    (fk = 1 → z.tids = [s.tid x.iss.ctx (b / 2 ^ 329 % 256)]))

/-- Values that a command moves without a standpipe: from u i to u (i + 1) it reads value i and writes it. -/
def Moves' (x : Cmd) (u : Nat → State) (v : Nat → Nat) : Prop :=
  ∀ i < x.total, (u i).moveCols x (x.move i) = (none, none) ∧ ∃ m, (u i).readSrc x (x.move i).src (x.move i).w = (m, .ok (v i)) ∧
    (∀ d, (x.move i).dst = some d → (m.flagTern x (x.move i) (v i)).placeWrite x.tlb x.agent d (x.move i).w (v i) = (u (i + 1), .ok ())) ∧
    ((x.move i).dst = none → u (i + 1) = m.flagTern x (x.move i) (v i))

/-- The exact value of an element of A or B: by its format, times its block's scale for MX-FP4 (R52, R247). -/
def CellValue (fmt code scale : Nat) (x : ℚ) : Prop :=
  ∃ v f neg n d, TidValue fmt code v f ∧ v = .fin neg n d ∧ (fmt ≠ 14 → x = q v) ∧
    (fmt = 14 → scale % 256 ≠ 255 ∧ x = q v * 2 ^ ((scale % 256 : Nat) - 127 : ℤ))

/-- Column c of a floating row (R64, R248): 32 groups of g in ascending order, each with its exact sum and one rounding. -/
def FloatColumn (T : Tile) (afmt g : Nat) (row ascale : Nat → Nat) (c start x : Nat) : Prop :=
  let t := Num.fmtOf (if T.fmt = 11 then 11 else 10)
  ∃ acc : Nat → Nat, acc 0 = start ∧ acc 32 = x ∧ ∀ r < 32, ∀ a b : Nat → ℚ,
    (∀ j < g, CellValue afmt (row (g * r + j)) (ascale r) (a j) ∧
      CellValue T.fmt (T.elems.getD (g * r + j + 32 * g * c) 0) (T.scales.getD (32 * c + r) 127) (b j)) →
    (∃ neg n d, Num.decode t (acc r) = .fin neg n d) →
    ∃ v neg n d R R', v = .fin neg n d ∧ 0 < d ∧ q v = qOf t (acc r) + ∑ j ∈ Finset.range g, a j * b j ∧ R.mode = 0 ∧ Rounds t R 0 v (acc (r + 1)) R'

/-- The value of a ternary element (R54). -/
def ternary (w : Nat) : ℤ := if w = 1 then 1 else if w = 3 then -1 else 0

/-- Column c of a ternary row (R65): exact integer sums, saturated at ±(2^31 − 1). -/
def TernaryColumn (T : Tile) (row : Nat → Nat) (c : Nat) (start x : ℤ) : Prop :=
  ∃ acc : Nat → ℤ, acc 0 = start ∧ acc 32 = x ∧ ∀ r < 32,
    acc (r + 1) = max (-(2 ^ 31 - 1)) (min (2 ^ 31 - 1) (acc r + ∑ j ∈ Finset.range 64,
      ternary (T.elems.getD (64 * r + j + 2048 * c) 0) * (BitVec.ofNat 8 (row (64 * r + j))).toInt))

/-- A ternary sum times its column's scale, rounded once to f32. -/
def ScaledSum (acc : ℤ) (scale x : Nat) : Prop :=
  ∀ neg n d, Num.decode (Num.fmtOf 8) scale = .fin neg n d →
    ∃ v neg' m e R R', v = .fin neg' m e ∧ 0 < e ∧ q v = acc * qOf (Num.fmtOf 8) scale ∧ R.mode = 0 ∧ Rounds (Num.fmtOf 10) R 0 v x R'

/-- Columns of a row from start values: floating, or ternary before scaling. -/
def Columns (T : Tile) (a8 : Bool) (row ascale : Nat → Nat) (start col : Nat → Nat) : Prop :=
  ∀ c < 32, (T.fmt ≠ 15 → ∀ g, tileG T.fmt = some g → FloatColumn T (rowFmt T.fmt a8) g row ascale c (start c) (col c)) ∧
    (T.fmt = 15 → TernaryColumn T row c (BitVec.ofNat 32 (start c)).toInt (BitVec.ofNat 32 (col c)).toInt ∧ col c < 2 ^ 32)

/-- Elements of width w that the segments of a row carry, in order of their index; a lane that is masked off counts as zero (R252). -/
def RowData (r : Row) (w : Nat) (row : Nat → Nat) : Prop :=
  ∀ i e n o j, r.segs.find? (fun y => y.1 = i) = some (i, e, n, o) → j < 512 / w →
    row (i * (512 / w) + j) = if o.mask.getLsbD (w * j / 32) then elem o.val w j else 0

/-- Scales of an MX-FP4 row, from segment 8 (R247). -/
def RowScales (r : Row) (scale : Nat → Nat) : Prop :=
  ∀ e n o j, r.segs.find? (fun y => y.1 = 8) = some (8, e, n, o) → j < 32 → scale j = if o.mask.getLsbD (j / 4) then elem o.val 8 j else 0

/-- Every index below T has exactly one segment, and the node words agree on OPERAND (R252). -/
def WholeRow (r : Row) (T o : Nat) : Prop :=
  r.total = T ∧ (r.segs.map Prod.fst).Perm (List.range T) ∧ ∀ y ∈ r.segs, y.2.2.1.operand.toNat / 32 = o / 32

/-- Everything before a place in the array's order has taken effect (R249). -/
def InOrder (s : State) (arr ord : Nat) : Prop :=
  (∀ y ∈ s.rows, y.2.stage = .queued → arrayOf y.2.ctxKey = arr → ord ≤ y.2.ord) ∧
  ∀ y ∈ s.cmds, y.2.num ≠ none → 1 < y.2.kind → arrayOf y.2.ctxKey = arr → ord ≤ y.2.ord

end Sys2Proof.Claim

/-- R65, R69, R84, R96 to R98, R164, R175, R230, R231, R247 to R254, R380: engines. A context numbers its commands and tells DEST1; a
copy moves its values in ascending order, stores its landing word, completes its number, and issues its follow-on; a transport failure
completes a network command in error. An array takes its loads, swaps, rows and reads in one order: MXLS fills the shadow tile, MXSW
exchanges the tiles, a row is multiplied into route tokens or into the accumulators, MXACC reads them, MXQ multiplies one vector. -/
def Obligations.EnginesAndArraysComplete : Prop :=
  (∀ (s : State) (c : Nat) (x : Cmd), NextOf s c x → ∃ t,
    (x.kind ≤ 1 → exec (.eEngineCommandAccept c) s = .next t ∧ Accepts s t c x true
      (if x.kind = 0 then [x.block.toNat / 2 ^ 224 % 256, x.block.toNat / 2 ^ 232 % 256] else [])) ∧
    (2 ≤ x.kind → exec (.eArrayCommandAccept c) s = .next t ∧ Accepts s t c x (decide (x.kind ≤ 3))
      (if x.kind = 2 then [x.body.operand.toNat % 256] else []))) ∧
  (∀ (x : Cmd), let b := x.block.toNat
    x.kind = 0 → b.testBit 240 = false → x.shapeCause = none ∧ x.total = b / 2 ^ 192 % 2 ^ 32 ∧
      ∀ k, x.move k = ⟨.at_ (spaceLoc (b / 2 ^ 121 % 8) ((b / 2 ^ 64 % 2 ^ 57 + k : Nat) : ℤ)),
        some (spaceLoc (b / 2 ^ 185 % 8) ((b / 2 ^ 128 % 2 ^ 57 + k : Nat) : ℤ)), 8⟩) ∧
  (∀ (s : State) (c n : Nat) (x : Cmd) (u : Nat → State) (v : Nat → Nat), s.cmds.find c = some x → x.kind = 0 → x.num = some n → x.err = none →
    x.pos = 0 →
    (x.shapeCause = some 0x29 → ∃ t r, exec (.eEngineCommandComplete c) s = .next (t.report r).wakeReqs ∧
      CompletesNumber { s with cmds := s.cmds.del c } t x.ctxKey n ∧ r.cause = 0x29 ∧ r.ctx = x.iss.ctx ∧ r.cbix = x.iss.cbix) ∧
    (x.shapeCause = some 0x28 → ∃ t, CompletesNumber { s with cmds := s.cmds.del c } t x.ctxKey n ∧
      exec (.eEngineCommandComplete c) s = .next (t.engineError x.iss true ⟨0x28, 0, 0⟩ 0 0 0).wakeReqs) ∧
    (x.shapeCause = none → u 0 = s → Moves' x u v → (∀ i < x.total, (x.move i).dst ≠ none) → ∀ y, Lands (u x.total) y x n →
      ∃ z t, CompletesNumber { y with cmds := y.cmds.del c } z x.ctxKey n ∧ FollowsOn z t x ∧ exec (.eEngineCommandComplete c) s = .next t.wakeReqs)) ∧
  (∀ (s : State) (c n : Nat) (x : Cmd), s.cmds.find c = some x → x.kind = 1 → x.num = some n →
    let b := x.block.toNat; let peers := (s.csr (s.partOfCtx x.iss.ctx) 0x0402).toNat % 2 ^ 12
    (b / 2 ^ 192 % 16 ≠ 2 → b / 2 ^ 256 % 2 ^ 32 ≤ peers → ∀ s1 l, s.vreadAny x.agent (b / 2 ^ 128 % 2 ^ 57) (b / 2 ^ 224 % 2 ^ 32) = (s1, .ok l) →
      ∃ t, CompletesNumber { s1 with cmds := s1.cmds.del c } t x.ctxKey n ∧ exec (.eEngineCommandComplete c) s = .next t.wakeReqs) ∧
    (peers < b / 2 ^ 256 % 2 ^ 32 → ∃ t r, exec (.eEngineCommandComplete c) s = .next (t.report r).wakeReqs ∧
      CompletesNumber { s with cmds := s.cmds.del c } t x.ctxKey n ∧ r.cause = 0x26) ∧
    (x.tries < 16 → exec (.eNeRetransmit c) s = .next { s with cmds := s.cmds.put c { x with tries := x.tries + 1 } }) ∧
    (16 ≤ x.tries → ∃ t r, exec (.eNeRetransmit c) s = .next (t.report r).wakeReqs ∧ CompletesNumber { s with cmds := s.cmds.del c } t x.ctxKey n ∧
      r.cause = 0x0E ∧ r.ctx = x.iss.ctx ∧ r.cbix = x.iss.cbix)) ∧
  (∀ (s : State) (c n : Nat) (x : Cmd), s.cmds.find c = some x → x.num = some n → x.err = none → let arr := arrayOf x.ctxKey
    InOrder s arr x.ord → let A := s.arrays.get arr ⟨none, none, [], []⟩
    -- MXLS
    (∀ u v, x.kind = 2 → x.pos = 0 → x.buf = [] → s.loadCause x = none → u 0 = s → Moves' x u v → (∀ i < x.total, (x.move i).dst = none) →
      let f := u x.total; let K := tileK (tidFmt (x.t 0))
      let tile : Tile := ⟨tidFmt (x.t 0), (List.range (32 * K)).map v, (List.range (x.total - 32 * K)).map (fun i => v (32 * K + i))⟩
      ternMismatch (f.arrays.get arr ⟨none, none, [], []⟩) tile = false →
      ∃ t, CompletesNumber { f with
          cmds := f.cmds.del c, arrays := f.arrays.put arr { f.arrays.get arr ⟨none, none, [], []⟩ with shadow := some tile } } t x.ctxKey n ∧
        exec (.eMxlsComplete c) s = .next t.wakeReqs) ∧
    -- MXSW
    (x.kind = 3 → ∃ t, CompletesNumber { s with
        cmds := s.cmds.del c, arrays := s.arrays.put arr { A with active := A.shadow, shadow := A.active } } t x.ctxKey n ∧
      exec (.eMxswApply c) s = .next t.wakeReqs) ∧
    -- MXACC
    (∀ T pk e nd f g, x.kind = 4 → A.active = some T → T.fmt ≠ 15 → x.iss.frame = some (pk, e, nd, f, g) →
      let o := x.body.operand.toNat; let seg := o / 2 ^ 9 % 4; let w := if T.fmt = 11 then 64 else 32
      seg < (if T.fmt = 11 then 4 else 2) →
      let rowIx := (o % 512 + (if x.l.mask.getLsbD 0 then lane x.l.val 0 else 0)) % (if T.fmt = 11 then 256 else 512)
      ∃ B V u t, Tells { s with arrays := s.arrays.put arr B } u x ⟨V, 0xFFFF#16, 7#4⟩ ∧ CompletesNumber { u with cmds := u.cmds.del c } t x.ctxKey n ∧
        exec (.eEngineCommandComplete c) s = .next t.wakeReqs ∧
        (∀ j < 512 / w, elem V w j = A.accAt T.fmt rowIx (512 / w * seg + j)) ∧ B.active = A.active ∧ B.shadow = A.shadow ∧ B.latched = A.latched ∧
        (o.testBit 11 = false → B.acc = A.acc) ∧
        (o.testBit 11 = true → ∀ k, B.acc.get k 0#32 = if 32 * (if T.fmt = 11 then 2 else 1) * rowIx + 16 * seg ≤ k ∧
          k < 32 * (if T.fmt = 11 then 2 else 1) * rowIx + 16 * seg + 16 then 0#32 else A.acc.get k 0#32)) ∧
    (x.kind = 4 ∨ x.kind = 5 → A.active = none → ∃ t, CompletesNumber { s with cmds := s.cmds.del c } t x.ctxKey n ∧
      exec (.eEngineCommandComplete c) s = .next (t.engineError x.iss true ⟨0x2A, 0, 0⟩ 0 x.handle (n % 2 ^ 32)).wakeReqs) ∧
    -- MXQ
    (∀ T pk e nd f g p, x.kind = 5 → A.active = some T → (T.fmt = 8 ∨ T.fmt = 9) → x.iss.frame = some (pk, e, nd, f, g) → s.planes.find pk = some p →
      let o := x.body.operand.toNat; let row (k : Nat) : Nat := if x.l.mask.getLsbD (k / 2) then elem x.l.val 16 k else 0; let out := o / 4 % 4
      ∃ (V : Vec) (m : BitVec 16) (u t : State) (col : Nat → Nat), u = { s with planes := u.planes, flights := u.flights } ∧
        (∃ l, u.flights = s.flights ++ l ∧ Sends s pk e x.body.dest1 f g ⟨V, m, 7#4⟩ l) ∧ m = 0xFFFF#16 ∧ OtherPlanes s u pk ∧
        CompletesNumber { u with cmds := u.cmds.del c } t x.ctxKey n ∧ exec (.eEngineCommandComplete c) s = .next t.wakeReqs ∧
        Columns T false (fun k => if k < 32 then row k else 0) (fun _ => 127) (fun _ => 0) col ∧
        (let y (k : Nat) : Nat := if o % 4 = 1 then (if (Num.decode (Num.fmtOf 10) (col k)).isNan then Num.canonNaN (Num.fmtOf 10)
            else if (col k).testBit 31 then 0 else col k) else col k
         (out = 0 → ∀ k < 32, ∃ R R', R.mode = 0 ∧ (elem V 16 k, R') = Num.round (Num.fmtOf 8) 1 R (Num.decode (Num.fmtOf 10) (y k))) ∧
         (1 ≤ out → out ≤ 2 → ∀ k < 16, lane V k = y (16 * (out - 1) + k) % 2 ^ 32)))) ∧
  (∀ (s : State) (k : Nat) (r : Row), s.rows.find k = some r → r.stage = .sent → r.total ≤ r.segs.length →
    let e := s.engs.get r.ctxKey ⟨0, 0, []⟩
    exec (.eMatrixRowAccept k) s = .next { s with
      engs := s.engs.put r.ctxKey { e with accepted := e.accepted + 1 }, fresh := s.fresh + 1
      rows := s.rows.put k { r with num := some (e.accepted + 1), ord := s.fresh, at_ := s.fc, stage := .queued } }) ∧
  (∀ (s : State) (k n o : Nat) (r : Row) (T : Tile) (p : Plane), s.rows.find k = some r → r.stage = .queued → r.num = some n → r.at_ + 66 ≤ s.fc →
    let arr := arrayOf r.ctxKey; let A := s.arrays.get arr ⟨none, none, [], []⟩; let U := if T.fmt = 11 then 4 else 2
    InOrder s arr r.ord → A.active = some T → T.fmt ∈ [8, 9, 10, 11, 12, 13, 14, 15] → WholeRow r (tileT T.fmt) o → r.operand = o →
    (o.testBit 20 = true → T.fmt = 12 ∨ T.fmt = 13) → s.planes.find r.plane = some p →
    ∃ (z u t : State) (row ascale col : Nat → Nat) (fl : Nat), CompletesNumber { s with rows := s.rows.del k } z r.ctxKey n ∧
      exec (.eMatrixRowComplete k) s = .next t.wakeReqs ∧ RowData r (rowWidth T.fmt) row ∧ (T.fmt = 14 → RowScales r ascale) ∧
      (∀ f, (u.plane r.plane).frames.find f = (p.frames.find f).map (fun fr =>
        if f = r.frame ∧ fr.gen = r.gen then { fr with flags := fr.flags ||| BitVec.ofNat 6 fl } else fr)) ∧ OtherPlanes s u r.plane ∧
      -- route mode
      (o.testBit 10 = false → u = { z with planes := u.planes } ∧ ∃ (out : Nat → Nat) (V : Nat → Vec) (ls : List (List Flight)),
        Columns T (o.testBit 20) row ascale (fun _ => 0) col ∧
        (∀ c < 32, (T.fmt ≠ 15 → out c = col c) ∧ (T.fmt = 15 → ScaledSum (BitVec.ofNat 32 (col c)).toInt (T.scales.getD (32 * c) 0) (out c))) ∧
        (∀ i < U, ∀ j < 32 / U, elem (V i) (if T.fmt = 11 then 64 else 32) j = out (32 / U * i + j) % 2 ^ (if T.fmt = 11 then 64 else 32)) ∧
        List.Forall₂ (fun i l => ∀ e n v, r.segs.find? (fun y => y.1 = i) = some (i, e, n, v) →
          Sends s r.plane e n.dest1 r.frame r.gen ⟨V i, 0xFFFF#16, 0#4⟩ l) (List.range U) ls ∧
        t = { u with flights := z.flights ++ ls.flatten }) ∧
      -- accumulate mode
      (o.testBit 10 = true → let rowIx := (o / 2 ^ 11 % 512 + r.itix) % (if T.fmt = 11 then 256 else 512)
        u = { z with planes := u.planes, arrays := u.arrays } ∧ ∃ B l,
        u.arrays = s.arrays.put arr B ∧ B.active = A.active ∧ B.shadow = A.shadow ∧
        Columns T (o.testBit 20) row ascale (fun c => A.accAt T.fmt rowIx c) col ∧ (∀ c < 32, B.accAt T.fmt rowIx c = col c % 2 ^ accWidth T.fmt) ∧
        (∀ i c, c < 32 → i ≠ rowIx → B.accAt T.fmt i c = A.accAt T.fmt i c) ∧
        (∀ c, B.latched.find c = if T.fmt = 15 ∧ c < 32 then some ((A.latched.find c).getD (BitVec.ofNat 16 (T.scales.getD (32 * c) 0)))
          else A.latched.find c) ∧
        t = { u with flights := z.flights ++ l } ∧ ∀ e nd v, r.segs.find? (fun y => y.1 = 0) = some (0, e, nd, v) →
          Sends s r.plane e nd.dest1 r.frame r.gen ⟨BitVec.ofNat 512 (n % 2 ^ 64), 3#16, 7#4⟩ l))

namespace Sys2Proof.Claim

open Sys2Proof Sys2Proof.Machine

/-! Events of the conversation engine. -/

/-- The engine's turn to check x (R117): it was not refused, and no other of its conversation comes first. -/
def Checked (s : State) (q : Nat) (x : Send) (deleg : Bool) : Prop :=
  s.sends.find q = some x ∧ x.held = false ∧ x.deleg = deleg ∧ x.close = none ∧
  ∀ y ∈ s.sends, y.2.held = false → y.2.ord ≠ x.ord → y.2.handle.toNat / 2 ^ 38 = x.handle.toNat / 2 ^ 38 →
    x.at_ < y.2.at_ ∨ (x.at_ = y.2.at_ ∧ ((x.deleg = false ∧ y.2.deleg = true) ∨
      (x.deleg = y.2.deleg ∧ (x.role < y.2.role ∨ (x.role = y.2.role ∧ x.ord ≤ y.2.ord)))))

/-- The answer to the issuer (R118, R123): the send leaves, the issuer releases, a record goes on behind its instruction, and a
frame's node sends v on both destinations. -/
def Answered (s t : State) (q : Nat) (x : Send) (v : Operand) : Prop :=
  let r := { s with sends := s.sends.del q }.releaseGen x.iss
  (∀ u, x.iss.frame = none → x.iss.unit = some u → t = { r with units := t.units } ∧
    ∀ k, t.unit k = if k = u then { r.unit u with wait := none, pc := (r.unit u).pc + 4 } else r.unit k) ∧
  (∀ pk e nd f g, x.iss.frame = some (pk, e, nd, f, g) → ∃ l, t = { r with flights := s.flights ++ l } ∧ Both s pk e x.body f g v l)

/-- A refusal (R117, R119): a frame is parked with its record, and the send waits for PARKRES; a record's is a precise trap. -/
def Refused (s t : State) (q : Nat) (x : Send) (cause info aux addr : Nat) : Prop :=
  (∀ pk e nd f g fr, x.iss.frame = some (pk, e, nd, f, g) → (s.plane pk).frames.find f = some fr → fr.gen = g →
    t = { s with sends := s.sends.put q { x with held := true }, parking := s.parking ++ [⟨pk, f, fr.gen, 0, s.frameRec pk e nd f cause addr info aux⟩] }) ∧
  -- a frame that is gone
  (∀ pk e nd f g, x.iss.frame = some (pk, e, nd, f, g) → (∀ fr, (s.plane pk).frames.find f = some fr → fr.gen ≠ g) →
    t = { s with sends := s.sends.del q }) ∧
  (∀ u, x.iss.frame = none → x.iss.unit = some u → 0x30 ≤ cause →
    let b := { s with sends := s.sends.del q, cur := u, units := (s.setUnit u { s.unit u with wait := none }).units }
    t = { b.trap cause info (s.unit u).pc.toNat aux (s.unit u).pc with cur := s.cur })

/-- The issuer's register is valid and still names its plane (R117). -/
def Registered (s : State) (x : Send) : Prop :=
  ∀ pk e nd f g, x.iss.frame = some (pk, e, nd, f, g) → x.reg.testBit 26 = true ∧ x.reg / 2 ^ 19 % 4 = (s.plane pk).vp

/-- Send n of a conversation as it waits for a receiver (R121, Table 5.6). -/
def messageOf (x : Send) (k role n : Nat) : Delivery :=
  { conv := k, role := role, num := n, vec := messageVec x.kind x.role role n x.payload, payload := x.payload }

/-- The transition word of a state, a role and a kind in an image (Table 5.2). -/
def TransitionOf (c : Conv) (role kind t : Nat) : Prop :=
  ∃ i < c.image / 2 ^ 48 % 2 ^ 16, t = c.image / 2 ^ (512 + 32 * i) % 2 ^ 32 ∧ t / 2 ^ 25 % 64 = c.state ∧ t / 2 ^ 22 % 8 = role ∧ t / 2 ^ 17 % 32 = kind ∧
    ∀ j < i, let w := c.image / 2 ^ (512 + 32 * j) % 2 ^ 32
      ¬(w / 2 ^ 25 % 64 = c.state ∧ w / 2 ^ 22 % 8 = role ∧ w / 2 ^ 17 % 32 = kind)

/-- A role register names a role of a conversation's handle, and is valid (Table 5.5). -/
def Names (h role : Nat) (v : Word) : Bool := decide (v.toNat / 2 ^ 30 = h / 2 ^ 30 ∧ v.toNat / 2 ^ 27 % 8 = role) && v.getLsbD 26

/-- Deliveries of a send to these roles that its endpoints' rings cannot take at once, after those of the send before them (R117). -/
def needsSpill (s : State) (k : Nat) (c : Conv) (rs : List Nat) : Nat :=
  (rs.zipIdx.filter (fun (r, j) => match c.bound r with
    | none => true
    | some (i, e) => !s.roomNow k i e ((rs.take j).filter (fun r' => (c.bound r').map Prod.fst == some i)).length)).length

/-- Delivery d is the next of its endpoint, which stands in this module (R121). -/
def NextDelivery (s : State) (id : Nat) (d : Delivery) (i : Nat) (e : Endpoint) : Prop :=
  s.deliveries.find id = some d ∧ (s.conv d.conv).bound d.role = some (i, e) ∧ e.module_ = Config.moduleNumber.toNat ∧ d.wrote = none ∧
  (∀ x ∈ s.deliveries, x.2.conv = d.conv → (∃ y, (s.conv d.conv).bound x.2.role = some (i, y)) → x.1 ≠ id →
    d.num < x.2.num ∨ (d.num = x.2.num ∧ d.role < x.2.role)) ∧
  ∀ x ∈ s.deliveries, x.1 = id → x.2 = d

/-- A message is written to its ring (R121, R122): the vector of Table 5.6 and the payload at slot (j mod 2^RLOG), when j − CONS is
below 2^RLOG. A queue endpoint's delivery is counted by the oldest ARM.conv that waits, or stays uncounted; an edge port holds a token. -/
def Delivers (s t : State) (id : Nat) (d : Delivery) : Prop :=
  ∀ i e s1 cons s2, NextDelivery s id d i e → s.readCons e (d.conv / 4096) (s.conv d.conv).scope = (s1, .ok cons) →
    let slot := e.rbase + 512 * (e.made % 2 ^ e.rlog)
    let v := if d.payload.length ≤ 32 then d.vec else d.vec ||| BitVec.ofNat 512 ((slot + 64) * 2 ^ 192)
    (2 ^ e.rlog ≤ (e.made + 2 ^ 32 - cons) % 2 ^ 32 → (e.queue = true ∨ s.portPlane e ≠ none) →
      t = { s1 with convs := s1.convs.put d.conv { s1.conv d.conv with eps := (s1.conv d.conv).eps.set i { e with failing := false } } }) ∧
    ((e.made + 2 ^ 32 - cons) % 2 ^ 32 < 2 ^ e.rlog → s1.writeRun (engineIss e.ctx (d.conv / 4096)) slot (leBytes 64 v.toNat ++ d.payload) = (s2, .ok ()) →
      let c := s2.conv d.conv
      let put (e' : Endpoint) : Map Conv := s2.convs.put d.conv { c with eps := c.eps.set i e' }
      (e.queue = true → ∀ a, s2.arms.find? (fun a => a.kind = ArmKind.conv d.conv i d.role (s.conv d.conv).gen) = some a →
        t = { s2 with deliveries := s2.deliveries.del id, arms := s2.arms.erase a, trig := s2.trig ++ [a],
                      convs := put { e with made := e.made + 1, failing := false } }) ∧
      (e.queue = true → (∀ a ∈ s2.arms, a.kind ≠ ArmKind.conv d.conv i d.role (s.conv d.conv).gen) →
        t = { s2 with deliveries := s2.deliveries.del id,
                      convs := put { e with made := e.made + 1, failing := false, uncounted := e.uncounted ++ [d.role] } }) ∧
      (∀ pk p, e.queue = false → s.portPlane e = some pk → s2.portPlane e = some pk → s2.planes.find pk = some p →
        t = { s2 with deliveries := s2.deliveries.del id, convs := put { e with made := e.made + 1, failing := false },
                      planes := s2.planes.put pk { p with cmsg := p.cmsg ++ [(e.eport, d.conv, d.role, d.num, v)] } }))

/-- A role's waiting messages have lost their receiver (R126). -/
def Orphans (s : State) (key : Nat) (c : Conv) (r : Nat) : Prop :=
  s.orphaned c r = true ∧ ∃ x ∈ s.deliveries, x.2.conv = key ∧ x.2.role = r

/-- Every message of a closing conversation is delivered, and every slot of a bound endpoint is released (R125). -/
def Finished (s : State) (key : Nat) : Prop :=
  let c := s.conv key
  c.open_ = true ∧ c.closing = true ∧ (∀ x ∈ s.deliveries, x.2.conv ≠ key) ∧
  ∀ r i e, r < c.roles.length → c.bound r = some (i, e) → e.made = 0 ∨ ∃ s1, s.readCons e (key / 4096) c.scope = (s1, .ok (e.made % 2 ^ 32))

end Sys2Proof.Claim

/-- R116 to R121, R124 to R126: the conversation engine. It checks the sends of a conversation one at a time; a legal one moves the
state and the counter, queues a message for every receiver, delivers what can be delivered at once, and answers; a refused one leaves
the conversation as it is. A delegation binds the role anew. A delivery fills the next slot of its ring while the consumer word leaves
room. A closing conversation with nothing outstanding is freed. -/
def Obligations.ConversationEngineChecksAndDelivers : Prop :=
  -- a legal send
  (∀ (s : State) (q k T : Nat) (x : Send) (c : Conv) (u : Nat → State) (rs : List Nat), Checked s q x false → Registered s x →
    (x.iss.frame = none ∨ x.choose = true ∨ x.body.operand.getLsbD 17 = false ∨ x.payload ≠ []) →
    s.live? x.handle.toNat = some (k, c) → c.closing = false → x.holds s c = true → c.image.testBit (384 + x.kind) = x.choose →
    x.payload.length ≤ 8 * (c.image / 2 ^ (8 * (16 + x.kind)) % 256) → TransitionOf c x.role x.kind T →
    rs = (List.range (c.image / 2 ^ 24 % 256)).filter (fun r => T.testBit (3 + r) && decide (r < 8)) →
    s.spillHeld c.owner + needsSpill s k c rs ≤ s.spillEntries c.owner →
    u 0 = { s with convs := s.convs.put k { c with sends := c.sends + 1, state := T / 2 ^ 11 % 64 } } →
    (∀ j < rs.length, ∃ m, u (j + 1) = m.deliverMsg (u j).fresh ∧
      m = { u j with fresh := (u j).fresh + 1, deliveries := (u j).deliveries.put (u j).fresh (messageOf x k (rs.getD j 0) (c.sends + 1)) }) →
    ∃ t, exec (.eSendCheck q) s = .next t ∧ Answered (u rs.length) t q x ⟨BitVec.ofNat 512 (c.sends + 1), 3#16, 0#4⟩) ∧
  -- a refused send
  (∀ (s : State) (q : Nat) (x : Send), Checked s q x false →
    (x.iss.frame = none ∨ x.choose = true ∨ x.body.operand.getLsbD 17 = false ∨ x.payload ≠ []) → ∃ t, exec (.eSendCheck q) s = .next t ∧
    let no (cause st : Nat) : Prop := Refused s t q x cause (st + 256 * x.role + 65536 * x.kind) x.handle.toNat 0
    (¬Registered s x → no 0x36 0) ∧
    (Registered s x → x.handle.toNat / 2 ^ 52 = Config.moduleNumber.toNat → s.live? x.handle.toNat = none → no 0x35 0) ∧
    ∀ k c, Registered s x → s.live? x.handle.toNat = some (k, c) →
      (c.closing = true → no 0x35 c.state) ∧
      (c.closing = false → x.holds s c = false → no 0x36 c.state) ∧
      (c.closing = false → x.holds s c = true → c.image.testBit (384 + x.kind) ≠ x.choose → no 0x37 c.state) ∧
      (c.closing = false → x.holds s c = true → c.image.testBit (384 + x.kind) = x.choose →
        8 * (c.image / 2 ^ (8 * (16 + x.kind)) % 256) < x.payload.length → no 0x38 c.state) ∧
      (c.closing = false → x.holds s c = true → c.image.testBit (384 + x.kind) = x.choose →
        x.payload.length ≤ 8 * (c.image / 2 ^ (8 * (16 + x.kind)) % 256) → (∀ T, ¬TransitionOf c x.role x.kind T) → no 0x39 c.state)) ∧
  -- a delegation
  (∀ (s s1 : State) (q k : Nat) (x : Send) (c : Conv) (e : Endpoint), Checked s q x true → Registered s x →
    s.readEndpoint x.iss x.desc.toNat x.handle.toNat x.role = (s1, .ok e) → s1.live? x.handle.toNat = some (k, c) →
    (c.closing = true → ∃ t, exec (.eDelegationCheck q) s = .next t ∧ Refused s1 t q x 0x35 (c.state + 256 * x.role) x.handle.toNat x.desc.toNat) ∧
    (c.closing = false → x.role < c.image / 2 ^ 24 % 256 → x.role < c.roles.length → (x.holds s1 c = true ∨ (x.iss.frame = none ∧ x.iss.ctx = c.owner)) →
      s1.inScope k c e = true → (e.queue = false → s1.freeRole e ≠ none) → c.bound x.role = none →
      4 ≤ s1.desc c.owner 42 2 → (s1.roles.map Prod.fst).Nodup →
      ∃ (t z : State) (i : Nat) (y : Endpoint), exec (.eDelegationCheck q) s = .next t ∧ Answered z t q x x.l.data ∧ z = { s1 with convs := z.convs, roles := z.roles } ∧
        (∀ j, j ≠ k → z.conv j = s1.conv j) ∧ (z.conv k).bound x.role = some (i, y) ∧ y.same e = true ∧
        (∀ r, r ≠ x.role → (z.conv k).roles[r]? = c.roles[r]?) ∧
        (let old (j : Nat) : Word := let v := s1.roles.get j 0; if Names x.handle.toNat x.role v then v &&& ~~~(1#64 <<< 26) else v
         (e.queue = true → ∀ j, z.roles.get j 0 = old j) ∧
         ∀ n, e.queue = false → s1.freeRole e = some n → ∀ j, z.roles.get j 0 = if j = 8 * (256 * e.ctx + 64 * e.die + 8 * e.rby + e.rbx) + n then
            BitVec.ofNat 64 (Config.moduleNumber.toNat * 2 ^ 52 + k * 2 ^ 38 + c.gen.toNat * 2 ^ 30 + x.role * 2 ^ 27 + 2 ^ 26 + e.eport * 2 ^ 21 + e.plane * 2 ^ 19)
          else old j))) ∧
  -- delivery
  (∀ (s : State) (id : Nat) (d : Delivery), (∀ i e, (s.conv d.conv).bound d.role = some (i, e) → e.failing = false) →
    s.deliveries.find id = some d → ∃ t, exec (.eRingDelivery id) s = .next t ∧ Delivers s t id d ∧ ((s.conv d.conv).bound d.role = none → t = s)) ∧
  (∀ (s : State), ∃ u : Nat → State, u 0 = s ∧ exec .eDeliveryRetry s = .next (u s.deliveries.length) ∧
    ∀ j id d, s.deliveries[j]? = some (id, d) →
      ((∀ i e, ((u j).conv d.conv).bound d.role = some (i, e) → e.failing = false) → u (j + 1) = u j) ∧
      ((∃ i e, ((u j).conv d.conv).bound d.role = some (i, e) ∧ e.failing = true) → (u j).deliveries.find id = some d → Delivers (u j) (u (j + 1)) id d)) ∧
  -- freeing
  (∀ (s : State), ∃ u : Nat → State, u 0 = s ∧ exec .eConversationFree s = .next (u s.convs.length) ∧
    ∀ j k c, s.convs[j]? = some (k, c) → let a0 := u j; let b := u (j + 1); let c := a0.conv k
      (¬(c.open_ = true ∧ c.closing = true) → b = a0) ∧
      (c.open_ = true → c.closing = true → ∃ w : Nat → State, w 0 = a0 ∧
       (∀ r < c.image / 2 ^ 24 % 256, (¬Orphans (w r) k c r → w (r + 1) = w r) ∧
        (Orphans (w r) k c r → ∃ f, w (r + 1) = ({ w r with deliveries := (w r).deliveries.filter (fun (_, d) => !(d.conv = k && d.role = r)) }).report f ∧
          f.cause = 0x3B ∧ f.info = c.state + 256 * r ∧ f.ctx = c.owner ∧ f.cbix = c.ownerCbix)) ∧
       let a := w (c.image / 2 ^ 24 % 256)
       (¬Finished a k → b = a) ∧
       (Finished a k → (a.roles.map Prod.fst).Nodup → b = { a with convs := a.convs.put k { Conv.empty with gen := (a.conv k).gen + 1 }, roles := b.roles } ∧
        ∀ n v, a.roles.find n = some v → b.roles.find n =
          some (if v.toNat / 2 ^ 30 = Config.moduleNumber.toNat * 2 ^ 22 + k * 2 ^ 8 + (a.conv k).gen.toNat then v &&& ~~~(1#64 <<< 26) else v))))

namespace Sys2Proof.Claim

open Sys2Proof Sys2Proof.Machine

/-! Events of the runnel and the samplers. -/

/-- An f32 pattern's value. -/
def v32 (x : Nat) : Num.Val := Num.decode (Num.fmtOf 10) x

/-- b is the pattern of type t to which the exact value x rounds in a mode; the sign of a zero is not told. -/
def Near (t : Num.Fmt) (mode : Nat) (x : ℚ) (b : Nat) : Prop :=
  ∃ neg n d R R', 0 < d ∧ q (.fin neg n d) = x ∧ R.mode = mode ∧ Rounds t R 0 (.fin neg n d) b R'

/-- A void ray (R261). -/
def Void (v : Vec) : Prop :=
  (∃ i < 8, ∀ neg n d, v32 (lane v i) ≠ .fin neg n d) ∨ q (v32 (lane v 3)) < 0 ∨ q (v32 (lane v 7)) < q (v32 (lane v 3)) ∨
  (q (v32 (lane v 4)) = 0 ∧ q (v32 (lane v 5)) = 0 ∧ q (v32 (lane v 6)) = 0)

/-- Byte i, and n bytes at i, of a node or a triangle. -/
def byteAt (l : List Byte) (i : Nat) : Nat := (l.getD i 0#8).toNat
def wordAt (l : List Byte) (i n : Nat) : Nat := leNat ((l.drop i).take n)

/-- A node's children are its VALID bits (Table 11.3). -/
def Child (l : List Byte) (i : Nat) : Prop := i < 8 ∧ (byteAt l 88).testBit i = true

/-- What R269 accepts in a node. -/
def GoodNode (l : List Byte) : Prop :=
  (∀ i, 89 ≤ i → i < 128 → byteAt l i = 0) ∧ (∀ a < 3, 0 < byteAt l (12 + a) ∧ byteAt l (12 + a) < 255) ∧
  ∀ i, Child l i → ((byteAt l 15).testBit i = true → byteAt l (32 + i) = 0) ∧
    ((byteAt l 15).testBit i = false → byteAt l (32 + i) % 32 + byteAt l (32 + i) / 32 + 1 ≤ 39)

/-- The ray reaches child i on axis a at `near` and leaves it at `far`, or misses it (R264, R266): for boxes and rays whose values
are finite. -/
def Slab (x : Ray) (l : List Byte) (i a : Nat) (near far : Num.Val) (miss : Prop) : Prop :=
  ∃ lo hi, Near (Num.fmtOf 10) 3 (q (v32 (wordAt l (4 * a) 4)) + byteAt l (40 + 8 * a + i) * 2 ^ ((byteAt l (12 + a) : ℤ) - 127)) lo ∧
    Near (Num.fmtOf 10) 2 (q (v32 (wordAt l (4 * a) 4)) + byteAt l (64 + 8 * a + i) * 2 ^ ((byteAt l (12 + a) : ℤ) - 127)) hi ∧
    (let o := q (v32 (lane x.vec a)); let d := q (v32 (lane x.vec (4 + a)))
     (∃ neg n k, v32 lo = .fin neg n k) → (∃ neg n k, v32 hi = .fin neg n k) →
      (d = 0 → (miss ↔ ¬(q (v32 lo) ≤ o ∧ o ≤ q (v32 hi))) ∧ near = .inf true ∧ far = .inf false) ∧
      (d ≠ 0 → ¬miss ∧ (∃ b, near = v32 b ∧ Near (Num.fmtOf 10) 3 (min ((q (v32 lo) - o) / d) ((q (v32 hi) - o) / d)) b) ∧
        ∃ b, far = v32 b ∧ Near (Num.fmtOf 10) 2 (max ((q (v32 lo) - o) / d) ((q (v32 hi) - o) / d)) b))

/-- The ray hits child i, which it enters at e: the largest of tmin and the three entries lies at or below tcur and the exits (R266). -/
def Hits (x : Ray) (l : List Byte) (i : Nat) (e : Num.Val) (hit : Prop) : Prop :=
  ∃ (near far : Nat → Num.Val) (miss : Nat → Prop), (∀ a < 3, Slab x l i a (near a) (far a) (miss a)) ∧ near 3 = v32 (lane x.vec 3) ∧ far 3 = v32 x.best.1 ∧
    (hit ↔ (∀ a < 3, byteAt l (40 + 8 * a + i) ≤ byteAt l (64 + 8 * a + i) ∧ ¬miss a) ∧ ∀ a < 4, ∀ b < 4, place (near a) ≤ place (far b)) ∧
    (hit → (∃ a < 4, e = near a) ∧ ∀ a < 4, place (near a) ≤ place e)

/-- Child i as the next thing to visit (R264). -/
def childItem (l : List Byte) (depth i : Nat) : RayItem :=
  if (byteAt l 15).testBit i then
    ⟨(wordAt l 16 8 + 128 * ((List.range i).filter (fun k => (byteAt l 88).testBit k && (byteAt l 15).testBit k)).length) % 2 ^ 64, depth + 1, 0⟩
  else ⟨(wordAt l 24 8 + 48 * (byteAt l (32 + i) % 32)) % 2 ^ 64, depth + 1, byteAt l (32 + i) / 32 + 1⟩

/-- Coordinate a of vertex k, of the ray's origin and of its direction. -/
def vtx (l : List Byte) (k a : Nat) : ℚ := q (v32 (wordAt l (12 * k + 4 * a) 4))
def org (x : Ray) (a : Nat) : ℚ := q (v32 (lane x.vec a))
def dir (x : Ray) (a : Nat) : ℚ := q (v32 (lane x.vec (4 + a)))

/-- n · d of a triangle and a ray (R267). -/
def facing (x : Ray) (l : List Byte) : ℚ :=
  let e (k a : Nat) : ℚ := vtx l k a - vtx l 0 a
  (e 1 1 * e 2 2 - e 1 2 * e 2 1) * dir x 0 + (e 1 2 * e 2 0 - e 1 0 * e 2 2) * dir x 1 + (e 1 0 * e 2 1 - e 1 1 * e 2 0) * dir x 2

/-- The line meets the closed triangle at t with barycentrics u and v (R267). -/
def Meets (x : Ray) (l : List Byte) (t u v : ℚ) : Prop :=
  facing x l ≠ 0 ∧ 0 ≤ u ∧ 0 ≤ v ∧ u + v ≤ 1 ∧
  ∀ a < 3, org x a + t * dir x a = vtx l 0 a + u * (vtx l 1 a - vtx l 0 a) + v * (vtx l 2 a - vtx l 0 a)

/-- What a triangle makes of a ray's best hit (R267, R268). -/
def Best (x y z : Ray) (l : List Byte) : Prop :=
  let back := 0 < facing x l
  let culled := (wordAt l 44 4).testBit 0 = false ∧ ((back ∧ (lane x.vec 10).testBit 1 = true) ∨ (¬back ∧ (lane x.vec 10).testBit 2 = true))
  ((∀ t u v, ¬Meets x l t u v) → z = y) ∧
  ∀ t u v, Meets x l t u v → ∃ tb ub vb, Near (Num.fmtOf 10) 0 t tb ∧ Near (Num.fmtOf 10) 0 u ub ∧ Near (Num.fmtOf 10) 0 v vb ∧
    let taken := ¬culled ∧ place (v32 (lane x.vec 3)) ≤ place (v32 tb) ∧
      (place (v32 tb) < place (v32 x.best.1) ∨ (place (v32 tb) = place (v32 x.best.1) ∧ wordAt l 36 4 < x.best.2.2.2.1))
    (¬taken → z = y) ∧
    (taken → ∃ f, ((back → f = 3) ∧ (¬back → f = 1)) ∧
      let w := { y with best := (tb, ub, vb, wordAt l 36 4, wordAt l 40 4, f) }
      z = if (lane x.vec 10).testBit 0 then { w with ended := true, stack := [], node := none } else w)

/-- The ray ends with an error at an address (R269). -/
def RayFails (s t : State) (r : Nat) (x : Ray) (a : Nat) : Prop :=
  t = { s with rays := s.rays.put r { x with err := some a, ended := true, stack := [], node := none } }

/-- A coordinate's cell and fraction at resolution N (R274). -/
def Cell (N : Nat) (x : ℚ) (i : Nat) (f : Nat) : Prop :=
  ∃ b, Near (Num.fmtOf 10) 0 (max 0 (min 1 x) * N) b ∧ (i : ℤ) = ⌊q (v32 b)⌋ ∧ Near (Num.fmtOf 10) 0 (q (v32 b) - i) f

/-- The index of corner c (R274). -/
def cornerIndex (N T : Nat) (three : Bool) (i : Nat → Nat) (c : Nat) : Nat :=
  let k (a : Nat) : Nat := min (i a + (if c.testBit a then 1 else 0)) N
  if (N + 1) ^ (if three then 3 else 2) ≤ 2 ^ T then k 0 + (N + 1) * (k 1 + if three then (N + 1) * k 2 else 0)
  else (k 0 % 2 ^ 32 ^^^ k 1 * 0x9E3779B1 % 2 ^ 32 ^^^ if three then k 2 * 0xC2B2AE3D % 2 ^ 32 else 0) % 2 ^ T

/-- The weight of corner c from the fractions (R275). -/
def CornerWeight (three : Bool) (f : Nat → ℚ) (c w : Nat) : Prop :=
  ∃ (g : Nat → Nat) (p : Nat), (∀ k < 3, Near (Num.fmtOf 10) 0 (1 - f k) (g k)) ∧
    (let a (k : Nat) : ℚ := if k = 2 ∧ three = false then 1 else if c.testBit k then f k else q (v32 (g k))
     Near (Num.fmtOf 10) 0 (a 0 * a 1) p ∧ Near (Num.fmtOf 10) 0 (q (v32 p) * a 2) w)

/-- The sum of weighted values, corner by corner, each product and each sum rounded (R275). -/
def WeightedSum (n : Nat) (w : Nat → Nat) (e : Nat → ℚ) (acc : Nat) : Prop :=
  ∃ u m : Nat → Nat, u 0 = 0 ∧ u n = acc ∧ ∀ c < n, Near (Num.fmtOf 10) 0 (q (v32 (w c)) * e c) (m c) ∧ Near (Num.fmtOf 10) 0 (q (v32 (u c)) + q (v32 (m c))) (u (c + 1))

/-- Point k of a sampler request is live (R276). -/
def LivePoint (q : Req) (three : Bool) (k : Nat) : Prop :=
  let on (i : Nat) : Prop := q.body.hasP = true → q.p.mask.getLsbD i = true ∧ lane q.p.val i ≠ 0
  k < 8 ∧ (∀ i ∈ [2 * k, 2 * k + 1], q.l.mask.getLsbD i = true ∧ on i) ∧ (three = true → q.r.mask.getLsbD k = true ∧ on k)

/-- The sampler answers: the frame takes flags, and the token goes on both destinations (R276, R352). -/
def SamplerAnswers (s t : State) (r : Nat) (q : Req) (v : Operand) : Prop :=
  ∃ fl : BitVec 6, Finishes s t r q (some v) (fun m => ∀ f, m.find f = if f = q.frame then
    ((s.plane q.plane).frames.find f).map (fun fr => if fr.gen = q.gen then { fr with flags := fr.flags ||| fl } else fr)
    else (s.plane q.plane).frames.find f)

/-- A finite f32 in a lane. -/
def FiniteLane (v : Vec) (i : Nat) : Prop := Finite (Num.fmtOf 10) (lane v i)

end Sys2Proof.Claim

/-- R260, R261, R263 to R269, R271 to R276, R278: the runnel and the samplers. A ray is accepted in order and tests nodes and
triangles depth first, each box and each triangle by its exact rule; HGF forms its features and TEX its texels, and the answers go to
their frames. -/
def Obligations.RaysAndSamplersComplete : Prop :=
  (∀ (s : State) (r : Nat) (x : Ray), s.rays.find r = some x → x.stage = .sent → s.inFlight (pkDie x.plane) < 4096 →
    (∀ y ∈ s.rays, y.2.stage = .sent → pkDie y.2.plane = pkDie x.plane → x.ord ≤ y.2.ord) →
    ∃ st l, exec (.eRayAccept r) s = .next { s with
        rays := s.rays.put r { x with stage := .queued, stack := st, best := (lane x.vec 7, 0, 0, 2 ^ 32, 0, 0) }, flights := s.flights ++ l } ∧
      (Void x.vec → st = []) ∧ (¬Void x.vec → st = [⟨elem x.vec 64 4, 1, 0⟩]) ∧
      Sends s x.plane x.elem x.body.dest1 x.frame x.gen { x.l with kind := 0#4 } l) ∧
  (∀ (s : State) (r : Nat) (x : Ray) (it : RayItem) (rest : List RayItem), s.rays.find r = some x → x.stage = .queued → x.ended = false →
    x.stack = it :: rest →
    -- a node
    (it.tris = 0 → x.node = none → ∃ t, exec (.eNodeInjection r) s = .next t ∧
      (it.addr % 128 ≠ 0 ∨ 32 < it.depth → RayFails s t r x it.addr) ∧
      (it.addr % 128 = 0 → it.depth ≤ 32 →
        (∀ s1 e, s.vread { x.iss with frame := none } it.addr 128 = (s1, .error e) → RayFails s1 t r x it.addr) ∧
        (∀ s1 l, s.vread { x.iss with frame := none } it.addr 128 = (s1, .ok l) → (¬GoodNode l → RayFails s1 t r x it.addr) ∧
          (GoodNode l → t = { s1 with rays := s1.rays.put r { x with node := some (it.addr, l) } })))) ∧
    (∀ a l, x.node = some (a, l) → (∀ k < 3, Finite (Num.fmtOf 10) (wordAt l (4 * k) 4)) → (∀ i < 8, FiniteLane x.vec i) →
      (∀ k < 3, 0 < byteAt l (12 + k) ∧ byteAt l (12 + k) < 255) → Finite (Num.fmtOf 10) x.best.1 →
      ∃ (kids : List Nat) (entry : Nat → Num.Val) (hit : Nat → Prop),
        exec (.eBoxTest r) s = .next { s with
          rays := s.rays.put r { x with node := none, nodes := x.nodes + 1, stack := kids.map (childItem l it.depth) ++ rest } } ∧
        (∀ i, Child l i → Hits x l i (entry i) (hit i)) ∧ kids.Nodup ∧ (∀ i, i ∈ kids ↔ Child l i ∧ hit i) ∧
        kids.Pairwise (fun i j => place (entry i) < place (entry j) ∨ (place (entry i) = place (entry j) ∧ i < j))) ∧
    -- a triangle
    (it.tris ≠ 0 → ∃ t, exec (.eTriangleTest r) s = .next t ∧ (it.addr % 16 ≠ 0 → RayFails s t r x it.addr) ∧
      (it.addr % 16 = 0 →
        (∀ s1 e, s.vread { x.iss with frame := none } it.addr 48 = (s1, .error e) → RayFails s1 t r x it.addr) ∧
        (∀ s1 l, s.vread { x.iss with frame := none } it.addr 48 = (s1, .ok l) → (1 < wordAt l 44 4 → RayFails s1 t r x it.addr) ∧
          (wordAt l 44 4 ≤ 1 → (∀ i < 9, Finite (Num.fmtOf 10) (wordAt l (4 * i) 4)) → (∀ i < 8, FiniteLane x.vec i) → Finite (Num.fmtOf 10) x.best.1 → ∃ z,
            t = { s1 with rays := s1.rays.put r z } ∧
            Best x { x with tris := x.tris + 1, stack := if it.tris = 1 then rest else ⟨(it.addr + 48) % 2 ^ 64, it.depth, it.tris - 1⟩ :: rest } z l))))) ∧
  (∀ (s : State) (r : Nat) (x : Ray), s.rays.find r = some x → x.stage = .queued → (x.ended = true ∨ (x.stack = [] ∧ x.node = none)) →
    let gone : Prop := ∃ t, exec (.eRayComplete r) s = .next t ∧ t = { s with rays := s.rays.del r, csrs := t.csrs } ∧ CountsStale s t x.plane 1
    (∀ p f, s.planes.find x.plane = some p → p.frames.find x.frame = some f →
      (f.gen = x.gen → exec (.eRayComplete r) s = .next { s with rays := s.rays.put r { x with stage := .done } }) ∧
      (f.gen ≠ x.gen → gone)) ∧
    (∀ p, s.planes.find x.plane = some p → p.frames.find x.frame = none → gone)) ∧
  -- HGF
  (∀ (s s1 : State) (r : Nat) (q : Req) (fr : Frame) (vals : List Nat) (pts : List Nat), let t := s.reqTid q; let o := q.body.operand.toNat; let level := o / 2 ^ 8 % 16
    let F := hgF t; let T := t / 2 ^ 453 % 32; let three := t.testBit 460; let N := hgRes t level
    s.reqs.find r = some q → (q.stage = .sent ∨ q.stage = .queued) → s.planes.has q.plane = true → q.opc = 0xB3 →
    tidValid t = true → level < t / 2 ^ 448 % 32 → tidFmt t = 8 → tidBase t % 64 = 0 → (three = true → q.body.hasR = true) → o.testBit 12 = false →
    (∀ k, k ∈ pts ↔ LivePoint q three k) → pts.Pairwise (· < ·) →
    (∀ k ∈ pts, FiniteLane q.l.val (2 * k) ∧ FiniteLane q.l.val (2 * k + 1) ∧ (three = true → FiniteLane q.r.val k)) →
    (∀ v ∈ vals, Finite (Num.fmtOf 8) v) →
    let C := if three then 8 else 4
    ∃ (cell frac : Nat → Nat → Nat) (w : Nat → Nat → Nat),
      (∀ k ∈ pts, (∀ a < (if three then 3 else 2), Cell N (Claim.q (v32 (if a = 2 then lane q.r.val k else lane q.l.val (2 * k + a)))) (cell k a) (frac k a)) ∧
        ∀ c < C, CornerWeight three (fun a => Claim.q (v32 (frac k a))) c (w k c)) ∧
      (s.sampleReads q 16 (pts.flatMap (fun k => (List.range C).flatMap (fun c => (List.range F).map (fun f =>
          spaceLoc (tidSpace t) ((tidBase t + 2 * F * (level * 2 ^ T + cornerIndex N T three (cell k) c) + 2 * f : Nat) : ℤ))))) = (s1, .ok vals) →
        s1.planes.has q.plane = true → (s1.plane q.plane).frames.find q.frame = some fr → fr.gen = q.gen →
        ∃ t1 V m, exec (.eSamplerResult r) s = .next t1 ∧ SamplerAnswers s1 t1 r q ⟨V, m, 0#4⟩ ∧
          (∀ i < 16, m.getLsbD i = true ↔ ∃ k ∈ pts, ∃ f < F, (k * F + f) / 2 = i) ∧
          (∀ k < 8, ∀ f < F, k * F + f < 32 → (k ∉ pts → elem V 16 (k * F + f) = 0) ∧
            ∀ j, pts[j]? = some k → ∃ acc R R', WeightedSum C (w k) (fun c => qOf (Num.fmtOf 8) (vals.getD ((j * C + c) * F + f) 0)) acc ∧
              R.mode = 0 ∧ (elem V 16 (k * F + f), R') = Num.round (Num.fmtOf 8) 1 R (v32 acc)))) ∧
  (∀ t level : Nat, t < 2 ^ 512 → ∃ p : Nat → Nat, p 0 = 0x3F800000 ∧
    ((∀ i < level, Finite (Num.fmtOf 10) (p i) → Finite (Num.fmtOf 10) (t / 2 ^ 480) → Near (Num.fmtOf 10) 0 (q (v32 (p i)) * q (v32 (t / 2 ^ 480))) (p (i + 1))) ∧
      ∀ m, Finite (Num.fmtOf 10) (p level) → Near (Num.fmtOf 10) 0 (((t / 2 ^ 464 % 2 ^ 16 : Nat) : ℚ) * q (v32 (p level))) m → Finite (Num.fmtOf 10) m → 0 ≤ q (v32 m) →
        (hgRes t level : ℤ) = min ⌊q (v32 m)⌋ (2 ^ 24))) ∧
  -- TEX
  (∀ (s s1 : State) (r : Nat) (q : Req) (fr : Frame) (vals : List Nat) (pts : List Nat), let t := s.reqTid q; let o := q.body.operand.toNat
    let C := tidDim t 0; let W := tidDim t 1; let H := tidDim t 2; let bil := o.testBit 8; let n := if bil then 4 else 1; let out := q.body.fmt.toNat
    let flat := t - t / 2 ^ 72 % 64 * 2 ^ 72; let mode := q.body.mod.toNat % 8
    s.reqs.find r = some q → (q.stage = .sent ∨ q.stage = .queued) → s.planes.has q.plane = true → q.opc = 0xB5 →
    texCause q t = none → (out = 8 ∨ out = 9 ∨ out = 10) → mode < 4 → 0 < C → 0 < W → 0 < H →
    (∀ k, k ∈ pts ↔ LivePoint q false k) → pts.Pairwise (· < ·) → (∀ k ∈ pts, FiniteLane q.l.val (2 * k) ∧ FiniteLane q.l.val (2 * k + 1)) →
    (∀ v ∈ vals, Finite (Num.fmtOf (tidFmt t)) v) →
    ∃ (su : Nat → Nat → Nat) (ix : Nat → Nat → ℤ) (w : Nat → Nat → Nat),
      (∀ k ∈ pts, ∀ a < 2, ∃ b, Near (Num.fmtOf 10) 0 (Claim.q (v32 (lane q.l.val (2 * k + a))) * (if a = 0 then W else H : Nat)) b ∧
        (bil = false → su k a = b) ∧ (bil = true → Finite (Num.fmtOf 10) b → Near (Num.fmtOf 10) 0 (Claim.q (v32 b) - 1 / 2) (su k a)) ∧
        (Finite (Num.fmtOf 10) (su k a) → ix k a = ⌊Claim.q (v32 (su k a))⌋)) ∧
      (∀ k ∈ pts, bil = true → (∀ a < 2, Finite (Num.fmtOf 10) (su k a)) → ∀ c < 4, CornerWeight false (fun a => Claim.q (v32 (su k a)) - ix k a) c (w k c)) ∧
      let resolve (size : Nat) (i : ℤ) : Nat := if o.testBit 9 then (min (max i 0) (size - 1)).toNat else (i % size).toNat
      ((∀ k ∈ pts, ∀ a < 2, Finite (Num.fmtOf 10) (su k a)) →
        s.sampleReads q (NodeCheck.width (tidFmt t)) (pts.flatMap (fun k => (List.range n).flatMap (fun c => (List.range C).map (fun ch =>
          tidElemAt flat ch (resolve W (ix k 0 + (c % 2 : Nat))) (resolve H (ix k 1 + (c / 2 : Nat))) 0)))) = (s1, .ok vals) →
        s1.planes.has q.plane = true → (s1.plane q.plane).frames.find q.frame = some fr → fr.gen = q.gen →
        ∃ t1 V m, exec (.eSamplerResult r) s = .next t1 ∧ SamplerAnswers s1 t1 r q ⟨V, m, 0#4⟩ ∧
          let b := NodeCheck.width out
          (∀ i < 16, m.getLsbD i = true ↔ ∃ k ∈ pts, ∃ ch < C, (k * C + ch) * b / 32 = i) ∧
          (∀ k < 8, ∀ ch < C, (k * C + ch + 1) * b ≤ 512 → (k ∉ pts → elem V b (k * C + ch) = 0) ∧
            ∀ j, pts[j]? = some k → ∃ R R', R.mode = mode ∧
              let e (c : Nat) : Nat := vals.getD ((j * n + c) * C + ch) 0
              (bil = false → (elem V b (k * C + ch), R') = Num.round (Num.fmtOf out) 1 R (Num.decode (Num.fmtOf (tidFmt t)) (e 0))) ∧
              (bil = true → ∃ acc, WeightedSum 4 (w k) (fun c => qOf (Num.fmtOf (tidFmt t)) (e c)) acc ∧
                (elem V b (k * C + ch), R') = Num.round (Num.fmtOf out) 1 R (v32 acc)))))

namespace Sys2Proof.Claim

open Sys2Proof Sys2Proof.Machine

/-! Events of the scheduler. -/

/-- Effective level of a queued record (R45, R312). -/
def levelOf (s : State) (q : QRec) : Nat :=
  min 7 (q.record.toNat / 2 ^ 144 % 8 + (s.timer - q.estamp) / max 1 ((s.csr (s.partOfCtx q.ctx) 0x0100).toNat % 2 ^ 16))

/-- Every virtual plane that the block of a record uses is bound, resident, and not on its way out (R166, R314, R318). -/
def Runnable (s : State) (q : QRec) : Prop :=
  let b := q.record.toNat / 2 ^ 152 % 2 ^ 24
  ∀ g, s.grant q.ctx b = some g → ∀ vp < 4, g.vps.testBit vp = true → s.savedOf q.ctx b vp = none ∧ ∃ pk p,
    (s.block q.ctx b).binds.find vp = some pk ∧ s.planes.find pk = some p ∧ p.swap = 0

/-- Record q may be taken from queue k of a list: the queue is enabled and holds it, and its planes are bound. -/
def MayRun (s : State) (qs : List Nat) (k : Nat) (q : QRec) : Prop := k ∈ qs ∧ (s.qcfg k).testBit 0 = true ∧ q ∈ s.queues.get k [] ∧ Runnable s q

/-- Two records of one block. -/
def SameBlock (q r : QRec) : Prop := q.ctx = r.ctx ∧ q.record.toNat / 2 ^ 152 % 2 ^ 24 = r.record.toNat / 2 ^ 152 % 2 ^ 24

/-- A plane is in the middle of a draw (R279). -/
def MidDraw (p : Plane) : Prop :=
  ∃ i, p.iter = some i ∧ i.draw = true ∧ i.complete = false ∧ (i.running = true ∨ ∃ f ∈ p.frames, f.2.src ≠ .spawn)

/-- A unit starts a record (R10, R41, R308, R312, R314): its block is read again, its registers are those of the record, and it runs
with its block's privilege and region. -/
def Starts (s t : State) (u k : Nat) (q : QRec) (lvl : Nat) : Prop :=
  let b := q.record.toNat / 2 ^ 152 % 2 ^ 24
  let s1 := ({ s with queues := s.queues.put k ((s.queues.get k []).erase q), cycles := t.cycles } : State).rereadBlock q.ctx b
  t = { s1 with units := t.units, fresh := s.fresh + 1 } ∧
  (∀ v, v ≠ u → t.unit v = s.unit v) ∧ (t.unit u).status = .running ∧ (t.unit u).record = q.record ∧ (t.unit u).recAddr = q.addr ∧ (t.unit u).ctx = q.ctx ∧
  (t.unit u).priv = s1.effPriv q.ctx b ∧ (t.unit u).recPriv = s1.effPriv q.ctx b ∧ (t.unit u).region = s1.grant q.ctx b ∧ (t.unit u).horizon = none ∧ (t.unit u).elev = lvl ∧ (t.unit u).handler = q.handler ∧ (t.unit u).wait = none ∧
  (q.resume = none → q.args = [] → (t.unit u).pc = BitVec.ofNat 57 q.record.toNat ∧ (t.unit u).preds = 0 ∧
    ∀ i : Fin 32, (t.unit u).regs[i] = if i.val = 1 then BitVec.ofNat 64 (q.record.toNat / 2 ^ 64 % 2 ^ 57) else if i.val = 2 then BitVec.ofNat 64 b else 0) ∧
  (∀ r, q.resume = some r → (t.unit u).pc = r.pc ∧ (t.unit u).preds = r.preds)

/-- A unit takes no record: it is not idle, or not there (R383). -/
def Idle (s : State) (u : Nat) : Prop :=
  u < 264 ∧ (s.unit u).status = .idle ∧ (256 ≤ u ∨ (s.feat (27 + u / 64) = true ∧ (s.full = true ∨ u = 0)))

/-- Queues of a unit (R312): a partition's host queue for a control core, the 32 of its die for a sequencer. -/
def OwnQueues (s : State) (u : Nat) (qs : List Nat) : Prop :=
  ∀ k, k ∈ qs ↔ if 256 ≤ u then k = 128 + s.partOfUnit u else k / 32 = u / 64

/-- Planes that a rectangle of blocks on a physical plane meets. -/
def HeldBy (s : State) (g : Region) (pp pk : Nat) (p : Plane) : Prop :=
  s.planes.find pk = some p ∧ pkDie pk = g.die ∧ pkPp pk = pp ∧ g.ox < pkOx pk + p.w ∧ pkOx pk < g.ox + g.w ∧ g.oy < pkOy pk + p.h ∧ pkOy pk < g.oy + g.h

/-- A plane may give way to a record of a level (R315). -/
def GivesWay (s : State) (ctx cbix lvl : Nat) (p : Plane) : Prop :=
  (p.ctx ≠ ctx ∨ p.cbix ≠ cbix) ∧ ¬MidDraw p ∧
  p.boundAt + s.eff p.ctx p.cbix 3 159 128 ≤ max s.timer p.boundAt ∧ min p.prio (s.effPrio p.ctx p.cbix) < lvl

/-- A plane binds for a waiting record, or others start to give way, or nothing can be done (R315). -/
def BindsFor (s t : State) (ctx cbix vp lvl : Nat) (g : Region) : Prop :=
  (∀ pp < 4, (∀ pk p, ¬HeldBy s g pp pk p) → (∀ j < pp, ∃ pk p, HeldBy s g j pk p) → let pk := planeKey g.die g.ox g.oy pp
    t = { s with
      planes := s.planes.put pk { Plane.reset with ctx := ctx, cbix := cbix, vp := vp, w := g.w, h := g.h, boundAt := s.timer }
      blocks := s.blocks.put (ctx * 2 ^ 24 + cbix) { s.block ctx cbix with binds := (s.block ctx cbix).binds.put vp pk } }) ∧
  ((∀ pp < 4, ∃ pk p, HeldBy s g pp pk p) → (∀ pp < 4, ∃ pk p, HeldBy s g pp pk p ∧ ¬GivesWay s ctx cbix lvl p) → t = s) ∧
  ((∀ pp < 4, ∃ pk p, HeldBy s g pp pk p ∧ p.swap = 0) → (∃ pp < 4, ∀ pk p, HeldBy s g pp pk p → GivesWay s ctx cbix lvl p) →
    t = { s with planes := t.planes } ∧ ∃ pp < 4, (∀ pk p, HeldBy s g pp pk p → GivesWay s ctx cbix lvl p) ∧
      (∀ j < 4, (∀ pk p, HeldBy s g j pk p → GivesWay s ctx cbix lvl p) → ∀ pk p, HeldBy s g pp pk p → ∃ k r, HeldBy s g j k r ∧ s.ownPrio pk ≤ s.ownPrio k) ∧
      ∀ pk, t.planes.find pk = (s.planes.find pk).map (fun p =>
        if pkDie pk = g.die ∧ pkPp pk = pp ∧ overlaps g.ox g.oy g.w g.h (pkOx pk) (pkOy pk) p.w p.h = true ∧ p.swap = 0 then { p with swap := 1, drainPrio := lvl } else p))

end Sys2Proof.Claim

/-- R10, R41, R45, R166, R185, R279, R312 to R321, R383: the scheduler. An idle unit takes the record of highest level whose planes are
bound, within a block the first; stealing takes the oldest of the highest level elsewhere; a virtual plane binds to the lowest free
physical plane, or victims that may give way start to drain; a drained plane leaves its region for its save area and returns to a free
place. -/
def Obligations.SchedulingMovesRecordsAndPlanes : Prop :=
  (∀ (s : State) (u : Nat) (qs : List Nat), Idle s u → OwnQueues s u qs →
    ((∀ k q, ¬MayRun s qs k q) → exec (.eDispatch u) s = .next s) ∧
    ((∃ k q, MayRun s qs k q) → ∃ t k q, exec (.eDispatch u) s = .next t ∧ MayRun s qs k q ∧ Starts s t u k q (levelOf s q) ∧
      (∀ k' q', MayRun s qs k' q' → levelOf s q' ≤ levelOf s q) ∧
      ∀ k' q', MayRun s qs k' q' → levelOf s q' = levelOf s q → SameBlock q' q → q.ord ≤ q'.ord)) ∧
  (∀ (s : State) (u : Nat) (own others : List Nat), Idle s u → u < 256 → OwnQueues s u own → (∀ k q, ¬MayRun s own k q) →
    (∀ k, k ∈ others ↔ k < 128 ∧ k / 32 ≠ u / 64 ∧ s.partOfDie (k / 32) = s.partOfUnit u) →
    let steal (q : QRec) : Prop := ∀ b, s.cb q.ctx (q.record.toNat / 2 ^ 152 % 2 ^ 24) = some b → b.testBit 57 = false
    (s.timer < (s.unit u).idleAt + (s.csr (s.partOfUnit u) 0x0100).toNat / 2 ^ 16 % 2 ^ 16 → exec (.eSteal u) s = .next s) ∧
    ((s.unit u).idleAt + (s.csr (s.partOfUnit u) 0x0100).toNat / 2 ^ 16 % 2 ^ 16 ≤ s.timer → (∃ k q, MayRun s others k q ∧ steal q) →
      ∃ t k q k0 x, exec (.eSteal u) s = .next t ∧ MayRun s others k q ∧ steal q ∧ Starts s t u k q (levelOf s q) ∧ t.cycles = s.cycles ∧
        MayRun s others k0 x ∧ steal x ∧ levelOf s x = levelOf s q ∧ SameBlock x q ∧
        ∀ k' q', MayRun s others k' q' → steal q' →
          (levelOf s q' < levelOf s x ∨ (levelOf s q' = levelOf s x ∧ x.estamp ≤ q'.estamp)) ∧
          (levelOf s q' = levelOf s q → SameBlock q' q → q.ord ≤ q'.ord))) ∧
  (∀ (s : State) (ctx cbix vp lvl : Nat) (g : Region), s.grant ctx cbix = some g → vp < 4 → g.vps.testBit vp = true → s.boundKey ctx cbix vp = none →
    s.savedOf ctx cbix vp = none → s.waitingLevel ctx cbix = some lvl → (s.planes.map Prod.fst).Nodup →
    ∃ t, exec (.ePlaneBind ctx cbix vp) s = .next t ∧
      exec (.ePlaneBindRecheck ctx cbix vp) s = .next t ∧ BindsFor s t ctx cbix vp lvl g) ∧
  (∀ (s : State) (pk : Nat) (p : Plane), s.planes.find pk = some p →
    (p.swap = 1 → ¬MidDraw p →
      (∀ x ∈ s.units, x.2.status = .running ∨ x.2.status = .sleeping → x.2.ctx = p.ctx → x.2.record.toNat / 2 ^ 152 % 2 ^ 24 ≠ p.cbix) →
      exec (.eSwapOutStart pk) s = .next { s with planes := s.planes.put pk { p with swap := 2 } }) ∧
    (p.swap = 2 → s.quiescent pk = true → p.cmsg = [] → ∃ (z : State) (v : Saved), exec (.eSwapOutSave pk) s = .next ((z.pokeSys p.ctx (s.planeArea p) (leBytes 8 2)).wakeReqs) ∧
      v ∈ z.saved ∧ v.ctx = p.ctx ∧ v.cbix = p.cbix ∧ v.vp = p.vp ∧ v.restoring = false ∧ v.region = ⟨pkDie pk, pkOx pk, pkOy pk, p.w, p.h, 0⟩ ∧
      v.plane.state = p.state ∧ v.plane.nodes = p.nodes ∧ v.plane.flags = p.flags ∧ v.plane.free = p.free ∧ v.plane.wregs = p.wregs ∧
      v.kills = [] ∧ z.roles = s.roles ∧ z.cmds.map Prod.fst = s.cmds.map Prod.fst ∧
      (∀ c ∈ s.edata, ∀ e ∈ s.lastData pk, c.1 / 28672 = 4096 * pkDie pk + e → e < 4096 → c ∈ v.edata) ∧
      (∀ c ∈ z.edata, ∀ e ∈ s.lastData pk, e < 4096 → c.1 / 28672 ≠ 4096 * pkDie pk + e))) ∧
  (∀ (s : State) (ctx cbix vp lvl pp : Nat) (v : Saved) (g : Region), s.savedOf ctx cbix vp = some v → s.grant ctx cbix = some g → v.plane.w ≤ g.w → v.plane.h ≤ g.h →
    (v.restoring = true ∨ s.waitingLevel ctx cbix = some lvl) → v.kills = [] →
    pp < 4 → (∀ pk p, ¬HeldBy s g pp pk p) → (∀ j < pp, ∃ pk p, HeldBy s g j pk p) →
    -- its element data lies where no other context's does
    (v.plane.usesData = false ∨ ∀ e ∈ v.plane.elems (planeKey g.die g.ox g.oy 0), ∀ c, s.edOwner.find (4096 * g.die + e) = some c → c = v.plane.ctx) →
    let pk := planeKey g.die g.ox g.oy pp
    ∃ z : State, exec (.eSwapIn ctx cbix vp) s = .next ((z.pokeSys v.plane.ctx (s.planeArea v.plane) (leBytes 8 0)).wakeReqs) ∧
      (∀ x ∈ z.saved, x.key ≠ v.key) ∧ (z.plane pk).state = v.plane.state ∧ (z.plane pk).nodes = v.plane.nodes ∧ (z.plane pk).swap = 0 ∧
      (z.plane pk).boundAt = s.timer ∧ (z.plane pk).flags = (s.reload v.plane).flags ∧ (z.block v.ctx v.cbix).binds.find v.vp = some pk ∧
      (v.key / 4 % 256 = pk / 4 % 256 → z.roles = s.roles))

namespace Sys2Proof.Claim

open Sys2Proof Sys2Proof.Machine

/-! Events that come from outside: doorbells, launches, host and remote requests, the network engine. -/

/-- Bit b is pending where a control core of the partition enables it, and nothing else has changed (R358). -/
def Pends (s t : State) (part b : Nat) : Prop :=
  t = { s with units := t.units } ∧ ∀ u, t.unit u = if 256 ≤ u ∧ u < 264 ∧ s.partOfUnit u = part ∧ (s.unit u).tien.getLsbD b = true then
    { s.unit u with tpend := (s.unit u).tpend ||| (1#64 <<< b) } else s.unit u

/-- A number of n bytes at o in a window's launch slot (Table 22.2). -/
def slotField (s : State) (win slot o n : Nat) : Nat :=
  leNat ((List.range n).map (fun j => s.slotsHost.get (65536 * win + 64 * slot + (o + j)) 0#8))

/-- A request of a host or of another module is well formed: a load, a store or an atomic of a power of two of bytes, aligned, and 4
or 8 for an atomic of Table 6.6 (R158, R378). -/
def BusForm (op : BusOp) (pa size : Nat) : Prop :=
  (size = 1 ∨ size = 2 ∨ size = 4 ∨ size = 8) ∧ pa % size = 0 ∧ (op = .load ∨ op = .store ∨ (4 ≤ size ∧ ∃ k, op = .amo k ∧ k.toNat < 10))

/-- The number of n bytes at a physical address. -/
def bytesAt (s : State) (pa n : Nat) : Nat := leNat ((List.range n).map (fun i => Memory.read s.mem (pa + i)))

/-- A request on HBM is performed, indivisibly (R107, R378): what an atomic makes of the old value, and nothing else. -/
def OnHbm (s t : State) (op : BusOp) (pa size data cmp : Nat) : Prop :=
  Wrote s t ∧ t.units = s.units ∧ t.csrs = s.csrs ∧
  (op = .load → t = s) ∧
  (op ≠ .load → ∀ a, (a < pa ∨ pa + size ≤ a) → Memory.read t.mem a = Memory.read s.mem a) ∧
  (op = .store → bytesAt t pa size = data % 2 ^ (8 * size)) ∧
  ∀ k, op = .amo k → AmoResult k.toNat (8 * size) (bytesAt s pa size) (data % 2 ^ (8 * size)) (cmp % 2 ^ (8 * size)) (bytesAt t pa size)

/-- The directory of a home node after an access from outside, which raises nothing (R103, R105): a write is the newest entry, of the
agent outside, and a release leaves its pair. -/
def Enters (s : State) (rs : List RaceEntry) (far pa size : Nat) (wrote atomic rel : Bool) : Prop :=
  (wrote = false → rel = false → rs = s.races) ∧
  ((dirOf pa).isSome = true → wrote = true → ∃ r, rs.head? = some r ∧ r.granule = pa / 64 ∧ r.writer = 2 ^ 36 + far ∧
    r.bytes = byteMask pa size ∧ r.atomic = atomic ∧ r.scope = 11) ∧
  ((dirOf pa).isSome = true → rel = true → ∃ r, rs.head? = some r ∧ r.granule = pa / 64 ∧ r.rel = some (2 ^ 36 + far, 0, none)) ∧
  ∀ r ∈ rs, r.granule = pa / 64 ∨ r ∈ s.races

/-- A request of the form given is performed on HBM; an atomic is an acquire and a release (log 122). -/
def Served (s z : State) (rs : List RaceEntry) (far : Nat) (op : BusOp) (pa size data cmp : Nat) : Prop :=
  OnHbm s z op pa size data cmp ∧
  Enters s rs far pa size (decide (op ≠ .load)) (decide (op ≠ .store)) (decide (op ≠ .load ∧ op ≠ .store))

/-- The home keeps a response for twice the time-out (R108). -/
def Keeps (s z : State) (src id pa v : Nat) : State :=
  { z with fresh := s.fresh + 1, kept := z.kept.put s.fresh ⟨src, id, BitVec.ofNat 64 v, s.fc + 2 * s.memto (s.homePart pa)⟩ }

end Sys2Proof.Claim

/-- R107, R108, R161, R311, R378, R379, R381: a doorbell queues its slot or notifies; a launch puts the slot's record into its queue, or
says why not, and notifies in any case; requests of the host and of other modules are performed at their home node, a remote one once;
the network engine places the bytes it receives and then counts. -/
def Obligations.OutsideRequestsArePerformed : Prop :=
  (∀ (s : State) (win : Nat) (v : BitVec 32), win < s.parts →
    (v.getLsbD 31 = false → v.toNat / 2 ^ 4 % 2 ^ 27 = 0 →
      exec (.eDoorbellLaunch win v) s = .next { s with bells := s.bells.put win (s.bells.get win [] ++ [v.toNat % 16]) }) ∧
    (v.getLsbD 31 = true → ∃ t, exec (.eDoorbellNotify win v) s = .next t ∧ Pends s t win 2) ∧
    (v.getLsbD 31 = true → exec (.eDoorbellLaunch win v) s = .next s) ∧ (v.getLsbD 31 = false → exec (.eDoorbellNotify win v) s = .next s)) ∧
  (∀ (s : State) (win slot : Nat) (rest : List Nat) (b : Nat), s.bells.get win [] = slot :: rest → slot < 16 →
    let ctx := slotField s win slot 32 2; let r := BitVec.ofNat 256 (slotField s win slot 0 32)
    let s1 : State := { s with bells := s.bells.put win rest }
    let status (z : State) (st cause : Nat) : State := { z with
      slotsHost := (z.slotsHost.put (65536 * win + 64 * slot + 36) (BitVec.ofNat 8 st)).put (65536 * win + 64 * slot + 37) (BitVec.ofNat 8 cause) }
    let refused (cause : Nat) : Prop := ∃ t, exec (.eHostLaunch win) s = .next t ∧ Pends (status s1 2 cause) t win 2
    (s.partOfCtx ctx ≠ win ∨ s.desc ctx 11 1 ≠ 2 → refused 0x10) ∧
    (s.partOfCtx ctx = win → s.desc ctx 11 1 = 2 →
      (slotField s win slot 34 2 ≠ 0 ∨ slotField s win slot 38 26 ≠ 0 ∨ recJoin r ≠ 0 → refused 0x07) ∧
      (slotField s win slot 34 2 = 0 → slotField s win slot 38 26 = 0 → recJoin r = 0 →
        (recClean r = false ∨ s.cb ctx (recCbix r) = none ∨ (s.cb ctx (recCbix r) = some b ∧ b % 2 ^ 24 ≠ recCbix r) → refused 0x07) ∧
        (recClean r = true → s.cb ctx (recCbix r) = some b → b % 2 ^ 24 = recCbix r →
          (∀ c, s1.makeLive ctx (recCbix r) = .error c → refused c) ∧
          ∀ s2, s1.makeLive ctx (recCbix r) = .ok s2 → let k := s2.queueOf ctx (recCbix r)
            let fits : Prop := 128 ≤ k ∨ s2.partOfDie (k / 32) = win
            (¬fits → refused 0x18) ∧ (fits → (s2.qcfg k).testBit 0 = false → refused 0x07) ∧
            (fits → (s2.qcfg k).testBit 0 = true → s2.queueRoom k ctx = false → refused 0x0D) ∧
            (fits → (s2.qcfg k).testBit 0 = true → s2.queueRoom k ctx = true →
              ∃ (t z : State) (q : QRec), exec (.eHostLaunch win) s = .next t ∧ Pends (status z 1 0) t win 2 ∧ Enqueues s2 z k q ∧
                QueuedAs s2 q r 0 ctx (s2.effPrio ctx (recCbix r)) ∧ q.handler = none ∧ q.resume = none ∧ q.args = [] ∧ q.ord = s2.fresh))))) ∧
  (∀ (s : State) (op : BusOp) (pa size : Nat) (data cmp : BitVec 64),
    (∀ n, target pa = .hbm n → s.feat (19 + n) = true → MemoryOk s → BusForm op pa size →
      (pa < 2 ^ 52 → (∀ k, op = .amo k → k.toNat = 0 ∨ k.toNat = 8 ∨ k.toNat = 9) →
        ∃ z rs, exec (.eHostRequest op pa size data cmp) s = .next { z with races := rs }.wakeReqs ∧
          Served s z rs 1 op pa size data.toNat cmp.toNat) ∧
      ∀ src id, s.feat 15 = true → (∀ k ∈ s.kept, k.2.src ≠ src ∨ k.2.id ≠ id) → (∀ k ∈ s.farLocks, k.2.src ≠ src ∨ k.2.id ≠ id) →
        ∃ z rs v, exec (.eRemoteAccessArrival src id op pa size data cmp) s = .next (Keeps s { z with races := rs } src id pa v).wakeReqs ∧
          Served s z rs (src + 3) op pa size data.toNat cmp.toNat ∧ (op ≠ .store → v = bytesAt s pa size)) ∧
    (∀ src id, (∃ k ∈ s.kept, k.2.src = src ∧ k.2.id = id) ∨ (∃ k ∈ s.farLocks, k.2.src = src ∧ k.2.id = id) →
      exec (.eRemoteAccessArrival src id op pa size data cmp) s = .next s) ∧
    (∀ src id k x, s.feat 15 = true → s.present pa = true → lockToken pa = some k → s.tokens.get k ⟨none, []⟩ = x →
      (∀ k ∈ s.kept, k.2.src ≠ src ∨ k.2.id ≠ id) → (∀ k ∈ s.farLocks, k.2.src ≠ src ∨ k.2.id ≠ id) →
      let me := some (2 ^ 40 + src, data.toNat, 0)
      let lock (t : State) : Prop := exec (.eRemoteAccessArrival src id .lock pa size data cmp) s = .next t
      let unlock (t : State) : Prop := exec (.eRemoteAccessArrival src id .unlock pa size data cmp) s = .next t
      (x.holder = none → lock (Keeps s { s with tokens := s.tokens.put k ⟨me, []⟩ } src id pa 0).wakeReqs) ∧
      (x.holder = me → lock (Keeps s s src id pa 0x21).wakeReqs) ∧
      (x.holder ≠ none → x.holder ≠ me → lock { s with fresh := s.fresh + 1, tokens := s.tokens.put k { x with fifo := x.fifo ++ [s.fresh] }
                                                       farLocks := s.farLocks.put s.fresh ⟨src, id, data.toNat, s.homePart pa⟩ }.wakeReqs) ∧
      (x.holder ≠ me → unlock (Keeps s s src id pa 0x22).wakeReqs) ∧
      (x.holder = me → ∃ rs, Enters s rs (src + 3) pa 1 false false true ∧
        (x.fifo = [] → unlock (Keeps s { s with tokens := s.tokens.del k, races := rs } src id pa 0).wakeReqs) ∧
        (∀ r rest q, x.fifo = r :: rest → s.reqs.find r = some q → q.stage ≠ .held → unlock (Keeps s { s with
          tokens := s.tokens.put k ⟨some (q.plane, q.frame, q.gen), rest⟩, races := rs, reqs := s.reqs.put r { q with stage := .done } }
            src id pa 0).wakeReqs))) ∧
    (∀ win slot o, slot < 16 → o + size ≤ 36 → pa = 2 ^ 52 + 65536 * win + 64 * slot + o → win < s.parts → win < 4 → BusForm op pa size →
      (op = .load → exec (.eHostRequest op pa size data cmp) s = .next s) ∧
      (op = .store → ∃ t, exec (.eHostRequest op pa size data cmp) s = .next t ∧ t = { s with slotsHost := t.slotsHost } ∧
        ∀ a, t.slotsHost.get a 0#8 = if 65536 * win + 64 * slot + o ≤ a ∧ a < 65536 * win + 64 * slot + o + size then
          BitVec.ofNat 8 (data.toNat / 2 ^ (8 * (a - (65536 * win + 64 * slot + o)))) else s.slotsHost.get a 0#8)) ∧
    (∀ win, pa = 2 ^ 52 + 65536 * win + 0x800 → win < s.parts → win < 4 → op = .store → size = 4 → ∃ t,
      exec (.eHostRequest op pa size data cmp) s = .next t ∧
      (exec (if data.getLsbD 31 then .eDoorbellNotify win (data.setWidth 32) else .eDoorbellLaunch win (data.setWidth 32)) s = .next t))) ∧
  (∀ (s s1 : State) (part ctx : Nat) (addr : BitVec 64) (l : List (BitVec 8)) (c : BitVec 16), s.feat 14 = true → s.partOfCtx ctx = part →
    s.placePuts (s.netIss part ctx).tlb (s.netIss part ctx) false addr.toNat (leNat l) (pieces addr.toNat l.length) = (s1, .ok ()) →
    let v := s1.csr part 0x0403; let pa := v.toNat / 2 ^ 12 % 2 ^ 40 * 4096 + 8 * c.toNat
    (16 * (v.toNat % 2 ^ 12 + 1) ≤ c.toNat → exec (.eNeIncomingWrite part ctx addr l c) s = .next s1.wakeReqs) ∧
    (c.toNat < 16 * (v.toNat % 2 ^ 12 + 1) → MemoryOk s1 → ∀ n, target pa = .hbm n → ∃ z rs,
      exec (.eNeIncomingWrite part ctx addr l c) s = .next { z with races := rs }.wakeReqs ∧ OnHbm s1 z (.amo 0) pa 8 1 0 ∧
      Enters s1 rs 2 pa 8 true false true)) ∧
  (∀ (s s1 : State) (part ctx len : Nat) (addr : BitVec 64) (l : List Byte), s.feat 14 = true → s.partOfCtx ctx = part →
    s.vreadAny (s.netIss part ctx) addr.toNat len = (s1, .ok l) → exec (.eNeIncomingRead part ctx addr len) s = .next s1)

namespace Sys2Proof.Claim

open Sys2Proof Sys2Proof.Machine

/-! Events of standpipes, links and power. -/

/-- The standpipe is `p` now, and nothing else has changed. -/
def PipeSet (s t : State) (k : Nat) (p : Pipe) : Prop := t = { s with pipes := s.pipes.put k p }

/-- The standpipe is `p` now, and its die's log has taken an event (R371, Table 20.5): type, bank, lane, spares in use, retries. -/
def PipeLogged (s t : State) (k : Nat) (p : Pipe) (type bank lane spares retries : Nat) : Prop :=
  let part := s.partOfDie (k / 32); let n := 0x0384 + k / 32; let v := s.csr part n
  t = { s with pipes := s.pipes.put k p, csrs := t.csrs } ∧ (∀ q m, m < 65536 → m ≠ n → t.csr q m = s.csr q m) ∧
  (v.getLsbD 60 = false → bank < 64 → lane < 2 ^ 12 → spares < 32 → retries < 16 → (t.csr part n).toNat =
    type * 2 ^ 62 + 2 ^ 60 + 2 ^ 40 + k % 32 * 2 ^ 35 + bank * 2 ^ 29 + lane * 2 ^ 17 + spares * 2 ^ 12 + retries * 2 ^ 8) ∧
  (v.getLsbD 60 = true → ∀ b < 64, (b < 40 ∨ (56 ≤ b ∧ b ≠ 61)) → (t.csr part n).getLsbD b = v.getLsbD b) ∧
  (v.getLsbD 60 = true → (t.csr part n).getLsbD 61 = true ∧ (t.csr part n).toNat / 2 ^ 40 % 2 ^ 16 = min 65535 (v.toNat / 2 ^ 40 % 2 ^ 16 + 1))

/-- A beat leaves: parity will fail in the group of the lane that LINJ inverts, if that lane carries data or parity (R366, R375). -/
def BeatLeaves (s : State) (k : Nat) (p p' : Pipe) : Prop :=
  let v := s.csr (s.partOfDie (k / 32)) 0x0389; let lane := v.toNat / 2 ^ 28 % 2 ^ 12
  let on := v.getLsbD 0 = true ∧ v.toNat / 2 ^ 45 % 4 = k / 32 ∧ v.toNat / 2 ^ 40 % 32 = k % 32
  let group (l : Nat) : Nat := if l < 2048 then l / 32 else l - 2048
  ∃ f, p' = { p with at_ := s.fc, failed := false, failing := f } ∧ (¬on → f = []) ∧
    (on → lane < 2112 → f = if lane ∈ (s.pipe k).swaps then [] else [group lane]) ∧
    (on → 2112 ≤ lane → f = match (s.pipe k).swaps[lane - 2112]? with
      | some l => if l ∈ (s.pipe k).swaps.drop (lane - 2111) then [] else [group l]
      | none => [])

/-- One standpipe, and no other, is known to the machine. -/
def OnlyPipe (s : State) (k : Nat) (p : Pipe) : Prop := s.pipes = [(k, p)]

/-- Fields of a link's register (Table 20.9). -/
def Link (v : Word) (retrains failed sel width : Nat) : Prop :=
  v.toNat / 2 ^ 32 % 2 ^ 16 = retrains ∧ v.toNat / 2 ^ 16 % 2 ^ 16 = failed ∧ v.toNat / 2 ^ 4 % 4 = sel ∧ v.toNat / 2 ^ 2 % 4 = width

/-- A group of n lanes holds no failed one. -/
def Clean (failed n g : Nat) : Prop := ∀ j < n, failed.testBit (n * g + j) = false

/-- Width and selection that a link has with failed lanes, at a width and the two below (R373): the lowest half or quarter without one. -/
def Shape (failed frm sel width : Nat) : Prop :=
  let half := ∃ h < 2, Clean failed 8 h; let quarter := ∃ g < 4, Clean failed 4 g
  (frm = 8 → (half → width = 1 ∧ sel < 2 ∧ Clean failed 8 sel ∧ ∀ h < sel, ¬Clean failed 8 h) ∧ (¬half → width = 3)) ∧
  (frm = 4 → (quarter → width = 2 ∧ sel < 4 ∧ Clean failed 4 sel ∧ ∀ g < sel, ¬Clean failed 4 g) ∧ (¬quarter → width = 3)) ∧
  (frm = 0 → width = 3)

/-- A link's register, and whether its traffic pauses: nothing else has changed. -/
def LinkSet (s t : State) (port : Nat) (pause : Bool) : Prop :=
  let part := s.partOfDie (port / 3); let n := 0x0390 + port
  t = { s with csrs := t.csrs, paused := t.paused } ∧ (∀ q m, m < 65536 → m ≠ n → t.csr q m = s.csr q m) ∧
  (∀ p, p ∈ t.paused ↔ p ∈ s.paused ∨ (pause = true ∧ p = port)) ∧
  ∀ b < 64, (b < 2 ∨ (6 ≤ b ∧ b < 16) ∨ 48 ≤ b) → (t.csr part n).getLsbD b = (s.csr part n).getLsbD b

/-- A lane of a link fails (R373). -/
def LaneFails (s t : State) (port lane : Nat) : Prop :=
  let v := (s.csr (s.partOfDie (port / 3)) (0x0390 + port)); let w := t.csr (s.partOfDie (port / 3)) (0x0390 + port)
  let width := v.toNat / 4 % 4; let sel := v.toNat / 16 % 4; let failed := v.toNat / 2 ^ 16 % 2 ^ 16 ||| 2 ^ lane
  let used := width = 0 ∨ (width = 1 ∧ lane / 8 = sel) ∨ (width = 2 ∧ lane / 4 = sel)
  (¬used → LinkSet s t port false ∧ Link w (v.toNat / 2 ^ 32 % 2 ^ 16) failed sel width) ∧
  (used → LinkSet s t port true ∧ ∃ sel' width', Link w ((v.toNat / 2 ^ 32 % 2 ^ 16 + 1) % 2 ^ 16) failed sel' width' ∧
    (width = 0 → Shape failed 8 sel' width') ∧ (width = 1 → Shape failed 4 sel' width') ∧ (width = 2 → width' = 3))

/-- PWRSTAT is what it was but for fields of it (Table 22.5): stretching, stretches, clock, draw. -/
def Power (s t : State) (stretching stretches clock watts : Nat) : Prop :=
  t = { s with csrs := t.csrs } ∧ (∀ q m, m < 65536 → m ≠ 0x0401 → t.csr q m = s.csr q m) ∧
  (t.csr 0 0x0401).toNat = (s.csr 0 0x0401).toNat / 2 ^ 32 * 2 ^ 32 + watts * 2 ^ 16 + clock * 2 ^ 8 + stretches * 2 + stretching

end Sys2Proof.Claim

/-- R366 to R371, R373, R375: standpipes and links. A beat leaves with its command's next values, is checked two fc later, sent again
up to STRETRY times, its lanes tested and swapped, or its standpipe taken down; a retraining waits for a transfer, up to RTDEF. A failed
lane takes its link a step down, and a retraining up again, each under a pause. -/
def Obligations.StandpipesAndLinksRecover : Prop :=
  (∀ (s : State) (k i : Nat) (c : Cmd) (vs : List Nat) (z : State), (s.pipe k).down = false → (s.pipe k).training = false → (s.pipe k).beat = none →
    s.pipeCmd k = some (i, c) →
    (c.leg = 1 → ∃ t p, exec (.eStandpipeBeat k) s = .next t ∧ PipeSet s t k p ∧
      BeatLeaves s k { s.pipe k with beat := some (i, s.beatBank c, (c.move c.pos).w, c.buf), retries := 0, found := [], swapped := [] } p) ∧
    (∀ o, c.leg ≠ 1 → s.readBeat c (s.nextBeat c k) [] = (z, vs, o) →
      (vs ≠ [] → ∃ t p, exec (.eStandpipeBeat k) s = .next t ∧ PipeSet z t k p ∧
        BeatLeaves z k { s.pipe k with beat := some (i, s.beatBank c, (c.move c.pos).w, vs), retries := 0, found := [], swapped := [] } p) ∧
      (∀ e a, vs = [] → o = some (e, a) →
        exec (.eStandpipeBeat k) s = .next { z with cmds := z.cmds.put i { c with err := some (e.cause, e.info, a) } }))) ∧
  (∀ (s : State) (k : Nat) (p : Pipe), OnlyPipe s k p →
    -- a beat in transit
    (∀ i bank w vs, p.beat = some (i, bank, w, vs) →
      (p.failed = false → p.training = false → p.at_ + 2 ≤ s.fc →
        (p.failing ≠ [] → ∃ t, exec .eBeatParityCheck s = .next t ∧ PipeSet s t k { p with failed := true, found := [] }) ∧
        (p.failing = [] → s.cmds.find i = none → let q := { p with beat := none, retries := 0, failing := [], swapped := [] }
          ∃ t, exec .eBeatParityCheck s = .next t ∧ (p.swapped = [] → p.retries = 0 → PipeSet s t k q) ∧
            (p.swapped = [] → p.retries ≠ 0 → PipeLogged s t k q 0 bank 0 p.swaps.length p.retries) ∧
            ∀ lane, lane ∈ p.swapped → (∀ l ∈ p.swapped, lane ≤ l) →
              PipeLogged s t k q 1 bank lane p.swaps.length ((s.csr (s.partOfDie (k / 32)) 0x038A).toNat % 16)) ∧
        (∀ c c' z, p.failing = [] → p.swapped = [] → p.retries = 0 → s.cmds.find i = some c → s.moveCols c (c.move c.pos) = (some k, none) →
          { s with pipes := s.pipes.put k { p with beat := none, retries := 0, failing := [], swapped := [] } }.deliverBeat c vs.length vs = (z, c') →
          exec .eBeatParityCheck s = .next { z with cmds := z.cmds.put i c' })) ∧
      (p.failed = true → p.found = [] → p.training = false → p.at_ + 4 ≤ s.fc → p.retries < (s.csr (s.partOfDie (k / 32)) 0x038A).toNat % 16 →
        ∃ t q, exec .eBeatRetry s = .next t ∧ PipeSet s t k q ∧ BeatLeaves s k { p with retries := p.retries + 1 } q) ∧
      (p.failed = true → p.found = [] → p.training = false → (s.csr (s.partOfDie (k / 32)) 0x038A).toNat % 16 ≤ p.retries → p.at_ + 66 ≤ s.fc →
        (s.testLanes k ≠ [] → (s.testLanes k).length + p.swaps.length ≤ 16 →
          ∃ t, exec .eLaneTest s = .next t ∧ PipeSet s t k { p with found := s.testLanes k }) ∧
        (s.testLanes k = [] ∨ 16 < (s.testLanes k).length + p.swaps.length → s.cmds.find i = none →
          ∃ t, exec .eLaneTest s = .next t ∧ PipeLogged s t k
            { p with down := true, beat := none, failed := false, failing := [], swapped := [], retries := 0, deferred := none } 2 bank 0 p.swaps.length p.retries) ∧
        (∀ c, s.testLanes k = [] → s.cmds.find i = some c → ∃ t c', exec .eLaneTest s = .next t ∧ (t.pipe k).down = true ∧
          t.cmds = s.cmds.put i c' ∧ c' = { c with err := some (0x45, 0, c.nextAddr) })) ∧
      (p.failed = true → p.found ≠ [] → p.training = false → p.at_ + 82 ≤ s.fc → ∃ t z q, exec .eLaneSwap s = .next t ∧
        let p' := { p with swaps := p.swaps ++ p.found, swapped := p.swapped ++ p.found, found := [], retries := 0 }
        PipeSet s z k p' ∧ PipeSet z t k q ∧ BeatLeaves z k p' q)) ∧
    -- retraining
    (p.down = false → p.training = false →
      (p.beat = none → s.pipeCmd k = none → ∃ t, exec (.eStandpipeRetrain k) s = .next t ∧ PipeSet s t k { p with training := true, deferred := none }) ∧
      (p.beat ≠ none ∨ s.pipeCmd k ≠ none → ∃ t, exec (.eStandpipeRetrain k) s = .next t ∧ PipeSet s t k { p with deferred := some (p.deferred.getD s.timer) })) ∧
    (∀ n i bank w vs, p.deferred = some n → p.beat = some (i, bank, w, vs) → n + (s.csr (s.partOfDie (k / 32)) 0x038A).toNat / 2 ^ 8 % 16 ≤ s.timer →
      ∃ t, exec .eRetrainForced s = .next t ∧ PipeLogged s t k
        { p with training := true, deferred := none, retries := 0, failed := false, found := [] } 3 bank 0 p.swaps.length p.retries) ∧
    (p.training = true → (p.beat = none → ∃ t, exec .eRetrainComplete s = .next t ∧ PipeSet s t k { p with training := false }) ∧
      (p.beat ≠ none → ∃ t q, exec .eRetrainComplete s = .next t ∧ PipeSet s t k q ∧ BeatLeaves s k { p with training := false } q))) ∧
  (∀ (s : State) (port lane : Nat), s.feat 15 = true → port < 12 → lane < 16 →
    (∃ t, exec (.eLaneFail port lane) s = .next t ∧ LaneFails s t port lane) ∧
    (∃ t, exec (.eLinkResume port) s = .next t ∧ t = { s with paused := t.paused } ∧ ∀ p, p ∈ t.paused ↔ p ∈ s.paused ∧ p ≠ port) ∧
    (∀ time n, s.replays.get (16 * port + lane) (s.timer, 0) = (time, n) → let n' := if time = s.timer then n + 1 else 1
      let z := { s with replays := s.replays.put (16 * port + lane) (s.timer, n') }
      (n' ≠ 9 → exec (.eLinkReplay port lane) s = .next z) ∧ (n' = 9 → ∃ t, exec (.eLinkReplay port lane) s = .next t ∧ LaneFails z t port lane)) ∧
    (∀ trained : BitVec 16, s.partOfDie (port / 3) = s.partOfUnit s.cur → let v := s.csr (s.partOfDie (port / 3)) (0x0390 + port)
      ∃ t sel width, exec (.eKlstatRetrain port trained) s = .next t ∧ LinkSet s t port true ∧
        Link (t.csr (s.partOfDie (port / 3)) (0x0390 + port)) ((v.toNat / 2 ^ 32 % 2 ^ 16 + 1) % 2 ^ 16) (65535 - trained.toNat) sel width ∧
        (trained = 65535 → width = 0) ∧ (trained ≠ 65535 → (∃ h < 2, Clean (65535 - trained.toNat) 8 h) → Shape (65535 - trained.toNat) 8 sel width) ∧
        (trained ≠ 65535 → (∀ h < 2, ¬Clean (65535 - trained.toNat) 8 h) → Shape (65535 - trained.toNat) 4 sel width)))

/-- R382, Table 22.5: power. A droop stretches the clocks and counts, up to 127; its end lets them run; at a cap the clock steps by
1/64 between its bounds. -/
def Obligations.PowerEventsChangePwrstat : Prop :=
  ∀ (s : State) (watts : BitVec 16), let v := (s.csr 0 0x0401).toNat; let cap := v / 2 ^ 32 % 2 ^ 16; let draw := v / 2 ^ 16 % 2 ^ 16
    let clock := v / 2 ^ 8 % 2 ^ 8; let count := v / 2 % 2 ^ 7; let on := v % 2
    (∃ t, exec .eDroopStretch s = .next t ∧ (on = 1 → t = s) ∧ (on = 0 → Power s t 1 (min 127 (count + 1)) clock draw)) ∧
    (∃ t, exec .eDroopRecover s = .next t ∧ Power s t 0 count clock draw) ∧
    (∃ t, exec (.ePowerCapStep watts) s = .next t ∧ Power s t on count
      (if cap < watts.toNat then (if 32 < clock then clock - 1 else clock) else if clock < 64 then clock + 1 else clock) watts.toNat)

namespace Sys2Proof.Claim

open Sys2Proof Sys2Proof.Machine

/-! Resets and the register events. -/

/-- Register n of a partition is v, and no other control register has changed. -/
def RegisterSet (s t : State) (part n : Nat) (v : Word) : Prop :=
  t = { s with csrs := t.csrs } ∧ t.csr part n = v ∧ ∀ q m, m < 65536 → m ≠ n → t.csr q m = s.csr q m

/-- The rule of DIEP (Table 17.10): every die names a partition that there is, and every partition has a die. -/
def DiesShared (v : Nat) : Prop :=
  let die (d : Nat) : Nat := v / 2 ^ (2 * d) % 4
  (∀ d < 4, die d ≤ v / 2 ^ 8 % 4) ∧ ∀ p ≤ v / 2 ^ 8 % 4, ∃ d < 4, die d = p

end Sys2Proof.Claim

/-- R181, R328, R336, R337, R359, R364, R369, R372, R375, R382 to R384: resets and writes of registers. Module reset leaves the state
of R383; full service starts when every control core is idle and every plane of B(0,0) is empty; a partition reset drops its
translations; PARTCFG is written once; CINJ inverts one stored bit; LINJ and CBDOWN take what is written; a read of PWRSTAT clears its
count; a register with no writable field, or that the unit does not have, traps ILLEGAL. -/
def Obligations.ResetsAndRegisterWrites : Prop :=
  (∀ s : State, ∃ t, exec .eModuleReset s = .next t ∧ t.draws = s.draws ∧ { t with draws := 0 } = State.reset ∧
    (∀ u, (t.unit u).status = .idle) ∧ t.planes = [] ∧ t.full = false ∧ t.feat 19 = true ∧ t.feat 27 = true ∧
    (∀ n, n ≠ 19 → n ≠ 27 → 12 ≤ n → n < 32 → t.feat n = false) ∧ t.parts = 1) ∧
  (∀ s : State,
    (s.full = false → (∀ u, 256 ≤ u → u < 264 → (s.unit u).status = .idle ∨ (s.unit u).status = .sleeping) →
      (∀ x ∈ s.planes, pkDie x.1 = 0 → pkOx x.1 = 0 → pkOy x.1 = 0 → x.2.state = .empty) →
      ∃ t, exec .eFullService s = .next t ∧ t = { s with csrs := t.csrs, units := t.units } ∧ t.full = true ∧ (∀ q m, m < 65536 → m ≠ 0x400 → t.csr q m = s.csr q m) ∧
        ∀ u, t.unit u = if 256 ≤ u ∧ u < 264 ∧ (s.unit u).tien.getLsbD 2 = true then
          { s.unit u with tpend := (s.unit u).tpend ||| 4#64 } else s.unit u) ∧
    (s.full = true ∨ (∃ u, 256 ≤ u ∧ u < 264 ∧ ((s.unit u).status = .running ∨ (s.unit u).status = .halted)) → exec .eFullService s = .next s)) ∧
  (∀ (s : State) (part : Nat), ∃ t, exec (.ePartitionReset part) s = .next t ∧ t = { s with tlb := t.tlb } ∧
    ∀ e, e ∈ t.tlb ↔ e ∈ s.tlb ∧ s.partOfTlb e.tlb ≠ part) ∧
  (∀ (s : State) (v : BitVec 64),
    (s.locks.contains 0x0203 = true → exec (.ePartcfgWrite v) s = .next s) ∧
    (s.locks.contains 0x0203 = false → DiesShared v.toNat → ∃ t, exec (.ePartcfgWrite v) s = .next t ∧
      RegisterSet { s with locks := 0x0203 :: s.locks } t 0 0x0203 (v &&& 0x3FF#64)) ∧
    (s.locks.contains 0x0203 = false → ¬DiesShared v.toNat → exec (.ePartcfgWrite v) s = .next (s.trap 0x01 (iword (.sCsrwr 0#5 0x0203#16)) s.me.pc.toNat 0 s.me.pc)) ∧
    -- CINJ
    (let n := v.toNat; let d := n / 2 ^ 45 % 4; let b := n / 2 ^ 8 % 2 ^ 7
     let w := (2 ^ 39 + 2 ^ 28 * (32 * d + n / 2 ^ 40 % 32) + n / 2 ^ 15 % 2 ^ 19 / 512 * 2 ^ 18 + n / 2 ^ 34 % 2 ^ 6 * 4096 + n / 2 ^ 15 % 512 * 8) / 8
     (v.getLsbD 0 = true → s.partOfDie d = s.partOfUnit s.cur → b < 72 → s.feat 18 = true → ∃ t, exec (.eCinjGo v) s = .next t ∧ t = { s with flips := t.flips } ∧
       (∀ a, a ≠ w → t.flips.get a [] = s.flips.get a []) ∧ ∀ x, x ∈ t.flips.get w [] ↔ ((x ∈ s.flips.get w [] ∧ x ≠ b) ∨ (x = b ∧ b ∉ s.flips.get w []))) ∧
     (v.getLsbD 0 = false ∨ s.partOfDie d ≠ s.partOfUnit s.cur ∨ 72 ≤ b → exec (.eCinjGo v) s = .next s) ∧
     -- LINJ
     (s.partOfDie d = s.partOfUnit s.cur → ∃ t w, exec (.eLinjWrite v) s = .next t ∧ RegisterSet s t (s.partOfUnit s.cur) 0x0389 w ∧
       ∀ k < 64, w.getLsbD k = if k = 0 ∨ (28 ≤ k ∧ k ≤ 46) then v.getLsbD k else (s.csr (s.partOfUnit s.cur) 0x0389).getLsbD k) ∧
     (s.partOfDie d ≠ s.partOfUnit s.cur → exec (.eLinjWrite v) s = .next s)) ∧
    -- CBDOWN
    (∀ die arr, die < 4 → arr < 32 → (s.partOfDie die = s.partOfUnit s.cur → ∃ t, exec (.eCbdownClear die arr v) s = .next t ∧
        RegisterSet s t (s.partOfUnit s.cur) (0x0300 + 32 * die + arr) (s.csr (s.partOfUnit s.cur) (0x0300 + 32 * die + arr) &&& ~~~v)) ∧
      (s.partOfDie die ≠ s.partOfUnit s.cur → exec (.eCbdownClear die arr v) s = .next s)) ∧
    -- PWRSTAT
    (∀ d : BitVec 5, let old := s.csr (s.partOfUnit s.cur) 0x0401
      ∃ t, exec (.ePwrstatRead d) s = .next t ∧ t = { s with units := t.units, csrs := t.csrs } ∧ (∀ u, u ≠ s.cur → t.unit u = s.unit u) ∧
        t.me = { s.me with regs := t.me.regs } ∧ (∀ r, t.g r = if r = d ∧ d ≠ 0#5 then old else s.g r) ∧ (t.csr 0 0x0401).toNat = old.toNat - old.toNat / 2 % 2 ^ 7 * 2 ∧
        ∀ q m, m < 65536 → m ≠ 0x0401 → t.csr q m = s.csr q m) ∧
    -- other registers
    (∀ n : BitVec 16,
      (Csr.defined n.toNat = false ∨ (n.toNat ≤ 5 ∧ s.cur < 256) ∨ n.toNat = 0x0103 ∨ n.toNat = 0x0400 →
        exec (.eRegisterWrite n v) s = .next (s.trap 0x01 (iword (.sCsrwr 0#5 n)) s.me.pc.toNat 0 s.me.pc)) ∧
      (n.toNat = 0x0101 → ∃ t w, exec (.eRegisterWrite n v) s = .next t ∧ RegisterSet s t (s.partOfUnit s.cur) 0x0101 w ∧
        w.toNat = (s.csr (s.partOfUnit s.cur) 0x0101).toNat / 2 ^ 11 * 2 ^ 11 + max 1 (min 1024 (v.toNat % 2 ^ 11))) ∧
      (n.toNat = 0x0008 ∨ n.toNat = 0x0202 ∨ n.toNat = 0x0402 ∨ n.toNat = 0x0403 → ∃ t w, exec (.eRegisterWrite n v) s = .next t ∧
        RegisterSet s t (s.partOfUnit s.cur) n.toNat w ∧ ∀ k < 64, w.getLsbD k =
          if (Csr.rwMask n.toNat).getLsbD k then v.getLsbD k else (s.csr (s.partOfUnit s.cur) n.toNat).getLsbD k) ∧
      (n.toNat = 0x0004 → 256 ≤ s.cur → ∃ t, exec (.eRegisterWrite n v) s = .next t ∧ OnlyUnit s t ∧ t.me = { s.me with tpend := s.me.tpend &&& ~~~(v &&& 0xF#64) })))

namespace Sys2Proof.Claim

open Sys2Proof Sys2Proof.Machine

/-! The machine as a whole. -/

/-- A unit has its turn: it runs, and waits for no answer of a conversation engine. -/
def TurnOf (s : State) (u : Nat) (rest : List Act) (z : State) : Prop :=
  s.agenda = .unit u :: rest ∧ z = { s with agenda := rest, cur := u } ∧ z.me.status = .running ∧ z.me.wait = none

/-- The four bytes at an address of the executing unit are those of w, fetched (R139, R151). -/
def Fetched (s t : State) (pc w : Nat) : Prop :=
  ∃ s1 tr l, s.translate s.cur s.meIss.die s.meIss.ctx pc false true s.meIss.priv = (s1, .ok tr) ∧ s1.physRead tr.slot tr.pa 4 = (t, .ok l) ∧
    w = Decode.leNat l

/-- A register that only a control core has (R359). -/
def CoresOwn (s : State) (i : Instr) : Prop := ∀ d n, i = .sCsrrd d n ∨ i = .sCsrwr d n → n.toNat ≤ 5 → 256 ≤ s.cur

/-- A node word: bits [127:96], OPERAND, DEST0 and DEST1 (Table 6.8). -/
def wordOf4 (hi operand dest0 dest1 : Nat) : Nat := hi * 2 ^ 96 + operand * 2 ^ 64 + dest0 * 2 ^ 32 + dest1

/-- The fields of a node word (Table 6.8). -/
def body (fmt md inp fire seq operand dest0 dest1 : Nat) : NodeBody :=
  ⟨BitVec.ofNat 4 fmt, BitVec.ofNat 4 md, BitVec.ofNat 4 inp, BitVec.ofNat 4 fire, BitVec.ofNat 8 seq, BitVec.ofNat 32 operand, BitVec.ofNat 32 dest0, BitVec.ofNat 32 dest1⟩

end Sys2Proof.Claim

/-- R23, R129, R139: a step is the move of the agent that the agenda names (log 6). A running unit whose bytes at the program counter
decode to an instruction executes it, of one word or of two; a node at a site fires as its word decodes; an event happens; after each,
what the move woke goes on. With nobody left to move, the fc ends. -/
def Obligations.AStepRunsTheDecodedInstruction : Prop :=
  ∀ (s : State) (rest : List Act) (i : Instr),
    (∀ u w z t, TurnOf s u rest z → Fetched z t z.me.pc.toNat w → Decode.isX w = false → Decode.seqWord w 0 = .ok i → CoresOwn t i →
      step s = settled (exec i t)) ∧
    (∀ u w x z t t', TurnOf s u rest z → Fetched z t z.me.pc.toNat w → Decode.isX w = true → Fetched t t' (t.me.pc + 4#57).toNat x →
      Decode.seqWord w x = .ok i → CoresOwn t' i → step s = settled (exec i t')) ∧
    (∀ t z, s.agenda = .fire t :: rest → z = { s with agenda := rest, site := t } →
      Decode.nodeWord ((z.plane t.plane).word t.plane t.elem t.node) = .ok i → step s = settled (exec i z)) ∧
    (s.agenda = .event i :: rest → i.isEvent = true → step s = settled (exec i { s with agenda := rest })) ∧
    (s.agenda = [] → step s = .next s.tick)

/-- R153, R155 to R158, R160, R162, R164, R178, R181, R190, R193, R196, R206, R212, R223, R225, R240, R252, R271, R278: words of the
manual's own examples, and what they stand for. -/
def Obligations.WordsDecodeAsTheManualSays : Prop :=
  decodeTableWord 32 0x00A63800 = some (.sAdd 5#5 6#5 7#5) ∧
  decodeTableWord 32 0x00642A14 = some (.sSel 3#5 4#5 5#5 2#3) ∧
  decodeTableWord 32 0x08630002 = some (.sAddi 3#5 3#5 2#16) ∧
  decodeTableWord 32 0x28831234 = some (.sLdhi 4#5 3#2 0x1234#16) ∧
  decodeTableWord 32 0x6C000004 = some (.sCall 4#26) ∧
  decodeTableWord 32 0xE0600100 = some (.sCsrrd 3#5 0x0100#16) ∧
  decodeTableWord 32 0xD4642822 = some (.sCvsend 3#5 4#5 5#5 1#3 2#5) ∧
  decodeTableWord 128 (Claim.wordOf4 0x00209000 1 0x82000000 0) = some (.nIadd (Claim.body 2 0 9 0 0 1 0x82000000 0)) ∧
  decodeTableWord 128 (Claim.wordOf4 0x23A0C000 0x23 0x85000000 0) = some (.nFfma (Claim.body 10 0 12 0 0 0x23 0x85000000 0)) ∧
  decodeTableWord 128 (Claim.wordOf4 0x80308041 0 0x85000000 0) = some (.nLd (Claim.body 3 0 8 0 0x41 0 0x85000000 0)) ∧
  decodeTableWord 128 (Claim.wordOf4 0x90A4C800 0x40800000 0xE2000000 0) = some (.nRed (Claim.body 10 4 12 8 0 0x40800000 0xE2000000 0)) ∧
  decodeTableWord 128 (Claim.wordOf4 0x70A3C014 0 0x84000000 0) = some (.nPshift (Claim.body 10 3 12 0 0x14 0 0x84000000 0)) ∧
  decodeTableWord 128 (Claim.wordOf4 0xA4008000 0xE0 0xE2000000 0x85000000) = some (.nMxst (Claim.body 0 0 8 0 0 0xE0 0xE2000000 0x85000000)) ∧
  decodeTableWord 128 (Claim.wordOf4 0xB5808000 0x306 0x84000000 0) = some (.nTex (Claim.body 8 0 8 0 0 0x306 0x84000000 0))

/-- R129, R140, R148, Tables 6.1, 6.8 and 6.11: for every well-formed instruction that has an encoding, the decoder reads back the
instruction from its words, and from its bytes as the table numbers them. -/
def Obligations.DecodeOfEncodeIsTheInstruction : Prop :=
  ∀ i : Instr, WellFormed i = true → i.isEvent = false → decodeWords (encode i) = some i ∧
    ((∃ w, encode i = [w] ∧ ((w < 2 ^ 32 ∧ Decode.isX w = false ∧ decodeTableWord 32 w = some i) ∨ (w < 2 ^ 128 ∧ decodeTableWord 128 w = some i))) ∨
     ∃ w x, encode i = [w, x] ∧ w < 2 ^ 32 ∧ x < 2 ^ 32 ∧ Decode.isX w = true ∧ decodeTableWord 64 (w + 2 ^ 32 * x) = some i)

/-- An invariant of the model (R1, R2, R79): memory and element data stay in their canonical form, whatever moves. -/
def Obligations.MemoryStaysCanonical : Prop := ∀ s t : State, MemoryOk s → step s = .next t → MemoryOk t

/-- R383: at reset memory is canonical and empty, the units are idle, nothing is bound, one partition holds every die, only stack 0 and
FD0 serve, and FEAT.FULL is clear. -/
def Obligations.ResetIsCanonicalAndEarly : Prop :=
  MemoryOk State.reset ∧ State.reset.mem = [] ∧ (∀ u, (State.reset.unit u).status = .idle) ∧ State.reset.planes = [] ∧ State.reset.queues = [] ∧
  State.reset.parts = 1 ∧ State.reset.full = false ∧ State.reset.feat 19 = true ∧ State.reset.feat 27 = true ∧
  ∀ n, 12 ≤ n → n < 32 → n ≠ 19 → n ≠ 27 → State.reset.feat n = false
end

