-- ==== Sys2Proof/Laws/Word.lean ====
section
/-! SUPPORT. Bits and fields of numbers. -/

namespace Sys2Proof

set_option Elab.async false

/-- A bit of a number, as the library names it. -/
theorem bit_eq_testBit (w i : Nat) : bit w i = w.testBit i := by
  unfold bit; rw [Nat.testBit_eq_decide_div_mod_eq]; rfl

/-- A bit of a register. -/
theorem bit_toNat {n : Nat} (w : BitVec n) (i : Nat) : bit w.toNat i = w.getLsbD i := bit_eq_testBit _ _

theorem bits_lt (w hi lo : Nat) : bits w hi lo < 2 ^ (hi + 1 - lo) := Nat.mod_lt _ (by positivity)

end Sys2Proof
end

