-- ==== Sys2Proof/Laws/Alu.lean ====
section
/-! SUPPORT. Sequencer arithmetic: products, counts of bits, sign extension. -/

namespace Sys2Proof.Machine

set_option Elab.async false

open Sys2Proof

/-- The high half of a signed product (R153). -/
theorem mulHigh_spec (a b : Word) : (mulHigh a b).toInt = a.toInt * b.toInt / 2 ^ 64 := by
  unfold mulHigh
  have ha1 := BitVec.toInt_lt (x := a); have ha2 := BitVec.le_toInt (x := a)
  have hb1 := BitVec.toInt_lt (x := b); have hb2 := BitVec.le_toInt (x := b)
  have hprod : (a.signExtend 128 * b.signExtend 128).toInt = a.toInt * b.toInt := by
    rw [BitVec.toInt_mul, BitVec.toInt_signExtend_of_le (by omega), BitVec.toInt_signExtend_of_le (by omega)]
    apply Int.bmod_eq_of_le <;> norm_num at * <;> nlinarith
  generalize hx : (a.signExtend 128 * b.signExtend 128) = x at *
  rw [← hprod]
  rw [BitVec.toInt_setWidth]
  have h1 : ((x >>> 64).toNat : Int) = (x.toNat / 2 ^ 64 : Nat) := by simp [BitVec.toNat_ushiftRight, Nat.shiftRight_eq_div_pow]
  rw [h1]
  have hxi := BitVec.toInt_eq_toNat_cond (x := x)
  have hl : x.toNat < 2 ^ 128 := x.isLt
  rw [Int.bmod_def]
  norm_num at *
  split at hxi <;> split <;> omega

/-- The high half of an unsigned product. -/
theorem mulHighN_spec (a b : Word) : (mulHighN a b).toNat = a.toNat * b.toNat / 2 ^ 64 := by
  unfold mulHighN
  have ha : a.toNat < 2 ^ 64 := a.isLt
  have hb : b.toNat < 2 ^ 64 := b.isLt
  have : a.toNat * b.toNat < 2 ^ 128 := by
    calc a.toNat * b.toNat < 2 ^ 64 * 2 ^ 64 := Nat.mul_lt_mul'' ha hb
      _ = 2 ^ 128 := by norm_num
  simp only [BitVec.toNat_setWidth, BitVec.toNat_ushiftRight, BitVec.toNat_mul, Nat.shiftRight_eq_div_pow]
  rw [Nat.mod_eq_of_lt (show a.toNat < 2 ^ 128 by omega), Nat.mod_eq_of_lt (show b.toNat < 2 ^ 128 by omega), Nat.mod_eq_of_lt this]
  rw [Nat.mod_eq_of_lt]; omega

/-- Zeros ahead of the first one bit. -/
theorem leadingZeros_spec (a : Word) : ∀ n ≤ 64, leadingZeros a n = if a.toNat % 2 ^ n = 0 then n else n - 1 - Nat.log2 (a.toNat % 2 ^ n)
  | 0, _ => by simp [leadingZeros, Nat.mod_one]
  | n + 1, h => by
    have ih := leadingZeros_spec a n (by omega)
    simp only [leadingZeros]
    have hm : a.toNat % 2 ^ (n + 1) = a.toNat % 2 ^ n + 2 ^ n * (a.getLsbD n).toNat := by
      rw [Nat.mod_pow_succ]; congr 2
      rw [← BitVec.testBit_toNat, Nat.toNat_testBit]
    by_cases hb : a.getLsbD n
    · simp only [hb, if_true]
      have hlt : a.toNat % 2 ^ n < 2 ^ n := Nat.mod_lt _ (by positivity)
      rw [hm, hb]; simp only [Bool.toNat_true, Nat.mul_one]
      have hne : a.toNat % 2 ^ n + 2 ^ n ≠ 0 := by positivity
      rw [if_neg hne]
      have : Nat.log2 (a.toNat % 2 ^ n + 2 ^ n) = n := by
        rw [Nat.log2_eq_iff hne]; constructor
        · omega
        · rw [Nat.pow_succ]; omega
      omega
    · simp only [hb]
      rw [hm]; simp only [hb, Bool.toNat_false, Nat.mul_zero, Nat.add_zero]
      rw [if_neg (by simp), ih]
      split
      · rfl
      · rename_i hz
        have := (Nat.log2_lt hz).2 (Nat.mod_lt a.toNat (show 0 < 2 ^ n by positivity))
        omega

/-- The number of one bits. -/
theorem oneBits_spec (a : Word) (n : Nat) : oneBits a n = ((List.range n).filter (fun k => a.getLsbD k)).length := by
  induction n with
  | zero => rfl
  | succ n ih =>
    simp only [oneBits, List.range_succ, List.filter_append, List.length_append, ih]
    cases h : a.getLsbD n <;> simp [h, b2n, Nat.add_comm]

/-- A sign-extended immediate. -/
theorem toInt_sext16 (i : BitVec 16) : (i.signExtend 64).toInt = i.toInt := BitVec.toInt_signExtend_of_le (by omega)

/-- A sign-extended 32-bit immediate. -/
theorem toInt_sext32 (i : BitVec 32) : (i.signExtend 64).toInt = i.toInt := BitVec.toInt_signExtend_of_le (by omega)

/-- A sum modulo 2^64. -/
theorem toInt_add_mod (a b : Word) : ((a + b).toInt - (a.toInt + b.toInt)) % 2 ^ 64 = 0 := by
  rw [BitVec.toInt_add]
  have := Int.bmod_def (a.toInt + b.toInt) (2 ^ 64)
  norm_num at *
  omega

end Sys2Proof.Machine
end

