-- ==== Sys2Proof/Laws/Lanes.lean ====
section
/-! SUPPORT. Lane vectors and masks built from lists: what their elements, lane words and bits are. -/

namespace Sys2Proof.Machine

set_option Elab.async false

open Sys2Proof

/-- The number that a list of b-bit elements makes. -/
theorem foldr_elems_lt (b : Nat) (l : List Nat) : l.foldr (fun x acc => x % 2 ^ b + 2 ^ b * acc) 0 < 2 ^ (b * l.length) := by
  induction l with
  | nil => simp
  | cons x t ih =>
    simp only [List.foldr_cons, List.length_cons, Nat.mul_succ, Nat.pow_add]
    have hx : x % 2 ^ b < 2 ^ b := Nat.mod_lt _ (by positivity)
    calc x % 2 ^ b + 2 ^ b * _ < 2 ^ b + 2 ^ b * t.foldr (fun x acc => x % 2 ^ b + 2 ^ b * acc) 0 := by omega
      _ = (t.foldr (fun x acc => x % 2 ^ b + 2 ^ b * acc) 0 + 1) * 2 ^ b := by ring
      _ ≤ 2 ^ (b * t.length) * 2 ^ b := Nat.mul_le_mul_right _ ih

/-- Element j of that number. -/
theorem foldr_elems_get (b : Nat) (l : List Nat) (j : Nat) (h : j < l.length) :
    l.foldr (fun x acc => x % 2 ^ b + 2 ^ b * acc) 0 / 2 ^ (b * j) % 2 ^ b = l[j] % 2 ^ b := by
  induction l generalizing j with
  | nil => simp at h
  | cons x t ih =>
    have hx : x % 2 ^ b < 2 ^ b := Nat.mod_lt _ (by positivity)
    cases j with
    | zero => simp [Nat.add_mul_mod_self_left]
    | succ j =>
      simp only [List.foldr_cons, List.getElem_cons_succ]
      rw [← ih j (by simpa using h), Nat.mul_succ, Nat.add_comm (b * j) b, Nat.pow_add, ← Nat.div_div_eq_div_mul,
        Nat.add_mul_div_left _ _ (by positivity), Nat.div_eq_of_lt hx, Nat.zero_add]

/-- Element j of a vector made from b-bit elements that fill it. -/
theorem elem_mkVec (b : Nat) (l : List Nat) (j : Nat) (h : j < l.length) (hb : b * l.length ≤ 512) :
    elem (mkVec b l) b j = l[j] % 2 ^ b := by
  have hlt := foldr_elems_lt b l
  have hle : 2 ^ (b * l.length) ≤ 2 ^ 512 := Nat.pow_le_pow_right (by norm_num) hb
  unfold elem mkVec
  have hm : l.foldr (fun x acc => x % 2 ^ b + 2 ^ b * acc) 0 % 2 ^ 512 = l.foldr (fun x acc => x % 2 ^ b + 2 ^ b * acc) 0 :=
    Nat.mod_eq_of_lt (Nat.lt_of_lt_of_le hlt hle)
  rw [BitVec.toNat_ofNat, hm]
  exact foldr_elems_get b l j h

/-- Lane word i of a vector made from sixteen of them. -/
theorem lane_mkVec (f : Nat → Nat) (i : Nat) (h : i < 16) : lane (mkVec 32 ((List.range 16).map f)) i = f i % 2 ^ 32 := by
  have := elem_mkVec 32 ((List.range 16).map f) i (by simpa using h) (by simp)
  simpa [lane] using this

theorem lane_lt (v : Vec) (i : Nat) : lane v i < 2 ^ 32 := Nat.mod_lt _ (by norm_num)

theorem elem_lt (v : Vec) (b j : Nat) : elem v b j < 2 ^ b := Nat.mod_lt _ (by positivity)

/-- The number that a list of bits makes. -/
theorem foldr_bits_testBit (l : List Bool) (i : Nat) :
    (l.foldr (fun x acc => b2n x + 2 * acc) 0).testBit i = l[i]?.getD false := by
  induction l generalizing i with
  | nil => simp
  | cons x t ih =>
    simp only [List.foldr_cons]
    cases i with
    | zero => cases x <;> simp [b2n, Nat.testBit_zero, Nat.add_mod]
    | succ i =>
      rw [Nat.testBit_succ]
      have : (b2n x + 2 * t.foldr (fun x acc => b2n x + 2 * acc) 0) / 2 = t.foldr (fun x acc => b2n x + 2 * acc) 0 := by
        cases x <;> simp [b2n] <;> omega
      rw [this, ih]; simp

/-- Bit i of a mask made from a list. -/
theorem getLsbD_mkMask (l : List Bool) (i : Nat) (h : i < 16) : (mkMask l).getLsbD i = l[i]?.getD false := by
  unfold mkMask
  rw [BitVec.getLsbD_ofNat, foldr_bits_testBit]; simp [h]

theorem getLsbD_mkMask_map (f : Nat → Bool) (i : Nat) (h : i < 16) : (mkMask ((List.range 16).map f)).getLsbD i = f i := by
  rw [getLsbD_mkMask _ _ h]; simp [h]

/-- R15: a lane whose mask bit is clear reads as zero. -/
theorem lane_zeroOff (v : Vec) (m : Mask) (i : Nat) (h : i < 16) : lane (zeroOff v m) i = if m.getLsbD i then lane v i else 0 := by
  unfold zeroOff
  rw [lane_mkVec _ _ h]
  split
  · exact Nat.mod_eq_of_lt (lane_lt v i)
  · simp

/-- R15: the lanes on which a predicate is true. -/
theorem getLsbD_truthMask (p : Operand) (i : Nat) (h : i < 16) :
    (truthMask p).getLsbD i = (p.mask.getLsbD i && decide (lane p.val i ≠ 0)) := by
  unfold truthMask; rw [getLsbD_mkMask_map _ _ h]

/-- R187: both mask bits of a 64-bit element equal its even lane word's. -/
theorem getLsbD_normMask (b : Nat) (m : Mask) (i : Nat) (h : i < 16) :
    (normMask b m).getLsbD i = if b = 64 then m.getLsbD (i / 2 * 2) else m.getLsbD i := by
  unfold normMask
  split
  · rw [getLsbD_mkMask_map _ _ h]
  · rfl

end Sys2Proof.Machine
end

