-- ==== Sys2Proof/Laws/Map.lean ====
section
/-! SUPPORT. Sparse tables and byte memories: reading after a write, and the canonical form of a memory. -/

namespace Sys2Proof.Machine

set_option Elab.async false

variable {α : Type}

/-! Sparse tables. -/

@[simp] theorem Map.find_nil (i : Nat) : Map.find ([] : Map α) i = none := rfl

@[simp] theorem Map.find_put (m : Map α) (i j : Nat) (v : α) : (Map.put m i v).find j = if j = i then some v else Map.find m j := by
  induction m with
  | nil => simp only [Map.put, Map.find]; by_cases h : i = j <;> simp [h, eq_comm]
  | cons x t ih =>
    obtain ⟨k, w⟩ := x
    simp only [Map.put]
    split
    · simp only [Map.find]; by_cases h : i = j <;> simp [h, eq_comm]
    · split
      · rename_i h; subst h; simp only [Map.find]; by_cases h : i = j <;> simp [h, eq_comm]
      · simp only [Map.find, ih]
        by_cases h1 : k = j <;> by_cases h2 : j = i <;> simp_all

@[simp] theorem Map.get_put (m : Map α) (i j : Nat) (v d : α) : (Map.put m i v).get j d = if j = i then v else Map.get m j d := by
  unfold Map.get; rw [Map.find_put]; split <;> rfl

@[simp] theorem Map.has_put (m : Map α) (i j : Nat) (v : α) : (Map.put m i v).has j = (decide (j = i) || Map.has m j) := by
  unfold Map.has; rw [Map.find_put]; by_cases h : j = i <;> simp [h]

@[simp] theorem Map.find_del (m : Map α) (i j : Nat) : (Map.del m i).find j = if j = i then none else Map.find m j := by
  unfold Map.del
  induction m with
  | nil => simp
  | cons x t ih =>
    obtain ⟨k, w⟩ := x
    by_cases h1 : k = i
    · subst h1
      rw [List.filter_cons_of_neg (by simp), ih, Map.find]
      by_cases h2 : j = k
      · simp [h2]
      · rw [if_neg h2, if_neg h2, if_neg (fun e => h2 e.symm)]
    · rw [List.filter_cons_of_pos (by simpa using h1)]
      simp only [Map.find, ih]
      by_cases h2 : k = j <;> by_cases h3 : j = i <;> simp_all

@[simp] theorem Map.has_del (m : Map α) (i j : Nat) : (Map.del m i).has j = (decide (j ≠ i) && Map.has m j) := by
  unfold Map.has; rw [Map.find_del]; by_cases h : j = i <;> simp [h]

/-- The last of two entries at a key counts. -/
@[simp] theorem Map.put_put (m : Map α) (i : Nat) (v w : α) : (Map.put m i v).put i w = Map.put m i w := by
  induction m with
  | nil => simp [Map.put]
  | cons x t ih =>
    obtain ⟨k, u⟩ := x
    simp only [Map.put]
    split
    · simp [Map.put]
    · split
      · simp [Map.put]
      · rename_i h1 h2; simp [Map.put, h1, h2, ih]

/-! Byte memories. -/

namespace Memory

/-- The canonical form in words: addresses strictly rising, and no entry that an unlisted address reads as. -/
theorem wf_iff (m : List Host.Cell) :
    wf m = true ↔ m.Pairwise (fun a b => a.1 < b.1) ∧ ∀ c ∈ m, c.2 ≠ unlisted := by
  induction m with
  | nil => simp [wf]
  | cons x t ih =>
    obtain ⟨k, v⟩ := x
    simp only [wf, Bool.and_eq_true, decide_eq_true_eq, ih, List.pairwise_cons, List.mem_cons, forall_eq_or_imp]
    constructor
    · rintro ⟨⟨h1, h2⟩, h3, h4⟩
      refine ⟨⟨?_, h3⟩, by simpa using h2, h4⟩
      intro c hc
      cases t with
      | nil => simp at hc
      | cons y t' =>
        simp only [above, decide_eq_true_eq] at h1
        rcases List.mem_cons.1 hc with rfl | hc
        · exact h1
        · exact lt_trans h1 ((List.pairwise_cons.1 h3).1 c hc)
    · rintro ⟨⟨h1, h3⟩, h2, h4⟩
      refine ⟨⟨?_, by simpa using h2⟩, h3, h4⟩
      cases t with
      | nil => rfl
      | cons y t' => simpa [above] using h1 y (by simp)

theorem wf_nil : wf [] = true := rfl

/-- Every entry after a write is the one written or an old one. -/
theorem mem_write {m : List Host.Cell} {a : Nat} {v : Byte} {c : Host.Cell} (h : c ∈ write m a v) : c = (a, v) ∨ c ∈ m := by
  induction m with
  | nil => simp only [write] at h; split at h <;> simp_all
  | cons x t ih =>
    obtain ⟨k, w⟩ := x
    simp only [write] at h
    split at h
    · split at h <;> simp_all
    · split at h
      · split at h
        · exact .inr (List.mem_cons_of_mem _ h)
        · rcases List.mem_cons.1 h with h | h
          · exact .inl h
          · exact .inr (List.mem_cons_of_mem _ h)
      · rcases List.mem_cons.1 h with h | h
        · exact .inr (h ▸ List.mem_cons_self ..)
        · rcases ih h with h | h
          · exact .inl h
          · exact .inr (List.mem_cons_of_mem _ h)

/-- No entry after a write reads as an unlisted address does, if none did before. -/
theorem listed_write {m : List Host.Cell} {a : Nat} {v : Byte} (h : ∀ c ∈ m, c.2 ≠ unlisted) : ∀ c ∈ write m a v, c.2 ≠ unlisted := by
  induction m with
  | nil => intro c hc; simp only [write] at hc; split at hc <;> simp_all
  | cons x t ih =>
    obtain ⟨k, w⟩ := x
    have ht := ih (fun c hc => h c (List.mem_cons_of_mem _ hc))
    intro c hc
    simp only [write] at hc
    split at hc
    · split at hc
      · exact h c hc
      · rcases List.mem_cons.1 hc with rfl | hc
        · assumption
        · exact h c hc
    · split at hc
      · split at hc
        · exact h c (List.mem_cons_of_mem _ hc)
        · rcases List.mem_cons.1 hc with rfl | hc
          · assumption
          · exact h c (List.mem_cons_of_mem _ hc)
      · rcases List.mem_cons.1 hc with rfl | hc
        · exact h _ (List.mem_cons_self ..)
        · exact ht c hc

/-- A write keeps the canonical form. -/
theorem wf_write {m : List Host.Cell} (h : wf m = true) (a : Nat) (v : Byte) : wf (write m a v) = true := by
  rw [wf_iff] at h ⊢
  refine ⟨?_, listed_write h.2⟩
  obtain ⟨h, -⟩ := h
  induction m with
  | nil => simp only [write]; split <;> simp
  | cons x t ih =>
    obtain ⟨k, w⟩ := x
    rw [List.pairwise_cons] at h
    simp only [write]
    split
    · split
      · exact List.pairwise_cons.2 h
      · rename_i h1 _
        refine List.pairwise_cons.2 ⟨?_, List.pairwise_cons.2 h⟩
        intro c hc
        rcases List.mem_cons.1 hc with rfl | hc
        · exact h1
        · exact lt_trans h1 (h.1 c hc)
    · split
      · rename_i h1; subst h1
        split
        · exact h.2
        · exact List.pairwise_cons.2 h
      · rename_i h1 h2
        refine List.pairwise_cons.2 ⟨?_, ih h.2⟩
        intro c hc
        rcases mem_write hc with rfl | hc
        · show k < a; omega
        · exact h.1 c hc

/-- An address below every entry is unlisted. -/
theorem read_of_above {m : List Host.Cell} {a : Nat} (h : ∀ c ∈ m, a < c.1) : read m a = unlisted := by
  induction m with
  | nil => rfl
  | cons x t ih =>
    obtain ⟨k, w⟩ := x
    have : a < k := h (k, w) (List.mem_cons_self ..)
    rw [read, if_neg (by omega)]
    exact ih (fun c hc => h c (List.mem_cons_of_mem _ hc))

/-- Reading after a write in a canonical memory. -/
theorem read_write {m : List Host.Cell} (h : wf m = true) (a b : Nat) (v : Byte) :
    read (write m a v) b = if b = a then v else read m b := by
  rw [wf_iff] at h
  obtain ⟨h, -⟩ := h
  induction m with
  | nil =>
    simp only [write]
    split
    · rename_i hv; simp [read, hv]
    · simp only [read]; by_cases hb : a = b <;> simp [hb, eq_comm]
  | cons x t ih =>
    obtain ⟨k, w⟩ := x
    rw [List.pairwise_cons] at h
    simp only [write]
    split
    · rename_i hak
      split
      · rename_i hv
        split
        · rename_i hb; subst hb
          rw [hv]; exact read_of_above (fun c hc => by
            rcases List.mem_cons.1 hc with rfl | hc
            · exact hak
            · exact lt_trans hak (h.1 c hc))
        · rfl
      · simp only [read]
        by_cases hb : a = b
        · simp [hb]
        · simp only [if_neg hb, if_neg (fun e : b = a => hb e.symm)]
    · split
      · rename_i h1; subst h1
        split
        · rename_i hv
          split
          · rename_i hb; subst hb; rw [hv]; exact read_of_above h.1
          · rename_i hb; rw [read, if_neg (fun e => hb e.symm)]
        · simp only [read]
          by_cases hb : a = b
          · simp [hb]
          · rw [if_neg hb, if_neg (fun e => hb e.symm), if_neg hb]
      · rename_i h1 h2
        simp only [read, ih h.2]
        by_cases hb : k = b
        · subst hb; rw [if_pos rfl, if_neg (fun e => h2 e.symm)]; simp
        · simp [hb]

/-- Taking entries away keeps the canonical form. -/
theorem wf_filter {m : List Host.Cell} (h : wf m = true) (p : Host.Cell → Bool) : wf (m.filter p) = true := by
  rw [wf_iff] at h ⊢
  exact ⟨h.1.filter p, fun c hc => h.2 c (List.mem_of_mem_filter hc)⟩

/-- Writes in any order keep the canonical form. -/
theorem wf_foldl {β : Type} (l : List β) (m : List Host.Cell) (ad : β → Nat) (va : β → Byte) (h : wf m = true) :
    wf (l.foldl (fun m x => write m (ad x) (va x)) m) = true := by
  induction l generalizing m with
  | nil => exact h
  | cons x t ih => exact ih _ (wf_write h _ _)

end Memory

end Sys2Proof.Machine
end

