-- ==== Sys2Proof/Laws/State.lean ====
section
/-! SUPPORT. What the updates of the state leave alone, one lemma per field and update, and what reading gives after a
write. -/

namespace Sys2Proof.Machine

set_option Elab.async false

open Sys2Proof

/-! Fields that the update of a unit leaves alone. -/

@[simp] theorem State.setUnit_agenda (s : State) (u : Nat) (x : UnitSt) : (s.setUnit u x).agenda = s.agenda := rfl
@[simp] theorem State.setUnit_cur (s : State) (u : Nat) (x : UnitSt) : (s.setUnit u x).cur = s.cur := rfl
@[simp] theorem State.setUnit_site (s : State) (u : Nat) (x : UnitSt) : (s.setUnit u x).site = s.site := rfl
@[simp] theorem State.setUnit_fc (s : State) (u : Nat) (x : UnitSt) : (s.setUnit u x).fc = s.fc := rfl
@[simp] theorem State.setUnit_timer (s : State) (u : Nat) (x : UnitSt) : (s.setUnit u x).timer = s.timer := rfl
@[simp] theorem State.setUnit_draws (s : State) (u : Nat) (x : UnitSt) : (s.setUnit u x).draws = s.draws := rfl
@[simp] theorem State.setUnit_fresh (s : State) (u : Nat) (x : UnitSt) : (s.setUnit u x).fresh = s.fresh := rfl
@[simp] theorem State.setUnit_arrivals (s : State) (u : Nat) (x : UnitSt) : (s.setUnit u x).arrivals = s.arrivals := rfl
@[simp] theorem State.setUnit_mem (s : State) (u : Nat) (x : UnitSt) : (s.setUnit u x).mem = s.mem := rfl
@[simp] theorem State.setUnit_edata (s : State) (u : Nat) (x : UnitSt) : (s.setUnit u x).edata = s.edata := rfl
@[simp] theorem State.setUnit_edOwner (s : State) (u : Nat) (x : UnitSt) : (s.setUnit u x).edOwner = s.edOwner := rfl
@[simp] theorem State.setUnit_lineKey (s : State) (u : Nat) (x : UnitSt) : (s.setUnit u x).lineKey = s.lineKey := rfl
@[simp] theorem State.setUnit_keys (s : State) (u : Nat) (x : UnitSt) : (s.setUnit u x).keys = s.keys := rfl
@[simp] theorem State.setUnit_tlb (s : State) (u : Nat) (x : UnitSt) : (s.setUnit u x).tlb = s.tlb := rfl
@[simp] theorem State.setUnit_csrs (s : State) (u : Nat) (x : UnitSt) : (s.setUnit u x).csrs = s.csrs := rfl
@[simp] theorem State.setUnit_locks (s : State) (u : Nat) (x : UnitSt) : (s.setUnit u x).locks = s.locks := rfl
@[simp] theorem State.setUnit_tids (s : State) (u : Nat) (x : UnitSt) : (s.setUnit u x).tids = s.tids := rfl
@[simp] theorem State.setUnit_blocks (s : State) (u : Nat) (x : UnitSt) : (s.setUnit u x).blocks = s.blocks := rfl
@[simp] theorem State.setUnit_queues (s : State) (u : Nat) (x : UnitSt) : (s.setUnit u x).queues = s.queues := rfl
@[simp] theorem State.setUnit_cycles (s : State) (u : Nat) (x : UnitSt) : (s.setUnit u x).cycles = s.cycles := rfl
@[simp] theorem State.setUnit_waiting (s : State) (u : Nat) (x : UnitSt) : (s.setUnit u x).waiting = s.waiting := rfl
@[simp] theorem State.setUnit_arms (s : State) (u : Nat) (x : UnitSt) : (s.setUnit u x).arms = s.arms := rfl
@[simp] theorem State.setUnit_trig (s : State) (u : Nat) (x : UnitSt) : (s.setUnit u x).trig = s.trig := rfl
@[simp] theorem State.setUnit_planes (s : State) (u : Nat) (x : UnitSt) : (s.setUnit u x).planes = s.planes := rfl
@[simp] theorem State.setUnit_saved (s : State) (u : Nat) (x : UnitSt) : (s.setUnit u x).saved = s.saved := rfl
@[simp] theorem State.setUnit_roles (s : State) (u : Nat) (x : UnitSt) : (s.setUnit u x).roles = s.roles := rfl
@[simp] theorem State.setUnit_flights (s : State) (u : Nat) (x : UnitSt) : (s.setUnit u x).flights = s.flights := rfl
@[simp] theorem State.setUnit_reqs (s : State) (u : Nat) (x : UnitSt) : (s.setUnit u x).reqs = s.reqs := rfl
@[simp] theorem State.setUnit_engs (s : State) (u : Nat) (x : UnitSt) : (s.setUnit u x).engs = s.engs := rfl
@[simp] theorem State.setUnit_cmds (s : State) (u : Nat) (x : UnitSt) : (s.setUnit u x).cmds = s.cmds := rfl
@[simp] theorem State.setUnit_arrays (s : State) (u : Nat) (x : UnitSt) : (s.setUnit u x).arrays = s.arrays := rfl
@[simp] theorem State.setUnit_rows (s : State) (u : Nat) (x : UnitSt) : (s.setUnit u x).rows = s.rows := rfl
@[simp] theorem State.setUnit_rays (s : State) (u : Nat) (x : UnitSt) : (s.setUnit u x).rays = s.rays := rfl
@[simp] theorem State.setUnit_keeps (s : State) (u : Nat) (x : UnitSt) : (s.setUnit u x).keeps = s.keeps := rfl
@[simp] theorem State.setUnit_contribs (s : State) (u : Nat) (x : UnitSt) : (s.setUnit u x).contribs = s.contribs := rfl
@[simp] theorem State.setUnit_windows (s : State) (u : Nat) (x : UnitSt) : (s.setUnit u x).windows = s.windows := rfl
@[simp] theorem State.setUnit_convs (s : State) (u : Nat) (x : UnitSt) : (s.setUnit u x).convs = s.convs := rfl
@[simp] theorem State.setUnit_sends (s : State) (u : Nat) (x : UnitSt) : (s.setUnit u x).sends = s.sends := rfl
@[simp] theorem State.setUnit_deliveries (s : State) (u : Nat) (x : UnitSt) : (s.setUnit u x).deliveries = s.deliveries := rfl
@[simp] theorem State.setUnit_tokens (s : State) (u : Nat) (x : UnitSt) : (s.setUnit u x).tokens = s.tokens := rfl
@[simp] theorem State.setUnit_farLocks (s : State) (u : Nat) (x : UnitSt) : (s.setUnit u x).farLocks = s.farLocks := rfl
@[simp] theorem State.setUnit_races (s : State) (u : Nat) (x : UnitSt) : (s.setUnit u x).races = s.races := rfl
@[simp] theorem State.setUnit_parks (s : State) (u : Nat) (x : UnitSt) : (s.setUnit u x).parks = s.parks := rfl
@[simp] theorem State.setUnit_parking (s : State) (u : Nat) (x : UnitSt) : (s.setUnit u x).parking = s.parking := rfl
@[simp] theorem State.setUnit_slotsHost (s : State) (u : Nat) (x : UnitSt) : (s.setUnit u x).slotsHost = s.slotsHost := rfl
@[simp] theorem State.setUnit_bells (s : State) (u : Nat) (x : UnitSt) : (s.setUnit u x).bells = s.bells := rfl
@[simp] theorem State.setUnit_flips (s : State) (u : Nat) (x : UnitSt) : (s.setUnit u x).flips = s.flips := rfl
@[simp] theorem State.setUnit_poison (s : State) (u : Nat) (x : UnitSt) : (s.setUnit u x).poison = s.poison := rfl
@[simp] theorem State.setUnit_remap (s : State) (u : Nat) (x : UnitSt) : (s.setUnit u x).remap = s.remap := rfl
@[simp] theorem State.setUnit_remapCache (s : State) (u : Nat) (x : UnitSt) : (s.setUnit u x).remapCache = s.remapCache := rfl
@[simp] theorem State.setUnit_pipes (s : State) (u : Nat) (x : UnitSt) : (s.setUnit u x).pipes = s.pipes := rfl
@[simp] theorem State.setUnit_kept (s : State) (u : Nat) (x : UnitSt) : (s.setUnit u x).kept = s.kept := rfl
@[simp] theorem State.setUnit_late (s : State) (u : Nat) (x : UnitSt) : (s.setUnit u x).late = s.late := rfl
@[simp] theorem State.setUnit_landed (s : State) (u : Nat) (x : UnitSt) : (s.setUnit u x).landed = s.landed := rfl
@[simp] theorem State.setUnit_paused (s : State) (u : Nat) (x : UnitSt) : (s.setUnit u x).paused = s.paused := rfl
@[simp] theorem State.setUnit_replays (s : State) (u : Nat) (x : UnitSt) : (s.setUnit u x).replays = s.replays := rfl
@[simp] theorem State.setUnit_fired (s : State) (u : Nat) (x : UnitSt) : (s.setUnit u x).fired = s.fired := rfl
@[simp] theorem State.setUnit_rr (s : State) (u : Nat) (x : UnitSt) : (s.setUnit u x).rr = s.rr := rfl

@[simp] theorem State.setMe_agenda (s : State) (x : UnitSt) : (s.setMe x).agenda = s.agenda := rfl
@[simp] theorem State.setMe_cur (s : State) (x : UnitSt) : (s.setMe x).cur = s.cur := rfl
@[simp] theorem State.setMe_site (s : State) (x : UnitSt) : (s.setMe x).site = s.site := rfl
@[simp] theorem State.setMe_fc (s : State) (x : UnitSt) : (s.setMe x).fc = s.fc := rfl
@[simp] theorem State.setMe_timer (s : State) (x : UnitSt) : (s.setMe x).timer = s.timer := rfl
@[simp] theorem State.setMe_draws (s : State) (x : UnitSt) : (s.setMe x).draws = s.draws := rfl
@[simp] theorem State.setMe_fresh (s : State) (x : UnitSt) : (s.setMe x).fresh = s.fresh := rfl
@[simp] theorem State.setMe_arrivals (s : State) (x : UnitSt) : (s.setMe x).arrivals = s.arrivals := rfl
@[simp] theorem State.setMe_mem (s : State) (x : UnitSt) : (s.setMe x).mem = s.mem := rfl
@[simp] theorem State.setMe_edata (s : State) (x : UnitSt) : (s.setMe x).edata = s.edata := rfl
@[simp] theorem State.setMe_edOwner (s : State) (x : UnitSt) : (s.setMe x).edOwner = s.edOwner := rfl
@[simp] theorem State.setMe_lineKey (s : State) (x : UnitSt) : (s.setMe x).lineKey = s.lineKey := rfl
@[simp] theorem State.setMe_keys (s : State) (x : UnitSt) : (s.setMe x).keys = s.keys := rfl
@[simp] theorem State.setMe_tlb (s : State) (x : UnitSt) : (s.setMe x).tlb = s.tlb := rfl
@[simp] theorem State.setMe_csrs (s : State) (x : UnitSt) : (s.setMe x).csrs = s.csrs := rfl
@[simp] theorem State.setMe_locks (s : State) (x : UnitSt) : (s.setMe x).locks = s.locks := rfl
@[simp] theorem State.setMe_tids (s : State) (x : UnitSt) : (s.setMe x).tids = s.tids := rfl
@[simp] theorem State.setMe_blocks (s : State) (x : UnitSt) : (s.setMe x).blocks = s.blocks := rfl
@[simp] theorem State.setMe_queues (s : State) (x : UnitSt) : (s.setMe x).queues = s.queues := rfl
@[simp] theorem State.setMe_cycles (s : State) (x : UnitSt) : (s.setMe x).cycles = s.cycles := rfl
@[simp] theorem State.setMe_waiting (s : State) (x : UnitSt) : (s.setMe x).waiting = s.waiting := rfl
@[simp] theorem State.setMe_arms (s : State) (x : UnitSt) : (s.setMe x).arms = s.arms := rfl
@[simp] theorem State.setMe_trig (s : State) (x : UnitSt) : (s.setMe x).trig = s.trig := rfl
@[simp] theorem State.setMe_planes (s : State) (x : UnitSt) : (s.setMe x).planes = s.planes := rfl
@[simp] theorem State.setMe_saved (s : State) (x : UnitSt) : (s.setMe x).saved = s.saved := rfl
@[simp] theorem State.setMe_roles (s : State) (x : UnitSt) : (s.setMe x).roles = s.roles := rfl
@[simp] theorem State.setMe_flights (s : State) (x : UnitSt) : (s.setMe x).flights = s.flights := rfl
@[simp] theorem State.setMe_reqs (s : State) (x : UnitSt) : (s.setMe x).reqs = s.reqs := rfl
@[simp] theorem State.setMe_engs (s : State) (x : UnitSt) : (s.setMe x).engs = s.engs := rfl
@[simp] theorem State.setMe_cmds (s : State) (x : UnitSt) : (s.setMe x).cmds = s.cmds := rfl
@[simp] theorem State.setMe_arrays (s : State) (x : UnitSt) : (s.setMe x).arrays = s.arrays := rfl
@[simp] theorem State.setMe_rows (s : State) (x : UnitSt) : (s.setMe x).rows = s.rows := rfl
@[simp] theorem State.setMe_rays (s : State) (x : UnitSt) : (s.setMe x).rays = s.rays := rfl
@[simp] theorem State.setMe_keeps (s : State) (x : UnitSt) : (s.setMe x).keeps = s.keeps := rfl
@[simp] theorem State.setMe_contribs (s : State) (x : UnitSt) : (s.setMe x).contribs = s.contribs := rfl
@[simp] theorem State.setMe_windows (s : State) (x : UnitSt) : (s.setMe x).windows = s.windows := rfl
@[simp] theorem State.setMe_convs (s : State) (x : UnitSt) : (s.setMe x).convs = s.convs := rfl
@[simp] theorem State.setMe_sends (s : State) (x : UnitSt) : (s.setMe x).sends = s.sends := rfl
@[simp] theorem State.setMe_deliveries (s : State) (x : UnitSt) : (s.setMe x).deliveries = s.deliveries := rfl
@[simp] theorem State.setMe_tokens (s : State) (x : UnitSt) : (s.setMe x).tokens = s.tokens := rfl
@[simp] theorem State.setMe_farLocks (s : State) (x : UnitSt) : (s.setMe x).farLocks = s.farLocks := rfl
@[simp] theorem State.setMe_races (s : State) (x : UnitSt) : (s.setMe x).races = s.races := rfl
@[simp] theorem State.setMe_parks (s : State) (x : UnitSt) : (s.setMe x).parks = s.parks := rfl
@[simp] theorem State.setMe_parking (s : State) (x : UnitSt) : (s.setMe x).parking = s.parking := rfl
@[simp] theorem State.setMe_slotsHost (s : State) (x : UnitSt) : (s.setMe x).slotsHost = s.slotsHost := rfl
@[simp] theorem State.setMe_bells (s : State) (x : UnitSt) : (s.setMe x).bells = s.bells := rfl
@[simp] theorem State.setMe_flips (s : State) (x : UnitSt) : (s.setMe x).flips = s.flips := rfl
@[simp] theorem State.setMe_poison (s : State) (x : UnitSt) : (s.setMe x).poison = s.poison := rfl
@[simp] theorem State.setMe_remap (s : State) (x : UnitSt) : (s.setMe x).remap = s.remap := rfl
@[simp] theorem State.setMe_remapCache (s : State) (x : UnitSt) : (s.setMe x).remapCache = s.remapCache := rfl
@[simp] theorem State.setMe_pipes (s : State) (x : UnitSt) : (s.setMe x).pipes = s.pipes := rfl
@[simp] theorem State.setMe_kept (s : State) (x : UnitSt) : (s.setMe x).kept = s.kept := rfl
@[simp] theorem State.setMe_late (s : State) (x : UnitSt) : (s.setMe x).late = s.late := rfl
@[simp] theorem State.setMe_landed (s : State) (x : UnitSt) : (s.setMe x).landed = s.landed := rfl
@[simp] theorem State.setMe_paused (s : State) (x : UnitSt) : (s.setMe x).paused = s.paused := rfl
@[simp] theorem State.setMe_replays (s : State) (x : UnitSt) : (s.setMe x).replays = s.replays := rfl
@[simp] theorem State.setMe_fired (s : State) (x : UnitSt) : (s.setMe x).fired = s.fired := rfl
@[simp] theorem State.setMe_rr (s : State) (x : UnitSt) : (s.setMe x).rr = s.rr := rfl

@[simp] theorem State.setG_agenda (s : State) (d : BitVec 5) (v : Word) : (s.setG d v).agenda = s.agenda := rfl
@[simp] theorem State.setG_cur (s : State) (d : BitVec 5) (v : Word) : (s.setG d v).cur = s.cur := rfl
@[simp] theorem State.setG_site (s : State) (d : BitVec 5) (v : Word) : (s.setG d v).site = s.site := rfl
@[simp] theorem State.setG_fc (s : State) (d : BitVec 5) (v : Word) : (s.setG d v).fc = s.fc := rfl
@[simp] theorem State.setG_timer (s : State) (d : BitVec 5) (v : Word) : (s.setG d v).timer = s.timer := rfl
@[simp] theorem State.setG_draws (s : State) (d : BitVec 5) (v : Word) : (s.setG d v).draws = s.draws := rfl
@[simp] theorem State.setG_fresh (s : State) (d : BitVec 5) (v : Word) : (s.setG d v).fresh = s.fresh := rfl
@[simp] theorem State.setG_arrivals (s : State) (d : BitVec 5) (v : Word) : (s.setG d v).arrivals = s.arrivals := rfl
@[simp] theorem State.setG_mem (s : State) (d : BitVec 5) (v : Word) : (s.setG d v).mem = s.mem := rfl
@[simp] theorem State.setG_edata (s : State) (d : BitVec 5) (v : Word) : (s.setG d v).edata = s.edata := rfl
@[simp] theorem State.setG_edOwner (s : State) (d : BitVec 5) (v : Word) : (s.setG d v).edOwner = s.edOwner := rfl
@[simp] theorem State.setG_lineKey (s : State) (d : BitVec 5) (v : Word) : (s.setG d v).lineKey = s.lineKey := rfl
@[simp] theorem State.setG_keys (s : State) (d : BitVec 5) (v : Word) : (s.setG d v).keys = s.keys := rfl
@[simp] theorem State.setG_tlb (s : State) (d : BitVec 5) (v : Word) : (s.setG d v).tlb = s.tlb := rfl
@[simp] theorem State.setG_csrs (s : State) (d : BitVec 5) (v : Word) : (s.setG d v).csrs = s.csrs := rfl
@[simp] theorem State.setG_locks (s : State) (d : BitVec 5) (v : Word) : (s.setG d v).locks = s.locks := rfl
@[simp] theorem State.setG_tids (s : State) (d : BitVec 5) (v : Word) : (s.setG d v).tids = s.tids := rfl
@[simp] theorem State.setG_blocks (s : State) (d : BitVec 5) (v : Word) : (s.setG d v).blocks = s.blocks := rfl
@[simp] theorem State.setG_queues (s : State) (d : BitVec 5) (v : Word) : (s.setG d v).queues = s.queues := rfl
@[simp] theorem State.setG_cycles (s : State) (d : BitVec 5) (v : Word) : (s.setG d v).cycles = s.cycles := rfl
@[simp] theorem State.setG_waiting (s : State) (d : BitVec 5) (v : Word) : (s.setG d v).waiting = s.waiting := rfl
@[simp] theorem State.setG_arms (s : State) (d : BitVec 5) (v : Word) : (s.setG d v).arms = s.arms := rfl
@[simp] theorem State.setG_trig (s : State) (d : BitVec 5) (v : Word) : (s.setG d v).trig = s.trig := rfl
@[simp] theorem State.setG_planes (s : State) (d : BitVec 5) (v : Word) : (s.setG d v).planes = s.planes := rfl
@[simp] theorem State.setG_saved (s : State) (d : BitVec 5) (v : Word) : (s.setG d v).saved = s.saved := rfl
@[simp] theorem State.setG_roles (s : State) (d : BitVec 5) (v : Word) : (s.setG d v).roles = s.roles := rfl
@[simp] theorem State.setG_flights (s : State) (d : BitVec 5) (v : Word) : (s.setG d v).flights = s.flights := rfl
@[simp] theorem State.setG_reqs (s : State) (d : BitVec 5) (v : Word) : (s.setG d v).reqs = s.reqs := rfl
@[simp] theorem State.setG_engs (s : State) (d : BitVec 5) (v : Word) : (s.setG d v).engs = s.engs := rfl
@[simp] theorem State.setG_cmds (s : State) (d : BitVec 5) (v : Word) : (s.setG d v).cmds = s.cmds := rfl
@[simp] theorem State.setG_arrays (s : State) (d : BitVec 5) (v : Word) : (s.setG d v).arrays = s.arrays := rfl
@[simp] theorem State.setG_rows (s : State) (d : BitVec 5) (v : Word) : (s.setG d v).rows = s.rows := rfl
@[simp] theorem State.setG_rays (s : State) (d : BitVec 5) (v : Word) : (s.setG d v).rays = s.rays := rfl
@[simp] theorem State.setG_keeps (s : State) (d : BitVec 5) (v : Word) : (s.setG d v).keeps = s.keeps := rfl
@[simp] theorem State.setG_contribs (s : State) (d : BitVec 5) (v : Word) : (s.setG d v).contribs = s.contribs := rfl
@[simp] theorem State.setG_windows (s : State) (d : BitVec 5) (v : Word) : (s.setG d v).windows = s.windows := rfl
@[simp] theorem State.setG_convs (s : State) (d : BitVec 5) (v : Word) : (s.setG d v).convs = s.convs := rfl
@[simp] theorem State.setG_sends (s : State) (d : BitVec 5) (v : Word) : (s.setG d v).sends = s.sends := rfl
@[simp] theorem State.setG_deliveries (s : State) (d : BitVec 5) (v : Word) : (s.setG d v).deliveries = s.deliveries := rfl
@[simp] theorem State.setG_tokens (s : State) (d : BitVec 5) (v : Word) : (s.setG d v).tokens = s.tokens := rfl
@[simp] theorem State.setG_farLocks (s : State) (d : BitVec 5) (v : Word) : (s.setG d v).farLocks = s.farLocks := rfl
@[simp] theorem State.setG_races (s : State) (d : BitVec 5) (v : Word) : (s.setG d v).races = s.races := rfl
@[simp] theorem State.setG_parks (s : State) (d : BitVec 5) (v : Word) : (s.setG d v).parks = s.parks := rfl
@[simp] theorem State.setG_parking (s : State) (d : BitVec 5) (v : Word) : (s.setG d v).parking = s.parking := rfl
@[simp] theorem State.setG_slotsHost (s : State) (d : BitVec 5) (v : Word) : (s.setG d v).slotsHost = s.slotsHost := rfl
@[simp] theorem State.setG_bells (s : State) (d : BitVec 5) (v : Word) : (s.setG d v).bells = s.bells := rfl
@[simp] theorem State.setG_flips (s : State) (d : BitVec 5) (v : Word) : (s.setG d v).flips = s.flips := rfl
@[simp] theorem State.setG_poison (s : State) (d : BitVec 5) (v : Word) : (s.setG d v).poison = s.poison := rfl
@[simp] theorem State.setG_remap (s : State) (d : BitVec 5) (v : Word) : (s.setG d v).remap = s.remap := rfl
@[simp] theorem State.setG_remapCache (s : State) (d : BitVec 5) (v : Word) : (s.setG d v).remapCache = s.remapCache := rfl
@[simp] theorem State.setG_pipes (s : State) (d : BitVec 5) (v : Word) : (s.setG d v).pipes = s.pipes := rfl
@[simp] theorem State.setG_kept (s : State) (d : BitVec 5) (v : Word) : (s.setG d v).kept = s.kept := rfl
@[simp] theorem State.setG_late (s : State) (d : BitVec 5) (v : Word) : (s.setG d v).late = s.late := rfl
@[simp] theorem State.setG_landed (s : State) (d : BitVec 5) (v : Word) : (s.setG d v).landed = s.landed := rfl
@[simp] theorem State.setG_paused (s : State) (d : BitVec 5) (v : Word) : (s.setG d v).paused = s.paused := rfl
@[simp] theorem State.setG_replays (s : State) (d : BitVec 5) (v : Word) : (s.setG d v).replays = s.replays := rfl
@[simp] theorem State.setG_fired (s : State) (d : BitVec 5) (v : Word) : (s.setG d v).fired = s.fired := rfl
@[simp] theorem State.setG_rr (s : State) (d : BitVec 5) (v : Word) : (s.setG d v).rr = s.rr := rfl

@[simp] theorem State.setP_agenda (s : State) (d : BitVec 3) (v : Bool) : (s.setP d v).agenda = s.agenda := rfl
@[simp] theorem State.setP_cur (s : State) (d : BitVec 3) (v : Bool) : (s.setP d v).cur = s.cur := rfl
@[simp] theorem State.setP_site (s : State) (d : BitVec 3) (v : Bool) : (s.setP d v).site = s.site := rfl
@[simp] theorem State.setP_fc (s : State) (d : BitVec 3) (v : Bool) : (s.setP d v).fc = s.fc := rfl
@[simp] theorem State.setP_timer (s : State) (d : BitVec 3) (v : Bool) : (s.setP d v).timer = s.timer := rfl
@[simp] theorem State.setP_draws (s : State) (d : BitVec 3) (v : Bool) : (s.setP d v).draws = s.draws := rfl
@[simp] theorem State.setP_fresh (s : State) (d : BitVec 3) (v : Bool) : (s.setP d v).fresh = s.fresh := rfl
@[simp] theorem State.setP_arrivals (s : State) (d : BitVec 3) (v : Bool) : (s.setP d v).arrivals = s.arrivals := rfl
@[simp] theorem State.setP_mem (s : State) (d : BitVec 3) (v : Bool) : (s.setP d v).mem = s.mem := rfl
@[simp] theorem State.setP_edata (s : State) (d : BitVec 3) (v : Bool) : (s.setP d v).edata = s.edata := rfl
@[simp] theorem State.setP_edOwner (s : State) (d : BitVec 3) (v : Bool) : (s.setP d v).edOwner = s.edOwner := rfl
@[simp] theorem State.setP_lineKey (s : State) (d : BitVec 3) (v : Bool) : (s.setP d v).lineKey = s.lineKey := rfl
@[simp] theorem State.setP_keys (s : State) (d : BitVec 3) (v : Bool) : (s.setP d v).keys = s.keys := rfl
@[simp] theorem State.setP_tlb (s : State) (d : BitVec 3) (v : Bool) : (s.setP d v).tlb = s.tlb := rfl
@[simp] theorem State.setP_csrs (s : State) (d : BitVec 3) (v : Bool) : (s.setP d v).csrs = s.csrs := rfl
@[simp] theorem State.setP_locks (s : State) (d : BitVec 3) (v : Bool) : (s.setP d v).locks = s.locks := rfl
@[simp] theorem State.setP_tids (s : State) (d : BitVec 3) (v : Bool) : (s.setP d v).tids = s.tids := rfl
@[simp] theorem State.setP_blocks (s : State) (d : BitVec 3) (v : Bool) : (s.setP d v).blocks = s.blocks := rfl
@[simp] theorem State.setP_queues (s : State) (d : BitVec 3) (v : Bool) : (s.setP d v).queues = s.queues := rfl
@[simp] theorem State.setP_cycles (s : State) (d : BitVec 3) (v : Bool) : (s.setP d v).cycles = s.cycles := rfl
@[simp] theorem State.setP_waiting (s : State) (d : BitVec 3) (v : Bool) : (s.setP d v).waiting = s.waiting := rfl
@[simp] theorem State.setP_arms (s : State) (d : BitVec 3) (v : Bool) : (s.setP d v).arms = s.arms := rfl
@[simp] theorem State.setP_trig (s : State) (d : BitVec 3) (v : Bool) : (s.setP d v).trig = s.trig := rfl
@[simp] theorem State.setP_planes (s : State) (d : BitVec 3) (v : Bool) : (s.setP d v).planes = s.planes := rfl
@[simp] theorem State.setP_saved (s : State) (d : BitVec 3) (v : Bool) : (s.setP d v).saved = s.saved := rfl
@[simp] theorem State.setP_roles (s : State) (d : BitVec 3) (v : Bool) : (s.setP d v).roles = s.roles := rfl
@[simp] theorem State.setP_flights (s : State) (d : BitVec 3) (v : Bool) : (s.setP d v).flights = s.flights := rfl
@[simp] theorem State.setP_reqs (s : State) (d : BitVec 3) (v : Bool) : (s.setP d v).reqs = s.reqs := rfl
@[simp] theorem State.setP_engs (s : State) (d : BitVec 3) (v : Bool) : (s.setP d v).engs = s.engs := rfl
@[simp] theorem State.setP_cmds (s : State) (d : BitVec 3) (v : Bool) : (s.setP d v).cmds = s.cmds := rfl
@[simp] theorem State.setP_arrays (s : State) (d : BitVec 3) (v : Bool) : (s.setP d v).arrays = s.arrays := rfl
@[simp] theorem State.setP_rows (s : State) (d : BitVec 3) (v : Bool) : (s.setP d v).rows = s.rows := rfl
@[simp] theorem State.setP_rays (s : State) (d : BitVec 3) (v : Bool) : (s.setP d v).rays = s.rays := rfl
@[simp] theorem State.setP_keeps (s : State) (d : BitVec 3) (v : Bool) : (s.setP d v).keeps = s.keeps := rfl
@[simp] theorem State.setP_contribs (s : State) (d : BitVec 3) (v : Bool) : (s.setP d v).contribs = s.contribs := rfl
@[simp] theorem State.setP_windows (s : State) (d : BitVec 3) (v : Bool) : (s.setP d v).windows = s.windows := rfl
@[simp] theorem State.setP_convs (s : State) (d : BitVec 3) (v : Bool) : (s.setP d v).convs = s.convs := rfl
@[simp] theorem State.setP_sends (s : State) (d : BitVec 3) (v : Bool) : (s.setP d v).sends = s.sends := rfl
@[simp] theorem State.setP_deliveries (s : State) (d : BitVec 3) (v : Bool) : (s.setP d v).deliveries = s.deliveries := rfl
@[simp] theorem State.setP_tokens (s : State) (d : BitVec 3) (v : Bool) : (s.setP d v).tokens = s.tokens := rfl
@[simp] theorem State.setP_farLocks (s : State) (d : BitVec 3) (v : Bool) : (s.setP d v).farLocks = s.farLocks := rfl
@[simp] theorem State.setP_races (s : State) (d : BitVec 3) (v : Bool) : (s.setP d v).races = s.races := rfl
@[simp] theorem State.setP_parks (s : State) (d : BitVec 3) (v : Bool) : (s.setP d v).parks = s.parks := rfl
@[simp] theorem State.setP_parking (s : State) (d : BitVec 3) (v : Bool) : (s.setP d v).parking = s.parking := rfl
@[simp] theorem State.setP_slotsHost (s : State) (d : BitVec 3) (v : Bool) : (s.setP d v).slotsHost = s.slotsHost := rfl
@[simp] theorem State.setP_bells (s : State) (d : BitVec 3) (v : Bool) : (s.setP d v).bells = s.bells := rfl
@[simp] theorem State.setP_flips (s : State) (d : BitVec 3) (v : Bool) : (s.setP d v).flips = s.flips := rfl
@[simp] theorem State.setP_poison (s : State) (d : BitVec 3) (v : Bool) : (s.setP d v).poison = s.poison := rfl
@[simp] theorem State.setP_remap (s : State) (d : BitVec 3) (v : Bool) : (s.setP d v).remap = s.remap := rfl
@[simp] theorem State.setP_remapCache (s : State) (d : BitVec 3) (v : Bool) : (s.setP d v).remapCache = s.remapCache := rfl
@[simp] theorem State.setP_pipes (s : State) (d : BitVec 3) (v : Bool) : (s.setP d v).pipes = s.pipes := rfl
@[simp] theorem State.setP_kept (s : State) (d : BitVec 3) (v : Bool) : (s.setP d v).kept = s.kept := rfl
@[simp] theorem State.setP_late (s : State) (d : BitVec 3) (v : Bool) : (s.setP d v).late = s.late := rfl
@[simp] theorem State.setP_landed (s : State) (d : BitVec 3) (v : Bool) : (s.setP d v).landed = s.landed := rfl
@[simp] theorem State.setP_paused (s : State) (d : BitVec 3) (v : Bool) : (s.setP d v).paused = s.paused := rfl
@[simp] theorem State.setP_replays (s : State) (d : BitVec 3) (v : Bool) : (s.setP d v).replays = s.replays := rfl
@[simp] theorem State.setP_fired (s : State) (d : BitVec 3) (v : Bool) : (s.setP d v).fired = s.fired := rfl
@[simp] theorem State.setP_rr (s : State) (d : BitVec 3) (v : Bool) : (s.setP d v).rr = s.rr := rfl

@[simp] theorem State.setPc_agenda (s : State) (pc : BitVec 57) : (s.setPc pc).agenda = s.agenda := rfl
@[simp] theorem State.setPc_cur (s : State) (pc : BitVec 57) : (s.setPc pc).cur = s.cur := rfl
@[simp] theorem State.setPc_site (s : State) (pc : BitVec 57) : (s.setPc pc).site = s.site := rfl
@[simp] theorem State.setPc_fc (s : State) (pc : BitVec 57) : (s.setPc pc).fc = s.fc := rfl
@[simp] theorem State.setPc_timer (s : State) (pc : BitVec 57) : (s.setPc pc).timer = s.timer := rfl
@[simp] theorem State.setPc_draws (s : State) (pc : BitVec 57) : (s.setPc pc).draws = s.draws := rfl
@[simp] theorem State.setPc_fresh (s : State) (pc : BitVec 57) : (s.setPc pc).fresh = s.fresh := rfl
@[simp] theorem State.setPc_arrivals (s : State) (pc : BitVec 57) : (s.setPc pc).arrivals = s.arrivals := rfl
@[simp] theorem State.setPc_mem (s : State) (pc : BitVec 57) : (s.setPc pc).mem = s.mem := rfl
@[simp] theorem State.setPc_edata (s : State) (pc : BitVec 57) : (s.setPc pc).edata = s.edata := rfl
@[simp] theorem State.setPc_edOwner (s : State) (pc : BitVec 57) : (s.setPc pc).edOwner = s.edOwner := rfl
@[simp] theorem State.setPc_lineKey (s : State) (pc : BitVec 57) : (s.setPc pc).lineKey = s.lineKey := rfl
@[simp] theorem State.setPc_keys (s : State) (pc : BitVec 57) : (s.setPc pc).keys = s.keys := rfl
@[simp] theorem State.setPc_tlb (s : State) (pc : BitVec 57) : (s.setPc pc).tlb = s.tlb := rfl
@[simp] theorem State.setPc_csrs (s : State) (pc : BitVec 57) : (s.setPc pc).csrs = s.csrs := rfl
@[simp] theorem State.setPc_locks (s : State) (pc : BitVec 57) : (s.setPc pc).locks = s.locks := rfl
@[simp] theorem State.setPc_tids (s : State) (pc : BitVec 57) : (s.setPc pc).tids = s.tids := rfl
@[simp] theorem State.setPc_blocks (s : State) (pc : BitVec 57) : (s.setPc pc).blocks = s.blocks := rfl
@[simp] theorem State.setPc_queues (s : State) (pc : BitVec 57) : (s.setPc pc).queues = s.queues := rfl
@[simp] theorem State.setPc_cycles (s : State) (pc : BitVec 57) : (s.setPc pc).cycles = s.cycles := rfl
@[simp] theorem State.setPc_waiting (s : State) (pc : BitVec 57) : (s.setPc pc).waiting = s.waiting := rfl
@[simp] theorem State.setPc_arms (s : State) (pc : BitVec 57) : (s.setPc pc).arms = s.arms := rfl
@[simp] theorem State.setPc_trig (s : State) (pc : BitVec 57) : (s.setPc pc).trig = s.trig := rfl
@[simp] theorem State.setPc_planes (s : State) (pc : BitVec 57) : (s.setPc pc).planes = s.planes := rfl
@[simp] theorem State.setPc_saved (s : State) (pc : BitVec 57) : (s.setPc pc).saved = s.saved := rfl
@[simp] theorem State.setPc_roles (s : State) (pc : BitVec 57) : (s.setPc pc).roles = s.roles := rfl
@[simp] theorem State.setPc_flights (s : State) (pc : BitVec 57) : (s.setPc pc).flights = s.flights := rfl
@[simp] theorem State.setPc_reqs (s : State) (pc : BitVec 57) : (s.setPc pc).reqs = s.reqs := rfl
@[simp] theorem State.setPc_engs (s : State) (pc : BitVec 57) : (s.setPc pc).engs = s.engs := rfl
@[simp] theorem State.setPc_cmds (s : State) (pc : BitVec 57) : (s.setPc pc).cmds = s.cmds := rfl
@[simp] theorem State.setPc_arrays (s : State) (pc : BitVec 57) : (s.setPc pc).arrays = s.arrays := rfl
@[simp] theorem State.setPc_rows (s : State) (pc : BitVec 57) : (s.setPc pc).rows = s.rows := rfl
@[simp] theorem State.setPc_rays (s : State) (pc : BitVec 57) : (s.setPc pc).rays = s.rays := rfl
@[simp] theorem State.setPc_keeps (s : State) (pc : BitVec 57) : (s.setPc pc).keeps = s.keeps := rfl
@[simp] theorem State.setPc_contribs (s : State) (pc : BitVec 57) : (s.setPc pc).contribs = s.contribs := rfl
@[simp] theorem State.setPc_windows (s : State) (pc : BitVec 57) : (s.setPc pc).windows = s.windows := rfl
@[simp] theorem State.setPc_convs (s : State) (pc : BitVec 57) : (s.setPc pc).convs = s.convs := rfl
@[simp] theorem State.setPc_sends (s : State) (pc : BitVec 57) : (s.setPc pc).sends = s.sends := rfl
@[simp] theorem State.setPc_deliveries (s : State) (pc : BitVec 57) : (s.setPc pc).deliveries = s.deliveries := rfl
@[simp] theorem State.setPc_tokens (s : State) (pc : BitVec 57) : (s.setPc pc).tokens = s.tokens := rfl
@[simp] theorem State.setPc_farLocks (s : State) (pc : BitVec 57) : (s.setPc pc).farLocks = s.farLocks := rfl
@[simp] theorem State.setPc_races (s : State) (pc : BitVec 57) : (s.setPc pc).races = s.races := rfl
@[simp] theorem State.setPc_parks (s : State) (pc : BitVec 57) : (s.setPc pc).parks = s.parks := rfl
@[simp] theorem State.setPc_parking (s : State) (pc : BitVec 57) : (s.setPc pc).parking = s.parking := rfl
@[simp] theorem State.setPc_slotsHost (s : State) (pc : BitVec 57) : (s.setPc pc).slotsHost = s.slotsHost := rfl
@[simp] theorem State.setPc_bells (s : State) (pc : BitVec 57) : (s.setPc pc).bells = s.bells := rfl
@[simp] theorem State.setPc_flips (s : State) (pc : BitVec 57) : (s.setPc pc).flips = s.flips := rfl
@[simp] theorem State.setPc_poison (s : State) (pc : BitVec 57) : (s.setPc pc).poison = s.poison := rfl
@[simp] theorem State.setPc_remap (s : State) (pc : BitVec 57) : (s.setPc pc).remap = s.remap := rfl
@[simp] theorem State.setPc_remapCache (s : State) (pc : BitVec 57) : (s.setPc pc).remapCache = s.remapCache := rfl
@[simp] theorem State.setPc_pipes (s : State) (pc : BitVec 57) : (s.setPc pc).pipes = s.pipes := rfl
@[simp] theorem State.setPc_kept (s : State) (pc : BitVec 57) : (s.setPc pc).kept = s.kept := rfl
@[simp] theorem State.setPc_late (s : State) (pc : BitVec 57) : (s.setPc pc).late = s.late := rfl
@[simp] theorem State.setPc_landed (s : State) (pc : BitVec 57) : (s.setPc pc).landed = s.landed := rfl
@[simp] theorem State.setPc_paused (s : State) (pc : BitVec 57) : (s.setPc pc).paused = s.paused := rfl
@[simp] theorem State.setPc_replays (s : State) (pc : BitVec 57) : (s.setPc pc).replays = s.replays := rfl
@[simp] theorem State.setPc_fired (s : State) (pc : BitVec 57) : (s.setPc pc).fired = s.fired := rfl
@[simp] theorem State.setPc_rr (s : State) (pc : BitVec 57) : (s.setPc pc).rr = s.rr := rfl

/-! Fields that the update of a plane leaves alone. -/

@[simp] theorem State.setPlane_agenda (s : State) (k : Nat) (p : Plane) : (s.setPlane k p).agenda = s.agenda := rfl
@[simp] theorem State.setPlane_cur (s : State) (k : Nat) (p : Plane) : (s.setPlane k p).cur = s.cur := rfl
@[simp] theorem State.setPlane_site (s : State) (k : Nat) (p : Plane) : (s.setPlane k p).site = s.site := rfl
@[simp] theorem State.setPlane_fc (s : State) (k : Nat) (p : Plane) : (s.setPlane k p).fc = s.fc := rfl
@[simp] theorem State.setPlane_timer (s : State) (k : Nat) (p : Plane) : (s.setPlane k p).timer = s.timer := rfl
@[simp] theorem State.setPlane_draws (s : State) (k : Nat) (p : Plane) : (s.setPlane k p).draws = s.draws := rfl
@[simp] theorem State.setPlane_fresh (s : State) (k : Nat) (p : Plane) : (s.setPlane k p).fresh = s.fresh := rfl
@[simp] theorem State.setPlane_arrivals (s : State) (k : Nat) (p : Plane) : (s.setPlane k p).arrivals = s.arrivals := rfl
@[simp] theorem State.setPlane_units (s : State) (k : Nat) (p : Plane) : (s.setPlane k p).units = s.units := rfl
@[simp] theorem State.setPlane_mem (s : State) (k : Nat) (p : Plane) : (s.setPlane k p).mem = s.mem := rfl
@[simp] theorem State.setPlane_edata (s : State) (k : Nat) (p : Plane) : (s.setPlane k p).edata = s.edata := rfl
@[simp] theorem State.setPlane_edOwner (s : State) (k : Nat) (p : Plane) : (s.setPlane k p).edOwner = s.edOwner := rfl
@[simp] theorem State.setPlane_lineKey (s : State) (k : Nat) (p : Plane) : (s.setPlane k p).lineKey = s.lineKey := rfl
@[simp] theorem State.setPlane_keys (s : State) (k : Nat) (p : Plane) : (s.setPlane k p).keys = s.keys := rfl
@[simp] theorem State.setPlane_tlb (s : State) (k : Nat) (p : Plane) : (s.setPlane k p).tlb = s.tlb := rfl
@[simp] theorem State.setPlane_csrs (s : State) (k : Nat) (p : Plane) : (s.setPlane k p).csrs = s.csrs := rfl
@[simp] theorem State.setPlane_locks (s : State) (k : Nat) (p : Plane) : (s.setPlane k p).locks = s.locks := rfl
@[simp] theorem State.setPlane_tids (s : State) (k : Nat) (p : Plane) : (s.setPlane k p).tids = s.tids := rfl
@[simp] theorem State.setPlane_blocks (s : State) (k : Nat) (p : Plane) : (s.setPlane k p).blocks = s.blocks := rfl
@[simp] theorem State.setPlane_queues (s : State) (k : Nat) (p : Plane) : (s.setPlane k p).queues = s.queues := rfl
@[simp] theorem State.setPlane_cycles (s : State) (k : Nat) (p : Plane) : (s.setPlane k p).cycles = s.cycles := rfl
@[simp] theorem State.setPlane_waiting (s : State) (k : Nat) (p : Plane) : (s.setPlane k p).waiting = s.waiting := rfl
@[simp] theorem State.setPlane_arms (s : State) (k : Nat) (p : Plane) : (s.setPlane k p).arms = s.arms := rfl
@[simp] theorem State.setPlane_trig (s : State) (k : Nat) (p : Plane) : (s.setPlane k p).trig = s.trig := rfl
@[simp] theorem State.setPlane_saved (s : State) (k : Nat) (p : Plane) : (s.setPlane k p).saved = s.saved := rfl
@[simp] theorem State.setPlane_roles (s : State) (k : Nat) (p : Plane) : (s.setPlane k p).roles = s.roles := rfl
@[simp] theorem State.setPlane_flights (s : State) (k : Nat) (p : Plane) : (s.setPlane k p).flights = s.flights := rfl
@[simp] theorem State.setPlane_reqs (s : State) (k : Nat) (p : Plane) : (s.setPlane k p).reqs = s.reqs := rfl
@[simp] theorem State.setPlane_engs (s : State) (k : Nat) (p : Plane) : (s.setPlane k p).engs = s.engs := rfl
@[simp] theorem State.setPlane_cmds (s : State) (k : Nat) (p : Plane) : (s.setPlane k p).cmds = s.cmds := rfl
@[simp] theorem State.setPlane_arrays (s : State) (k : Nat) (p : Plane) : (s.setPlane k p).arrays = s.arrays := rfl
@[simp] theorem State.setPlane_rows (s : State) (k : Nat) (p : Plane) : (s.setPlane k p).rows = s.rows := rfl
@[simp] theorem State.setPlane_rays (s : State) (k : Nat) (p : Plane) : (s.setPlane k p).rays = s.rays := rfl
@[simp] theorem State.setPlane_keeps (s : State) (k : Nat) (p : Plane) : (s.setPlane k p).keeps = s.keeps := rfl
@[simp] theorem State.setPlane_contribs (s : State) (k : Nat) (p : Plane) : (s.setPlane k p).contribs = s.contribs := rfl
@[simp] theorem State.setPlane_windows (s : State) (k : Nat) (p : Plane) : (s.setPlane k p).windows = s.windows := rfl
@[simp] theorem State.setPlane_convs (s : State) (k : Nat) (p : Plane) : (s.setPlane k p).convs = s.convs := rfl
@[simp] theorem State.setPlane_sends (s : State) (k : Nat) (p : Plane) : (s.setPlane k p).sends = s.sends := rfl
@[simp] theorem State.setPlane_deliveries (s : State) (k : Nat) (p : Plane) : (s.setPlane k p).deliveries = s.deliveries := rfl
@[simp] theorem State.setPlane_tokens (s : State) (k : Nat) (p : Plane) : (s.setPlane k p).tokens = s.tokens := rfl
@[simp] theorem State.setPlane_farLocks (s : State) (k : Nat) (p : Plane) : (s.setPlane k p).farLocks = s.farLocks := rfl
@[simp] theorem State.setPlane_races (s : State) (k : Nat) (p : Plane) : (s.setPlane k p).races = s.races := rfl
@[simp] theorem State.setPlane_parks (s : State) (k : Nat) (p : Plane) : (s.setPlane k p).parks = s.parks := rfl
@[simp] theorem State.setPlane_parking (s : State) (k : Nat) (p : Plane) : (s.setPlane k p).parking = s.parking := rfl
@[simp] theorem State.setPlane_slotsHost (s : State) (k : Nat) (p : Plane) : (s.setPlane k p).slotsHost = s.slotsHost := rfl
@[simp] theorem State.setPlane_bells (s : State) (k : Nat) (p : Plane) : (s.setPlane k p).bells = s.bells := rfl
@[simp] theorem State.setPlane_flips (s : State) (k : Nat) (p : Plane) : (s.setPlane k p).flips = s.flips := rfl
@[simp] theorem State.setPlane_poison (s : State) (k : Nat) (p : Plane) : (s.setPlane k p).poison = s.poison := rfl
@[simp] theorem State.setPlane_remap (s : State) (k : Nat) (p : Plane) : (s.setPlane k p).remap = s.remap := rfl
@[simp] theorem State.setPlane_remapCache (s : State) (k : Nat) (p : Plane) : (s.setPlane k p).remapCache = s.remapCache := rfl
@[simp] theorem State.setPlane_pipes (s : State) (k : Nat) (p : Plane) : (s.setPlane k p).pipes = s.pipes := rfl
@[simp] theorem State.setPlane_kept (s : State) (k : Nat) (p : Plane) : (s.setPlane k p).kept = s.kept := rfl
@[simp] theorem State.setPlane_late (s : State) (k : Nat) (p : Plane) : (s.setPlane k p).late = s.late := rfl
@[simp] theorem State.setPlane_landed (s : State) (k : Nat) (p : Plane) : (s.setPlane k p).landed = s.landed := rfl
@[simp] theorem State.setPlane_paused (s : State) (k : Nat) (p : Plane) : (s.setPlane k p).paused = s.paused := rfl
@[simp] theorem State.setPlane_replays (s : State) (k : Nat) (p : Plane) : (s.setPlane k p).replays = s.replays := rfl
@[simp] theorem State.setPlane_fired (s : State) (k : Nat) (p : Plane) : (s.setPlane k p).fired = s.fired := rfl
@[simp] theorem State.setPlane_rr (s : State) (k : Nat) (p : Plane) : (s.setPlane k p).rr = s.rr := rfl

/-! Fields that a write of a control register leaves alone. -/

@[simp] theorem State.setCsr_agenda (s : State) (part n : Nat) (v : Word) : (s.setCsr part n v).agenda = s.agenda := rfl
@[simp] theorem State.setCsr_cur (s : State) (part n : Nat) (v : Word) : (s.setCsr part n v).cur = s.cur := rfl
@[simp] theorem State.setCsr_site (s : State) (part n : Nat) (v : Word) : (s.setCsr part n v).site = s.site := rfl
@[simp] theorem State.setCsr_fc (s : State) (part n : Nat) (v : Word) : (s.setCsr part n v).fc = s.fc := rfl
@[simp] theorem State.setCsr_timer (s : State) (part n : Nat) (v : Word) : (s.setCsr part n v).timer = s.timer := rfl
@[simp] theorem State.setCsr_draws (s : State) (part n : Nat) (v : Word) : (s.setCsr part n v).draws = s.draws := rfl
@[simp] theorem State.setCsr_fresh (s : State) (part n : Nat) (v : Word) : (s.setCsr part n v).fresh = s.fresh := rfl
@[simp] theorem State.setCsr_arrivals (s : State) (part n : Nat) (v : Word) : (s.setCsr part n v).arrivals = s.arrivals := rfl
@[simp] theorem State.setCsr_units (s : State) (part n : Nat) (v : Word) : (s.setCsr part n v).units = s.units := rfl
@[simp] theorem State.setCsr_mem (s : State) (part n : Nat) (v : Word) : (s.setCsr part n v).mem = s.mem := rfl
@[simp] theorem State.setCsr_edata (s : State) (part n : Nat) (v : Word) : (s.setCsr part n v).edata = s.edata := rfl
@[simp] theorem State.setCsr_edOwner (s : State) (part n : Nat) (v : Word) : (s.setCsr part n v).edOwner = s.edOwner := rfl
@[simp] theorem State.setCsr_lineKey (s : State) (part n : Nat) (v : Word) : (s.setCsr part n v).lineKey = s.lineKey := rfl
@[simp] theorem State.setCsr_keys (s : State) (part n : Nat) (v : Word) : (s.setCsr part n v).keys = s.keys := rfl
@[simp] theorem State.setCsr_tlb (s : State) (part n : Nat) (v : Word) : (s.setCsr part n v).tlb = s.tlb := rfl
@[simp] theorem State.setCsr_locks (s : State) (part n : Nat) (v : Word) : (s.setCsr part n v).locks = s.locks := rfl
@[simp] theorem State.setCsr_tids (s : State) (part n : Nat) (v : Word) : (s.setCsr part n v).tids = s.tids := rfl
@[simp] theorem State.setCsr_blocks (s : State) (part n : Nat) (v : Word) : (s.setCsr part n v).blocks = s.blocks := rfl
@[simp] theorem State.setCsr_queues (s : State) (part n : Nat) (v : Word) : (s.setCsr part n v).queues = s.queues := rfl
@[simp] theorem State.setCsr_cycles (s : State) (part n : Nat) (v : Word) : (s.setCsr part n v).cycles = s.cycles := rfl
@[simp] theorem State.setCsr_waiting (s : State) (part n : Nat) (v : Word) : (s.setCsr part n v).waiting = s.waiting := rfl
@[simp] theorem State.setCsr_arms (s : State) (part n : Nat) (v : Word) : (s.setCsr part n v).arms = s.arms := rfl
@[simp] theorem State.setCsr_trig (s : State) (part n : Nat) (v : Word) : (s.setCsr part n v).trig = s.trig := rfl
@[simp] theorem State.setCsr_planes (s : State) (part n : Nat) (v : Word) : (s.setCsr part n v).planes = s.planes := rfl
@[simp] theorem State.setCsr_saved (s : State) (part n : Nat) (v : Word) : (s.setCsr part n v).saved = s.saved := rfl
@[simp] theorem State.setCsr_roles (s : State) (part n : Nat) (v : Word) : (s.setCsr part n v).roles = s.roles := rfl
@[simp] theorem State.setCsr_flights (s : State) (part n : Nat) (v : Word) : (s.setCsr part n v).flights = s.flights := rfl
@[simp] theorem State.setCsr_reqs (s : State) (part n : Nat) (v : Word) : (s.setCsr part n v).reqs = s.reqs := rfl
@[simp] theorem State.setCsr_engs (s : State) (part n : Nat) (v : Word) : (s.setCsr part n v).engs = s.engs := rfl
@[simp] theorem State.setCsr_cmds (s : State) (part n : Nat) (v : Word) : (s.setCsr part n v).cmds = s.cmds := rfl
@[simp] theorem State.setCsr_arrays (s : State) (part n : Nat) (v : Word) : (s.setCsr part n v).arrays = s.arrays := rfl
@[simp] theorem State.setCsr_rows (s : State) (part n : Nat) (v : Word) : (s.setCsr part n v).rows = s.rows := rfl
@[simp] theorem State.setCsr_rays (s : State) (part n : Nat) (v : Word) : (s.setCsr part n v).rays = s.rays := rfl
@[simp] theorem State.setCsr_keeps (s : State) (part n : Nat) (v : Word) : (s.setCsr part n v).keeps = s.keeps := rfl
@[simp] theorem State.setCsr_contribs (s : State) (part n : Nat) (v : Word) : (s.setCsr part n v).contribs = s.contribs := rfl
@[simp] theorem State.setCsr_windows (s : State) (part n : Nat) (v : Word) : (s.setCsr part n v).windows = s.windows := rfl
@[simp] theorem State.setCsr_convs (s : State) (part n : Nat) (v : Word) : (s.setCsr part n v).convs = s.convs := rfl
@[simp] theorem State.setCsr_sends (s : State) (part n : Nat) (v : Word) : (s.setCsr part n v).sends = s.sends := rfl
@[simp] theorem State.setCsr_deliveries (s : State) (part n : Nat) (v : Word) : (s.setCsr part n v).deliveries = s.deliveries := rfl
@[simp] theorem State.setCsr_tokens (s : State) (part n : Nat) (v : Word) : (s.setCsr part n v).tokens = s.tokens := rfl
@[simp] theorem State.setCsr_farLocks (s : State) (part n : Nat) (v : Word) : (s.setCsr part n v).farLocks = s.farLocks := rfl
@[simp] theorem State.setCsr_races (s : State) (part n : Nat) (v : Word) : (s.setCsr part n v).races = s.races := rfl
@[simp] theorem State.setCsr_parks (s : State) (part n : Nat) (v : Word) : (s.setCsr part n v).parks = s.parks := rfl
@[simp] theorem State.setCsr_parking (s : State) (part n : Nat) (v : Word) : (s.setCsr part n v).parking = s.parking := rfl
@[simp] theorem State.setCsr_slotsHost (s : State) (part n : Nat) (v : Word) : (s.setCsr part n v).slotsHost = s.slotsHost := rfl
@[simp] theorem State.setCsr_bells (s : State) (part n : Nat) (v : Word) : (s.setCsr part n v).bells = s.bells := rfl
@[simp] theorem State.setCsr_flips (s : State) (part n : Nat) (v : Word) : (s.setCsr part n v).flips = s.flips := rfl
@[simp] theorem State.setCsr_poison (s : State) (part n : Nat) (v : Word) : (s.setCsr part n v).poison = s.poison := rfl
@[simp] theorem State.setCsr_remap (s : State) (part n : Nat) (v : Word) : (s.setCsr part n v).remap = s.remap := rfl
@[simp] theorem State.setCsr_remapCache (s : State) (part n : Nat) (v : Word) : (s.setCsr part n v).remapCache = s.remapCache := rfl
@[simp] theorem State.setCsr_pipes (s : State) (part n : Nat) (v : Word) : (s.setCsr part n v).pipes = s.pipes := rfl
@[simp] theorem State.setCsr_kept (s : State) (part n : Nat) (v : Word) : (s.setCsr part n v).kept = s.kept := rfl
@[simp] theorem State.setCsr_late (s : State) (part n : Nat) (v : Word) : (s.setCsr part n v).late = s.late := rfl
@[simp] theorem State.setCsr_landed (s : State) (part n : Nat) (v : Word) : (s.setCsr part n v).landed = s.landed := rfl
@[simp] theorem State.setCsr_paused (s : State) (part n : Nat) (v : Word) : (s.setCsr part n v).paused = s.paused := rfl
@[simp] theorem State.setCsr_replays (s : State) (part n : Nat) (v : Word) : (s.setCsr part n v).replays = s.replays := rfl
@[simp] theorem State.setCsr_fired (s : State) (part n : Nat) (v : Word) : (s.setCsr part n v).fired = s.fired := rfl
@[simp] theorem State.setCsr_rr (s : State) (part n : Nat) (v : Word) : (s.setCsr part n v).rr = s.rr := rfl

/-! Fields of a unit that a register write leaves alone. -/

@[simp] theorem UnitSt.setG_preds (x : UnitSt) (d : BitVec 5) (v : Word) : (x.setG d v).preds = x.preds := by
  unfold UnitSt.setG; split <;> rfl
@[simp] theorem UnitSt.setG_pc (x : UnitSt) (d : BitVec 5) (v : Word) : (x.setG d v).pc = x.pc := by
  unfold UnitSt.setG; split <;> rfl
@[simp] theorem UnitSt.setG_status (x : UnitSt) (d : BitVec 5) (v : Word) : (x.setG d v).status = x.status := by
  unfold UnitSt.setG; split <;> rfl
@[simp] theorem UnitSt.setG_record (x : UnitSt) (d : BitVec 5) (v : Word) : (x.setG d v).record = x.record := by
  unfold UnitSt.setG; split <;> rfl
@[simp] theorem UnitSt.setG_recAddr (x : UnitSt) (d : BitVec 5) (v : Word) : (x.setG d v).recAddr = x.recAddr := by
  unfold UnitSt.setG; split <;> rfl
@[simp] theorem UnitSt.setG_ctx (x : UnitSt) (d : BitVec 5) (v : Word) : (x.setG d v).ctx = x.ctx := by
  unfold UnitSt.setG; split <;> rfl
@[simp] theorem UnitSt.setG_priv (x : UnitSt) (d : BitVec 5) (v : Word) : (x.setG d v).priv = x.priv := by
  unfold UnitSt.setG; split <;> rfl
@[simp] theorem UnitSt.setG_recPriv (x : UnitSt) (d : BitVec 5) (v : Word) : (x.setG d v).recPriv = x.recPriv := by
  unfold UnitSt.setG; split <;> rfl
@[simp] theorem UnitSt.setG_handler (x : UnitSt) (d : BitVec 5) (v : Word) : (x.setG d v).handler = x.handler := by
  unfold UnitSt.setG; split <;> rfl
@[simp] theorem UnitSt.setG_elev (x : UnitSt) (d : BitVec 5) (v : Word) : (x.setG d v).elev = x.elev := by
  unfold UnitSt.setG; split <;> rfl
@[simp] theorem UnitSt.setG_region (x : UnitSt) (d : BitVec 5) (v : Word) : (x.setG d v).region = x.region := by
  unfold UnitSt.setG; split <;> rfl
@[simp] theorem UnitSt.setG_serial (x : UnitSt) (d : BitVec 5) (v : Word) : (x.setG d v).serial = x.serial := by
  unfold UnitSt.setG; split <;> rfl
@[simp] theorem UnitSt.setG_relGen (x : UnitSt) (d : BitVec 5) (v : Word) : (x.setG d v).relGen = x.relGen := by
  unfold UnitSt.setG; split <;> rfl
@[simp] theorem UnitSt.setG_horizon (x : UnitSt) (d : BitVec 5) (v : Word) : (x.setG d v).horizon = x.horizon := by
  unfold UnitSt.setG; split <;> rfl
@[simp] theorem UnitSt.setG_idleAt (x : UnitSt) (d : BitVec 5) (v : Word) : (x.setG d v).idleAt = x.idleAt := by
  unfold UnitSt.setG; split <;> rfl
@[simp] theorem UnitSt.setG_wait (x : UnitSt) (d : BitVec 5) (v : Word) : (x.setG d v).wait = x.wait := by
  unfold UnitSt.setG; split <;> rfl
@[simp] theorem UnitSt.setG_first (x : UnitSt) (d : BitVec 5) (v : Word) : (x.setG d v).first = x.first := by
  unfold UnitSt.setG; split <;> rfl
@[simp] theorem UnitSt.setG_tvec (x : UnitSt) (d : BitVec 5) (v : Word) : (x.setG d v).tvec = x.tvec := by
  unfold UnitSt.setG; split <;> rfl
@[simp] theorem UnitSt.setG_tepc (x : UnitSt) (d : BitVec 5) (v : Word) : (x.setG d v).tepc = x.tepc := by
  unfold UnitSt.setG; split <;> rfl
@[simp] theorem UnitSt.setG_tinfo (x : UnitSt) (d : BitVec 5) (v : Word) : (x.setG d v).tinfo = x.tinfo := by
  unfold UnitSt.setG; split <;> rfl
@[simp] theorem UnitSt.setG_tval (x : UnitSt) (d : BitVec 5) (v : Word) : (x.setG d v).tval = x.tval := by
  unfold UnitSt.setG; split <;> rfl
@[simp] theorem UnitSt.setG_tpend (x : UnitSt) (d : BitVec 5) (v : Word) : (x.setG d v).tpend = x.tpend := by
  unfold UnitSt.setG; split <;> rfl
@[simp] theorem UnitSt.setG_tien (x : UnitSt) (d : BitVec 5) (v : Word) : (x.setG d v).tien = x.tien := by
  unfold UnitSt.setG; split <;> rfl

@[simp] theorem UnitSt.setP_regs (x : UnitSt) (d : BitVec 3) (v : Bool) : (x.setP d v).regs = x.regs := by
  unfold UnitSt.setP; split <;> rfl
@[simp] theorem UnitSt.setP_pc (x : UnitSt) (d : BitVec 3) (v : Bool) : (x.setP d v).pc = x.pc := by
  unfold UnitSt.setP; split <;> rfl
@[simp] theorem UnitSt.setP_status (x : UnitSt) (d : BitVec 3) (v : Bool) : (x.setP d v).status = x.status := by
  unfold UnitSt.setP; split <;> rfl
@[simp] theorem UnitSt.setP_record (x : UnitSt) (d : BitVec 3) (v : Bool) : (x.setP d v).record = x.record := by
  unfold UnitSt.setP; split <;> rfl
@[simp] theorem UnitSt.setP_recAddr (x : UnitSt) (d : BitVec 3) (v : Bool) : (x.setP d v).recAddr = x.recAddr := by
  unfold UnitSt.setP; split <;> rfl
@[simp] theorem UnitSt.setP_ctx (x : UnitSt) (d : BitVec 3) (v : Bool) : (x.setP d v).ctx = x.ctx := by
  unfold UnitSt.setP; split <;> rfl
@[simp] theorem UnitSt.setP_priv (x : UnitSt) (d : BitVec 3) (v : Bool) : (x.setP d v).priv = x.priv := by
  unfold UnitSt.setP; split <;> rfl
@[simp] theorem UnitSt.setP_recPriv (x : UnitSt) (d : BitVec 3) (v : Bool) : (x.setP d v).recPriv = x.recPriv := by
  unfold UnitSt.setP; split <;> rfl
@[simp] theorem UnitSt.setP_handler (x : UnitSt) (d : BitVec 3) (v : Bool) : (x.setP d v).handler = x.handler := by
  unfold UnitSt.setP; split <;> rfl
@[simp] theorem UnitSt.setP_elev (x : UnitSt) (d : BitVec 3) (v : Bool) : (x.setP d v).elev = x.elev := by
  unfold UnitSt.setP; split <;> rfl
@[simp] theorem UnitSt.setP_region (x : UnitSt) (d : BitVec 3) (v : Bool) : (x.setP d v).region = x.region := by
  unfold UnitSt.setP; split <;> rfl
@[simp] theorem UnitSt.setP_serial (x : UnitSt) (d : BitVec 3) (v : Bool) : (x.setP d v).serial = x.serial := by
  unfold UnitSt.setP; split <;> rfl
@[simp] theorem UnitSt.setP_relGen (x : UnitSt) (d : BitVec 3) (v : Bool) : (x.setP d v).relGen = x.relGen := by
  unfold UnitSt.setP; split <;> rfl
@[simp] theorem UnitSt.setP_horizon (x : UnitSt) (d : BitVec 3) (v : Bool) : (x.setP d v).horizon = x.horizon := by
  unfold UnitSt.setP; split <;> rfl
@[simp] theorem UnitSt.setP_idleAt (x : UnitSt) (d : BitVec 3) (v : Bool) : (x.setP d v).idleAt = x.idleAt := by
  unfold UnitSt.setP; split <;> rfl
@[simp] theorem UnitSt.setP_wait (x : UnitSt) (d : BitVec 3) (v : Bool) : (x.setP d v).wait = x.wait := by
  unfold UnitSt.setP; split <;> rfl
@[simp] theorem UnitSt.setP_first (x : UnitSt) (d : BitVec 3) (v : Bool) : (x.setP d v).first = x.first := by
  unfold UnitSt.setP; split <;> rfl
@[simp] theorem UnitSt.setP_tvec (x : UnitSt) (d : BitVec 3) (v : Bool) : (x.setP d v).tvec = x.tvec := by
  unfold UnitSt.setP; split <;> rfl
@[simp] theorem UnitSt.setP_tepc (x : UnitSt) (d : BitVec 3) (v : Bool) : (x.setP d v).tepc = x.tepc := by
  unfold UnitSt.setP; split <;> rfl
@[simp] theorem UnitSt.setP_tinfo (x : UnitSt) (d : BitVec 3) (v : Bool) : (x.setP d v).tinfo = x.tinfo := by
  unfold UnitSt.setP; split <;> rfl
@[simp] theorem UnitSt.setP_tval (x : UnitSt) (d : BitVec 3) (v : Bool) : (x.setP d v).tval = x.tval := by
  unfold UnitSt.setP; split <;> rfl
@[simp] theorem UnitSt.setP_tpend (x : UnitSt) (d : BitVec 3) (v : Bool) : (x.setP d v).tpend = x.tpend := by
  unfold UnitSt.setP; split <;> rfl
@[simp] theorem UnitSt.setP_tien (x : UnitSt) (d : BitVec 3) (v : Bool) : (x.setP d v).tien = x.tien := by
  unfold UnitSt.setP; split <;> rfl

/-! Reading after a write. -/

@[simp] theorem State.unit_setUnit (s : State) (u v : Nat) (x : UnitSt) :
    (s.setUnit u x).unit v = if v = u then x else s.unit v := by
  unfold State.unit State.setUnit; rw [Map.get_put]

@[simp] theorem State.me_setMe (s : State) (x : UnitSt) : (s.setMe x).me = x := by
  simp [State.me, State.setMe]

/-- Another unit's state does not change when the executing unit's does. -/
theorem State.unit_setMe (s : State) (x : UnitSt) (v : Nat) : (s.setMe x).unit v = if v = s.cur then x else s.unit v := by
  simp [State.setMe]

/-- The last of two updates of the executing unit counts. -/
@[simp] theorem State.setMe_setMe (s : State) (x y : UnitSt) : (s.setMe x).setMe y = s.setMe y := by
  simp only [State.setMe, State.setUnit, Map.put_put]

@[simp] theorem State.me_setG (s : State) (d : BitVec 5) (v : Word) : (s.setG d v).me = s.me.setG d v := by
  simp [State.setG]

@[simp] theorem State.me_setP (s : State) (d : BitVec 3) (v : Bool) : (s.setP d v).me = s.me.setP d v := by
  simp [State.setP]

@[simp] theorem State.me_setPc (s : State) (pc : BitVec 57) : (s.setPc pc).me = { s.me with pc := pc } := by
  simp [State.setPc]

/-- R131: a write to g0 is discarded, and g0 reads as zero. -/
@[simp] theorem UnitSt.g_setG (x : UnitSt) (d r : BitVec 5) (v : Word) :
    (x.setG d v).g r = if r = d ∧ d ≠ 0#5 then v else x.g r := by
  unfold UnitSt.setG UnitSt.g
  by_cases hd : d = 0#5
  · simp [hd]
  · by_cases hr : r = d
    · subst hr; simp [hd]
    · have : r.toNat ≠ d.toNat := fun h => hr (BitVec.eq_of_toNat_eq h)
      simp [hd, hr, Ne.symm this]

@[simp] theorem UnitSt.g_zero (x : UnitSt) : x.g 0#5 = 0#64 := by simp [UnitSt.g]

/-- R131: a write to p0 is discarded, and p0 reads as true. -/
@[simp] theorem UnitSt.p_setP (x : UnitSt) (d r : BitVec 3) (v : Bool) :
    (x.setP d v).p r = if r = d ∧ d ≠ 0#3 then v else x.p r := by
  have key : ∀ (m : BitVec 8) (d r : BitVec 3) (v : Bool), d ≠ 0#3 →
      ((m &&& ~~~(1#8 <<< d.toNat)) ||| (if v then 1#8 <<< d.toNat else 0#8)).getLsbD r.toNat =
        if r = d then v else m.getLsbD r.toNat := by
    intro m d r v hd
    have hr : r.toNat < 8 := r.isLt
    by_cases h : r = d
    · subst h; cases v <;> simp [hr]
    · have h1 : (1#8 <<< d.toNat).getLsbD r.toNat = false := by
        have : r.toNat ≠ d.toNat := fun e => h (BitVec.eq_of_toNat_eq e)
        simp only [BitVec.getLsbD_shiftLeft, BitVec.getLsbD_one]
        rcases Nat.lt_or_ge r.toNat d.toNat with h2 | h2
        · simp [h2]
        · have : r.toNat - d.toNat ≠ 0 := by omega
          simp [this]
      rw [if_neg h, BitVec.getLsbD_or, BitVec.getLsbD_and, BitVec.getLsbD_not, h1]
      have h2 : (if v then 1#8 <<< d.toNat else 0#8).getLsbD r.toNat = false := by
        cases v
        · simp
        · simpa only [if_true] using h1
      rw [h2]; simp [hr]
  unfold UnitSt.setP UnitSt.p
  by_cases hd : d = 0#3
  · simp [hd]
  · simp only [hd, if_false]
    rw [key x.preds d r v hd]
    by_cases h : r = d
    · subst h; simp [hd]
    · simp [h]

@[simp] theorem UnitSt.p_zero (x : UnitSt) : x.p 0#3 = true := by simp [UnitSt.p]

@[simp] theorem UnitSt.g_pc (x : UnitSt) (pc : BitVec 57) (r : BitVec 5) : ({ x with pc := pc } : UnitSt).g r = x.g r := rfl
@[simp] theorem UnitSt.p_pc (x : UnitSt) (pc : BitVec 57) (r : BitVec 3) : ({ x with pc := pc } : UnitSt).p r = x.p r := rfl
@[simp] theorem UnitSt.p_setG (x : UnitSt) (d : BitVec 5) (v : Word) (r : BitVec 3) : (x.setG d v).p r = x.p r := by
  simp [UnitSt.p]
@[simp] theorem UnitSt.g_setP (x : UnitSt) (d : BitVec 3) (v : Bool) (r : BitVec 5) : (x.setP d v).g r = x.g r := by
  simp [UnitSt.g]

@[simp] theorem State.plane_setPlane (s : State) (k j : Nat) (p : Plane) :
    (s.setPlane k p).plane j = if j = k then p else s.plane j := by
  unfold State.plane State.setPlane; rw [Map.get_put]

/-- The last of two updates of a plane counts. -/
@[simp] theorem State.setPlane_setPlane (s : State) (k : Nat) (p q : Plane) : (s.setPlane k p).setPlane k q = s.setPlane k q := by
  simp only [State.setPlane, Map.put_put]

end Sys2Proof.Machine
end

