-- ==== Sys2Proof/Laws/Firing.lean ====
section
/-! SUPPORT. What a firing reads, consumes and sends. -/

namespace Sys2Proof.Machine

set_option Elab.async false

open Sys2Proof

/-- What a ready firing is made of: the site, its plane, its live frame, which is not parked and whose part in the copy has not ended,
and its operands (R15, R22, R208). -/
theorem ready_spec {s : State} {n : NodeBody} {a : Fire} (h : s.ready n = some a) :
    a.pk = s.site.plane ∧ a.e = s.site.elem ∧ a.node = s.site.node ∧ a.f = s.site.frame ∧ a.p = s.plane a.pk ∧ a.n = n ∧
    s.mayFire = some a.fr ∧ a.p.frames.find a.f = some a.fr ∧ a.fr.parked = false ∧ a.p.copyOf a.pk a.e ∉ a.fr.ended ∧ s.readPort n 0 = some a.l ∧ s.readPort n 1 = some a.r ∧
    s.readPort n 2 = some a.pr ∧ a.rnd = ⟨n.mod.toNat % 8, (s.plane a.pk).srReg a.pk a.e, 0⟩ := by
  unfold State.ready at h
  dsimp only at h
  split at h
  · rename_i fr l r q h1 h2 h3 h4
    injection h with h; subst h
    refine ⟨rfl, rfl, rfl, rfl, rfl, rfl, h1, ?_, and_assoc.1 ⟨?_, h2, h3, h4, rfl⟩⟩
    · unfold State.mayFire at h1; dsimp only at h1
      split at h1
      · cases h1
      · split at h1
        · rename_i f hf; split at h1
          · cases h1
          · injection h1 with h1; subst h1; exact hf
        · cases h1
    · unfold State.mayFire at h1; dsimp only at h1
      split at h1
      · cases h1
      · split at h1
        · rename_i f hf; split at h1
          · cases h1
          · rename_i hp; injection h1 with h1; subst h1; simpa [not_or] using hp
        · cases h1
  · cases h

/-- Reading a plane after replacing one. -/
theorem plane_setPlane (s : State) (k j : Nat) (p : Plane) : (s.setPlane k p).plane j = if j = k then p else s.plane j := by
  unfold State.plane State.setPlane; simp [Map.get]; split <;> simp

/-- Finding a plane after replacing one. -/
theorem find_setPlane (s : State) (k j : Nat) (p : Plane) : (s.setPlane k p).planes.find j = if j = k then some p else s.planes.find j := by
  unfold State.setPlane; simp

/-- Consuming operands removes the declared slots that are not sticky, and no other (R15, R24). -/
theorem consume_slots (p : Plane) (n : NodeBody) (e node f k : Nat) :
    (p.consume n e node f).slots.find k = if (n.hasL = true ∧ n.stickyL = false ∧ k = slotKey node f 0 e) ∨
      (n.hasR = true ∧ n.stickyR = false ∧ k = slotKey node f 1 e) ∨ (n.hasP = true ∧ k = slotKey node f 2 e) then none
      else p.slots.find k := by
  unfold Plane.consume Plane.take
  cases hl : n.hasL <;> cases hsl : n.stickyL <;> cases hr : n.hasR <;> cases hsr : n.stickyR <;> cases hp : n.hasP <;>
    simp <;> (repeat' split) <;> simp_all

/-- Consuming operands changes slots alone. -/
theorem consume_eq (p : Plane) (n : NodeBody) (e node f : Nat) :
    p.consume n e node f = { p with slots := (p.consume n e node f).slots } := by
  unfold Plane.consume Plane.take
  cases n.hasL && !n.stickyL <;> cases n.hasR && !n.stickyR <;> cases n.hasP <;> rfl

/-- Sending to a destination word adds flights, and changes nothing else (R26). -/
theorem sendTo_frame (s : State) (pk e : Nat) (d : BitVec 32) (frame gen : Nat) (v : Operand) :
    ∃ l, s.sendTo pk e d frame gen v = { s with flights := s.flights ++ l } := by
  unfold State.sendTo; dsimp only
  split
  · exact ⟨[], by simp⟩
  · split
    · exact ⟨_, rfl⟩
    · exact ⟨_, rfl⟩

/-- The number of a token's tag by its fields (R13). -/
theorem toNat_mkTag (pp frame gen node port kind : Nat) (m : Mask) (hp : pp < 4) :
    (mkTag pp frame gen node port kind m).toNat = pp * 2 ^ 40 + frame % 1024 * 2 ^ 30 + gen % 8 * 2 ^ 27 + node % 32 * 2 ^ 22 + port % 4 * 2 ^ 20 +
    kind % 16 * 2 ^ 16 + m.toNat := by
  unfold mkTag
  rw [BitVec.toNat_ofNat]
  have := m.isLt
  omega

section

variable (pp frame gen node port kind : Nat) (m : Mask)

/-- The frame of a tag. -/
theorem tagFrame_mkTag (hp : pp < 4) : tagFrame (mkTag pp frame gen node port kind m) = frame % 1024 := by
  show (mkTag pp frame gen node port kind m).toNat / 2 ^ 30 % 2 ^ 10 = _
  rw [toNat_mkTag _ _ _ _ _ _ _ hp]; have := m.isLt; omega

/-- The generation of a tag. -/
theorem tagGen_mkTag (hp : pp < 4) : tagGen (mkTag pp frame gen node port kind m) = gen % 8 := by
  show (mkTag pp frame gen node port kind m).toNat / 2 ^ 27 % 2 ^ 3 = _
  rw [toNat_mkTag _ _ _ _ _ _ _ hp]; have := m.isLt; omega

/-- The node of a tag. -/
theorem tagNode_mkTag (hp : pp < 4) : tagNode (mkTag pp frame gen node port kind m) = node % 32 := by
  show (mkTag pp frame gen node port kind m).toNat / 2 ^ 22 % 2 ^ 5 = _
  rw [toNat_mkTag _ _ _ _ _ _ _ hp]; have := m.isLt; omega

/-- The port of a tag. -/
theorem tagPort_mkTag (hp : pp < 4) : tagPort (mkTag pp frame gen node port kind m) = port % 4 := by
  show (mkTag pp frame gen node port kind m).toNat / 2 ^ 20 % 2 ^ 2 = _
  rw [toNat_mkTag _ _ _ _ _ _ _ hp]; have := m.isLt; omega

/-- The kind of a tag. -/
theorem tagKind_mkTag (hp : pp < 4) : tagKind (mkTag pp frame gen node port kind m) = kind % 16 := by
  show (mkTag pp frame gen node port kind m).toNat / 2 ^ 16 % 2 ^ 4 = _
  rw [toNat_mkTag _ _ _ _ _ _ _ hp]; have := m.isLt; omega

/-- The physical plane of a tag. -/
theorem tagPlane_mkTag (hp : pp < 4) : (mkTag pp frame gen node port kind m).toNat / 2 ^ 40 = pp := by
  rw [toNat_mkTag _ _ _ _ _ _ _ hp]; have := m.isLt; omega

/-- The mask of a tag. -/
theorem tagMask_bit (hp : pp < 4) (i : Nat) (hi : i < 16) : (mkTag pp frame gen node port kind m).getLsbD i = m.getLsbD i := by
  have hm := m.isLt
  rw [BitVec.getLsbD, BitVec.getLsbD, toNat_mkTag _ _ _ _ _ _ _ hp]
  have : ∀ X, (X * 2 ^ 16 + m.toNat).testBit i = m.toNat.testBit i := by
    intro X
    rw [Nat.mul_comm, Nat.testBit_two_pow_mul_add _ hm, if_pos hi]
  convert this (pp * 2 ^ 24 + frame % 1024 * 2 ^ 14 + gen % 8 * 2 ^ 11 + node % 32 * 2 ^ 6 + port % 4 * 2 ^ 4 + kind % 16) using 2
  ring

end

/-- An operation over elements, one after the other: the rounding state goes from each live element to the next, and a dead element
gives zero (R58, R187). -/
theorem overElems_aux (b : Nat) (m : Mask) (r : Num.Rnd) (op : Nat → Num.Rnd → Nat × Num.Rnd) (k : Nat) :
    ∃ (R : Nat → Num.Rnd) (l : List Nat), (List.range k).foldl (fun (acc, r) j =>
      if elemLive m b j then let (x, r) := op j r; (acc ++ [x], r) else (acc ++ [0], r)) (([] : List Nat), r) = (l, R k) ∧ l.length = k ∧
    R 0 = r ∧ ∀ j < k, (elemLive m b j = true → l[j]? = some (op j (R j)).1 ∧ R (j + 1) = (op j (R j)).2) ∧
      (elemLive m b j = false → l[j]? = some 0 ∧ R (j + 1) = R j) := by
  induction k with
  | zero => exact ⟨fun _ => r, [], rfl, rfl, rfl, by simp⟩
  | succ k ih =>
    obtain ⟨R, l, h1, h2, h3, h4⟩ := ih
    rw [List.range_succ, List.foldl_append, h1]
    simp only [List.foldl_cons, List.foldl_nil]
    by_cases hl : elemLive m b k = true
    · refine ⟨fun j => if j = k + 1 then (op k (R k)).2 else R j, l ++ [(op k (R k)).1], ?_, by simp [h2], by simpa using h3, ?_⟩
      · rw [if_pos hl]; simp
      · intro j hj
        rcases Nat.lt_succ_iff_lt_or_eq.1 hj with h | h
        · have := h4 j h
          have e1 : ¬ j = k + 1 := by omega
          have e2 : ¬ j = k := by omega
          simp only [e1, e2, if_false, Nat.add_right_cancel_iff]
          rwa [List.getElem?_append_left (by omega)]
        · subst h
          have e1 : ¬ j = j + 1 := by omega
          simp only [e1, if_false, if_true]
          have : (l ++ [(op j (R j)).1])[j]? = some (op j (R j)).1 := by
            conv_lhs => rw [← h2]
            simp [h2]
          refine ⟨fun _ => ⟨this, trivial⟩, fun h => ?_⟩
          rw [hl] at h; cases h
    · refine ⟨fun j => if j = k + 1 then R k else R j, l ++ [0], ?_, by simp [h2], by simpa using h3, ?_⟩
      · rw [if_neg hl]; simp
      · intro j hj
        rcases Nat.lt_succ_iff_lt_or_eq.1 hj with h | h
        · have := h4 j h
          have e1 : ¬ j = k + 1 := by omega
          have e2 : ¬ j = k := by omega
          simp only [e1, e2, if_false, Nat.add_right_cancel_iff]
          rwa [List.getElem?_append_left (by omega)]
        · subst h
          have e1 : ¬ j = j + 1 := by omega
          simp only [e1, if_false, if_true]
          refine ⟨fun h => absurd h hl, fun _ => ?_⟩
          have : (l ++ [0])[j]? = some 0 := by
            conv_lhs => rw [← h2]
            simp [h2]
          exact ⟨this, trivial⟩

/-- Every element type has a width that divides a lane vector. -/
theorem width_cases (k : BitVec 4) : NodeCheck.width k.toNat ∈ [2, 4, 8, 16, 32, 64] := by
  have : ∀ k < 16, NodeCheck.width k ∈ [2, 4, 8, 16, 32, 64] := by decide
  exact this _ k.isLt

end Sys2Proof.Machine
end

