-- ==== Sys2Proof/Laws/Memory.lean ====
section
/-! SUPPORT. Physical memory: what reading gives after a write, what a write leaves alone, and the canonical form. -/

namespace Sys2Proof.Machine

set_option Elab.async false

open Sys2Proof

/-- What a byte reads as depends on memory, on the keys of lines and on the key slots alone. -/
theorem State.byteAt_congr {s t : State} (hm : t.mem = s.mem) (hl : t.lineKey = s.lineKey) (hk : t.keys = s.keys) (slot a : Nat) :
    t.byteAt slot a = s.byteAt slot a := by
  unfold State.byteAt State.line State.key; rw [hm, hl, hk]

/-- A line read under another key than its own, byte by byte. -/
def recrypted (s : State) (ln : Nat) (k0 k : BitVec 512) (m : List Host.Cell) : List Host.Cell :=
  (List.range 64).foldl (fun m i => Memory.write m (64 * ln + i) (Cipher.recrypt k0 k ln (s.line ln) i)) m

/-- What taking a line over does: nothing, a key for a line that had none, or the line under its new key. -/
theorem State.ownLine_cases (s : State) (slot pa : Nat) :
    (s.ownLine slot pa = s ∧ ((∀ k, Machine.target pa ≠ .hbm k) ∨ s.lineKey.find (pa / 64) = some (s.key slot))) ∨
    ((∃ k, Machine.target pa = .hbm k) ∧ s.lineKey.find (pa / 64) = none ∧
      s.ownLine slot pa = { s with lineKey := s.lineKey.put (pa / 64) (s.key slot) }) ∨
    ((∃ k, Machine.target pa = .hbm k) ∧ ∃ k0, s.lineKey.find (pa / 64) = some k0 ∧ k0 ≠ s.key slot ∧
      s.ownLine slot pa = { s with mem := recrypted s (pa / 64) k0 (s.key slot) s.mem, lineKey := s.lineKey.put (pa / 64) (s.key slot) }) := by
  unfold State.ownLine recrypted
  generalize Machine.target pa = tg
  cases tg with
  | hbm k =>
    dsimp only
    cases hf : s.lineKey.find (pa / 64) with
    | none => exact Or.inr (Or.inl ⟨⟨k, rfl⟩, rfl, rfl⟩)
    | some k0 =>
      dsimp only
      by_cases he : k0 = s.key slot
      · rw [if_pos he]; exact Or.inl ⟨rfl, Or.inr (by rw [he])⟩
      · rw [if_neg he]; exact Or.inr (Or.inr ⟨⟨k, rfl⟩, k0, rfl, he, rfl⟩)
  | _ => exact Or.inl ⟨rfl, Or.inl (fun k h => by simp at h)⟩

/-- Taking a line over changes memory and line keys only. -/
theorem State.ownLine_eq (s : State) (slot pa : Nat) : ∃ m l, s.ownLine slot pa = { s with mem := m, lineKey := l } := by
  rcases s.ownLine_cases slot pa with ⟨h, -⟩ | ⟨-, -, h⟩ | ⟨-, k0, -, -, h⟩
  · exact ⟨s.mem, s.lineKey, h⟩
  · exact ⟨s.mem, _, h⟩
  · exact ⟨_, _, h⟩

theorem Memory.read_foldl_write (f : Nat → Nat) (g : Nat → Byte) (n : Nat) (hf : ∀ i < n, ∀ j < n, f i = f j → i = j)
    (m : List Host.Cell) (hm : Memory.wf m = true) (a : Nat) :
    Memory.read ((List.range n).foldl (fun m i => Memory.write m (f i) (g i)) m) a =
      (match (List.range n).find? (fun i => f i = a) with | some i => g i | none => Memory.read m a) := by
  induction n with
  | zero => simp
  | succ n ih =>
    have hw : Memory.wf ((List.range n).foldl (fun m i => Memory.write m (f i) (g i)) m) = true := Memory.wf_foldl _ _ f g hm
    rw [List.range_succ, List.foldl_append, List.foldl_cons, List.foldl_nil, Memory.read_write hw,
      ih (fun i hi j hj => hf i (by omega) j (by omega)), List.find?_append]
    by_cases h : a = f n
    · have : (List.range n).find? (fun i => decide (f i = a)) = none := by
        rw [List.find?_eq_none]; intro x hx; simp only [decide_eq_true_eq]; intro e
        have hx' : x < n := List.mem_range.1 hx
        have := hf x (by omega) n (by omega) (by rw [e, h]); omega
      rw [this]; simp [h]
    · cases hc : (List.range n).find? (fun i => decide (f i = a)) with
      | some i => simp [h]
      | none => simp [h, Ne.symm h]

theorem State.ownLine_wf (s : State) (slot pa : Nat) (h : Memory.wf s.mem = true) : Memory.wf (s.ownLine slot pa).mem = true := by
  rcases s.ownLine_cases slot pa with ⟨e, -⟩ | ⟨-, -, e⟩ | ⟨-, k0, -, -, e⟩ <;> rw [e]
  · exact h
  · exact h
  · dsimp only
    unfold recrypted
    exact Memory.wf_foldl (List.range 64) s.mem (fun i => 64 * (pa / 64) + i) (fun i => Cipher.recrypt k0 (s.key slot) (pa / 64) (s.line (pa / 64)) i) h

/-- A read of a byte of a recrypted line. -/
theorem read_recrypted (s : State) (ln : Nat) (k0 k : BitVec 512) (h : Memory.wf s.mem = true) (a : Nat) :
    Memory.read (recrypted s ln k0 k s.mem) a =
      if a / 64 = ln then Cipher.recrypt k0 k ln (s.line ln) (a % 64) else Memory.read s.mem a := by
  unfold recrypted
  rw [Memory.read_foldl_write (fun i => 64 * ln + i) _ 64 (fun i _ j _ e => by omega) _ h]
  by_cases e : a / 64 = ln
  · have hd : 64 * ln + a % 64 = a := by omega
    cases hf : (List.range 64).find? (fun i => decide (64 * ln + i = a)) with
    | none =>
      rw [List.find?_eq_none] at hf
      exact absurd hd (by simpa using hf (a % 64) (by simp; omega))
    | some i =>
      have hi := List.find?_some hf
      simp only [decide_eq_true_eq] at hi
      have : i = a % 64 := by omega
      simp [e, this]
  · have hf : (List.range 64).find? (fun i => decide (64 * ln + i = a)) = none := by
      rw [List.find?_eq_none]; intro x hx; have := List.mem_range.1 hx; simp only [decide_eq_true_eq]; omega
    rw [hf]; simp [e]

/-- Whether a physical address is in the high-bandwidth memory depends on its line alone. -/
theorem target_hbm_line {a b : Nat} (h : a / 64 = b / 64) (k : Nat) : Machine.target a = .hbm k ↔ target b = .hbm k := by
  have key : ∀ x, (target x = .hbm k) ↔ (x < 2 ^ 39 ∧ x / 2 ^ 36 = k) := by
    intro x
    unfold target
    constructor
    · intro e
      split at e
      · rename_i hx; exact ⟨hx, by simpa using e⟩
      · repeat (first | (split at e) | simp at e)
    · rintro ⟨h1, h2⟩; rw [if_pos h1, h2]
  rw [key, key]
  constructor <;> rintro ⟨h1, h2⟩ <;> constructor <;> omega

/-- Taking a line over for a slot changes nothing that the slot reads. -/
theorem State.byteAt_ownLine (s : State) (slot pa : Nat) (h : Memory.wf s.mem = true) (a : Nat) :
    (s.ownLine slot pa).byteAt slot a = s.byteAt slot a := by
  rcases s.ownLine_cases slot pa with ⟨e, -⟩ | ⟨⟨k, hk⟩, hn, e⟩ | ⟨⟨k, hk⟩, k0, hn, hne, e⟩ <;> rw [e]
  · unfold State.byteAt State.key State.line
    dsimp only
    rw [Map.find_put]
    by_cases he : a / 64 = pa / 64
    · rw [if_pos he, he, hn]
      cases ht : Machine.target a <;> simp
    · rw [if_neg he]
  · obtain ⟨m, hm⟩ : ∃ m, recrypted s (pa / 64) k0 (s.key slot) s.mem = m := ⟨_, rfl⟩
    have hread : ∀ b, Memory.read m b = if b / 64 = pa / 64 then Cipher.recrypt k0 (s.key slot) (pa / 64) (s.line (pa / 64)) (b % 64) else Memory.read s.mem b := by
      intro b; rw [← hm]; exact read_recrypted _ _ _ _ h b
    rw [hm]
    clear hm
    unfold State.byteAt
    have hkey : State.key { s with mem := m, lineKey := s.lineKey.put (pa / 64) (s.key slot) } slot = s.key slot := rfl
    rw [hkey]
    dsimp only
    rw [Map.find_put]
    by_cases he : a / 64 = pa / 64
    · have hta : Machine.target a = .hbm k := (target_hbm_line he k).2 hk
      rw [if_pos he, he, hn, hta]
      dsimp only
      rw [if_pos rfl, if_neg hne, hread, if_pos he]
    · rw [if_neg he]
      have hl : State.line { s with mem := m, lineKey := s.lineKey.put (pa / 64) (s.key slot) } (a / 64) = s.line (a / 64) := by
        unfold State.line
        refine List.map_congr_left (fun i hi => ?_)
        have := List.mem_range.1 hi
        show Memory.read m _ = _
        rw [hread, if_neg (by omega)]
      rw [hl, hread, if_neg he]

/-- After a byte is written through a slot, the slot reads it back and every other byte as before. -/
theorem State.byteAt_setByte (s : State) (slot pa : Nat) (v : Byte) (h : Memory.wf s.mem = true) (a : Nat) :
    (s.setByte slot pa v).byteAt slot a = if a = pa then v else s.byteAt slot a := by
  rw [← s.byteAt_ownLine slot pa h a]
  have hw := s.ownLine_wf slot pa h
  have own : (∀ k, Machine.target pa ≠ .hbm k) ∨ (s.ownLine slot pa).lineKey.find (pa / 64) = some ((s.ownLine slot pa).key slot) := by
    rcases s.ownLine_cases slot pa with ⟨e, h⟩ | ⟨-, -, e⟩ | ⟨-, k0, -, -, e⟩ <;> rw [e]
    · exact h
    · right; simp [State.key]
    · right; simp [State.key]
  unfold State.setByte
  revert own hw
  generalize s.ownLine slot pa = r
  intro hw own
  dsimp only
  unfold State.byteAt State.key
  dsimp only
  by_cases he : a = pa
  · subst he
    rw [if_pos rfl]
    rcases own with ho | ho
    · cases ht : Machine.target a <;> first | exact absurd ht (ho _) | (dsimp only; rw [Memory.read_write hw, if_pos rfl])
    · rw [ho]
      cases ht : Machine.target a <;> simp [State.key, Memory.read_write hw]
  · rw [if_neg he]
    have hr : Memory.read (Memory.write r.mem pa v) a = Memory.read r.mem a := by rw [Memory.read_write hw, if_neg he]
    cases ht : Machine.target a with
    | hbm k =>
      cases hk : r.lineKey.find (a / 64) with
      | none => exact hr
      | some k0 =>
        dsimp only
        by_cases hkk : k0 = Map.get r.keys slot 0#512
        · rw [if_pos hkk, if_pos hkk, hr]
        · rw [if_neg hkk, if_neg hkk]
          have hline : a / 64 ≠ pa / 64 := by
            intro e
            rcases own with ho | ho
            · exact ho k ((target_hbm_line e k).1 ht)
            · rw [← e, hk] at ho; exact hkk (by simpa [State.key] using ho)
          congr 1
          unfold State.line
          refine List.map_congr_left (fun i hi => ?_)
          have := List.mem_range.1 hi
          rw [Memory.read_write hw, if_neg (by omega)]
    | _ => exact hr

theorem State.setByte_wf (s : State) (slot pa : Nat) (v : Byte) (h : Memory.wf s.mem = true) : Memory.wf (s.setByte slot pa v).mem = true :=
  Memory.wf_write (s.ownLine_wf slot pa h) _ _

theorem State.setBytes_wf (s : State) (slot pa : Nat) (v : List Byte) (h : Memory.wf s.mem = true) :
    Memory.wf (s.setBytes slot pa v).mem = true := by
  induction v generalizing s pa with
  | nil => exact h
  | cons x t ih => exact ih _ _ (s.setByte_wf slot pa x h)

/-- After bytes are written through a slot, the slot reads them back and every other byte as before. -/
theorem State.byteAt_setBytes (s : State) (slot pa : Nat) (v : List Byte) (h : Memory.wf s.mem = true) (a : Nat) :
    (s.setBytes slot pa v).byteAt slot a = if hb : pa ≤ a ∧ a < pa + v.length then v[a - pa]'(by omega) else s.byteAt slot a := by
  induction v generalizing s pa with
  | nil => simp [State.setBytes]
  | cons x t ih =>
    rw [State.setBytes, ih _ _ (s.setByte_wf slot pa x h), s.byteAt_setByte slot pa x h]
    by_cases h1 : a = pa
    · subst h1; simp
    · by_cases h2 : pa + 1 ≤ a ∧ a < pa + 1 + t.length
      · rw [dif_pos h2, dif_pos (by simp; omega)]
        have : a - pa = (a - (pa + 1)) + 1 := by omega
        simp [this]
      · rw [dif_neg h2, dif_neg (by simp; omega), if_neg h1]

/-- Writing bytes changes memory and line keys only. -/
theorem State.setBytes_eq (s : State) (slot pa : Nat) (v : List Byte) :
    ∃ m l, s.setBytes slot pa v = { s with mem := m, lineKey := l } := by
  induction v generalizing s pa with
  | nil => exact ⟨s.mem, s.lineKey, rfl⟩
  | cons x t ih =>
    obtain ⟨m1, l1, e1⟩ := s.ownLine_eq slot pa
    obtain ⟨m2, l2, e2⟩ := ih (s.setByte slot pa x) (pa + 1)
    refine ⟨m2, l2, ?_⟩
    rw [State.setBytes, e2]
    unfold State.setByte; rw [e1]

/-- What wakes after a write changes requests, events and the first bytes of messages only. -/
theorem State.watchHook_eq (s : State) (pa n : Nat) :
    ∃ a b c d, s.watchHook pa n = { s with reqs := a, landed := b, trig := c, arms := d } := ⟨_, _, _, _, rfl⟩

/-- The fields that the decoding of a cistern word may change besides memory. -/
structure Decoded (s t : State) : Prop where
  rest : ∃ m d us cs fl po re rc, t =
    { s with mem := m, draws := d, units := us, csrs := cs, flips := fl, poison := po, remap := re, remapCache := rc }
  unit : ∀ u, t.unit u = { s.unit u with tpend := (t.unit u).tpend }

theorem Decoded.refl (s : State) : Decoded s s := ⟨⟨_, _, _, _, _, _, _, _, rfl⟩, fun _ => rfl⟩

theorem Decoded.trans {s t r : State} (h : Decoded s t) (g : Decoded t r) : Decoded s r := by
  obtain ⟨⟨m, d, us, cs, fl, po, re, rc, rfl⟩, hu⟩ := h
  obtain ⟨⟨m', d', us', cs', fl', po', re', rc', rfl⟩, gu⟩ := g
  refine ⟨⟨m', d', us', cs', fl', po', re', rc', rfl⟩, fun u => ?_⟩
  rw [gu u, hu u]

theorem Decoded.foldl {α : Type} (f : State → α → State) (hf : ∀ s x, Decoded s (f s x)) (l : List α) (s : State) :
    Decoded s (l.foldl f s) := by
  induction l generalizing s with
  | nil => exact Decoded.refl s
  | cons x t ih => exact (hf s x).trans (ih _)

/-- An update of the fields that decoding may change. -/
theorem Decoded.of (s : State) (m d cs fl po re rc) :
    Decoded s { s with mem := m, draws := d, csrs := cs, flips := fl, poison := po, remap := re, remapCache := rc } :=
  ⟨⟨m, d, s.units, cs, fl, po, re, rc, rfl⟩, fun _ => rfl⟩

theorem Decoded.csr (s : State) (part n : Nat) (v : Word) : Decoded s (s.setCsr part n v) :=
  ⟨⟨s.mem, s.draws, s.units, _, s.flips, s.poison, s.remap, s.remapCache, rfl⟩, fun _ => rfl⟩

/-- Raising a pending bit changes no unit but in TPEND. -/
theorem Decoded.pend (s : State) (part b : Nat) : Decoded s (s.pend part b) := by
  refine Decoded.foldl _ (fun s i => ?_) _ s
  dsimp only
  split
  · refine ⟨⟨s.mem, s.draws, _, s.csrs, s.flips, s.poison, s.remap, s.remapCache, rfl⟩, fun u => ?_⟩
    rw [State.unit_setUnit]
    by_cases hu : u = 256 + i
    · rw [if_pos hu, hu]
    · rw [if_neg hu]
  · exact Decoded.refl s

theorem State.setBytes_edata (s : State) (slot pa : Nat) (v : List Byte) : (s.setBytes slot pa v).edata = s.edata := by
  obtain ⟨m, l, e⟩ := s.setBytes_eq slot pa v; rw [e]

theorem State.pend_units (s : State) (part b : Nat) : ∃ us, s.pend part b = { s with units := us } := by
  unfold State.pend
  generalize List.range 8 = l
  induction l generalizing s with
  | nil => exact ⟨s.units, rfl⟩
  | cons i t ih =>
    rw [List.foldl_cons]
    dsimp only
    split
    · obtain ⟨us, h⟩ := ih (s.setUnit (256 + i) { s.unit (256 + i) with tpend := (s.unit (256 + i)).tpend ||| (1#64 <<< b) })
      exact ⟨us, h⟩
    · exact ih s

@[simp] theorem State.pend_mem (s : State) (part b : Nat) : (s.pend part b).mem = s.mem := by
  obtain ⟨us, h⟩ := s.pend_units part b; rw [h]
@[simp] theorem State.pend_flips (s : State) (part b : Nat) : (s.pend part b).flips = s.flips := by
  obtain ⟨us, h⟩ := s.pend_units part b; rw [h]
@[simp] theorem State.celog_mem (s : State) (a b c d e : Nat) : (s.celog a b c d e).mem = s.mem := rfl
@[simp] theorem State.celog_flips (s : State) (a b c d e : Nat) : (s.celog a b c d e).flips = s.flips := rfl

/-- A decoded word leaves memory as it was, unless three or more bits of it are wrong; no word gains wrong bits. -/
structure DecodedWord (s t : State) (w : Nat) : Prop where
  decoded : Decoded s t
  wf : Memory.wf s.mem = true → Memory.wf t.mem = true
  mem : (s.flips.get w []).length < 3 → t.mem = s.mem
  flips : ∀ x, (t.flips.get x []).length ≤ (s.flips.get x []).length

theorem DecodedWord.of {s t : State} (w : Nat) (h : Decoded s t) (hm : t.mem = s.mem) (hf : t.flips = s.flips) : DecodedWord s t w :=
  ⟨h, fun g => by rw [hm]; exact g, fun _ => hm, fun x => by rw [hf]⟩

theorem DecodedWord.trans {s t r : State} {w : Nat} (h : DecodedWord s t w) (g : DecodedWord t r w) : DecodedWord s r w :=
  ⟨h.decoded.trans g.decoded, fun x => g.wf (h.wf x),
   fun x => (g.mem (lt_of_le_of_lt (h.flips w) x)).trans (h.mem x), fun x => le_trans (g.flips x) (h.flips x)⟩

theorem Map.get_del_le (m : Map (List Nat)) (i x : Nat) : ((Map.del m i).get x []).length ≤ (Map.get m x []).length := by
  unfold Map.get; rw [Map.find_del]; split <;> simp

theorem State.remapVote_spec (s : State) (col bank word w : Nat) : DecodedWord s (s.remapVote col bank word) w := by
  have plain : ∀ cs re rc, DecodedWord s { s with csrs := cs, remap := re, remapCache := rc } w := fun cs re rc =>
    DecodedWord.of _ (Decoded.of s s.mem s.draws cs s.flips s.poison re rc) rfl rfl
  unfold State.remapVote
  dsimp only
  split
  · exact plain _ _ _
  · split
    · exact plain _ _ _
    · split
      · split <;> exact plain _ _ _
      · exact (plain _ _ _).trans (DecodedWord.of _ (Decoded.pend _ _ _) (State.pend_mem _ _ _) (State.pend_flips _ _ _))

theorem State.poisonWord_spec (s : State) (col bank word w : Nat) : DecodedWord s (s.poisonWord col bank word w).1 w :=
  ⟨Decoded.of s s.mem s.draws _ _ _ s.remap s.remapCache, fun h => h, fun _ => rfl, fun x => Map.get_del_le _ _ _⟩

theorem State.secded_spec (s : State) (col bank word w : Nat) : DecodedWord s (s.secded col bank word w (s.flips.get w [])).1 w := by
  rcases hl : s.flips.get w [] with _ | ⟨a, _ | ⟨b, _ | ⟨c, l⟩⟩⟩
  · exact DecodedWord.of _ (Decoded.refl s) rfl rfl
  · exact ⟨Decoded.of s s.mem s.draws _ _ s.poison s.remap s.remapCache, fun h => h, fun _ => rfl, fun x => Map.get_del_le _ _ _⟩
  · exact s.poisonWord_spec col bank word w
  · unfold State.secded
    dsimp only
    have hmany : ¬(s.flips.get w []).length < 3 := by rw [hl]; simp
    split
    · exact ⟨Decoded.of s _ _ s.csrs _ s.poison s.remap s.remapCache, fun h => State.setBytes_wf { s with draws := s.draws + 1 } _ _ _ h,
        fun h => absurd h hmany, fun x => Map.get_del_le _ _ _⟩
    · split
      · exact ⟨Decoded.of s s.mem _ _ _ _ s.remap s.remapCache, fun h => h, fun h => absurd h hmany, fun x => Map.get_del_le _ _ _⟩
      · exact ⟨Decoded.of s _ _ _ _ s.poison s.remap s.remapCache,
          fun h => State.setBytes_wf (State.celog { s with draws := s.draws + 1 } 0 col bank word _) _ _ _ h,
          fun h => absurd h hmany, fun x => Map.get_del_le _ _ _⟩

theorem State.cisternDecode_spec (s : State) (pa : Nat) : DecodedWord s (s.cisternDecode pa).1 (pa / 8) := by
  unfold State.cisternDecode
  generalize Machine.target pa = tg
  cases tg with
  | cistern col =>
    dsimp only
    refine (s.remapVote_spec col (cisternPlace pa).2.1 (cisternPlace pa).2.2 (pa / 8)).trans ?_
    generalize s.remapVote col (cisternPlace pa).2.1 (cisternPlace pa).2.2 = r
    split
    · exact DecodedWord.of _ (Decoded.pend _ _ _) (State.pend_mem _ _ _) (State.pend_flips _ _ _)
    · split
      · exact DecodedWord.of _ (Decoded.refl _) rfl rfl
      · exact r.secded_spec _ _ _ _
  | _ => dsimp only; exact DecodedWord.of _ (Decoded.refl s) rfl rfl

/-- The words of an access decoded one after another. -/
structure DecodedWords (s t : State) (ws : List Nat) : Prop where
  decoded : Decoded s t
  wf : Memory.wf s.mem = true → Memory.wf t.mem = true
  mem : (∀ w ∈ ws, (s.flips.get w []).length < 3) → t.mem = s.mem
  flips : ∀ x, (t.flips.get x []).length ≤ (s.flips.get x []).length

/-- Where no word has three or more wrong bits, decoding leaves what a byte reads as. -/
theorem DecodedWords.byteAt {s t : State} {ws : List Nat} (g : DecodedWords s t ws)
    (hf : ∀ w ∈ ws, (s.flips.get w []).length < 3) (slot a : Nat) : t.byteAt slot a = s.byteAt slot a := by
  obtain ⟨m, d, us, cs, fl, po, re, rc, e⟩ := g.decoded.rest
  exact State.byteAt_congr (g.mem hf) (by rw [e]) (by rw [e]) slot a

/-- The votes on the remap entries of an access's words. -/
theorem State.votes_spec (col bank : Nat) (ws : List Nat) (s : State) :
    DecodedWords s (ws.foldl (fun s w => s.remapVote col bank (cisternPlace (8 * w)).2.2) s) ws := by
  induction ws generalizing s with
  | nil => exact ⟨Decoded.refl s, fun h => h, fun _ => rfl, fun _ => le_refl _⟩
  | cons w t ih =>
    have h := s.remapVote_spec col bank (cisternPlace (8 * w)).2.2 w
    have g := ih (s.remapVote col bank (cisternPlace (8 * w)).2.2)
    exact ⟨h.decoded.trans g.decoded, fun x => g.wf (h.wf x),
      fun x => (g.mem (fun y hy => lt_of_le_of_lt (h.flips y) (x y (List.mem_cons_of_mem _ hy)))).trans (h.mem (x w (by simp))),
      fun x => le_trans (g.flips x) (h.flips x)⟩

theorem State.decodeWords_spec (ws : List Nat) (s : State) : DecodedWords s (s.decodeWords ws).1 ws := by
  induction ws generalizing s with
  | nil => exact ⟨Decoded.refl s, fun h => h, fun _ => rfl, fun _ => le_refl _⟩
  | cons w t ih =>
    have h := s.cisternDecode_spec (8 * w)
    rw [show 8 * w / 8 = w by omega] at h
    have g := ih (s.cisternDecode (8 * w)).1
    unfold State.decodeWords
    dsimp only
    exact ⟨h.decoded.trans g.decoded, fun x => g.wf (h.wf x),
      fun x => (g.mem (fun y hy => lt_of_le_of_lt (h.flips y) (x y (List.mem_cons_of_mem _ hy)))).trans (h.mem (x w (by simp))),
      fun x => le_trans (g.flips x) (h.flips x)⟩

/-- A read at the home node changes memory only by decoding words with three or more wrong bits. -/
theorem State.physRead_spec (s : State) (slot pa n : Nat) : DecodedWords s (s.physRead slot pa n).1 (wordsOf pa n) := by
  have same : DecodedWords s s (wordsOf pa n) := ⟨Decoded.refl s, fun h => h, fun _ => rfl, fun _ => le_refl _⟩
  unfold State.physRead
  generalize Machine.target pa = tg
  cases tg with
  | cistern col =>
    dsimp only
    have h := State.decodeWords_spec (wordsOf pa n) s
    revert h
    generalize s.decodeWords (wordsOf pa n) = r
    obtain ⟨r, c⟩ := r
    intro h
    cases c <;> exact h
  | remote m => dsimp only; split <;> exact same
  | _ => exact same

/-- What a write at the home node changes. -/
structure Written (s t : State) : Prop where
  rest : ∃ m l d us cs fl po re rc rq la tr ar, t =
    { s with mem := m, lineKey := l, draws := d, units := us, csrs := cs, flips := fl, poison := po, remap := re, remapCache := rc,
             reqs := rq, landed := la, trig := tr, arms := ar }
  unit : ∀ u, t.unit u = { s.unit u with tpend := (t.unit u).tpend }

theorem Written.trans {s t r : State} (h : Written s t) (g : Written t r) : Written s r := by
  obtain ⟨⟨m, l, d, us, cs, fl, po, re, rc, rq, la, tr, ar, rfl⟩, hu⟩ := h
  obtain ⟨⟨m', l', d', us', cs', fl', po', re', rc', rq', la', tr', ar', rfl⟩, gu⟩ := g
  refine ⟨⟨m', l', d', us', cs', fl', po', re', rc', rq', la', tr', ar', rfl⟩, fun u => ?_⟩
  rw [gu u, hu u]

theorem Written.refl (s : State) : Written s s := ⟨⟨_, _, _, _, _, _, _, _, _, _, _, _, _, rfl⟩, fun _ => rfl⟩

theorem Decoded.written {s t : State} (h : Decoded s t) : Written s t := by
  obtain ⟨⟨m, d, us, cs, fl, po, re, rc, rfl⟩, hu⟩ := h
  exact ⟨⟨m, s.lineKey, d, us, cs, fl, po, re, rc, s.reqs, s.landed, s.trig, s.arms, rfl⟩, hu⟩

theorem Written.setBytes (s : State) (slot pa : Nat) (v : List Byte) : Written s (s.setBytes slot pa v) := by
  obtain ⟨m, l, e⟩ := s.setBytes_eq slot pa v
  rw [e]
  exact ⟨⟨m, l, s.draws, s.units, s.csrs, s.flips, s.poison, s.remap, s.remapCache, s.reqs, s.landed, s.trig, s.arms, rfl⟩, fun _ => rfl⟩

theorem Written.cleared (s : State) (po : List Nat) (fl : Map (List Nat)) : Written s { s with poison := po, flips := fl } :=
  ⟨⟨s.mem, s.lineKey, s.draws, s.units, s.csrs, fl, po, s.remap, s.remapCache, s.reqs, s.landed, s.trig, s.arms, rfl⟩, fun _ => rfl⟩

theorem Written.watchHook (s : State) (pa n : Nat) : Written s (s.watchHook pa n) :=
  ⟨⟨s.mem, s.lineKey, s.draws, s.units, s.csrs, s.flips, s.poison, s.remap, s.remapCache, _, _, _, _, rfl⟩, fun _ => rfl⟩

/-- Bytes written, with what that wakes: the slot reads them back, and every other byte as before. -/
theorem State.put_spec (s : State) (slot pa : Nat) (v : List Byte) :
    Written s ((s.setBytes slot pa v).watchHook pa v.length) ∧
    (Memory.wf s.mem = true → Memory.wf ((s.setBytes slot pa v).watchHook pa v.length).mem = true) ∧
    (Memory.wf s.mem = true → ∀ a, ((s.setBytes slot pa v).watchHook pa v.length).byteAt slot a =
      if hb : pa ≤ a ∧ a < pa + v.length then v[a - pa]'(by omega) else s.byteAt slot a) :=
  ⟨(Written.setBytes s slot pa v).trans (Written.watchHook _ _ _), fun h => s.setBytes_wf slot pa v h,
    fun h a => s.byteAt_setBytes slot pa v h a⟩

/-- A write at the home node that succeeds. -/
theorem State.physWrite_spec {s t : State} {slot pa : Nat} {v : List Byte} (h : s.physWrite slot pa v = (t, .ok ())) :
    Written s t ∧ (Memory.wf s.mem = true → Memory.wf t.mem = true) ∧
    (Memory.wf s.mem = true → (∀ w ∈ wordsOf pa v.length, (s.flips.get w []).length < 3) → ∀ a, t.byteAt slot a =
      if hb : pa ≤ a ∧ a < pa + v.length then v[a - pa]'(by omega) else s.byteAt slot a) := by
  have plain : t = (s.setBytes slot pa v).watchHook pa v.length → _ := fun e => by
    subst e
    exact (⟨(s.put_spec slot pa v).1, (s.put_spec slot pa v).2.1, fun h _ => (s.put_spec slot pa v).2.2 h⟩ :
      Written s ((s.setBytes slot pa v).watchHook pa v.length) ∧
      (Memory.wf s.mem = true → Memory.wf ((s.setBytes slot pa v).watchHook pa v.length).mem = true) ∧
      (Memory.wf s.mem = true → (∀ w ∈ wordsOf pa v.length, (s.flips.get w []).length < 3) → ∀ a,
        ((s.setBytes slot pa v).watchHook pa v.length).byteAt slot a =
        if hb : pa ≤ a ∧ a < pa + v.length then v[a - pa]'(by omega) else s.byteAt slot a))
  unfold State.physWrite at h
  revert h
  generalize Machine.target pa = tg
  cases tg with
  | cistern col =>
    dsimp only
    have g0 := State.votes_spec col (cisternPlace pa).2.1 (wordsOf pa v.length) s
    revert g0
    generalize (wordsOf pa v.length).foldl (fun s w => s.remapVote col (cisternPlace pa).2.1 (cisternPlace (8 * w)).2.2) s = z
    intro g0 h
    have clean (x : (∀ w ∈ wordsOf pa v.length, (s.flips.get w []).length < 3)) :
        ∀ w ∈ wordsOf pa v.length, (z.flips.get w []).length < 3 := fun w hw => lt_of_le_of_lt (g0.flips w) (x w hw)
    split at h
    · simp at h
    · split at h
      · have e := (Prod.mk.inj h).1
        have p := State.put_spec { z with poison := z.poison.filter (fun w => !(wordsOf pa v.length).contains w), flips := z.flips.filter (fun f => !(wordsOf pa v.length).contains f.1) } slot pa v
        rw [e] at p
        refine ⟨g0.decoded.written.trans ((Written.cleared z _ _).trans p.1), fun hw => p.2.1 (g0.wf hw), fun hw hf a => ?_⟩
        have c : State.byteAt { z with poison := z.poison.filter (fun w => !(wordsOf pa v.length).contains w), flips := z.flips.filter (fun f => !(wordsOf pa v.length).contains f.1) } slot a = s.byteAt slot a :=
          (State.byteAt_congr rfl rfl rfl slot a).trans (g0.byteAt hf slot a)
        rw [← c]
        exact p.2.2 (g0.wf hw) a
      · have g := State.decodeWords_spec (wordsOf pa v.length) z
        revert g h
        generalize z.decodeWords (wordsOf pa v.length) = r
        obtain ⟨r, c⟩ := r
        intro h g
        cases c with
        | some e => simp at h
        | none =>
          have e := (Prod.mk.inj h).1
          have p := r.put_spec slot pa v
          rw [e] at p
          refine ⟨g0.decoded.written.trans (g.decoded.written.trans p.1), fun hw => p.2.1 (g.wf (g0.wf hw)), fun hw hf a => ?_⟩
          rw [p.2.2 (g.wf (g0.wf hw)) a, g.byteAt (clean hf), g0.byteAt hf]
  | remote m =>
    dsimp only
    intro h
    split at h
    · simp at h
    · have e := (Prod.mk.inj h).1.symm; rw [e] at plain ⊢; exact plain rfl
  | _ => intro h; dsimp only at h; have e := (Prod.mk.inj h).1.symm; rw [e] at plain ⊢; exact plain rfl

/-! Numbers in memory. -/

theorem leBytes_mod (n v : Nat) : leBytes n (v % 2 ^ (8 * n)) = leBytes n v := by
  induction n generalizing v with
  | zero => rfl
  | succ n ih =>
    simp only [leBytes]
    have hp : 2 ^ (8 * (n + 1)) = 256 * 2 ^ (8 * n) := by rw [show 8 * (n + 1) = 8 + 8 * n by ring, Nat.pow_add]
    have e1 : v % 2 ^ (8 * (n + 1)) / 256 = v / 256 % 2 ^ (8 * n) := by rw [hp, Nat.mod_mul_right_div_self]
    rw [e1, ih]
    congr 1
    apply BitVec.eq_of_toNat_eq
    rw [BitVec.toNat_ofNat, BitVec.toNat_ofNat, hp, show (2 : Nat) ^ 8 = 256 by norm_num, Nat.mod_mul_right_mod]

theorem length_leBytes (n v : Nat) : (leBytes n v).length = n := by
  induction n generalizing v with
  | zero => rfl
  | succ n ih => rw [leBytes, List.length_cons, ih]

theorem leNat_lt (b : List Byte) : leNat b < 2 ^ (8 * b.length) := by
  induction b with
  | nil => simp [leNat]
  | cons x t ih =>
    have := x.isLt
    have hp : 2 ^ (8 * (t.length + 1)) = 256 * 2 ^ (8 * t.length) := by rw [show 8 * (t.length + 1) = 8 + 8 * t.length by ring, Nat.pow_add]
    rw [leNat, List.length_cons, hp]
    omega

/-- A read that succeeds gives as many bytes as it asks for. -/
theorem State.physRead_length {s t : State} {slot pa n : Nat} {b : List Byte} (h : s.physRead slot pa n = (t, .ok b)) :
    b.length = n := by
  unfold State.physRead at h
  have key : ∀ r : State, (r.bytesAt slot pa n).length = n := fun r => by unfold State.bytesAt; rw [List.length_map, List.length_range]
  have fin : ∀ (r : State) (x : State × Except Nat (List Byte)), x = (r, .ok (r.bytesAt slot pa n)) → x = (t, .ok b) → b.length = n := by
    intro r x h1 h2; rw [h1] at h2
    have := (Prod.mk.inj h2).2; rw [← Except.ok.inj this]; exact key r
  revert h
  generalize Machine.target pa = tg
  cases tg with
  | cistern col =>
    dsimp only
    generalize s.decodeWords (wordsOf pa n) = r
    obtain ⟨r, c⟩ := r
    cases c with
    | some e => intro h; cases h
    | none => intro h; exact fin r _ rfl h
  | remote m =>
    dsimp only; split
    · intro h; cases h
    · intro h; exact fin s _ rfl h
  | _ => intro h; exact fin s _ rfl h

/-- Setting the bits of a leaf changes memory and line keys only. -/
theorem State.markLeaf_eq (s : State) (ctx leaf ea : Nat) (wr : Bool) :
    ∃ m l, s.markLeaf ctx leaf ea wr = { s with mem := m, lineKey := l } := by
  unfold State.markLeaf
  dsimp only
  generalize (leaf ||| 2 ^ 8 ||| if wr = true then 2 ^ 9 else 0) = x
  split
  · exact ⟨s.mem, s.lineKey, rfl⟩
  · exact s.setBytes_eq _ _ _

/-- Translating changes memory, line keys and TLBs only. -/
theorem State.translate_eq (s : State) (tlb die ctx va : Nat) (wr fe priv : Bool) :
    ∃ m l tl, (s.translate tlb die ctx va wr fe priv).1 = { s with mem := m, lineKey := l, tlb := tl } := by
  have walk : ∃ m l tl, (s.translateWalk tlb die ctx va wr fe priv).1 = { s with mem := m, lineKey := l, tlb := tl } := by
    unfold State.translateWalk
    split
    · exact ⟨s.mem, s.lineKey, s.tlb, rfl⟩
    · rename_i leaf lvl ea slot _
      obtain ⟨m, l, e⟩ := s.markLeaf_eq ctx leaf ea wr
      dsimp only
      rw [e]
      exact ⟨m, l, _, rfl⟩
  unfold State.translate
  split
  · exact ⟨s.mem, s.lineKey, s.tlb, rfl⟩
  · split
    · exact walk
    · split
      · exact walk
      · split <;> exact ⟨s.mem, s.lineKey, s.tlb, rfl⟩

/-- Translating keeps memory in its canonical form. -/
theorem State.translate_wf (s : State) (tlb die ctx va : Nat) (wr fe priv : Bool) (h : Memory.wf s.mem = true) :
    Memory.wf (s.translate tlb die ctx va wr fe priv).1.mem = true := by
  have walk : Memory.wf (s.translateWalk tlb die ctx va wr fe priv).1.mem = true := by
    unfold State.translateWalk
    split
    · exact h
    · rename_i leaf lvl ea slot _
      show Memory.wf (s.markLeaf ctx leaf ea wr).mem = true
      unfold State.markLeaf
      dsimp only
      generalize (leaf ||| 2 ^ 8 ||| if wr = true then 2 ^ 9 else 0) = x
      split
      · exact h
      · exact s.setBytes_wf _ _ _ h
  unfold State.translate
  split
  · exact h
  · split
    · exact walk
    · split
      · exact walk
      · split <;> exact h

end Sys2Proof.Machine
end

