-- ==== Sys2Proof/Laws/PerInstr.lean ====
section
/-! SUPPORT. Families of facts that hold of every instruction, one lemma per constructor. -/

namespace Sys2Proof.Laws.Encoding

set_option Elab.async false

open Sys2Proof

/-- What the encoding of an instruction looks like (R129, R140): at most two words, none wider than a node word, and none at all for
exactly the machine's other steps. -/
def Statement (i : Instr) : Prop :=
  (encode i).length ≤ 2 ∧ (∀ w ∈ encode i, w < 2 ^ 128) ∧ (encode i = [] ↔ i.isEvent = true)

theorem of_none {i : Instr} (h : encode i = []) (he : i.isEvent = true) : Statement i := by
  refine ⟨by simp [h], by simp [h], by simp [h, he]⟩

theorem of_one {i : Instr} {w : Nat} (h : encode i = [w]) (hw : w < 2 ^ 128) (he : i.isEvent = false) : Statement i := by
  refine ⟨by simp [h], by simpa [h] using hw, by simp [h, he]⟩

theorem of_two {i : Instr} {w x : Nat} (h : encode i = [w, x]) (hw : w < 2 ^ 128) (hx : x < 2 ^ 128) (he : i.isEvent = false) : Statement i := by
  refine ⟨by simp [h], ?_, by simp [h, he]⟩
  intro y hy
  rw [h] at hy
  rcases List.mem_cons.1 hy with rfl | hy
  · exact hw
  · rw [List.mem_singleton] at hy; subst hy; exact hx

theorem fA_lt {op d a b fn : Nat} (h1 : op < 64) (h2 : d < 32) (h3 : a < 32) (h4 : b < 32) (h5 : fn < 2048) : Encode.fA op d a b fn < 2 ^ 128 := by
  unfold Encode.fA; omega

theorem fI_lt {op d a imm : Nat} (h1 : op < 64) (h2 : d < 32) (h3 : a < 32) (h4 : imm < 65536) : Encode.fI op d a imm < 2 ^ 128 := by
  unfold Encode.fI; omega

theorem node_lt {opc : Nat} (n : NodeBody) (h : opc < 256) : Encode.node opc n < 2 ^ 128 := by
  have h1 := n.fmt.isLt; have h2 := n.mod.isLt; have h3 := n.inp.isLt; have h4 := n.fire.isLt; have h5 := n.seq.isLt
  have h6 := n.operand.isLt; have h7 := n.dest0.isLt; have h8 := n.dest1.isLt
  unfold Encode.node; omega

theorem of_node {i : Instr} {opc : Nat} {n : NodeBody} (h : encode i = [Encode.node opc n]) (ho : opc < 256) (he : i.isEvent = false) : Statement i :=
  of_one h (node_lt n ho) he

/-- A register field, as a number. -/
theorem lt5 (d : BitVec 5) : d.toNat < 32 := d.isLt
theorem lt3 (d : BitVec 3) : d.toNat < 32 := by have := d.isLt; omega
theorem lt2 (d : BitVec 2) : d.toNat < 32 := by have := d.isLt; omega
theorem lt16 (d : BitVec 16) : d.toNat < 65536 := d.isLt
theorem lt32 (d : BitVec 32) : d.toNat < 2 ^ 128 := by have := d.isLt; omega

theorem sAdd (d : BitVec 5) (a : BitVec 5) (b : BitVec 5) : Statement (.sAdd d a b) := of_one rfl (fA_lt (by decide) (lt5 d) (lt5 a) (lt5 b) (by decide)) rfl
theorem sSub (d : BitVec 5) (a : BitVec 5) (b : BitVec 5) : Statement (.sSub d a b) := of_one rfl (fA_lt (by decide) (lt5 d) (lt5 a) (lt5 b) (by decide)) rfl
theorem sMul (d : BitVec 5) (a : BitVec 5) (b : BitVec 5) : Statement (.sMul d a b) := of_one rfl (fA_lt (by decide) (lt5 d) (lt5 a) (lt5 b) (by decide)) rfl
theorem sMulh (d : BitVec 5) (a : BitVec 5) (b : BitVec 5) : Statement (.sMulh d a b) := of_one rfl (fA_lt (by decide) (lt5 d) (lt5 a) (lt5 b) (by decide)) rfl
theorem sMulhn (d : BitVec 5) (a : BitVec 5) (b : BitVec 5) : Statement (.sMulhn d a b) := of_one rfl (fA_lt (by decide) (lt5 d) (lt5 a) (lt5 b) (by decide)) rfl
theorem sDiv (d : BitVec 5) (a : BitVec 5) (b : BitVec 5) : Statement (.sDiv d a b) := of_one rfl (fA_lt (by decide) (lt5 d) (lt5 a) (lt5 b) (by decide)) rfl
theorem sDivn (d : BitVec 5) (a : BitVec 5) (b : BitVec 5) : Statement (.sDivn d a b) := of_one rfl (fA_lt (by decide) (lt5 d) (lt5 a) (lt5 b) (by decide)) rfl
theorem sRem (d : BitVec 5) (a : BitVec 5) (b : BitVec 5) : Statement (.sRem d a b) := of_one rfl (fA_lt (by decide) (lt5 d) (lt5 a) (lt5 b) (by decide)) rfl
theorem sRemn (d : BitVec 5) (a : BitVec 5) (b : BitVec 5) : Statement (.sRemn d a b) := of_one rfl (fA_lt (by decide) (lt5 d) (lt5 a) (lt5 b) (by decide)) rfl
theorem sAnd (d : BitVec 5) (a : BitVec 5) (b : BitVec 5) : Statement (.sAnd d a b) := of_one rfl (fA_lt (by decide) (lt5 d) (lt5 a) (lt5 b) (by decide)) rfl
theorem sOr (d : BitVec 5) (a : BitVec 5) (b : BitVec 5) : Statement (.sOr d a b) := of_one rfl (fA_lt (by decide) (lt5 d) (lt5 a) (lt5 b) (by decide)) rfl
theorem sXor (d : BitVec 5) (a : BitVec 5) (b : BitVec 5) : Statement (.sXor d a b) := of_one rfl (fA_lt (by decide) (lt5 d) (lt5 a) (lt5 b) (by decide)) rfl
theorem sAndn (d : BitVec 5) (a : BitVec 5) (b : BitVec 5) : Statement (.sAndn d a b) := of_one rfl (fA_lt (by decide) (lt5 d) (lt5 a) (lt5 b) (by decide)) rfl
theorem sShl (d : BitVec 5) (a : BitVec 5) (b : BitVec 5) : Statement (.sShl d a b) := of_one rfl (fA_lt (by decide) (lt5 d) (lt5 a) (lt5 b) (by decide)) rfl
theorem sShr (d : BitVec 5) (a : BitVec 5) (b : BitVec 5) : Statement (.sShr d a b) := of_one rfl (fA_lt (by decide) (lt5 d) (lt5 a) (lt5 b) (by decide)) rfl
theorem sSar (d : BitVec 5) (a : BitVec 5) (b : BitVec 5) : Statement (.sSar d a b) := of_one rfl (fA_lt (by decide) (lt5 d) (lt5 a) (lt5 b) (by decide)) rfl
theorem sMin (d : BitVec 5) (a : BitVec 5) (b : BitVec 5) : Statement (.sMin d a b) := of_one rfl (fA_lt (by decide) (lt5 d) (lt5 a) (lt5 b) (by decide)) rfl
theorem sMax (d : BitVec 5) (a : BitVec 5) (b : BitVec 5) : Statement (.sMax d a b) := of_one rfl (fA_lt (by decide) (lt5 d) (lt5 a) (lt5 b) (by decide)) rfl
theorem sMinn (d : BitVec 5) (a : BitVec 5) (b : BitVec 5) : Statement (.sMinn d a b) := of_one rfl (fA_lt (by decide) (lt5 d) (lt5 a) (lt5 b) (by decide)) rfl
theorem sMaxn (d : BitVec 5) (a : BitVec 5) (b : BitVec 5) : Statement (.sMaxn d a b) := of_one rfl (fA_lt (by decide) (lt5 d) (lt5 a) (lt5 b) (by decide)) rfl
theorem sSel (d : BitVec 5) (a : BitVec 5) (b : BitVec 5) (c : BitVec 3) : Statement (.sSel d a b c) := of_one rfl (fA_lt (by decide) (lt5 d) (lt5 a) (lt5 b) (by have := c.isLt; omega)) rfl
theorem sClz (d : BitVec 5) (a : BitVec 5) : Statement (.sClz d a) := of_one rfl (fA_lt (by decide) (lt5 d) (lt5 a) (by decide) (by decide)) rfl
theorem sPopc (d : BitVec 5) (a : BitVec 5) : Statement (.sPopc d a) := of_one rfl (fA_lt (by decide) (lt5 d) (lt5 a) (by decide) (by decide)) rfl
theorem sCmp (p : BitVec 3) (a : BitVec 5) (b : BitVec 5) (c : BitVec 3) : Statement (.sCmp p a b c) := of_one rfl (fA_lt (by decide) (lt3 p) (lt5 a) (lt5 b) (by have := c.isLt; omega)) rfl
theorem sAddi (d : BitVec 5) (a : BitVec 5) (i : BitVec 16) : Statement (.sAddi d a i) := of_one rfl (fI_lt (by decide) (lt5 d) (lt5 a) (lt16 i)) rfl
theorem sAndi (d : BitVec 5) (a : BitVec 5) (i : BitVec 16) : Statement (.sAndi d a i) := of_one rfl (fI_lt (by decide) (lt5 d) (lt5 a) (lt16 i)) rfl
theorem sOri (d : BitVec 5) (a : BitVec 5) (i : BitVec 16) : Statement (.sOri d a i) := of_one rfl (fI_lt (by decide) (lt5 d) (lt5 a) (lt16 i)) rfl
theorem sXori (d : BitVec 5) (a : BitVec 5) (i : BitVec 16) : Statement (.sXori d a i) := of_one rfl (fI_lt (by decide) (lt5 d) (lt5 a) (lt16 i)) rfl
theorem sShli (d : BitVec 5) (a : BitVec 5) (s : BitVec 6) : Statement (.sShli d a s) := of_one rfl (fI_lt (by decide) (lt5 d) (lt5 a) (by have := s.isLt; omega)) rfl
theorem sShri (d : BitVec 5) (a : BitVec 5) (s : BitVec 6) : Statement (.sShri d a s) := of_one rfl (fI_lt (by decide) (lt5 d) (lt5 a) (by have := s.isLt; omega)) rfl
theorem sSari (d : BitVec 5) (a : BitVec 5) (s : BitVec 6) : Statement (.sSari d a s) := of_one rfl (fI_lt (by decide) (lt5 d) (lt5 a) (by have := s.isLt; omega)) rfl
theorem sLdi (d : BitVec 5) (i : BitVec 16) : Statement (.sLdi d i) := of_one rfl (fI_lt (by decide) (lt5 d) (by decide) (lt16 i)) rfl
theorem sLdhi (d : BitVec 5) (h : BitVec 2) (i : BitVec 16) : Statement (.sLdhi d h i) := of_one rfl (fI_lt (by decide) (lt5 d) (lt2 h) (lt16 i)) rfl
theorem sCmpiCcLow (c : BitVec 2) (p : BitVec 3) (a : BitVec 5) (i : BitVec 16) : Statement (.sCmpiCcLow c p a i) := of_one rfl (fI_lt (by decide) (by have := c.isLt; have := p.isLt; omega) (lt5 a) (lt16 i)) rfl
theorem sCmpiCcHigh (c : BitVec 2) (p : BitVec 3) (a : BitVec 5) (i : BitVec 16) : Statement (.sCmpiCcHigh c p a i) := of_one rfl (fI_lt (by decide) (by have := c.isLt; have := p.isLt; omega) (lt5 a) (lt16 i)) rfl
theorem sLdiX (d : BitVec 5) (i : BitVec 32) : Statement (.sLdiX d i) := of_two rfl (fI_lt (by decide) (lt5 d) (by decide) (by decide)) (lt32 i) rfl
theorem sAddiX (d : BitVec 5) (a : BitVec 5) (i : BitVec 32) : Statement (.sAddiX d a i) := of_two rfl (fI_lt (by decide) (lt5 d) (lt5 a) (by decide)) (lt32 i) rfl
theorem sAndiX (d : BitVec 5) (a : BitVec 5) (i : BitVec 32) : Statement (.sAndiX d a i) := of_two rfl (fI_lt (by decide) (lt5 d) (lt5 a) (by decide)) (lt32 i) rfl
theorem sOriX (d : BitVec 5) (a : BitVec 5) (i : BitVec 32) : Statement (.sOriX d a i) := of_two rfl (fI_lt (by decide) (lt5 d) (lt5 a) (by decide)) (lt32 i) rfl
theorem sXoriX (d : BitVec 5) (a : BitVec 5) (i : BitVec 32) : Statement (.sXoriX d a i) := of_two rfl (fI_lt (by decide) (lt5 d) (lt5 a) (by decide)) (lt32 i) rfl
theorem sCmpiX (p : BitVec 3) (c : BitVec 3) (a : BitVec 5) (i : BitVec 32) : Statement (.sCmpiX p c a i) := of_two rfl (fI_lt (by decide) (lt3 p) (lt5 a) (by have := c.isLt; omega)) (lt32 i) rfl
theorem sLd (d : BitVec 5) (a : BitVec 5) (s : BitVec 2) (o : BitVec 14) : Statement (.sLd d a s o) := of_one rfl (fI_lt (by decide) (lt5 d) (lt5 a) (by have := s.isLt; have := o.isLt; omega)) rfl
theorem sLdN (d : BitVec 5) (a : BitVec 5) (s : BitVec 2) (o : BitVec 14) : Statement (.sLdN d a s o) := of_one rfl (fI_lt (by decide) (lt5 d) (lt5 a) (by have := s.isLt; have := o.isLt; omega)) rfl
theorem sSt (d : BitVec 5) (a : BitVec 5) (s : BitVec 2) (o : BitVec 14) : Statement (.sSt d a s o) := of_one rfl (fI_lt (by decide) (lt5 d) (lt5 a) (by have := s.isLt; have := o.isLt; omega)) rfl
theorem sLdacq (d : BitVec 5) (a : BitVec 5) (z : BitVec 2) (c : BitVec 4) : Statement (.sLdacq d a z c) := of_one rfl (fA_lt (by decide) (lt5 d) (lt5 a) (by decide) (by have := z.isLt; have := c.isLt; omega)) rfl
theorem sStrel (d : BitVec 5) (a : BitVec 5) (z : BitVec 2) (c : BitVec 4) : Statement (.sStrel d a z c) := of_one rfl (fA_lt (by decide) (lt5 d) (lt5 a) (by decide) (by have := z.isLt; have := c.isLt; omega)) rfl
theorem sAmo (d : BitVec 5) (a : BitVec 5) (b : BitVec 5) (o : BitVec 4) (z : BitVec 1) (c : BitVec 4) : Statement (.sAmo d a b o z c) := of_one rfl (fA_lt (by decide) (lt5 d) (lt5 a) (lt5 b) (by have := o.isLt; have := z.isLt; have := c.isLt; omega)) rfl
theorem sFence (c : BitVec 4) : Statement (.sFence c) := of_one rfl (fA_lt (by decide) (by decide) (by decide) (by decide) (by have := c.isLt; omega)) rfl
theorem sBr (p : BitVec 3) (s : BitVec 1) (o : BitVec 22) : Statement (.sBr p s o) := of_one rfl (by have := p.isLt; have := s.isLt; have := o.isLt; omega) rfl
theorem sJmp (o : BitVec 26) : Statement (.sJmp o) := of_one rfl (by have := o.isLt; omega) rfl
theorem sJmpi (a : BitVec 5) : Statement (.sJmpi a) := of_one rfl (fA_lt (by decide) (by decide) (lt5 a) (by decide) (by decide)) rfl
theorem sCall (o : BitVec 26) : Statement (.sCall o) := of_one rfl (by have := o.isLt; omega) rfl
theorem sCont (a : BitVec 5) : Statement (.sCont a) := of_one rfl (fA_lt (by decide) (by decide) (lt5 a) (by decide) (by decide)) rfl
theorem sEnq (a : BitVec 5) : Statement (.sEnq a) := of_one rfl (fA_lt (by decide) (by decide) (lt5 a) (by decide) (by decide)) rfl
theorem sJoin (a : BitVec 5) (b : BitVec 5) : Statement (.sJoin a b) := of_one rfl (fA_lt (by decide) (by decide) (lt5 a) (lt5 b) (by decide)) rfl
theorem sArmIter (a : BitVec 5) (k : BitVec 2) : Statement (.sArmIter a k) := of_one rfl (fA_lt (by decide) (by decide) (lt5 a) (by decide) (by have := k.isLt; omega)) rfl
theorem sArmTl (a : BitVec 5) (b : BitVec 5) : Statement (.sArmTl a b) := of_one rfl (fA_lt (by decide) (by decide) (lt5 a) (lt5 b) (by decide)) rfl
theorem sArmWatch (a : BitVec 5) (b : BitVec 5) : Statement (.sArmWatch a b) := of_one rfl (fA_lt (by decide) (by decide) (lt5 a) (lt5 b) (by decide)) rfl
theorem sArmConv (a : BitVec 5) (b : BitVec 5) (r : BitVec 3) : Statement (.sArmConv a b r) := of_one rfl (fA_lt (by decide) (by decide) (lt5 a) (lt5 b) (by have := r.isLt; omega)) rfl
theorem sSelf (d : BitVec 5) : Statement (.sSelf d) := of_one rfl (fA_lt (by decide) (lt5 d) (by decide) (by decide) (by decide)) rfl
theorem sCfgld (k : BitVec 2) (a : BitVec 5) : Statement (.sCfgld k a) := of_one rfl (fA_lt (by decide) (lt2 k) (lt5 a) (by decide) (by decide)) rfl
theorem sCfgldX (k : BitVec 2) (a : BitVec 5) (i : BitVec 32) : Statement (.sCfgldX k a i) := of_two rfl (fI_lt (by decide) (lt2 k) (lt5 a) (by decide)) (lt32 i) rfl
theorem sCfgact (k : BitVec 2) : Statement (.sCfgact k) := of_one rfl (fA_lt (by decide) (lt2 k) (by decide) (by decide) (by decide)) rfl
theorem sIter (k : BitVec 2) (a : BitVec 5) (b : BitVec 5) (n : BitVec 5) : Statement (.sIter k a b n) := of_one rfl (fA_lt (by decide) (lt2 k) (lt5 a) (lt5 b) (by have := n.isLt; omega)) rfl
theorem sSplice (k : BitVec 2) (p : BitVec 2) : Statement (.sSplice k p) := of_one rfl (fA_lt (by decide) (lt2 k) (by decide) (by decide) (by have := p.isLt; omega)) rfl
theorem sDrain (k : BitVec 2) : Statement (.sDrain k) := of_one rfl (fA_lt (by decide) (lt2 k) (by decide) (by decide) (by decide)) rfl
theorem sPrio (k : BitVec 2) (l : BitVec 3) : Statement (.sPrio k l) := of_one rfl (fA_lt (by decide) (lt2 k) (by decide) (by decide) (by have := l.isLt; omega)) rfl
theorem sTokin (k : BitVec 2) (a : BitVec 5) (n : BitVec 5) (p : BitVec 2) : Statement (.sTokin k a n p) := of_one rfl (fA_lt (by decide) (lt2 k) (lt5 a) (by decide) (by have := n.isLt; have := p.isLt; omega)) rfl
theorem sTokget (d : BitVec 5) (a : BitVec 5) (k : BitVec 2) : Statement (.sTokget d a k) := of_one rfl (fA_lt (by decide) (lt5 d) (lt5 a) (by decide) (by have := k.isLt; omega)) rfl
theorem sTidset (a : BitVec 5) (i : BitVec 8) : Statement (.sTidset a i) := of_one rfl (fA_lt (by decide) (by decide) (lt5 a) (by decide) (by have := i.isLt; omega)) rfl
theorem sTidget (a : BitVec 5) (i : BitVec 8) : Statement (.sTidget a i) := of_one rfl (fA_lt (by decide) (by decide) (lt5 a) (by decide) (by have := i.isLt; omega)) rfl
theorem sTlread (d : BitVec 5) (a : BitVec 5) : Statement (.sTlread d a) := of_one rfl (fA_lt (by decide) (lt5 d) (lt5 a) (by decide) (by decide)) rfl
theorem sCopys (d : BitVec 5) (a : BitVec 5) : Statement (.sCopys d a) := of_one rfl (fA_lt (by decide) (lt5 d) (lt5 a) (by decide) (by decide)) rfl
theorem sCvopen (d : BitVec 5) (a : BitVec 5) (s : BitVec 4) : Statement (.sCvopen d a s) := of_one rfl (fA_lt (by decide) (lt5 d) (lt5 a) (by decide) (by have := s.isLt; omega)) rfl
theorem sCvbind (a : BitVec 5) (b : BitVec 5) (r : BitVec 3) : Statement (.sCvbind a b r) := of_one rfl (fA_lt (by decide) (by decide) (lt5 a) (lt5 b) (by have := r.isLt; omega)) rfl
theorem sCvsend (d : BitVec 5) (a : BitVec 5) (b : BitVec 5) (r : BitVec 3) (k : BitVec 5) : Statement (.sCvsend d a b r k) := of_one rfl (fA_lt (by decide) (lt5 d) (lt5 a) (lt5 b) (by have := r.isLt; have := k.isLt; omega)) rfl
theorem sCvsendChoose (d : BitVec 5) (a : BitVec 5) (b : BitVec 5) (r : BitVec 3) (k : BitVec 5) : Statement (.sCvsendChoose d a b r k) := of_one rfl (fA_lt (by decide) (lt5 d) (lt5 a) (lt5 b) (by have := r.isLt; have := k.isLt; omega)) rfl
theorem sCvdeleg (a : BitVec 5) (b : BitVec 5) (r : BitVec 3) : Statement (.sCvdeleg a b r) := of_one rfl (fA_lt (by decide) (by decide) (lt5 a) (lt5 b) (by have := r.isLt; omega)) rfl
theorem sCvclose (d : BitVec 5) (a : BitVec 5) : Statement (.sCvclose d a) := of_one rfl (fA_lt (by decide) (lt5 d) (lt5 a) (by decide) (by decide)) rfl
theorem sCsrrd (d : BitVec 5) (i : BitVec 16) : Statement (.sCsrrd d i) := of_one rfl (fI_lt (by decide) (lt5 d) (by decide) (lt16 i)) rfl
theorem sCsrwr (d : BitVec 5) (i : BitVec 16) : Statement (.sCsrwr d i) := of_one rfl (fI_lt (by decide) (lt5 d) (by decide) (lt16 i)) rfl
theorem sSvc (n : BitVec 7) : Statement (.sSvc n) := of_one rfl (fA_lt (by decide) (by decide) (by decide) (by decide) (by have := n.isLt; omega)) rfl
theorem sTlbinv (a : BitVec 5) (b : BitVec 5) : Statement (.sTlbinv a b) := of_one rfl (fA_lt (by decide) (by decide) (lt5 a) (lt5 b) (by decide)) rfl
theorem sKeyld (a : BitVec 5) (b : BitVec 5) : Statement (.sKeyld a b) := of_one rfl (fA_lt (by decide) (by decide) (lt5 a) (lt5 b) (by decide)) rfl
theorem sSwapout (a : BitVec 5) : Statement (.sSwapout a) := of_one rfl (fA_lt (by decide) (by decide) (lt5 a) (by decide) (by decide)) rfl
theorem sSwapin (a : BitVec 5) : Statement (.sSwapin a) := of_one rfl (fA_lt (by decide) (by decide) (lt5 a) (by decide) (by decide)) rfl
theorem sParkres (a : BitVec 5) : Statement (.sParkres a) := of_one rfl (fA_lt (by decide) (by decide) (lt5 a) (by decide) (by decide)) rfl
theorem sParkkill (a : BitVec 5) : Statement (.sParkkill a) := of_one rfl (fA_lt (by decide) (by decide) (lt5 a) (by decide) (by decide)) rfl
theorem nIadd (n : NodeBody) : Statement (.nIadd n) := of_node rfl (by decide) rfl
theorem nIsub (n : NodeBody) : Statement (.nIsub n) := of_node rfl (by decide) rfl
theorem nImul (n : NodeBody) : Statement (.nImul n) := of_node rfl (by decide) rfl
theorem nImulh (n : NodeBody) : Statement (.nImulh n) := of_node rfl (by decide) rfl
theorem nImad (n : NodeBody) : Statement (.nImad n) := of_node rfl (by decide) rfl
theorem nIabs (n : NodeBody) : Statement (.nIabs n) := of_node rfl (by decide) rfl
theorem nIneg (n : NodeBody) : Statement (.nIneg n) := of_node rfl (by decide) rfl
theorem nImin (n : NodeBody) : Statement (.nImin n) := of_node rfl (by decide) rfl
theorem nImax (n : NodeBody) : Statement (.nImax n) := of_node rfl (by decide) rfl
theorem nAnd (n : NodeBody) : Statement (.nAnd n) := of_node rfl (by decide) rfl
theorem nOr (n : NodeBody) : Statement (.nOr n) := of_node rfl (by decide) rfl
theorem nXor (n : NodeBody) : Statement (.nXor n) := of_node rfl (by decide) rfl
theorem nNot (n : NodeBody) : Statement (.nNot n) := of_node rfl (by decide) rfl
theorem nShl (n : NodeBody) : Statement (.nShl n) := of_node rfl (by decide) rfl
theorem nShr (n : NodeBody) : Statement (.nShr n) := of_node rfl (by decide) rfl
theorem nSar (n : NodeBody) : Statement (.nSar n) := of_node rfl (by decide) rfl
theorem nRot (n : NodeBody) : Statement (.nRot n) := of_node rfl (by decide) rfl
theorem nPopc (n : NodeBody) : Statement (.nPopc n) := of_node rfl (by decide) rfl
theorem nClz (n : NodeBody) : Statement (.nClz n) := of_node rfl (by decide) rfl
theorem nBfx (n : NodeBody) : Statement (.nBfx n) := of_node rfl (by decide) rfl
theorem nBfi (n : NodeBody) : Statement (.nBfi n) := of_node rfl (by decide) rfl
theorem nSadd (n : NodeBody) : Statement (.nSadd n) := of_node rfl (by decide) rfl
theorem nSsub (n : NodeBody) : Statement (.nSsub n) := of_node rfl (by decide) rfl
theorem nFadd (n : NodeBody) : Statement (.nFadd n) := of_node rfl (by decide) rfl
theorem nFsub (n : NodeBody) : Statement (.nFsub n) := of_node rfl (by decide) rfl
theorem nFmul (n : NodeBody) : Statement (.nFmul n) := of_node rfl (by decide) rfl
theorem nFfma (n : NodeBody) : Statement (.nFfma n) := of_node rfl (by decide) rfl
theorem nFmin (n : NodeBody) : Statement (.nFmin n) := of_node rfl (by decide) rfl
theorem nFmax (n : NodeBody) : Statement (.nFmax n) := of_node rfl (by decide) rfl
theorem nFsgn (n : NodeBody) : Statement (.nFsgn n) := of_node rfl (by decide) rfl
theorem nFrcp (n : NodeBody) : Statement (.nFrcp n) := of_node rfl (by decide) rfl
theorem nFrsq (n : NodeBody) : Statement (.nFrsq n) := of_node rfl (by decide) rfl
theorem nFsqrt (n : NodeBody) : Statement (.nFsqrt n) := of_node rfl (by decide) rfl
theorem nFdiv (n : NodeBody) : Statement (.nFdiv n) := of_node rfl (by decide) rfl
theorem nFexp2 (n : NodeBody) : Statement (.nFexp2 n) := of_node rfl (by decide) rfl
theorem nFlog2 (n : NodeBody) : Statement (.nFlog2 n) := of_node rfl (by decide) rfl
theorem nCmp (n : NodeBody) : Statement (.nCmp n) := of_node rfl (by decide) rfl
theorem nSel (n : NodeBody) : Statement (.nSel n) := of_node rfl (by decide) rfl
theorem nMand (n : NodeBody) : Statement (.nMand n) := of_node rfl (by decide) rfl
theorem nMor (n : NodeBody) : Statement (.nMor n) := of_node rfl (by decide) rfl
theorem nMnot (n : NodeBody) : Statement (.nMnot n) := of_node rfl (by decide) rfl
theorem nAny (n : NodeBody) : Statement (.nAny n) := of_node rfl (by decide) rfl
theorem nAll (n : NodeBody) : Statement (.nAll n) := of_node rfl (by decide) rfl
theorem nLperm (n : NodeBody) : Statement (.nLperm n) := of_node rfl (by decide) rfl
theorem nLbcast (n : NodeBody) : Statement (.nLbcast n) := of_node rfl (by decide) rfl
theorem nLrot (n : NodeBody) : Statement (.nLrot n) := of_node rfl (by decide) rfl
theorem nLred (n : NodeBody) : Statement (.nLred n) := of_node rfl (by decide) rfl
theorem nLscan (n : NodeBody) : Statement (.nLscan n) := of_node rfl (by decide) rfl
theorem nCvt (n : NodeBody) : Statement (.nCvt n) := of_node rfl (by decide) rfl
theorem nPack (n : NodeBody) : Statement (.nPack n) := of_node rfl (by decide) rfl
theorem nUnpack (n : NodeBody) : Statement (.nUnpack n) := of_node rfl (by decide) rfl
theorem nLut (n : NodeBody) : Statement (.nLut n) := of_node rfl (by decide) rfl
theorem nBmax (n : NodeBody) : Statement (.nBmax n) := of_node rfl (by decide) rfl
theorem nDelay (n : NodeBody) : Statement (.nDelay n) := of_node rfl (by decide) rfl
theorem nBfly (n : NodeBody) : Statement (.nBfly n) := of_node rfl (by decide) rfl
theorem nQnt (n : NodeBody) : Statement (.nQnt n) := of_node rfl (by decide) rfl
theorem nDqnt (n : NodeBody) : Statement (.nDqnt n) := of_node rfl (by decide) rfl
theorem nSteer (n : NodeBody) : Statement (.nSteer n) := of_node rfl (by decide) rfl
theorem nMerge (n : NodeBody) : Statement (.nMerge n) := of_node rfl (by decide) rfl
theorem nGate (n : NodeBody) : Statement (.nGate n) := of_node rfl (by decide) rfl
theorem nCopy (n : NodeBody) : Statement (.nCopy n) := of_node rfl (by decide) rfl
theorem nConst (n : NodeBody) : Statement (.nConst n) := of_node rfl (by decide) rfl
theorem nEntry (n : NodeBody) : Statement (.nEntry n) := of_node rfl (by decide) rfl
theorem nExit (n : NodeBody) : Statement (.nExit n) := of_node rfl (by decide) rfl
theorem nLoop (n : NodeBody) : Statement (.nLoop n) := of_node rfl (by decide) rfl
theorem nSink (n : NodeBody) : Statement (.nSink n) := of_node rfl (by decide) rfl
theorem nSpawn (n : NodeBody) : Statement (.nSpawn n) := of_node rfl (by decide) rfl
theorem nReturn (n : NodeBody) : Statement (.nReturn n) := of_node rfl (by decide) rfl
theorem nTsend (n : NodeBody) : Statement (.nTsend n) := of_node rfl (by decide) rfl
theorem nPshift (n : NodeBody) : Statement (.nPshift n) := of_node rfl (by decide) rfl
theorem nPzrot (n : NodeBody) : Statement (.nPzrot n) := of_node rfl (by decide) rfl
theorem nPld (n : NodeBody) : Statement (.nPld n) := of_node rfl (by decide) rfl
theorem nPst (n : NodeBody) : Statement (.nPst n) := of_node rfl (by decide) rfl
theorem nPquiet (n : NodeBody) : Statement (.nPquiet n) := of_node rfl (by decide) rfl
theorem nRule (n : NodeBody) : Statement (.nRule n) := of_node rfl (by decide) rfl
theorem nLd (n : NodeBody) : Statement (.nLd n) := of_node rfl (by decide) rfl
theorem nSt (n : NodeBody) : Statement (.nSt n) := of_node rfl (by decide) rfl
theorem nLdv (n : NodeBody) : Statement (.nLdv n) := of_node rfl (by decide) rfl
theorem nStv (n : NodeBody) : Statement (.nStv n) := of_node rfl (by decide) rfl
theorem nLdl (n : NodeBody) : Statement (.nLdl n) := of_node rfl (by decide) rfl
theorem nStl (n : NodeBody) : Statement (.nStl n) := of_node rfl (by decide) rfl
theorem nPref (n : NodeBody) : Statement (.nPref n) := of_node rfl (by decide) rfl
theorem nOrdt (n : NodeBody) : Statement (.nOrdt n) := of_node rfl (by decide) rfl
theorem nWaitw (n : NodeBody) : Statement (.nWaitw n) := of_node rfl (by decide) rfl
theorem nLdt (n : NodeBody) : Statement (.nLdt n) := of_node rfl (by decide) rfl
theorem nStt (n : NodeBody) : Statement (.nStt n) := of_node rfl (by decide) rfl
theorem nRed (n : NodeBody) : Statement (.nRed n) := of_node rfl (by decide) rfl
theorem nLock (n : NodeBody) : Statement (.nLock n) := of_node rfl (by decide) rfl
theorem nUnlock (n : NodeBody) : Statement (.nUnlock n) := of_node rfl (by decide) rfl
theorem nCas (n : NodeBody) : Statement (.nCas n) := of_node rfl (by decide) rfl
theorem nXchg (n : NodeBody) : Statement (.nXchg n) := of_node rfl (by decide) rfl
theorem nFence (n : NodeBody) : Statement (.nFence n) := of_node rfl (by decide) rfl
theorem nBar (n : NodeBody) : Statement (.nBar n) := of_node rfl (by decide) rfl
theorem nTlw (n : NodeBody) : Statement (.nTlw n) := of_node rfl (by decide) rfl
theorem nTlr (n : NodeBody) : Statement (.nTlr n) := of_node rfl (by decide) rfl
theorem nCopyEngine (n : NodeBody) : Statement (.nCopyEngine n) := of_node rfl (by decide) rfl
theorem nNetw (n : NodeBody) : Statement (.nNetw n) := of_node rfl (by decide) rfl
theorem nMxls (n : NodeBody) : Statement (.nMxls n) := of_node rfl (by decide) rfl
theorem nMxsw (n : NodeBody) : Statement (.nMxsw n) := of_node rfl (by decide) rfl
theorem nMxst (n : NodeBody) : Statement (.nMxst n) := of_node rfl (by decide) rfl
theorem nMxacc (n : NodeBody) : Statement (.nMxacc n) := of_node rfl (by decide) rfl
theorem nMxq (n : NodeBody) : Statement (.nMxq n) := of_node rfl (by decide) rfl
theorem nRayinj (n : NodeBody) : Statement (.nRayinj n) := of_node rfl (by decide) rfl
theorem nRayrcv (n : NodeBody) : Statement (.nRayrcv n) := of_node rfl (by decide) rfl
theorem nVbuf (n : NodeBody) : Statement (.nVbuf n) := of_node rfl (by decide) rfl
theorem nHgf (n : NodeBody) : Statement (.nHgf n) := of_node rfl (by decide) rfl
theorem nHgs (n : NodeBody) : Statement (.nHgs n) := of_node rfl (by decide) rfl
theorem nTex (n : NodeBody) : Statement (.nTex n) := of_node rfl (by decide) rfl
theorem nDrawend (n : NodeBody) : Statement (.nDrawend n) := of_node rfl (by decide) rfl
theorem nCvsend (n : NodeBody) : Statement (.nCvsend n) := of_node rfl (by decide) rfl
theorem nCvrecv (n : NodeBody) : Statement (.nCvrecv n) := of_node rfl (by decide) rfl
theorem nCvchoose (n : NodeBody) : Statement (.nCvchoose n) := of_node rfl (by decide) rfl
theorem nCvdeleg (n : NodeBody) : Statement (.nCvdeleg n) := of_node rfl (by decide) rfl
theorem nFlags (n : NodeBody) : Statement (.nFlags n) := of_node rfl (by decide) rfl
theorem nTrapn (n : NodeBody) : Statement (.nTrapn n) := of_node rfl (by decide) rfl
theorem eTokenArrival (i : Nat) : Statement (.eTokenArrival i) := of_none rfl rfl
theorem eOverflowReturn (plane x y : Nat) : Statement (.eOverflowReturn plane x y) := of_none rfl rfl
theorem eIterDraw (plane : Nat) : Statement (.eIterDraw plane) := of_none rfl rfl
theorem eFrameRetire (plane frame : Nat) : Statement (.eFrameRetire plane frame) := of_none rfl rfl
theorem eIterComplete (plane : Nat) : Statement (.eIterComplete plane) := of_none rfl rfl
theorem eWaveSend (plane x y : Nat) : Statement (.eWaveSend plane x y) := of_none rfl rfl
theorem eElementSwitch (plane x y : Nat) : Statement (.eElementSwitch plane x y) := of_none rfl rfl
theorem eMemoryRequestAccept (r : Nat) : Statement (.eMemoryRequestAccept r) := of_none rfl rfl
theorem eMemoryAccessPerform (r : Nat) : Statement (.eMemoryAccessPerform r) := of_none rfl rfl
theorem eMemTimeoutExpiry (r : Nat) : Statement (.eMemTimeoutExpiry r) := of_none rfl rfl
theorem eWatchAdmission (r : Nat) : Statement (.eWatchAdmission r) := of_none rfl rfl
theorem eReductionAccept (c : Nat) : Statement (.eReductionAccept c) := of_none rfl rfl
theorem eRedWindowClose (w : Nat) : Statement (.eRedWindowClose w) := of_none rfl rfl
theorem eReductionApply (c : Nat) : Statement (.eReductionApply c) := of_none rfl rfl
theorem eEngineCommandAccept (c : Nat) : Statement (.eEngineCommandAccept c) := of_none rfl rfl
theorem eEngineCommandComplete (c : Nat) : Statement (.eEngineCommandComplete c) := of_none rfl rfl
theorem eSendCheck (q : Nat) : Statement (.eSendCheck q) := of_none rfl rfl
theorem eDelegationCheck (q : Nat) : Statement (.eDelegationCheck q) := of_none rfl rfl
theorem eRingDelivery (d : Nat) : Statement (.eRingDelivery d) := of_none rfl rfl
theorem eMatrixRowAccept (r : Nat) : Statement (.eMatrixRowAccept r) := of_none rfl rfl
theorem eMatrixRowComplete (r : Nat) : Statement (.eMatrixRowComplete r) := of_none rfl rfl
theorem eArrayCommandAccept (c : Nat) : Statement (.eArrayCommandAccept c) := of_none rfl rfl
theorem eMxlsComplete (c : Nat) : Statement (.eMxlsComplete c) := of_none rfl rfl
theorem eMxswApply (c : Nat) : Statement (.eMxswApply c) := of_none rfl rfl
theorem eShiftLaneArrival (i : Nat) : Statement (.eShiftLaneArrival i) := of_none rfl rfl
theorem eShiftComplete (plane x y node frame : Nat) : Statement (.eShiftComplete plane x y node frame) := of_none rfl rfl
theorem eRayAccept (r : Nat) : Statement (.eRayAccept r) := of_none rfl rfl
theorem eNodeInjection (r : Nat) : Statement (.eNodeInjection r) := of_none rfl rfl
theorem eBoxTest (r : Nat) : Statement (.eBoxTest r) := of_none rfl rfl
theorem eTriangleTest (r : Nat) : Statement (.eTriangleTest r) := of_none rfl rfl
theorem eRayComplete (r : Nat) : Statement (.eRayComplete r) := of_none rfl rfl
theorem eSamplerResult (r : Nat) : Statement (.eSamplerResult r) := of_none rfl rfl
theorem eDispatch (unit : Nat) : Statement (.eDispatch unit) := of_none rfl rfl
theorem eSteal (unit : Nat) : Statement (.eSteal unit) := of_none rfl rfl
theorem ePlaneBind (ctx cbix vp : Nat) : Statement (.ePlaneBind ctx cbix vp) := of_none rfl rfl
theorem eSwapOutStart (plane : Nat) : Statement (.eSwapOutStart plane) := of_none rfl rfl
theorem eSwapOutSave (plane : Nat) : Statement (.eSwapOutSave plane) := of_none rfl rfl
theorem eSwapIn (ctx cbix vp : Nat) : Statement (.eSwapIn ctx cbix vp) := of_none rfl rfl
theorem eHostLaunch (win : Nat) : Statement (.eHostLaunch win) := of_none rfl rfl
theorem eStandpipeBeat (pipe : Nat) : Statement (.eStandpipeBeat pipe) := of_none rfl rfl
theorem eStandpipeRetrain (pipe : Nat) : Statement (.eStandpipeRetrain pipe) := of_none rfl rfl
theorem sRet : Statement (.sRet) := of_one rfl (fA_lt (by decide) (by decide) (by decide) (by decide) (by decide)) rfl
theorem sDone : Statement (.sDone) := of_one rfl (fA_lt (by decide) (by decide) (by decide) (by decide) (by decide)) rfl
theorem sEret : Statement (.sEret) := of_one rfl (fA_lt (by decide) (by decide) (by decide) (by decide) (by decide)) rfl
theorem sHalt : Statement (.sHalt) := of_one rfl (fA_lt (by decide) (by decide) (by decide) (by decide) (by decide)) rfl
theorem sIdle : Statement (.sIdle) := of_one rfl (fA_lt (by decide) (by decide) (by decide) (by decide) (by decide)) rfl
theorem eQuietSkip : Statement (.eQuietSkip) := of_none rfl rfl
theorem eIdentifierHoldExpiry : Statement (.eIdentifierHoldExpiry) := of_none rfl rfl
theorem eKeptResponseExpiry : Statement (.eKeptResponseExpiry) := of_none rfl rfl
theorem ePageWalk (tlb ctx : Nat) (va : BitVec 64) (wr fe priv : Bool) : Statement (.ePageWalk tlb ctx va wr fe priv) := of_none rfl rfl
theorem eBarrierExit : Statement (.eBarrierExit) := of_none rfl rfl
theorem eConversationFree : Statement (.eConversationFree) := of_none rfl rfl
theorem eDrawWatchdog : Statement (.eDrawWatchdog) := of_none rfl rfl
theorem ePlaneBindRecheck (ctx cbix vp : Nat) : Statement (.ePlaneBindRecheck ctx cbix vp) := of_none rfl rfl
theorem eIdleWake : Statement (.eIdleWake) := of_none rfl rfl
theorem eUnitRestart (unit : Nat) : Statement (.eUnitRestart unit) := of_none rfl rfl
theorem eDoorbellLaunch (win : Nat) (v : BitVec 32) : Statement (.eDoorbellLaunch win v) := of_none rfl rfl
theorem eDoorbellNotify (win : Nat) (v : BitVec 32) : Statement (.eDoorbellNotify win v) := of_none rfl rfl
theorem eNeIncomingWrite (part ctx : Nat) (addr : BitVec 64) (bytes : List (BitVec 8)) (rcnt : BitVec 16) : Statement (.eNeIncomingWrite part ctx addr bytes rcnt) := of_none rfl rfl
theorem eNeIncomingRead (part ctx : Nat) (addr : BitVec 64) (len : Nat) : Statement (.eNeIncomingRead part ctx addr len) := of_none rfl rfl
theorem eNeRetransmit (c : Nat) : Statement (.eNeRetransmit c) := of_none rfl rfl
theorem eBeatParityCheck : Statement (.eBeatParityCheck) := of_none rfl rfl
theorem eBeatRetry : Statement (.eBeatRetry) := of_none rfl rfl
theorem eLaneTest : Statement (.eLaneTest) := of_none rfl rfl
theorem eLaneSwap : Statement (.eLaneSwap) := of_none rfl rfl
theorem eRetrainForced : Statement (.eRetrainForced) := of_none rfl rfl
theorem eRetrainComplete : Statement (.eRetrainComplete) := of_none rfl rfl
theorem eLaneFail (port lane : Nat) : Statement (.eLaneFail port lane) := of_none rfl rfl
theorem eLinkResume (port : Nat) : Statement (.eLinkResume port) := of_none rfl rfl
theorem eDroopStretch : Statement (.eDroopStretch) := of_none rfl rfl
theorem eDroopRecover : Statement (.eDroopRecover) := of_none rfl rfl
theorem ePowerCapStep (watts : BitVec 16) : Statement (.ePowerCapStep watts) := of_none rfl rfl
theorem eModuleReset : Statement (.eModuleReset) := of_none rfl rfl
theorem eFullService : Statement (.eFullService) := of_none rfl rfl
theorem eCinjGo (v : BitVec 64) : Statement (.eCinjGo v) := of_none rfl rfl
theorem eLinjWrite (v : BitVec 64) : Statement (.eLinjWrite v) := of_none rfl rfl
theorem eKlstatRetrain (port : Nat) (trained : BitVec 16) : Statement (.eKlstatRetrain port trained) := of_none rfl rfl
theorem eCbdownClear (die arr : Nat) (v : BitVec 64) : Statement (.eCbdownClear die arr v) := of_none rfl rfl
theorem ePartcfgWrite (v : BitVec 64) : Statement (.ePartcfgWrite v) := of_none rfl rfl
theorem ePwrstatRead (d : BitVec 5) : Statement (.ePwrstatRead d) := of_none rfl rfl
theorem eRegisterWrite (num : BitVec 16) (v : BitVec 64) : Statement (.eRegisterWrite num v) := of_none rfl rfl
theorem eRemoteAccessArrival (src id : Nat) (op : BusOp) (pa : Nat) (size : Nat) (data cmp : BitVec 64) : Statement (.eRemoteAccessArrival src id op pa size data cmp) := of_none rfl rfl
theorem eHostRequest (op : BusOp) (pa : Nat) (size : Nat) (data cmp : BitVec 64) : Statement (.eHostRequest op pa size data cmp) := of_none rfl rfl
theorem ePartitionReset (part : Nat) : Statement (.ePartitionReset part) := of_none rfl rfl
theorem eLinkReplay (port lane : Nat) : Statement (.eLinkReplay port lane) := of_none rfl rfl
theorem eDeliveryRetry : Statement (.eDeliveryRetry) := of_none rfl rfl

end Sys2Proof.Laws.Encoding
end

