-- ==== Sys2Proof/Tests/Decoding.lean ====
section
/-! SUPPORT. One word of every instruction that has an encoding, written out from the spec's encoding tables and, where
an entry gives an *Example*, that example's word. -/

namespace Sys2Proof.Tests

set_option Elab.async false

/-- Each word, of so many bits, decodes to the instruction beside it. -/
def decodesTo (nbits : Nat) (l : List (Nat × Instr)) : Bool := l.all (fun x => decodeTableWord nbits x.1 = some x.2)

/-- A node word from its four 32-bit words, the most significant first (Table 6.8). -/
def nodeOf (hi operand dest0 dest1 : Nat) : Nat := ((hi * 2 ^ 32 + operand) * 2 ^ 32 + dest0) * 2 ^ 32 + dest1

/-- Arithmetic and logic, OP 0x00 (Table 6.3): `ADD g5, g6, g7` is 0x00A6_3800 (R153), and FN selects the others. -/
theorem test_decode_alu : decodesTo 32
    [(0x00A6_3800, .sAdd 5 6 7),
     (0x00A6_3801, .sSub 5 6 7),
     (0x00A6_3802, .sMul 5 6 7),
     (0x00A6_3803, .sMulh 5 6 7),
     (0x00A6_3804, .sMulhn 5 6 7),
     (0x00A6_3805, .sDiv 5 6 7),
     (0x00A6_3806, .sDivn 5 6 7),
     (0x00A6_3807, .sRem 5 6 7),
     (0x00A6_3808, .sRemn 5 6 7),
     (0x00A6_3809, .sAnd 5 6 7),
     (0x00A6_380A, .sOr 5 6 7),
     (0x00A6_380B, .sXor 5 6 7),
     (0x00A6_380C, .sAndn 5 6 7),
     (0x00A6_380D, .sShl 5 6 7),
     (0x00A6_380E, .sShr 5 6 7),
     (0x00A6_380F, .sSar 5 6 7),
     (0x00A6_3810, .sMin 5 6 7),
     (0x00A6_3811, .sMax 5 6 7),
     (0x00A6_3812, .sMinn 5 6 7),
     (0x00A6_3813, .sMaxn 5 6 7),
     (0x0064_2A14, .sSel 3 4 5 2),
     (0x00A6_0015, .sClz 5 6),
     (0x00A6_0016, .sPopc 5 6)] = true := by decide +kernel

/-- Comparisons and 16-bit immediates (R154, R155). -/
theorem test_decode_immediate : decodesTo 32
    [(0x0424_2802, .sCmp 1 4 5 2),
     (0x08A6_FFFF, .sAddi 5 6 0xFFFF),
     (0x0CA6_00F0, .sAndi 5 6 0xF0),
     (0x10A6_00F0, .sOri 5 6 0xF0),
     (0x14A6_00F0, .sXori 5 6 0xF0),
     (0x18A6_003F, .sShli 5 6 63),
     (0x1CA6_003F, .sShri 5 6 63),
     (0x20A6_003F, .sSari 5 6 63),
     (0x24A0_8000, .sLdi 5 0x8000),
     (0x2883_1234, .sLdhi 4 3 0x1234),
     (0x3224_000A, .sCmpiCcLow 2 1 4 10),
     (0x3524_000A, .sCmpiCcHigh 1 1 4 10)] = true := by decide +kernel

/-- X forms: the extension word stands above the first word (R134, R155, R166). -/
theorem test_decode_x_form : decodesTo 64
    [(0xFFFF_FFFE_F8A0_0000, .sLdiX 5 0xFFFFFFFE),
     (0xFFFF_FFFE_F8A6_0100, .sAddiX 5 6 0xFFFFFFFE),
     (0x0001_0000_F8A6_0200, .sAndiX 5 6 0x10000),
     (0x0001_0000_F8A6_0300, .sOriX 5 6 0x10000),
     (0x0001_0000_F8A6_0400, .sXoriX 5 6 0x10000),
     (0x0001_0000_F824_0502, .sCmpiX 1 2 4 0x10000),
     (0x0000_0040_FC24_0000, .sCfgldX 1 4 0x40)] = true := by decide +kernel

/-- Memory (R156 to R159). -/
theorem test_decode_memory : decodesTo 32
    [(0x4064_8008, .sLd 3 4 2 8),
     (0x4464_4008, .sLdN 3 4 1 8),
     (0x4864_FFF8, .sSt 3 4 3 0x3FF8),
     (0x4C64_0024, .sLdacq 3 4 2 4),
     (0x5064_0033, .sStrel 3 4 3 3),
     (0x54A4_3017, .sAmo 5 4 6 0 1 7),
     (0x5800_0007, .sFence 7)] = true := by decide +kernel

/-- Control flow, continuations and identity (R160 to R165). -/
theorem test_decode_control : decodesTo 32
    [(0x60C0_0002, .sBr 1 1 2),
     (0x67FF_FFFF, .sJmp 0x3FFFFFF),
     (0x6805_0000, .sJmpi 5),
     (0x6C00_0004, .sCall 4),
     (0x7000_0000, .sRet),
     (0x8004_0000, .sCont 4),
     (0x8404_0000, .sEnq 4),
     (0x8804_2800, .sJoin 4 5),
     (0x8C04_0004, .sArmIter 4 1),
     (0x8C04_2801, .sArmTl 4 5),
     (0x8C04_2802, .sArmWatch 4 5),
     (0x8C04_280B, .sArmConv 4 5 2),
     (0x9000_0000, .sDone),
     (0x9520_0000, .sSelf 9)] = true := by decide +kernel

/-- Regions (R166 to R172). -/
theorem test_decode_region : decodesTo 32
    [(0x9824_0000, .sCfgld 1 4),
     (0x9C20_0000, .sCfgact 1),
     (0xA023_0000, .sIter 1 3 0 0),
     (0xA420_0002, .sSplice 1 2),
     (0xA860_0000, .sDrain 3),
     (0xAC20_0005, .sPrio 1 5),
     (0xB021_0080, .sTokin 1 1 2 0),
     (0xB4A6_0003, .sTokget 5 6 3)] = true := by decide +kernel

/-- Identifiers, timelines, copies and conversations (R173 to R180). -/
theorem test_decode_engine : decodesTo 32
    [(0xC004_0007, .sTidset 4 7),
     (0xC004_0107, .sTidget 4 7),
     (0xC464_0000, .sTlread 3 4),
     (0xC807_0000, .sCopys 0 7),
     (0xCC64_0007, .sCvopen 3 4 7),
     (0xD003_2001, .sCvbind 3 4 1),
     (0xD464_2822, .sCvsend 3 4 5 1 2),
     (0xD464_2C22, .sCvsendChoose 3 4 5 1 2),
     (0xD804_2802, .sCvdeleg 4 5 2),
     (0xDCA3_0000, .sCvclose 5 3)] = true := by decide +kernel

/-- Control registers, traps and privileged operations (R181 to R186). -/
theorem test_decode_system : decodesTo 32
    [(0xE060_0100, .sCsrrd 3 0x100),
     (0xE460_0100, .sCsrwr 3 0x100),
     (0xE800_0000, .sEret),
     (0xE800_0051, .sSvc 5),
     (0xE800_0002, .sHalt),
     (0xE800_0003, .sIdle),
     (0xEC04_2800, .sTlbinv 4 5),
     (0xEC04_2801, .sKeyld 4 5),
     (0xEC04_0002, .sSwapout 4),
     (0xEC04_0003, .sSwapin 4),
     (0xEC04_0004, .sParkres 4),
     (0xEC04_0005, .sParkkill 4)] = true := by decide +kernel

/-- Integer nodes (spec/08, R192 to R194). -/
theorem test_decode_node_integer : decodesTo 128
    [(nodeOf 0x0020_9000 0x0000_0001 0x8200_0000 0, .nIadd ⟨0x2, 0x0, 0x9, 0x0, 0x00, 0x0000_0001, 0x8200_0000, 0⟩),
     (nodeOf 0x0120_C000 0 0 0, .nIsub ⟨0x2, 0x0, 0xC, 0x0, 0x00, 0, 0, 0⟩),
     (nodeOf 0x0220_C000 0 0 0, .nImul ⟨0x2, 0x0, 0xC, 0x0, 0x00, 0, 0, 0⟩),
     (nodeOf 0x0320_C000 0 0 0, .nImulh ⟨0x2, 0x0, 0xC, 0x0, 0x00, 0, 0, 0⟩),
     (nodeOf 0x0420_C000 0x0000_0023 0 0, .nImad ⟨0x2, 0x0, 0xC, 0x0, 0x00, 0x0000_0023, 0, 0⟩),
     (nodeOf 0x0520_8000 0 0 0, .nIabs ⟨0x2, 0x0, 0x8, 0x0, 0x00, 0, 0, 0⟩),
     (nodeOf 0x0620_8000 0 0 0, .nIneg ⟨0x2, 0x0, 0x8, 0x0, 0x00, 0, 0, 0⟩),
     (nodeOf 0x0720_C000 0 0 0, .nImin ⟨0x2, 0x0, 0xC, 0x0, 0x00, 0, 0, 0⟩),
     (nodeOf 0x0820_C000 0 0 0, .nImax ⟨0x2, 0x0, 0xC, 0x0, 0x00, 0, 0, 0⟩),
     (nodeOf 0x0960_C000 0 0 0, .nAnd ⟨0x6, 0x0, 0xC, 0x0, 0x00, 0, 0, 0⟩),
     (nodeOf 0x0A60_C000 0 0 0, .nOr ⟨0x6, 0x0, 0xC, 0x0, 0x00, 0, 0, 0⟩),
     (nodeOf 0x0B60_C000 0 0 0, .nXor ⟨0x6, 0x0, 0xC, 0x0, 0x00, 0, 0, 0⟩),
     (nodeOf 0x0C60_8000 0 0 0, .nNot ⟨0x6, 0x0, 0x8, 0x0, 0x00, 0, 0, 0⟩),
     (nodeOf 0x0D60_9000 0x0000_0003 0 0, .nShl ⟨0x6, 0x0, 0x9, 0x0, 0x00, 0x0000_0003, 0, 0⟩),
     (nodeOf 0x0E60_C000 0 0 0, .nShr ⟨0x6, 0x0, 0xC, 0x0, 0x00, 0, 0, 0⟩),
     (nodeOf 0x0F20_C000 0 0 0, .nSar ⟨0x2, 0x0, 0xC, 0x0, 0x00, 0, 0, 0⟩),
     (nodeOf 0x1060_C000 0 0 0, .nRot ⟨0x6, 0x0, 0xC, 0x0, 0x00, 0, 0, 0⟩),
     (nodeOf 0x1160_8000 0 0 0, .nPopc ⟨0x6, 0x0, 0x8, 0x0, 0x00, 0, 0, 0⟩),
     (nodeOf 0x1260_8000 0 0 0, .nClz ⟨0x6, 0x0, 0x8, 0x0, 0x00, 0, 0, 0⟩),
     (nodeOf 0x1360_8000 0x0000_0804 0 0, .nBfx ⟨0x6, 0x0, 0x8, 0x0, 0x00, 0x0000_0804, 0, 0⟩),
     (nodeOf 0x1460_C000 0x0000_0804 0 0, .nBfi ⟨0x6, 0x0, 0xC, 0x0, 0x00, 0x0000_0804, 0, 0⟩),
     (nodeOf 0x1500_C000 0 0 0, .nSadd ⟨0x0, 0x0, 0xC, 0x0, 0x00, 0, 0, 0⟩),
     (nodeOf 0x1600_C000 0 0 0, .nSsub ⟨0x0, 0x0, 0xC, 0x0, 0x00, 0, 0, 0⟩)] = true := by decide +kernel

/-- Floating-point nodes (spec/08). -/
theorem test_decode_node_float : decodesTo 128
    [(nodeOf 0x20A0_C000 0 0 0, .nFadd ⟨0xA, 0x0, 0xC, 0x0, 0x00, 0, 0, 0⟩),
     (nodeOf 0x21A0_C000 0 0 0, .nFsub ⟨0xA, 0x0, 0xC, 0x0, 0x00, 0, 0, 0⟩),
     (nodeOf 0x22A0_9000 0xBF80_0000 0 0, .nFmul ⟨0xA, 0x0, 0x9, 0x0, 0x00, 0xBF80_0000, 0, 0⟩),
     (nodeOf 0x23A0_C000 0x0000_0023 0x8500_0000 0, .nFfma ⟨0xA, 0x0, 0xC, 0x0, 0x00, 0x0000_0023, 0x8500_0000, 0⟩),
     (nodeOf 0x24A0_C000 0 0 0, .nFmin ⟨0xA, 0x0, 0xC, 0x0, 0x00, 0, 0, 0⟩),
     (nodeOf 0x25A0_C000 0 0 0, .nFmax ⟨0xA, 0x0, 0xC, 0x0, 0x00, 0, 0, 0⟩),
     (nodeOf 0x26A0_9000 0x3F80_0000 0 0, .nFsgn ⟨0xA, 0x0, 0x9, 0x0, 0x00, 0x3F80_0000, 0, 0⟩),
     (nodeOf 0x27A0_8000 0 0 0, .nFrcp ⟨0xA, 0x0, 0x8, 0x0, 0x00, 0, 0, 0⟩),
     (nodeOf 0x28A0_8000 0 0 0, .nFrsq ⟨0xA, 0x0, 0x8, 0x0, 0x00, 0, 0, 0⟩),
     (nodeOf 0x29A0_8000 0 0 0, .nFsqrt ⟨0xA, 0x0, 0x8, 0x0, 0x00, 0, 0, 0⟩),
     (nodeOf 0x2AA0_C000 0 0 0, .nFdiv ⟨0xA, 0x0, 0xC, 0x0, 0x00, 0, 0, 0⟩),
     (nodeOf 0x2BA0_8000 0 0 0, .nFexp2 ⟨0xA, 0x0, 0x8, 0x0, 0x00, 0, 0, 0⟩),
     (nodeOf 0x2CA0_8000 0 0 0, .nFlog2 ⟨0xA, 0x0, 0x8, 0x0, 0x00, 0, 0, 0⟩)] = true := by decide +kernel

/-- Predicates, lanes, conversions and tables (spec/08). -/
theorem test_decode_node_lane : decodesTo 128
    [(nodeOf 0x4022_9000 0x0000_0014 0 0, .nCmp ⟨0x2, 0x2, 0x9, 0x0, 0x00, 0x0000_0014, 0, 0⟩),
     (nodeOf 0x41A0_E000 0 0 0, .nSel ⟨0xA, 0x0, 0xE, 0x0, 0x00, 0, 0, 0⟩),
     (nodeOf 0x4200_C000 0 0 0, .nMand ⟨0x0, 0x0, 0xC, 0x0, 0x00, 0, 0, 0⟩),
     (nodeOf 0x4300_C000 0 0 0, .nMor ⟨0x0, 0x0, 0xC, 0x0, 0x00, 0, 0, 0⟩),
     (nodeOf 0x4400_8000 0 0 0, .nMnot ⟨0x0, 0x0, 0x8, 0x0, 0x00, 0, 0, 0⟩),
     (nodeOf 0x4500_8000 0 0 0, .nAny ⟨0x0, 0x0, 0x8, 0x0, 0x00, 0, 0, 0⟩),
     (nodeOf 0x4600_8000 0 0 0, .nAll ⟨0x0, 0x0, 0x8, 0x0, 0x00, 0, 0, 0⟩),
     (nodeOf 0x4760_C000 0 0 0, .nLperm ⟨0x6, 0x0, 0xC, 0x0, 0x00, 0, 0, 0⟩),
     (nodeOf 0x4860_8000 0x0000_0003 0 0, .nLbcast ⟨0x6, 0x0, 0x8, 0x0, 0x00, 0x0000_0003, 0, 0⟩),
     (nodeOf 0x4960_9000 0x0000_0001 0 0, .nLrot ⟨0x6, 0x0, 0x9, 0x0, 0x00, 0x0000_0001, 0, 0⟩),
     (nodeOf 0x4AA0_8000 0 0 0, .nLred ⟨0xA, 0x0, 0x8, 0x0, 0x00, 0, 0, 0⟩),
     (nodeOf 0x4B20_8000 0x0000_0002 0 0, .nLscan ⟨0x2, 0x0, 0x8, 0x0, 0x00, 0x0000_0002, 0, 0⟩),
     (nodeOf 0x5080_8000 0x0000_000A 0 0, .nCvt ⟨0x8, 0x0, 0x8, 0x0, 0x00, 0x0000_000A, 0, 0⟩),
     (nodeOf 0x5180_C000 0x0000_0001 0 0, .nPack ⟨0x8, 0x0, 0xC, 0x0, 0x00, 0x0000_0001, 0, 0⟩),
     (nodeOf 0x5280_8000 0x0000_0001 0 0, .nUnpack ⟨0x8, 0x0, 0x8, 0x0, 0x00, 0x0000_0001, 0, 0⟩),
     (nodeOf 0x53A0_8000 0x0016_0400 0 0, .nLut ⟨0xA, 0x0, 0x8, 0x0, 0x00, 0x0016_0400, 0, 0⟩),
     (nodeOf 0x54A0_8000 0x0000_0005 0 0, .nBmax ⟨0xA, 0x0, 0x8, 0x0, 0x00, 0x0000_0005, 0, 0⟩),
     (nodeOf 0x55A0_8000 0x0000_0002 0 0, .nDelay ⟨0xA, 0x0, 0x8, 0x0, 0x00, 0x0000_0002, 0, 0⟩),
     (nodeOf 0x56A0_8000 0x0000_0054 0 0, .nBfly ⟨0xA, 0x0, 0x8, 0x0, 0x00, 0x0000_0054, 0, 0⟩),
     (nodeOf 0x57A0_C000 0x0000_0009 0 0, .nQnt ⟨0xA, 0x0, 0xC, 0x0, 0x00, 0x0000_0009, 0, 0⟩),
     (nodeOf 0x5880_C000 0x0000_0009 0 0, .nDqnt ⟨0x8, 0x0, 0xC, 0x0, 0x00, 0x0000_0009, 0, 0⟩)] = true := by decide +kernel

/-- Routing and frames (spec/08, R203 to R211), and the flags and trap nodes (R234, R235). -/
theorem test_decode_node_routing : decodesTo 128
    [(nodeOf 0x6020_A000 0 0 0, .nSteer ⟨0x2, 0x0, 0xA, 0x0, 0x00, 0, 0, 0⟩),
     (nodeOf 0x6120_E000 0 0 0, .nMerge ⟨0x2, 0x0, 0xE, 0x0, 0x00, 0, 0, 0⟩),
     (nodeOf 0x6220_A000 0 0 0, .nGate ⟨0x2, 0x0, 0xA, 0x0, 0x00, 0, 0, 0⟩),
     (nodeOf 0x6320_8000 0 0 0, .nCopy ⟨0x2, 0x0, 0x8, 0x0, 0x00, 0, 0, 0⟩),
     (nodeOf 0x64A0_8000 0x3F80_0000 0 0, .nConst ⟨0xA, 0x0, 0x8, 0x0, 0x00, 0x3F80_0000, 0, 0⟩),
     (nodeOf 0x6520_0000 0 0 0, .nEntry ⟨0x2, 0x0, 0x0, 0x0, 0x00, 0, 0, 0⟩),
     (nodeOf 0x6600_8000 0 0 0, .nExit ⟨0x0, 0x0, 0x8, 0x0, 0x00, 0, 0, 0⟩),
     (nodeOf 0x6720_8000 0 0x8200_1000 0, .nLoop ⟨0x2, 0x0, 0x8, 0x0, 0x00, 0, 0x8200_1000, 0⟩),
     (nodeOf 0x6820_8000 0 0 0, .nSink ⟨0x2, 0x0, 0x8, 0x0, 0x00, 0, 0, 0⟩),
     (nodeOf 0x69A0_8000 0 0xE300_0000 0x8600_0000, .nSpawn ⟨0xA, 0x0, 0x8, 0x0, 0x00, 0, 0xE300_0000, 0x8600_0000⟩),
     (nodeOf 0x6A20_8000 0 0 0, .nReturn ⟨0x2, 0x0, 0x8, 0x0, 0x00, 0, 0, 0⟩),
     (nodeOf 0x6B20_8000 0 0x8800_0000 0, .nTsend ⟨0x2, 0x0, 0x8, 0x0, 0x00, 0, 0x8800_0000, 0⟩),
     (nodeOf 0xD060_8000 0 0x8400_0000 0, .nFlags ⟨0x6, 0x0, 0x8, 0x0, 0x00, 0, 0x8400_0000, 0⟩),
     (nodeOf 0xD100_A000 0x0000_002A 0x8600_0000 0, .nTrapn ⟨0x0, 0x0, 0xA, 0x0, 0x00, 0x0000_002A, 0x8600_0000, 0⟩)] = true := by decide +kernel

/-- The lattice (spec/10, R241 to R246). -/
theorem test_decode_node_plane : decodesTo 128
    [(nodeOf 0x7020_802F 0 0 0, .nPshift ⟨0x2, 0x0, 0x8, 0x0, 0x2F, 0, 0, 0⟩),
     (nodeOf 0x7100_8040 0x0000_0004 0 0, .nPzrot ⟨0x0, 0x0, 0x8, 0x0, 0x40, 0x0000_0004, 0, 0⟩),
     (nodeOf 0x72A0_8018 0 0x8400_0000 0, .nPld ⟨0xA, 0x0, 0x8, 0x0, 0x18, 0, 0x8400_0000, 0⟩),
     (nodeOf 0x7320_8018 0 0 0, .nPst ⟨0x2, 0x0, 0x8, 0x0, 0x18, 0, 0, 0⟩),
     (nodeOf 0x7400_8000 0 0x8700_0000 0, .nPquiet ⟨0x0, 0x0, 0x8, 0x0, 0x00, 0, 0x8700_0000, 0⟩),
     (nodeOf 0x7560_8008 0x0040_0400 0x8600_0000 0, .nRule ⟨0x6, 0x0, 0x8, 0x0, 0x08, 0x0040_0400, 0x8600_0000, 0⟩)] = true := by decide +kernel

/-- Memory nodes (spec/09, R218 to R229, R255). -/
theorem test_decode_node_mem : decodesTo 128
    [(nodeOf 0x8030_8041 0 0x8500_0000 0, .nLd ⟨0x3, 0x0, 0x8, 0x0, 0x41, 0, 0x8500_0000, 0⟩),
     (nodeOf 0x8130_C040 0 0 0, .nSt ⟨0x3, 0x0, 0xC, 0x0, 0x40, 0, 0, 0⟩),
     (nodeOf 0x82A0_8000 0x4000_0080 0x8300_0000 0, .nLdv ⟨0xA, 0x0, 0x8, 0x0, 0x00, 0x4000_0080, 0x8300_0000, 0⟩),
     (nodeOf 0x83A0_C000 0x4000_0080 0 0, .nStv ⟨0xA, 0x0, 0xC, 0x0, 0x00, 0x4000_0080, 0, 0⟩),
     (nodeOf 0x84A0_8000 0x0000_0200 0x8400_0000 0, .nLdl ⟨0xA, 0x0, 0x8, 0x0, 0x00, 0x0000_0200, 0x8400_0000, 0⟩),
     (nodeOf 0x85A0_C000 0x0000_0200 0 0, .nStl ⟨0xA, 0x0, 0xC, 0x0, 0x00, 0x0000_0200, 0, 0⟩),
     (nodeOf 0x8600_8000 0 0 0, .nPref ⟨0x0, 0x0, 0x8, 0x0, 0x00, 0, 0, 0⟩),
     (nodeOf 0x8700_8043 0 0x8700_0000 0, .nOrdt ⟨0x0, 0x0, 0x8, 0x0, 0x43, 0, 0x8700_0000, 0⟩),
     (nodeOf 0x8860_C800 0x0000_0001 0 0, .nWaitw ⟨0x6, 0x0, 0xC, 0x8, 0x00, 0x0000_0001, 0, 0⟩),
     (nodeOf 0x8900_8041 0x0000_0105 0x8300_0000 0, .nLdt ⟨0x0, 0x0, 0x8, 0x0, 0x41, 0x0000_0105, 0x8300_0000, 0⟩),
     (nodeOf 0x8A00_C040 0x0000_0005 0 0, .nStt ⟨0x0, 0x0, 0xC, 0x0, 0x40, 0x0000_0005, 0, 0⟩),
     (nodeOf 0x90A4_C800 0x4080_0000 0xE200_0000 0, .nRed ⟨0xA, 0x4, 0xC, 0x8, 0x00, 0x4080_0000, 0xE200_0000, 0⟩),
     (nodeOf 0x9103_8000 0 0x8300_0000 0, .nLock ⟨0x0, 0x3, 0x8, 0x0, 0x00, 0, 0x8300_0000, 0⟩),
     (nodeOf 0x9203_8000 0 0 0, .nUnlock ⟨0x0, 0x3, 0x8, 0x0, 0x00, 0, 0, 0⟩),
     (nodeOf 0x9367_C000 0x4000_0000 0x8400_0000 0, .nCas ⟨0x6, 0x7, 0xC, 0x0, 0x00, 0x4000_0000, 0x8400_0000, 0⟩),
     (nodeOf 0x9467_C000 0x4000_0000 0 0, .nXchg ⟨0x6, 0x7, 0xC, 0x0, 0x00, 0x4000_0000, 0, 0⟩),
     (nodeOf 0x9504_8041 0 0x8600_0000 0, .nFence ⟨0x0, 0x4, 0x8, 0x0, 0x41, 0, 0x8600_0000, 0⟩),
     (nodeOf 0x9604_8000 0 0x8500_0000 0, .nBar ⟨0x0, 0x4, 0x8, 0x0, 0x00, 0, 0x8500_0000, 0⟩),
     (nodeOf 0x9700_8000 0x0000_0001 0x8300_0000 0, .nTlw ⟨0x0, 0x0, 0x8, 0x0, 0x00, 0x0000_0001, 0x8300_0000, 0⟩),
     (nodeOf 0x9870_8000 0x0000_0001 0 0, .nTlr ⟨0x7, 0x0, 0x8, 0x0, 0x00, 0x0000_0001, 0, 0⟩)] = true := by decide +kernel

/-- Engines, arrays, rays and conversations (spec/09, spec/10, spec/11). -/
theorem test_decode_node_engine : decodesTo 128
    [(nodeOf 0xA000_8000 0 0xE100_0000 0x8400_0000, .nCopyEngine ⟨0x0, 0x0, 0x8, 0x0, 0x00, 0, 0xE100_0000, 0x8400_0000⟩),
     (nodeOf 0xA100_8000 0 0xE400_0000 0, .nNetw ⟨0x0, 0x0, 0x8, 0x0, 0x00, 0, 0xE400_0000, 0⟩),
     (nodeOf 0xA200_8000 0x0000_000C 0xE200_0000 0x8400_0000, .nMxls ⟨0x0, 0x0, 0x8, 0x0, 0x00, 0x0000_000C, 0xE200_0000, 0x8400_0000⟩),
     (nodeOf 0xA300_8000 0 0xE200_0000 0, .nMxsw ⟨0x0, 0x0, 0x8, 0x0, 0x00, 0, 0xE200_0000, 0⟩),
     (nodeOf 0xA400_8000 0x0000_00E0 0xE200_0000 0x8500_0000, .nMxst ⟨0x0, 0x0, 0x8, 0x0, 0x00, 0x0000_00E0, 0xE200_0000, 0x8500_0000⟩),
     (nodeOf 0xA500_8000 0x0000_0A00 0xE200_0000 0x8600_0000, .nMxacc ⟨0x0, 0x0, 0x8, 0x0, 0x00, 0x0000_0A00, 0xE200_0000, 0x8600_0000⟩),
     (nodeOf 0xA600_8000 0x0000_0001 0xE300_0000 0x8400_0000, .nMxq ⟨0x0, 0x0, 0x8, 0x0, 0x00, 0x0000_0001, 0xE300_0000, 0x8400_0000⟩),
     (nodeOf 0xB000_8000 0 0xE200_0000 0x8500_0000, .nRayinj ⟨0x0, 0x0, 0x8, 0x0, 0x00, 0, 0xE200_0000, 0x8500_0000⟩),
     (nodeOf 0xB100_8000 0x0000_0002 0x8600_0000 0, .nRayrcv ⟨0x0, 0x0, 0x8, 0x0, 0x00, 0x0000_0002, 0x8600_0000, 0⟩),
     (nodeOf 0xB274_C000 0 0x8400_0000 0, .nVbuf ⟨0x7, 0x4, 0xC, 0x0, 0x00, 0, 0x8400_0000, 0⟩),
     (nodeOf 0xB3A0_8000 0x0000_1104 0x8500_0000 0, .nHgf ⟨0xA, 0x0, 0x8, 0x0, 0x00, 0x0000_1104, 0x8500_0000, 0⟩),
     (nodeOf 0xB4A0_8000 0x0000_0023 0xE100_0000 0, .nHgs ⟨0xA, 0x0, 0x8, 0x0, 0x00, 0x0000_0023, 0xE100_0000, 0⟩),
     (nodeOf 0xB580_8000 0x0000_0306 0x8400_0000 0, .nTex ⟨0x8, 0x0, 0x8, 0x0, 0x00, 0x0000_0306, 0x8400_0000, 0⟩),
     (nodeOf 0xB600_8000 0 0 0, .nDrawend ⟨0x0, 0x0, 0x8, 0x0, 0x00, 0, 0, 0⟩),
     (nodeOf 0xC000_8000 0x0000_100A 0x8300_0000 0, .nCvsend ⟨0x0, 0x0, 0x8, 0x0, 0x00, 0x0000_100A, 0x8300_0000, 0⟩),
     (nodeOf 0xC100_8000 0x0000_0005 0x8200_0000 0, .nCvrecv ⟨0x0, 0x0, 0x8, 0x0, 0x00, 0x0000_0005, 0x8200_0000, 0⟩),
     (nodeOf 0xC200_8000 0x0000_0010 0 0, .nCvchoose ⟨0x0, 0x0, 0x8, 0x0, 0x00, 0x0000_0010, 0, 0⟩),
     (nodeOf 0xC300_8000 0x0000_0002 0 0, .nCvdeleg ⟨0x0, 0x0, 0x8, 0x0, 0x00, 0x0000_0002, 0, 0⟩)] = true := by decide +kernel

end Sys2Proof.Tests
end

