-- ==== Sys2Proof/Tests/Fixtures.lean ====
section
/-! SUPPORT. Small machines that the tests and witnesses run on. -/

namespace Sys2Proof.Tests

set_option Elab.async false

open Sys2Proof Sys2Proof.Machine Sys2Proof.Claim

/-- A pair whose second part is known. -/
theorem pair {α β : Type} {x : α × β} {b : β} (h : x.2 = b) : x = (x.1, b) := by cases x; cases h; rfl

/-- A value that is there. -/
theorem there {α : Type} {x : Option α} (h : x.isSome = true) : ∃ a, x = some a := Option.isSome_iff_exists.mp h

/-- The value of an outcome that is one. -/
def valOf {σ ε α : Type} (d : α) (x : σ × Except ε α) : α := x.2.toOption.getD d

/-- An outcome that is a value. -/
theorem okay {σ ε α : Type} {x : σ × Except ε α} (d : α) (h : x.2.toOption.isSome = true) : x = (x.1, .ok (valOf d x)) := by
  obtain ⟨a, b | b⟩ := x
  · cases h
  · rfl

/-- An outcome that carries nothing. -/
theorem okayUnit {σ ε : Type} {x : σ × Except ε Unit} (h : x.2.toOption.isSome = true) : x = (x.1, .ok ()) := okay () h

/-- An outcome that is a pair. -/
theorem okayPair {σ ε α β : Type} {x : σ × Except ε (α × β)} (d : α × β) (h : x.2.toOption.isSome = true) :
    x = (x.1, .ok ((valOf d x).1, (valOf d x).2)) := okay d h

/-- An access of this module that translates and raises no race reaches its home. -/
theorem near {s s1 : State} {va n : Nat} {k : Acc} {tr : Tr} (h0 : va % n = 0) (h1 : s.remoteVa s.cur s.meIss va k.wr = false)
    (h2 : s.translate s.cur s.meIss.die s.me.ctx va k.wr false s.me.priv = (s1, .ok tr)) (h3 : tr.watch = true → s1.race s.meIss tr.pa n k = none) :
    Reaches s va n k s1 tr := ⟨h0, s, .inl ⟨h1, rfl⟩, h2, h3⟩

/-- A read that translates to an unwatched place and meets no failing bank. -/
theorem reading {s : State} {va n : Nat} (tr : Tr) (h0 : va % n = 0) (h1 : s.remoteVa s.cur s.meIss va false = false)
    (h2 : (s.translate s.cur s.meIss.die s.me.ctx va false false s.me.priv).2 = .ok tr) (h3 : tr.watch = false)
    (h4 : ((s.translate s.cur s.meIss.die s.me.ctx va false false s.me.priv).1.physRead tr.slot tr.pa n).2.toOption.isSome = true) :
    Reads s va n ((s.translate s.cur s.meIss.die s.me.ctx va false false s.me.priv).1.physRead tr.slot tr.pa n).1
      (Machine.leNat (valOf [] ((s.translate s.cur s.meIss.die s.me.ctx va false false s.me.priv).1.physRead tr.slot tr.pa n))) :=
  ⟨_, tr, _, near h0 h1 (pair h2) (by rw [h3]; nofun), okay [] h4, rfl⟩

/-- Memory that holds numbers at addresses: each in so many bytes, little-endian. -/
def bytesFrom (l : List (Nat × Nat × Nat)) : List Host.Cell :=
  l.foldl (fun m x => (Machine.leBytes x.2.1 x.2.2).zipIdx.foldl (fun m y => Memory.write m (x.1 + y.2) y.1) m) []

/-- Registers g1 and on, as given. -/
def regsOf (l : List Nat) : Vector Word 32 := Vector.ofFn (fun i => BitVec.ofNat 64 ((0 :: l).getD i.val 0))

/-- Control core CC0 with privilege at address 0 of 2 MiB that its TLB maps onto themselves by a leaf, with registers. -/
def coreAt (leaf : BitVec 64) (regs : List Nat) : State :=
  { State.reset with
    cur := 256
    units := [(256, { UnitSt.reset with status := .running, priv := true, regs := regsOf regs })]
    tlb := [⟨256, 0, 0, 9, leaf, 0⟩] }

/-- A region of one block at (0,0) of FD0, with one virtual plane. -/
def block00 : Region := ⟨0, 0, 0, 1, 1, 1⟩

/-- The running record of `world`: block 0, no join. -/
def record0 : BitVec 256 := 0#256

/-- What a world sets apart from its memory. -/
structure Setting where
  /-- QUEUE of block 0, and the JOIN of the record at 0x50000. -/
  queue : Nat := 3
  join : Nat := 0
  regs : List Nat := []
  more : List (Nat × Nat × Nat) := []

/-- The control block that bytes at 0x30000 and on make, as one number. -/
def blockOf (l : List (Nat × Nat × Nat)) : Nat :=
  (l.filter (fun x => 0x30000 ≤ x.1 ∧ x.1 < 0x30100)).foldl (fun n (a, k, v) =>
    let o := 2 ^ (8 * (a - 0x30000)); let w := 256 ^ k
    n - n / o % w * o + v % w * o) 0

/-- Block 0 of a world. -/
def blockFields (queue : Nat) : List (Nat × Nat × Nat) :=
  [(0x30006, 2, 0x107), (0x30008, 8, 0x1004000040), (0x30018, 8, 0x50100), (0x30021, 1, queue), (0x30024, 4, 2 ^ 31 + 2 ^ 11),
   (0x30040, 8, 1), (0x30038, 8, 0x100000)]

/-- Bytes of a world: descriptors at 0x20000, the block at 0x30000, trap frames at 0x40000, a record at 0x50000, a handler's template
at 0x50100. -/
def worldFields (t : Setting) : List (Nat × Nat × Nat) :=
  [(0x10000, 8, 0x11001), (0x11000, 8, 0x12001), (0x12000, 8, 0x30F),
   (0x20040, 8, 0x10000), (0x2004A, 2, 0x201), (0x20050, 8, 0x30000), (0x20058, 8, 0x40000), (0x20068, 2, 0x20), (0x2006A, 2, 8), (0x2006C, 4, 2),
   (0x50000, 8, 0x60000), (0x50008, 8, 0x60100), (0x50010, 4, t.join + 4 * 2 ^ 16), (0x50100, 8, 0x60200)] ++ blockFields t.queue ++ t.more

/-- Sequencer 0 runs a record of context 1, whose tables map 1 GiB onto itself. -/
def world (t : Setting) : State :=
  { State.reset with
    units := [(0, { UnitSt.reset with
      status := .running, priv := true, ctx := 1, record := record0, recAddr := 0x50200#64, region := some block00, regs := regsOf t.regs })]
    csrs := [(0x113, 0x71#64), (0x190, 0x71#64), (0x200, 0x20000#64)]
    blocks := [(blockKey 1 0, ⟨0, 0, 64, 1024, 16, [(0, 0)], blockOf (blockFields t.queue ++ t.more)⟩)]
    planes := [(0, { Plane.reset with ctx := 1, state := .loaded })]
    mem := bytesFrom (worldFields t) }

/-- The record at 0x50000 of a world. -/
def recordAt (join : Nat) : BitVec 256 := BitVec.ofNat 256 ((0x40000 + join) * 2 ^ 128 + 0x60100 * 2 ^ 64 + 0x60000)

/-- The record at 0x50000 of a world, with the JOIN given, passes every check; its block is live. -/
theorem validates (w : State) (join : Nat)
    (h : 0x50000 % 32 = 0 ∧ w.remoteVa w.cur w.meIss 0x50000 false = false ∧
      (w.translate w.cur w.meIss.die w.me.ctx 0x50000 false false w.me.priv).2 = .ok ⟨0x50000, 0, false⟩)
    (hb : ((w.translate w.cur w.meIss.die w.me.ctx 0x50000 false false w.me.priv).1.physRead 0 0x50000 32).2 =
      .ok (Machine.leBytes 32 (recordAt join).toNat))
    (hr : recordAt join = BitVec.ofNat 256 (Machine.leNat (Machine.leBytes 32 (recordAt join).toNat)))
    (hc : recCptr (recordAt join) % 4 = 0 ∧ recFptr (recordAt join) % 8 = 0 ∧ (recordAt join).toNat / 2 ^ 227 = 0 ∧
      (recordAt join).toNat / 2 ^ 176 % 2 ^ 16 = 0 ∧ (recordAt join).toNat / 2 ^ 147 % 2 ^ 5 = 0 ∧ (recordAt join).toNat / 2 ^ 121 % 2 ^ 7 = 0 ∧
      (recordAt join).toNat / 2 ^ 57 % 2 ^ 7 = 0)
    (hl : ((w.translate w.cur w.meIss.die w.me.ctx 0x50000 false false w.me.priv).1.physRead 0 0x50000 32).1.makeLive
        ((w.translate w.cur w.meIss.die w.me.ctx 0x50000 false false w.me.priv).1.physRead 0 0x50000 32).1.me.ctx (recCbix (recordAt join)) =
      .ok ((w.translate w.cur w.meIss.die w.me.ctx 0x50000 false false w.me.priv).1.physRead 0 0x50000 32).1) :
    Validates w 0x50000 ((w.translate w.cur w.meIss.die w.me.ctx 0x50000 false false w.me.priv).1.physRead 0 0x50000 32).1 (recordAt join) :=
  ⟨_, _, ⟨0x50000, 0, false⟩, _, near h.1 h.2.1 (pair h.2.2) nofun, pair hb, hr, hc.1, hc.2.1, hc.2.2.1, hc.2.2.2.1, hc.2.2.2.2.1, hc.2.2.2.2.2.1,
    hc.2.2.2.2.2.2, hl⟩

/-- The machine after the record at 0x50000 has been read. -/
abbrev validated (w : State) : State :=
  ((w.translate w.cur w.meIss.die w.me.ctx 0x50000 false false w.me.priv).1.physRead 0 0x50000 32).1

end Sys2Proof.Tests
end

