-- ==== Sys2Proof/Tests/WitnessNodes.lean ====
section
/-! SUPPORT. States and operands that meet the hypotheses of the statements about nodes, clause by clause. -/

namespace Sys2Proof.Tests

set_option Elab.async false

open Sys2Proof Sys2Proof.Machine Sys2Proof.Claim

/-- A node word: opcode, FMT, MOD, IN, SEQ, OPERAND, DEST0 (Table 6.8). -/
def nodeWord (opc fmt mod inp : Nat) (seq operand dest0 : Nat := 0) : Nat :=
  opc * 2 ^ 120 + fmt * 2 ^ 116 + mod * 2 ^ 112 + inp * 2 ^ 108 + seq * 2 ^ 96 + operand * 2 ^ 64 + dest0 * 2 ^ 32

/-- A machine with one node, node 0 of element 0 of plane 0, whose operands are zeros that lie ready; the plane as changed. -/
def nodeAt (w : Nat) (f : Plane → Plane := id) (s : State := State.reset) : State :=
  { s.withNodeWord w with planes := (s.withNodeWord w).planes.put 0 (f ((s.withNodeWord w).plane 0)) }

/-- A frame, and a firing when there is none. -/
def frame0 : Frame := ⟨0, 0, 0, .iter, 0#6, [], none, none, none, [], false, false, [], []⟩
def noFire : Fire := ⟨0, 0, 0, 0, Plane.reset, frame0, Decode.nodeBody 0, noOperand, noOperand, noOperand, ⟨0, 0#32, 0⟩⟩

/-- The firing of a node at the site. -/
def fireOf (s : State) (n : NodeBody) : Fire := (s.ready n).getD noFire

theorem fire_there {s : State} {n : NodeBody} (h : (s.ready n).isSome = true) : s.ready n = some (fireOf s n) := by
  obtain ⟨a, h⟩ := Option.isSome_iff_exists.mp h
  simp [fireOf, h]

/-- A node that is ready and does not skip. -/
def isReady (w : Nat) : Bool :=
  ((nodeAt w).ready (Decode.nodeBody w)).isSome && ((nodeAt w).skipResult (fireOf (nodeAt w) (Decode.nodeBody w))).isNone

theorem ready_there {w : Nat} (h : isReady w = true) : ∃ a, Ready (nodeAt w) (Decode.nodeBody w) a := by
  simp only [isReady, Bool.and_eq_true, Option.isNone_iff_eq_none] at h
  exact ⟨_, fire_there h.1, h.2⟩

/-! IntegerNodesComputeEachElement, FloatNodesRoundOnce, ComparisonAndPredicateNodes, LanesMoveReduceAndPack,
ConversionsAndTables: the ends of the ranges of FMT, MOD and OPERAND that their clauses name. -/

theorem witness_integer_node (w : Nat) (h : w = nodeWord 0x00 0 0 0xC ∨ w = nodeWord 0x04 7 0 0xC 0 0x3F) :
    (Decode.nodeBody w).fmt.toNat < 8 ∧ ∃ a, Ready (nodeAt w) (Decode.nodeBody w) a := by
  rcases h with rfl | rfl <;> exact ⟨by decide +kernel, ready_there (by decide +kernel)⟩

theorem witness_float_node (w : Nat) (h : w = nodeWord 0x20 8 0 0xC ∨ w = nodeWord 0x2B 10 0 0x8 ∨ w = nodeWord 0x23 11 4 0xC 0 0x3F) :
    8 ≤ (Decode.nodeBody w).fmt.toNat ∧ (Decode.nodeBody w).fmt.toNat ≤ 11 ∧ ∃ a, Ready (nodeAt w) (Decode.nodeBody w) a := by
  rcases h with rfl | rfl | rfl <;> exact ⟨by decide +kernel, by decide +kernel, ready_there (by decide +kernel)⟩

theorem witness_compare (w : Nat) (h : w = nodeWord 0x40 7 5 0xC ∨ w = nodeWord 0x40 11 7 0xC) :
    (Decode.nodeBody w).fmt.toNat < 12 ∧ ((Decode.nodeBody w).fmt.toNat < 8 → (Decode.nodeBody w).mod.toNat < 6) ∧
    (Decode.nodeBody w).mod.toNat < 8 ∧ ∃ a, Ready (nodeAt w) (Decode.nodeBody w) a := by
  rcases h with rfl | rfl <;> exact ⟨by decide +kernel, by decide +kernel, by decide +kernel, ready_there (by decide +kernel)⟩

/-- SEL, MAND, MNOT and ANY. -/
theorem witness_predicates (w : Nat) (h : w = nodeWord 0x41 10 0 0xE ∨ w = nodeWord 0x42 0 0 0xC ∨ w = nodeWord 0x44 0 0 0x8 ∨ w = nodeWord 0x45 0 0 0x8) :
    ∃ a, Ready (nodeAt w) (Decode.nodeBody w) a := by rcases h with rfl | rfl | rfl | rfl <;> exact ready_there (by decide +kernel)

theorem witness_mnot : (Decode.nodeBody (nodeWord 0x44 0 0 0x8)).hasR = false ∧ (Decode.nodeBody (nodeWord 0x44 0 0 0x8)).hasImm = false := by
  decide +kernel

/-- LPERM and LROT of 64-bit elements, LRED and LSCAN of either width. -/
theorem witness_lanes (w : Nat) (h : w = nodeWord 0x47 7 0 0xC ∨ w = nodeWord 0x49 3 0 0x9 0 7 ∨ w = nodeWord 0x4A 11 0 0x8 0 2 ∨ w = nodeWord 0x4B 2 0 0x8) :
    (NodeCheck.width (Decode.nodeBody w).fmt.toNat = 32 ∨ NodeCheck.width (Decode.nodeBody w).fmt.toNat = 64) ∧
    (Decode.nodeBody w).fmt.toNat < 12 ∧ (Decode.nodeBody w).operand.toNat % 4 ≤ 3 ∧ ∃ a, Ready (nodeAt w) (Decode.nodeBody w) a := by
  rcases h with rfl | rfl | rfl | rfl <;> exact ⟨by decide +kernel, by decide +kernel, by decide +kernel, ready_there (by decide +kernel)⟩

/-- PACK and UNPACK at the last part of a vector. -/
theorem witness_pack (w : Nat) (h : w = nodeWord 0x51 0 0 0xC 0 3 ∨ w = nodeWord 0x52 8 0 0x8 0 1) :
    NodeCheck.width (Decode.nodeBody w).fmt.toNat < 32 ∧
    (Decode.nodeBody w).operand.toNat % 16 < 32 / NodeCheck.width (Decode.nodeBody w).fmt.toNat ∧ ∃ a, Ready (nodeAt w) (Decode.nodeBody w) a := by
  rcases h with rfl | rfl <;> exact ⟨by decide +kernel, by decide +kernel, ready_there (by decide +kernel)⟩

/-- CVT from f64, a direct LUT, and an interpolated one of two entries. -/
theorem witness_tables (w : Nat) (h : w = nodeWord 0x50 0 0 0x8 0 11 ∨ w = nodeWord 0x53 7 0 0x8 0 0x0F0000 ∨ w = nodeWord 0x53 8 0 0x8 0 0x110000) :
    (Decode.nodeBody w).fmt.toNat < 12 ∧ ((Decode.nodeBody w).operand.getLsbD 20 = true → 8 ≤ (Decode.nodeBody w).fmt.toNat ∧
      1 ≤ (Decode.nodeBody w).operand.toNat / 65536 % 16) ∧ ∃ a, Ready (nodeAt w) (Decode.nodeBody w) a := by
  rcases h with rfl | rfl | rfl <;> exact ⟨by decide +kernel, by decide +kernel, ready_there (by decide +kernel)⟩

/-! RoundingIsCorrect: one third to f16 and bf16, and 2^16 to f16 above its range. -/

theorem witness_round_inside : |Claim.q (.fin true 1 3)| ≤ qOf (Num.fmtOf 8) (Num.maxFinite (Num.fmtOf 8)) ∧
    |Claim.q (.fin false 1 3)| ≤ qOf (Num.fmtOf 9) (Num.maxFinite (Num.fmtOf 9)) := by decide +kernel

theorem witness_round_outside : (2 : ℚ) ^ ((Num.fmtOf 8).bias + 1) ≤ |Claim.q (.fin true (2 ^ 16) 1)| := by decide +kernel

/-! RoutingNodesSendTheirLanes: MERGE with P all true, all false, neither, and both. -/

/-- An operand of a value and a mask. -/
def op (v : Vec) (m : Mask) (kind : BitVec 4 := 0) : Operand := ⟨v, m, kind⟩

/-- MERGE with P, and with L or R as given. -/
def merging (q : Operand) (l r : Bool) : State :=
  nodeAt (nodeWord 0x61 2 0 0xE) (fun p => { p with
    slots := ((if l then [(slotKey 0 0 0 0, op 5 0xFFFF)] else []) ++ (if r then [(slotKey 0 0 1 0, op 6 0xFFFF)] else []) ++ [(slotKey 0 0 2 0, q)]) })

theorem witness_merge (q : Operand) (l r : Bool) (h : (q = op (BitVec.allOnes 512) 0xFFFF 1 ∧ l = true ∧ r = false) ∨
      (q = op 0 0xFFFF 1 ∧ l = false ∧ r = true) ∨ (q = op 0 0 1 ∧ l = false ∧ r = false) ∨ (q = op 1 0xFFFF 1 ∧ l = true ∧ r = true)) :
    (Decode.nodeBody (nodeWord 0x61 2 0 0xE)).inp = 0b1110#4 ∧ (Decode.nodeBody (nodeWord 0x61 2 0 0xE)).fire = 0#4 ∧
    (merging q l r).mayFire = some frame0 ∧ ((merging q l r).plane 0).slots.find (slotKey 0 0 2 0) = some q ∧
    ((∃ i < 16, True' q i) → ((merging q l r).plane 0).slots.find (slotKey 0 0 0 0) = some (op 5 0xFFFF)) ∧
    ((∃ i < 16, False' q i) → ((merging q l r).plane 0).slots.find (slotKey 0 0 1 0) = some (op 6 0xFFFF)) := by
  unfold True' False'
  rcases h with h | h | h | h <;> obtain ⟨rfl, rfl, rfl⟩ := h <;> decide +kernel

/-! FramesBeginLoopCallAndEnd. -/

/-- An iteration source of 2 by 3 by 4 draws. -/
def iter0 : IterSt := ⟨2, 3, 4, 1, true, false, none, 0, false, 0⟩

theorem witness_entry : let s := nodeAt (nodeWord 0x65 2 0 0x8) (fun p => { p with iter := some iter0 })
    s.mayFire = some frame0 ∧ (s.plane 0).slots.find (slotKey 0 0 0 0) = some (op 0 0xFFFF 2) ∧ (s.plane 0).iter = some iter0 := by decide +kernel

/-- EXIT, DRAWEND and RETURN where no part of the frame has ended, and where that of another copy has. -/
theorem witness_exit (l : List Nat) (h : l = [] ∨ l = [5]) : ∃ a, let s := nodeAt (nodeWord 0x66 2 0 0x8) (fun p => { p with frames := [(0, { frame0 with ended := l })] })
    s.ready (Decode.nodeBody (nodeWord 0x66 2 0 0x8)) = some a ∧ a.fr.ended = l := by
  rcases h with rfl | rfl <;> exact ⟨fireOf _ _, fire_there (by decide +kernel), by decide +kernel⟩

/-- LOOP with a successor, without one and without a free identifier, and with one free. -/
theorem witness_loop (succ : Option (Nat × Nat)) (free : List Nat) (h : (succ = some (1, 7) ∧ free = []) ∨ (succ = none ∧ free = []) ∨ (succ = none ∧ free = [1023])) :
    ∃ a, let s := nodeAt (nodeWord 0x67 2 0 0x8) (fun p => { p with frames := [(0, { frame0 with succ := succ })], free := free })
    s.ready (Decode.nodeBody (nodeWord 0x67 2 0 0x8)) = some a ∧ a.fr.succ = succ ∧ s.freeIds a.pk = free := by
  rcases h with h | h | h <;> obtain ⟨rfl, rfl⟩ := h <;> exact ⟨fireOf _ _, fire_there (by decide +kernel), by decide +kernel, by decide +kernel⟩

/-- SPAWN into virtual plane 1 of the region at (0,0), which is plane 1 when it is there. -/
def spawning (granted : Bool) (callee : Option Plane) : State :=
  let s := nodeAt (nodeWord 0x69 2 0 0x8) (fun p => { p with ctx := if granted then 1 else 2, binds := [(0, BitVec.ofNat 128 (2 + 2 ^ 32))] })
    (world { more := [(0x30024, 4, 2 ^ 31 + 3 * 2 ^ 11)] })
  { s with planes := s.planes ++ (match callee with | some c => [(1, { c with ctx := 1, vp := 1 })] | none => []) }

theorem witness_spawn (granted : Bool) (callee : Option Plane) (h : (granted = false ∧ callee = none) ∨ (granted = true ∧ callee = none) ∨
      (granted = true ∧ callee = some Plane.reset) ∨ (granted = true ∧ callee = some { Plane.reset with state := .active }) ∨
      (granted = true ∧ callee = some { Plane.reset with state := .active, free := [4] })) : ∃ a, let s := spawning granted callee
    s.ready (Decode.nodeBody (nodeWord 0x69 2 0 0x8)) = some a ∧
    ((s.plane a.pk).binds.get ((Decode.nodeBody (nodeWord 0x69 2 0 0x8)).dest0.toNat / 2 ^ 24 % 32) 0#128).toNat = 2 + 2 ^ 32 ∧
    s.regionGranted (s.plane a.pk).ctx 0 0 0 1 = granted ∧
    (granted = true → s.findPlane (s.plane a.pk).ctx 0 0 0 1 = callee.map (fun _ => 1)) ∧
    ∀ c ∈ callee, (s.plane 1).state = c.state ∧ s.freeIds 1 = c.free := by
  rcases h with h | h | h | h | h <;> obtain ⟨rfl, rfl⟩ := h <;>
    exact ⟨fireOf _ _, fire_there (by decide +kernel), by decide +kernel, by decide +kernel, by decide +kernel, by decide +kernel⟩

/-! QueuesBarriersFlagsAndTraps: TSEND of no lane and of one; TRAPN with P false and true. -/

theorem witness_tsend (m : Mask) (h : m = 0 ∨ m = 0x8000) : ∃ a,
    let s := nodeAt (nodeWord 0x6A 2 0 0x8) (fun p => { p with slots := [(slotKey 0 0 0 0, op 0 m)] })
    s.ready (Decode.nodeBody (nodeWord 0x6A 2 0 0x8)) = some a ∧ (Some' a.l ↔ m ≠ 0) := by
  unfold Some'
  rcases h with rfl | rfl <;> exact ⟨fireOf _ _, fire_there (by decide +kernel), by decide +kernel⟩

theorem witness_trapn (v : Vec) (h : v = 0 ∨ v = 1) : ∃ a,
    let s := nodeAt (nodeWord 0x9A 2 0 0xA) (fun p => { p with
      slots := [(slotKey 0 0 0 0, op 0 0xFFFF), (slotKey 0 0 2 0, op v 0xFFFF 1)] })
    s.ready (Decode.nodeBody (nodeWord 0x9A 2 0 0xA)) = some a ∧ (Decode.nodeBody (nodeWord 0x9A 2 0 0xA)).hasP = true ∧
    ((∃ i < 16, True' a.pr i) ↔ v ≠ 0) := by
  unfold True'
  rcases h with rfl | rfl <;> exact ⟨fireOf _ _, fire_there (by decide +kernel), by decide +kernel, by decide +kernel⟩

/-! PlaneNodesShiftReadAndWrite: PSHIFT to the east at the west edge of an 8 by 8 lattice, wrapping, reflecting, and filling. -/

/-- PSHIFT of a mode, with R when it has one. -/
def shiftWord (mode : Nat) : Nat := nodeWord 0x70 2 mode (if mode = 3 then 0xC else 0x8) (8 * 31 + 2)
def shifting (mode : Nat) : State := nodeAt (shiftWord mode)

theorem witness_pshift (mode : Nat) (h : mode = 0 ∨ mode = 2 ∨ mode = 3) : let s := shifting mode; let n := Decode.nodeBody (shiftWord mode)
    n.inp.getLsbD 3 = true ∧ n.fire = 0#4 ∧ n.inp.getLsbD 0 = false ∧ s.mayFire = some frame0 ∧ (s.plane 0).lattice 0 0 0 = (0, 0, 8, 8) ∧
    n.mod.toNat % 4 = mode ∧ towards (n.seq.toNat % 8) = (1, 0) ∧ (s.plane 0).slots.find (slotKey 0 0 0 0) = some (op 0 0xFFFF) ∧
    (mode = 3 → n.inp.getLsbD 2 = true ∧ (s.plane 0).slots.find (slotKey 0 0 1 0) = some (op 0 0xFFFF)) := by
  rcases h with rfl | rfl | rfl <;> decide +kernel

theorem witness_pshift_fill : NeedsFill 3 8 8 (1, 0) 0 0 := ⟨0, by decide, fun gx gy wait h => by simp [SourceOf] at h⟩

theorem witness_pzrot (len : Nat) (h : len = 2 ∨ len = 32) : ∃ a, let n := Decode.nodeBody (nodeWord 0x71 2 0 0x8 0 len)
    (nodeAt (nodeWord 0x71 2 0 0x8 0 len)).ready n = some a ∧ len = n.operand.toNat % 64 ∧ 2 ≤ len := by
  rcases h with rfl | rfl <;> exact ⟨fireOf _ _, fire_there (by decide +kernel), by decide +kernel, by decide⟩

/-! QuantisePathFiresInStreamOrder: blocks of two tokens, at their first and at their second. -/

/-- Node 0 with two frames of the source in its plane, frame 0 at the site, and a place in the stream; L of both lies ready, and R
of frame 1. -/
def pathAt (w itix next : Nat) (cur : BitVec 64) (tid : BitVec 512) : State :=
  nodeAt w (fun p => { p with
    frames := [(0, { frame0 with itix := itix }), (1, { frame0 with itix := itix + 1, order := 1 })]
    slots := [(slotKey 0 0 0 0, op 0 0xFFFF), (slotKey 0 1 0 0, op 1 0xFFFF), (slotKey 0 1 1 0, op 0x3F800000 0xFFFF)]
    quant := [(0, ⟨next, cur, tid, 0⟩)] })

theorem witness_bmax (itix next : Nat) (cur : BitVec 64) (h : (itix = 0 ∧ next = 1 ∧ cur = 0) ∨ (itix = 0 ∧ next = 0 ∧ cur = 0) ∨
      (itix = 1 ∧ next = 1 ∧ cur = 0x7FFFFFFF)) : ∃ a, let s := pathAt (nodeWord 0x54 10 0 0x8 0 5) itix next cur 0
    s.ready (Decode.nodeBody (nodeWord 0x54 10 0 0x8 0 5)) = some a ∧ (InTurn s a ↔ itix = next) ∧
    (if a.fr.itix % blockLen 5 = 0 then 0 else (pathState s a).cur.toNat) < 2 ^ 31 := by
  unfold InTurn
  rcases h with h | h | h <;> obtain ⟨rfl, rfl, rfl⟩ := h <;>
    exact ⟨fireOf _ _, fire_there (by decide +kernel), by decide +kernel, by decide +kernel⟩

theorem witness_delay : ∃ a, let s := pathAt (nodeWord 0x55 10 0 0x8 0 2) 0 0 0 0
    s.ready (Decode.nodeBody (nodeWord 0x55 10 0 0x8 0 2)) = some a ∧ (pathState s a).next = a.fr.itix ∧ a.fr.itix % 2 = 0 ∧
    ∀ k < 2, ∃ f < 2, (s.plane a.pk).frameAt (a.fr.itix + k) = some f ∧ ((s.plane a.pk).slots.find (slotKey a.node f 0 a.e)).isSome = true :=
  ⟨fireOf _ _, fire_there (by decide +kernel), by decide +kernel, by decide +kernel, by decide +kernel⟩

theorem witness_bfly (j itix : Nat) (h : (j = 3 ∧ itix = 0) ∨ (j = 4 ∧ itix = 0) ∨ (j = 4 ∧ itix = 1)) :
    ∃ a, let w := nodeWord 0x56 10 0 0x8 0 (0x50 + j); let s := pathAt w itix itix 0 0
    s.ready (Decode.nodeBody w) = some a ∧ (pathState s a).next = a.fr.itix ∧ (Decode.nodeBody w).operand.toNat % 16 = j ∧
    (4 ≤ j → a.fr.itix % blockLen ((Decode.nodeBody w).operand.toNat / 16 % 16) / 2 ^ (j - 4) % 2 = itix) ∧
    (4 ≤ j → itix = 0 → (s.plane a.pk).frameAt (a.fr.itix + 2 ^ (j - 4)) = some 1 ∧
      (s.plane a.pk).slots.find (slotKey a.node 1 0 a.e) = some (op 1 0xFFFF)) := by
  rcases h with h | h | h <;> obtain ⟨rfl, rfl⟩ := h <;>
    exact ⟨fireOf _ _, fire_there (by decide +kernel), by decide +kernel, by decide +kernel, by decide +kernel, by decide +kernel⟩

/-- A valid identifier of a format, a scale format and blocks of 32. -/
def tidOf (fmt sc : Nat) : BitVec 512 := BitVec.ofNat 512 (fmt * 2 ^ 64 + 2 ^ 79 + 5 * 2 ^ 80 + sc * 2 ^ 84)

theorem witness_block (w : Nat) (fmt sc : Nat) (h : (w = nodeWord 0x57 10 0 0xC ∧ fmt = 12 ∧ sc = 1) ∨ (w = nodeWord 0x57 10 0 0xC ∧ fmt = 16 ∧ sc = 1) ∨
      (w = nodeWord 0x58 8 0 0xC ∧ fmt = 0 ∧ sc = 0) ∨ (w = nodeWord 0x58 10 0 0xC ∧ fmt = 15 ∧ sc = 4)) :
    ∃ a r, let s := pathAt w 0 0 0 (tidOf fmt sc)
    BlockReady s (Decode.nodeBody w) a 2 1 r ∧ (pathState s a).tid.toNat / 2 ^ 64 % 32 = fmt ∧ (pathState s a).tid.toNat / 2 ^ 84 % 16 = sc ∧
    8 ≤ (Decode.nodeBody w).fmt.toNat ∧ (Decode.nodeBody w).fmt.toNat ≤ 10 ∧ (if 16 ≤ fmt then 8 else NodeCheck.width fmt) ≤ 32 := by
  refine ⟨{ noFire with
    p := (pathAt w 0 0 0 (tidOf fmt sc)).plane 0, fr := { frame0 with itix := 0 }, n := Decode.nodeBody w, l := op 0 0xFFFF }, op 0x3F800000 0xFFFF, ?_⟩
  unfold BlockReady BlockPresent InTurn
  rcases h with h | h | h | h <;> obtain ⟨rfl, rfl, rfl⟩ := h <;> decide +kernel

theorem witness_block_invalid : ∃ a r, let w := nodeWord 0x57 10 0 0xC; let s := pathAt w 0 0 0 (5#512 <<< 80)
    BlockPresent s (Decode.nodeBody w) a 2 1 r ∧ (pathState s a).tid.getLsbD 79 = false := by
  refine ⟨{ noFire with
    p := (pathAt (nodeWord 0x57 10 0 0xC) 0 0 0 (5#512 <<< 80)).plane 0, fr := { frame0 with itix := 0 }, n := Decode.nodeBody (nodeWord 0x57 10 0 0xC)
    l := op 0 0xFFFF }, op 0x3F800000 0xFFFF, ?_⟩
  unfold BlockPresent InTurn; decide +kernel

/-! MemoryNodesSendTheirRequest: ORDT of the second chain; LDL and STL of 16 elements of 32 bits at offset 0, and with the first
misaligned or beyond 0x6FFF. -/

theorem witness_ordt : ∃ a, (nodeAt (nodeWord 0x87 2 0 0x8 0x80)).ready (Decode.nodeBody (nodeWord 0x87 2 0 0x8 0x80)) = some a ∧
    (Decode.nodeBody (nodeWord 0x87 2 0 0x8 0x80)).seq.toNat / 64 ≠ 0 := ⟨fireOf _ _, fire_there (by decide +kernel), by decide +kernel⟩

/-- LDL or STL with the first offset given. -/
def localAt (v : Vec) : State :=
  nodeAt (nodeWord 0x85 10 0 0xC) (fun p => { p with slots := [(slotKey 0 0 0 0, op v 0xFFFF), (slotKey 0 0 1 0, op 0 0xFFFF)] })

theorem lane_zero (i : Nat) : lane 0#512 i = 0 := by simp [lane, elem]

theorem witness_local_runs : ∃ a, (localAt 0).ready (Decode.nodeBody (nodeWord 0x85 10 0 0xC)) = some a ∧
    8 ≤ NodeCheck.width (Decode.nodeBody (nodeWord 0x85 10 0 0xC)).fmt.toNat ∧ Memory.wf (localAt 0).edata = true ∧
    LocalLive a false 15 ∧ LocalLive a true 15 ∧ ∀ j c, ¬LocalFaults a (localOffset a j) c := by
  refine ⟨fireOf (localAt 0) (Decode.nodeBody (nodeWord 0x85 10 0 0xC)), fire_there (by decide +kernel), by decide +kernel, by decide +kernel, ?_, ?_, ?_⟩
  · unfold LocalLive LiveRequest On; decide +kernel
  · unfold LocalLive LiveRequest On; decide +kernel
  · intro j c h
    have hv : (fireOf (localAt 0) (Decode.nodeBody (nodeWord 0x85 10 0 0xC))).l.val = 0#512 := by decide +kernel
    have ho : (fireOf (localAt 0) (Decode.nodeBody (nodeWord 0x85 10 0 0xC))).n.operand.toNat = 0 := by decide +kernel
    have hw : NodeCheck.width (fireOf (localAt 0) (Decode.nodeBody (nodeWord 0x85 10 0 0xC))).n.fmt.toNat = 32 := by decide +kernel
    generalize fireOf (localAt 0) (Decode.nodeBody (nodeWord 0x85 10 0 0xC)) = a at *
    simp [LocalFaults, localOffset, hv, ho, hw, lane_zero] at h

theorem witness_local_faults (o c : Nat) (h : (o = 1 ∧ c = 4) ∨ (o = 0x7000 ∧ c = 5)) :
    ∃ a, (localAt (BitVec.ofNat 512 o)).ready (Decode.nodeBody (nodeWord 0x85 10 0 0xC)) = some a ∧
    LocalLive a false 0 ∧ LocalLive a true 0 ∧ LocalFaults a (localOffset a 0) c := by
  unfold LocalLive LiveRequest On LocalFaults
  rcases h with ⟨rfl, rfl⟩ | ⟨rfl, rfl⟩ <;> exact ⟨fireOf _ _, fire_there (by decide +kernel), by decide +kernel, by decide +kernel, by decide +kernel⟩

/-! EngineNodesQueueTheirCommands. -/

/-- An engine node in a plane of context 1, its binding 0 naming a handle, L as given, and engine context 0 as given. -/
def engineAt (w h : Nat) (l : Operand) (e : EngCtx) : State :=
  { nodeAt w (fun p => { p with ctx := 1, binds := [(0, BitVec.ofNat 128 (h * 2 ^ 64))], slots := [(slotKey 0 0 0 0, l)] })
      (world { more := [(0x30060, 2, 1)] }) with
    engs := [(0, e)]
    csrs := (world {}).csrs.put 0x400 ((world {}).csr 0 0x400 ||| 0x4000#64) }

/-- TLW on a context that is not granted, and on one of die 3 that lies in another partition; on a number not accepted, not reached, and
reached. -/
theorem witness_tlw (h : Nat) (v : Vec) (e : EngCtx) (hc : (h = 2 ^ 19 ∧ v = 0 ∧ e = ⟨0, 0, []⟩) ∨ (h = 0 ∧ v = 1 ∧ e = ⟨0, 0, []⟩) ∨
      (h = 0 ∧ v = 1 ∧ e = ⟨0, 1, []⟩) ∨ (h = 0 ∧ v = 1 ∧ e = ⟨1, 1, []⟩)) : ∃ a, let s := engineAt (nodeWord 0x97 3 0 0x8) h (op v 0xFFFF) e
    s.ready (Decode.nodeBody (nodeWord 0x97 3 0 0x8)) = some a ∧ handleOf a 0 = h ∧ (HandleFault s a.p.ctx a.p.cbix h 0x25 ↔ h ≠ 0) ∧
    (h = 0 → s.granted a.p.ctx a.p.cbix h = true ∧ s.partOfDie 0 = s.partOfCtx a.p.ctx ∧ elem a.l.val 64 0 = 1 ∧ s.engs.get (ctxKey h) ⟨0, 0, []⟩ = e) := by
  unfold HandleFault
  rcases hc with hc | hc | hc | hc <;> obtain ⟨rfl, rfl, rfl⟩ := hc <;>
    exact ⟨fireOf _ _, fire_there (by decide +kernel), by decide +kernel, by decide +kernel, by decide +kernel⟩

/-- No fault of the granted handle 0. -/
theorem witness_handle : let s := engineAt (nodeWord 0x97 3 0 0x8) 0 (op 1 0xFFFF) ⟨0, 0, []⟩; ∀ c, ¬HandleFault s 1 0 0 c := by
  intro s c h
  have h1 : s.granted 1 0 0 = true := by decide +kernel
  have h2 : s.partOfDie (0 / 2 ^ 30 % 4) = s.partOfCtx 1 := by decide +kernel
  rcases h with ⟨h, _⟩ | ⟨_, _, h, _⟩
  · rw [h1] at h; cases h
  · exact h h2

/-- A context of die 1, which lies in partition 1, where the record's context lies in partition 0. -/
theorem witness_handle_of_another_partition : let s := { engineAt (nodeWord 0x97 3 0 0x8) (2 ^ 30) (op 1 0xFFFF) ⟨0, 0, []⟩ with
      csrs := (0x203, 0x154#64) :: (0x400, 0xFFFFE514#64) :: (world {}).csrs, mem := bytesFrom (worldFields {} ++ [(0x30060, 2, 1), (0x30062, 2, 1)])
      blocks := [(blockKey 1 0, { (world {}).block 1 0 with image := blockOf (blockFields 3 ++ [(0x30060, 2, 1), (0x30062, 2, 1)]) })] }
    HandleFault s 1 0 (2 ^ 30) 0x18 := by unfold HandleFault; decide +kernel

/-- COPY with a block of zeros, with one lane off, and with a reserved bit set. -/
theorem witness_copy_node (v : Vec) (m : Mask) (h : (v = 0 ∧ m = 0xFFFF) ∨ (v = 0 ∧ m = 0x7FFF) ∨ (v = 1#512 <<< 511 ∧ m = 0xFFFF)) :
    ∃ a, let s := engineAt (nodeWord 0xA0 2 0 0x8) 0 (op v m) ⟨0, 0, []⟩
    s.ready (Decode.nodeBody (nodeWord 0xA0 2 0 0x8)) = some a ∧ s.granted a.p.ctx a.p.cbix 0 = true ∧ a.l.mask = m ∧ a.l.val.toNat % 2 ^ 64 = 0 ∧
    s.copyCause a.p.ctx a.p.cbix a.l.val.toNat 0 = if v = 0 then none else some 0x26 := by
  rcases h with h | h | h <;> obtain ⟨rfl, rfl⟩ := h <;>
    exact ⟨fireOf _ _, fire_there (by decide +kernel), by decide +kernel, by decide +kernel, by decide +kernel, by decide +kernel⟩

/-- NETW on the bridge's context 0 with 64 packets of a length, and with a block of zeros. -/
theorem witness_netw (v : Nat) (h : v = 2 ^ 398 + 2 ^ 224 ∨ v = 0) : ∃ a, let s := engineAt (nodeWord 0xA1 2 0 0x8) (2 ^ 29) (op (BitVec.ofNat 512 v) 0xFFFF) ⟨0, 0, []⟩
    s.ready (Decode.nodeBody (nodeWord 0xA1 2 0 0x8)) = some a ∧ handleOf a 0 = 2 ^ 29 ∧ s.granted a.p.ctx a.p.cbix (2 ^ 29) = true ∧
    a.l.mask = 0xFFFF#16 ∧ (WorkRequest a.l.val.toNat (2 ^ 29) ↔ v ≠ 0) := by
  unfold WorkRequest
  rcases h with rfl | rfl <;>
    exact ⟨fireOf _ _, fire_there (by decide +kernel), by decide +kernel, by decide +kernel, by decide +kernel, by decide +kernel⟩

/-- The row that frame 0 has begun in array context 0. -/
def row0 : Row := ⟨0, 0, 0, 0, 0, 0, false, [], 2, ⟨1, 0, false, 0, some (0, 0, 0, 0, 0), none, none, 0⟩, none, 0, 0, .sent⟩

theorem witness_mxst (l : Map Row) (h : l = [] ∨ l = [(7, row0)]) : ∃ a, let s := { engineAt (nodeWord 0xA4 2 0 0x8 0 0x20) 0 (op 0 0xFFFF) ⟨0, 0, []⟩ with rows := l }
    s.ready (Decode.nodeBody (nodeWord 0xA4 2 0 0x8 0 0x20)) = some a ∧
    s.rows.find? (fun x => decide (x.2.plane = a.pk ∧ x.2.bind = 0 ∧ x.2.frame = a.f ∧ x.2.gen = a.fr.gen ∧ x.2.stage = .sent)) = l.head? := by
  rcases h with rfl | rfl <;> exact ⟨fireOf _ _, fire_there (by decide +kernel), by decide +kernel⟩

/-! ConversationAndRenderNodes. -/

/-- A node in a plane with messages, rays and features. -/
def unitAt (w : Nat) (feats : BitVec 64) (cmsg : List (Nat × Nat × Nat × Nat × Vec)) (rays : Map Ray) (v : Vec) : State :=
  { nodeAt w (fun p => { p with cmsg := cmsg, slots := [(slotKey 0 0 0 0, op v 0xFFFF)] }) with csrs := [(0x400, feats)], rays := rays }

theorem witness_cvrecv (f : BitVec 64) (l : List (Nat × Nat × Nat × Nat × Vec)) (h : (f = 0 ∧ l = []) ∨ (f = 0x10000 ∧ l = []) ∨
      (f = 0x10000 ∧ l = [(31, 0, 0, 5, 0), (31, 0, 0, 4, 1)])) : ∃ a, let s := unitAt (nodeWord 0xC1 2 0 0x8 0 31) f l [] 0
    s.ready (Decode.nodeBody (nodeWord 0xC1 2 0 0x8 0 31)) = some a ∧ s.feat 16 = decide (f ≠ 0) ∧ a.p.cmsg = l ∧
    (l ≠ [] → ∀ m' ∈ a.p.cmsg, m'.1 = 31 → m' = (31, 0, 0, 4, 1) ∨ 4 < m'.2.2.2.1) ∧
    (∀ x ∈ a.p.frames, x.2.order < a.fr.order → x.2.parked = false → a.p.slots.find (slotKey a.node x.1 0 a.e) = none) := by
  rcases h with h | h | h <;> obtain ⟨rfl, rfl⟩ := h <;>
    exact ⟨fireOf _ _, fire_there (by decide +kernel), by decide +kernel, by decide +kernel, by decide +kernel, by decide +kernel⟩

/-- The ray of frame 0 through binding 0, done or not, with an error or without. -/
def ray0 (st : ReqStage) (err : Option Nat) : Ray :=
  ⟨0, 0, 0, 0, 0, Decode.nodeBody (nodeWord 0xB0 10 0 0x8), 0, 0#512, op 0 0xFFFF, ⟨0, 0, false, 0, some (0, 0, 0, 0, 0), none, none, 0⟩, [], none, (1, 2, 3, 4, 5, 1), 0, 0, err, st, false, 0⟩

/-- RAYINJ with the unit absent; with a ray out, a word that is no ray (lane 10 above 7), and a ray. -/
theorem witness_rayinj (f : BitVec 64) (r : Map Ray) (v : Vec) (h : (f = 0 ∧ r = [] ∧ v = 0) ∨ (f = 0x20000 ∧ r = [(3, ray0 .sent none)] ∧ v = 0) ∨
      (f = 0x20000 ∧ r = [] ∧ v = 8#512 <<< 320) ∨ (f = 0x20000 ∧ r = [] ∧ v = 7#512 <<< 320)) : ∃ a, let s := unitAt (nodeWord 0xB0 10 0 0x8) f [] r v
    s.ready (Decode.nodeBody (nodeWord 0xB0 10 0 0x8)) = some a ∧ s.feat 17 = decide (f ≠ 0) ∧
    ((∀ x ∈ s.rays, ¬(x.2.plane = a.pk ∧ x.2.bind = 0 ∧ x.2.elem = a.e ∧ x.2.frame = a.f ∧ x.2.gen = a.fr.gen)) ↔ r = []) ∧
    (∀ i ≤ 10, a.l.mask.getLsbD i = true) ∧ (lane a.l.val 10 < 8 ↔ v ≠ 8#512 <<< 320) := by
  rcases h with h | h | h | h <;> obtain ⟨rfl, rfl, rfl⟩ := h <;>
    exact ⟨fireOf _ _, fire_there (by decide +kernel), by decide +kernel, by decide +kernel, by decide +kernel, by decide +kernel⟩

/-- RAYRCV with no ray, one on its way, and one done, without and with an error. -/
theorem witness_rayrcv (r : Map Ray) (h : r = [] ∨ r = [(3, ray0 .sent none)] ∨ r = [(3, ray0 .done none)] ∨ r = [(3, ray0 .done (some 0x1000))]) :
    ∃ a, let s := unitAt (nodeWord 0xB1 10 0 0x8) 0x20000 [] r 0
    s.ready (Decode.nodeBody (nodeWord 0xB1 10 0 0x8)) = some a ∧
    s.rays.find? (fun x => x.2.plane = a.pk && x.2.bind = 0 && x.2.elem = a.e && x.2.frame = a.f && x.2.gen = a.fr.gen) = r.head? := by
  rcases h with rfl | rfl | rfl | rfl <;> exact ⟨fireOf _ _, fire_there (by decide +kernel), by decide +kernel⟩

/-- HGS with no record kept by node 31, and with one of one point. -/
theorem witness_hgs (l : List Keep) (h : l = [] ∨ l = [⟨0, 0, 31, 0, 0, 0, 0#512, [(0, 7, 5, 0x3F800000)]⟩]) :
    ∃ a, let s := { nodeAt (nodeWord 0xB4 8 0 0x8 0 31) with keeps := l }
    s.ready (Decode.nodeBody (nodeWord 0xB4 8 0 0x8 0 31)) = some a ∧
    s.keeps.find? (fun k => k.plane = a.pk && k.elem = a.e && k.node = 31 && k.frame = a.f && k.gen = a.fr.gen) = l.head? ∧
    (l = [] → s.keeps = []) := by
  rcases h with rfl | rfl <;> exact ⟨fireOf _ _, fire_there (by decide +kernel), by decide +kernel, by decide +kernel⟩

end Sys2Proof.Tests
end

