-- ==== Sys2Proof/Tests/Slice0.lean ====
section
/-! SUPPORT. Tests: an ill-formed term for each check of WellFormed, which it refuses, and single steps on small states. Expected
results are the spec's own examples, or are worked by hand from the rule that a comment names. -/

namespace Sys2Proof.Tests

set_option Elab.async false

open Sys2Proof Sys2Proof.Machine Sys2Proof.Claim

/-! WellFormed refuses (R137 to R139, R141 to R146). -/

/-- A node word's fields. -/
def body8 (fmt md inp fire seq operand dest0 : Nat) : NodeBody := Claim.body fmt md inp fire seq operand dest0 0

theorem test_wf_ld_n_size : WellFormed (.sLdN 1#5 2#5 3#2 0#14) = false := by decide +kernel
theorem test_wf_acquire_scope : WellFormed (.sLdacq 1#5 2#5 0#2 12#4) = false := by decide +kernel
theorem test_wf_release_scope : WellFormed (.sStrel 1#5 2#5 0#2 13#4) = false := by decide +kernel
theorem test_wf_amo_op : WellFormed (.sAmo 1#5 2#5 3#5 10#4 0#1 0#4) = false := by decide +kernel
theorem test_wf_amo_scope : WellFormed (.sAmo 1#5 2#5 3#5 9#4 0#1 15#4) = false := by decide +kernel
theorem test_wf_fence_scope : WellFormed (.sFence 14#4) = false := by decide +kernel
theorem test_wf_cvopen_scope : WellFormed (.sCvopen 1#5 2#5 3#4) = false ∧ WellFormed (.sCvopen 1#5 2#5 10#4) = false := by decide +kernel
theorem test_wf_csrrd : WellFormed (.sCsrrd 1#5 0xFFFF#16) = false := by decide +kernel
theorem test_wf_csrwr : WellFormed (.sCsrwr 1#5 0x0006#16) = false := by decide +kernel
theorem test_wf_node_fmt : WellFormed (.nIadd (body8 8 0 0xC 0 0 0 0x82000000)) = false := by decide +kernel
theorem test_wf_node_mod : WellFormed (.nCmp (body8 2 6 0xC 0 0 0 0x82000000)) = false := by decide +kernel
theorem test_wf_node_operand : WellFormed (.nPack (body8 8 0 0xC 0 0 2 0x82000000)) = false := by decide +kernel
theorem test_wf_node_seq : WellFormed (.nIadd (body8 2 0 0xC 0 1 0 0x82000000)) = false := by decide +kernel
theorem test_wf_node_ports : WellFormed (.nSel (body8 2 0 0xC 0 0 0 0x82000000)) = false := by decide +kernel
theorem test_wf_node_dests : WellFormed (.nIadd (body8 2 0 0xC 0 0 0 0x7FFFFFFF)) = false := by decide +kernel
theorem test_wf_accepts : WellFormed (.nIadd (body8 2 0 9 0 0 1 0x82000000)) = true ∧ WellFormed (.sAmo 1#5 2#5 3#5 9#4 1#1 11#4) = true := by decide +kernel

/-! Sequencer steps: a register, a predicate or the pc after one instruction on a control core whose g1, g2 … are given. -/

def regAfter (i : Instr) (regs : List Nat) (d : BitVec 5) : Option Nat :=
  match exec i (coreAt 0x30F#64 regs) with
  | .next t => some (t.g d).toNat
  | _ => none

/-- ADD wraps (R153). -/
theorem test_add_wraps : regAfter (.sAdd 1#5 1#5 2#5) [2 ^ 64 - 1, 3] 1#5 = some 2 := by decide +kernel
/-- MULH is signed, MULHN unsigned: −1 · −1 = 1, and (2^64 − 1)² = 2^128 − 2^65 + 1 (R153). -/
theorem test_mulh : regAfter (.sMulh 3#5 1#5 2#5) [2 ^ 64 - 1, 2 ^ 64 - 1] 3#5 = some 0 := by decide +kernel
theorem test_mulhn : regAfter (.sMulhn 3#5 1#5 2#5) [2 ^ 64 - 1, 2 ^ 64 - 1] 3#5 = some (2 ^ 64 - 2) := by decide +kernel
/-- −7 DIV 2 = −3 and −7 REM 2 = −1; −2^63 DIV −1 = −2^63; DIVN by 0 = 2^64 − 1 (R153). -/
theorem test_div_truncates : regAfter (.sDiv 3#5 1#5 2#5) [2 ^ 64 - 7, 2] 3#5 = some (2 ^ 64 - 3) := by decide +kernel
theorem test_div_corner : regAfter (.sDiv 3#5 1#5 2#5) [2 ^ 63, 2 ^ 64 - 1] 3#5 = some (2 ^ 63) := by decide +kernel
theorem test_divn_zero : regAfter (.sDivn 3#5 1#5 0#5) [5] 3#5 = some (2 ^ 64 - 1) := by decide +kernel
theorem test_rem_sign : regAfter (.sRem 3#5 1#5 2#5) [2 ^ 64 - 7, 2] 3#5 = some (2 ^ 64 - 1) := by decide +kernel
/-- Writes to g0 are discarded (R131). -/
theorem test_g0 : regAfter (.sAdd 0#5 1#5 1#5) [5] 0#5 = some 0 := by decide +kernel
/-- ADDI sign-extends its 16 bits (R132, R155); LDHI keeps the rest (R155). -/
theorem test_addi_negative : regAfter (.sAddi 2#5 1#5 0xFFFF#16) [0] 2#5 = some (2 ^ 64 - 1) := by decide +kernel
theorem test_ldhi : regAfter (.sLdhi 1#5 3#2 0x1234#16) [0x7777666655554444] 1#5 = some 0x1234666655554444 := by decide +kernel
/-- CLZ of 0 is 64 (R153). -/
theorem test_clz_zero : regAfter (.sClz 2#5 1#5) [0] 2#5 = some 64 := by decide +kernel
theorem test_clz_one : regAfter (.sClz 2#5 1#5) [1] 2#5 = some 63 := by decide +kernel

/-- JMP −1 from address 16 goes back by one word, to 12 (R160). -/
theorem test_jmp_back : (match exec (.sJmp (BitVec.ofNat 26 (2 ^ 26 - 1))) { coreAt 0x30F#64 [] with units := [(256, { UnitSt.reset with status := .running, priv := true, pc := 16#57 })] } with
    | .next t => some t.me.pc.toNat
    | _ => none) = some 12 := by decide +kernel

/-- A store of a byte and a load of 8 bytes are little-endian (R79). -/
theorem test_store_byte : (match exec (.sSt 2#5 1#5 0#2 1#14) (coreAt 0x30F#64 [0x2000, 0x1FF]) with
    | .next t => Memory.read t.mem 0x2001
    | _ => 0#8) = 0xFF#8 := by decide +kernel

/-! Node firings: lane i of the token that a node sends to DEST0 = 0x8200_0000 for L, R and P as given, and its frame's flags. -/

def fired (i : NodeBody → Instr) (w : Nat) (l r : Operand) : Option (Flight × BitVec 6) :=
  let s := nodeAt (w + 0x82000000 * 2 ^ 32) (fun p => { p with
    slots := [(slotKey 0 0 0 0, l), (slotKey 0 0 1 0, r)] })
  match exec (i (Decode.nodeBody (w + 0x82000000 * 2 ^ 32))) s with
  | .next t => t.flights.head?.map (fun f => (f, ((t.plane 0).frames.find 0).elim 0#6 (fun x => x.flags)))
  | _ => none

def laneOut (i : NodeBody → Instr) (w : Nat) (l r : Operand) (k : Nat) : Option Nat := (fired i w l r).map (fun x => lane x.1.pay k)
def flagsOut (i : NodeBody → Instr) (w : Nat) (l r : Operand) : Option Nat := (fired i w l r).map (fun x => x.2.toNat)

/-- A vector of one lane repeated. -/
def allLanes (x : Nat) : Operand := op (BitVec.ofNat 512 ((List.range 16).foldl (fun a i => a + x * 2 ^ (32 * i)) 0)) 0xFFFF

/-- `IADD.i32 1 in=l` (the spec's example after R190). -/
theorem test_iadd_immediate : laneOut .nIadd (nodeWord 0x00 2 0 9 0 1) (allLanes 41) noOperand 15 = some 42 := by decide +kernel
/-- i8 elements wrap by themselves: 255 + 1 (R190). -/
theorem test_iadd_i8 : laneOut .nIadd (nodeWord 0x00 0 0 0xC) (allLanes 0xFF) (allLanes 1) 0 = some 0 := by decide +kernel
/-- 1.0 − 1.0 is +0.0; 1.0 / 0.0 is infinite and raises DZ, the second flag (R21, R57). -/
theorem test_fsub_zero : laneOut .nFsub (nodeWord 0x21 10 0 0xC) (allLanes 0x3F800000) (allLanes 0x3F800000) 0 = some 0 := by decide +kernel
theorem test_fdiv_zero : laneOut .nFdiv (nodeWord 0x2A 10 0 0xC) (allLanes 0x3F800000) (allLanes 0) 0 = some 0x7F800000 ∧
    flagsOut .nFdiv (nodeWord 0x2A 10 0 0xC) (allLanes 0x3F800000) (allLanes 0) = some 2 := by decide +kernel
/-- `FRSQ.f32.rne` of 4.0 is 0.5 and raises no flag (the spec's example after R194). -/
theorem test_frsq_four : laneOut .nFrsq (nodeWord 0x28 10 0 8) (allLanes 0x40800000) noOperand 3 = some 0x3F000000 ∧
    flagsOut .nFrsq (nodeWord 0x28 10 0 8) (allLanes 0x40800000) noOperand = some 0 := by decide +kernel
/-- `CVT.f16.f32.rne` of 70,000.0 gives 0x7BFF and raises OF and NX (the spec's example after R199). -/
theorem test_cvt_overflow : (laneOut .nCvt (nodeWord 0x50 8 0 8 0 10) (allLanes 0x4788B800) noOperand 0).map (· % 2 ^ 16) = some 0x7BFF ∧
    flagsOut .nCvt (nodeWord 0x50 8 0 8 0 10) (allLanes 0x4788B800) noOperand = some (4 + 16) := by decide +kernel
/-- `LPERM.n32` with R.lane[i] = 15 − i reverses the lanes (the spec's example after R205). -/
theorem test_lperm_reverses : laneOut .nLperm (nodeWord 0x47 6 0 0xC)
    (op (BitVec.ofNat 512 ((List.range 16).foldl (fun a i => a + (100 + i) * 2 ^ (32 * i)) 0)) 0xFFFF)
    (op (BitVec.ofNat 512 ((List.range 16).foldl (fun a i => a + (15 - i) * 2 ^ (32 * i)) 0)) 0xFFFF) 0 = some 115 := by decide +kernel
/-- `PACK.f16 1` places the low half of R's lane 0 in lane word 8 (the spec's example after R201). -/
theorem test_pack : (laneOut .nPack (nodeWord 0x51 8 0 0xC 0 1) (allLanes 7) (op (BitVec.ofNat 512 0xABCD1234) 0xFFFF) 8).map (· % 2 ^ 16) = some 0x1234 := by
  decide +kernel
/-- With S = 1, an f32 FADD.sr of 1.0 and 2^−24 gives 1.0 and raises NX (the spec's example after R56). -/
theorem test_stochastic : (match exec (.nFadd (Decode.nodeBody (nodeWord 0x20 10 4 0xC + 0x82000000 * 2 ^ 32)))
      (nodeAt (nodeWord 0x20 10 4 0xC + 0x82000000 * 2 ^ 32) (fun p => { p with
        seed := 1#32, slots := [(slotKey 0 0 0 0, op 0x3F800000 1), (slotKey 0 0 1 0, op 0x33800000 1)] })) with
    | .next t => (t.flights.head?.map (fun f => lane f.pay 0), ((t.plane 0).lfsr.find 0).map BitVec.toNat)
    | _ => (none, none)) = (some 0x3F800000, some 0x80200003) := by decide +kernel

/-! Traps: SVC on a control core whose TVEC is enabled goes to VEC, with TEPC the next instruction and privilege (R182, R357). -/

theorem test_svc : (match exec (.sSvc 5#7) { coreAt 0x30F#64 [] with units := [(256, { UnitSt.reset with status := .running, priv := false, pc := 8#57, tvec := 0x4001#64 })] } with
    | .next t => (t.me.pc.toNat, t.me.tepc.toNat, t.me.priv)
    | _ => (0, 0, false)) = (0x4000, 12, true) := by decide +kernel

/-- With EN clear the same record is trapped, and the core goes idle (R347). -/
theorem test_svc_disabled : (match exec (.sSvc 5#7) { coreAt 0x30F#64 [] with units := [(256, { UnitSt.reset with status := .running, priv := false, pc := 8#57, tvec := 0x4000#64 })] } with
    | .next t => decide (t.me.status = .idle)
    | _ => false) = true := by decide +kernel

end Sys2Proof.Tests
end

