-- ==== Sys2Proof/Tests/WitnessConv.lean ====
section
/-! SUPPORT. States and operands that meet the hypotheses of the statements about conversations. The module's number is open, so
the handles are those of module `Config.moduleNumber`, whatever it is. -/

namespace Sys2Proof.Tests

set_option Elab.async false

open Sys2Proof Sys2Proof.Machine Sys2Proof.Claim

/-- Fields of a module's handle of slot 0. -/
theorem handle_bits (m : Nat) (hm : m < 2 ^ 12) : bits (m * 2 ^ 52) 51 38 = 0 ∧ bits (m * 2 ^ 52) 37 30 = 0 ∧ bits (m * 2 ^ 52) 63 52 = m := by
  simp only [bits]; omega

theorem handle_small (m : Nat) (hm : m < 2 ^ 12) : m * 2 ^ 52 < 2 ^ 64 := by omega

/-- It names slot 0. -/
theorem live_handle (s : State) (m : Nat) (hm : m = Config.moduleNumber.toNat) (ho : (s.conv 0).open_ = true) (hg : (s.conv 0).gen = 0#8) :
    s.live? (m * 2 ^ 52) = some (0, s.conv 0) := by
  obtain ⟨h1, h2, h3⟩ := handle_bits m (hm ▸ Config.moduleNumber.isLt)
  generalize m * 2 ^ 52 = h at h1 h2 h3
  simp [State.live?, convKey, h1, h2, h3, ho, hg, ← hm]

/-- A word that is the handle of slot 0 of die 0, generation 0. -/
def IsHandle (x : Word) : Prop := x.toNat = Config.moduleNumber.toNat * 2 ^ 52

theorem word_there (n : Nat) (h : n < 2 ^ 64) : ∃ x : Word, x.toNat = n :=
  ⟨BitVec.ofNat 64 n, (BitVec.toNat_ofNat _ _).trans (Nat.mod_eq_of_lt h)⟩

theorem handle_there : ∃ x, IsHandle x := word_there _ (handle_small _ Config.moduleNumber.isLt)

/-- One such word. -/
noncomputable def handle0 : Word := Classical.choose handle_there

theorem handle0_is : IsHandle handle0 := Classical.choose_spec handle_there

theorem live_word (s : State) (x : Word) (hx : IsHandle x) (ho : (s.conv 0).open_ = true) (hg : (s.conv 0).gen = 0#8) :
    s.live? x.toNat = some (0, s.conv 0) := by
  rw [hx]; exact live_handle s _ rfl ho hg

/-- A unit's registers with a word in g1. -/
def withWord (s : State) (x : Word) : State := s.setUnit s.cur { s.me with regs := s.me.regs.set 1 x }

/-- Image of two states, one role and one kind, whose one transition ends it. -/
def image0 : Nat := 1 + 2 * 2 ^ 16 + 2 ^ 24 + 2 ^ 32 + 2 ^ 48 + 2 ^ 65 + (2 ^ 31 + 2 ^ 11) * 2 ^ 512

/-- An open conversation of the image, owned by a context, its one role bound to what is given. -/
def conv0 (owner : Nat) (role : Option Nat) (eps : List Endpoint) : Conv :=
  { Conv.empty with open_ := true, scope := 6, owner := owner, imageAt := 0x70000, image := image0, roles := [role], eps := eps }

/-! ConversationsOpenAndBind. -/

/-- A record about to open a conversation. -/
def opener : State := { world { regs := [0x70000], more := [(0x70000, 68, image0)] } with csrs := (world {}).csrs.put 0x400 ((world {}).csr 0 0x400 ||| 0x10000#64) }

theorem witness_open_new : ∃ s0 s1 b w, let s := opener
    (s.g 1#5).toNat % 64 = 0 ∧ s.feat 16 = true ∧ s.freeSlots s.convDie ≠ [] ∧ 4 ≤ s.desc s.me.ctx 42 2 ∧
    s.convs.find? (fun x => x.1 / 4096 = s.convDie && x.2.open_ && x.2.owner = s.me.ctx && x.2.imageAt = (s.g 1#5).toNat) = none ∧
    (s.images s.convDie).length < 64 ∧ s.readFor s.meIss (s.g 1#5).toNat 64 = (s0, .ok b) ∧
    s0.readFor s.meIss ((s.g 1#5).toNat + 64) (4 * min 1024 (transitions (leNat b))) = (s1, .ok w) ∧ leNat (b ++ w) = image0 ∧ imageOk image0 = true :=
  ⟨_, _, _, _, by decide +kernel, by decide +kernel, by decide +kernel, by decide +kernel, by decide +kernel, by decide +kernel,
    okay [] (by decide +kernel), okay [] (by decide +kernel), by decide +kernel, by decide +kernel⟩

theorem witness_open_known : let s := { opener with convs := [(7, conv0 1 none [])] }
    s.convs.find? (fun x => x.1 / 4096 = s.convDie && x.2.open_ && x.2.owner = s.me.ctx && x.2.imageAt = (s.g 1#5).toNat) = some (7, conv0 1 none []) ∧
    s.freeSlots s.convDie ≠ [] := by decide +kernel

/-- Control core CC0 with a word in g1, about to bind role 0 to the endpoint at 0x7000: an edge port of a region at (0,0) of module m. -/
def binder (m : Nat) (x : Word) : State :=
  { coreAt 0x30F#64 [] with
    units := [(256, { UnitSt.reset with status := .running, priv := true, regs := ((regsOf [0, 0x7000]).set 1 x) })]
    convs := [(0, conv0 0 none [])]
    mem := [(0x2A, 4#8), (0x7006, BitVec.ofNat 8 (m * 4)), (0x7007, BitVec.ofNat 8 (m / 64)), (0x7018, 2#8)] }

/-- The endpoint that it reads. -/
def endpoint0 (m : Nat) : Endpoint := ⟨0, 0, 2, 0, false, m, 0, 0, 0, 0, 0, 0, 0, [], false⟩

/-- What a walk and a read give, whatever the module. -/
def bytes0 (m : Nat) : List Byte :=
  [0, 0, 0, 0, 0, 0, BitVec.ofNat 8 (m * 4), BitVec.ofNat 8 (m / 64), 0, 0, 0, 0, 0, 0, 0, 0, 0, 0, 0, 0, 0, 0, 0, 0, 2, 0, 0, 0, 0, 0, 0, 0]

set_option maxRecDepth 100000 in
theorem binder_bytes (m : Nat) (x : Word) :
    (binder m x).readFor (binder m x).meIss 0x7000 32 = (((binder m x).readFor (binder m x).meIss 0x7000 32).1, .ok (bytes0 m)) := by
  rfl

theorem bytes0_number (m : Nat) (hm : m < 2 ^ 12) : leNat (bytes0 m) = m * 2 ^ 50 + 2 ^ 193 := by
  simp [bytes0, leNat]; omega

theorem endpoint0_is (s : State) (m : Nat) (hm : m < 2 ^ 12) : s.endpointOf 0 (m * 2 ^ 50 + 2 ^ 193) = .ok (endpoint0 m) := by
  have h0 : bit (m * 2 ^ 50 + 2 ^ 193) 80 = false := by simp only [bit]; rw [beq_eq_false_iff_ne]; omega
  have h1 : bits (m * 2 ^ 50 + 2 ^ 193) 255 199 = 0 := by simp only [bits]; omega
  have h2 : bits (m * 2 ^ 50 + 2 ^ 193) 191 135 = 0 := by simp only [bits]; omega
  have h3 : bits (m * 2 ^ 50 + 2 ^ 193) 198 196 = 0 := by simp only [bits]; omega
  have h4 : bits (m * 2 ^ 50 + 2 ^ 193) 134 81 = 0 := by simp only [bits]; omega
  have h5 : bits (m * 2 ^ 50 + 2 ^ 193) 10 0 = 0 := by simp only [bits]; omega
  have h6 : bits (m * 2 ^ 50 + 2 ^ 193) 63 62 = 0 := by simp only [bits]; omega
  have h7 : bits (m * 2 ^ 50 + 2 ^ 193) 195 192 = 2 := by simp only [bits]; omega
  have h8 : bits (m * 2 ^ 50 + 2 ^ 193) 79 64 = 0 := by simp only [bits]; omega
  have h9 : bits (m * 2 ^ 50 + 2 ^ 193) 61 50 = m := by simp only [bits]; omega
  have g1 : bits (m * 2 ^ 50 + 2 ^ 193) 49 48 = 0 := by simp only [bits]; omega
  have g2 : bits (m * 2 ^ 50 + 2 ^ 193) 47 45 = 0 := by simp only [bits]; omega
  have g3 : bits (m * 2 ^ 50 + 2 ^ 193) 44 42 = 0 := by simp only [bits]; omega
  have g4 : bits (m * 2 ^ 50 + 2 ^ 193) 41 40 = 0 := by simp only [bits]; omega
  have g5 : bits (m * 2 ^ 50 + 2 ^ 193) 39 35 = 0 := by simp only [bits]; omega
  have g6 : bits (m * 2 ^ 50 + 2 ^ 193) 34 11 = 0 := by simp only [bits]; omega
  generalize m * 2 ^ 50 + 2 ^ 193 = d at *
  simp [State.endpointOf, endpoint0, h0, h1, h2, h3, h4, h5, h6, h7, h8, h9, g1, g2, g3, g4, g5, g6]

theorem endpoint0_read (s : State) (m : Nat) (hm : m < 2 ^ 12) : s.endpointOf 0 (leNat (bytes0 m)) = .ok (endpoint0 m) :=
  (congrArg (s.endpointOf 0) (bytes0_number m hm)).trans (endpoint0_is s m hm)

theorem read_endpoint (s s1 : State) (i : Issuer) (va h role : Nat) {b : List Byte} {e : Endpoint} (ha : va % 32 = 0)
    (hr : s.readFor i va 32 = (s1, .ok b)) (he : s1.endpointOf i.ctx (leNat b) = .ok e) : s.readEndpoint i va h role = (s1, .ok e) := by
  simp [State.readEndpoint, ha, hr, he]

theorem binder_reads (m : Nat) (hm : m < 2 ^ 12) (x : Word) (h : Nat) : (binder m x).readEndpoint (binder m x).meIss 0x7000 h 0 =
    (((binder m x).readFor (binder m x).meIss 0x7000 32).1, .ok (endpoint0 m)) := by
  have hc : (binder m x).meIss.ctx = 0 := rfl
  have hr := binder_bytes m x
  have he := fun s => endpoint0_read s m hm
  exact read_endpoint _ _ _ _ _ _ (by decide) hr (by rw [hc]; exact he _)

/-- An edge port of this module, with every role register of its region free. -/
theorem witness_bind_port : ∃ m x s1 e c, let s := binder m x
    s.readEndpoint s.meIss (s.g 2#5).toNat (s.g 1#5).toNat 0 = (s1, .ok e) ∧
    s.live? (s.g 1#5).toNat = some (0, c) ∧ c.closing = false ∧ c.owner = s.me.ctx ∧ 0 < c.nrole ∧ 0 < c.roles.length ∧
    c.bound 0 = none ∧ s.inScope 0 c e = true ∧ (e.queue = false → s.freeRole e = some 0) ∧ s.backingShort c.owner 0 = false := by
  obtain ⟨x, hx⟩ := handle_there
  obtain ⟨m, hm⟩ : ∃ m, m = Config.moduleNumber.toNat := ⟨_, rfl⟩
  have hl := live_word (binder m x) x hx (by rfl) (by rfl)
  refine ⟨m, x, _, _, conv0 0 none [], binder_reads m (hm ▸ Config.moduleNumber.isLt) _ _, hl,
    by rfl, by rfl, by decide +kernel, by decide +kernel, by decide +kernel, ?_, fun _ => ?_, ?_⟩
  · simp [State.inScope, endpoint0, conv0, hm]
  · have : ∀ s : State, s.roles = [] → s.freeRole (endpoint0 m) = some 0 := by
      intro s h; simp [State.freeRole, h, Map.get, Map.find, bit, List.range, List.range.loop]
    exact this _ rfl
  · rfl

/-! SendsGoToTheEngine: 256 bytes from 0x70000, none at all, and one too many. -/

theorem witness_send (n : Nat) (h : n = 256 ∨ n = 0 ∨ n = 257) : let s := coreAt 0x30F#64 [0, 0x7000, n]
    (s.g 3#5).toNat = n ∧ (s.g 2#5).toNat % 8 = 0 ∧ ∃ s1 l, s.readFor s.meIss (s.g 2#5).toNat 256 = (s1, .ok l) := by
  rcases h with rfl | rfl | rfl <;> exact ⟨by decide +kernel, by decide +kernel, _, _, okay [] (by decide +kernel)⟩

/-! ConversationsCloseAndArm. -/

/-- CVCLOSE of a control core at its engine, with g5 for the answer. -/
def closing (x : Word) : Send :=
  ⟨⟨0, 0, true, 0, none, some 256, none, 0⟩, Decode.nodeBody 0, ⟨0#512, 0#16, 0#4⟩, x, 0, 0, false, true, [], 0#64, some 5#5, 0, 0, 100, 0, false⟩

/-- A control core whose CVCLOSE of a conversation is at the engine. -/
def closer (c : Conv) (x : Word) : State := { coreAt 0x30F#64 [] with convs := [(0, c)], sends := [(0, closing x)] }

/-- A conversation of the core's context, closing already or not, or of context 9. -/
theorem witness_close (o : Nat) (b : Bool) (h : o = 0 ∨ o = 9) : ∃ x c, let s := closer c x
    s.sends.find 0 = some (closing x) ∧ s.sendTurn (closing x) = true ∧ s.live? (closing x).handle.toNat = some (0, c) ∧
    (c.owner = (closing x).iss.ctx ↔ o = 0) ∧ c.closing = b ∧ (∀ j < c.nrole, s.orphaned c j = false ∨ s.waitingFor 0 j = []) := by
  obtain ⟨x, hx⟩ := handle_there
  refine ⟨x, { conv0 o none [] with closing := b }, rfl, ?_, live_word _ x hx (by rfl) (by rfl), ?_, rfl, ?_⟩
  · simp [State.sendTurn, closer]
  · rcases h with rfl | rfl <;> simp [conv0, closing]
  · intro j _; exact .inr (by simp [State.waitingFor, closer, coreAt, State.reset])

theorem witness_close_stale : State.reset.live? (closing 0#64).handle.toNat = none := by decide +kernel

/-- The queue endpoint of block 0 of context 1, with the deliveries of role 0 that nothing has counted. -/
def queueEnd (uncounted : List Nat) : Endpoint := ⟨1, 0, 2, 0, true, 0, 0, 0, 0, 0, 0, 0, 0, uncounted, false⟩

/-- A world whose record holds a handle in g2 and a record's address in g1. -/
noncomputable def armer (l : List Nat) : State :=
  { world {} with
    units := [(0, { UnitSt.reset with
      status := .running, priv := true, ctx := 1, record := record0, region := some block00, regs := (regsOf [0x50000]).set 2 handle0 })]
    convs := [(0, conv0 1 (some 0) [queueEnd l])] }

theorem armer_validates (l : List Nat) (h : l = [0] ∨ l = []) : Validates (armer l) 0x50000 (validated (armer l)) (recordAt 0) := by
  rcases h with rfl | rfl <;>
    exact validates _ 0 (by decide +kernel) (by decide +kernel) (by decide +kernel) (by decide +kernel)
      (by unfold State.makeLive; rw [if_pos (by decide +kernel)])

theorem witness_arm_conv (l : List Nat) (h : l = [0] ∨ l = []) : ∃ s1 rec0, let s := armer l
    Validates s (s.g 1#5).toNat s1 rec0 ∧ s1.live? (s.g 2#5).toNat = some (0, conv0 1 (some 0) [queueEnd l]) ∧
    (conv0 1 (some 0) [queueEnd l]).bound 0 = some (0, queueEnd l) ∧ (queueEnd l).ctx = s1.me.ctx ∧ (queueEnd l).cbix = recCbix rec0 ∧
    s1.backingShort 1 0 = false ∧ (s1.arms.filter (fun x => x.die = s1.armDie)).length < 4096 := by
  have hg : (armer l).g 2#5 = handle0 := by rfl
  have hc : (validated (armer l)).conv 0 = conv0 1 (some 0) [queueEnd l] := by rcases h with rfl | rfl <;> decide +kernel
  refine ⟨validated (armer l), recordAt 0, armer_validates l h, ?_, ?_, ?_, ?_, ?_, ?_⟩
  · rw [hg, live_word _ _ handle0_is (by rw [hc]; rfl) (by rw [hc]; rfl), hc]
  all_goals rcases h with rfl | rfl <;> decide +kernel

end Sys2Proof.Tests
end

