-- ==== Sys2Proof/Tests/WitnessDelivery.lean ====
section
/-! SUPPORT. States that meet the hypotheses of the statement about the conversation engine, clause by clause. -/

namespace Sys2Proof.Tests

set_option Elab.async false

open Sys2Proof Sys2Proof.Machine Sys2Proof.Claim

/-! ConversationEngineChecksAndDelivers. -/

/-- A send of the record of block 0 of context 1 that runs on sequencer 0. -/
noncomputable def send0 : Send :=
  ⟨⟨1, 0, true, 0, none, some 0, none, 0⟩, Decode.nodeBody 0, Machine.noOperand, handle0, 0, 0, false, false, [], 0#64, none, 0, 0, 0, 0, false⟩

/-- A send of a frame's node whose role register is not valid. -/
noncomputable def send1 : Send :=
  { send0 with iss := ⟨1, 0, true, 0, some (0, 0, 0, 0, 0), none, none, 0⟩ }

/-- `image0` with its transition delivering to role 0. -/
def image1 : Nat := image0 + 2 ^ 3 * 2 ^ 512

/-- A world with the send and a conversation of that image, changed as given. -/
noncomputable def sending (x : Send) (f : Conv → Conv) : State :=
  { world {} with convs := [(0, f { conv0 1 (some 0) [queueEnd []] with image := image1 })], sends := [(5, x)] }

/-- The engine's turn. -/
theorem checked (x : Send) (s : State) (hs : s.sends = [(5, x)]) (hh : x.held = false) (hc : x.close = none) : Checked s 5 x x.deleg := by
  refine ⟨by rw [hs]; rfl, hh, rfl, hc, fun y hy _ ho _ => ?_⟩
  rw [hs] at hy
  obtain rfl := List.mem_singleton.mp hy
  exact absurd rfl ho

theorem registered (s : State) (x : Send) (h : x.iss.frame = none) : Registered s x := fun pk e nd f g hf => by rw [h] at hf; cases hf

theorem live_send (x : Send) (f : Conv → Conv) (hx : x.handle = handle0) (ho : ∀ c, (f c).open_ = c.open_ ∧ (f c).gen = c.gen) :
    (sending x f).live? x.handle.toNat = some (0, f { conv0 1 (some 0) [queueEnd []] with image := image1 }) := by
  have h := live_word (sending x f) handle0 handle0_is (by exact (ho _).1.trans rfl) (by exact (ho _).2.trans rfl)
  rw [hx, h]
  rfl

/-- A legal send, whose message goes to role 0. -/
theorem witness_send_legal : ∃ T, let x := send0; let s := sending x id; let c : Conv := { conv0 1 (some 0) [queueEnd []] with image := image1 }
    Checked s 5 x false ∧ Registered s x ∧ x.iss.frame = none ∧ s.live? x.handle.toNat = some (0, c) ∧ c.closing = false ∧ x.holds s c = true ∧
    c.image.testBit (384 + x.kind) = x.choose ∧ x.payload.length ≤ 8 * (c.image / 2 ^ (8 * (16 + x.kind)) % 256) ∧ TransitionOf c x.role x.kind T ∧
    (List.range (c.image / 2 ^ 24 % 256)).filter (fun r => T.testBit (3 + r) && decide (r < 8)) = [0] ∧ s.spillHeld c.owner + needsSpill s 0 c [0] ≤ s.spillEntries c.owner := by
  refine ⟨2 ^ 31 + 2 ^ 11 + 2 ^ 3, checked _ _ rfl rfl rfl, registered _ _ rfl, rfl, live_send _ _ rfl (fun _ => ⟨rfl, rfl⟩), rfl, by rfl, by decide +kernel,
    by decide +kernel, ⟨0, by decide +kernel, by decide +kernel, by decide +kernel, by decide +kernel, by decide +kernel, fun j hj => absurd hj (Nat.not_lt_zero j)⟩,
    by decide +kernel, ?_⟩
  have h1 : needsSpill (sending send0 id) 0 { conv0 1 (some 0) [queueEnd []] with image := image1 } [0] ≤ 1 := List.length_filter_le _ _
  have h2 : (sending send0 id).spillHeld 1 + 1 ≤ (sending send0 id).spillEntries 1 := by decide +kernel
  exact Nat.le_trans (Nat.add_le_add_left h1 _) h2

/-- Refusals: a register that is not valid, a handle that is stale, a conversation closing, a role that is another's, a choice sent as a
plain kind, a payload too long, a kind that the state does not admit. -/
theorem witness_send_unregistered : Checked (sending send1 id) 5 send1 false ∧ send1.body.operand.getLsbD 17 = false ∧ ¬Registered (sending send1 id) send1 := by
  refine ⟨checked _ _ rfl rfl rfl, by decide +kernel, fun h => ?_⟩
  have := (h _ _ _ _ _ rfl).1
  simp [send1, send0] at this

theorem witness_send_stale : let s : State := { sending send0 id with convs := [] }
    Checked s 5 send0 false ∧ Registered s send0 ∧ s.live? send0.handle.toNat = none := by
  refine ⟨checked _ _ rfl rfl rfl, registered _ _ rfl, ?_⟩
  have hb := handle_bits _ Config.moduleNumber.isLt
  have hh : send0.handle.toNat = Config.moduleNumber.toNat * 2 ^ 52 := handle0_is
  have hc : ∀ k, ({ sending send0 id with convs := [] } : State).conv k = Conv.empty := fun k => rfl
  rw [hh]
  unfold State.live? convKey
  rw [hb.2.2, if_pos rfl]
  simp [hc, Conv.empty]

set_option maxRecDepth 100000 in
theorem witness_send_refused (x : Send) (f : Conv → Conv) (no : Nat)
    (h : (x = send0 ∧ f = (fun c => { c with closing := true }) ∧ no = 0) ∨ (x = send0 ∧ f = (fun c => { c with eps := [{ queueEnd [] with ctx := 2 }] }) ∧ no = 1) ∨
      (x = { send0 with choose := true } ∧ f = id ∧ no = 2) ∨ (x = { send0 with payload := [7#8] } ∧ f = id ∧ no = 3) ∨
      (x = send0 ∧ f = (fun c => { c with state := 1 }) ∧ no = 4)) :
    let s := sending x f; let c := f { conv0 1 (some 0) [queueEnd []] with image := image1 }
    Checked s 5 x false ∧ Registered s x ∧ x.iss.frame = none ∧ s.live? x.handle.toNat = some (0, c) ∧ (c.closing = true ↔ no = 0) ∧
    (x.holds s c = true ↔ no ≠ 1) ∧ (c.image.testBit (384 + x.kind) = x.choose ↔ no ≠ 2) ∧
    (8 * (c.image / 2 ^ (8 * (16 + x.kind)) % 256) < x.payload.length ↔ no = 3) ∧ (no = 4 → ∀ T, ¬TransitionOf c x.role x.kind T) := by
  rcases h with h | h | h | h | h <;> obtain ⟨rfl, rfl, rfl⟩ := h
  all_goals
    refine ⟨checked _ _ rfl rfl rfl, registered _ _ rfl, rfl, live_send _ _ rfl (fun _ => ⟨rfl, rfl⟩), by decide +kernel, ?_, by decide +kernel, by decide +kernel, ?_⟩
  · exact ⟨fun _ => by decide, fun _ => by rfl⟩
  · exact fun h => absurd h (by decide)
  · exact ⟨fun h => by simp [Send.holds, Conv.bound, conv0, queueEnd, send0] at h, fun h => absurd rfl h⟩
  · exact fun h => absurd h (by decide)
  · exact ⟨fun _ => by decide, fun _ => by rfl⟩
  · exact fun h => absurd h (by decide)
  · exact ⟨fun _ => by decide, fun _ => by rfl⟩
  · exact fun h => absurd h (by decide)
  · exact ⟨fun _ => by decide, fun _ => by rfl⟩
  · rintro - T ⟨i, hi, e, h1, -⟩
    have hn : i = 0 := by
      have h2 : i < image1 / 2 ^ 48 % 2 ^ 16 := hi
      have h3 : image1 / 2 ^ 48 % 2 ^ 16 = 1 := by decide +kernel
      omega
    subst hn
    have h4 : T / 2 ^ 25 % 64 = 1 := h1
    have h5 : T = image1 / 2 ^ (512 + 32 * 0) % 2 ^ 32 := e
    rw [h5] at h4
    revert h4
    decide +kernel

/-- A delegation of role 0 by the owner, to the endpoint that the descriptor at 0x7000 names. -/
noncomputable def deleg0 (m : Nat) : Send :=
  { send0 with iss := (binder m handle0).meIss, deleg := true, desc := 0x7000#64 }

noncomputable def delegating (m : Nat) (closing : Bool) : State :=
  { binder m handle0 with sends := [(5, deleg0 m)], convs := [(0, { conv0 0 none [] with closing := closing })] }

set_option maxRecDepth 100000 in
theorem delegating_bytes (m : Nat) (b : Bool) : (delegating m b).readFor (deleg0 m).iss 0x7000 32 =
    (((delegating m b).readFor (deleg0 m).iss 0x7000 32).1, .ok (bytes0 m)) := by rfl

theorem witness_delegation (closing : Bool) : ∃ m s1 e c, let s := delegating m closing; let x := deleg0 m
    Checked s 5 x true ∧ Registered s x ∧ s.readEndpoint x.iss x.desc.toNat x.handle.toNat x.role = (s1, .ok e) ∧
    s1.live? x.handle.toNat = some (0, c) ∧ c.closing = closing ∧ x.role < c.image / 2 ^ 24 % 256 ∧ x.role < c.roles.length ∧ x.iss.frame = none ∧
    x.iss.ctx = c.owner ∧ s1.inScope 0 c e = true ∧ (e.queue = false → s1.freeRole e = some 0) ∧ c.bound x.role = none ∧
    4 ≤ s1.desc c.owner 42 2 ∧ (s1.roles.map Prod.fst).Nodup := by
  obtain ⟨m, hm⟩ : ∃ m, m = Config.moduleNumber.toNat := ⟨_, rfl⟩
  have hlt : m < 2 ^ 12 := hm ▸ Config.moduleNumber.isLt
  have hr : (delegating m closing).readEndpoint (deleg0 m).iss (deleg0 m).desc.toNat (deleg0 m).handle.toNat (deleg0 m).role =
      (((delegating m closing).readFor (deleg0 m).iss 0x7000 32).1, .ok (endpoint0 m)) :=
    read_endpoint _ _ _ _ _ _ (show 0x7000 % 32 = 0 by decide) (delegating_bytes m closing) (by exact endpoint0_read _ m hlt)
  have hf : ∀ s : State, s.roles = [] → s.freeRole (endpoint0 m) = some 0 := by
    intro s h; simp [State.freeRole, h, Map.get, Map.find, bit, List.range, List.range.loop]
  refine ⟨m, _, _, { conv0 0 none [] with closing := closing }, checked _ _ rfl rfl rfl, registered _ _ rfl, hr,
    live_word _ handle0 handle0_is (by rfl) (by rfl), by rfl, (show 0 < image0 / 2 ^ 24 % 256 by decide +kernel),
    Nat.one_pos, rfl, rfl, ?_, fun _ => hf _ rfl, by rfl, Nat.le_of_eq (by rfl),
    by exact List.nodup_nil⟩
  simp [State.inScope, endpoint0, conv0, hm]

/-- A queue endpoint of this module, to which so many deliveries were made. -/
def queue1 (m made : Nat) (failing : Bool) : Endpoint := { queueEnd [] with rbase := 0x1000, cons := 0x3000, module_ := m, made := made, failing := failing }

/-- A message for it. -/
def delivery0 : Delivery := { conv := 0, role := 0, num := 5, vec := 0#512, payload := [] }

/-- The last free slot of its ring, and none free; a delivery that failed before. -/
theorem witness_delivery (made : Nat) (failing : Bool) (h : made = 3 ∨ made = 4) : ∃ m s1 cons s2, let e := queue1 m made failing
    let s : State := { world {} with convs := [(0, conv0 1 (some 0) [e])], deliveries := [(5, delivery0)] }
    NextDelivery s 5 delivery0 0 e ∧ e.queue = true ∧ e.failing = failing ∧ s.readCons e 0 6 = (s1, .ok cons) ∧
    ((e.made + 2 ^ 32 - cons) % 2 ^ 32 < 2 ^ e.rlog ↔ made = 3) ∧
    s1.writeRun (engineIss e.ctx 0) (e.rbase + 512 * (e.made % 2 ^ e.rlog)) (leBytes 64 delivery0.vec.toNat ++ delivery0.payload) = (s2, .ok ()) := by
  have hd : ∀ s : State, s.deliveries = [(5, delivery0)] → (∀ x ∈ s.deliveries, x.2.conv = delivery0.conv →
      (∃ i y, (s.conv delivery0.conv).bound x.2.role = some (i, y) ∧ i = 0) → x.1 ≠ 5 → delivery0.num < x.2.num ∨ (delivery0.num = x.2.num ∧ delivery0.role < x.2.role)) ∧
      ∀ x ∈ s.deliveries, x.1 = 5 → x.2 = delivery0 := by
    intro s hs
    rw [hs]
    exact ⟨fun x hx _ _ hn => absurd (by rw [List.mem_singleton.mp hx]) hn, fun x hx _ => by rw [List.mem_singleton.mp hx]⟩
  rcases h with rfl | rfl <;> cases failing <;>
    exact ⟨Config.moduleNumber.toNat, _, 0, _, ⟨rfl, by rfl, rfl, rfl, fun x hx h1 h2 h3 => (hd _ rfl).1 x hx h1 (h2.elim fun y hy => ⟨0, y, hy, rfl⟩) h3,
      (hd _ rfl).2⟩, rfl, rfl, pair (by decide +kernel), by decide +kernel, okayUnit (by decide +kernel)⟩

/-- An edge port whose plane is ACTIVE. -/
theorem witness_port : let e : Endpoint := { queueEnd [] with queue := false }
    let s : State := { world {} with planes := [(0, { Plane.reset with ctx := 1, state := .active })] }
    s.portPlane e = some 0 ∧ s.planes.find 0 = some (s.plane 0) := by decide +kernel

/-- A message for a role that nothing is bound to. -/
theorem witness_orphans : let s : State := { world {} with convs := [(0, { conv0 1 none [] with closing := true })], deliveries := [(5, delivery0)] }
    (s.conv 0).open_ = true ∧ (s.conv 0).closing = true ∧ Orphans s 0 (s.conv 0) 0 := by
  unfold Orphans
  exact ⟨rfl, rfl, by rfl, _, List.mem_singleton_self _, rfl, rfl⟩

/-- A closing conversation with nothing outstanding: a role never used, and one whose slots are all released. -/
theorem witness_finished : Finished { world {} with convs := [(0, { conv0 1 (some 0) [queueEnd []] with closing := true })] } 0 := by
  refine ⟨rfl, rfl, fun x hx => absurd hx List.not_mem_nil, fun r i e hr hb => .inl ?_⟩
  have h0 : r = 0 := by
    have : r < 1 := hr
    omega
  subst h0
  cases hb
  rfl

end Sys2Proof.Tests
end

