-- ==== Sys2Proof/Tests/WitnessEngines.lean ====
section
/-! SUPPORT. States that meet the hypotheses of the statement about engines and matrix arrays, clause by clause. -/

namespace Sys2Proof.Tests

set_option Elab.async false

open Sys2Proof Sys2Proof.Machine Sys2Proof.Claim

/-! EnginesAndArraysComplete. -/

/-- A command of frame 0 of node 0 in its context (16·unit of die 0, after the class), with its number, block and OPERAND. -/
def command (key kind : Nat) (num : Option Nat) (block operand : Nat) (tids : List (BitVec 512) := []) (l : Operand := noOperand) : Cmd :=
  ⟨key, false, kind, num, BitVec.ofNat 512 block, ⟨0, 0, false, 0, some (0, 0, 0, 0, 0), none, none, 0⟩, none,
    Decode.nodeBody (nodeWord 0 0 0 0 0 operand), l, tids, 0, 0, [], 0, none, .queued, 0⟩

/-- The command, numbered 2, and an array whose tiles are as given. -/
def engine (x : Cmd) (active : Option Tile := none) : State :=
  { nodeAt 0 with cmds := [(2, x)], arrays := [(4096, ⟨active, none, [], []⟩)], engs := [(x.ctxKey, ⟨4, 5, []⟩)], fc := 100 }

/-- The next command of a copy engine, and of an array. -/
theorem witness_accept_command (kind : Nat) (h : kind = 0 ∨ kind = 1 ∨ kind = 2 ∨ kind = 5) :
    NextOf (engine (command (if kind < 2 then 0 else 65536) kind none 0 0)) 2 (command (if kind < 2 then 0 else 65536) kind none 0 0) := by
  unfold NextOf
  rcases h with rfl | rfl | rfl | rfl <;> decide +kernel

/-- One value moves: what was read, and the state after. -/
def moveOnce (x : Cmd) (s : State) (i : Nat) : State × Nat :=
  let r := s.readSrc x (x.move i).src (x.move i).w; let v := valOf 0 r
  ((match (x.move i).dst with
    | some d => ((r.1.flagTern x (x.move i) v).placeWrite x.tlb x.agent d (x.move i).w v).1
    | none => r.1.flagTern x (x.move i) v), v)

/-- A value moves without an error or a standpipe. -/
def movesOnce (x : Cmd) (s : State) (i : Nat) : Bool :=
  let r := s.readSrc x (x.move i).src (x.move i).w; let v := valOf 0 r
  decide (s.moveCols x (x.move i) = (none, none)) && r.2.toOption.isSome &&
  (match (x.move i).dst with
    | some d => ((r.1.flagTern x (x.move i) v).placeWrite x.tlb x.agent d (x.move i).w v).2.toOption.isSome
    | none => true)

/-- n values from value i on. -/
def movesAll (x : Cmd) : Nat → Nat → State → Bool
  | 0, _, _ => true
  | n + 1, i, s => movesOnce x s i && movesAll x n (i + 1) (moveOnce x s i).1

/-- The state after them. -/
def movedBy (x : Cmd) : Nat → Nat → State → State
  | 0, _, s => s
  | n + 1, i, s => movedBy x n (i + 1) (moveOnce x s i).1

/-- What `Moves'` asks of one value. -/
def MoveRight (x : Cmd) (a b : State) (v i : Nat) : Prop :=
  a.moveCols x (x.move i) = (none, none) ∧ ∃ m, a.readSrc x (x.move i).src (x.move i).w = (m, .ok v) ∧
    (∀ d, (x.move i).dst = some d → (m.flagTern x (x.move i) v).placeWrite x.tlb x.agent d (x.move i).w v = (b, .ok ())) ∧
    ((x.move i).dst = none → b = m.flagTern x (x.move i) v)

theorem move_right {x : Cmd} {s : State} {i : Nat} (h : movesOnce x s i = true) : MoveRight x s (moveOnce x s i).1 (moveOnce x s i).2 i := by
  simp only [movesOnce, Bool.and_eq_true, decide_eq_true_eq] at h
  obtain ⟨⟨h1, h2⟩, h3⟩ := h
  refine ⟨h1, _, okay 0 h2, fun d hd => ?_, fun hd => by simp [moveOnce, hd]⟩
  rw [hd] at h3
  have k := okay () h3
  simp only [moveOnce, hd] at k ⊢
  exact k

theorem moves_all {x : Cmd} : ∀ {n i : Nat} {s : State}, movesAll x n i s = true →
    ∃ (u : Nat → State) (v : Nat → Nat), u i = s ∧ u (i + n) = movedBy x n i s ∧ ∀ j, i ≤ j → j < i + n → MoveRight x (u j) (u (j + 1)) (v j) j
  | 0, i, s, _ => ⟨fun _ => s, fun _ => 0, rfl, rfl, fun j h1 h2 => absurd h2 (by omega)⟩
  | n + 1, i, s, h => by
    simp only [movesAll, Bool.and_eq_true] at h
    obtain ⟨u, v, h0, hn, hu⟩ := moves_all h.2
    refine ⟨fun j => if j = i then s else u j, fun j => if j = i then (moveOnce x s i).2 else v j, by simp, ?_, ?_⟩
    · simp only [show i + (n + 1) ≠ i by omega, if_false, movedBy]
      rw [show i + (n + 1) = i + 1 + n by omega, hn]
    · intro j h1 h2
      by_cases hj : j = i
      · subst hj
        simp only [if_true, show j + 1 ≠ j by omega, if_false, h0]
        exact move_right h.1
      · simp only [hj, if_false, show j + 1 ≠ i by omega]
        exact hu j (by omega) (by omega)

theorem command_moves {x : Cmd} {s : State} (h : movesAll x x.total 0 s = true) :
    ∃ (u : Nat → State) (v : Nat → Nat), u 0 = s ∧ u x.total = movedBy x x.total 0 s ∧ Moves' x u v := by
  obtain ⟨u, v, h0, hn, hu⟩ := moves_all h
  exact ⟨u, v, h0, by simpa using hn, fun i hi => hu i (Nat.zero_le i) (by omega)⟩

/-- COPY of so many bytes of the scratchpad, with or without a landing word, and a follow-on of a kind. -/
def copyOfBytes (n lands follow : Nat) : Cmd :=
  command 0 0 (some 5) (2 ^ 121 + 2 ^ 185 + 0x100 * 2 ^ 128 + n * 2 ^ 192 + lands * 2 ^ 241 + 7 * 2 ^ 288 + 0x200 * 2 ^ 256 + follow * 2 ^ 320) 0

theorem witness_copy_completes (n lands follow : Nat)
    (h : (n = 0 ∧ lands = 0 ∧ follow = 0) ∨ (n = 3 ∧ lands = 1 ∧ follow = 1) ∨ (n = 3 ∧ lands = 0 ∧ follow = 2)) : let x := copyOfBytes n lands follow
    (engine x).cmds.find 2 = some x ∧ x.kind = 0 ∧ x.num = some 5 ∧ x.err = none ∧ x.pos = 0 ∧ x.shapeCause = none ∧ x.total = n ∧
    (∀ i < x.total, (x.move i).dst ≠ none) ∧ movesAll x x.total 0 (engine x) = true ∧ x.block.toNat.testBit 240 = false := by
  rcases h with h | h | h <;> obtain ⟨rfl, rfl, rfl⟩ := h <;> decide +kernel

theorem witness_copy_lands (lands : Nat) (h : lands = 0 ∨ lands = 1) : ∃ y, Lands (engine (copyOfBytes 3 lands 1)) y (copyOfBytes 3 lands 1) 5 := by
  rcases h with rfl | rfl
  · exact ⟨_, fun _ => rfl, fun h => absurd h (by decide +kernel)⟩
  · exact ⟨_, fun h => absurd h (by decide +kernel), fun _ => ⟨_, okay () (by decide +kernel), rfl⟩⟩

/-- A copy whose identifiers disagree, by a cause that is neither TID_SHAPE's nor the other's. -/
theorem witness_copy_shape : let x := command 0 0 (some 5) (2 ^ 240) 0
    (engine x).cmds.find 2 = some x ∧ x.shapeCause = some 0x28 ∧ (0x28 : Nat) ≠ 0x25 ∧ (0x28 : Nat) ≠ 0x26 := by decide +kernel

/-- A network command to the last peer and to one beyond, that has been retried 15 times and 16. -/
theorem witness_network (peer tries : Nat) (h : peer = 0 ∨ peer = 1) (ht : tries = 15 ∨ tries = 16) : ∃ s1 l,
    let x := { command 0 1 (some 5) (2 ^ 224 + peer * 2 ^ 256) 0 with tries := tries, iss := ⟨1, 0, true, 0, some (0, 0, 0, 0, 0), none, none, 0⟩ }
    let s := { engine x with mem := (world {}).mem, csrs := (world {}).csrs }
    s.cmds.find 2 = some x ∧ x.kind = 1 ∧ x.num = some 5 ∧ x.block.toNat / 2 ^ 192 % 16 ≠ 2 ∧
    (x.block.toNat / 2 ^ 256 % 2 ^ 32 ≤ (s.csr (s.partOfCtx x.iss.ctx) 0x0402).toNat % 2 ^ 12 ↔ peer = 0) ∧
    s.vreadAny x.agent (x.block.toNat / 2 ^ 128 % 2 ^ 57) (x.block.toNat / 2 ^ 224 % 2 ^ 32) = (s1, .ok l) := by
  rcases h with rfl | rfl <;> rcases ht with rfl | rfl <;>
    exact ⟨_, _, by decide +kernel, by decide +kernel, by decide +kernel, by decide +kernel, by decide +kernel, okay [] (by decide +kernel)⟩

theorem in_order (x : Cmd) (a : Option Tile) : InOrder (engine x a) (arrayOf x.ctxKey) x.ord := by
  refine ⟨fun y hy => absurd hy List.not_mem_nil, fun y hy _ _ _ => ?_⟩
  obtain rfl := List.mem_singleton.mp hy
  exact Nat.le_refl _

/-- MXLS of a tile of f64 in the scratchpad. -/
def loads : Cmd := command 65536 2 (some 5) 0 0 [BitVec.ofNat 512 (2 ^ 57 + 11 * 2 ^ 64 + 2 ^ 69 + 2 ^ 79 + 32 * 2 ^ 128 + 32 * 2 ^ 160 + 2 ^ 192 + 2 ^ 224 + 2 ^ 256 + 32 * 2 ^ 288)]

theorem witness_mxls : let x := loads; let s := engine x
    s.cmds.find 2 = some x ∧ x.num = some 5 ∧ x.err = none ∧ x.kind = 2 ∧ x.pos = 0 ∧ x.buf = [] ∧ s.loadCause x = none ∧ x.total = 1024 := by
  decide +kernel

theorem witness_mxls_moves : movesAll loads 1024 0 (engine loads) = true := by decide +kernel

theorem witness_mxls_dst : ∀ i < 1024, (loads.move i).dst = none := fun i _ => by simp [Cmd.move, show loads.kind = 2 from rfl]; split <;> rfl

theorem witness_mxls_tile : tidFmt (loads.t 0) = 11 := by decide +kernel

/-- An array without ternary columns in its accumulators takes the tile. -/
theorem witness_mxls_latched (e s : List Nat) : ternMismatch ⟨none, none, [], []⟩ ⟨11, e, s⟩ = false := rfl

/-- A tile of f32, of f16, of f64, of ternary elements. -/
def tile0 (fmt : Nat) : Tile := ⟨fmt, [], []⟩

/-- MXSW; MXACC of the last segment of either width, clearing or not; MXACC and MXQ with no tile; MXQ of either output. -/
theorem witness_array_commands (kind operand : Nat) (a : Option Tile) (h : (kind = 3 ∧ operand = 0 ∧ a = none) ∨
      (kind = 4 ∧ operand = 511 + 2 ^ 9 ∧ a = some (tile0 10)) ∨ (kind = 4 ∧ operand = 255 + 3 * 2 ^ 9 + 2 ^ 11 ∧ a = some (tile0 11)) ∨
      (kind = 4 ∧ operand = 0 ∧ a = none) ∨ (kind = 5 ∧ operand = 0 ∧ a = none) ∨ (kind = 5 ∧ operand = 1 ∧ a = some (tile0 8)) ∨
      (kind = 5 ∧ operand = 8 ∧ a = some (tile0 9))) : let x := command 65536 kind (some 5) 0 operand; let s := engine x a
    s.cmds.find 2 = some x ∧ x.num = some 5 ∧ x.err = none ∧ (s.arrays.get (arrayOf x.ctxKey) ⟨none, none, [], []⟩).active = a ∧
    x.iss.frame = some (0, 0, 0, 0, 0) ∧ s.planes.find 0 = some (s.plane 0) ∧
    (kind = 4 → ∀ t ∈ a, t.fmt ≠ 15 ∧ x.body.operand.toNat / 2 ^ 9 % 4 < (if t.fmt = 11 then 4 else 2)) := by
  rcases h with h | h | h | h | h | h | h <;> obtain ⟨rfl, rfl, rfl⟩ := h <;> decide +kernel

/-- A row of so many segments whose nodes have an OPERAND, sent or accepted. -/
def rowOf (n operand : Nat) (num : Option Nat) (st : ReqStage) : Machine.Row :=
  ⟨0, 0, 0, 0, 0, 65536, false, (List.range n).map (fun i => (i, 0, Decode.nodeBody (nodeWord 0xA0 0 0 0 0 operand), op 0 0xFFFF)), n,
    ⟨0, 0, false, 0, some (0, 0, 0, 0, 0), none, none, 0⟩, num, 34, 0, st⟩

theorem witness_row_accept : let r := rowOf 8 0 none .sent; let s : State := { nodeAt 0 with rows := [(2, r)] }
    s.rows.find 2 = some r ∧ r.stage = .sent ∧ r.total ≤ r.segs.length := by decide +kernel

/-- A row of a tile's format that is due, into tokens or into the accumulators; with A8 where the format has it. -/
theorem witness_row_complete (fmt operand : Nat) (h : (fmt = 8 ∧ operand = 0) ∨ (fmt = 11 ∧ operand = 2 ^ 10 + 255 * 2 ^ 11) ∨ (fmt = 10 ∧ operand = 2 ^ 10 + 511 * 2 ^ 11) ∨
      (fmt = 12 ∧ operand = 2 ^ 20) ∨ (fmt = 13 ∧ operand = 2 ^ 20) ∨ (fmt = 14 ∧ operand = 0) ∨ (fmt = 15 ∧ operand = 0) ∨ (fmt = 15 ∧ operand = 2 ^ 10)) :
    let r := rowOf (tileT fmt) operand (some 5) .queued
    let s : State := { nodeAt 0 with rows := [(2, r)], arrays := [(4096, ⟨some (tile0 fmt), none, [], []⟩)], fc := 100 }
    s.rows.find 2 = some r ∧ r.stage = .queued ∧ r.num = some 5 ∧ r.at_ + 66 ≤ s.fc ∧ InOrder s (arrayOf r.ctxKey) r.ord ∧
    (s.arrays.get (arrayOf r.ctxKey) ⟨none, none, [], []⟩).active = some (tile0 fmt) ∧ fmt ∈ [8, 9, 10, 11, 12, 13, 14, 15] ∧
    WholeRow r (tileT fmt) operand ∧ r.operand = operand ∧ (operand.testBit 20 = true → fmt = 12 ∨ fmt = 13) ∧ s.planes.find r.plane = some (s.plane 0) := by
  unfold InOrder WholeRow
  rcases h with h | h | h | h | h | h | h | h <;> obtain ⟨rfl, rfl⟩ := h <;> decide +kernel

end Sys2Proof.Tests
end

