-- ==== Sys2Proof/Tests/WitnessFabric.lean ====
section
/-! SUPPORT. States that meet the hypotheses of the statements about the events of the fabric, clause by clause. -/

namespace Sys2Proof.Tests

set_option Elab.async false

open Sys2Proof Sys2Proof.Machine Sys2Proof.Claim

/-! TokensLandAtTheirNode: at fc 5 a token of frame 0 for node 0 of element 0 arrives. -/

/-- A token of a generation for a port, whose parity bits differ from the right ones as given. -/
def token (gen port : Nat) (bad : BitVec 18 := 0#18) : Flight :=
  ⟨4, 9, 0, 0, mkTag 0 0 gen 0 port 1 0xFFFF#16, 7#512, parityOf 7#512 (mkTag 0 0 gen 0 port 1 0xFFFF#16) ^^^ bad⟩

/-- The token on its way, in a plane of a node word, changed as given. -/
def flying (x : Flight) (w : Nat := nodeWord 0x00 0 0 0xC) (f : Plane → Plane := id) : State :=
  { nodeAt w f with fc := 5, flights := [x] }

/-- The token that waits, and others that came after it, n in all, in the buffer or spilled. -/
def wait0 (mem : Bool) : Waiting := ⟨0, mkTag 0 9 0 0 0 1 0xFFFF#16, 1#512, mem, 0⟩
def waiting (n : Nat) (mem : Bool) : List Waiting := (List.range n).map (fun i => { wait0 mem with arr := i })

/-- Every group of element 0 bound to other frames. -/
def others : List (Nat × Nat) := (List.range 48).map (fun i => (0, i + 10))

theorem arriving (gen port : Nat) (bad : BitVec 18) (w : Nat) (f : Plane → Plane) :
    Arriving (flying (token gen port bad) w f) 0 (token gen port bad) :=
  ⟨rfl, show (4 : Nat) ≤ 5 by decide, fun j hj => absurd hj (Nat.not_lt_zero j), rfl⟩

/-- A stale token; a parked frame, with room for the token and with none; a sticky L and R; a free slot; a slot that is full; a group to
bind; the buffer, empty, up to its last place and full; a token that spills the oldest, and one for which there is no room. -/
theorem witness_arrival_stale : parityOf (token 1 0).pay (token 1 0).tag = (token 1 0).par ∧ tagKind (token 1 0).tag < 12 ∧
    ∀ fr, ((flying (token 1 0)).plane 0).frames.find (tagFrame (token 1 0).tag) = some fr → fr.gen ≠ tagGen (token 1 0).tag := by
  refine ⟨by decide +kernel, by decide +kernel, fun fr h => ?_⟩
  have e : ((flying (token 1 0)).plane 0).frames.find (tagFrame (token 1 0).tag) = some frame0 := by decide +kernel
  cases e.symm.trans h
  decide +kernel

/-- A frame that holds n withdrawn tokens. -/
def frameWithWithdrawn (n : Nat) : Frame := { frame0 with parked := true, withdrawn := List.replicate n (0, 0#42, 0#512) }

theorem witness_arrival_parked (n : Nat) (h : n = 0 ∨ n = 1023 ∨ n = 1024) :
    let s := flying (token 0 0) (f := fun p => { p with frames := [(0, frameWithWithdrawn n)] })
    parityOf (token 0 0).pay (token 0 0).tag = (token 0 0).par ∧ (s.plane 0).frames.find (tagFrame (token 0 0).tag) = some (frameWithWithdrawn n) ∧
    frame0.gen = tagGen (token 0 0).tag ∧ (s.inMem 0 < s.ovfCap 0 ↔ n ≠ 1024) := by
  rcases h with rfl | rfl | rfl <;> decide +kernel

theorem witness_arrival_sticky (port w : Nat) (h : (port = 0 ∧ w = nodeWord 0x00 0 0 0xC 0 0 0 + 2 ^ 107) ∨ (port = 1 ∧ w = nodeWord 0x00 0 0 0xC + 2 ^ 106)) :
    let x := token 0 port; let p := (flying x w).plane 0
    parityOf x.pay x.tag = x.par ∧ p.frames.find (tagFrame x.tag) = some frame0 ∧
    ((tagPort x.tag = 0 ∧ (p.word 0 0 0).testBit 107 = true) ∨ (tagPort x.tag = 1 ∧ (p.word 0 0 0).testBit 106 = true)) := by
  rcases h with ⟨rfl, rfl⟩ | ⟨rfl, rfl⟩ <;> decide +kernel

/-- What a token for the plain node 0 finds: its slot full, its slot free, and a group to bind. -/
theorem witness_arrival_slot (f : Plane → Plane) (h : f = id ∨ f = (fun p => { p with slots := [] }) ∨ f = (fun p => { p with slots := [], groups := [] })) :
    let x := token 0 0; let p := (flying x (f := f)).plane 0
    parityOf x.pay x.tag = x.par ∧ p.frames.find (tagFrame x.tag) = some frame0 ∧ frame0.gen = tagGen x.tag ∧
    ¬((tagPort x.tag = 0 ∧ (p.word 0 0 0).testBit 107 = true) ∨ (tagPort x.tag = 1 ∧ (p.word 0 0 0).testBit 106 = true)) ∧
    ((0, tagFrame x.tag) ∈ p.groups ∨ (¬Full p 0 ∧ p.slots.find (slotKey 0 (tagFrame x.tag) 0 0) = none)) := by
  unfold Full
  rcases h with rfl | rfl | rfl <;> decide +kernel

/-- A plane whose buffer holds n tokens, when k more of its tokens have spilled. -/
def crowded (n k : Nat) : State :=
  { flying (token 0 0) (f := fun p => { p with slots := [], groups := others, ovf := waiting n false, frames := [(0, frame0), (1, frameWithWithdrawn k)] }) with
    arrivals := 70 }

theorem witness_arrival_overflow (n k : Nat) (h : (n = 0 ∧ k = 0) ∨ (n = 63 ∧ k = 0) ∨ (n = 64 ∧ k = 1023) ∨ (n = 64 ∧ k = 1024)) :
    let x := token 0 0; let s := crowded n k; let p := s.plane 0
    p.frames.find (tagFrame x.tag) = some frame0 ∧ (0, tagFrame x.tag) ∉ p.groups ∧ 384 / p.f ≤ (p.groups.filter (fun g => g.1 = 0)).length ∧
    (s.bufferOf 0 0).length = n ∧ (s.inMem 0 < s.ovfCap 0 ↔ k ≠ 1024) := by
  rcases h with h | h | h | h <;> obtain ⟨rfl, rfl⟩ := h <;> decide +kernel

theorem witness_arrival_oldest (k : Nat) (h : k = 1023 ∨ k = 1024) : Oldest (crowded 64 k) 0 0 0 (wait0 false) := by
  have e : ∀ k, (crowded 64 k).bufferOf 0 0 = (waiting 64 false).map (fun w => (0, w)) := fun k => rfl
  have a : ∀ z ∈ (waiting 64 false).map (fun w => (0, w)), z = (0, wait0 false) ∨ (wait0 false).arr < z.2.arr := by decide +kernel
  unfold Oldest
  rw [e]
  exact ⟨by decide +kernel, show (0 : Nat) < 70 by decide, a⟩

/-- A token of a plane that is gone. -/
theorem witness_arrival_gone : let s : State := { State.reset with fc := 5, flights := [token 0 0] }
    s.flights[0]? = some (token 0 0) ∧ (token 0 0).due ≤ s.fc ∧ s.planes.has 0 = false ∧ ∀ v ∈ s.saved, v.key ≠ 0 := by decide +kernel

/-- A parity failure of lane 15, and of the first half of the tag. -/
theorem witness_arrival_parity (bad : BitVec 18) (h : bad = 2 ^ 15 ∨ bad = 2 ^ 16) : let x := token 0 0 bad; let s := flying x
    (parityOf x.pay x.tag ^^^ x.par).toNat ≠ 0 ∧ x.elem < 4096 ∧ ∀ z ∈ (s.plane 0).frames, z.2.parked = false := by
  rcases h with rfl | rfl <;> decide +kernel

/-- Tokens of the first and the last of the kinds that are reserved. -/
theorem witness_arrival_kind (k : Nat) (h : k = 12 ∨ k = 15) :
    let x : Flight := ⟨4, 9, 0, 0, mkTag 0 0 0 0 0 k 0xFFFF#16, 7#512, parityOf 7#512 (mkTag 0 0 0 0 0 k 0xFFFF#16)⟩
    (parityOf x.pay x.tag ^^^ x.par).toNat = 0 ∧ 12 ≤ tagKind x.tag ∧ x.elem < 4096 ∧ (flying x).flights[0]? = some x ∧ x.due ≤ (flying x).fc ∧
    (flying x).planes.has 0 = true := by
  rcases h with rfl | rfl <;> decide +kernel

/-- A spilled token that returns to the buffer; one for a group that its frame has bound; one for a group that is free. -/
theorem witness_overflow_return (g : List (Nat × Nat)) (h : g = others ∨ g = (0, 9) :: others ∨ g = []) :
    let s := nodeAt (nodeWord 0x00 0 0 0xC) (fun p => { p with groups := g, ovf := [wait0 true], slots := [] }); let p := s.plane 0
    let o := wait0 true; let mine := (0, tagFrame o.tag)
    p.slots.find (slotKey (tagNode o.tag) (tagFrame o.tag) (tagPort o.tag) 0) = none ∧ (s.bufferOf (pkDie 0) 0).length < 64 ∧
    FirstSpilled p.ovf 0 o ∧ p.ovf.filter (fun w => w.elem = 0) = [o] ∧
    (g = others → Full p 0 ∧ mine ∉ p.groups ∧ ∀ w ∈ p.ovf, w.elem = 0 → w.mem = false → (0, tagFrame w.tag) ∉ p.groups) ∧
    (g = (0, 9) :: others → Full p 0 ∧ mine ∈ p.groups) ∧ (g = [] → ¬Full p 0 ∧ mine ∉ p.groups) := by
  unfold Full
  rcases h with rfl | rfl | rfl <;> exact ⟨by decide +kernel, by decide +kernel, ⟨[], [], rfl, rfl, rfl,
    fun y hy => absurd hy (List.not_mem_nil)⟩, by decide +kernel, by decide +kernel, by decide +kernel, by decide +kernel⟩

/-- Node 0 of the one element that is loaded holds a result. -/
def quietAt : State := nodeAt (nodeWord 0x00 0 0 0xC + 2 ^ 104) (fun p => { p with
  quiet := [(0, true, true), (1, true, true), (64, true, true), (65, true, true)], held := [(0, 7#512, 0xFFFF#16, 0#4)] })

theorem witness_quiet_skip : ∃ a, let s := quietAt; let n := Decode.nodeBody ((s.plane s.site.plane).word s.site.plane s.site.elem s.site.node)
    s.ready n = some a ∧ n.qs = true ∧ Quiet (s.plane a.pk) a.pk a.e ∧ (s.plane a.pk).held.find (32 * a.e + a.node) = some (7#512, 0xFFFF#16, 0#4) := by
  refine ⟨fireOf _ _, fire_there (by decide +kernel), by decide +kernel, ?_, by decide +kernel⟩
  have h : Quiet (quietAt.plane 0) 0 0 := by
    refine ⟨by decide +kernel, fun x y hx hy h1 h2 h3 => .inr ?_⟩
    have e1 : (quietAt.plane 0).w = 1 := rfl
    have e2 : (quietAt.plane 0).h = 1 := rfl
    have hx' : x < 8 := by omega
    have hy' : y < 8 := by omega
    clear hx hy
    have k : ∀ x ∈ List.range 2, ∀ y ∈ List.range 2, ((quietAt.plane 0).quiet.find (elemAt 0 x y)).map Prod.snd = some true := by decide +kernel
    have r1 : relX 0 0 = 0 := rfl
    have r2 : relY 0 0 = 0 := rfl
    exact k x (List.mem_range.mpr (by omega)) y (List.mem_range.mpr (by omega))
  have e : (fireOf quietAt (Decode.nodeBody ((quietAt.plane quietAt.site.plane).word quietAt.site.plane quietAt.site.elem quietAt.site.node))).pk = 0 ∧
    (fireOf quietAt (Decode.nodeBody ((quietAt.plane quietAt.site.plane).word quietAt.site.plane quietAt.site.elem quietAt.site.node))).e = 0 := by decide +kernel
  rw [e.1, e.2]
  exact h

/-! FramesAreDrawnAndRetire. -/

theorem witness_iter_draw : ∃ rest, let s : State := { nodeAt (nodeWord 0x65 2 0 0x8) (fun p => { p with
      ctx := 1, frames := [], iter := some { iter0 with next := 23 }, free := [4, 5], minfr := 1 }) with
      fc := 5, csrs := [(0x191, 0x300#64)], blocks := [(blockKey 1 0, ⟨0, 0, 64, 1024, 16, [], 0⟩)] }; let p := s.plane 0
    s.planes.has 0 = true ∧ p.iter = some { iter0 with next := 23 } ∧ p.state = .active ∧ p.frozen = false ∧ p.swap ≠ 2 ∧ iter0.running = true ∧
    iter0.complete = false ∧ 23 < iter0.n0 * iter0.n1 * iter0.n2 ∧ iter0.drawn ≠ s.fc + 1 ∧ p.minfr < (s.freeIds 0).length ∧
    p.sourceFrames < s.window p ∧ s.freeIds 0 = 4 :: rest := ⟨[5], by decide +kernel⟩

/-- A frame whose part has ended, that holds a lock or none. -/
theorem witness_retire (lock : Map LockSt) (h : lock = [] ∨ lock = [(7, ⟨some (0, 0, 0), []⟩)]) :
    let s : State := { nodeAt (nodeWord 0x65 2 0 0x8) (fun p => { p with tw := 8, th := 8, frames := [(0, { frame0 with ended := [0] })] }) with tokens := lock }
    (s.plane 0).frames.find 0 = some { frame0 with ended := [0] } ∧ Over s 0 0 { frame0 with ended := [0] } ∧ (∀ x ∈ (s.plane 0).ovf, x.1 < 4096) ∧
    (s.holdsLock 0 0 0 = true ↔ lock ≠ []) := by
  unfold Over
  rcases h with rfl | rfl <;> exact ⟨by decide +kernel, ⟨by decide +kernel, by decide +kernel, by decide +kernel, fun x hx => absurd hx (List.not_mem_nil), fun x hx => absurd hx (List.not_mem_nil)⟩,
    by decide +kernel, by decide +kernel⟩

/-- An ITER that has drawn its last frame, and one that was stopped. -/
theorem witness_iter_complete (it : IterSt) (h : it = { iter0 with next := 24 } ∨ it = { iter0 with running := false }) :
    let s := nodeAt (nodeWord 0x65 2 0 0x8) (fun p => { p with frames := [(0, { frame0 with src := .spawn })], iter := some it }); let p := s.plane 0
    p.iter = some it ∧ it.complete = false ∧ (it.running = false ∨ it.n0 * it.n1 * it.n2 ≤ it.next) ∧ (∀ x ∈ p.frames, x.2.src = .spawn) ∧
    ∀ c ∈ s.contribs, c.2.plane ≠ 0 := by
  rcases h with rfl | rfl <;> decide +kernel

/-- A draw whose allowance has run out. -/
theorem witness_overdue : ∃ s, Overdue s 0 :=
  ⟨{ nodeAt 0 (fun p => { p with ctx := 1, iter := some { iter0 with draw := true } }) (world { more := [(0x30014, 4, 1)] }) with timer := 2 ^ 62 },
    by decide +kernel, by decide +kernel, { iter0 with draw := true }, by decide +kernel, by decide +kernel, by decide +kernel, by decide +kernel⟩

/-! SplicesShiftsAndBarriersComplete. -/

/-- Plane 0 takes over from plane 1. -/
def splicing (f : Plane → Plane) : State :=
  let s := nodeAt 0 (fun p => { f p with pred := some 1, w := 1, h := 1 })
  { s with fc := 5, planes := s.planes.put 1 Plane.reset }

theorem witness_wave : let s := splicing id; let p := s.plane 0
    p.pred = some 1 ∧ 63 + 64 * 0 = 63 ∧ (7 + 64 * 7) ∈ p.elems 0 ∧ (∀ w ∈ p.waves, w.1 ≠ 7 + 64 * 7) ∧ (s.plane 1).frames = [] ∧ ∀ f ∈ s.flights, f.plane ≠ 1 := by
  decide +kernel

/-- The first element to switch, and the last. -/
theorem witness_switch (done : List Nat) (h : done = [] ∨ done = ((List.range 64).filter (· ≠ 63)).map (fun i => i % 8 + 64 * (i / 8))) :
    let s := splicing (fun p => { p with switched := done }); let p := s.plane 0
    p.pred = some 1 ∧ (7 + 64 * 7) ∈ p.elems 0 ∧ (7 + 64 * 7) ∉ p.switched ∧ (∀ g ∈ (s.plane 1).groups, g.1 ≠ 7 + 64 * 7) ∧
    (∀ r ∈ (s.plane 1).routesInto 1 (7 + 64 * 7), ∃ w ∈ p.waves, w.1 = r.1 ∧ w.2 + r.2 ≤ s.fc) ∧
    ((∀ z ∈ p.elems 0, z ∈ p.switched ∨ z = 7 + 64 * 7) ↔ done ≠ []) := by
  rcases h with rfl | rfl <;> decide +kernel

theorem witness_lane_group (gen : Nat) (h : gen = 0 ∨ gen = 1) : let g : LaneGroup := ⟨5, 0, 0, 0, gen, [(0, 1#32)], 0, false⟩
    let s : State := { shifting 0 with planes := (shifting 0).planes.put 0 { (shifting 0).plane 0 with groupsIn := [g] }, fc := 5 }
    locateGroup s.planes 0 = some (0, 0) ∧ (s.plane 0).groupsIn[0]? = some g ∧ g.here = false ∧ g.due ≤ s.fc ∧
    (s.plane 0).frames.find g.frame = some frame0 ∧ (frame0.gen = g.gen ↔ gen = 0) := by
  rcases h with rfl | rfl <;> decide +kernel

/-- A shift all of whose lanes have come, a value of its own in each. -/
def lanes16 : LaneGroup := ⟨4, 0, 0, 0, 0, (List.range 16).map (fun i => (i, BitVec.ofNat 32 i)), 0, true⟩
def shift0 : Shift := ⟨0, 0, 0, 0, 4, 2, 0#512, noOperand, none⟩

theorem witness_shift_complete (mode : Nat) (h : mode = 0 ∨ mode = 1 ∨ mode = 2 ∨ mode = 3) :
    let s : State := { nodeAt (shiftWord mode) (fun p => { p with shifts := [shift0], groupsIn := [lanes16] }) with fc := 5 }; let p := s.plane 0
    p.shifts.find? (fun h => h.elem = 0 && h.node = 0 && h.frame = 0) = some shift0 ∧ p.frames.find 0 = some frame0 ∧ frame0.gen = shift0.gen ∧
    frame0.parked = false ∧ p.frozen = false ∧ shift0.at_ < s.fc ∧ p.lattice 0 0 0 = (0, 0, 8, 8) := by
  rcases h with rfl | rfl | rfl | rfl <;> decide +kernel

theorem witness_shift_lanes (p : Plane) (hp : p.groupsIn = [lanes16]) : ∀ i < 16, ∃ v, Present p shift0 i v ∧ ∀ w, Present p shift0 i w → w = v := by
  intro i hi
  refine ⟨BitVec.ofNat 32 i, ⟨lanes16, by simp [hp], rfl, rfl, rfl, rfl, rfl, ?_⟩, ?_⟩
  · exact List.mem_map.mpr ⟨i, List.mem_range.mpr hi, rfl⟩
  · rintro w ⟨g, hg, -, -, -, -, -, hm⟩
    rw [hp, List.mem_singleton] at hg
    subst hg
    obtain ⟨j, -, hj⟩ := List.mem_map.mp hm
    cases hj
    rfl

theorem witness_barrier (due : Nat) (h : due = 5 ∨ due = 6) : let b : Bar := ⟨0, 0, [(0, 0, noOperand)], some due⟩
    let s : State := { shifting 0 with planes := (shifting 0).planes.put 0 { (shifting 0).plane 0 with bars := [b] }, fc := 5 }
    (s.planes.flatMap (fun x => x.2.bars.map (fun b => (x.1, b))))[0]? = some (0, b) ∧ (s.plane 0).frames.find b.frame = some frame0 ∧
    b.exit = some due ∧ b.arrived ≠ [] ∧ (s.plane 0).swap = 0 ∧ (due ≤ s.fc ↔ due = 5) := by
  rcases h with rfl | rfl <;> decide +kernel

end Sys2Proof.Tests
end

