-- ==== Sys2Proof/Tests/WitnessMemory.lean ====
section
/-! SUPPORT. States that meet the hypotheses of the statements about memory ports and reductions, clause by clause. -/

namespace Sys2Proof.Tests

set_option Elab.async false

open Sys2Proof Sys2Proof.Machine Sys2Proof.Claim

/-! MemoryPortsServeRequests. -/

/-- A request of frame 0 of a node's opcode, FMT, MOD and OPERAND, with L and R, that stands in its port's queue. -/
def request (opc fmt mod operand : Nat) (l : Operand) (r : Operand := op 5 0xFFFF) : Req :=
  ⟨0, 0, 0, 0, 0, opc, Decode.nodeBody (nodeWord opc fmt mod 0xC 0 operand), l, r, noOperand, 0, .queued, 0, 0, 0, []⟩

/-- A tensor in the scratchpad: of a format, of so many elements in a row, with more bits set. -/
def rowTensor (fmt n more : Nat) : BitVec 512 := BitVec.ofNat 512 (2 ^ 57 + fmt * 2 ^ 64 + 2 ^ 79 + n * 2 ^ 128 + 2 ^ 160 + 2 ^ 192 + 2 ^ 224 + 2 ^ 256 + more)

/-- A plane with the request, numbered 3, and three tensors: of f32, of 4-bit elements, and of 2:4 pairs. -/
def holding (q : Req) : State :=
  { nodeAt 0 with reqs := [(3, q)], tids := [(1, rowTensor 10 16 0), (2, rowTensor 14 1 0), (4, rowTensor 10 16 (2 ^ 78))], fc := 5 }

theorem witness_accept (q : Req) (h : q = { request 0x80 2 0 0 noOperand with stage := .sent } ∨ q = { request 0x88 2 0 0 noOperand with stage := .sent }) :
    (holding q).reqs.find 3 = some q ∧ q.stage = .sent ∧ q.opc ≠ 0xB3 ∧ q.opc ≠ 0xB5 ∧ ∀ x ∈ (holding q).reqs, 3 ≤ x.1 := by
  rcases h with rfl | rfl <;> decide +kernel

/-- One element's access. -/
def accessOf (s : State) (q : Req) (x : Elt) (k : Acc) (upd : Nat → Option Nat) : State × Except Err Nat :=
  s.portAccess q.tlb (s.reqIss q) x.loc.sp (x.loc.at_.getD 0) (x.w / 8) k upd

/-- One element of a request whose elements are bytes or wider. -/
def performed (s : State) (q : Req) (x : Elt) : State × Except Err Nat :=
  let rmw : Acc := { wr := true, atomic := true, acq := true, rel := true, scope := q.body.mod.toNat }
  if q.opc = 0x80 ∨ q.opc = 0x82 ∨ q.opc = 0x89 then accessOf s q x {} (fun _ => none)
  else if q.opc = 0x81 ∨ q.opc = 0x83 ∨ q.opc = 0x8A then accessOf s q x { wr := true } (fun _ => some x.val)
  else if q.opc = 0x93 then accessOf s q x rmw (fun m => some (if m = x.exp then x.val else m))
  else if q.opc = 0x94 then accessOf s q x rmw (fun _ => some x.val)
  else accessOf s q x rmw (fun m => some (min m x.val))

/-- Every element of a list completes, in order, at its home in this module. -/
def allDone (q : Req) : State → List Elt → Bool
  | _, [] => true
  | s, x :: l => !s.eltFar q x && decide (8 ≤ x.w ∧ x.loc.bitn = 0) && (performed s q x).2.toOption.isSome && decide (valOf 0 (performed s q x) < 2 ^ x.w) &&
    allDone q (performed s q x).1 l

theorem element_done {s : State} {q : Req} {x : Elt} (hw : 8 ≤ x.w ∧ x.loc.bitn = 0) (h : (performed s q x).2.toOption.isSome = true)
    (hv : valOf 0 (performed s q x) < 2 ^ x.w) : ElementDone s q x (performed s q x).1 (valOf 0 (performed s q x)) := by
  have k := okay 0 h
  refine .inl ⟨hw.1, hw.2, hv, fun ho => ?_, fun ho => ?_, fun ho => ?_, fun ho => ?_, fun ho => ?_⟩ <;>
    refine Eq.trans ?_ k
  · rcases ho with ho | ho | ho <;> simp [performed, accessOf, ho]
  · rcases ho with ho | ho | ho <;> simp [performed, accessOf, ho]
  all_goals simp [performed, accessOf, ho]

theorem elements_done {q : Req} : ∀ {l : List Elt} {s : State}, allDone q s l = true →
    ∃ (u : Nat → State) (old : Nat → Nat), u 0 = s ∧ ∀ i x, l[i]? = some x → ElementServed (u i) 3 q x (u (i + 1)) (old i)
  | [], s, _ => ⟨fun _ => s, fun _ => 0, rfl, fun i x h => by simp at h⟩
  | x :: l, s, h => by
    simp only [allDone, Bool.and_eq_true, Bool.not_eq_true', decide_eq_true_eq] at h
    obtain ⟨⟨⟨⟨hf, hw⟩, hs⟩, hv⟩, hl⟩ := h
    obtain ⟨u, old, h0, hu⟩ := elements_done hl
    refine ⟨fun i => match i with | 0 => s | i + 1 => u i, fun i => match i with | 0 => valOf 0 (performed s q x) | i + 1 => old i, rfl, ?_⟩
    rintro (_ | i) y hy
    · cases hy
      simp only
      rw [h0]
      exact .inl ⟨hf, element_done hw hs hv⟩
    · exact hu i y hy

/-- The elements of a request, none when it has none. -/
def eltsOf (s : State) (q : Req) : List Elt := (s.elts q).toOption.getD []

/-- Lane words of an STV as they are stored, and what a port performs of a request's elements. -/
theorem pairWords_paired (l : List Elt) : Paired l (pairWords l) := by
  induction l using pairWords.induct with
  | case1 x y l h ih => rw [pairWords, if_pos h]; exact .inl ⟨x, y, l, rfl, h.1, h.2, rfl, ih⟩
  | case2 x y l h ih => rw [pairWords, if_neg h]; exact .inr ⟨y :: l, rfl, fun z n e => by cases e; exact h, ih⟩
  | case3 l h =>
    match l, h with
    | [], _ => rfl
    | [x], _ => exact .inr ⟨[], rfl, nofun, rfl⟩
    | x :: y :: m, h => exact absurd rfl (h x y m)

theorem toPerform_performs (q : Req) (l : List Elt) : Performs q l (toPerform q l) := by
  refine ⟨fun h1 h2 => by simp [toPerform, h1, h2], fun h => ?_, fun h => ?_⟩
  · simp [toPerform, h, elemLive]
  · simp only [toPerform, h]
    exact pairWords_paired l

/-- A request in its turn whose checks pass and whose elements complete. -/
def runsWell (q : Req) (n : Nat) : Bool :=
  let s := holding q; let l := eltsOf s q
  s.mayIssue 3 q && (s.elts q).toOption.isSome && (s.checkElts q l).2.isNone && decide ((l.map Elt.j).Nodup) &&
  allDone q (s.checkElts q l).1 (toPerform q l) && decide (l.length = n)

theorem elts_there {s : State} {q : Req} (h : (s.elts q).toOption.isSome = true) : s.elts q = .ok (eltsOf s q) := by
  unfold eltsOf
  cases hx : s.elts q with
  | error e => simp [hx, Except.toOption] at h
  | ok l => rfl

theorem request_runs {q : Req} {n : Nat} (h : runsWell q n = true) (hr : (holding q).reqs.find 3 = some q) :
    ∃ (l m : List Elt) (s1 : State) (u : Nat → State) (old : Nat → Nat), Turn (holding q) 3 q q.opc ∧ (holding q).elts q = .ok l ∧
      (l.map Elt.j).Nodup ∧ (holding q).checkElts q l = (s1, none) ∧ Performs q l m ∧ u 0 = s1 ∧
      (∀ i x, m[i]? = some x → ElementServed (u i) 3 q x (u (i + 1)) (old i)) ∧ l.length = n := by
  simp only [runsWell, Bool.and_eq_true, decide_eq_true_eq, Option.isNone_iff_eq_none] at h
  obtain ⟨⟨⟨⟨⟨h1, h2⟩, h3⟩, h4⟩, h5⟩, h6⟩ := h
  obtain ⟨u, old, h0, hu⟩ := elements_done h5
  exact ⟨_, _, _, u, old, ⟨hr, h1, rfl⟩, elts_there h2, h4, pair h3, toPerform_performs q _, h0, hu, h6⟩

/-- Requests with as many elements as they may have in the scratchpad, or with none. -/
def sixteen : List (Req × Nat) :=
  [(request 0x80 2 0 (2 ^ 30) (op 0 0xFFFF), 16), (request 0x81 0 0 (2 ^ 30) (op 0 0xFFFF), 16), (request 0x82 2 0 (2 ^ 30) (op 0 0xFFFF), 16),
   (request 0x83 2 0 (2 ^ 30) (op 0 0xFFFF), 16), (request 0x93 2 1 (2 ^ 30) (op 0 0xFFFF), 8), (request 0x94 3 1 (2 ^ 30) (op 0 0xFFFF), 8),
   (request 0xB2 3 1 (2 ^ 30) (op 0 0xFFFF), 8), (request 0x80 2 0 (2 ^ 30) (op 0 0), 0), (request 0x82 2 0 (2 ^ 30) (op 0 0), 0)]

/-- LDT and STT of a row of sixteen. -/
def rows16 : List (Req × Nat) := [(request 0x89 2 0 1 (op 0 0xFFFF), 16), (request 0x8A 2 0 1 (op 0 0xFFFF), 16)]

theorem witness_performs : ∀ x ∈ sixteen ++ rows16, runsWell x.1 x.2 = true ∧ (holding x.1).reqs.find 3 = some x.1 ∧ x.1.done = 0 ∧ x.1.got = [] ∧
    x.1.opc ∈ [0x80, 0x81, 0x82, 0x83, 0x89, 0x8A, 0x93, 0x94, 0xB2] := by decide +kernel

/-- STT of an element of 4 bits: its byte is read and written. -/
theorem witness_small_element : ∃ x a t m old, let q := request 0x8A 2 0 2 (op 0 0xFFFF)
    (holding q).mayIssue 3 q = true ∧ (holding q).elts q = .ok [x] ∧ (holding q).checkElts q [x] = (holding q, none) ∧ x.w = 4 ∧
    (holding q).portAccess q.tlb ((holding q).reqIss q) x.loc.sp (x.loc.at_.getD 0) 1 {} (fun _ => none) = (a, .ok m) ∧
    a.portAccess q.tlb ((holding q).reqIss q) x.loc.sp (x.loc.at_.getD 0) 1 { wr := true } (fun _ =>
      some (m - m / 2 ^ x.loc.bitn % 2 ^ x.w * 2 ^ x.loc.bitn + x.val % 2 ^ x.w * 2 ^ x.loc.bitn)) = (t, .ok old) :=
  ⟨⟨0, [0], ⟨true, some 0, 0⟩, 0, 4, 5, 0⟩, _, _, _, _, by decide +kernel, by decide +kernel, by decide +kernel, rfl,
    okay 0 (by decide +kernel), okay 0 (by decide +kernel)⟩

/-- Checks that fail: alignment, the last offset of a scratchpad and the first outside. -/
theorem witness_check_fails (opc off : Nat) (h : (opc = 0x80 ∧ off = 2) ∨ (opc = 0x81 ∧ off = 2 ^ 22 - 4) ∨ (opc = 0x82 ∧ off = 4)) :
    let q := request opc 2 0 (2 ^ 30 + off) (op (if opc = 0x81 then 0xC00000 else 0) 1)
    (holding q).mayIssue 3 q = true ∧ q.done = 0 ∧ (holding q).elts q = .ok (eltsOf (holding q) q) ∧
    ((holding q).checkElts q (eltsOf (holding q) q)).2.isSome = decide (opc ≠ 0x81) := by
  rcases h with h | h | h <;> obtain ⟨rfl, rfl⟩ := h <;> decide +kernel

theorem witness_tensor_stops (i : Nat) (h : i = 3 ∨ i = 4) : let q := request 0x89 2 0 i (op 0 0xFFFF)
    (holding q).reqs.find 3 = some q ∧ (holding q).mayIssue 3 q = true ∧ q.opc = 0x89 ∧
    ((i = 3 ∧ ((holding q).reqTid q).testBit 79 = false) ∨ (i = 4 ∧ ((holding q).reqTid q).testBit 79 = true ∧ tidSp24 ((holding q).reqTid q) = true)) := by
  rcases h with rfl | rfl <;> decide +kernel

/-- PFH, FENCE, RED and HGS whose contributions are accepted. -/
theorem witness_other_requests (opc : Nat) (h : opc = 0x86 ∨ opc = 0x95 ∨ opc = 0x90 ∨ opc = 0xB4) : let q := request opc 2 0 (2 ^ 30) (op 0 0)
    Turn (holding q) 3 q opc ∧ ∀ c ∈ (holding q).contribs, c.2.req = 3 → c.2.accepted = true := by
  unfold Turn
  rcases h with rfl | rfl | rfl | rfl <;> decide +kernel

/-- LOCK and UNLOCK of no live lane. -/
theorem witness_no_lock (opc : Nat) (h : opc = 0x91 ∨ opc = 0x92) : let q := request opc 2 0 (2 ^ 30) (op 0 0)
    Turn (holding q) 3 q opc ∧ ∀ j, ¬LowestLive (holding q) q j := by
  refine ⟨by unfold Turn; rcases h with rfl | rfl <;> decide +kernel, fun j hj => ?_⟩
  have hm : ∀ i, (firingOf (holding (request opc 2 0 (2 ^ 30) (op 0 0))) (request opc 2 0 (2 ^ 30) (op 0 0))).l.mask.getLsbD i = false := by
    intro i; show (0#16).getLsbD i = false; simp
  have hl := hj.1.2.1
  unfold requestLanes at hl
  split at hl
  · have := (hl (2 * j) (by simp)).1; rw [hm] at this; cases this
  · have := (hl _ (List.mem_singleton.mpr rfl)).1; rw [hm] at this; cases this

/-- A LOCK or an UNLOCK of the scratchpad's first word by frame 0, with its token as given and a request of frame 7 behind it. -/
def locking (opc : Nat) (x : Option LockSt) : State :=
  let q := request opc 2 1 (2 ^ 30) (op 0 0xFFFF)
  { holding q with
    reqs := [(3, q), (4, { q with frame := 7, stage := .waiting })]
    tokens := match x with | some x => [((lockToken (spAddr 0 0)).getD 0, x)] | none => [] }

theorem witness_lock (opc : Nat) (x : Option LockSt) (h : (opc = 0x91 ∧ (x = none ∨ x = some ⟨some (0, 7, 0), []⟩ ∨ x = some ⟨some (0, 0, 0), []⟩)) ∨
      (opc = 0x92 ∧ (x = none ∨ x = some ⟨some (0, 7, 0), []⟩ ∨ x = some ⟨some (0, 0, 0), []⟩ ∨ x = some ⟨some (0, 0, 0), [4]⟩))) :
    let s := locking opc x; let q := request opc 2 1 (2 ^ 30) (op 0 0xFFFF)
    LowestLive s q 0 ∧ s.lockPlace q 0 = (s, .ok (spAddr 0 0, false)) ∧ lockToken (spAddr 0 0) = some ((lockToken (spAddr 0 0)).getD 0) ∧
    target (spAddr 0 0) = .scratch 0 ∧ s.late = [] ∧
    s.reqs.find 3 = some q ∧ s.mayIssue 3 q = true ∧ q.opc = opc ∧ s.tokens.find ((lockToken (spAddr 0 0)).getD 0) = x ∧
    (∀ y ∈ x, y.fifo = [4] → s.reqs.find 4 = some { q with frame := 7, stage := .waiting }) := by
  unfold LowestLive LiveRequest On
  rcases h with ⟨rfl, rfl | rfl | rfl⟩ | ⟨rfl, rfl | rfl | rfl | rfl⟩ <;> decide +kernel

/-- WAITW of no live lane; off its word's alignment; at the first offset outside the scratchpad; at its last word, equal or not. -/
theorem witness_waitw (v : Vec) (m : Mask) (imm : Nat) (h : (v = 0 ∧ m = 0 ∧ imm = 0) ∨ (v = 2 ∧ m = 1 ∧ imm = 0) ∨ (v = 0x1000000 ∧ m = 1 ∧ imm = 0) ∨
      (v = 0xFFFFFC ∧ m = 1 ∧ imm = 0) ∨ (v = 0xFFFFFC ∧ m = 1 ∧ imm = 2 ^ 32 - 1)) :
    let q := request 0x88 2 0 imm (op v m); let s := holding q; let off := lane q.l.val 0; let pa := spAddr 0 off
    Turn s 3 q 0x88 ∧ ((∀ i < 16, q.l.mask.getLsbD i = false) ∨ (q.l.mask.getLsbD 0 = true ∧
      (off % 4 ≠ 0 ∨ 2 ^ 24 ≤ off ∨ (off % 4 = 0 ∧ off < 2 ^ 24 ∧
        (s.reqs.filter (fun x => x.2.opc = 0x88 && x.2.stage = .waiting && pkDie x.2.plane = 0 && x.2.done / 8 % 64 = pa / 8 % 64)).length < 64 ∧
        (∀ x ∈ s.reqs, x.1 ≠ 3 → x.2.opc = 0x88 → s.mayIssue x.1 x.2 = true → q.ord ≤ x.2.ord) ∧
        (s.natAt 0 pa 4 = q.body.operand.toNat ↔ imm = 0))))) := by
  unfold Turn
  rcases h with h | h | h | h | h <;> obtain ⟨rfl, rfl, rfl⟩ := h <;> decide +kernel

/-- Requests whose wait is over. -/
theorem witness_wakes (opc : Nat) (h : opc = 0x88 ∨ opc = 0x97 ∨ opc = 0x91) :
    let q := { request opc 2 1 (2 ^ 30) (op 0 0xFFFF) with stage := .done }; let s := holding q
    (s.reqs.filter (fun x => x.2.stage = .done && s.planes.has x.2.plane && !(s.plane x.2.plane).leaving))[0]? = some (3, q) ∧
    (opc = 0x91 → LowestLive s q 0 ∧ s.lockPlace q 0 = (s, .ok (spAddr 0 0, false))) := by
  unfold LowestLive LiveRequest On
  rcases h with rfl | rfl | rfl <;> decide +kernel

/-! TimeoutsWalksAndReductions. -/

/-- A load of two elements from another module's memory, issued 2,600 fc ago, and what its home has answered. -/
def farLoad (l : List Late) : State :=
  { holding (request 0x80 2 0 0 (op 0 3)) with
    fc := 2600, late := l, tlb := [⟨1000, 0, 0, 9, BitVec.ofNat 64 (0x30F + 2 ^ 51), 0⟩]
    csrs := (List.range 12).map (fun p => (0x0390 + p, 0xC#64)) }

/-- Every link is down: the response of its first element is waited for. -/
theorem witness_far_waits : ∃ x m s1 s2, let q := request 0x80 2 0 0 (op 0 3); let s := farLoad []
    Turn s 3 q 0x80 ∧ q.done = 0 ∧ s.elts q = .ok (x :: m) ∧ s.checkElts q (x :: m) = (s1, none) ∧ Performs q (x :: m) (x :: m) ∧
    s1.eltFar q x = true ∧ s1.late = [] ∧ s1.farResponse = (1, s2) :=
  ⟨(eltsOf (farLoad []) (request 0x80 2 0 0 (op 0 3))).headD ⟨0, [], ⟨true, none, 0⟩, 0, 0, 0, 0⟩, (eltsOf (farLoad []) (request 0x80 2 0 0 (op 0 3))).tail,
    ((farLoad []).checkElts (request 0x80 2 0 0 (op 0 3)) (eltsOf (farLoad []) (request 0x80 2 0 0 (op 0 3)))).1,
    ((farLoad []).checkElts (request 0x80 2 0 0 (op 0 3)) (eltsOf (farLoad []) (request 0x80 2 0 0 (op 0 3)))).1,
    by unfold Turn; decide +kernel, rfl, by decide +kernel, pair (by decide +kernel), ⟨fun _ _ => rfl, nofun, nofun⟩, by decide +kernel, by decide +kernel,
    by decide +kernel⟩

/-- Its time is over, its first element performed or not. -/
theorem witness_timeout (v : Option Nat) (h : v = none ∨ v = some 7) : ∃ x m, let q := request 0x80 2 0 0 (op 0 3); let e : Late := ⟨3, 0, v, 2600, true⟩
    let s := farLoad [e]
    s.reqs.find 3 = some q ∧ s.planes.has q.plane = true ∧ s.late.find? (fun x => x.req = 3 && x.waits) = some e ∧ e.at_ ≤ s.fc ∧
    s.elts q = .ok (x :: m) ∧ (x :: m).find? (fun y => y.j = e.elt) = some x ∧ Performs q (x :: m) (x :: m) := by
  refine ⟨(eltsOf (farLoad []) (request 0x80 2 0 0 (op 0 3))).headD ⟨0, [], ⟨true, none, 0⟩, 0, 0, 0, 0⟩, (eltsOf (farLoad []) (request 0x80 2 0 0 (op 0 3))).tail, ?_⟩
  rcases h with rfl | rfl <;> exact ⟨by decide +kernel, by decide +kernel, by decide +kernel, by decide +kernel, by decide +kernel, by decide +kernel,
    ⟨fun _ _ => rfl, nofun, nofun⟩⟩

/-- A LOCK of another module's memory whose time is over. -/
theorem witness_lock_timeout : ∃ pa w m, let q := { request 0x91 2 1 0 (op 0 3) with stage := .waiting, at_ := 2600 }
    let s : State := { farLoad [] with reqs := [(3, q)] }
    s.reqs.find 3 = some q ∧ s.planes.has q.plane = true ∧ s.late.find? (fun x => x.req = 3 && x.waits) = none ∧ q.opc = 0x91 ∧ q.stage = .waiting ∧
    LowestLive s q 0 ∧ (s.lockPlace q 0).2 = .ok (pa, w) ∧ target pa = .remote m ∧ q.at_ ≤ s.fc := by
  unfold LowestLive LiveRequest On
  exact ⟨2 ^ 51, false, 0, by decide +kernel⟩

/-- A send of node 0 to a conversation of another module that has waited its time. -/
def farSend (h : Word) : Send :=
  ⟨⟨0, 0, false, 0, some (0, 0, 0, 0, 0), none, none, 0⟩, Decode.nodeBody 0, noOperand, h, 0, 0, false, false, [], 0#64, none, 0, 0, 2600, 0, false⟩

theorem far_handle (m : BitVec 12) : (((m ^^^ 1#12) ++ 0#52 : BitVec 64).toNat / 2 ^ 52) % 2 ^ 12 ≠ m.toNat := by
  have : ((m ^^^ 1#12) ++ 0#52 : BitVec 64).toNat = (m ^^^ 1#12).toNat * 2 ^ 52 := by
    rw [BitVec.toNat_append, Nat.shiftLeft_eq]
    simp
  rw [this, Nat.mul_div_cancel _ (by decide), Nat.mod_eq_of_lt (m ^^^ 1#12).isLt]
  revert m
  decide +kernel

theorem witness_send_timeout : ∃ h : Word, let s : State := { nodeAt 0 with fc := 2600, sends := [(4, farSend h)] }
    s.reqs.find 4 = none ∧ s.sends.find 4 = some (farSend h) ∧ (farSend h).held = false ∧ convKey (farSend h).handle.toNat = none ∧
    (farSend h).due ≤ s.fc ∧ (farSend h).iss.frame = some (0, 0, 0, 0, 0) ∧ (s.plane 0).frames.find 0 = some frame0 := by
  refine ⟨(Config.moduleNumber ^^^ 1#12) ++ 0#52, rfl, rfl, rfl, ?_, show (2600 : Nat) ≤ 2600 by decide, rfl, by rfl⟩
  have := far_handle Config.moduleNumber
  unfold convKey bits
  exact if_neg this

theorem witness_walk : ∃ s1 tr, (world {}).translate 1000 (tlbDie 1000) 1 (BitVec.ofNat 64 0x3FFFFFFF).toNat true false true = (s1, .ok tr) :=
  ⟨_, _, okay ⟨0, 0, false⟩ (by decide +kernel)⟩

/-- A contribution of a RED in the scratchpad at an offset, ordered or not, ready or not, alone or with another. -/
def part (va : Nat) (ord accepted ready : Bool) : Contrib := ⟨0, 0, 0, none, va, true, 7, 2, 0, 4, ord, (0, 0, 0), ⟨0, 0, false, 0, none, none, none, 0⟩, 3, accepted, ready, 1⟩

/-- A plane with contributions and their request. -/
def reducing (l : List (Nat × Contrib)) : State :=
  { nodeAt 0 (fun p => { p with frames := [(0, { frame0 with itix := 64 })] }) with reqs := [(3, request 0x90 2 0 (2 ^ 30) (op 0 0xFFFF))], contribs := l }

theorem witness_reduction_accept (va : Nat) (ord : Bool) (l : List (Nat × Contrib)) (h : va = 2 ∨ va = 2 ^ 24 - 4 ∨ va = 2 ^ 24)
    (hl : l = [] ∨ l = [(6, part 0 false false false)]) :
    let x := part va ord false false; let s := reducing ((5, x) :: l); let q := request 0x90 2 0 (2 ^ 30) (op 0 0xFFFF)
    s.contribs.find 5 = some x ∧ s.reqs.find x.req = some q ∧ s.mayIssue 3 q = true ∧ x.accepted = false ∧
    (va % 4 ≠ 0 ∨ 2 ^ 24 ≤ va ∨ (va % 4 = 0 ∧ va < 2 ^ 24 ∧ s.rootCheck q x = (s, none))) := by
  rcases h with rfl | rfl | rfl <;> rcases hl with rfl | rfl <;> rcases ord <;> decide +kernel

/-- A window with two contributions, and one with none. -/
theorem witness_window (l : List (Nat × Contrib)) (at_ : Option Nat)
    (h : (l = [] ∧ at_ = none) ∨ (l = [(5, { part 0 true true false with at_ := at_ }), (6, { part 0 true true false with key := (0, 0, 1), at_ := at_ })] ∧
      (at_ = none ∨ at_ = some 0))) :
    let x := { part 0 true true false with at_ := at_ }.window
    let s : State := { reducing l with windows := [(8, x)], planes := [(0, { Plane.reset with tree := [(0, 0xFF0000#32)] })] }
    let mine (c : Contrib) : Prop := c.ord = true ∧ c.accepted = true ∧ c.ready = false ∧ c.window = x
    s.windows.find 8 = some x ∧ s.mayClose x = true ∧ (s.contribs.map Prod.fst).Nodup ∧ x.at_ = at_ ∧
    s.contribs.filter (fun c => decide (mine c.2)) = l ∧ l.Pairwise (fun a b => keyLt a.2.key b.2.key = true) := by
  rcases h with ⟨rfl, rfl⟩ | ⟨rfl, rfl | rfl⟩ <;> decide +kernel

/-- Their sum. -/
theorem witness_window_sum : ∃ (sum : Nat → Nat) (R : Nat → Num.Rnd), sum 0 = 7 ∧ R 1 = ⟨0, 0#32, 0⟩ ∧ (sum 1, R 2) = combine 2 0 (R 1) (sum 0) 7 :=
  ⟨fun i => if i = 0 then 7 else (combine 2 0 ⟨0, 0#32, 0⟩ 7 7).1, fun i => if i = 1 then ⟨0, 0#32, 0⟩ else (combine 2 0 ⟨0, 0#32, 0⟩ 7 7).2, rfl, rfl, rfl⟩

/-- The sole writer's turn for a plain contribution and for an ordered one. -/
theorem witness_reduction_apply (ord : Bool) : ∃ s1 s2 old v R, let x := part (2 ^ 24 - 4) ord true true; let s := reducing [(5, x)]
    let i : Issuer := { x.iss with frame := none, unit := none }
    s.contribs.find 5 = some x ∧ x.ready = true ∧ s.planes.find x.plane = some (s.plane 0) ∧ s.lowerBlock 5 x = false ∧
    ({ s with contribs := s.contribs.del 5 }).portAccess (1000 + portNumber 0 0 0 0) i x.sp x.va 4 {} (fun _ => none) = (s1, .ok old) ∧
    (v, R) = combine x.fmt x.op ⟨0, 0#32, 0⟩ old x.val ∧
    ∃ o, s1.portAccess (1000 + portNumber 0 0 0 0) i x.sp x.va 4 { wr := true, rel := (s.plane 0).iterOver, scope := x.scope } (fun _ => some v) = (s2, .ok o) := by
  cases ord <;> exact ⟨_, _, _, _, _, by decide +kernel, rfl, by decide +kernel, by decide +kernel, okay 0 (by decide +kernel), rfl,
    _, okay 0 (by decide +kernel)⟩

end Sys2Proof.Tests
end

