-- ==== Sys2Proof/Tests/WitnessRegion.lean ====
section
/-! SUPPORT. States and operands that meet the hypotheses of the statements about regions, tensor identifiers, engines' commands,
control registers, swaps and parked work, clause by clause. -/

namespace Sys2Proof.Tests

set_option Elab.async false

open Sys2Proof Sys2Proof.Machine Sys2Proof.Claim

/-- A world whose block has planes 0 and 1. -/
def planesWorld (t : Setting) (p q : Plane) : State :=
  { world t with
    blocks := [(blockKey 1 0, ⟨0, 0, 64, 1024, 16, [(0, 0), (1, 1)], blockOf (blockFields t.queue ++ t.more)⟩)]
    planes := [(0, { p with ctx := 1 }), (1, { q with ctx := 1, vp := 1 })] }

/-- A plane in a state, with nodes. -/
def planeIn (x : PlaneState) (nodes : Map (BitVec 128) := []) : Plane := { Plane.reset with state := x, nodes := nodes }

/-! RegionInstructionsActOrTrap. -/

theorem witness_cfgact (x : PlaneState) (h : x = .loaded ∨ x = .active) :
    (planesWorld {} (planeIn x) .reset).myPlane 0#2 = .ok (some (planesWorld {} (planeIn x) .reset, 0)) ∧
    ((planesWorld {} (planeIn x) .reset).plane 0).state = x := by rcases h with rfl | rfl <;> decide +kernel

/-- PRIO and DRAIN on an active plane. -/
theorem witness_drain : (planesWorld {} (planeIn .active) .reset).myPlane 0#2 = .ok (some (planesWorld {} (planeIn .active) .reset, 0)) ∧
    ((planesWorld {} (planeIn .active) .reset).plane 0).state = .active := by decide +kernel

/-- 2^47 draws, with the second and third counts from g0. -/
theorem witness_iter : let s := planesWorld { regs := [2 ^ 47] } (planeIn .active) .reset
    s.myPlane 0#2 = .ok (some (s, 0)) ∧ 0 < (s.g 1#5).toNat ∧ (s.g 1#5).toNat * 1 * 1 < 2 ^ 48 ∧ (s.plane 0).iter = none := by decide +kernel

theorem witness_splice : let s := planesWorld {} (planeIn .loaded) (planeIn .active)
    s.myPlane 0#2 = .ok (some (s, 0)) ∧ s.myPlane 1#2 = .ok (some (s, 1)) ∧ (s.plane 0).state = .loaded ∧ (s.plane 1).state = .active := by decide +kernel

theorem witness_no_region : State.reset.me.region = none := by decide

theorem witness_wrong_state (x : PlaneState) (h : x = .empty ∨ x = .active ∨ x = .draining) : let s := planesWorld {} (planeIn x) .reset
    s.myPlane 0#2 = .ok (some (s, 0)) ∧ (s.plane 0).state = x := by rcases h with rfl | rfl | rfl <;> decide +kernel

/-! TokensCrossTheRegionBoundary: node 31 with L sticky. -/

def stickyNode : Map (BitVec 128) := [(31, 0x06208000000000000000000000000000#128 ||| (1#128 <<< 107))]

theorem witness_tokin : let s := planesWorld { regs := [7, 31] } (planeIn .active stickyNode) .reset
    s.myPlane 0#2 = .ok (some (s, 0)) ∧ (∀ x ∈ (s.plane 0).nodes, x.1 % 32 = 31 → x.2.getLsbD 107 = true) ∧ (s.plane 0).nodes ≠ [] := by decide +kernel

theorem witness_tokget_none : let s := planesWorld { regs := [0x50100] } (planeIn .active) .reset
    s.myPlane 0#2 = .ok (some (s, 0)) ∧ (s.g 1#5).toNat % 64 = 0 ∧ (s.plane 0).tokq = [] := by decide +kernel

theorem witness_tokget : let s := planesWorld { regs := [0x50100] } { planeIn .active with tokq := [(5#512, 1#16)] } .reset
    ∃ s2 s3 tr, s.myPlane 0#2 = .ok (some (s, 0)) ∧ (s.plane 0).state ≠ .empty ∧ (s.plane 0).tokq = [(5#512, 1#16)] ∧
    Reaches s (s.g 1#5).toNat 64 { wr := true } s2 tr ∧ s2.physWrite tr.slot tr.pa (Machine.leBytes 64 (5#512).toNat) = (s3, .ok ()) ∧ Sound s2 tr.pa 64 :=
  ⟨_, _, ⟨0x50100, 0, false⟩, by decide +kernel, by decide +kernel, by decide +kernel,
    near (by decide +kernel) (by decide +kernel) (pair (by decide +kernel)) nofun, pair (by decide +kernel), by decide +kernel, by decide +kernel⟩

/-! CfgldLoadsWhatTheChecksAccept: an image of one INEG node on an 8 by 8 tile at 0x70000, and one of an unknown version. -/

def imageAt (version : Nat) : List (Nat × Nat × Nat) :=
  [(0x70000, 2, version), (0x70002, 1, 1), (0x70003, 1, 1), (0x70006, 1, 8), (0x70007, 1, 8), (0x7000A, 2, 1), (0x7000C, 4, 0x60),
   (0x70010, 4, 0x60), (0x70044, 4, 1), (0x70048, 16, 0x06208000000000000000000000000000)]

/-- A record about to load an image. -/
def loader (version : Nat) : State := planesWorld { regs := [0x70000], more := imageAt version } .reset .reset

/-- What it reads. -/
def imageRead (version : Nat) : State × Except (Err × Nat) (CfgHead × Image) :=
  (loader version).readImage ((loader version).g 1#5).toNat ((loader version).plane 0).w ((loader version).plane 0).h

theorem witness_cfgld : ∃ s2 h c, (loader 1).myPlane 0#2 = .ok (some (loader 1, 0)) ∧ ((loader 1).plane 0).state = .empty ∧
    imageRead 1 = (s2, .ok (h, c)) ∧ c.err = none ∧
    s2.cfgCheck 0 (s2.planeOf 0 ((loader 1).plane 0) h c) = none ∧
    (s2.planeOf 0 ((loader 1).plane 0) h c).usesData = false ∧ ((loader 1).plane 0).cmsg = [] :=
  ⟨_, _, _, by decide +kernel, by decide +kernel, okayPair (⟨0⟩, {}) (by decide +kernel), by decide +kernel, by decide +kernel, by decide +kernel,
    by decide +kernel⟩

theorem witness_cfgld_fails : ∃ s2 h c, (loader 2).myPlane 0#2 = .ok (some (loader 2, 0)) ∧ imageRead 2 = (s2, .ok (h, c)) ∧
    c.err = some ⟨8, 0, 0, 0x1F⟩ :=
  ⟨_, _, _, by decide +kernel, okayPair (⟨0⟩, {}) (by decide +kernel), by decide +kernel⟩

/-! IdentifiersAndTimelinesAreRead: an entry of four extents of one, and one of zeros. -/

theorem witness_tidset (v : Nat) (h : v = 2 ^ 128 + 2 ^ 160 + 2 ^ 192 + 2 ^ 224 ∨ v = 0) :
    let s := world { regs := [0x50000], more := [(0x50000, 64, v)] }; ∃ s1 x, Reads s (s.g 1#5).toNat 64 s1 x ∧ tidOk x = decide (v ≠ 0) := by
  rcases h with rfl | rfl <;> exact ⟨_, _, reading ⟨0x50000, 0, false⟩ (by decide +kernel) (by decide +kernel) (by decide +kernel) rfl (by decide +kernel),
    by decide +kernel⟩

theorem witness_tidget : let s := world { regs := [0x50000] }; ∃ s1 s2 tr, Reaches s (s.g 1#5).toNat 64 { wr := true } s1 tr ∧
    s1.physWrite tr.slot tr.pa (Machine.leBytes 64 (s.tid s.me.ctx 255).toNat) = (s2, .ok ()) ∧ Sound s1 tr.pa 64 :=
  ⟨_, _, ⟨0x50000, 0, false⟩, near (by decide +kernel) (by decide +kernel) (pair (by decide +kernel)) nofun, pair (by decide +kernel),
    by decide +kernel, by decide +kernel⟩

theorem witness_tlread (h : Nat) (_ : h = 0 ∨ h = 1) : let s := world { regs := [h * 2 ^ 19] }
    (s.handleCause s.me.ctx (recCbix s.me.record) (s.g 1#5).toNat = none ↔ h = 0) ∧ (s.granted s.me.ctx (recCbix s.me.record) (s.g 1#5).toNat = false ↔ h = 1) := by
  rcases ‹_› with rfl | rfl <;> decide +kernel

/-! CopysQueuesTheNextCommand: a command of zeros for handle 0, with none and with 64 open. -/

/-- A command that is not complete. -/
def openCmd (k : Nat) : Cmd :=
  ⟨0, false, 0, some (k + 1), 0#512, ⟨1, 0, true, 0, none, some 0, none, 0⟩, none, Decode.nodeBody 0, ⟨0#512, 0#16, 0#4⟩, [], 0, 0, [], 0, none, .queued, k⟩

theorem witness_copys (n : Nat) (h : n = 0 ∨ n = 64) :
    let s := { world { regs := [0x70000] } with cmds := (List.range n).map (fun k => (k, openCmd k)), fresh := n }
    ∃ s1 b, Reads s (s.g 1#5).toNat 64 s1 b ∧ s1.copyCause s1.me.ctx (recCbix s1.me.record) b (b % 2 ^ 64) = none ∧
    s1.openCmds (ctxKey (b % 2 ^ 64)) = n ∧ ∀ x ∈ s1.cmds, x.2.ctxKey = ctxKey (b % 2 ^ 64) → x.2.num ≠ none := by
  rcases h with rfl | rfl <;> exact ⟨_, _, reading ⟨0x70000, 0, false⟩ (by decide +kernel) (by decide +kernel) (by decide +kernel) rfl (by decide +kernel),
    by decide +kernel, by decide +kernel, by decide +kernel⟩

/-! ControlRegistersReadAndWrite: TIEN of a core, PWRCMD, the die bases, a register of die 3, and undefined ones. -/

theorem witness_control_registers : Csr.defined 0x0005 = true ∧ 256 ≤ (coreAt 0x30F#64 []).cur ∧ (coreAt 0x30F#64 []).me.priv = true ∧
    Csr.defined 0x0400 = true ∧ Csr.defined 0x0403 = true ∧ Csr.defined 0x0201 = true ∧ Csr.dieOf 0x0201 = none ∧ Csr.dieOf 0x0070 = some 3 ∧
    Csr.defined 0x0070 = true ∧ Csr.defined 0x0006 = false ∧ (world {}).cur < 256 ∧ (world {}).me.priv = true := by decide +kernel

/-! TranslationsAndKeysAreReplaced. -/

theorem witness_tlbinv (b : Nat) (h : b = 0x0FFFF ∨ b = 0x1FFFF ∨ b = 0x20000) : let s := coreAt 0x30F#64 [0, b]
    s.me.priv = true ∧ (s.g 2#5).toNat < 2 ^ 18 ∧ (s.g 2#5).toNat / 2 ^ 16 % 4 < 3 ∧
    ((s.g 2#5).toNat / 2 ^ 16 % 4 = 2 → s.g 1#5 = 0 ∧ (s.g 2#5).toNat % 2 ^ 16 = 0) ∧
    ((s.g 2#5).toNat / 2 ^ 16 % 4 ≠ 2 → s.partOfCtx ((s.g 2#5).toNat % 2 ^ 16) = s.partOfUnit s.cur) ∧ s.deliveries = [] := by
  rcases h with rfl | rfl | rfl <;> decide +kernel

theorem witness_keyld : let s := coreAt 0x30F#64 [8191, 0x1000]
    ∃ s1 v, s.me.priv = true ∧ 8192 * s.partOfUnit s.cur / s.parts ≤ (s.g 1#5).toNat ∧ (s.g 1#5).toNat < 8192 * (s.partOfUnit s.cur + 1) / s.parts ∧
    (s.g 1#5).toNat < 8192 ∧ s.keyInUse (s.partOfUnit s.cur) (s.g 1#5).toNat = false ∧ Reads s (s.g 2#5).toNat 64 s1 v :=
  ⟨_, _, by decide +kernel, by decide +kernel, by decide +kernel, by decide +kernel, by decide +kernel,
    reading ⟨0x1000, 0, false⟩ (by decide +kernel) (by decide +kernel) (by decide +kernel) rfl (by decide +kernel)⟩

/-! SwapInstructionsStartTheirSwap. -/

theorem witness_swapout : let s := planesWorld {} (planeIn .active) .reset
    s.me.priv = true ∧ (s.g 1#5).toNat / 2 ^ 24 < 4 ∧ (s.block s.me.ctx 0).binds.find 0 = some 0 ∧ s.savedOf s.me.ctx 0 0 = none ∧
    (s.plane 0).state ≠ .empty ∧ (s.plane 0).swap = 0 := by decide +kernel

/-- The plane that block 0 has saved as its virtual plane 3. -/
def savedPlane : Saved := ⟨3, 1, 0, 3, { planeIn .loaded with ctx := 1, vp := 3 }, block00, [], [], false, []⟩

theorem witness_swapin : let s := { world { regs := [3 * 2 ^ 24] } with saved := [savedPlane] }
    s.me.priv = true ∧ (s.g 1#5).toNat / 2 ^ 24 = 3 ∧ s.savedOf s.me.ctx 0 3 = some savedPlane ∧ s.makeLive s.me.ctx 0 = .ok s ∧
    s.grant s.me.ctx 0 = some block00 ∧ (s.freePlane block00).isSome = true := by decide +kernel

/-- The same of a block that cannot be made live: a context that has none. -/
theorem witness_not_live : ∃ c, (world {}).makeLive 7 0 = .error c := ⟨7, by decide +kernel⟩

/-! ParkedWorkResumesOrEnds. -/

/-- A parked frame with one withdrawn token. -/
def parkedFrame (lost : Bool) : Frame := ⟨0, 0, 0, .iter, 0#6, [], none, none, none, [], true, lost, [(0, 0#42, 7#512)], []⟩

/-- A park at 0x40000. -/
def parkAt (k : ParkKind) (dom : Option Domain) : Park := ⟨1, 0x40000#64, k, dom, true, false, none⟩

/-- A world with one park at 0x40000, and frame 1023 of plane 0 parked. -/
def parked (k : ParkKind) (lost : Bool) (dom : Option Domain := none) : State :=
  { planesWorld { regs := [0x40000] } { planeIn .active with frames := [(1023, parkedFrame lost)] } .reset with parks := [parkAt k dom] }

theorem witness_parked_frame (lost : Bool) : let s := parked (.frame 0 1023 0) lost
    s.me.priv = true ∧ s.findPark (s.g 1#5) = some (parkAt (.frame 0 1023 0) none) ∧ MayActOn s (parkAt (.frame 0 1023 0) none) ∧
    s.planes.has 0 = true ∧ (s.plane 0).frame? 1023 = some (parkedFrame lost) ∧ (s.plane 0).frozen = false ∧ s.parkLost 0 1023 = lost := by
  unfold MayActOn; cases lost <;> decide +kernel

/-- A park of a plane that has been swapped out. -/
theorem witness_parked_saved : let s := { parked (.frame 3 1023 0) false with
      saved := [{ savedPlane with plane := { savedPlane.plane with frames := [(1023, parkedFrame false)] } }] }
    ∃ v, s.findPark (s.g 1#5) = some (parkAt (.frame 3 1023 0) none) ∧ MayActOn s (parkAt (.frame 3 1023 0) none) ∧ s.planes.has 3 = false ∧
    s.saved.find? (fun x => x.key = 3) = some v ∧ v.plane.frame? 1023 = some (parkedFrame false) ∧ v.plane.frozen = false :=
  ⟨{ savedPlane with plane := { savedPlane.plane with frames := [(1023, parkedFrame false)] } }, by decide +kernel, .inl (by decide +kernel),
    by decide +kernel, by decide +kernel, by decide +kernel, by decide +kernel⟩

/-- A handler without privilege, of the park's domain or of another. -/
theorem witness_handler (own : Bool) : let d : Domain := ⟨1, 0x50100#64⟩
    let w := parked (.frame 0 1023 0) false (some d)
    let s := w.setUnit 0 { w.unit 0 with priv := false, handler := some (if own then d else ⟨2, 0#64⟩) }
    s.me.priv = false ∧ s.me.handler ≠ none ∧ s.findPark (s.g 1#5) = some (parkAt (.frame 0 1023 0) (some d)) ∧
    (MayActOn s (parkAt (.frame 0 1023 0) (some d)) ↔ own = true) := by
  unfold MayActOn; cases own <;> decide +kernel

theorem witness_no_park : let s := parked .report false
    (s.me.priv = true ∨ s.me.handler ≠ none) ∧ s.findPark 0#64 = none := by decide +kernel

theorem witness_trapped_record : let s := parked (.trap record0 0x50000#64 4#57 none) false
    MayActOn s (parkAt (.trap record0 0x50000#64 4#57 none) none) ∧ s.findPark (s.g 1#5) = some (parkAt (.trap record0 0x50000#64 4#57 none) none) ∧
    (∃ tr, s.walkOwn 1 0x40000 false = .ok tr) ∧ s.makeLive 1 (recCbix record0) = .ok s :=
  ⟨.inl (by decide +kernel), by decide +kernel, ⟨(783, 2, 73728, 0), by decide +kernel⟩, by decide +kernel⟩

theorem witness_report : (parked .report false).findPark ((parked .report false).g 1#5) = some (parkAt .report none) := by decide +kernel

end Sys2Proof.Tests
end

