-- ==== Sys2Proof/Tests/WitnessSchedule.lean ====
section
/-! SUPPORT. States that meet the hypotheses of the statement about the scheduler, clause by clause. -/

namespace Sys2Proof.Tests

set_option Elab.async false

open Sys2Proof Sys2Proof.Machine Sys2Proof.Claim

/-! SchedulingMovesRecordsAndPlanes. -/

/-- A record of block 0 of context 1 with priority 1, waiting. -/
def queued : QRec := ⟨BitVec.ofNat 256 (2 ^ 144), 0x50200#64, 1, 0, none, none, [], 0⟩

/-- A world with every unit idle, planes of the block as given, and the record in queue k, which is enabled. -/
def idleWorld (k : Nat) (ps : Map Plane) (binds : Map Nat) (now : Nat := 0) : State :=
  { world {} with
    timer := now, units := [], planes := ps, blocks := [(blockKey 1 0, ⟨0, 0, 64, 1024, 16, binds, blockOf (blockFields 3)⟩)], queues := [(k, [queued])]
    csrs := (((world {}).csrs.put (0x110 + k) 0x71#64).put 0x0100 0x00100010#64) }

/-- The virtual plane of block 0 on plane 0. -/
def bound0 : Map Plane := [(0, { Plane.reset with ctx := 1, state := .loaded })]

theorem only_grant {s : State} {q : QRec} {g : Region} (h : s.grant q.ctx (q.record.toNat / 2 ^ 152 % 2 ^ 24) = some g) (hv : ∀ vp < 4, g.vps.testBit vp = true → vp = 0)
    {pk : Nat} {p : Plane} (h1 : s.savedOf q.ctx (q.record.toNat / 2 ^ 152 % 2 ^ 24) 0 = none) (h2 : (s.block q.ctx (q.record.toNat / 2 ^ 152 % 2 ^ 24)).binds.find 0 = some pk)
    (h3 : s.planes.find pk = some p) (h4 : p.swap = 0) : Runnable s q := by
  intro g' hg vp hvp hb
  rw [h] at hg
  cases hg
  obtain rfl := hv vp hvp hb
  exact ⟨h1, pk, p, h2, h3, h4⟩

theorem queued_runs (k now : Nat) (h : (k = 3 ∧ now = 0) ∨ (k = 35 ∧ now = 15) ∨ (k = 35 ∧ now = 16)) : Runnable (idleWorld k bound0 [(0, 0)] now) queued := by
  have hg : (idleWorld k bound0 [(0, 0)] now).grant queued.ctx (queued.record.toNat / 2 ^ 152 % 2 ^ 24) = some block00 := by
    rcases h with h | h | h <;> obtain ⟨rfl, rfl⟩ := h <;> decide +kernel
  refine only_grant hg (by decide) (pk := 0) (p := { Plane.reset with ctx := 1, state := .loaded }) ?_ ?_ ?_ (by decide +kernel) <;>
    (rcases h with h | h | h <;> obtain ⟨rfl, rfl⟩ := h <;> decide +kernel)

/-- An idle sequencer, with a record to run, and with none. -/
theorem witness_dispatch : let s := idleWorld 3 bound0 [(0, 0)]
    Idle s 0 ∧ OwnQueues s 0 (List.range 32) ∧ MayRun s (List.range 32) 3 queued := by
  refine ⟨by unfold Idle; decide +kernel, fun k => ?_, by decide, by decide +kernel, by decide +kernel, queued_runs 3 0 (.inl ⟨rfl, rfl⟩)⟩
  rw [List.mem_range]
  simp only [show ¬(256 ≤ 0) by decide, if_false]
  omega

theorem witness_dispatch_none : let s := idleWorld 35 bound0 [(0, 0)]
    Idle s 0 ∧ OwnQueues s 0 (List.range 32) ∧ ∀ k q, ¬MayRun s (List.range 32) k q := by
  refine ⟨by unfold Idle; decide +kernel, fun k => ?_, fun k q hq => ?_⟩
  · rw [List.mem_range]
    simp only [show ¬(256 ≤ 0) by decide, if_false]
    omega
  · have hk := List.mem_range.mp hq.1
    have hf : (idleWorld 35 bound0 [(0, 0)]).queues.get k [] = [] := by
      show (Map.find [(35, [queued])] k).getD [] = []
      simp [Map.find, show ¬(35 = k) by omega]
    have := hq.2.2.1
    rw [hf] at this
    cases this

/-- A control core that is idle, whose partition's host queue is its own. -/
theorem witness_dispatch_core : Idle State.reset 256 ∧ OwnQueues State.reset 256 [128] := by
  refine ⟨by unfold Idle; decide +kernel, fun k => ?_⟩
  simp only [show 256 ≤ 256 by decide, if_true, List.mem_singleton, show State.reset.partOfUnit 256 = 0 by decide +kernel]

/-- A record of another die's queue, before sequencer 0 may steal it and after. -/
theorem witness_steal (now : Nat) (h : now = 15 ∨ now = 16) : let s := idleWorld 35 bound0 [(0, 0)] now
    (∀ k, k ∈ List.range' 32 96 ↔ k < 128 ∧ k / 32 ≠ 0 / 64 ∧ s.partOfDie (k / 32) = s.partOfUnit 0) ∧
    (s.timer < (s.unit 0).idleAt + (s.csr (s.partOfUnit 0) 0x0100).toNat / 2 ^ 16 % 2 ^ 16 ↔ now = 15) ∧
    MayRun s (List.range' 32 96) 35 queued ∧
    ∀ b, s.cb queued.ctx (queued.record.toNat / 2 ^ 152 % 2 ^ 24) = some b → b.testBit 57 = false := by
  have hr : Runnable (idleWorld 35 bound0 [(0, 0)] now) queued := queued_runs 35 now (.inr (h.imp (fun h => ⟨rfl, h⟩) (fun h => ⟨rfl, h⟩)))
  refine ⟨fun k => ?_, by rcases h with rfl | rfl <;> decide +kernel, ⟨by decide, by rcases h with rfl | rfl <;> decide +kernel, by rcases h with rfl | rfl <;> decide +kernel, hr⟩, ?_⟩
  · have hp : ∀ d, (idleWorld 35 bound0 [(0, 0)] now).partOfDie d = 0 := by
      intro d
      have : (idleWorld 35 bound0 [(0, 0)] now).parts = 1 := by rcases h with rfl | rfl <;> decide +kernel
      simp [State.partOfDie, this]
    have hu : (idleWorld 35 bound0 [(0, 0)] now).partOfUnit 0 = 0 := by rcases h with rfl | rfl <;> decide +kernel
    rw [List.mem_range'_1, hp, hu]
    omega
  · intro b hb
    have hc : (idleWorld 35 bound0 [(0, 0)] now).cb queued.ctx (queued.record.toNat / 2 ^ 152 % 2 ^ 24) =
        some (((idleWorld 35 bound0 [(0, 0)]).cb 1 0).getD 0) := by rcases h with rfl | rfl <;> decide +kernel
    rw [hc] at hb
    rw [← Option.some.inj hb]
    decide +kernel

/-- Planes 0 to 3 of B(0,0), all alike. -/
def four (p : Plane) : Map Plane := [(0, p), (1, p), (2, p), (3, p)]

theorem four_find {p q : Plane} {pk : Nat} (h : (four p).find pk = some q) : q = p ∧ pk < 4 := by
  simp only [four, Map.find] at h
  repeat' split at h
  all_goals first | exact ⟨(Option.some.inj h).symm, by omega⟩ | cases h

/-- A waiting record finds a free plane, planes of its own block only, and planes of another context that may give way. -/
theorem witness_bind (ps : Map Plane) (h : ps = [] ∨ ps = four { Plane.reset with ctx := 1, state := .loaded } ∨ ps = four { Plane.reset with ctx := 2, prio := 0, state := .loaded }) :
    let s := idleWorld 3 ps []
    s.grant 1 0 = some block00 ∧ block00.vps.testBit 0 = true ∧ s.boundKey 1 0 0 = none ∧ s.savedOf 1 0 0 = none ∧ s.waitingLevel 1 0 = some 1 ∧
    (s.planes.map Prod.fst).Nodup := by rcases h with rfl | rfl | rfl <;> decide +kernel

theorem witness_bind_free : ∀ pk p, ¬HeldBy (idleWorld 3 [] []) block00 0 pk p := fun pk p h => by cases h.1

theorem held_four (q : Plane) (hq : q.w = 1 ∧ q.h = 1) : ∀ pp < 4, HeldBy (idleWorld 3 (four q) []) block00 pp pp q := by
  intro pp hpp
  have hf : (idleWorld 3 (four q) []).planes.find pp = some q := by
    show (four q).find pp = some q
    interval_cases pp <;> rfl
  refine ⟨hf, ?_⟩
  rw [hq.1, hq.2]
  clear hf
  revert pp
  decide +kernel

theorem witness_bind_stuck : let s := idleWorld 3 (four { Plane.reset with ctx := 1, state := .loaded }) []
    ∀ pp < 4, ∃ pk p, HeldBy s block00 pp pk p ∧ ¬GivesWay s 1 0 1 p :=
  fun pp hpp => ⟨pp, _, held_four _ ⟨rfl, rfl⟩ pp hpp, fun h => h.1.elim (fun h => h rfl) (fun h => h rfl)⟩

/-- A plane of context 2 of the lowest priority. -/
def gentle : Plane := { Plane.reset with ctx := 2, prio := 0, state := .loaded }

theorem gentle_gives : GivesWay (idleWorld 3 (four gentle) []) 1 0 1 gentle :=
  ⟨.inl (by decide), (fun ⟨i, hi, _⟩ => nomatch (show none = some i from hi)), by decide +kernel, by decide +kernel⟩

theorem gentle_only (pk : Nat) (p : Plane) (h : HeldBy (idleWorld 3 (four gentle) []) block00 0 pk p) : GivesWay (idleWorld 3 (four gentle) []) 1 0 1 p := by
  obtain ⟨rfl, -⟩ := four_find (p := gentle) h.1
  exact gentle_gives

theorem witness_bind_victims : let s := idleWorld 3 (four gentle) []
    (∀ pp < 4, ∃ pk p, HeldBy s block00 pp pk p ∧ p.swap = 0) ∧ ∃ pp < 4, ∀ pk p, HeldBy s block00 pp pk p → GivesWay s 1 0 1 p :=
  ⟨fun pp hpp => ⟨pp, gentle, held_four _ ⟨rfl, rfl⟩ pp hpp, rfl⟩, 0, by decide, gentle_only⟩

/-- A plane chosen to leave, and one that drains and is quiet. -/
theorem witness_swap_out (n : Nat) (h : n = 1 ∨ n = 2) : let p : Plane := { Plane.reset with ctx := 1, state := .loaded, swap := n }
    let s := idleWorld 3 [(0, p)] [(0, 0)]
    s.planes.find 0 = some p ∧ p.swap = n ∧ p.iter = none ∧ s.units = [] ∧ s.quiescent 0 = true ∧ p.cmsg = [] := by
  rcases h with rfl | rfl <;> decide +kernel

/-- A saved plane that returns: its record waits, or it was told to. -/
def returning (r : Bool) : Saved := ⟨0, 1, 0, 0, { Plane.reset with ctx := 1, state := .loaded }, block00, [], [], r, []⟩

theorem witness_swap_in (r : Bool) : let v := returning r; let s : State := { idleWorld 3 [] [] with saved := [v] }
    s.savedOf 1 0 0 = some v ∧ s.grant 1 0 = some block00 ∧ v.plane.w ≤ block00.w ∧ v.plane.h ≤ block00.h ∧ s.waitingLevel 1 0 = some 1 ∧
    v.kills = [] ∧ (v.plane.usesData = false ∨ s.edOwner = []) ∧ ∀ pk p, ¬HeldBy s block00 0 pk p := by
  refine ⟨?_, ?_, ?_, ?_, ?_, rfl, .inr rfl, fun pk p h => nomatch h.1⟩ <;> cases r <;> decide +kernel

end Sys2Proof.Tests
end

