-- ==== Sys2Proof/Tests/WitnessOutside.lean ====
section
/-! SUPPORT. States that meet the hypotheses of the statements about what comes from outside, standpipes and links, resets, register
writes and the machine as a whole, clause by clause. -/

namespace Sys2Proof.Tests

set_option Elab.async false

open Sys2Proof Sys2Proof.Machine Sys2Proof.Claim

/-! OutsideRequestsArePerformed. -/

theorem witness_doorbell (v : BitVec 32) (h : v = 15 ∨ v = 1#32 <<< 31) : 0 < State.reset.parts ∧ ((v.getLsbD 31 = false ∧ v.toNat / 2 ^ 4 % 2 ^ 27 = 0) ∨ v.getLsbD 31 = true) := by
  rcases h with rfl | rfl <;> decide +kernel

/-- Bytes of slot 15 of window 0: the context 1 at 32, and others. -/
def slotBytes (ctx : Nat) (l : Map Byte) : Map Byte := l.foldl (fun m x => m.put (64 * 15 + x.1) x.2) [(64 * 15 + 32, BitVec.ofNat 8 ctx)]

/-- A world with a doorbell rung for slot 15, whose block has queue q. -/
def launching (q ctx : Nat) (l : Map Byte) : State := { world { queue := q } with slotsHost := slotBytes ctx l, bells := [(0, [15])] }

/-- A context that is not in use; reserved bytes; a JOIN; a record with a reserved bit; a block that there is none of. -/
theorem witness_launch_refused (ctx : Nat) (l : Map Byte) (h : (ctx = 2 ∧ l = []) ∨ (ctx = 1 ∧ l = [(34, 1#8)]) ∨ (ctx = 1 ∧ l = [(63, 1#8)]) ∨ (ctx = 1 ∧ l = [(16, 1#8)]) ∨
      (ctx = 1 ∧ l = [(7, 0x80#8)]) ∨ (ctx = 1 ∧ l = [(20, 1#8)])) :
    let s := launching 3 ctx l; let r := BitVec.ofNat 256 (slotField s 0 15 0 32)
    s.bells.get 0 [] = [15] ∧ slotField s 0 15 32 2 = ctx ∧ s.partOfCtx ctx = 0 ∧ (s.desc ctx 11 1 = 2 ↔ ctx = 1) ∧
    (ctx = 1 → slotField s 0 15 34 2 ≠ 0 ∨ slotField s 0 15 38 26 ≠ 0 ∨ recJoin r ≠ 0 ∨ recClean r = false ∨ s.cb 1 (recCbix r) = none) := by
  rcases h with h | h | h | h | h | h <;> obtain ⟨rfl, rfl⟩ := h <;> decide +kernel

/-- A launch into a sequencer queue, and into the hub's. -/
theorem witness_launch (q : Nat) (h : q = 3 ∨ q = 0x80) : ∃ b, let s := launching q 1 []; let r := BitVec.ofNat 256 (slotField s 0 15 0 32); let k := s.queueOf 1 (recCbix r)
    slotField s 0 15 32 2 = 1 ∧ s.partOfCtx 1 = 0 ∧ s.desc 1 11 1 = 2 ∧ slotField s 0 15 34 2 = 0 ∧ slotField s 0 15 38 26 = 0 ∧ recJoin r = 0 ∧ recClean r = true ∧
    s.cb 1 (recCbix r) = some b ∧ b % 2 ^ 24 = recCbix r ∧ s.blocks.has (blockKey 1 (recCbix r)) = true ∧ (128 ≤ k ∨ s.partOfDie (k / 32) = 0) ∧
    (s.qcfg k).testBit 0 = true ∧ s.queueRoom k 1 = true ∧ (k < 128 ↔ q = 3) := by
  rcases h with rfl | rfl
  · exact ⟨((launching 3 1 []).cb 1 0).getD 0, by decide +kernel⟩
  · exact ⟨((launching 0x80 1 []).cb 1 0).getD 0, by decide +kernel⟩

/-- A launch whose block's first use fails, and one whose block goes live with it. -/
theorem witness_launch_live (bad : Nat) (h : bad = 0 ∨ bad = 1) :
    let s : State := { world { more := [(0x3000E, 1, bad)] } with slotsHost := slotBytes 1 [], bells := [(0, [15])], blocks := [] }
    let r := BitVec.ofNat 256 (slotField s 0 15 0 32); let s1 : State := { s with bells := s.bells.put 0 [] }
    recClean r = true ∧ (s.cb 1 (recCbix r)).isSome = true ∧ ((s.cb 1 (recCbix r)).getD 1) % 2 ^ 24 = recCbix r ∧
    ((s1.makeLive 1 (recCbix r)).toOption.isSome = true ↔ bad = 0) := by
  rcases h with rfl | rfl <;> decide +kernel

/-- A queue of another partition's die, one that is not enabled, and one that is full, with no room to spill. -/
theorem witness_launch_queue (no : Nat) (h : no = 0 ∨ no = 1 ∨ no = 2) :
    let w := world { queue := if no = 0 then 35 else 3, more := [(0x20068, 2, 0x10)] }
    let s : State := { w with
      slotsHost := slotBytes 1 [], bells := [(0, [15])], queues := [(3, [queued])]
      csrs := (w.csrs.put 0x113 (if no = 1 then 0x70#64 else 1#64)).put 0x0203 (if no = 0 then 0x3E4#64 else 0#64) }
    let k := s.queueOf 1 0
    s.partOfCtx 1 = 0 ∧ ((128 ≤ k ∨ s.partOfDie (k / 32) = 0) ↔ no ≠ 0) ∧ (no = 1 → (s.qcfg k).testBit 0 = false) ∧
    (no = 2 → (s.qcfg k).testBit 0 = true ∧ s.queueRoom k 1 = false) := by
  rcases h with rfl | rfl | rfl <;> decide +kernel

/-- Requests on the first and the last bytes of HBM stack 0, with the link to other modules or without; an atomic that the host may
ask for, and one that only another module may. -/
theorem witness_bus (o : BusOp) (pa size : Nat) (h : (o = .load ∧ pa = 0 ∧ size = 1) ∨ (o = .store ∧ pa = 2 ^ 36 - 8 ∧ size = 8) ∨ (o = .amo 8#4 ∧ pa = 4 ∧ size = 4) ∨
      (o = .amo 0#4 ∧ pa = 2 ^ 36 - 8 ∧ size = 8) ∨ (o = .amo 9#4 ∧ pa = 8 ∧ size = 8) ∨ (o = .amo 4#4 ∧ pa = 8 ∧ size = 4)) (k : Map Kept) (l : Map FarLock)
      (hk : (k = [] ∧ l = []) ∨ (k = [(0, ⟨5, 7, 0#64, 0⟩)] ∧ l = []) ∨ (k = [] ∧ l = [(0, ⟨5, 7, 2, 0⟩)])) :
    let s : State := { State.reset with csrs := State.reset.csrs.put 0x400 ((State.reset.csr 0 0x400) ||| 0x8000#64), kept := k, farLocks := l }
    target pa = .hbm 0 ∧ s.feat 19 = true ∧ MemoryOk s ∧ pa < 2 ^ 52 ∧ s.feat 15 = true ∧
    ((∀ x ∈ s.kept, x.2.src ≠ 5 ∨ x.2.id ≠ 7) ∧ (∀ x ∈ s.farLocks, x.2.src ≠ 5 ∨ x.2.id ≠ 7) ↔ k = [] ∧ l = []) := by
  unfold MemoryOk
  rcases h with h | h | h | h | h | h <;> obtain ⟨rfl, rfl, rfl⟩ := h <;>
    rcases hk with hk | hk | hk <;> obtain ⟨rfl, rfl⟩ := hk <;> decide +kernel

/-- Their forms. -/
theorem witness_bus_form : BusForm .load 0 1 ∧ BusForm .store (2 ^ 36 - 8) 8 ∧ BusForm (.amo 8#4) 4 4 ∧ BusForm (.amo 0#4) (2 ^ 36 - 8) 8 ∧
    BusForm (.amo 9#4) 8 8 ∧ BusForm (.amo 4#4) 8 4 :=
  ⟨⟨.inl rfl, rfl, .inl rfl⟩, ⟨.inr (.inr (.inr rfl)), rfl, .inr (.inl rfl)⟩, ⟨.inr (.inr (.inl rfl)), rfl, .inr (.inr ⟨by decide, 8#4, rfl, by decide⟩)⟩,
    ⟨.inr (.inr (.inr rfl)), rfl, .inr (.inr ⟨by decide, 0#4, rfl, by decide⟩)⟩, ⟨.inr (.inr (.inr rfl)), rfl, .inr (.inr ⟨by decide, 9#4, rfl, by decide⟩)⟩,
    ⟨.inr (.inr (.inl rfl)), rfl, .inr (.inr ⟨by decide, 4#4, rfl, by decide⟩)⟩⟩

/-- LOCK and UNLOCK of module 5's agent 2: the token free, its own, another's, and its own with a request behind it. -/
theorem witness_far_lock (x : LockSt) (h : x = ⟨none, []⟩ ∨ x = ⟨some (2 ^ 40 + 5, 2, 0), []⟩ ∨ x = ⟨some (0, 0, 0), []⟩ ∨ x = ⟨some (2 ^ 40 + 5, 2, 0), [4]⟩) :
    let q : Req := ⟨0, 0, 0, 7, 0, 0x91, Decode.nodeBody 0, Machine.noOperand, Machine.noOperand, Machine.noOperand, 0, .waiting, 0, 0, 0, []⟩
    let s : State := { State.reset with
      csrs := State.reset.csrs.put 0x400 ((State.reset.csr 0 0x400) ||| 0x8000#64), tokens := [((lockToken 64).getD 0, x)], reqs := [(4, q)] }
    s.feat 15 = true ∧ s.present 64 = true ∧ lockToken 64 = some ((lockToken 64).getD 0) ∧ s.tokens.get ((lockToken 64).getD 0) ⟨none, []⟩ = x ∧
    s.kept = [] ∧ s.farLocks = [] ∧ s.reqs.find 4 = some q ∧ q.stage ≠ .held := by
  rcases h with rfl | rfl | rfl | rfl <;> decide +kernel

/-- The first byte and the last word of a launch slot, and the doorbell. -/
theorem witness_slot_access (o size : Nat) (h : (o = 0 ∧ size = 1) ∨ (o = 32 ∧ size = 4)) :
    o + size ≤ 36 ∧ (0 : Nat) < State.reset.parts ∧ BusForm .store (2 ^ 52 + 64 * 15 + o) size ∧ BusForm .load (2 ^ 52 + 64 * 15 + o) size := by
  rcases h with ⟨rfl, rfl⟩ | ⟨rfl, rfl⟩
  · exact ⟨by decide, by decide +kernel, ⟨.inl rfl, rfl, .inr (.inl rfl)⟩, ⟨.inl rfl, rfl, .inl rfl⟩⟩
  · exact ⟨by decide, by decide +kernel, ⟨.inr (.inr (.inl rfl)), rfl, .inr (.inl rfl)⟩, ⟨.inr (.inr (.inl rfl)), rfl, .inl rfl⟩⟩

/-- Bytes of the network for context 1, with the last counter and the first that there is none of. -/
theorem witness_ne_write (c : BitVec 16) (h : c = 15 ∨ c = 16) : ∃ s1, let s := { world {} with csrs := (world {}).csrs.put 0x400 ((world {}).csr 0 0x400 ||| 0x4000#64) }
    s.feat 14 = true ∧ s.partOfCtx 1 = 0 ∧ s.placePuts (s.netIss 0 1).tlb (s.netIss 0 1) false (0x90000#64).toNat (Machine.leNat (List.replicate 9 7#8)) (pieces (0x90000#64).toNat 9) = (s1, .ok ()) ∧
    (c.toNat < 16 * ((s1.csr 0 0x0403).toNat % 2 ^ 12 + 1) ↔ c = 15) ∧ MemoryOk s1 ∧
    target ((s1.csr 0 0x0403).toNat / 2 ^ 12 % 2 ^ 40 * 4096 + 8 * c.toNat) = .hbm 0 := by
  unfold MemoryOk
  rcases h with rfl | rfl <;>
    exact ⟨_, by decide +kernel, by decide +kernel, okayUnit (by decide +kernel), by decide +kernel, by decide +kernel, by decide +kernel⟩

theorem witness_ne_read : ∃ s1 l, let s := { world {} with csrs := (world {}).csrs.put 0x400 ((world {}).csr 0 0x400 ||| 0x4000#64) }
    s.feat 14 = true ∧ s.partOfCtx 1 = 0 ∧ s.vreadAny (s.netIss 0 1) (0x90000#64).toNat 3 = (s1, .ok l) :=
  ⟨_, _, by decide +kernel, by decide +kernel, okay [] (by decide +kernel)⟩

/-! StandpipesAndLinksRecover: a copy of a byte of cistern column 0. -/

/-- The copy, from column 0 to the scratchpad or back, with what a beat has carried of it. -/
def drawing (back : Bool) (leg : Nat) : Cmd :=
  ⟨0, false, 0, some 5, BitVec.ofNat 512 ((if back then 2 ^ 121 else 2 ^ 185) + 2 ^ 192), ⟨0, 0, false, 0, none, some 0, none, 0⟩, none, Decode.nodeBody 0, Machine.noOperand, [],
    0, 0, if leg = 0 then [] else [7], leg, none, .queued, 0⟩

/-- Standpipe 0 as given, with the copy. -/
def piped (p : Pipe) (cs : Map Cmd) (linj : BitVec 64 := 0) : State :=
  { State.reset with
    fc := 100, timer := 100, pipes := [(0, p)], cmds := cs
    tlb := [⟨l2Tlb 0, 0, 0, 9, BitVec.ofNat 64 (0x30F + 2 ^ 39), 0⟩]
    csrs := (State.reset.csrs.put 0x0389 linj).put 0x038A 0x0403#64 }

/-- A triple whose last part is known. -/
theorem triple {α β γ : Type} {x : α × β × Option γ} (h : x.2.2 = none) : x = (x.1, x.2.1, none) := by
  obtain ⟨a, b, c⟩ := x
  cases h
  rfl

theorem witness_beat_read : ∃ z vs, let s := piped Pipe.reset [(2, drawing false 0)]; let c := drawing false 0
    (s.pipe 0).down = false ∧ (s.pipe 0).training = false ∧ (s.pipe 0).beat = none ∧ s.pipeCmd 0 = some (2, c) ∧ c.leg = 0 ∧
    s.readBeat c (s.nextBeat c 0) [] = (z, vs, none) ∧ vs ≠ [] := by
  exact ⟨_, _, by decide +kernel, by decide +kernel, by decide +kernel, by decide +kernel, rfl, triple (by decide +kernel), by decide +kernel⟩

/-- A beat that finds its word poisoned. -/
theorem witness_beat_error : ∃ z e a, let s : State := { piped Pipe.reset [(2, drawing false 0)] with poison := [2 ^ 36] }; let c := drawing false 0
    s.pipeCmd 0 = some (2, c) ∧ c.leg ≠ 1 ∧ s.readBeat c (s.nextBeat c 0) [] = (z, [], some (e, a)) := by
  have h : ∀ {α β γ : Type} {x : α × List β × Option (γ × Nat)}, x.2.1.length = 0 → x.2.2.isSome = true → ∃ z e a, x = (z, [], some (e, a)) := by
    rintro α β γ ⟨z, l, o⟩ h1 h2
    obtain ⟨⟨e, a⟩, rfl⟩ := there h2
    obtain rfl := List.length_eq_zero_iff.mp h1
    exact ⟨z, e, a, rfl⟩
  obtain ⟨z, e, a, k⟩ := h (x := ({ piped Pipe.reset [(2, drawing false 0)] with poison := [2 ^ 36] } : State).readBeat (drawing false 0)
    (({ piped Pipe.reset [(2, drawing false 0)] with poison := [2 ^ 36] } : State).nextBeat (drawing false 0) 0) []) (by decide +kernel) (by decide +kernel)
  exact ⟨z, e, a, by decide +kernel, by decide, k⟩

theorem witness_beat_write : let s := piped Pipe.reset [(2, drawing true 1)]; let c := drawing true 1
    (s.pipe 0).beat = none ∧ c.leg = 1 ∧ s.pipeCmd 0 = some (2, c) := by decide +kernel

/-- A beat of the copy in transit. -/
def inTransit (f : Pipe → Pipe) : Pipe := f { Pipe.reset with beat := some (2, 0, 8, [7]), at_ := 98 }

/-- The end of a transit: a group has failed; none has, with nothing found and no retry, after a retry, and after a swap. -/
theorem witness_transit (p : Pipe) (h : p = inTransit (fun p => { p with failing := [63] }) ∨ p = inTransit id ∨ p = inTransit (fun p => { p with retries := 3 }) ∨
      p = inTransit (fun p => { p with swapped := [7] })) :
    OnlyPipe (piped p []) 0 p ∧ p.beat = some (2, 0, 8, [7]) ∧ p.failed = false ∧ p.training = false ∧ p.at_ + 2 ≤ (piped p []).fc ∧ (piped p []).cmds.find 2 = none := by
  unfold OnlyPipe
  rcases h with rfl | rfl | rfl | rfl <;> decide +kernel

/-- It delivers what its command waits for. -/
theorem witness_transit_delivers : let p := inTransit id; let c := drawing false 0; let s := piped p [(2, c)]
    OnlyPipe s 0 p ∧ p.failing = [] ∧ p.swapped = [] ∧ p.retries = 0 ∧ s.cmds.find 2 = some c ∧ s.moveCols c (c.move c.pos) = (some 0, none) := by
  unfold OnlyPipe
  decide +kernel

/-- A failed beat: its last retry, its lane test with a lane found, with none, with one too many, and the swap. -/
theorem witness_retry : let p := inTransit (fun p => { p with at_ := 96, failed := true, retries := 2 }); let s := piped p []
    OnlyPipe s 0 p ∧ p.failed = true ∧ p.found = [] ∧ p.training = false ∧ p.at_ + 4 ≤ s.fc ∧ p.retries < (s.csr (s.partOfDie (0 / 32)) 0x038A).toNat % 16 := by
  unfold OnlyPipe
  decide +kernel

/-- LINJ inverting a lane of standpipe 0. -/
def inverting (lane : Nat) : BitVec 64 := BitVec.ofNat 64 (1 + lane * 2 ^ 28)

/-- R375: a spare changes the data of the lane that is mapped onto it. -/
theorem test_spare_inverts_its_lane : (piped { Pipe.reset with swaps := [1000] } [] (inverting 2112)).inverted 0 = some 1000 := by decide +kernel

/-- R367, R375: a spare whose lane has been mapped to a further spare changes nothing. -/
theorem test_replaced_spare_inverts_nothing : (piped { Pipe.reset with swaps := [1000, 1000] } [] (inverting 2112)).inverted 0 = none := by
  decide +kernel

theorem witness_lane_test (swaps : Nat) (linj : BitVec 64) (cs : Map Cmd) (h : (swaps = 15 ∧ linj = inverting 2047 ∧ cs = []) ∨ (swaps = 0 ∧ linj = 0 ∧ cs = []) ∨
      (swaps = 0 ∧ linj = 0 ∧ cs = [(2, drawing false 0)]) ∨ (swaps = 16 ∧ linj = inverting 2047 ∧ cs = [])) :
    let p := inTransit (fun p => { p with at_ := 34, failed := true, retries := 3, failing := [63], swaps := List.range swaps }); let s := piped p cs linj
    OnlyPipe s 0 p ∧ p.failed = true ∧ p.found = [] ∧ p.training = false ∧ (s.csr (s.partOfDie (0 / 32)) 0x038A).toNat % 16 ≤ p.retries ∧ p.at_ + 66 ≤ s.fc ∧
    (s.testLanes 0 ≠ [] ↔ linj ≠ 0) ∧ ((s.testLanes 0).length + p.swaps.length ≤ 16 ↔ swaps ≠ 16) ∧ s.cmds.find 2 = cs.head?.map Prod.snd := by
  unfold OnlyPipe
  rcases h with h | h | h | h <;> obtain ⟨rfl, rfl, rfl⟩ := h <;> decide +kernel

theorem witness_lane_swap : let p := inTransit (fun p => { p with at_ := 18, failed := true, found := [2047] }); let s := piped p []
    OnlyPipe s 0 p ∧ p.failed = true ∧ p.found ≠ [] ∧ p.training = false ∧ p.at_ + 82 ≤ s.fc := by
  unfold OnlyPipe
  decide +kernel

/-- Retraining: nothing to wait for; a beat, or a command, to wait for; a wait that has been too long; its end, without a beat and with one. -/
theorem witness_retrain (p : Pipe) (cs : Map Cmd) (h : (p = Pipe.reset ∧ cs = []) ∨ (p = inTransit id ∧ cs = []) ∨ (p = Pipe.reset ∧ cs = [(2, drawing false 0)])) :
    OnlyPipe (piped p cs) 0 p ∧ p.down = false ∧ p.training = false ∧ ((p.beat = none ∧ (piped p cs).pipeCmd 0 = none) ↔ (p = Pipe.reset ∧ cs = [])) := by
  unfold OnlyPipe
  rcases h with h | h | h <;> obtain ⟨rfl, rfl⟩ := h <;> decide +kernel

theorem witness_retrain_forced : let p := inTransit (fun p => { p with deferred := some 96 }); let s := piped p []
    OnlyPipe s 0 p ∧ p.deferred = some 96 ∧ p.beat = some (2, 0, 8, [7]) ∧ 96 + (s.csr (s.partOfDie (0 / 32)) 0x038A).toNat / 2 ^ 8 % 16 ≤ s.timer := by
  unfold OnlyPipe
  decide +kernel

theorem witness_retrain_complete (p : Pipe) (h : p = { Pipe.reset with training := true } ∨ p = inTransit (fun p => { p with training := true })) :
    OnlyPipe (piped p []) 0 p ∧ p.training = true := by
  unfold OnlyPipe
  rcases h with rfl | rfl <;> decide +kernel

/-- Links: the last port and lane; a replay that is the ninth at a time, and one that is not; a retraining of all lanes and of none. -/
theorem witness_link (n : Nat) (h : n = 7 ∨ n = 8) : let s : State := { State.reset with
      csrs := State.reset.csrs.put 0x400 ((State.reset.csr 0 0x400) ||| 0x8000#64), replays := [(16 * 11 + 15, (State.reset.timer, n))] }
    s.feat 15 = true ∧ s.replays.get (16 * 11 + 15) (s.timer, 0) = (s.timer, n) ∧ (n + 1 = 9 ↔ n = 8) ∧ s.partOfDie (11 / 3) = s.partOfUnit s.cur := by
  rcases h with rfl | rfl <;> decide +kernel

theorem witness_link_shapes : (∃ h < 2, Clean (65535 - 0xFF00) 8 h) ∧ ∀ h < 2, ¬Clean (65535 - 0x0FF0) 8 h := by
  unfold Clean
  decide +kernel

/-! ResetsAndRegisterWrites. -/

/-- Full service may start at reset; it may not when a core runs, nor twice. -/
theorem witness_full_service : State.reset.full = false ∧ State.reset.units = [] ∧ State.reset.planes = [] ∧ ((coreAt 0x30F#64 []).unit 256).status = .running ∧
    (world {}).full = (world {}).feat 31 := by decide +kernel

theorem witness_full_idle : ∀ u, 256 ≤ u → u < 264 → (State.reset.unit u).status = .idle := fun _ _ _ => rfl

/-- PARTCFG: one partition, four of a die each, and a partition without a die. -/
theorem witness_partcfg : DiesShared 0 ∧ DiesShared 0x3E4 ∧ ¬DiesShared 0x300 ∧ State.reset.locks.contains 0x0203 = false := by
  unfold DiesShared
  decide +kernel

/-- CINJ of the last bit of a word, of none, and without GO; LINJ, CBDOWN and KLSTAT of the module's own dies. -/
theorem witness_cinj : let s : State := { State.reset with csrs := State.reset.csrs.put 0x400 ((State.reset.csr 0 0x400) ||| 0x40000#64) }
    s.feat 18 = true ∧ (BitVec.ofNat 64 (1 + 71 * 2 ^ 8)).getLsbD 0 = true ∧ (BitVec.ofNat 64 (1 + 71 * 2 ^ 8)).toNat / 2 ^ 8 % 2 ^ 7 < 72 ∧
    72 ≤ (BitVec.ofNat 64 (1 + 72 * 2 ^ 8)).toNat / 2 ^ 8 % 2 ^ 7 ∧ (0#64).getLsbD 0 = false ∧ ∀ d < 4, s.partOfDie d = s.partOfUnit s.cur := by decide +kernel

/-- With four partitions, a die of another one. -/
theorem witness_other_partition : let s : State := { State.reset with csrs := State.reset.csrs.put 0x0203 0x3E4#64 }
    s.partOfDie 3 ≠ s.partOfUnit s.cur := by decide +kernel

theorem witness_registers : Csr.defined 0xFFFF = false ∧ State.reset.cur < 256 ∧ 256 ≤ (coreAt 0x30F#64 []).cur := by decide +kernel

/-! AStepRunsTheDecodedInstruction. -/

/-- Control core CC0 at address 0, where words lie. -/
def fetching (w x : Nat) : State := { coreAt 0x30F#64 [] with agenda := [.unit 256], mem := bytesFrom [(0, 4, w), (4, 4, x)] }

theorem witness_step_word : ∃ t, TurnOf (fetching 0x00A63800 0) 256 [] { fetching 0x00A63800 0 with agenda := [], cur := 256 } ∧
    Fetched { fetching 0x00A63800 0 with agenda := [], cur := 256 } t 0 0x00A63800 ∧ Decode.isX 0x00A63800 = false ∧
    Decode.seqWord 0x00A63800 0 = .ok (.sAdd 5#5 6#5 7#5) ∧ CoresOwn t (.sAdd 5#5 6#5 7#5) := by
  refine ⟨_, ⟨rfl, rfl, by decide +kernel, by decide +kernel⟩, ⟨_, _, _, okay ⟨0, 0, false⟩ (by decide +kernel), okay [] (by decide +kernel), by decide +kernel⟩,
    by decide +kernel, by decide +kernel, fun d n h => by rcases h with h | h <;> cases h⟩

/-- Two words: CFGLD with an extension word. -/
theorem witness_step_extended : ∃ t t', let s : State := { fetching 0xFC000000 8 with agenda := [], cur := 256 }
    TurnOf (fetching 0xFC000000 8) 256 [] s ∧ Fetched s t s.me.pc.toNat 0xFC000000 ∧ Decode.isX 0xFC000000 = true ∧ Fetched t t' (t.me.pc + 4#57).toNat 8 ∧
    Decode.seqWord 0xFC000000 8 = .ok (.sCfgldX 0#2 0#5 8#32) ∧ CoresOwn t' (.sCfgldX 0#2 0#5 8#32) := by
  refine ⟨_, _, ⟨rfl, rfl, by decide +kernel, by decide +kernel⟩, ⟨_, _, _, okay ⟨0, 0, false⟩ (by decide +kernel), okay [] (by decide +kernel), by decide +kernel⟩,
    by decide +kernel, ⟨_, _, _, okay ⟨0, 0, false⟩ (by decide +kernel), okay [] (by decide +kernel), by decide +kernel⟩, by decide +kernel,
    fun d n h => by rcases h with h | h <;> cases h⟩

theorem witness_step_node : let s := State.reset.withNodeWord (Claim.wordOf4 0x00209000 1 0x82000000 0)
    s.agenda = [.fire ⟨0, 0, 0, 0⟩] ∧ Decode.nodeWord (Claim.wordOf4 0x00209000 1 0x82000000 0) = Decode.nodeWord ((s.plane 0).word 0 0 0) ∧
    (Decode.nodeWord ((s.plane 0).word 0 0 0)).toOption.isSome = true := by decide +kernel

theorem witness_step_others : (Instr.eDrawWatchdog).isEvent = true ∧ State.reset.agenda = [] := by decide +kernel

/-! DecodeOfEncodeIsTheInstruction and MemoryStaysCanonical. -/

theorem witness_encoded : WellFormed (.sAdd 31#5 0#5 31#5) = true ∧ (Instr.sAdd 31#5 0#5 31#5).isEvent = false := by decide +kernel

theorem witness_canonical : ∃ t, MemoryOk State.reset ∧ step State.reset = .next t := by
  unfold MemoryOk
  exact ⟨_, by decide +kernel, rfl⟩

end Sys2Proof.Tests
end

