-- ==== Sys2Proof/Tests/WitnessRays.lean ====
section
/-! SUPPORT. States that meet the hypotheses of the statement about the runnel and the samplers, clause by clause. -/

namespace Sys2Proof.Tests

set_option Elab.async false

open Sys2Proof Sys2Proof.Machine Sys2Proof.Claim

/-! RaysAndSamplersComplete. -/

/-- A bit pattern of a type is a finite number's. -/
def isFinite (t : Num.Fmt) (x : Nat) : Bool := decide (x < 2 ^ t.width) && (match Num.decode t x with | .fin _ _ _ => true | _ => false)

theorem finite_of {t : Num.Fmt} {x : Nat} (h : isFinite t x = true) : Claim.Finite t x := by
  simp only [isFinite, Bool.and_eq_true, decide_eq_true_eq] at h
  refine ⟨h.1, ?_⟩
  have h2 := h.2
  split at h2
  · exact ⟨_, _, _, ‹_›⟩
  · cases h2

/-- The agent that reads for the rays of a frame of context 1 (R260). -/
def rayAgent : Issuer := ⟨1, 0, false, 0, none, none, none, 0⟩

/-- A ray of frame 0 from the origin along x, between 0 and 1. -/
def ray1 (f : Ray → Ray) : Ray := f { ray0 .queued none with
  iss := { rayAgent with frame := some (0, 0, 0, 0, 0) }, vec := BitVec.ofNat 512 (0x3F800000 * 2 ^ 224 + 0x3F800000 * 2 ^ 128), best := (0x3F800000, 0, 0, 2 ^ 32, 0, 0) }

/-- The ray in a plane of context 1, with bytes in memory. -/
def runnel (x : Ray) (mem : List (Nat × Nat × Nat)) : State :=
  { nodeAt 0 (fun p => { p with ctx := 1 }) (world { more := mem }) with rays := [(3, x)] }

theorem witness_ray_accept (v : Vec) : let x := ray1 (fun r => { r with stage := .sent, vec := v }); let s := runnel x []
    s.rays.find 3 = some x ∧ x.stage = .sent ∧ s.inFlight (pkDie x.plane) < 4096 ∧
    ∀ y ∈ s.rays, y.2.stage = .sent → pkDie y.2.plane = pkDie x.plane → x.ord ≤ y.2.ord := by
  refine ⟨rfl, rfl, ?_, fun y hy _ _ => ?_⟩
  · exact Nat.lt_of_le_of_lt (List.length_filter_le _ _) (show 1 < 4096 by decide)
  · rw [List.mem_singleton.mp hy]

/-- A node to fetch: off its alignment, one level too deep, where no page is, with a byte that must be zero, and sound. -/
theorem witness_node_bad (it : RayItem) (h : it = ⟨0x90001, 1, 0⟩ ∨ it = ⟨0x90000, 33, 0⟩ ∨ it = ⟨0x90000, 32, 0⟩) :
    let x := ray1 (fun r => { r with stack := [it] }); let s := runnel x []
    s.rays.find 3 = some x ∧ x.stage = .queued ∧ x.ended = false ∧ it.tris = 0 ∧ x.node = none ∧
    (it.addr % 128 ≠ 0 ∨ 32 < it.depth ∨ (it.addr % 128 = 0 ∧ it.depth ≤ 32)) := by
  rcases h with rfl | rfl | rfl <;> decide +kernel

theorem witness_node_reads (mem : List (Nat × Nat × Nat)) (ok : Bool)
    (h : (mem = [(0x9000C, 4, 0x7F7F7F)] ∧ ok = true) ∨ (mem = [(0x9000C, 4, 0x7F7F7F), (0x90059, 1, 1)] ∧ ok = false)) : ∃ s1 l,
    let x := ray1 (fun r => { r with stack := [⟨0x90000, 32, 0⟩] }); let s := runnel x mem
    { x.iss with frame := none } = rayAgent ∧ s.vread rayAgent 0x90000 128 = (s1, .ok l) ∧ (GoodNode l ↔ ok = true) := by
  unfold GoodNode Child
  rcases h with ⟨rfl, rfl⟩ | ⟨rfl, rfl⟩ <;> refine ⟨_, _, rfl, okay [] (by decide +kernel), ?_⟩
  · refine ⟨fun _ => rfl, fun _ => ⟨fun i h1 h2 => ?_, by decide +kernel, fun i hi => ?_⟩⟩
    · have k : ∀ i < 128, 89 ≤ i → byteAt (valOf [] ((runnel (ray1 (fun r => { r with stack := [⟨0x90000, 32, 0⟩] })) [(0x9000C, 4, 0x7F7F7F)]).vread
          rayAgent
          0x90000 128)) i = 0 := by decide +kernel
      exact k i h2 h1
    · have k : ∀ i < 8, (byteAt (valOf [] ((runnel (ray1 (fun r => { r with stack := [⟨0x90000, 32, 0⟩] })) [(0x9000C, 4, 0x7F7F7F)]).vread
          rayAgent
          0x90000 128)) 88).testBit i = false := by decide +kernel
      have := k i hi.1
      rw [hi.2] at this
      cases this
  · refine ⟨fun hg => ?_, fun h => nomatch h⟩
    have k : byteAt (valOf [] ((runnel (ray1 (fun r => { r with stack := [⟨0x90000, 32, 0⟩] })) [(0x9000C, 4, 0x7F7F7F), (0x90059, 1, 1)]).vread
        rayAgent
        0x90000 128)) 89 = 1 := by decide +kernel
    have := hg.1 89 (by decide) (by decide)
    rw [k] at this
    cases this

theorem witness_unmapped (it : RayItem) (n : Nat) (h : (it = ⟨2 ^ 40, 1, 0⟩ ∧ n = 128) ∨ (it = ⟨2 ^ 40, 1, 1⟩ ∧ n = 48)) : ∃ s1 e,
    let x := ray1 (fun r => { r with stack := [it] }); let s := runnel x []
    s.rays.find 3 = some x ∧ x.stage = .queued ∧ x.ended = false ∧ s.vread { x.iss with frame := none } it.addr n = (s1, .error e) := by
  have bad : ∀ {σ ε α : Type} {x : σ × Except ε α}, x.2.toOption.isSome = false → ∃ s e, x = (s, .error e) := by
    rintro σ ε α ⟨a, e | b⟩ h
    · exact ⟨a, e, rfl⟩
    · cases h
  rcases h with ⟨rfl, rfl⟩ | ⟨rfl, rfl⟩
  · obtain ⟨s1, e, h⟩ := bad (x := (runnel (ray1 (fun r => { r with stack := [⟨2 ^ 40, 1, 0⟩] })) []).vread
      rayAgent (2 ^ 40) 128) (by decide +kernel)
    exact ⟨s1, e, rfl, rfl, rfl, h⟩
  · obtain ⟨s1, e, h⟩ := bad (x := (runnel (ray1 (fun r => { r with stack := [⟨2 ^ 40, 1, 1⟩] })) []).vread
      rayAgent (2 ^ 40) 48) (by decide +kernel)
    exact ⟨s1, e, rfl, rfl, rfl, h⟩

/-- A node with every exponent at an end of its range: its box is to be tested. -/
def node1 : List Byte := (List.range 128).map (fun i => if i = 12 then 1#8 else if i = 13 ∨ i = 14 then 254#8 else if i = 88 then 255#8 else 0#8)

theorem witness_box : let x := ray1 (fun r => { r with stack := [⟨0x90000, 32, 0⟩], node := some (0x90000, node1) }); let s := runnel x []
    s.rays.find 3 = some x ∧ x.stage = .queued ∧ x.ended = false ∧ x.stack = [⟨0x90000, 32, 0⟩] ∧ x.node = some (0x90000, node1) ∧
    (∀ k < 3, Claim.Finite (Num.fmtOf 10) (wordAt node1 (4 * k) 4)) ∧ (∀ i < 8, FiniteLane x.vec i) ∧
    (∀ k < 3, 0 < byteAt node1 (12 + k) ∧ byteAt node1 (12 + k) < 255) ∧ Claim.Finite (Num.fmtOf 10) x.best.1 := by
  refine ⟨by decide +kernel, rfl, rfl, rfl, rfl, fun k hk => finite_of ?_, fun i hi => finite_of ?_, by decide +kernel, finite_of (by decide +kernel)⟩
  · revert k; decide +kernel
  · revert i; decide +kernel

/-- A triangle to test: off its alignment, with bad flags, the last of its leaf, and not the last. -/
theorem witness_triangle_bad : let x := ray1 (fun r => { r with stack := [⟨0x90008, 1, 1⟩] }); let s := runnel x []
    s.rays.find 3 = some x ∧ x.stage = .queued ∧ x.ended = false ∧ x.stack = [⟨0x90008, 1, 1⟩] ∧ (0x90008 : Nat) % 16 ≠ 0 := by decide +kernel

theorem witness_triangle (flags n : Nat) (h : (flags = 2 ∧ n = 1) ∨ (flags = 1 ∧ n = 1) ∨ (flags = 0 ∧ n = 8)) : ∃ s1 l,
    let x := ray1 (fun r => { r with stack := [⟨0x90000, 1, n⟩] }); let s := runnel x [(0x9002C, 4, flags), (0x9000C, 4, 0x3F800000), (0x9001C, 4, 0x3F800000)]
    s.rays.find 3 = some x ∧ x.stage = .queued ∧ x.ended = false ∧ x.stack = [⟨0x90000, 1, n⟩] ∧ n ≠ 0 ∧
    s.vread { x.iss with frame := none } 0x90000 48 = (s1, .ok l) ∧ (wordAt l 44 4 ≤ 1 ↔ flags ≠ 2) ∧ (∀ i < 9, Claim.Finite (Num.fmtOf 10) (wordAt l (4 * i) 4)) ∧
    (∀ i < 8, FiniteLane x.vec i) ∧ Claim.Finite (Num.fmtOf 10) x.best.1 := by
  rcases h with h | h | h <;> obtain ⟨rfl, rfl⟩ := h <;>
    refine ⟨_, _, by decide +kernel, rfl, rfl, rfl, by decide, okay [] (by decide +kernel), by decide +kernel, fun i hi => finite_of ?_,
      fun i hi => finite_of ?_, finite_of (by decide +kernel)⟩ <;> (revert i; decide +kernel)

/-- A ray that has ended, and one with nothing left; its frame alive, replaced, and gone. -/
theorem witness_ray_complete (x : Ray) (hx : x = ray1 (fun r => { r with ended := true }) ∨ x = ray1 id) (fs : Map Frame)
    (h : fs = [(0, frame0)] ∨ fs = [(0, { frame0 with gen := 1 })] ∨ fs = []) :
    let s : State := { nodeAt 0 (fun p => { p with frames := fs }) with rays := [(3, x)] }
    s.rays.find 3 = some x ∧ x.stage = .queued ∧ (x.ended = true ∨ (x.stack = [] ∧ x.node = none)) ∧ s.planes.find x.plane = some (s.plane 0) ∧
    (s.plane 0).frames.find x.frame = (fs.head?).map Prod.snd := by
  rcases hx with rfl | rfl <;> rcases h with rfl | rfl | rfl <;> decide +kernel

/-- A sampler's request and its identifier. -/
def sampling (q : Req) (tid : Nat) : State := { nodeAt 0 with reqs := [(3, q)], tids := [(1, BitVec.ofNat 512 tid)] }

/-- A request with two live lanes, or with none. -/
def sampled (opc fmt mod operand : Nat) (m : Mask) : Req :=
  ⟨0, 0, 0, 0, 0, opc, Decode.nodeBody (nodeWord opc fmt mod 0x8 0 operand), op 0 m, Machine.noOperand, Machine.noOperand, 0, .queued, 0, 0, 0, []⟩

/-- The points of a request without P and without a third coordinate. -/
theorem points (q : Req) (l : List Nat) (hp : q.body.hasP = false) (hl : ∀ k ∈ l, k < 8)
    (h : ∀ k < 8, k ∈ l ↔ q.l.mask.getLsbD (2 * k) = true ∧ q.l.mask.getLsbD (2 * k + 1) = true) : ∀ k, k ∈ l ↔ LivePoint q false k := by
  intro k
  simp only [LivePoint, hp, Bool.false_eq_true, false_implies, and_true, List.forall_mem_cons, List.not_mem_nil, implies_true]
  constructor
  · exact fun hm => ⟨hl k hm, (h k (hl k hm)).mp hm⟩
  · exact fun hm => (h k hm.1).mpr hm.2

/-- A hash grid of 16 levels in the scratchpad, read at its last. -/
def gridTid : Nat := 2 ^ 57 + 8 * 2 ^ 64 + 2 ^ 79 + 2 ^ 128 + 2 ^ 160 + 2 ^ 192 + 2 ^ 224 + 16 * 2 ^ 448 + 4 * 2 ^ 453 + 2 * 2 ^ 464 + 0x3FC00000 * 2 ^ 480

theorem witness_hgf (m : Mask) (pts : List Nat) (h : (m = 0 ∧ pts = []) ∨ (m = 3 ∧ pts = [0]) ∨ (m = 0xC000 ∧ pts = [7])) : ∃ s1 vals,
    let q := sampled 0xB3 8 0 (1 + 15 * 2 ^ 8) m; let s := sampling q gridTid; let t := s.reqTid q
    s.reqs.find 3 = some q ∧ q.stage = .queued ∧ s.planes.has q.plane = true ∧ q.opc = 0xB3 ∧ tidValid t = true ∧ q.body.operand.toNat / 2 ^ 8 % 16 < t / 2 ^ 448 % 32 ∧
    tidFmt t = 8 ∧ tidBase t % 64 = 0 ∧ t.testBit 460 = false ∧ q.body.operand.toNat.testBit 12 = false ∧ (∀ k, k ∈ pts ↔ LivePoint q false k) ∧ pts.Pairwise (· < ·) ∧
    (∀ k ∈ pts, FiniteLane q.l.val (2 * k) ∧ FiniteLane q.l.val (2 * k + 1)) ∧
    s.sampleReads q 16 (pts.flatMap (fun _ => (List.range 4).flatMap (fun _ => (List.range (hgF t)).map (fun f => spaceLoc 1 ((2 * f : Nat) : ℤ))))) = (s1, .ok vals) ∧
    (∀ v ∈ vals, isFinite (Num.fmtOf 8) v = true) ∧ s1.planes.has q.plane = true ∧ (s1.plane q.plane).frames.find q.frame = some frame0 ∧ frame0.gen = q.gen := by
  rcases h with h | h | h <;> obtain ⟨rfl, rfl⟩ := h <;>
    refine ⟨_, _, by decide +kernel, rfl, by decide +kernel, rfl, by decide +kernel, by decide +kernel, by decide +kernel, by decide +kernel, by decide +kernel,
      by decide +kernel, points _ _ (by decide +kernel) (by decide) (by decide +kernel), by decide, fun k hk => ⟨finite_of ?_, finite_of ?_⟩, okay [] (by decide +kernel),
      by decide +kernel, by decide +kernel, by decide +kernel, rfl⟩ <;> (revert k; decide +kernel)

/-- A texture of f16 in the scratchpad, of one channel, 4 by 4. -/
def texTid : Nat := 2 ^ 57 + 8 * 2 ^ 64 + 2 * 2 ^ 69 + 2 ^ 79 + 2 ^ 128 + 4 * 2 ^ 160 + 4 * 2 ^ 192 + 2 ^ 224 + 2 ^ 256 + 2 ^ 288 + 4 * 2 ^ 320

theorem witness_tex (o : Nat) (m : Mask) (pts : List Nat) (ho : o = 0 ∨ o = 0x100 ∨ o = 0x300) (h : (m = 0 ∧ pts = []) ∨ (m = 0xC000 ∧ pts = [7])) : ∃ s1 vals,
    let q := sampled 0xB5 10 3 (1 + o) m; let s := sampling q texTid; let t := s.reqTid q
    s.reqs.find 3 = some q ∧ q.stage = .queued ∧ s.planes.has q.plane = true ∧ q.opc = 0xB5 ∧ texCause q t = none ∧ q.body.fmt.toNat = 10 ∧ q.body.mod.toNat % 8 < 4 ∧
    0 < tidDim t 0 ∧ 0 < tidDim t 1 ∧ 0 < tidDim t 2 ∧ (∀ k, k ∈ pts ↔ LivePoint q false k) ∧ pts.Pairwise (· < ·) ∧
    (∀ k ∈ pts, FiniteLane q.l.val (2 * k) ∧ FiniteLane q.l.val (2 * k + 1)) ∧
    s.sampleReads q 16 (pts.flatMap (fun _ => (List.range (if o = 0 then 1 else 4)).flatMap (fun c => (List.range 1).map (fun ch => tidElemAt t ch (c % 2) (c / 2) 0)))) = (s1, .ok vals) ∧
    (∀ v ∈ vals, isFinite (Num.fmtOf 8) v = true) ∧ s1.planes.has q.plane = true ∧ (s1.plane q.plane).frames.find q.frame = some frame0 ∧ frame0.gen = q.gen := by
  rcases ho with rfl | rfl | rfl <;> rcases h with ⟨rfl, rfl⟩ | ⟨rfl, rfl⟩ <;>
    refine ⟨_, _, by decide +kernel, rfl, by decide +kernel, rfl, by decide +kernel, by decide +kernel, by decide +kernel, by decide +kernel, by decide +kernel,
      by decide +kernel, points _ _ (by decide +kernel) (by decide) (by decide +kernel), by decide, fun k hk => ⟨finite_of ?_, finite_of ?_⟩, okay [] (by decide +kernel),
      by decide +kernel, by decide +kernel, by decide +kernel, rfl⟩ <;> (revert k; decide +kernel)

end Sys2Proof.Tests
end

