-- ==== Sys2Proof/Tests/WitnessSeq.lean ====
section
/-! SUPPORT. States and operands that meet the hypotheses of the statements about sequencers and control cores, clause by
clause. -/

namespace Sys2Proof.Tests

set_option Elab.async false

open Sys2Proof Sys2Proof.Machine Sys2Proof.Claim

/-! BranchesAndJumpsReachTheirTarget: an aligned target just below 2^57. -/

theorem witness_jump_target : ((coreAt 0x30F#64 [2 ^ 57 - 4]).g 1#5).toNat % 4 = 0 ∧ ((coreAt 0x30F#64 [2 ^ 57 - 4]).g 1#5).toNat < 2 ^ 57 := by
  decide +kernel

theorem witness_return_target : ((coreAt 0x30F#64 []).g 31#5).toNat % 4 = 0 ∧ ((coreAt 0x30F#64 []).g 31#5).toNat < 2 ^ 57 := by decide +kernel

/-! LoadsWriteTheBytesRead, StoresPlaceTheLowBytes, AtomicsReadModifyAndWrite: the last doubleword of the page, plain and watched. -/

theorem witness_load (leaf : BitVec 64) (h : leaf = 0x30F#64 ∨ leaf = 0x32F#64) :
    ∃ s1 s2 tr bytes, Reaches (coreAt leaf [0x200000]) (ea (coreAt leaf [0x200000]) 1#5 0x3FF8#14) (2 ^ 3) {} s1 tr ∧
      s1.physRead tr.slot tr.pa (2 ^ 3) = (s2, .ok bytes) := by
  rcases h with rfl | rfl
  · exact ⟨_, _, ⟨0x1FFFF8, 0, false⟩, List.replicate 8 0#8, near (by decide +kernel) (by decide +kernel) (pair (by decide +kernel)) (by decide), pair (by decide +kernel)⟩
  · exact ⟨_, _, ⟨0x1FFFF8, 0, true⟩, List.replicate 8 0#8, near (by decide +kernel) (by decide +kernel) (pair (by decide +kernel)) (by decide +kernel), pair (by decide +kernel)⟩

theorem witness_acquire_load (leaf : BitVec 64) (h : leaf = 0x30F#64 ∨ leaf = 0x32F#64) :
    ∃ s1 s2 tr bytes, Reaches (coreAt leaf [8]) ((coreAt leaf [8]).g 1#5).toNat (2 ^ 3) { atomic := true, acq := true, scope := 11 } s1 tr ∧
      s1.physRead tr.slot tr.pa (2 ^ 3) = (s2, .ok bytes) := by
  rcases h with rfl | rfl
  · exact ⟨_, _, ⟨8, 0, false⟩, List.replicate 8 0#8, near (by decide +kernel) (by decide +kernel) (pair (by decide +kernel)) (by decide), pair (by decide +kernel)⟩
  · exact ⟨_, _, ⟨8, 0, true⟩, List.replicate 8 0#8, near (by decide +kernel) (by decide +kernel) (pair (by decide +kernel)) (by decide +kernel), pair (by decide +kernel)⟩

theorem witness_store (leaf : BitVec 64) (h : leaf = 0x30F#64 ∨ leaf = 0x32F#64) :
    ∃ s1 s2 tr, Reaches (coreAt leaf [8, 5]) (ea (coreAt leaf [8, 5]) 1#5 8#14) (2 ^ 3) { wr := true } s1 tr ∧
      s1.physWrite tr.slot tr.pa (Machine.leBytes (2 ^ 3) ((coreAt leaf [8, 5]).g 2#5).toNat) = (s2, .ok ()) ∧ Sound s1 tr.pa (2 ^ 3) := by
  rcases h with rfl | rfl
  · exact ⟨_, _, ⟨16, 0, false⟩, near (by decide +kernel) (by decide +kernel) (pair (by decide +kernel)) (by decide), pair (by decide +kernel), by decide +kernel, by decide +kernel⟩
  · exact ⟨_, _, ⟨16, 0, true⟩, near (by decide +kernel) (by decide +kernel) (pair (by decide +kernel)) (by decide +kernel), pair (by decide +kernel), by decide +kernel, by decide +kernel⟩

theorem witness_release_store (leaf : BitVec 64) (h : leaf = 0x30F#64 ∨ leaf = 0x32F#64) :
    ∃ s1 s2 tr, Reaches (coreAt leaf [8, 5]) ((coreAt leaf [8, 5]).g 1#5).toNat (2 ^ 0) { wr := true, atomic := true, rel := true, scope := 1 } s1 tr ∧
      s1.physWrite tr.slot tr.pa (Machine.leBytes (2 ^ 0) ((coreAt leaf [8, 5]).g 2#5).toNat) = (s2, .ok ()) ∧ Sound s1 tr.pa (2 ^ 0) := by
  rcases h with rfl | rfl
  · exact ⟨_, _, ⟨8, 0, false⟩, near (by decide +kernel) (by decide +kernel) (pair (by decide +kernel)) (by decide), pair (by decide +kernel), by decide +kernel, by decide +kernel⟩
  · exact ⟨_, _, ⟨8, 0, true⟩, near (by decide +kernel) (by decide +kernel) (pair (by decide +kernel)) (by decide +kernel), pair (by decide +kernel), by decide +kernel, by decide +kernel⟩

/-- AMO.add.d of 5 to a doubleword of zeros, and AMO.cas.w with the expected value zero. -/
theorem witness_amo : ∃ s1 s2 s3 tr bytes, Reaches (coreAt 0x30F#64 [8, 5]) ((coreAt 0x30F#64 [8, 5]).g 1#5).toNat 8
      { wr := true, atomic := true, acq := true, rel := true, scope := 7 } s1 tr ∧ target tr.pa ≠ .host ∧
    s1.physRead tr.slot tr.pa 8 = (s2, .ok bytes) ∧
    AmoResult 0 64 (Machine.leNat bytes) (((coreAt 0x30F#64 [8, 5]).g 2#5).toNat % 2 ^ 64) 0 5 ∧ s2.physWrite tr.slot tr.pa (Machine.leBytes 8 5) = (s3, .ok ()) ∧
    Sound s2 tr.pa 8 :=
  ⟨_, _, _, ⟨8, 0, false⟩, List.replicate 8 0#8, near (by decide +kernel) (by decide +kernel) (pair (by decide +kernel)) (by decide), by decide, pair (by decide +kernel),
    ⟨by decide, fun _ => by decide +kernel, nofun, nofun, nofun, nofun, nofun, nofun, nofun, nofun, nofun⟩,
    pair (by decide +kernel), by decide +kernel, by decide +kernel⟩

theorem witness_amo_cas : ∃ s1 s2 s3 tr bytes, Reaches (coreAt 0x30F#64 [8, 5]) ((coreAt 0x30F#64 [8, 5]).g 1#5).toNat 4
      { wr := true, atomic := true, acq := true, rel := true, scope := 7 } s1 tr ∧ s1.physRead tr.slot tr.pa 4 = (s2, .ok bytes) ∧
    AmoResult 9 32 (Machine.leNat bytes) (((coreAt 0x30F#64 [8, 5]).g 2#5).toNat % 2 ^ 32) 0 5 ∧ s2.physWrite tr.slot tr.pa (Machine.leBytes 4 5) = (s3, .ok ()) :=
  ⟨_, _, _, ⟨8, 0, false⟩, List.replicate 4 0#8, near (by decide +kernel) (by decide +kernel) (pair (by decide +kernel)) (by decide), pair (by decide +kernel),
    ⟨by decide, nofun, nofun, nofun, nofun, nofun, nofun, nofun, nofun, nofun, fun _ => by decide +kernel⟩,
    pair (by decide +kernel)⟩

/-! BadAddressesTrap: an address one above an aligned one, and 2^57 itself. -/

theorem witness_misaligned : ea (coreAt 0x30F#64 [1]) 1#5 0#14 % 2 ^ 1 ≠ 0 ∧ ((coreAt 0x30F#64 [1]).g 1#5).toNat % 2 ^ 1 ≠ 0 ∧
    ((coreAt 0x30F#64 [1]).g 1#5).toNat % 4 ≠ 0 ∧ ((coreAt 0x30F#64 [4]).g 1#5).toNat % 8 ≠ 0 := by decide +kernel

theorem witness_out_of_range : ea (coreAt 0x30F#64 [2 ^ 57]) 1#5 0#14 % 2 ^ 3 = 0 ∧ 2 ^ 57 ≤ ea (coreAt 0x30F#64 [2 ^ 57]) 1#5 0#14 ∧
    ((coreAt 0x30F#64 [2 ^ 57]).g 1#5).toNat % 8 = 0 ∧ 2 ^ 57 ≤ ((coreAt 0x30F#64 [2 ^ 57]).g 1#5).toNat := by decide +kernel

/-- An access to module 3, whose links are all down: its response is not in time. With its links up, what comes is one of the three. -/
def farCore (down : Bool) : State :=
  { coreAt (BitVec.ofNat 64 (2 ^ 51 + 3 * 2 ^ 39 + 0x30F)) [0x40] with
    csrs := (0x0400, 0xFFFFE514#64) :: if down then (List.range 12).map (fun p => (0x0390 + p, 0xC#64)) else [] }

theorem witness_far_late : ∃ s0, FarAs (farCore true) 0x40 false 1 s0 ∧ FarAs (farCore true) 0x40 true 1 s0 ∧ 0x40 % 8 = 0 :=
  ⟨farCore true, ⟨by decide +kernel, by decide +kernel⟩, ⟨by decide +kernel, by decide +kernel⟩, rfl⟩

theorem witness_far : ∃ n s0, n ≤ 2 ∧ FarAs (farCore false) 0x40 false n s0 ∧ FarAs (farCore false) 0x40 true n s0 :=
  ⟨(Config.freeByte 0).toNat % 3, { farCore false with draws := 1 }, by omega, ⟨by decide +kernel, rfl⟩, ⟨by decide +kernel, rfl⟩⟩

/-- However its response comes, the access itself goes through. -/
theorem witness_far_performed : ∃ (s1 s2 : State) (old old' : Nat), { farCore false with draws := 1 }.access 256 (farCore false).meIss 0x40 8 {} (fun _ => none) = (s1, .ok old) ∧
    { farCore false with draws := 1 }.access 256 (farCore false).meIss 0x40 8 { wr := true } (fun _ => some 5) = (s2, .ok old') :=
  ⟨_, _, _, _, okay 0 (by decide +kernel), okay 0 (by decide +kernel)⟩

/-! AStoreIsReadBack. -/

theorem witness_physical_store : ∃ t, Sound State.reset 0x1003 [1#8, 0#8, 2#8].length ∧ State.reset.physWrite 0 0x1003 [1#8, 0#8, 2#8] = (t, .ok ()) :=
  ⟨_, ⟨by decide, by decide +kernel⟩, pair (by decide +kernel)⟩

/-! ControlCoresTakeTrapsAndReturn, TrapsWriteATrapFrame. -/

/-- CC0 with TVEC at 0x1000 and enabled. -/
def trapping (tinfo : Word) : State :=
  { State.reset with cur := 256, units := [(256, { UnitSt.reset with status := .running, priv := true, tvec := 0x1001#64, tinfo := tinfo, tepc := 0x40#64 })] }

theorem witness_core_trap : TakesTraps (trapping 0#64) ∧ (4#57).toNat % 4 = 0 :=
  ⟨by unfold TakesTraps; decide +kernel, by decide⟩

theorem witness_core_return : (trapping (1#64 <<< 38)).me.priv = true ∧ 256 ≤ (trapping (1#64 <<< 38)).cur ∧
    (trapping (1#64 <<< 38)).me.tinfo.getLsbD 38 = true := by decide +kernel

theorem witness_trap_frame : let w := world {}; let r := w.endRecord w.cur; ∃ s1 s2, w.cur < 256 ∧ r.freeSlot w.me.ctx = some 0 ∧
    r.poke w.me.ctx (r.desc w.me.ctx 24 8 + 512 * 0) (trapFrame ((trapRecord w 3 4 5).bits w.timer) w.me.regs.toList w.me.preds 0 w.me.record) = some s1 ∧
    (s1.recordRelease w.me.ctx (r.desc w.me.ctx 24 8 + 512 * 0) (s1.effHscope w.me.ctx (recCbix w.me.record))).deliver w.me.ctx
      (recCbix w.me.record) 3 (BitVec.ofNat 64 (r.desc w.me.ctx 24 8 + 512 * 0)) w.me.handler = some s2 := by
  refine ⟨_, _, by decide +kernel, by decide +kernel, (Option.some_get ?_).symm, (Option.some_get ?_).symm⟩ <;> decide +kernel

/-! PrivilegedInstructionsNeedPrivilege, UnitsStopSleepAndWake. -/

theorem witness_no_privilege : State.reset.me.priv = false ∧ State.reset.me.handler = none := by decide

theorem witness_privileged_core : (coreAt 0x30F#64 []).me.priv = true ∧ 256 ≤ (coreAt 0x30F#64 []).cur := by decide +kernel

theorem witness_privileged_sequencer : (world {}).me.priv = true ∧ (world {}).cur < 256 := by decide +kernel

/-! EnqAndContHandARecordOver, JoinAndArmCountDown. -/

/-- What ENQ and CONT need of a record without JOIN, in queue 3 of FD0, which the sequencer serves, or in the hub queue. -/
theorem witness_record_fits (k : Nat) (h : k = 3 ∨ k = 0x80) : let w := world { queue := k, regs := [0x50000] }; ∃ s1 r,
    Validates w (w.g 1#5).toNat s1 r ∧ recJoin r = 0 ∧ Fits s1 r ∧ s1.queueOf s1.me.ctx (recCbix r) = (if k = 3 then 3 else 128) ∧ s1.cur < 256 := by
  rcases h with rfl | rfl
  · exact ⟨_, recordAt 0, validates _ 0 (by decide +kernel) (by decide +kernel) (by decide +kernel) (by decide +kernel) (by decide +kernel),
      by decide +kernel, by unfold Fits; decide +kernel, by decide +kernel, by decide +kernel⟩
  · exact ⟨_, recordAt 0, validates _ 0 (by decide +kernel) (by decide +kernel) (by decide +kernel) (by decide +kernel) (by decide +kernel),
      by decide +kernel, by unfold Fits; decide +kernel, by decide +kernel, by decide +kernel⟩

/-- A record with a JOIN, and what JOIN needs: a count of 65,534 raised by 1, or by 2, or by none. -/
theorem witness_join (n : Nat) (h : n = 0 ∨ n = 1 ∨ n = 2) : let w := world { join := 65534, regs := [0x50000, n] }; ∃ s1 s2 s3 s4 r tr old,
    Validates w (w.g 1#5).toNat s1 r ∧ recJoin r ≠ 0 ∧ (w.g 2#5).toNat = n ∧ recJoin r = 65534 ∧
    Reaches s1 ((w.g 1#5).toNat + 16) 2 { wr := true, atomic := true, scope := 6 } s2 tr ∧ s2.physRead tr.slot tr.pa 2 = (s3, .ok old) ∧
    s3.physWrite tr.slot tr.pa (Machine.leBytes 2 (Machine.leNat old + n)) = (s4, .ok ()) ∧ Sound s3 tr.pa 2 := by
  rcases h with rfl | rfl | rfl <;>
    exact ⟨_, _, _, _, recordAt 65534, ⟨0x50010, 0, false⟩, [0xFE#8, 0xFF#8],
      validates _ 65534 (by decide +kernel) (by decide +kernel) (by decide +kernel) (by decide +kernel) (by decide +kernel),
      by decide +kernel, by decide +kernel, by decide +kernel, near (by decide +kernel) (by decide +kernel) (pair (by decide +kernel)) nofun,
      pair (by decide +kernel), pair (by decide +kernel), by decide +kernel, by decide +kernel⟩

/-- The event table of a unit has room. -/
abbrev Room (s : State) : Prop := (s.arms.filter (fun x => x.die = s.armDie)).length < 4096

/-- An iteration source, complete or not. -/
def sourceOf (complete : Bool) : IterSt := ⟨1, 1, 1, 1, true, complete, none, 0, false, 0⟩

/-- A world whose plane 0 iterates. -/
def iterating (b : Bool) : State :=
  { world { regs := [0x50000] } with planes := [(0, { Plane.reset with ctx := 1, state := .active, iter := some (sourceOf b) })] }

theorem witness_arm_iter (b : Bool) : ∃ s1 s2 r pk t, Validates (iterating b) ((iterating b).g 1#5).toNat s1 r ∧
    s1.myPlane 0#2 = .ok (some (s2, pk)) ∧ (s2.plane pk).iter = some t ∧ t.complete = b ∧ Room s2 := by
  refine ⟨validated (iterating b), validated (iterating b), recordAt 0, 0, sourceOf b, ?_, ?_, ?_, rfl, ?_⟩
  · cases b <;> exact validates _ 0 (by decide +kernel) (by decide +kernel) (by decide +kernel) (by decide +kernel) (by decide +kernel)
  all_goals cases b <;> decide +kernel

/-- The descriptor of ARM.tl at 0x50040: handle 0, command 1, which has completed or not. -/
theorem witness_arm_tl (n : Nat) (h : n = 0 ∨ n = 1) :
    let w := { world { regs := [0x50000, 0x50040], more := [(0x50048, 8, 1)] } with engs := [(0, ⟨n, 1, []⟩)] }
    ∃ s1 s2 r h n', Validates w (w.g 1#5).toNat s1 r ∧ s1.armDesc (w.g 2#5).toNat = (s2, .ok (h, n')) ∧
      s2.handleCause s2.me.ctx (recCbix s2.me.record) h = none ∧ n' ≤ (s2.engs.get (ctxKey h) ⟨0, 0, []⟩).accepted ∧
      (s2.engs.get (ctxKey h) ⟨0, 0, []⟩).counter = n ∧ Room s2 := by
  rcases h with rfl | rfl <;>
    exact ⟨_, _, recordAt 0, 0, 1, validates _ 0 (by decide +kernel) (by decide +kernel) (by decide +kernel) (by decide +kernel) (by decide +kernel),
      pair (by decide +kernel), by decide +kernel, by decide +kernel, by decide +kernel, by decide +kernel⟩

/-- The descriptor of ARM.watch at 0x50040: the word at 0x50060, which holds 7, against v. -/
def watching (v : Nat) : State :=
  world { regs := [0x50000, 0x50040], more := [(0x50040, 8, 0x50060), (0x50048, 8, v), (0x50060, 8, 7)] }

theorem witness_arm_watch (v : Nat) (h : v = 7 ∨ v = 8) :
    ∃ s1 s2 s3 s4 r h n tr bytes, Validates (watching v) ((watching v).g 1#5).toNat s1 r ∧
      s1.armDesc ((watching v).g 2#5).toNat = (s2, .ok (h, n)) ∧ h % 8 = 0 ∧ n = v ∧
      s2.translate s2.cur s2.meIss.die s2.me.ctx h false false s2.me.priv = (s3, .ok tr) ∧ s3.physRead tr.slot tr.pa 8 = (s4, .ok bytes) ∧
      Machine.leNat bytes = 7 ∧ Room s4 := by
  refine ⟨validated (watching v), _, _, _, recordAt 0, 0x50060, v, ⟨0x50060, 0, false⟩, [7#8, 0#8, 0#8, 0#8, 0#8, 0#8, 0#8, 0#8],
    ?_, pair ?_, ?_, rfl, pair ?_, pair ?_, ?_, ?_⟩
  · rcases h with rfl | rfl <;> exact validates _ 0 (by decide +kernel) (by decide +kernel) (by decide +kernel) (by decide +kernel) (by decide +kernel)
  all_goals rcases h with rfl | rfl <;> decide +kernel

end Sys2Proof.Tests
end

/-! PROOF of O59. Canonical memory is an invariant. Memory and element data change by writes and by taking entries away alone,
and Laws say of both that they keep the canonical form (`Memory.wf_write`, `Memory.wf_foldl`, `Memory.wf_filter`). Here one
lemma for each function of the model that moves the state says that it keeps `MemoryOk`, in the order of the model; each cites
those of the functions that it calls, and `MemoryOk.step` stands at the end. -/

namespace Sys2Proof

open Sys2Proof.Machine

/-- The next state, where an outcome has one, has canonical memory. -/
def OutOk : Out → Prop
  | .next t => MemoryOk t
  | _ => True

/-- The state, where there is one, has canonical memory. -/
def SomeOk : Option State → Prop
  | some t => MemoryOk t
  | none => True

/-- The state of a success has canonical memory. -/
def ResOk {ε : Type} : Except ε State → Prop
  | .ok t => MemoryOk t
  | .error _ => True

/-- Memory and element data decide; the other fields do not matter. -/
theorem MemoryOk.update {s t : State} (h : MemoryOk s) (hm : t.mem = s.mem) (he : t.edata = s.edata) : MemoryOk t := by
  unfold MemoryOk at h ⊢
  rwa [hm, he]

/-- `update` for an earlier state that the goal names: the two equations come first and find it. -/
theorem MemoryOk.congr {s t : State} (hm : t.mem = s.mem) (he : t.edata = s.edata) (h : MemoryOk s) : MemoryOk t :=
  h.update hm he

theorem MemoryOk.of_eq {α : Type} {x : State × α} {t : State} {a : α} (e : x = (t, a)) (h : MemoryOk x.1) : MemoryOk t := by
  subst e
  exact h

theorem MemoryOk.of_eq_snd {α : Type} {x : α × State} {t : State} {a : α} (e : x = (a, t)) (h : MemoryOk x.2) : MemoryOk t := by
  subst e
  exact h

theorem SomeOk.of_eq {o : Option State} {t : State} (e : o = some t) (h : SomeOk o) : MemoryOk t := by
  subst e
  exact h

theorem ResOk.of_eq {ε : Type} {r : Except ε State} {t : State} (e : r = .ok t) (h : ResOk r) : MemoryOk t := by
  subst e
  exact h

theorem SomeOk.getD {o : Option State} {s : State} (ho : SomeOk o) (h : MemoryOk s) : MemoryOk (o.getD s) := by
  cases o with
  | none => exact h
  | some t => exact ho

theorem SomeOk.orElse {a b : Option State} (ha : SomeOk a) (hb : SomeOk b) : SomeOk (a <|> b) := by
  cases a with
  | none => exact hb
  | some t => exact ha

theorem MemoryOk.ite {c : Prop} [Decidable c] {s t : State} (hs : MemoryOk s) (ht : MemoryOk t) :
    MemoryOk (if c then s else t) := by
  split
  · exact hs
  · exact ht

theorem OutOk.ite {c : Prop} [Decidable c] {a b : Out} (ha : OutOk a) (hb : OutOk b) : OutOk (if c then a else b) := by
  split
  · exact ha
  · exact hb

theorem SomeOk.ite {c : Prop} [Decidable c] {a b : Option State} (ha : SomeOk a) (hb : SomeOk b) :
    SomeOk (if c then a else b) := by
  split
  · exact ha
  · exact hb

theorem ResOk.ite {ε : Type} {c : Prop} [Decidable c] {a b : Except ε State} (ha : ResOk a) (hb : ResOk b) :
    ResOk (if c then a else b) := by
  split
  · exact ha
  · exact hb

theorem MemoryOk.foldl {α : Type} {f : State → α → State} {l : List α} {s : State} (h : MemoryOk s)
    (hf : ∀ s x, MemoryOk s → MemoryOk (f s x)) : MemoryOk (l.foldl f s) := by
  induction l generalizing s with
  | nil => exact h
  | cons x l ih => exact ih (hf s x h)

theorem MemoryOk.foldl_fst {α β : Type} {f : State × β → α → State × β} {l : List α} {s : State × β} (h : MemoryOk s.1)
    (hf : ∀ s x, MemoryOk s.1 → MemoryOk (f s x).1) : MemoryOk (l.foldl f s).1 := by
  induction l generalizing s with
  | nil => exact h
  | cons x l ih => exact ih (hf s x h)

section

variable {s : State}

/-! Registers, physical memory, translation, control blocks, records and traps. -/

theorem MemoryOk.setUnit {u x} (h : MemoryOk s) : MemoryOk (s.setUnit u x) := h

theorem MemoryOk.setMe {x} (h : MemoryOk s) : MemoryOk (s.setMe x) := h.setUnit

theorem MemoryOk.setG {r v} (h : MemoryOk s) : MemoryOk (s.setG r v) := h.setMe

theorem MemoryOk.setP {r v} (h : MemoryOk s) : MemoryOk (s.setP r v) := h.setMe

theorem MemoryOk.setPc {pc} (h : MemoryOk s) : MemoryOk (s.setPc pc) := h.setMe

theorem MemoryOk.adv (h : MemoryOk s) : MemoryOk s.adv := h.setPc

theorem MemoryOk.advX (h : MemoryOk s) : MemoryOk s.advX := h.setPc

theorem MemoryOk.newId (h : MemoryOk s) : MemoryOk s.newId.2 := h

theorem MemoryOk.setCsr {part n v} (h : MemoryOk s) : MemoryOk (s.setCsr part n v) := h

theorem MemoryOk.pend {part b} (h : MemoryOk s) : MemoryOk (s.pend part b) := .foldl h fun _ _ h => .ite h.setUnit h

theorem MemoryOk.ownLine {slot pa} (h : MemoryOk s) : MemoryOk (s.ownLine slot pa) := by
  obtain ⟨m, l, e⟩ := s.ownLine_eq slot pa
  exact ⟨s.ownLine_wf slot pa h.1, by rw [e]; exact h.2⟩

theorem MemoryOk.setByte {slot pa v} (h : MemoryOk s) : MemoryOk (s.setByte slot pa v) :=
  ⟨Memory.wf_write h.ownLine.1 _ _, h.ownLine.2⟩

theorem MemoryOk.setBytes {slot pa v} (h : MemoryOk s) : MemoryOk (s.setBytes slot pa v) := by
  induction v generalizing s pa with
  | nil => exact h
  | cons x t ih => exact ih h.setByte

theorem MemoryOk.celog {type col bank word bitn} (h : MemoryOk s) : MemoryOk (s.celog type col bank word bitn) := h.setCsr

theorem MemoryOk.remapVote {col bank word} (h : MemoryOk s) : MemoryOk (s.remapVote col bank word) := by
  unfold State.remapVote
  dsimp only
  split
  · exact h
  · split
    · exact h
    · split
      · split <;> exact h
      · exact h.setCsr.celog.pend

theorem MemoryOk.writeBack {w v} (h : MemoryOk s) : MemoryOk (s.writeBack w v) := ⟨h.setBytes.1, h.2⟩

theorem MemoryOk.poisonWord {col bank word w} (h : MemoryOk s) : MemoryOk (s.poisonWord col bank word w).1 := h

theorem MemoryOk.secded {col bank word w a} (h : MemoryOk s) : MemoryOk (s.secded col bank word w a).1 := by
  unfold State.secded
  dsimp only
  split
  · exact h
  · exact h
  · exact h.poisonWord
  · split
    · exact .writeBack h
    · split
      · exact .poisonWord h
      · exact .writeBack (.celog h)

theorem MemoryOk.cisternDecode {pa} (h : MemoryOk s) : MemoryOk (s.cisternDecode pa).1 := by
  unfold State.cisternDecode
  dsimp only
  split
  · split
    · exact h.remapVote.pend
    · split
      · exact h.remapVote
      · exact h.remapVote.secded
  · exact h

theorem MemoryOk.decodeWords {ws} (h : MemoryOk s) : MemoryOk (s.decodeWords ws).1 := by
  induction ws generalizing s with
  | nil => exact h
  | cons w t ih => exact ih h.cisternDecode

theorem MemoryOk.physRead {slot pa n} (h : MemoryOk s) : MemoryOk (s.physRead slot pa n).1 := by
  unfold State.physRead
  split
  · split <;> exact h.decodeWords.of_eq ‹_›
  · split <;> exact h
  · exact h

theorem MemoryOk.watchHook {pa n} (h : MemoryOk s) : MemoryOk (s.watchHook pa n) := h

/-- The votes on the remap entries of an access's words. -/
theorem MemoryOk.remapVotes {col bank} {ws : List Nat} (h : MemoryOk s) :
    MemoryOk (ws.foldl (fun s w => s.remapVote col bank (cisternPlace (8 * w)).2.2) s) := .foldl h fun _ _ h => h.remapVote

theorem MemoryOk.physWrite {slot pa v} (h : MemoryOk s) : MemoryOk (s.physWrite slot pa v).1 := by
  unfold State.physWrite
  dsimp only
  split
  · split
    · exact h.remapVotes.pend
    · split
      · exact .watchHook (.setBytes (h.remapVotes.update rfl rfl))
      · split
        next e => exact h.remapVotes.decodeWords.of_eq e
        next e => exact (h.remapVotes.decodeWords.of_eq e).setBytes.watchHook
  · split
    · exact h
    · exact h.setBytes.watchHook
  · exact h.setBytes.watchHook

theorem MemoryOk.markLeaf {ctx leaf ea wr} (h : MemoryOk s) : MemoryOk (s.markLeaf ctx leaf ea wr) := .ite h h.setBytes

theorem MemoryOk.fillTlb {tlb die ctx va leaf lvl slot} (h : MemoryOk s) : MemoryOk (s.fillTlb tlb die ctx va leaf lvl slot) := h

theorem MemoryOk.translateWalk {tlb die ctx va wr fe priv} (h : MemoryOk s) :
    MemoryOk (s.translateWalk tlb die ctx va wr fe priv).1 := by
  unfold State.translateWalk
  dsimp only
  split
  · exact h
  · exact h.markLeaf.fillTlb

theorem MemoryOk.translate {tlb die ctx va wr fe priv} (h : MemoryOk s) : MemoryOk (s.translate tlb die ctx va wr fe priv).1 := by
  unfold State.translate
  split
  · exact h
  · split
    · exact h.translateWalk
    · split
      · exact h.translateWalk
      · split <;> exact h

theorem MemoryOk.dropPage {ctx va} (h : MemoryOk s) : MemoryOk (s.dropPage ctx va) := h

theorem MemoryOk.touch {ctx va} (h : MemoryOk s) : MemoryOk (s.touch ctx va) := by
  unfold State.touch
  split
  · exact h
  · split
    · exact h.markLeaf
    · exact h

theorem MemoryOk.poke {ctx va v} (h : MemoryOk s) : SomeOk (s.poke ctx va v) := by
  unfold State.poke
  dsimp only
  split
  · trivial
  · split
    · split
      next e => exact h.setBytes.physWrite.of_eq e
      · trivial
    · trivial

theorem MemoryOk.poke_getD {ctx va v} (h : MemoryOk s) : MemoryOk ((s.poke ctx va v).getD s) := h.poke.getD h

theorem MemoryOk.pokeSys {ctx va v} (h : MemoryOk s) : MemoryOk (s.pokeSys ctx va v) := by
  unfold State.pokeSys
  dsimp only
  split
  · exact h
  · split
    · split
      next e => exact h.setBytes.physWrite.of_eq e
      · exact h
    · exact h

theorem MemoryOk.vread {i va n} (h : MemoryOk s) : MemoryOk (s.vread i va n).1 := by
  unfold State.vread
  split
  next e => exact h.translate.of_eq e
  next e =>
    have h1 := h.translate.of_eq e
    split <;> exact h1.physRead.of_eq ‹_›

theorem MemoryOk.vreadAny {i va n} (h : MemoryOk s) : MemoryOk (s.vreadAny i va n).1 := by
  induction n generalizing s va with
  | zero => exact h
  | succ n ih =>
    unfold State.vreadAny
    split
    next e => exact h.vread.of_eq e
    next e =>
      have h1 := h.vread.of_eq e
      split <;> exact (ih h1).of_eq ‹_›

theorem MemoryOk.rereadBlock {ctx cbix} (h : MemoryOk s) : MemoryOk (s.rereadBlock ctx cbix) := by
  unfold State.rereadBlock
  dsimp only
  split
  · exact h.touch.update rfl rfl
  · exact h

theorem MemoryOk.makeLive {ctx cbix} (h : MemoryOk s) : ResOk (s.makeLive ctx cbix) := by
  unfold State.makeLive
  dsimp only
  split
  · exact h
  · split
    · trivial
    · exact .ite trivial (.ite trivial (h.poke_getD.poke_getD.update rfl rfl))

theorem MemoryOk.reapBlocks (h : MemoryOk s) : MemoryOk s.reapBlocks := h

theorem MemoryOk.enqueue {ctx r addr x res args} (h : MemoryOk s) : MemoryOk (s.enqueue ctx r addr x res args) := .ite (.pend h) h

theorem MemoryOk.tryHandler {tctx x fptr args} (h : MemoryOk s) : SomeOk (s.tryHandler tctx x fptr args) := by
  unfold State.tryHandler
  dsimp only
  split
  · trivial
  · split
    · trivial
    · split
      · trivial
      · split
        · trivial
        next e => exact .ite trivial (h.touch.makeLive.of_eq e).enqueue

theorem MemoryOk.tryReg {part csr fptr args} (h : MemoryOk s) : SomeOk (s.tryReg part csr fptr args) := .ite h.tryHandler trivial

theorem MemoryOk.deliver {ctx cbix cause fptr self} (h : MemoryOk s) : SomeOk (s.deliver ctx cbix cause fptr self) :=
  SomeOk.orElse (.ite h.tryReg (.ite trivial h.tryHandler)) h.tryReg

theorem MemoryOk.backingReport {f failedAt} (h : MemoryOk s) : MemoryOk (s.backingReport f failedAt) := h.tryReg.getD h

theorem MemoryOk.recordRelease {ctx va sc} (h : MemoryOk s) : MemoryOk (s.recordRelease ctx va sc) := by
  unfold State.recordRelease
  dsimp only
  split
  · exact .ite h h
  · exact h

theorem MemoryOk.faultFrame {f self kind regs preds resume r} (h : MemoryOk s) :
    MemoryOk (s.faultFrame f self kind regs preds resume r) := by
  unfold State.faultFrame
  dsimp only
  split
  · exact h.backingReport
  · split
    · exact h.backingReport
    next e =>
      have h2 := h.poke.of_eq e
      split
      next e => exact (h2.recordRelease.deliver.of_eq e).update rfl rfl
      · exact h2.poke_getD

theorem MemoryOk.report {f} (h : MemoryOk s) : MemoryOk (s.report f) := h.faultFrame

theorem MemoryOk.endRecord {u} (h : MemoryOk s) : MemoryOk (s.endRecord u) := h.setUnit

theorem MemoryOk.startRecord {u q elev} (h : MemoryOk s) : MemoryOk (s.startRecord u q elev) :=
  .setUnit (h.rereadBlock.update rfl rfl)

theorem MemoryOk.trap {cause info addr aux resume place} (h : MemoryOk s) : MemoryOk (s.trap cause info addr aux resume place) :=
  .ite h.setMe h.endRecord.faultFrame

theorem MemoryOk.eret (h : MemoryOk s) : MemoryOk s.eret := h.setMe

theorem MemoryOk.trapAt {i cause} (h : MemoryOk s) : OutOk (s.trapAt i cause) := h.trap

theorem MemoryOk.joinDec {a} (h : MemoryOk s) : MemoryOk (s.joinDec a) := by
  unfold State.joinDec
  dsimp only
  split
  · exact h
  · exact .ite h.report (.ite (.poke_getD (.enqueue (h.poke_getD.update rfl rfl))) h.poke_getD)

theorem MemoryOk.settle (h : MemoryOk s) : MemoryOk s.settle := .foldl h fun _ _ h => h.joinDec

/-! Operands, planes, tokens and frames. -/

theorem MemoryOk.setPlane {pk p} (h : MemoryOk s) : MemoryOk (s.setPlane pk p) := h

theorem MemoryOk.post {pk e src hops frame gen node port kind v} (h : MemoryOk s) :
    MemoryOk (s.post pk e src hops frame gen node port kind v) := h

theorem MemoryOk.sendTo {pk e d frame gen v} (h : MemoryOk s) : MemoryOk (s.sendTo pk e d frame gen v) :=
  .ite h (.ite h.post h.post)

theorem MemoryOk.sendBoth {pk e n frame gen v} (h : MemoryOk s) : MemoryOk (s.sendBoth pk e n frame gen v) := h.sendTo.sendTo

theorem MemoryOk.edWrite {pk e off l} (h : MemoryOk s) : MemoryOk (s.edWrite pk e off l) := by
  induction l generalizing s off with
  | nil => exact h
  | cons b t ih => exact ih ⟨h.1, Memory.wf_write h.2 _ _⟩

theorem MemoryOk.draw {pk mk f t} (h : MemoryOk s) (e : s.draw pk mk = some (f, t)) : MemoryOk t := by
  unfold State.draw at e
  split at e
  · cases e
  · cases e
    exact h

theorem MemoryOk.grantNext {k l} (h : MemoryOk s) : MemoryOk (s.grantNext k l) := by
  induction l with
  | nil => exact h
  | cons r rest ih =>
    unfold State.grantNext
    split
    · exact h
    · exact h
    · exact ih

theorem MemoryOk.dropLocks {pk f gen} (h : MemoryOk s) : MemoryOk (s.dropLocks pk f gen) :=
  .foldl h fun _ _ h => .ite h.grantNext h

theorem MemoryOk.endFrame {pk f} (h : MemoryOk s) : MemoryOk (s.endFrame pk f) := h.setPlane

theorem MemoryOk.park {pk f r port} (h : MemoryOk s) : MemoryOk (s.park pk f r port) := by
  unfold State.park
  split <;> exact h

theorem MemoryOk.staleDrop {pk} (h : MemoryOk s) : MemoryOk (s.staleDrop pk) := h.setCsr

theorem MemoryOk.collide {pk w} (h : MemoryOk s) : MemoryOk (s.collide pk w) := h.park

theorem MemoryOk.intoSlot {pk w} (h : MemoryOk s) : MemoryOk (s.intoSlot pk w) := .ite h.collide h.setPlane

theorem MemoryOk.moveTokens {pk e} (h : MemoryOk s) : MemoryOk (s.moveTokens pk e) := .foldl h.setPlane fun _ _ h => h.intoSlot

theorem MemoryOk.rebind {pk e} (h : MemoryOk s) : MemoryOk (s.rebind pk e) := h.setPlane.moveTokens

theorem MemoryOk.rebindAll {pk} (h : MemoryOk s) : MemoryOk (s.rebindAll pk) := .foldl h fun _ _ h => h.rebind

theorem MemoryOk.dropHits {pk f gen} (h : MemoryOk s) : MemoryOk (s.dropHits pk f gen) := .foldl h fun _ _ h => h.staleDrop

theorem MemoryOk.killFrame {pk f} (h : MemoryOk s) : MemoryOk (s.killFrame pk f) := by
  unfold State.killFrame
  dsimp only
  split
  · exact h
  · exact .rebindAll (.setPlane (.endFrame (.dropLocks (h.dropHits.update rfl rfl))))

theorem MemoryOk.parkNow {q} (h : MemoryOk s) : MemoryOk (s.parkNow q) := by
  unfold State.parkNow
  extract_lets pk f r
  split
  · exact h
  · split
    · exact h
    · split
      · extract_lets s1 a
        have h1 : MemoryOk s1 := h
        split
        · exact .ite h1 h1.poke_getD
        · exact h1
      · extract_lets info
        split
        · exact h.killFrame.backingReport
        next e =>
          extract_lets s2
          have h2 : MemoryOk s2 := (h.poke.of_eq e).setPlane.rebindAll.recordRelease
          split
          next e => exact (h2.deliver.of_eq e).update rfl rfl
          · exact h2.poke_getD.killFrame

theorem MemoryOk.applyParks (h : MemoryOk s) : MemoryOk s.applyParks := .foldl h fun _ _ h => h.parkNow

theorem MemoryOk.endPart {pk f copy} (h : MemoryOk s) : MemoryOk (s.endPart pk f copy) := by
  unfold State.endPart
  dsimp only
  split
  · exact h
  · exact .ite h h.setPlane

theorem MemoryOk.markLost {pk f} (h : MemoryOk s) : MemoryOk (s.markLost pk f) := by
  unfold State.markLost
  dsimp only
  split
  · exact h
  · exact .ite h.setPlane (.ite h.setPlane h.setPlane.poke_getD)

theorem MemoryOk.countDiscards {pk} (h : MemoryOk s) : MemoryOk (s.countDiscards pk) := .foldl h fun _ _ h => .ite h.poke_getD h

theorem MemoryOk.freeze {pk} (h : MemoryOk s) : MemoryOk (s.freeze pk) := .foldl h.setPlane fun _ _ h => h.park

theorem MemoryOk.exhaust {pk} (h : MemoryOk s) : MemoryOk (s.exhaust pk) := .ite h h.freeze

theorem MemoryOk.discard {pk f} (h : MemoryOk s) : MemoryOk (s.discard pk f) :=
  .ite h.setPlane.markLost.countDiscards h.setPlane.markLost.freeze

theorem MemoryOk.spillCheck {pk} (h : MemoryOk s) : MemoryOk (s.spillCheck pk) := .ite h.exhaust h

theorem MemoryOk.overflow {pk w} (h : MemoryOk s) : MemoryOk (s.overflow pk w) := by
  unfold State.overflow
  dsimp only
  split
  · exact h.setPlane
  · split
    · exact h.setPlane
    · exact .ite h.setPlane.setPlane h.setPlane.setPlane.discard

theorem MemoryOk.land {pk e t v} (h : MemoryOk s) : MemoryOk (s.land pk e t v) := by
  unfold State.land
  dsimp only
  split
  · exact .staleDrop h
  · exact .ite (.staleDrop h) (.ite (.ite (.setPlane h) (.discard h))
      (.ite (.setPlane h) (.ite (.intoSlot h) (.ite (.intoSlot (.setPlane h)) (.overflow h)))))

/-! Sticky flags. -/

theorem MemoryOk.onFlags {pk f} (h : MemoryOk s) : MemoryOk (s.onFlags pk f) := by
  unfold State.onFlags
  dsimp only
  split
  · exact h.setPlane
  · split
    · exact h
    · exact .ite h (.pokeSys h)

theorem MemoryOk.flag {pk frame gen fl} (h : MemoryOk s) : MemoryOk (s.flag pk frame gen fl) := .ite h h.onFlags

theorem MemoryOk.planeFlag {pk fl} (h : MemoryOk s) : MemoryOk (s.planeFlag pk fl) := .ite h h.onFlags

/-! Ordered accesses. -/

theorem MemoryOk.setAgent {i f g} (h : MemoryOk s) : MemoryOk (s.setAgent i f g) := by
  unfold State.setAgent
  dsimp only
  split
  · split
    · exact .ite h.setPlane h
    · exact h
  · exact h.setUnit
  · exact h

theorem MemoryOk.acquireTop {i} (h : MemoryOk s) : MemoryOk (s.acquireTop i) := h.setAgent

theorem MemoryOk.releaseGen {i} (h : MemoryOk s) : MemoryOk (s.releaseGen i) := h.setAgent

theorem MemoryOk.ordered {i pa n watch k wrote} (h : MemoryOk s) : MemoryOk (s.ordered i pa n watch k wrote) := by
  unfold State.ordered
  extract_lets e covered s1 me gen hz base0 base s2
  clear_value e
  have h1 : MemoryOk s1 := by
    unfold s1
    split
    · exact h
    · split
      · split
        · exact h.setAgent
        · exact h
      · exact h.acquireTop
  have h2 : MemoryOk s2 := .ite h1 h1
  exact .ite h2.releaseGen h2

theorem MemoryOk.access {tlb i va n k upd} (h : MemoryOk s) : MemoryOk (s.access tlb i va n k upd).1 := by
  unfold State.access
  dsimp only
  split
  next e => exact h.translate.of_eq e
  next e =>
    have h1 := h.translate.of_eq e
    split
    · exact h1
    · split
      · split
        · exact h1.ordered
        · split
          next e => exact h1.physWrite.of_eq e
          next e => exact (h1.physWrite.of_eq e).ordered
      · split
        next e => exact h1.physRead.of_eq e
        next e =>
          have h4 := h1.physRead.of_eq e
          split
          · exact h4.ordered
          · split
            next e => exact h4.physWrite.of_eq e
            next e => exact (h4.physWrite.of_eq e).ordered

theorem MemoryOk.loadN {tlb i va n} (h : MemoryOk s) : MemoryOk (s.loadN tlb i va n).1 := h.access

theorem MemoryOk.storeN {tlb i va n v} (h : MemoryOk s) : MemoryOk (s.storeN tlb i va n v).1 := h.access

theorem MemoryOk.farResponse (h : MemoryOk s) : MemoryOk s.farResponse.2 := by
  unfold State.farResponse
  split <;> exact h

theorem MemoryOk.recAccess {tlb i va n k upd} (h : MemoryOk s) : MemoryOk (s.recAccess tlb i va n k upd).1 := by
  unfold State.recAccess
  split
  · exact h.access
  · split
    next e => exact (h.farResponse.of_eq_snd e).access
    next e => exact h.farResponse.of_eq_snd e
    next e =>
      have h2 := h.farResponse.of_eq_snd e
      split
      next e => exact h2.access.of_eq e
      · exact h2.access

/-! Results and jumps of sequencers. -/

theorem MemoryOk.put {d v} (h : MemoryOk s) : OutOk (s.put d v) := h.setG.adv

theorem MemoryOk.putX {d v} (h : MemoryOk s) : OutOk (s.putX d v) := h.setG.advX

theorem MemoryOk.putP {p v} (h : MemoryOk s) : OutOk (s.putP p v) := h.setP.adv

theorem MemoryOk.jumpTo {i v} (h : MemoryOk s) : OutOk (s.jumpTo i v) := .ite h.trap (.ite h.trap h.setPc)

/-! Firing and the compute nodes. -/

theorem MemoryOk.markFired {pk e} (h : MemoryOk s) : MemoryOk (s.markFired pk e) := h

theorem MemoryOk.takeOperands {a} (h : MemoryOk s) : MemoryOk (s.takeOperands a) := h.setPlane.markFired

theorem MemoryOk.applyFired {a o} (h : MemoryOk s) : MemoryOk (s.applyFired a o) := h.flag.setPlane

theorem MemoryOk.fire {n compute} (h : MemoryOk s) : OutOk (s.fire n compute) := by
  unfold State.fire
  dsimp only
  split
  · exact h
  · split
    · exact h.takeOperands.sendBoth
    · exact h.takeOperands.applyFired.sendBoth

/-! Dataflow control nodes. -/

theorem MemoryOk.out {a v} (h : MemoryOk s) : MemoryOk (s.out a v) := h.sendBoth

theorem MemoryOk.whenReady {n f} (h : MemoryOk s) (hf : ∀ a, MemoryOk (f a)) : OutOk (s.whenReady n f) := by
  unfold State.whenReady
  split
  · exact h
  · exact hf _

theorem MemoryOk.fireFault {a r} (h : MemoryOk s) : MemoryOk (s.fireFault a r) := h.markFired.park

theorem MemoryOk.execNSteer {n} (h : MemoryOk s) : OutOk (execNSteer n s) :=
  h.whenReady (fun _ => .ite (.ite h.takeOperands h.takeOperands.sendTo) (.sendTo (.ite h.takeOperands h.takeOperands.sendTo)))

theorem MemoryOk.execNGate {n} (h : MemoryOk s) : OutOk (execNGate n s) :=
  h.whenReady (fun _ => .ite h.takeOperands h.takeOperands.out)

theorem MemoryOk.execNMerge {n} (h : MemoryOk s) : OutOk (execNMerge n s) := by
  unfold Machine.execNMerge
  dsimp only
  split
  · split
    · exact h.setPlane.markFired.sendBoth
    · exact h
  · exact h

theorem MemoryOk.execNEntry {n} (h : MemoryOk s) : OutOk (execNEntry n s) := by
  unfold Machine.execNEntry
  dsimp only
  split
  · exact .ite h h.setPlane.markFired.sendBoth
  · exact h

theorem MemoryOk.sendReturn {a v} (h : MemoryOk s) : MemoryOk (s.sendReturn a v) := by
  unfold State.sendReturn
  dsimp only
  split
  · exact h
  · split
    · exact .post (.ite h.setPlane h)
    · exact h.post

theorem MemoryOk.partEnd {a} (h : MemoryOk s) : MemoryOk (s.partEnd a) := h.endPart

theorem MemoryOk.execNExit {n} (h : MemoryOk s) : OutOk (execNExit n s) :=
  h.whenReady (fun _ => h.takeOperands.sendReturn.partEnd)

theorem MemoryOk.inherit {a f g} (h : MemoryOk s) : MemoryOk (s.inherit a f g) := by
  unfold State.inherit
  dsimp only
  split
  · exact .ite h.setPlane h
  · exact h

theorem MemoryOk.execNLoop {n} (h : MemoryOk s) : OutOk (execNLoop n s) := by
  unfold Machine.execNLoop
  refine h.whenReady fun _ => ?_
  dsimp only
  split
  · exact h.takeOperands.inherit.sendBoth.partEnd
  · split
    · exact h
    next e => exact (h.draw e).setPlane.setPlane.markFired.sendBoth.partEnd

theorem MemoryOk.execNSpawn {n} (h : MemoryOk s) : OutOk (execNSpawn n s) := by
  unfold Machine.execNSpawn
  refine h.whenReady fun _ => ?_
  dsimp only
  split
  · exact h.fireFault
  · split
    · exact h
    · split
      · exact h
      · split
        · exact h
        next e =>
          have h5 := h.draw e
          exact .ite h5.setPlane.markFired.post.post h5.setPlane.markFired.post

theorem MemoryOk.execNReturn {n} (h : MemoryOk s) : OutOk (execNReturn n s) :=
  h.whenReady (fun _ => h.takeOperands.sendReturn.partEnd)

theorem MemoryOk.execNTsend {n} (h : MemoryOk s) : OutOk (execNTsend n s) :=
  h.whenReady (fun _ => .out (.ite h.takeOperands h.takeOperands.setPlane))

theorem MemoryOk.execNBar {n} (h : MemoryOk s) : OutOk (execNBar n s) := h.whenReady (fun _ => h.takeOperands.releaseGen.setPlane)

theorem MemoryOk.execNFlags {n} (h : MemoryOk s) : OutOk (execNFlags n s) :=
  h.whenReady (fun _ => .out (.ite h.takeOperands.setPlane h.takeOperands))

theorem MemoryOk.execNTrapn {n} (h : MemoryOk s) : OutOk (execNTrapn n s) :=
  h.whenReady (fun _ => .ite h.takeOperands.setPlane.park h.takeOperands.out)

theorem MemoryOk.sendKept {pk f k} (h : MemoryOk s) : MemoryOk (s.sendKept pk f k) := by
  unfold State.sendKept
  dsimp only
  split
  · exact h
  · exact h.sendBoth

/-! Plane nodes and the quantise path. -/

theorem MemoryOk.execNPshift {n} (h : MemoryOk s) : OutOk (execNPshift n s) := by
  unfold Machine.execNPshift
  dsimp only
  split
  · exact h.setPlane.markFired
  · exact h

theorem MemoryOk.execNPzrot {n} (h : MemoryOk s) : OutOk (execNPzrot n s) := h.whenReady (fun _ => h.takeOperands.setPlane.out)

theorem MemoryOk.execNPst {n} (h : MemoryOk s) : OutOk (execNPst n s) := h.whenReady (fun _ => h.takeOperands.setPlane.out)

theorem MemoryOk.execNPquiet {n} (h : MemoryOk s) : OutOk (execNPquiet n s) := h.whenReady (fun _ => h.takeOperands.setPlane.out)

theorem MemoryOk.execNRule {n} (h : MemoryOk s) : OutOk (execNRule n s) := h.whenReady (fun _ => h.takeOperands.flag.setPlane.out)

theorem MemoryOk.advanceQ {a cur} (h : MemoryOk s) : MemoryOk (s.advanceQ a cur) := h.setPlane

theorem MemoryOk.execNBmax {n} (h : MemoryOk s) : OutOk (execNBmax n s) :=
  h.whenReady (fun _ => .ite h (.ite h.takeOperands.advanceQ.flag.out h.takeOperands.advanceQ.flag))

theorem MemoryOk.execNDelay {n} (h : MemoryOk s) : OutOk (execNDelay n s) :=
  h.whenReady (fun _ => .ite h h.takeOperands.advanceQ.out)

theorem MemoryOk.execNBfly {n} (h : MemoryOk s) : OutOk (execNBfly n s) := by
  unfold Machine.execNBfly
  refine h.whenReady fun _ => ?_
  dsimp only
  split
  · exact h
  · split
    · exact h.takeOperands.advanceQ.flag.out
    · split
      · exact h.takeOperands.advanceQ.out
      · split
        · exact h
        · split
          · exact h
          · exact h.takeOperands.advanceQ.setPlane.flag.out

theorem MemoryOk.whenBlock {n f} (h : MemoryOk s) (hf : ∀ a tid d rf r, MemoryOk (f a tid d rf r)) : OutOk (s.whenBlock n f) := by
  unfold State.whenBlock
  dsimp only
  split
  · split
    · exact h
    · split
      · exact h
      · exact .ite (hf _ _ _ _ _) h.fireFault
  · exact h

theorem MemoryOk.takeBlock {a d rf cur} (h : MemoryOk s) : MemoryOk (s.takeBlock a d rf cur) := h.setPlane.markFired.advanceQ

theorem MemoryOk.noteRnd {a r} (h : MemoryOk s) : MemoryOk (s.noteRnd a r) := .ite h.flag h.flag.setPlane

theorem MemoryOk.execNQnt {n} (h : MemoryOk s) : OutOk (execNQnt n s) :=
  h.whenBlock (fun _ _ _ _ _ => .ite h.takeBlock.noteRnd.sendTo.sendTo h.takeBlock.noteRnd.sendTo)

theorem MemoryOk.execNDqnt {n} (h : MemoryOk s) : OutOk (execNDqnt n s) := h.whenBlock (fun _ _ _ _ _ => h.takeBlock.noteRnd.out)

/-! Scheduling and binding. -/

theorem MemoryOk.unqueue {k q} (h : MemoryOk s) : MemoryOk (s.unqueue k q) := h

theorem MemoryOk.popRecord {u k q lvl} (h : MemoryOk s) : MemoryOk (s.popRecord u k q lvl) := h.unqueue.startRecord

theorem MemoryOk.trimCycles (h : MemoryOk s) : MemoryOk s.trimCycles := h

theorem MemoryOk.nextRecord {u t x} (h : MemoryOk s) (e : s.nextRecord u = some (t, x)) : MemoryOk t := by
  unfold State.nextRecord at e
  dsimp only at e
  split at e
  · cases e
  · split at e
    · cases e
    · split at e
      · cases e
      · cases e
        exact h

theorem MemoryOk.chooseVictims {lvl vs} (h : MemoryOk s) : MemoryOk (s.chooseVictims lvl vs) :=
  .foldl h fun _ _ h => .ite h.setPlane h

theorem MemoryOk.bindTo {ctx cbix vp pk p} (h : MemoryOk s) : MemoryOk (s.bindTo ctx cbix vp pk p) := h

theorem MemoryOk.tryBind {ctx cbix vp lvl g} (h : MemoryOk s) : MemoryOk (s.tryBind ctx cbix vp lvl g) := by
  unfold State.tryBind
  split
  · exact h
  · split
    · exact h.bindTo
    · split
      · exact h
      · split
        · exact h
        · exact h.chooseVictims

/-! Memory access of sequencers. -/

theorem MemoryOk.trapErr {i e addr} (h : MemoryOk s) : MemoryOk (s.trapErr i e addr) := h.trap

theorem MemoryOk.trapC {i cause} (h : MemoryOk s) : OutOk (s.trapC i cause) := h.trapErr

theorem MemoryOk.seqAccess {va n k upd} (h : MemoryOk s) : MemoryOk (s.seqAccess va n k upd).1 := by
  unfold State.seqAccess
  split
  · exact h
  · exact h.recAccess

theorem MemoryOk.seqLoad {i d va n k ext} (h : MemoryOk s) : OutOk (s.seqLoad i d va n k ext) := by
  unfold State.seqLoad
  split
  next e => exact (h.seqAccess.of_eq e).trapErr
  next e => exact (h.seqAccess.of_eq e).setG.adv

theorem MemoryOk.seqStore {i va n k v} (h : MemoryOk s) : OutOk (s.seqStore i va n k v) := by
  unfold State.seqStore
  split
  next e => exact (h.seqAccess.of_eq e).trapErr
  next e => exact (h.seqAccess.of_eq e).adv

theorem MemoryOk.execSAmo {d a b o z c} (h : MemoryOk s) : OutOk (execSAmo d a b o z c s) := by
  unfold Machine.execSAmo
  extract_lets n w va i
  split
  · exact h.trapErr
  · split
    next e => exact (h.seqAccess.of_eq e).trapErr
    next e => exact (h.seqAccess.of_eq e).setG.adv

theorem MemoryOk.seqRead {va n align} (h : MemoryOk s) : MemoryOk (s.seqRead va n align).1 := by
  unfold State.seqRead
  split
  · exact h
  · exact h.recAccess

theorem MemoryOk.privileged {i f} (h : MemoryOk s) (hf : OutOk f) : OutOk (s.privileged i f) := .ite hf h.trapAt

theorem MemoryOk.stall (h : MemoryOk s) : OutOk s.stall := h

/-! Continuations, records and ARM. -/

theorem MemoryOk.validate {va} (h : MemoryOk s) : MemoryOk (s.validate va).1 := by
  unfold State.validate
  dsimp only
  split
  next e => exact h.seqRead.of_eq e
  next e =>
    have h1 := h.seqRead.of_eq e
    split
    · exact h1
    · split
      · exact h1
      next e => exact h1.makeLive.of_eq e

theorem MemoryOk.stampRecord {ctx va pri queued} (h : MemoryOk s) : MemoryOk (s.stampRecord ctx va pri queued) :=
  .ite h.poke_getD.poke_getD h.poke_getD

theorem MemoryOk.handOver {va} (h : MemoryOk s) : MemoryOk (s.handOver va).1 := by
  unfold State.handOver
  dsimp only
  split
  next e => exact h.validate.of_eq e
  next e =>
    have h1 := h.validate.of_eq e
    split
    · exact .stampRecord h1
    · split
      · exact h
      · split
        · exact h
        · split
          · exact h
          · exact h1.enqueue.stampRecord

theorem MemoryOk.execSEnq {a} (h : MemoryOk s) : OutOk (execSEnq a s) := by
  unfold Machine.execSEnq
  dsimp only
  split
  next e => exact (h.handOver.of_eq e).trapErr
  next e => exact (h.handOver.of_eq e).adv

theorem MemoryOk.execSCont {a} (h : MemoryOk s) : OutOk (execSCont a s) := by
  unfold Machine.execSCont
  dsimp only
  split
  next e => exact (h.handOver.of_eq e).trapErr
  next e =>
    have h1 := h.handOver.of_eq e
    split
    · exact h1.endRecord
    · split
      · exact h1.endRecord
      · exact .ite h1.endRecord.popRecord h1.endRecord

theorem MemoryOk.execSJoin {a b} (h : MemoryOk s) : OutOk (execSJoin a b s) := by
  unfold Machine.execSJoin
  dsimp only
  split
  next e => exact (h.validate.of_eq e).trapErr
  next e =>
    have h1 := h.validate.of_eq e
    split
    · exact h.trapErr
    · split
      · exact h.trapErr
      · split
        · exact h.trapErr
        next e => exact (h1.recAccess.of_eq e).adv

theorem MemoryOk.execSIdle (h : MemoryOk s) : OutOk (execSIdle s) := h.privileged (.ite h.trapAt (.ite h.adv.setMe h.adv))

theorem MemoryOk.arm {va k now} (h : MemoryOk s) : MemoryOk (s.arm va k now).1 := by
  unfold State.arm
  dsimp only
  split
  · exact h
  · split <;> exact h

theorem MemoryOk.armRecord {i va find} (h : MemoryOk s) (hf : ∀ s, MemoryOk s → ∀ r, MemoryOk (find s r).1) :
    OutOk (s.armRecord i va find) := by
  unfold State.armRecord
  split
  next e => exact (h.validate.of_eq e).trapErr
  next e =>
    have h1 := h.validate.of_eq e
    split
    · exact h.trapErr
    next e =>
      have h2 := MemoryOk.of_eq e (hf _ h1 _)
      split
      · exact h.trapErr
      next e => exact (h2.arm.of_eq e).stampRecord.adv

theorem MemoryOk.myPlane {k t pk} (h : MemoryOk s) (e : s.myPlane k = .ok (some (t, pk))) : MemoryOk t := by
  unfold State.myPlane at e
  dsimp only at e
  split at e
  · cases e
  · split at e
    · cases e
      exact h
    · split at e
      · cases e
        exact h.tryBind
      · cases e

theorem MemoryOk.execSArmIter {a k} (h : MemoryOk s) : OutOk (execSArmIter a k s) := by
  unfold Machine.execSArmIter
  refine h.armRecord fun _ h' _ => ?_
  split
  · exact h'
  · exact h'
  next e =>
    have h2 := h'.myPlane e
    split <;> exact h2

theorem MemoryOk.armDesc {va} (h : MemoryOk s) : MemoryOk (s.armDesc va).1 := by
  unfold State.armDesc
  split
  next e => exact h.seqRead.of_eq e
  next e =>
    have h1 := h.seqRead.of_eq e
    split <;> exact h1.seqRead.of_eq ‹_›

theorem MemoryOk.execSArmTl {a b} (h : MemoryOk s) : OutOk (execSArmTl a b s) := by
  unfold Machine.execSArmTl
  refine h.armRecord fun _ h' _ => ?_
  dsimp only
  split
  next e => exact h'.armDesc.of_eq e
  next e =>
    have h2 := h'.armDesc.of_eq e
    split
    · exact h2
    · split <;> exact h2

theorem MemoryOk.execSArmWatch {a b} (h : MemoryOk s) : OutOk (execSArmWatch a b s) := by
  unfold Machine.execSArmWatch
  refine h.armRecord fun _ h' _ => ?_
  dsimp only
  split
  next e => exact h'.armDesc.of_eq e
  next e =>
    have h2 := h'.armDesc.of_eq e
    split
    · exact h2
    · split
      next e => exact h2.translate.of_eq e
      next e =>
        have h4 := h2.translate.of_eq e
        split <;> exact h4.physRead.of_eq ‹_›

/-! Region instructions. -/

theorem MemoryOk.onPlane {i k ok f} (h : MemoryOk s) (hf : ∀ s, MemoryOk s → ∀ pk p, MemoryOk (f s pk p)) :
    OutOk (s.onPlane i k ok f) := by
  unfold State.onPlane
  dsimp only
  split
  · exact h.trapC
  · exact h.stall
  next e => exact .ite (MemoryOk.adv (hf _ (h.myPlane e) _ _)) h.trapC

theorem MemoryOk.execSIter {k a b c} (h : MemoryOk s) : OutOk (execSIter k a b c s) := by
  unfold Machine.execSIter
  exact h.onPlane fun _ h _ _ => h.setPlane

theorem MemoryOk.execSTokin {k a n p} (h : MemoryOk s) : OutOk (execSTokin k a n p s) := by
  unfold Machine.execSTokin
  exact h.onPlane fun _ h _ _ => h.setPlane

theorem MemoryOk.execSSplice {k pr} (h : MemoryOk s) : OutOk (execSSplice k pr s) := by
  unfold Machine.execSSplice
  dsimp only
  split
  · exact h.trapC
  · exact h.trapC
  next s1 pk _ qk e _ => exact .ite h.trapC (h.myPlane e).setPlane.setPlane.adv
  · exact h.stall

theorem MemoryOk.execSTokget {d a k} (h : MemoryOk s) : OutOk (execSTokget d a k s) := by
  unfold Machine.execSTokget
  dsimp only
  split
  · exact h.trapC
  · exact h.stall
  next e =>
    have h1 := h.myPlane e
    split
    · exact h.trapC
    · split
      · exact h.trapErr
      · split
        · exact h1.setG.adv
        · split
          next e => exact (h1.recAccess.of_eq e).trapErr
          next e => exact (h1.recAccess.of_eq e).setPlane.setG.adv

/-! Memory, engine, conversation and render nodes. -/

theorem MemoryOk.request {a opc stage done} (h : MemoryOk s) : MemoryOk (s.request a opc stage done) := h.newId.update rfl rfl

theorem MemoryOk.fireRequest {n opc} (h : MemoryOk s) : OutOk (s.fireRequest n opc) :=
  h.whenReady (fun _ => h.takeOperands.request)

theorem MemoryOk.markSeq {pk f copy q} (h : MemoryOk s) : MemoryOk (s.markSeq pk f copy q) := .ite h h.setPlane

theorem MemoryOk.fireStore {n opc} (h : MemoryOk s) : OutOk (s.fireStore n opc) :=
  h.whenReady (fun _ => h.takeOperands.request.out)

theorem MemoryOk.execNLdl {n} (h : MemoryOk s) : OutOk (execNLdl n s) := by
  unfold Machine.execNLdl
  refine h.whenReady fun _ => ?_
  dsimp only
  split
  · exact h.fireFault
  · exact h.takeOperands.out

theorem MemoryOk.execNStl {n} (h : MemoryOk s) : OutOk (execNStl n s) := by
  unfold Machine.execNStl
  refine h.whenReady fun _ => ?_
  dsimp only
  split
  · exact h.fireFault
  · exact .out (.foldl h.takeOperands fun _ _ h => h.edWrite)

theorem MemoryOk.execNPref {n} (h : MemoryOk s) : OutOk (execNPref n s) := h.whenReady (fun _ => h.takeOperands.request.out)

theorem MemoryOk.execNOrdt {n} (h : MemoryOk s) : OutOk (execNOrdt n s) := h.whenReady (fun _ => h.takeOperands.markSeq.out)

theorem MemoryOk.contribute {a fmt op ord sp req l} (h : MemoryOk s) : MemoryOk (s.contribute a fmt op ord sp req l) :=
  .foldl h fun _ _ h => h.newId.update rfl rfl

theorem MemoryOk.execNRed {n} (h : MemoryOk s) : OutOk (execNRed n s) := h.whenReady (fun _ => h.takeOperands.request.contribute)

theorem MemoryOk.engFault {a cause x} (h : MemoryOk s) : MemoryOk (s.engFault a cause x) := h.fireFault

theorem MemoryOk.timelinePair {i k n} (h : MemoryOk s) : MemoryOk (s.timelinePair i k n) := h.setAgent

theorem MemoryOk.execNTlw {n} (h : MemoryOk s) : OutOk (execNTlw n s) := by
  unfold Machine.execNTlw
  refine h.whenReady fun _ => ?_
  dsimp only
  split
  · exact h.engFault
  · exact .ite h.engFault (.ite h.takeOperands.timelinePair.out h.takeOperands.request)

theorem MemoryOk.execNTlr {n} (h : MemoryOk s) : OutOk (execNTlr n s) := by
  unfold Machine.execNTlr
  refine h.whenReady fun _ => ?_
  dsimp only
  split
  · exact h.engFault
  · exact h.takeOperands.out

theorem MemoryOk.queueCmd {kind x block iss body l} (h : MemoryOk s) : MemoryOk (s.queueCmd kind x block iss body l) :=
  h.newId.update rfl rfl

theorem MemoryOk.fireCmd {n kind check} (h : MemoryOk s) : OutOk (s.fireCmd n kind check) := by
  unfold State.fireCmd
  refine h.whenReady fun _ => ?_
  dsimp only
  split
  · exact h.engFault
  · exact h.takeOperands.queueCmd

theorem MemoryOk.execNMxst {n} (h : MemoryOk s) : OutOk (execNMxst n s) := by
  unfold Machine.execNMxst
  refine h.whenReady fun a => ?_
  dsimp only
  split
  · exact h.engFault
  · split
    · exact h
    · exact (h.takeOperands (a := a.port11)).update rfl rfl

theorem MemoryOk.queueSend {x} (h : MemoryOk s) : MemoryOk (s.queueSend x).2 := h.newId.update rfl rfl

theorem MemoryOk.fireSend {n choose deleg} (h : MemoryOk s) : OutOk (s.fireSend n choose deleg) :=
  h.whenReady (fun _ => h.takeOperands.queueSend)

theorem MemoryOk.execNCvrecv {n} (h : MemoryOk s) : OutOk (execNCvrecv n s) := by
  unfold Machine.execNCvrecv
  refine h.whenReady fun _ => ?_
  dsimp only
  split
  · exact h.fireFault
  · split
    · exact h
    · exact .ite h h.takeOperands.setPlane.acquireTop.out

theorem MemoryOk.execNRayinj {n} (h : MemoryOk s) : OutOk (execNRayinj n s) :=
  h.whenReady fun a => .ite h.fireFault (.ite h (.ite h.fireFault ((h.takeOperands (a := a.port11)).update rfl rfl)))

theorem MemoryOk.execNRayrcv {n} (h : MemoryOk s) : OutOk (execNRayrcv n s) := by
  unfold Machine.execNRayrcv
  refine h.whenReady fun _ => ?_
  dsimp only
  split
  · exact h
  · split
    · exact h
    · split
      · exact .out h
      · exact .park (.setPlane h)

theorem MemoryOk.fireSampler {n opc} (h : MemoryOk s) : OutOk (s.fireSampler n opc) :=
  h.whenReady (fun _ => .ite h.takeOperands.request h.fireFault)

theorem MemoryOk.execNHgs {n} (h : MemoryOk s) : OutOk (execNHgs n s) := by
  unfold Machine.execNHgs
  refine h.whenReady fun _ => ?_
  dsimp only
  split
  · exact h.fireFault
  · exact .contribute (.request (h.takeOperands.flag.update rfl rfl))

theorem MemoryOk.execNDrawend {n} (h : MemoryOk s) : OutOk (execNDrawend n s) :=
  h.whenReady (fun _ => h.takeOperands.sendReturn.partEnd)

/-! The conversation engine. -/

theorem MemoryOk.setConv {key c} (h : MemoryOk s) : MemoryOk (s.setConv key c) := h

theorem MemoryOk.clearRoles {l} (h : MemoryOk s) : MemoryOk (s.clearRoles l) := h

theorem MemoryOk.bindRole {key c role e} (h : MemoryOk s) : MemoryOk (s.bindRole key c role e) := by
  unfold State.bindRole
  dsimp only
  split
  · exact h.setConv
  · split
    · exact h
    · exact h.setConv

theorem MemoryOk.readCons {e die scope} (h : MemoryOk s) : MemoryOk (s.readCons e die scope).1 := h.access

theorem MemoryOk.writeRun {i va l} (h : MemoryOk s) : MemoryOk (s.writeRun i va l).1 := by
  refine MemoryOk.foldl_fst h fun x _ h => ?_
  dsimp only
  split
  · exact h
  · split <;> exact h.storeN.of_eq ‹_›

theorem MemoryOk.ownerReport {c cause addr info aux} (h : MemoryOk s) : MemoryOk (s.ownerReport c cause addr info aux) := h.report

theorem MemoryOk.countDelivery {key ep role gen e} (h : MemoryOk s) : MemoryOk (s.countDelivery key ep role gen e).1 := by
  unfold State.countDelivery
  split <;> exact h

theorem MemoryOk.deliverMsg {id} (h : MemoryOk s) : MemoryOk (s.deliverMsg id) := by
  unfold State.deliverMsg
  split
  · exact h
  extract_lets c die
  split
  · exact h
  extract_lets first fail hand slot v e1
  have hfail : ∀ s er ad, MemoryOk s → MemoryOk (fail s er ad) := fun s er ad h =>
    .ite h.setConv h.setConv.ownerReport
  have hhand : ∀ s v, MemoryOk s → MemoryOk (hand s v) := by
    intro s v h
    unfold hand
    split
    · exact h
    · exact h.setPlane
  split
  · exact h
  split
  · exact hhand _ _ h
  split
  next e => exact hfail _ _ _ (h.readCons.of_eq e)
  next e =>
    have h1 := h.readCons.of_eq e
    split
    · exact h1.setConv
    split
    next e => exact hfail _ _ _ (h1.writeRun.of_eq e)
    next e =>
      have h2 := h1.writeRun.of_eq e
      extract_lets s3
      split
      next s4 e2 e =>
        have h4 : MemoryOk s4 := by
          split at e
          · exact .of_eq e (.countDelivery h2)
          · cases e
            exact h2
        exact .ite h4.setConv (hhand _ _ h4.setConv)

theorem MemoryOk.applySend {x k c t} (h : MemoryOk s) : MemoryOk (s.applySend x k c t) :=
  .foldl h.setConv fun _ _ h => .deliverMsg (h.newId.update rfl rfl)

theorem MemoryOk.refuseSend {q x e addr} (h : MemoryOk s) : MemoryOk (s.refuseSend q x e addr) := by
  unfold State.refuseSend
  dsimp only
  split
  · exact .ite h (.park h)
  · exact .congr rfl rfl (.trap (.setMe h))
  · exact h

theorem MemoryOk.acceptSend {q x v} (h : MemoryOk s) : MemoryOk (s.acceptSend q x v) := by
  unfold State.acceptSend
  dsimp only
  split
  · exact .sendBoth (.releaseGen h)
  · exact .setUnit (.releaseGen h)
  · exact .releaseGen h

theorem MemoryOk.readFor {i va n} (h : MemoryOk s) : MemoryOk (s.readFor i va n).1 := by
  unfold State.readFor
  split <;> exact h.vreadAny.of_eq ‹_›

theorem MemoryOk.checkSend {q} (h : MemoryOk s) : MemoryOk (s.checkSend q) := by
  unfold State.checkSend
  split
  · exact h
  refine .ite h (.ite h.refuseSend ?_)
  extract_lets o mem
  split
  next s1 _ _ e =>
    have h1 : MemoryOk s1 := by
      split at e
      · cases e
        exact h
      · split at e
        · cases e
          exact h
        · split at e <;> cases e <;> exact h.readFor.of_eq ‹_›
    split
    · exact h1.refuseSend
    · split
      · exact h1.refuseSend
      · exact h1.applySend.acceptSend

theorem MemoryOk.oldSlots {e key role} (h : MemoryOk s) : MemoryOk (s.oldSlots e key role).1 := by
  have h1 := h.readCons (e := e) (die := key / 4096) (scope := (s.conv key).scope)
  unfold State.oldSlots
  generalize s.readCons e (key / 4096) (s.conv key).scope = x at h1 ⊢
  obtain ⟨s1, _ | cons⟩ := x
  · exact h1
  · replace h1 : MemoryOk s1 := h1
    suffices hn : ∀ n, MemoryOk (List.foldl _ (s1, []) (List.range n)).1 from hn _
    intro n
    -- The count of old slots must be a variable here: the kernel would unfold the subtraction in it.
    obtain ⟨m, hm⟩ : ∃ m, m = (e.made + 2 ^ 32 - cons) % 2 ^ 32 := ⟨_, rfl⟩
    rw [← hm]
    clear hm
    refine MemoryOk.foldl_fst h1 fun x _ h => ?_
    dsimp only
    split
    next e => exact h.readFor.of_eq e
    next e =>
      have h2 := h.readFor.of_eq e
      split <;> exact h2

theorem MemoryOk.addDelivery {d} (h : MemoryOk s) : MemoryOk (s.addDelivery d) := h.newId.update rfl rfl

theorem MemoryOk.takeCmsg {ctx key role num vec wrote} (h : MemoryOk s) : MemoryOk (s.takeCmsg ctx key role num vec wrote) := by
  unfold State.takeCmsg
  dsimp only
  split
  · exact h.addDelivery
  · split <;> exact (h.readFor.of_eq ‹_›).addDelivery

theorem MemoryOk.returnCmsg {p} (h : MemoryOk s) : MemoryOk (s.returnCmsg p) := .foldl h fun _ _ h => h.takeCmsg

theorem MemoryOk.takeBack {key role i e} (h : MemoryOk s) : MemoryOk (s.takeBack key role i e) := by
  unfold State.takeBack
  dsimp only
  split
  · exact .foldl h.oldSlots.setConv fun _ _ h => h.addDelivery
  · split
    · exact h
    · exact .foldl h.setPlane fun _ _ h => h.takeCmsg

theorem MemoryOk.readEndpoint {i va x role} (h : MemoryOk s) : MemoryOk (s.readEndpoint i va x role).1 := by
  unfold State.readEndpoint
  split
  · exact h
  · split
    next e => exact h.readFor.of_eq e
    next e =>
      have h2 := h.readFor.of_eq e
      split <;> exact h2

theorem MemoryOk.delegCause {x} (h : MemoryOk s) : MemoryOk (s.delegCause x).1 := by
  unfold State.delegCause
  dsimp only
  split
  · exact h
  · split
    next e => exact h.readEndpoint.of_eq e
    next e =>
      have h2 := h.readEndpoint.of_eq e
      split
      · exact h2
      · split
        · exact h2
        · split
          · exact h2
          · split
            · exact h2
            · split
              · exact h2
              · split <;> split <;> exact h2

theorem MemoryOk.dropOrphans {key} (h : MemoryOk s) : MemoryOk (s.dropOrphans key) :=
  .foldl h fun _ _ h => .ite (.ownerReport h) h

theorem MemoryOk.markClosing {key} (h : MemoryOk s) : MemoryOk (s.markClosing key) := h.setConv.dropOrphans

theorem MemoryOk.freeConv {key} (h : MemoryOk s) : MemoryOk (s.freeConv key) :=
  .ite h (.ite h.dropOrphans.clearRoles.setConv h.dropOrphans)

theorem MemoryOk.closeConv {q x d} (h : MemoryOk s) : MemoryOk (s.closeConv q x d) := by
  unfold State.closeConv
  dsimp only
  split
  · exact h.refuseSend
  · split
    · exact h.refuseSend
    next k c _ _ =>
      have hs : MemoryOk (if c.closing then s else (s.markClosing k).freeConv k) := .ite h h.markClosing.freeConv
      split
      · exact hs.update rfl rfl
      · exact MemoryOk.setUnit (hs.update rfl rfl)

theorem MemoryOk.checkDeleg {q} (h : MemoryOk s) : MemoryOk (s.checkDeleg q) := by
  unfold State.checkDeleg
  dsimp only
  split
  · exact h
  · split
    · exact h
    · split
      · exact h.closeConv
      · split
        next e => exact (h.delegCause.of_eq e).refuseSend
        next e =>
          have h4 := h.delegCause.of_eq e
          split
          · exact h4.bindRole.clearRoles.acceptSend
          · exact h4.takeBack.bindRole.clearRoles.acceptSend

theorem MemoryOk.execSCvopen {d a sc} (h : MemoryOk s) : OutOk (execSCvopen d a sc s) := by
  unfold Machine.execSCvopen
  dsimp only
  split
  · exact h.trapErr
  · split
    · exact h.trapErr
    · split
      · exact h.trapErr
      · split
        · exact h.trapErr
        next s1 img e =>
          have h1 : MemoryOk s1 := by
            split at e
            · cases e
              exact h
            · split at e
              · cases e
              next e1 =>
                split at e
                · cases e
                next e2 =>
                  cases e
                  exact (h.readFor.of_eq e1).readFor.of_eq e2
          exact .ite h.trapC (MemoryOk.adv (.setG (.setConv h1)))

theorem MemoryOk.execSCvbind {a b r} (h : MemoryOk s) : OutOk (execSCvbind a b r s) := by
  unfold Machine.execSCvbind
  dsimp only
  split
  · exact .ite h.trapErr h.trapErr
  · exact .ite h.trapErr h.trapErr
  · exact h.trapErr
  next e _ =>
    have h1 := h.readEndpoint.of_eq e
    exact .ite h.trapErr (.ite h.trapErr (.ite h.trapErr (.ite h.trapErr (.ite h.trapErr h1.bindRole.adv))))

theorem MemoryOk.recordSend {x role kind choose deleg payload desc close} (h : MemoryOk s) :
    OutOk (s.recordSend x role kind choose deleg payload desc close) :=
  h.queueSend.setMe

theorem MemoryOk.seqSend {i d a b r k choose} (h : MemoryOk s) : OutOk (s.seqSend i d a b r k choose) := by
  unfold State.seqSend
  dsimp only
  split
  · exact h.trapErr
  · split
    · exact h.trapErr
    · split
      · exact h.trapErr
      · split
        next e => exact (h.readFor.of_eq e).trapErr
        next e => exact (h.readFor.of_eq e).recordSend

theorem MemoryOk.execSArmConv {a b r} (h : MemoryOk s) : OutOk (execSArmConv a b r s) := by
  unfold Machine.execSArmConv
  refine h.armRecord fun _ h' _ => ?_
  dsimp only
  split
  · exact h'
  · split
    · exact h'
    · split
      · exact h'
      · split
        · exact h'
        · split
          · exact h'.setConv
          · exact h'

/-! Configuration images and CFGLD. -/

theorem MemoryOk.readRun {w va n} (h : MemoryOk s) : MemoryOk (s.readRun w va n).1 := by
  induction n generalizing s va with
  | zero => exact h
  | succ n ih =>
    unfold State.readRun
    split
    next e => exact h.recAccess.of_eq e
    next e =>
      have h1 := h.recAccess.of_eq e
      split <;> exact (ih h1).of_eq ‹_›

theorem MemoryOk.readPart {va n} (h : MemoryOk s) : MemoryOk (s.readPart va n).1 := h.readRun

theorem MemoryOk.readElems {va tw th last c n} (h : MemoryOk s) : MemoryOk (s.readElems va tw th last c n).1 := by
  induction n generalizing s va last c with
  | zero => exact h
  | succ n ih =>
    unfold State.readElems
    split
    next e => exact h.readPart.of_eq e
    next e =>
      have h1 := h.readPart.of_eq e
      dsimp only
      split
      · exact h1
      · split
        · exact h1
        · split
          next e => exact h1.readPart.of_eq e
          next e => exact ih (h1.readPart.of_eq e)

theorem MemoryOk.readImage {va w ht} (h : MemoryOk s) : MemoryOk (s.readImage va w ht).1 := by
  unfold State.readImage
  dsimp only
  split
  next e => exact h.readPart.of_eq e
  next e =>
    have h1 := h.readPart.of_eq e
    split
    · exact h1
    · split
      next e => exact h1.readElems.of_eq e
      next e =>
        have h3 := h1.readElems.of_eq e
        split
        · exact h3
        · split
          next e => exact h3.readPart.of_eq e
          next e =>
            have h5 := h3.readPart.of_eq e
            split <;> exact h5.readPart.of_eq ‹_›

theorem MemoryOk.cfgld {i k va next} (h : MemoryOk s) (hf : ∀ s, MemoryOk s → MemoryOk (next s)) :
    OutOk (s.cfgld i k va next) := by
  unfold State.cfgld
  dsimp only
  split
  · exact h.trapC
  · exact h.stall
  next e =>
    have h1 := h.myPlane e
    split
    · exact h.trapC
    · split
      · exact h.trapErr
      · split
        · exact h.trapErr
        next e =>
          have h4 := h1.readImage.of_eq e
          split
          · exact h4.setPlane.trap
          · split
            · exact h4.setPlane.trap
            · exact .ite (MemoryOk.ite h.chooseVictims h) (hf _ (.ite (h4.returnCmsg.update rfl rfl) h4.returnCmsg.setPlane))

theorem MemoryOk.execSCfgld {k a} (h : MemoryOk s) : OutOk (execSCfgld k a s) := h.cfgld fun _ h => h.adv

theorem MemoryOk.execSCfgldX {k a i} (h : MemoryOk s) : OutOk (execSCfgldX k a i s) := h.cfgld fun _ h => h.advX

/-! Tensor places. -/

theorem MemoryOk.placeByte {tlb i sp a} (h : MemoryOk s) : MemoryOk (s.placeByte tlb i sp a).1 := by
  unfold State.placeByte
  split
  · split
    · split <;> exact h.physRead.of_eq ‹_›
    · exact h
  · split <;> exact h.loadN.of_eq ‹_›

theorem MemoryOk.placeBytes {tlb i sp a n} (h : MemoryOk s) : MemoryOk (s.placeBytes tlb i sp a n).1 := by
  induction n generalizing s a with
  | zero => exact h
  | succ n ih =>
    unfold State.placeBytes
    split
    next e => exact h.placeByte.of_eq e
    next e =>
      have h1 := h.placeByte.of_eq e
      split <;> exact (ih h1).of_eq ‹_›

theorem MemoryOk.placeRead {tlb i l w} (h : MemoryOk s) : MemoryOk (s.placeRead tlb i l w).1 := by
  unfold State.placeRead
  split
  · exact h
  · split <;> exact h.placeBytes.of_eq ‹_›

theorem MemoryOk.placePut {tlb i sp a n v} (h : MemoryOk s) : MemoryOk (s.placePut tlb i sp a n v).1 := by
  unfold State.placePut
  split
  · split
    · split <;> exact h.physWrite.of_eq ‹_›
    · exact h
  · split <;> exact h.storeN.of_eq ‹_›

theorem MemoryOk.placePuts {tlb i sp a v l} (h : MemoryOk s) : MemoryOk (s.placePuts tlb i sp a v l).1 := by
  induction l generalizing s with
  | nil => exact h
  | cons x l ih =>
    unfold State.placePuts
    split
    next e => exact h.placePut.of_eq e
    next e => exact ih (h.placePut.of_eq e)

theorem MemoryOk.placeWrite {tlb i l w v} (h : MemoryOk s) : MemoryOk (s.placeWrite tlb i l w v).1 := by
  unfold State.placeWrite
  dsimp only
  split
  · exact h
  · split
    · exact h.placePuts
    · split
      next e => exact h.placeByte.of_eq e
      next e => exact (h.placeByte.of_eq e).placePut

theorem MemoryOk.execSTidset {a i} (h : MemoryOk s) : OutOk (execSTidset a i s) := by
  unfold Machine.execSTidset
  dsimp only
  split
  next e => exact (h.seqRead.of_eq e).trapErr
  next e => exact .ite (MemoryOk.adv ((h.seqRead.of_eq e).update rfl rfl)) h.trapC

theorem MemoryOk.execSTidget {a i} (h : MemoryOk s) : OutOk (execSTidget a i s) := by
  unfold Machine.execSTidget
  dsimp only
  split
  next e => exact (h.seqAccess.of_eq e).trapErr
  next e => exact (h.seqAccess.of_eq e).adv

/-! Engine commands. -/

theorem MemoryOk.acceptCmd {id} (h : MemoryOk s) : MemoryOk (s.acceptCmd id) := by
  unfold State.acceptCmd
  dsimp only
  split
  · exact h
  · exact h.newId.update rfl rfl

theorem MemoryOk.cmdSend {c v} (h : MemoryOk s) : MemoryOk (s.cmdSend c v) := by
  unfold State.cmdSend
  split
  · exact h.sendTo
  · exact h

theorem MemoryOk.readSrc {c x w} (h : MemoryOk s) : MemoryOk (s.readSrc c x w).1 := by
  unfold State.readSrc
  split
  · exact h.placeRead
  · split
    next e => exact h.placeRead.of_eq e
    next e =>
      have h2 := h.placeRead.of_eq e
      split
      · exact h2
      · split
        · exact h2.placeRead
        · split
          · exact h2.placeRead
          · exact h2

theorem MemoryOk.deliverMove {c m v} (h : MemoryOk s) : MemoryOk (s.deliverMove c m v).1 := by
  unfold State.deliverMove
  split
  · exact h
  · split <;> exact h.placeWrite.of_eq ‹_›

theorem MemoryOk.flagTern {c m v} (h : MemoryOk s) : MemoryOk (s.flagTern c m v) := by
  unfold State.flagTern
  split
  · exact .ite h.flag h
  · exact h

theorem MemoryOk.runMoves {c n} (h : MemoryOk s) : MemoryOk (s.runMoves c n).1 := by
  induction n generalizing s c with
  | zero => exact h
  | succ n ih =>
    unfold State.runMoves
    dsimp only
    split
    · exact h
    · split
      · exact h
      · split
        next e => exact h.readSrc.of_eq e
        next e =>
          have h1 := h.readSrc.of_eq e
          split
          next e => exact h1.flagTern.deliverMove.of_eq e
          next e => exact ih (h1.flagTern.deliverMove.of_eq e)

theorem MemoryOk.completeNum {k n} (h : MemoryOk s) : MemoryOk (s.completeNum k n) := h

theorem MemoryOk.endCmd {id c} (h : MemoryOk s) : MemoryOk (s.endCmd id c) := .completeNum h

theorem MemoryOk.withSaved {pk f} (h : MemoryOk s) (hf : ∀ s, MemoryOk s → MemoryOk (f s)) : MemoryOk (s.withSaved pk f) := by
  unfold State.withSaved
  dsimp only
  split
  · exact hf _ h
  · split
    · exact h
    next v _ => exact (hf { s with planes := s.planes.put pk v.plane } h).update rfl rfl

theorem MemoryOk.engineError {i park e addr aux info} (h : MemoryOk s) : MemoryOk (s.engineError i park e addr aux info) := by
  unfold State.engineError
  dsimp only
  split
  · exact .ite (.ite h.park (h.withSaved (fun _ h => h.parkNow))) h.report
  · exact h.report

theorem MemoryOk.failCmd {id c e addr} (h : MemoryOk s) : MemoryOk (s.failCmd id c e addr) := h.endCmd.engineError

theorem MemoryOk.landWord {c} (h : MemoryOk s) : MemoryOk (s.landWord c) := by
  unfold State.landWord
  dsimp only
  split
  · exact h
  · split
    next e => exact (h.physWrite.of_eq e).update rfl rfl
    next e => exact h.physWrite.of_eq e

theorem MemoryOk.followOn {c} (h : MemoryOk s) : MemoryOk (s.followOn c) := .ite h (.acceptCmd (h.newId.update rfl rfl))

theorem MemoryOk.finishCopy {id c} (h : MemoryOk s) : MemoryOk (s.finishCopy id c) := h.landWord.endCmd.followOn

theorem MemoryOk.advanceCmd {c} (h : MemoryOk s) : MemoryOk (s.advanceCmd c).1 := by
  unfold State.advanceCmd
  split
  · exact h
  · split
    next e => exact h.runMoves.of_eq e
    next e =>
      have h2 := h.runMoves.of_eq e
      split <;> exact h2

theorem MemoryOk.runCopy {id c} (h : MemoryOk s) : MemoryOk (s.runCopy id c) := by
  unfold State.runCopy
  split
  · exact h.failCmd
  · split
    next e => exact (h.advanceCmd.of_eq e).failCmd
    next e =>
      have h2 := h.advanceCmd.of_eq e
      exact .ite h2.finishCopy h2

theorem MemoryOk.runNet {id c} (h : MemoryOk s) : MemoryOk (s.runNet id c) := by
  unfold State.runNet
  dsimp only
  split
  · exact h.failCmd
  · split
    · split
      next e => exact (MemoryOk.of_eq e (.placePuts h)).failCmd
      next e => exact (MemoryOk.of_eq e (.placePuts h)).endCmd
    · split
      next e => exact (h.vreadAny.of_eq e).failCmd
      next e => exact (h.vreadAny.of_eq e).endCmd

theorem MemoryOk.execSTlread {d a} (h : MemoryOk s) : OutOk (execSTlread d a s) := by
  unfold Machine.execSTlread
  dsimp only
  split
  · exact h.setG.adv
  · exact h.trapErr

theorem MemoryOk.execSCopys {d a} (h : MemoryOk s) : OutOk (execSCopys d a s) := by
  unfold Machine.execSCopys
  dsimp only
  split
  next e => exact (h.seqRead.of_eq e).trapErr
  next e =>
    have h1 := h.seqRead.of_eq e
    split
    · exact h.trapErr
    · exact .ite h.stall h1.queueCmd.acceptCmd.setG.adv

/-! Arrays. -/

theorem MemoryOk.setArray {a x} (h : MemoryOk s) : MemoryOk (s.setArray a x) := h

theorem MemoryOk.acceptRow {id} (h : MemoryOk s) : MemoryOk (s.acceptRow id) := by
  unfold State.acceptRow
  dsimp only
  split
  · exact h
  · exact .ite h (h.newId.update rfl rfl)

theorem MemoryOk.rowSend {r seg v} (h : MemoryOk s) : MemoryOk (s.rowSend r seg v) := by
  unfold State.rowSend
  split
  · exact h.sendTo
  · exact h

theorem MemoryOk.completeRow {id} (h : MemoryOk s) : MemoryOk (s.completeRow id) := by
  unfold State.completeRow
  dsimp only
  split
  · exact h
  · split
    · exact h
    · split
      · exact .ite (.rowSend (.flag (.setArray (.completeNum h)))) (.foldl (.flag (.completeNum h)) fun _ _ h => h.rowSend)
      · exact .engineError (.completeNum h)

theorem MemoryOk.failLoad {id c e addr} (h : MemoryOk s) : MemoryOk (s.failLoad id c e addr) := h.setArray.failCmd

theorem MemoryOk.runLoad {id c} (h : MemoryOk s) : MemoryOk (s.runLoad id c) := by
  unfold State.runLoad
  dsimp only
  split
  · exact .ite h h.failLoad
  · split
    next e => exact .ite h (h.advanceCmd.of_eq e).failLoad
    next e =>
      have h2 := h.advanceCmd.of_eq e
      exact .ite h2 (.ite h2.failLoad h2.setArray.endCmd)

theorem MemoryOk.applySwap {id c} (h : MemoryOk s) : MemoryOk (s.applySwap id c) := .ite h h.setArray.endCmd

theorem MemoryOk.runAcc {id c} (h : MemoryOk s) : MemoryOk (s.runAcc id c) := by
  unfold State.runAcc
  dsimp only
  split
  · exact h
  · split
    · exact h.failCmd
    · split
      · exact h.failCmd
      · split
        · exact h.setArray.cmdSend.flag.endCmd
        · exact h.setArray.cmdSend.endCmd

theorem MemoryOk.runQuery {id c} (h : MemoryOk s) : MemoryOk (s.runQuery id c) := by
  unfold State.runQuery
  dsimp only
  split
  · exact h
  · split
    · exact h.failCmd
    · split
      · exact h.failCmd
      · split
        · exact h.cmdSend.flag.endCmd
        · exact h.cmdSend.endCmd

/-! System instructions. -/

theorem MemoryOk.invalidate {part kind ctx va} (h : MemoryOk s) : MemoryOk (s.invalidate part kind ctx va) := h

theorem MemoryOk.retryFailing {all ctx} (h : MemoryOk s) : MemoryOk (s.retryFailing all ctx) := .foldl h fun _ _ h => h.deliverMsg

theorem MemoryOk.execSTlbinv {a b} (h : MemoryOk s) : OutOk (execSTlbinv a b s) :=
  h.privileged (.ite h.trapAt (.ite h.trapAt h.invalidate.retryFailing.adv))

theorem MemoryOk.execSKeyld {a b} (h : MemoryOk s) : OutOk (execSKeyld a b s) := by
  unfold Machine.execSKeyld
  refine h.privileged ?_
  split
  · exact h.trapAt
  · split
    · exact h.trapAt
    · split
      · exact h.trapAt
      · split
        next e => exact (h.seqRead.of_eq e).trapErr
        next e => exact MemoryOk.adv ((h.seqRead.of_eq e).update rfl rfl)

theorem MemoryOk.execSSwapout {a} (h : MemoryOk s) : OutOk (execSSwapout a s) := by
  unfold Machine.execSSwapout
  refine h.privileged ?_
  split
  · exact h.trapAt
  · split
    · exact h.trapAt
    · exact .ite h.trapAt h.chooseVictims.adv

theorem MemoryOk.execSSwapin {a} (h : MemoryOk s) : OutOk (execSSwapin a s) := by
  unfold Machine.execSSwapin
  refine h.privileged ?_
  dsimp only
  split
  · exact h.trapAt
  · split
    · split
      · exact h.trapAt
      · split
        next e => exact MemoryOk.adv ((h.makeLive.of_eq e).update rfl rfl)
        · exact MemoryOk.adv h
    · exact h.trapAt

theorem MemoryOk.setParkState {ctx addr st} (h : MemoryOk s) : MemoryOk (s.setParkState ctx addr st) := by
  unfold State.setParkState
  split
  · exact h.poke_getD
  · exact h

theorem MemoryOk.unpark {pk f} (h : MemoryOk s) : MemoryOk (s.unpark pk f) := by
  unfold State.unpark
  dsimp only
  split
  · exact h
  · exact .congr rfl rfl (.foldl (h.newId.update rfl rfl) fun _ _ h => h.sendKept)

theorem MemoryOk.rereadOvf {ctx cbix} (h : MemoryOk s) : MemoryOk (s.rereadOvf ctx cbix) := by
  refine .foldl h fun _ _ h => ?_
  dsimp only
  split <;> exact h

theorem MemoryOk.thaw {pk} (h : MemoryOk s) : MemoryOk (s.thaw pk) := .ite h (.ite h.rereadOvf.setPlane h.rereadOvf)

theorem MemoryOk.resumeFrame {pk f} (h : MemoryOk s) : MemoryOk (s.resumeFrame pk f) := by
  unfold State.resumeFrame
  dsimp only
  split
  · exact h.unpark.thaw
  · refine h.withSaved fun _ h' => ?_
    split
    · exact h'.setPlane.thaw
    · exact h'

theorem MemoryOk.onPark {i a f} (h : MemoryOk s) (hf : ∀ p, OutOk (f p)) : OutOk (s.onPark i a f) := by
  unfold State.onPark
  split
  · exact h.trapAt
  · split
    · exact h.trapAt
    · exact .ite (hf _) h.trapAt

theorem MemoryOk.freePark {p} (h : MemoryOk s) : MemoryOk (s.freePark p) := h.setParkState.update rfl rfl

theorem MemoryOk.walkAgain {p} (h : MemoryOk s) : MemoryOk (s.walkAgain p) := by
  unfold State.walkAgain
  split
  · exact h.dropPage
  · exact h

theorem MemoryOk.execSParkres {a} (h : MemoryOk s) : OutOk (execSParkres a s) := by
  unfold Machine.execSParkres
  refine h.onPark fun _ => ?_
  dsimp only
  split
  · exact h.trapAt
  · exact .ite h.trapAt (MemoryOk.adv (.resumeFrame (h.setParkState.walkAgain.update rfl rfl)))
  · split
    · exact h.trapErr
    · split
      · exact h.trapAt
      next e => exact (h.makeLive.of_eq e).freePark.walkAgain.enqueue.adv

theorem MemoryOk.execSParkkill {a} (h : MemoryOk s) : OutOk (execSParkkill a s) := by
  unfold Machine.execSParkkill
  refine h.onPark fun _ => ?_
  dsimp only
  split
  · exact MemoryOk.adv (.ite (.killFrame (h.setParkState.update rfl rfl)) (h.setParkState.update rfl rfl))
  · exact h.freePark.adv

/-! Events of the fabric. -/

theorem MemoryOk.execEQuietSkip (h : MemoryOk s) : OutOk (execEQuietSkip s) := by
  unfold Machine.execEQuietSkip
  dsimp only
  split
  · exact h
  · split
    · exact h
    · exact h.takeOperands.sendBoth

theorem MemoryOk.parityLog {die e pp frame lanes tag} (h : MemoryOk s) : MemoryOk (s.parityLog die e pp frame lanes tag) := by
  unfold State.parityLog
  dsimp only
  split
  · exact h.setCsr.setCsr.pend
  · exact h.setCsr.setCsr.pend
  · exact h.setCsr.pend

theorem MemoryOk.loseToken {pk f r} (h : MemoryOk s) : MemoryOk (s.loseToken pk f r) := h.markLost.park

theorem MemoryOk.receiver {x} (h : MemoryOk s) : MemoryOk (s.receiver x).2 := by
  unfold State.receiver
  dsimp only
  split <;> exact h

theorem MemoryOk.parityFail {x e lanes tag} (h : MemoryOk s) : MemoryOk (s.parityFail x e lanes tag) := by
  unfold State.parityFail
  dsimp only
  split
  · exact .foldl h.parityLog fun _ _ h => h.loseToken
  · split
    · exact .ite h.parityLog.loseToken h.parityLog
    · exact h.parityLog

theorem MemoryOk.execETokenArrival {i} (h : MemoryOk s) : OutOk (execETokenArrival i s) := by
  unfold Machine.execETokenArrival
  dsimp only
  split
  · exact h
  · exact .ite h (.ite (.ite h (MemoryOk.staleDrop h))
      (.ite (MemoryOk.land h) (.ite (MemoryOk.parityFail h) (MemoryOk.parityFail (.receiver h)))))

theorem MemoryOk.execEOverflowReturn {plane x y} (h : MemoryOk s) : OutOk (execEOverflowReturn plane x y s) := by
  unfold Machine.execEOverflowReturn
  dsimp only
  split
  · exact h
  · exact .ite h h.setPlane.rebind

theorem MemoryOk.trigger {pk f gen} (h : MemoryOk s) : MemoryOk (s.trigger pk f gen) := .foldl h fun _ _ h => .ite h.post h

theorem MemoryOk.execEIterDraw {plane} (h : MemoryOk s) : OutOk (execEIterDraw plane s) := by
  unfold Machine.execEIterDraw
  dsimp only
  split
  · exact h
  · split
    · exact h
    · split
      · exact h
      next e => exact (h.draw e).setPlane.trigger

theorem MemoryOk.retire {pk f fr} (h : MemoryOk s) : MemoryOk (s.retire pk f fr) := by
  unfold State.retire
  extract_lets p leak s1 s2 s3 s4 s5
  have h2 : MemoryOk s2 := h.dropLocks.update rfl rfl
  have h5 : MemoryOk s5 := h2.setPlane.dropHits.endFrame.setPlane.rebindAll
  exact .ite h5.report h5

theorem MemoryOk.execEFrameRetire {plane frame} (h : MemoryOk s) : OutOk (execEFrameRetire plane frame s) := by
  unfold Machine.execEFrameRetire
  split
  · exact h
  · exact MemoryOk.ite h.retire h

theorem MemoryOk.execEIterComplete {plane} (h : MemoryOk s) : OutOk (execEIterComplete plane s) := by
  unfold Machine.execEIterComplete
  dsimp only
  split
  · exact h
  · exact .ite h h

theorem MemoryOk.execEWaveSend {plane x y} (h : MemoryOk s) : OutOk (execEWaveSend plane x y s) := by
  unfold Machine.execEWaveSend
  dsimp only
  split
  · exact h
  · exact .ite h h.setPlane

theorem MemoryOk.execEElementSwitch {plane x y} (h : MemoryOk s) : OutOk (execEElementSwitch plane x y s) := by
  unfold Machine.execEElementSwitch
  dsimp only
  split
  · exact h
  · exact .ite h h.setPlane

theorem MemoryOk.groupArrives {pk i} (h : MemoryOk s) : MemoryOk (s.groupArrives pk i) := by
  unfold State.groupArrives
  dsimp only
  split
  · exact h
  · exact .ite h (.ite h.setPlane h.setPlane.staleDrop)

theorem MemoryOk.execEShiftLaneArrival {i} (h : MemoryOk s) : OutOk (execEShiftLaneArrival i s) := by
  unfold Machine.execEShiftLaneArrival
  split
  · exact h
  · exact h.groupArrives

theorem MemoryOk.execEShiftComplete {plane x y node frame} (h : MemoryOk s) :
    OutOk (execEShiftComplete plane x y node frame s) := by
  unfold Machine.execEShiftComplete
  dsimp only
  split
  · split
    · exact h
    · split
      · exact h
      · exact h.setPlane.sendBoth
  · exact h

theorem MemoryOk.exitBar {pk b} (h : MemoryOk s) : MemoryOk (s.exitBar pk b) := by
  unfold State.exitBar
  dsimp only
  split
  · exact h
  · exact .ite h (.foldl h.setPlane fun _ _ h => h.acquireTop.sendBoth)

theorem MemoryOk.execEBarrierExit (h : MemoryOk s) : OutOk (execEBarrierExit s) :=
  MemoryOk.foldl h fun _ _ h => .foldl h fun _ _ h => h.exitBar

theorem MemoryOk.freeData (h : MemoryOk s) : MemoryOk s.freeData := h

theorem MemoryOk.dropPlane {pk} (h : MemoryOk s) : MemoryOk (s.dropPlane pk) := h.returnCmsg.update rfl rfl

theorem MemoryOk.killPlane {pk} (h : MemoryOk s) : MemoryOk (s.killPlane pk) :=
  .foldl (.foldl h fun _ _ h => h.setParkState) fun _ _ h => h.killFrame

theorem MemoryOk.resetContext {ctx} (h : MemoryOk s) : MemoryOk (s.resetContext ctx) :=
  .freeData (.congr rfl rfl
    (.foldl (.foldl h fun _ _ h => h.killPlane.dropPlane) fun _ _ h => h.withSaved fun _ h => h.killPlane))

theorem MemoryOk.watchdog {plane} (h : MemoryOk s) : MemoryOk (s.watchdog plane) := by
  unfold State.watchdog
  dsimp only
  split
  · exact h
  · exact .ite h h.resetContext.report

/-! Events of memory requests and reductions. -/

theorem MemoryOk.execEMemoryRequestAccept {r} (h : MemoryOk s) : OutOk (execEMemoryRequestAccept r s) := by
  unfold Machine.execEMemoryRequestAccept
  dsimp only
  split
  · exact h
  · exact .ite h (h.newId.update rfl rfl)

theorem MemoryOk.finishReq {r q v} (h : MemoryOk s) : MemoryOk (s.finishReq r q v) := by
  unfold State.finishReq
  dsimp only
  split
  · exact .ite (.markSeq h) h
  · exact .sendBoth (.ite (.markSeq h) h)

theorem MemoryOk.reqFault {r q e addr lanes} (h : MemoryOk s) : MemoryOk (s.reqFault r q e addr lanes) := .ite (.park h) h

theorem MemoryOk.checkElt {q x} (h : MemoryOk s) : MemoryOk (s.checkElt q x).1 := by
  unfold State.checkElt
  extract_lets i off
  split
  · exact h
  · split
    · exact h
    · split
      · exact h
      · split <;> exact h.translate.of_eq ‹_›

theorem MemoryOk.checkElts {q l} (h : MemoryOk s) : MemoryOk (s.checkElts q l).1 := by
  induction l generalizing s with
  | nil => exact h
  | cons x l ih =>
    unfold State.checkElts
    split
    next e => exact h.checkElt.of_eq e
    next e => exact ih (h.checkElt.of_eq e)

theorem MemoryOk.portAccess {tlb i sp a n k upd} (h : MemoryOk s) : MemoryOk (s.portAccess tlb i sp a n k upd).1 := by
  unfold State.portAccess
  dsimp only
  split
  · exact h.access
  · split
    · exact h.ordered
    · split
      next e => exact (h.physWrite.of_eq e).ordered
      next e => exact h.physWrite.of_eq e

theorem MemoryOk.performElt {q x} (h : MemoryOk s) : MemoryOk (s.performElt q x).1 := by
  unfold State.performElt
  dsimp only
  split
  · exact h.portAccess
  · split
    · exact h.portAccess
    · split
      · exact h.portAccess
      · split
        · split
          · exact h.portAccess
          · split
            next e => exact h.portAccess.of_eq e
            next e => exact (h.portAccess.of_eq e).portAccess
        · split <;> exact h.portAccess.of_eq ‹_›

theorem MemoryOk.farElt {r j f} (h : MemoryOk s) (hf : ∀ s, MemoryOk s → MemoryOk (f s).1) : MemoryOk (s.farElt r j f).1 := by
  unfold State.farElt
  dsimp only
  split
  · exact h
  · split
    next e => exact hf _ (h.farResponse.of_eq_snd e)
    next e => exact (h.farResponse.of_eq_snd e).update rfl rfl
    next e =>
      have h2 := h.farResponse.of_eq_snd e
      split
      next e => exact (MemoryOk.of_eq e (hf _ h2)).update rfl rfl
      next e => exact MemoryOk.of_eq e (hf _ h2)

theorem MemoryOk.performElts {r q l} (h : MemoryOk s) : MemoryOk (s.performElts r q l).1 := by
  induction l generalizing s q with
  | nil => exact h
  | cons x l ih =>
    have h1 : MemoryOk (if s.eltFar q x then s.farElt r x.j (fun s => s.performElt q x)
        else ((s.performElt q x).1, some (s.performElt q x).2)).1 := by
      split
      · exact h.farElt fun _ h => h.performElt
      · exact h.performElt
    unfold State.performElts
    split
    next e => exact h1.of_eq e
    next e => exact h1.of_eq e
    next e => exact ih (h1.of_eq e)

theorem MemoryOk.issueAccess {r q} (h : MemoryOk s) : MemoryOk (s.issueAccess r q) := by
  unfold State.issueAccess
  dsimp only
  split
  · exact h.reqFault
  · split
    next e => exact (h.checkElts.of_eq e).reqFault
    next e =>
      have h2 := h.checkElts.of_eq e
      split
      next e => exact (h2.performElts.of_eq e).update rfl rfl
      next e => exact (h2.performElts.of_eq e).reqFault
      next e => exact (h2.performElts.of_eq e).finishReq

theorem MemoryOk.lockPlace {q j} (h : MemoryOk s) : MemoryOk (s.lockPlace q j).1 := by
  unfold State.lockPlace
  dsimp only
  split
  · exact h
  · split
    · exact h
    · split <;> exact h.translate.of_eq ‹_›

theorem MemoryOk.farAnswer {pa} (h : MemoryOk s) : MemoryOk (s.farAnswer pa).2 := by
  unfold State.farAnswer
  split
  · exact h.farResponse
  · exact h

theorem MemoryOk.forget {r} (h : MemoryOk s) : MemoryOk (s.forget r) := h

theorem MemoryOk.await {r performed} (h : MemoryOk s) : MemoryOk (s.await r performed) := h

theorem MemoryOk.issueLock {r q} (h : MemoryOk s) : MemoryOk (s.issueLock r q) := by
  unfold State.issueLock
  dsimp only
  split
  · exact h.finishReq
  · split
    next e => exact (h.lockPlace.of_eq e).reqFault
    next e =>
      have h2 := h.lockPlace.of_eq e
      split
      · exact h2.reqFault
      · split
        · exact .ite h2 h2.reqFault
        · split
          · exact h2
          · split
            next e => exact (h2.farAnswer.of_eq_snd e).await
            next e =>
              have h6 := h2.farAnswer.of_eq_snd e
              exact .ite h6 (.ite h6 (.await h6))

theorem MemoryOk.issueUnlock {r q} (h : MemoryOk s) : MemoryOk (s.issueUnlock r q) := by
  unfold State.issueUnlock
  dsimp only
  split
  · exact h.forget.finishReq
  · split
    next e => exact (h.lockPlace.of_eq e).reqFault
    next e =>
      have h2 := h.lockPlace.of_eq e
      split
      · exact h2.reqFault
      · split
        · exact h2.reqFault
        · split
          next e => exact (h2.farAnswer.of_eq_snd e).await
          next e =>
            have h5 := h2.farAnswer.of_eq_snd e
            exact .ite h5.ordered.grantNext.finishReq h5.ordered.grantNext.await

theorem MemoryOk.wakeAcquire {q} (h : MemoryOk s) : MemoryOk (s.wakeAcquire q) := by
  unfold State.wakeAcquire
  dsimp only
  split
  · split
    · exact h.timelinePair
    · exact h.acquireTop
  · split
    · exact h.timelinePair
    · split
      · exact h.acquireTop
      · split
        · exact h.acquireTop
        next e => exact (h.lockPlace.of_eq e).ordered

theorem MemoryOk.wakeReqs (h : MemoryOk s) : MemoryOk s.wakeReqs := .foldl h fun _ _ h => h.wakeAcquire.finishReq

theorem MemoryOk.issue {r q} (h : MemoryOk s) : MemoryOk (s.issue r q) :=
  .ite h.finishReq (.ite h.releaseGen.acquireTop.finishReq (.ite (.ite h h.finishReq)
    (.ite h.issueLock (.ite h.issueUnlock (.ite h.issueAccess h)))))

theorem MemoryOk.execEMemoryAccessPerform {r} (h : MemoryOk s) : OutOk (execEMemoryAccessPerform r s) := by
  unfold Machine.execEMemoryAccessPerform
  split
  · exact h
  · exact MemoryOk.ite h.issue.wakeReqs h

theorem MemoryOk.execEWatchAdmission {r} (h : MemoryOk s) : OutOk (execEWatchAdmission r s) := by
  unfold Machine.execEWatchAdmission
  dsimp only
  split
  · exact h
  · split
    · exact h
    · split
      · exact h.finishReq
      · exact .ite h.reqFault (.ite h.reqFault (.ite h (.ite (MemoryOk.wakeReqs h) h)))

theorem MemoryOk.reqTimeout {r q} (h : MemoryOk s) : MemoryOk (s.reqTimeout r q) := by
  unfold State.reqTimeout
  dsimp only
  split <;> exact .ite (.reqFault h) h

theorem MemoryOk.execEMemTimeoutExpiry {r} (h : MemoryOk s) : OutOk (execEMemTimeoutExpiry r s) := by
  unfold Machine.execEMemTimeoutExpiry
  split
  · exact h.reqTimeout
  · exact .ite h h.refuseSend
  · exact h

theorem MemoryOk.execEPageWalk {tlb ctx va wr fe priv} (h : MemoryOk s) : OutOk (execEPageWalk tlb ctx va wr fe priv s) := by
  unfold Machine.execEPageWalk
  split
  next e => exact h.translate.of_eq e
  · exact h

theorem MemoryOk.placeContrib {id c} (h : MemoryOk s) : MemoryOk (s.placeContrib id c) :=
  .ite (h.newId.update rfl rfl) (.ite (h.newId.update rfl rfl) (h.newId.update rfl rfl))

theorem MemoryOk.rootCheck {q c} (h : MemoryOk s) : MemoryOk (s.rootCheck q c).1 := by
  unfold State.rootCheck
  dsimp only
  split
  · exact h
  · split
    · split <;> exact h
    · split
      · exact h
      · split <;> exact h.translate.of_eq ‹_›

theorem MemoryOk.execEReductionAccept {c} (h : MemoryOk s) : OutOk (execEReductionAccept c s) := by
  unfold Machine.execEReductionAccept
  dsimp only
  split
  · exact h
  · split
    · exact h
    · split
      · exact h
      · split
        next e => exact (h.rootCheck.of_eq e).reqFault
        next e =>
          have h4 := h.rootCheck.of_eq e
          exact MemoryOk.ite h4.placeContrib h4.placeContrib.finishReq

theorem MemoryOk.treeFlag {pk fl} (h : MemoryOk s) : MemoryOk (s.treeFlag pk fl) := h.planeFlag

theorem MemoryOk.execERedWindowClose {w} (h : MemoryOk s) : OutOk (execERedWindowClose w s) := by
  unfold Machine.execERedWindowClose
  dsimp only
  split
  · exact h
  · split
    · exact h
    · split
      · exact h
      · split
        · exact MemoryOk.congr rfl rfl (.treeFlag h)
        · exact MemoryOk.placeContrib (.treeFlag h)

theorem MemoryOk.execEReductionApply {c} (h : MemoryOk s) : OutOk (execEReductionApply c s) := by
  unfold Machine.execEReductionApply
  dsimp only
  split
  · exact h
  · refine .ite h ?_
    split
    next e => exact (MemoryOk.of_eq e (.portAccess h)).report
    next e =>
      have h1 := MemoryOk.of_eq e (.portAccess h)
      split
      next e => exact (h1.portAccess.of_eq e).report
      next e => exact (h1.portAccess.of_eq e).treeFlag

/-! Events of the engines. -/

theorem MemoryOk.execEEngineCommandAccept {c} (h : MemoryOk s) : OutOk (execEEngineCommandAccept c s) := by
  unfold Machine.execEEngineCommandAccept
  split
  · exact h
  · exact .ite h h.acceptCmd.cmdSend

theorem MemoryOk.execEEngineCommandComplete {c} (h : MemoryOk s) : OutOk (execEEngineCommandComplete c s) := by
  unfold Machine.execEEngineCommandComplete
  split
  · exact h
  · exact .ite h (.ite h.runCopy.wakeReqs (.ite h.runNet.wakeReqs (.ite h.runAcc.wakeReqs (.ite h.runQuery.wakeReqs h))))

theorem MemoryOk.execEArrayCommandAccept {c} (h : MemoryOk s) : OutOk (execEArrayCommandAccept c s) := by
  unfold Machine.execEArrayCommandAccept
  dsimp only
  split
  · exact h
  · exact .ite h (MemoryOk.ite h.acceptCmd.cmdSend h.acceptCmd)

theorem MemoryOk.execEMxlsComplete {c} (h : MemoryOk s) : OutOk (execEMxlsComplete c s) := by
  unfold Machine.execEMxlsComplete
  split
  · exact h
  · exact MemoryOk.ite h.runLoad.wakeReqs h

theorem MemoryOk.execEMxswApply {c} (h : MemoryOk s) : OutOk (execEMxswApply c s) := by
  unfold Machine.execEMxswApply
  split
  · exact h
  · exact MemoryOk.ite h.applySwap.wakeReqs h

theorem MemoryOk.execENeRetransmit {c} (h : MemoryOk s) : OutOk (execENeRetransmit c s) := by
  unfold Machine.execENeRetransmit
  split
  · exact h
  · exact .ite h (.ite h.failCmd.wakeReqs h)

theorem MemoryOk.execERingDelivery {d} (h : MemoryOk s) : OutOk (execERingDelivery d s) := by
  unfold Machine.execERingDelivery
  split
  · exact h
  · exact MemoryOk.ite h h.deliverMsg

theorem MemoryOk.execEDeliveryRetry (h : MemoryOk s) : OutOk (execEDeliveryRetry s) :=
  MemoryOk.foldl h fun _ _ h => .ite h.deliverMsg h

/-! Events of rays and samplers. -/

theorem MemoryOk.free32 (h : MemoryOk s) : MemoryOk s.free32.2 := h

theorem MemoryOk.execERayAccept {r} (h : MemoryOk s) : OutOk (execERayAccept r s) := by
  unfold Machine.execERayAccept
  dsimp only
  split
  · exact h
  · exact .ite h (MemoryOk.sendTo h)

theorem MemoryOk.execENodeInjection {r} (h : MemoryOk s) : OutOk (execENodeInjection r s) := by
  unfold Machine.execENodeInjection
  dsimp only
  split
  · exact h
  · split
    · exact h
    · split
      · exact h
      · split
        · exact h
        · split
          next e => exact (h.vread.of_eq e).update rfl rfl
          next e => exact (h.vread.of_eq e).update rfl rfl

theorem MemoryOk.execEBoxTest {r} (h : MemoryOk s) : OutOk (execEBoxTest r s) := by
  unfold Machine.execEBoxTest
  dsimp only
  split
  · exact h
  · split <;> exact h

theorem MemoryOk.execETriangleTest {r} (h : MemoryOk s) : OutOk (execETriangleTest r s) := by
  unfold Machine.execETriangleTest
  dsimp only
  split
  · exact h
  · split
    · exact h
    · split
      · exact h
      · split
        · exact h
        · split
          next e => exact (h.vread.of_eq e).update rfl rfl
          next e =>
            have h5 := h.vread.of_eq e
            exact .ite h5 (.ite h5 (h5.free32.free32.free32.free32.update rfl rfl))

theorem MemoryOk.execERayComplete {r} (h : MemoryOk s) : OutOk (execERayComplete r s) := by
  unfold Machine.execERayComplete
  dsimp only
  split
  · exact h
  · exact .ite h (MemoryOk.ite h (.staleDrop h))

theorem MemoryOk.sampleReads {q w l} (h : MemoryOk s) : MemoryOk (s.sampleReads q w l).1 := by
  induction l generalizing s with
  | nil => exact h
  | cons x l ih =>
    unfold State.sampleReads
    split
    · exact h
    · split
      next e => exact h.placeRead.of_eq e
      next e =>
        have h1 := h.placeRead.of_eq e
        split <;> exact (ih h1).of_eq ‹_›

theorem MemoryOk.sampled {r q fl v} (h : MemoryOk s) : MemoryOk (s.sampled r q fl v) := h.flag.finishReq

theorem MemoryOk.runHgf {r q} (h : MemoryOk s) : MemoryOk (s.runHgf r q) := by
  unfold State.runHgf
  dsimp only
  split
  · exact h.reqFault
  · split
    next e => exact (h.sampleReads.of_eq e).reqFault
    next e =>
      have h2 := h.sampleReads.of_eq e
      exact .sampled (.ite h2 h2)

theorem MemoryOk.texAxis {bilinear size x r} (h : MemoryOk s) : MemoryOk (s.texAxis bilinear size x r).1 := by
  unfold State.texAxis
  extract_lets v
  split
  split
  split
  extract_lets z
  split
  · exact h
  · exact h.free32.free32

theorem MemoryOk.texPoint {q t k r} (h : MemoryOk s) : MemoryOk (s.texPoint q t k r).1 := by
  unfold State.texPoint
  dsimp only
  split <;> exact h.texAxis.texAxis

theorem MemoryOk.runTex {r q} (h : MemoryOk s) : MemoryOk (s.runTex r q) := by
  unfold State.runTex
  dsimp only
  split
  · exact h.reqFault
  · split
    next e =>
      exact MemoryOk.reqFault (.of_eq e (.sampleReads (.foldl_fst h fun _ _ h => h.texPoint)))
    next s1 vals e =>
      have h1 : MemoryOk s1 := .of_eq e (.sampleReads (.foldl_fst h fun _ _ h => h.texPoint))
      exact MemoryOk.sampled (.ite h1 h1.setPlane)

theorem MemoryOk.execESamplerResult {r} (h : MemoryOk s) : OutOk (execESamplerResult r s) := by
  unfold Machine.execESamplerResult
  split
  · exact h
  · exact .ite h (.ite h.runHgf (.ite h.runTex h))

/-! Control registers. -/

theorem MemoryOk.readEffect {n} (h : MemoryOk s) : MemoryOk (s.readEffect n) := .ite h.setCsr h

theorem MemoryOk.writePartcfg {v} (h : MemoryOk s) : ResOk (s.writePartcfg v) := .ite h (.ite trivial h)

theorem MemoryOk.writeOnce {n v} (h : MemoryOk s) : MemoryOk (s.writeOnce n v) := .ite h h

theorem MemoryOk.flipBit {w b} (h : MemoryOk s) : MemoryOk (s.flipBit w b) := h

theorem MemoryOk.writeCinj {v} (h : MemoryOk s) : MemoryOk (s.writeCinj v) := .ite h.flipBit h

theorem MemoryOk.writeLinj {v} (h : MemoryOk s) : MemoryOk (s.writeLinj v) := .ite h.setCsr h

theorem MemoryOk.retrain {p trained} (h : MemoryOk s) : MemoryOk (s.retrain p trained) := h

theorem MemoryOk.writeKlstat {p v} (h : MemoryOk s) : MemoryOk (s.writeKlstat p v) := .ite (.retrain h) h

theorem MemoryOk.writeOwn {n v} (h : MemoryOk s) : MemoryOk (s.writeOwn n v) :=
  .ite h.setMe (.ite h.setMe (.ite h.setMe (.ite h.setMe (.ite h.setMe h.setMe))))

theorem MemoryOk.writePlain {n v} (h : MemoryOk s) : MemoryOk (s.writePlain n v) := h.setCsr

theorem MemoryOk.writeCbdown {n v} (h : MemoryOk s) : MemoryOk (s.writeCbdown n v) := h

theorem MemoryOk.regWrite {n v} (h : MemoryOk s) : ResOk (s.regWrite n v) :=
  .ite trivial (.ite h.writePartcfg (.ite h.writeOwn (.ite h (.ite h.writeOnce
    (.ite h.writeCbdown (.ite h.writeCinj (.ite h.writeLinj (.ite (.ite h.writeKlstat h.writePlain) h.writePlain))))))))

theorem MemoryOk.execSCsrrd {d i} (h : MemoryOk s) : OutOk (execSCsrrd d i s) :=
  h.privileged (.ite h.trapAt h.readEffect.setG.adv)

theorem MemoryOk.execSCsrwr {d i} (h : MemoryOk s) : OutOk (execSCsrwr d i s) := by
  unfold Machine.execSCsrwr
  refine h.privileged ?_
  split
  · exact h.trapAt
  · split
    · exact h.trapAt
    next e => exact (h.regWrite.of_eq e).adv

theorem MemoryOk.execEPartcfgWrite {v} (h : MemoryOk s) : OutOk (execEPartcfgWrite v s) := by
  unfold Machine.execEPartcfgWrite
  split
  · exact h.trapAt
  next e => exact h.writePartcfg.of_eq e

theorem MemoryOk.execERegisterWrite {num v} (h : MemoryOk s) : OutOk (execERegisterWrite num v s) := by
  unfold Machine.execERegisterWrite
  split
  · exact h.trapAt
  · split
    · exact h.trapAt
    next e => exact h.regWrite.of_eq e

/-! Events of links, the host and other modules. -/

theorem MemoryOk.setPipe {k p} (h : MemoryOk s) : MemoryOk (s.setPipe k p) := h

theorem MemoryOk.splog {k type bank lane spares retries} (h : MemoryOk s) : MemoryOk (s.splog k type bank lane spares retries) :=
  h.setCsr

theorem MemoryOk.readBeat {c l vs} (h : MemoryOk s) : MemoryOk (s.readBeat c l vs).1 := by
  induction l generalizing s vs with
  | nil => exact h
  | cons m l ih =>
    unfold State.readBeat
    split
    next e => exact h.readSrc.of_eq e
    next e => exact ih (h.readSrc.of_eq e).flagTern

theorem MemoryOk.execEStandpipeBeat {pipe} (h : MemoryOk s) : OutOk (execEStandpipeBeat pipe s) := by
  unfold Machine.execEStandpipeBeat
  dsimp only
  split
  · exact h
  · split
    · exact h
    · split
      · exact h.setPipe
      · split
        next e => exact (h.readBeat.of_eq e).update rfl rfl
        next e => exact (h.readBeat.of_eq e).setPipe

theorem MemoryOk.deliverRun {c n vs} (h : MemoryOk s) : MemoryOk (s.deliverRun c n vs).1 := by
  unfold State.deliverRun
  dsimp only
  split
  · exact h
  · exact h.deliverMove
  · exact h
  · split <;> exact h.placeWrite.of_eq ‹_›

theorem MemoryOk.deliverBeat {c k vs} (h : MemoryOk s) : MemoryOk (s.deliverBeat c k vs).1 := by
  induction k generalizing s c vs with
  | zero => exact h
  | succ k ih =>
    unfold State.deliverBeat
    dsimp only
    split
    · exact h
    · split
      next e => exact h.deliverRun.of_eq e
      next e => exact ih (h.deliverRun.of_eq e)

theorem MemoryOk.beatArrived {i vs} (h : MemoryOk s) : MemoryOk (s.beatArrived i vs) := by
  unfold State.beatArrived
  dsimp only
  split
  · exact h
  · exact .ite h (h.deliverBeat.update rfl rfl)

theorem MemoryOk.parityCheck {pipe} (h : MemoryOk s) : MemoryOk (s.parityCheck pipe) := by
  unfold State.parityCheck
  dsimp only
  split
  · exact h
  · split
    · exact h
    · split
      · exact h.setPipe
      · split
        · exact .beatArrived (.setPipe (.ite h h.splog))
        · exact h.splog.setPipe.beatArrived

theorem MemoryOk.retryBeat {pipe} (h : MemoryOk s) : MemoryOk (s.retryBeat pipe) := .ite h h.setPipe

theorem MemoryOk.testBeat {pipe} (h : MemoryOk s) : MemoryOk (s.testBeat pipe) := by
  unfold State.testBeat
  dsimp only
  split
  · exact h
  · exact .ite h (.ite h.setPipe h)

theorem MemoryOk.swapLanes {pipe} (h : MemoryOk s) : MemoryOk (s.swapLanes pipe) := .ite h h.setPipe.setPipe

theorem MemoryOk.forceRetrain {pipe} (h : MemoryOk s) : MemoryOk (s.forceRetrain pipe) := by
  unfold State.forceRetrain
  dsimp only
  split
  · exact h
  · exact .ite h h.setPipe.splog

theorem MemoryOk.endRetrain {pipe} (h : MemoryOk s) : MemoryOk (s.endRetrain pipe) := .ite h h.setPipe

theorem MemoryOk.failLane {port lane} (h : MemoryOk s) : MemoryOk (s.failLane port lane) := .ite h.setCsr h

theorem MemoryOk.setPwr {hi lo v} (h : MemoryOk s) : MemoryOk (s.setPwr hi lo v) := h.setCsr

theorem MemoryOk.rawRead {pa n} (h : MemoryOk s) : MemoryOk (s.rawRead pa n).1 := by
  unfold State.rawRead
  split
  · exact h
  · exact h
  · exact h
  · exact h
  · split <;> exact h.physRead.of_eq ‹_›

theorem MemoryOk.rawWrite {pa n v} (h : MemoryOk s) : MemoryOk (s.rawWrite pa n v).1 := by
  unfold State.rawWrite
  split
  · exact ⟨Memory.wf_foldl _ _ _ _ h.1, h.2⟩
  · exact h
  · exact h
  · exact h
  · exact h.physWrite

theorem MemoryOk.busPerform {far op pa size data cmp} (h : MemoryOk s) : MemoryOk (s.busPerform far op pa size data cmp).1 := by
  have h1 : MemoryOk (if op = .store then (s, .ok 0) else s.rawRead pa size).1 := by
    split
    · exact h
    · exact h.rawRead
  unfold State.busPerform
  dsimp only
  split
  · exact h
  · split
    next e => exact h1.of_eq e
    next e =>
      have h2 := h1.of_eq e
      split
      · exact h2.ordered
      · split
        next e => exact h2.rawWrite.of_eq e
        next e => exact (h2.rawWrite.of_eq e).ordered

theorem MemoryOk.farToken {src id op pa agent} (h : MemoryOk s) : MemoryOk (s.farToken src id op pa agent).1 := by
  unfold State.farToken
  dsimp only
  split
  · exact h
  · split
    · split
      · exact h
      · exact h.ordered.grantNext
    · split
      · exact h
      · split
        · exact h.newId.update rfl rfl
        · exact h

theorem MemoryOk.farPerform {src id op pa size data cmp} (h : MemoryOk s) :
    MemoryOk (s.farPerform src id op pa size data cmp).1 := by
  unfold State.farPerform
  split
  · exact h.farToken
  · exact h.busPerform

theorem MemoryOk.execERemoteAccessArrival {src id op pa size data cmp} (h : MemoryOk s) :
    OutOk (execERemoteAccessArrival src id op pa size data cmp s) := by
  unfold Machine.execERemoteAccessArrival
  dsimp only
  split
  · exact h
  · split
    next e => exact (h.farPerform.of_eq e).wakeReqs
    next e => exact MemoryOk.wakeReqs ((h.farPerform.of_eq e).newId.update rfl rfl)

theorem MemoryOk.doorbell {win v} (h : MemoryOk s) : MemoryOk (s.doorbell win v) := .ite h (.ite h.pend (.ite h h))

theorem MemoryOk.slotByte {o v} (h : MemoryOk s) : MemoryOk (s.slotByte o v) := .ite h h

theorem MemoryOk.barWrite {o size v} (h : MemoryOk s) : MemoryOk (s.barWrite o size v) :=
  .ite h (.ite h.doorbell (.foldl h fun _ _ h => h.slotByte))

theorem MemoryOk.execEHostRequest {op pa size data cmp} (h : MemoryOk s) : OutOk (execEHostRequest op pa size data cmp s) :=
  .ite (MemoryOk.ite h.barWrite h) (MemoryOk.ite h.busPerform.wakeReqs h)

theorem MemoryOk.launch {win slot} (h : MemoryOk s) : ResOk (s.launch win slot) := by
  unfold State.launch
  extract_lets ctx r zero root
  refine .ite trivial (.ite trivial (.ite trivial ?_))
  split
  · trivial
  next e => exact .ite trivial (.ite trivial (.ite trivial (h.makeLive.of_eq e).enqueue))

theorem MemoryOk.slotStatus {win slot st cause} (h : MemoryOk s) : MemoryOk (s.slotStatus win slot st cause) := h

theorem MemoryOk.execEHostLaunch {win} (h : MemoryOk s) : OutOk (execEHostLaunch win s) := by
  unfold Machine.execEHostLaunch
  dsimp only
  split
  · exact h
  · split
    · exact MemoryOk.pend (.slotStatus h)
    next e => exact (ResOk.of_eq e (MemoryOk.launch h)).slotStatus.pend

theorem MemoryOk.netCount {part c} (h : MemoryOk s) : MemoryOk (s.netCount part c) := by
  unfold State.netCount
  dsimp only
  split
  · exact h
  · split
    next e => exact h.rawRead.of_eq e
    next e =>
      have h2 := h.rawRead.of_eq e
      split
      next e => exact h2.rawWrite.of_eq e
      next e => exact (h2.rawWrite.of_eq e).ordered

theorem MemoryOk.execENeIncomingWrite {part ctx addr bytes rcnt} (h : MemoryOk s) :
    OutOk (execENeIncomingWrite part ctx addr bytes rcnt s) := by
  unfold Machine.execENeIncomingWrite
  split
  · exact h
  · split
    next e => exact (h.placePuts.of_eq e).wakeReqs
    next e => exact (h.placePuts.of_eq e).netCount.wakeReqs

theorem MemoryOk.execEModuleReset : OutOk (execEModuleReset s) := ⟨Memory.wf_nil, Memory.wf_nil⟩

theorem MemoryOk.execEFullService (h : MemoryOk s) : OutOk (execEFullService s) :=
  .ite h (MemoryOk.foldl h.setCsr fun _ _ h => h.pend)

/-! Events of dispatch and swapping. -/

theorem MemoryOk.execEDispatch {unit} (h : MemoryOk s) : OutOk (execEDispatch unit s) := by
  unfold Machine.execEDispatch
  split
  · exact h
  · split
    · exact h
    next e => exact (h.nextRecord e).popRecord

theorem MemoryOk.execESteal {unit} (h : MemoryOk s) : OutOk (execESteal unit s) := by
  unfold Machine.execESteal
  dsimp only
  split
  · exact h
  · split
    · exact h
    · exact h.popRecord

theorem MemoryOk.bindFor {ctx cbix vp} (h : MemoryOk s) : MemoryOk (s.bindFor ctx cbix vp) := by
  unfold State.bindFor
  split
  · exact .ite h.tryBind h
  · exact h

theorem MemoryOk.rekey {m} (h : MemoryOk s) : MemoryOk (s.rekey m) := h

theorem MemoryOk.withdrawReqs {pk} (h : MemoryOk s) : MemoryOk (s.withdrawReqs pk) := h

theorem MemoryOk.saveData {p pk a els} (h : MemoryOk s) : MemoryOk (s.saveData p pk a els) :=
  .foldl h fun _ _ h => .foldl h fun _ _ h => h.pokeSys

theorem MemoryOk.saveElems {ctx a d n} (h : MemoryOk s) : MemoryOk (s.saveElems ctx a d n) :=
  .foldl h fun _ _ h => .foldl h fun _ _ h => h.pokeSys

theorem MemoryOk.saveArea {pk els} (h : MemoryOk s) : MemoryOk (s.saveArea pk els) :=
  .saveData (.pokeSys (.pokeSys (.pokeSys (.pokeSys (.saveElems (.pokeSys (.pokeSys (.pokeSys h))))))))

theorem MemoryOk.execESwapOutSave {plane} (h : MemoryOk s) : OutOk (execESwapOutSave plane s) := by
  refine .ite h (MemoryOk.wakeReqs (MemoryOk.pokeSys (MemoryOk.rekey ?_)))
  exact ⟨h.returnCmsg.setPlane.withdrawReqs.saveArea.1, Memory.wf_filter h.returnCmsg.setPlane.withdrawReqs.saveArea.2 _⟩

theorem MemoryOk.restoreData {v m} (h : MemoryOk s) : MemoryOk (s.restoreData v m) := ⟨h.1, Memory.wf_foldl _ _ _ _ h.2⟩

theorem MemoryOk.touchArea {p} (h : MemoryOk s) : MemoryOk (s.touchArea p) := .foldl h fun _ _ h => h.touch

theorem MemoryOk.moveRoles {ctx vp from_ dst} (h : MemoryOk s) : MemoryOk (s.moveRoles ctx vp from_ dst) :=
  .ite h (.foldl h fun _ _ h => .ite h h)

theorem MemoryOk.restore {v g pk} (h : MemoryOk s) : MemoryOk (s.restore v g pk) := by
  unfold State.restore
  extract_lets m q p a s1 s2 s3 s4 woken s5 s6 s7 s8
  have h3 : MemoryOk s3 := h.pokeSys.touchArea.restoreData.update rfl rfl
  have h4 : MemoryOk s4 := h3.rekey.bindTo
  have h5 : MemoryOk s5 := h4.update rfl rfl
  have h7 : MemoryOk s7 := .foldl h5.moveRoles fun _ _ h => .ite h.killFrame h
  have h8 : MemoryOk s8 := .foldl h7 fun _ _ h => .ite h h.unpark
  exact .wakeReqs (.pokeSys h8)

theorem MemoryOk.execESwapIn {ctx cbix vp} (h : MemoryOk s) : OutOk (execESwapIn ctx cbix vp s) := by
  unfold Machine.execESwapIn
  dsimp only
  split
  · split
    · exact h
    · split
      · exact h.restore
      · exact MemoryOk.ite h.chooseVictims h
      · exact .ite h h.chooseVictims
      · exact h
  · exact h

/-! Time. -/

theorem MemoryOk.extend (h : MemoryOk s) : MemoryOk s.extend := .ite h h

theorem MemoryOk.clock (h : MemoryOk s) : MemoryOk s.clock := h

theorem MemoryOk.endFc (h : MemoryOk s) : MemoryOk s.endFc := .clock (.extend (.applyParks (.foldl h fun _ _ h => h.spillCheck)))

theorem MemoryOk.tick (h : MemoryOk s) : MemoryOk s.tick := by
  unfold State.tick
  dsimp only
  split
  · exact h.endFc.update rfl rfl
  · exact h

theorem MemoryOk.tidy (h : MemoryOk s) : MemoryOk s.tidy := h.settle.wakeReqs.reapBlocks.trimCycles

/-! Fetching. -/

theorem MemoryOk.fetchWord {pc at_ first} (h : MemoryOk s) : MemoryOk (s.fetchWord pc at_ first).1 := by
  unfold State.fetchWord
  dsimp only
  split
  next e => exact h.translate.of_eq e
  next e =>
    have h1 := h.translate.of_eq e
    split
    · split
      · exact h1.farResponse
      · split <;> exact h1.farResponse.physRead.of_eq ‹_›
    · split
      · exact h1
      · split <;> exact h1.physRead.of_eq ‹_›

theorem MemoryOk.begun (h : MemoryOk s) : MemoryOk s.begun := .ite h.setMe h

theorem MemoryOk.fetch (h : MemoryOk s) : MemoryOk s.fetch.1 := by
  unfold State.fetch
  dsimp only
  split
  · exact h
  · split
    next e => exact h.begun.fetchWord.of_eq e
    next e =>
      have h2 := h.begun.fetchWord.of_eq e
      split
      · split <;> exact h2.fetchWord.of_eq ‹_›
      · exact h2

theorem MemoryOk.fetchTrap {e} (h : MemoryOk s) : MemoryOk (s.fetchTrap e) := h.trap

/-! Executing and stepping. -/

/-- Every instruction keeps memory canonical. -/
theorem MemoryOk.exec {i} (h : MemoryOk s) : OutOk (exec i s) := by
  cases i
  all_goals dsimp only [Machine.exec]
  case sAdd | sSub | sMul | sMulh | sMulhn | sDiv | sDivn | sRem | sRemn | sAnd | sOr | sXor | sAndn | sShl | sShr | sSar
      | sMin | sMax | sMinn | sMaxn | sSel | sClz | sPopc | sAddi | sAndi | sOri | sXori | sShli | sShri | sSari | sLdi
      | sLdhi => exact h.put
  case sCmp | sCmpiCcLow | sCmpiCcHigh => exact h.putP
  case sLdiX | sAddiX | sAndiX | sOriX | sXoriX => exact h.putX
  case sCmpiX => exact h.setP.advX
  case sBr => exact .ite h.setPc h.adv
  case sJmp => exact h.setPc
  case sJmpi | sRet => exact h.jumpTo
  case sCall => exact h.setG.setPc
  case nIadd | nIsub | nImul | nImulh | nImad | nIabs | nIneg | nImin | nImax | nAnd | nOr | nXor | nNot | nShl | nShr
      | nSar | nRot | nPopc | nClz | nBfx | nBfi | nSadd | nSsub | nFadd | nFsub | nFmul | nFfma | nFmin | nFmax | nFsgn
      | nFrcp | nFrsq | nFsqrt | nFdiv | nFexp2 | nFlog2 | nCmp | nSel | nMand | nMor | nMnot | nAny | nAll | nLperm
      | nLbcast | nLrot | nLred | nLscan | nCvt | nPack | nUnpack | nLut => exact h.fire
  case nSteer => exact h.execNSteer
  case nGate => exact h.execNGate
  case nMerge => exact h.execNMerge
  case nCopy | nConst | nPld => exact h.whenReady fun _ => h.takeOperands.out
  case nSink => exact h.whenReady fun _ => h.takeOperands
  case nEntry => exact h.execNEntry
  case nExit => exact h.execNExit
  case nLoop => exact h.execNLoop
  case nSpawn => exact h.execNSpawn
  case nReturn => exact h.execNReturn
  case nTsend => exact h.execNTsend
  case nBar => exact h.execNBar
  case nFlags => exact h.execNFlags
  case nTrapn => exact h.execNTrapn
  case nPshift => exact h.execNPshift
  case nPzrot => exact h.execNPzrot
  case nPst => exact h.execNPst
  case nPquiet => exact h.execNPquiet
  case nRule => exact h.execNRule
  case nBmax => exact h.execNBmax
  case nDelay => exact h.execNDelay
  case nBfly => exact h.execNBfly
  case nQnt => exact h.execNQnt
  case nDqnt => exact h.execNDqnt
  case sLd | sLdN | sLdacq => exact h.seqLoad
  case sSt | sStrel => exact h.seqStore
  case sAmo => exact h.execSAmo
  case sFence => exact h.releaseGen.acquireTop.adv
  case sEnq => exact h.execSEnq
  case sDone => exact h.endRecord
  case sCont => exact h.execSCont
  case sJoin => exact h.execSJoin
  case sSelf => exact h.setG.adv
  case sEret => exact h.privileged (.ite h.eret h.trapAt)
  case sSvc => exact h.trap
  case sHalt => exact h.privileged (h.endRecord.setMe)
  case sIdle => exact h.execSIdle
  case sArmIter => exact h.execSArmIter
  case sArmTl => exact h.execSArmTl
  case sArmWatch => exact h.execSArmWatch
  case sIter => exact h.execSIter
  case sTokin => exact h.execSTokin
  case sCfgact | sPrio => exact h.onPlane fun _ h _ _ => h.setPlane
  case sDrain => exact h.onPlane fun _ h _ _ => .ite h h.setPlane
  case sSplice => exact h.execSSplice
  case sTokget => exact h.execSTokget
  case nLd | nLdv | nLdt | nWaitw | nFence | nCas | nXchg | nLock | nUnlock | nVbuf => exact h.fireRequest
  case nSt | nStv | nStt => exact h.fireStore
  case nLdl => exact h.execNLdl
  case nStl => exact h.execNStl
  case nPref => exact h.execNPref
  case nOrdt => exact h.execNOrdt
  case nRed => exact h.execNRed
  case nTlw => exact h.execNTlw
  case nTlr => exact h.execNTlr
  case nCopyEngine | nNetw | nMxls | nMxsw | nMxacc | nMxq => exact h.fireCmd
  case nMxst => exact h.execNMxst
  case nCvsend | nCvchoose | nCvdeleg => exact h.fireSend
  case nCvrecv => exact h.execNCvrecv
  case nRayinj => exact h.execNRayinj
  case nRayrcv => exact h.execNRayrcv
  case nHgf | nTex => exact h.fireSampler
  case nHgs => exact h.execNHgs
  case nDrawend => exact h.execNDrawend
  case sCvopen => exact h.execSCvopen
  case sCvbind => exact h.execSCvbind
  case sCvclose | sCvdeleg => exact h.recordSend
  case sCvsend | sCvsendChoose => exact h.seqSend
  case sArmConv => exact h.execSArmConv
  case sCfgld => exact h.execSCfgld
  case sCfgldX => exact h.execSCfgldX
  case sTidset => exact h.execSTidset
  case sTidget => exact h.execSTidget
  case sTlread => exact h.execSTlread
  case sCopys => exact h.execSCopys
  case sTlbinv => exact h.execSTlbinv
  case sKeyld => exact h.execSKeyld
  case sSwapout => exact h.execSSwapout
  case sSwapin => exact h.execSSwapin
  case sParkres => exact h.execSParkres
  case sParkkill => exact h.execSParkkill
  case eQuietSkip => exact h.execEQuietSkip
  case eTokenArrival => exact h.execETokenArrival
  case eOverflowReturn => exact h.execEOverflowReturn
  case eIterDraw => exact h.execEIterDraw
  case eFrameRetire => exact h.execEFrameRetire
  case eIdentifierHoldExpiry | eKeptResponseExpiry | eLinkResume | eIdleWake => exact h
  case eIterComplete => exact h.execEIterComplete
  case eWaveSend => exact h.execEWaveSend
  case eElementSwitch => exact h.execEElementSwitch
  case eShiftLaneArrival => exact h.execEShiftLaneArrival
  case eShiftComplete => exact h.execEShiftComplete
  case eBarrierExit => exact h.execEBarrierExit
  case eDrawWatchdog => exact MemoryOk.foldl h fun _ _ h => h.watchdog
  case eMemoryRequestAccept => exact h.execEMemoryRequestAccept
  case eMemoryAccessPerform => exact h.execEMemoryAccessPerform
  case eWatchAdmission => exact h.execEWatchAdmission
  case eMemTimeoutExpiry => exact h.execEMemTimeoutExpiry
  case ePageWalk => exact h.execEPageWalk
  case eReductionAccept => exact h.execEReductionAccept
  case eRedWindowClose => exact h.execERedWindowClose
  case eReductionApply => exact h.execEReductionApply
  case eEngineCommandAccept => exact h.execEEngineCommandAccept
  case eEngineCommandComplete => exact h.execEEngineCommandComplete
  case eArrayCommandAccept => exact h.execEArrayCommandAccept
  case eMxlsComplete => exact h.execEMxlsComplete
  case eMxswApply => exact h.execEMxswApply
  case eMatrixRowAccept => exact h.acceptRow
  case eMatrixRowComplete => exact h.completeRow.wakeReqs
  case eNeRetransmit => exact h.execENeRetransmit
  case eSendCheck => exact h.checkSend
  case eDelegationCheck => exact h.checkDeleg
  case eRingDelivery => exact h.execERingDelivery
  case eDeliveryRetry => exact h.execEDeliveryRetry
  case eConversationFree => exact MemoryOk.foldl h fun _ _ h => h.freeConv
  case eRayAccept => exact h.execERayAccept
  case eNodeInjection => exact h.execENodeInjection
  case eBoxTest => exact h.execEBoxTest
  case eTriangleTest => exact h.execETriangleTest
  case eRayComplete => exact h.execERayComplete
  case eSamplerResult => exact h.execESamplerResult
  case sCsrrd => exact h.execSCsrrd
  case sCsrwr => exact h.execSCsrwr
  case eCinjGo => exact h.writeCinj
  case eLinjWrite => exact h.writeLinj
  case eKlstatRetrain => exact MemoryOk.ite h.retrain h
  case eCbdownClear => exact MemoryOk.ite h.writeCbdown h
  case ePartcfgWrite => exact h.execEPartcfgWrite
  case ePwrstatRead => exact h.readEffect.setG
  case eRegisterWrite => exact h.execERegisterWrite
  case eStandpipeBeat => exact h.execEStandpipeBeat
  case eBeatParityCheck => exact MemoryOk.foldl h fun _ _ h => h.parityCheck
  case eBeatRetry => exact MemoryOk.foldl h fun _ _ h => h.retryBeat
  case eLaneTest => exact MemoryOk.foldl h fun _ _ h => h.testBeat
  case eLaneSwap => exact MemoryOk.foldl h fun _ _ h => h.swapLanes
  case eStandpipeRetrain => exact .ite h (.ite h.setPipe h.setPipe)
  case eRetrainForced => exact MemoryOk.foldl h fun _ _ h => h.forceRetrain
  case eRetrainComplete => exact MemoryOk.foldl h fun _ _ h => h.endRetrain
  case eLaneFail => exact MemoryOk.ite h.failLane h
  case eLinkReplay => exact .ite h (MemoryOk.ite (.failLane h) h)
  case eDroopStretch => exact MemoryOk.ite h h.setPwr.setPwr
  case eDroopRecover => exact h.setPwr
  case ePowerCapStep => exact h.setPwr.setPwr
  case eRemoteAccessArrival => exact h.execERemoteAccessArrival
  case eDoorbellLaunch => exact MemoryOk.ite h h.doorbell
  case eDoorbellNotify => exact MemoryOk.ite h.doorbell h
  case eHostRequest => exact h.execEHostRequest
  case eHostLaunch => exact h.execEHostLaunch
  case eNeIncomingWrite => exact h.execENeIncomingWrite
  case eNeIncomingRead => exact MemoryOk.ite h h.vreadAny
  case eModuleReset => exact MemoryOk.execEModuleReset
  case eFullService => exact h.execEFullService
  case ePartitionReset => exact h.invalidate
  case eDispatch => exact h.execEDispatch
  case eSteal => exact h.execESteal
  case ePlaneBind | ePlaneBindRecheck => exact h.bindFor
  case eSwapOutStart => exact .ite h h.setPlane
  case eSwapOutSave => exact h.execESwapOutSave
  case eSwapIn => exact h.execESwapIn
  case eUnitRestart => exact MemoryOk.ite h.setUnit h

theorem OutOk.settled {o : Out} (ho : OutOk o) : OutOk (settled o) := by
  cases o with
  | next s => exact MemoryOk.tidy ho
  | fault r => trivial
  | refused r => trivial

theorem MemoryOk.stepUnit {u} (h : MemoryOk s) : OutOk (stepUnit u s) := by
  unfold Machine.stepUnit
  dsimp only
  split
  · exact h
  · have hf : MemoryOk (State.fetch { s with cur := u }).1 := MemoryOk.fetch h
    split
    next e => exact (hf.of_eq e).fetchTrap.tidy
    next e => exact (hf.of_eq e).exec.settled

theorem MemoryOk.stepNode {t} (h : MemoryOk s) : OutOk (stepNode t s) := by
  unfold Machine.stepNode
  dsimp only
  split
  · exact h
  · exact OutOk.settled (MemoryOk.exec h)

theorem MemoryOk.stepEvent {i} (h : MemoryOk s) : OutOk (stepEvent i s) := .ite h.exec.settled h

theorem MemoryOk.step (h : MemoryOk s) : OutOk (step s) := by
  unfold Machine.step
  split
  · exact h.tick
  · exact MemoryOk.stepUnit h
  · exact MemoryOk.stepNode h
  · exact MemoryOk.stepEvent h

/-- Settles O59: canonical memory is an invariant, kept by every function that moves the state, so by `step`. -/
theorem memoryStaysCanonical : Obligations.MemoryStaysCanonical := by
  intro s t h e
  have ht := h.step
  rwa [e] at ht

end

end Sys2Proof

/-! REFUTATION of O51. The clause on swap-in (R319) fails. It reads the plane table by key (`HeldBy`), and the scheduler looks for a
free place among all entries of the table (`State.holders`). The two agree on a table whose keys are distinct, which the clause on
binding asks for and the clause on swap-in does not. Where a key is listed twice, an entry that no lookup finds can hold a place that
the clause takes for free, and the saved plane stays where it is. The clause wants it gone from the saved planes of some state `z`
from which the outcome comes by a write of the save area and by wakes; so the lemmas before the counterexample say that neither
touches the saved planes. -/

namespace Sys2Proof.Machine

open Sys2Proof

/-! What leaves the saved planes alone. -/

theorem Written.saved_eq {s t : State} (h : Written s t) : t.saved = s.saved := by
  obtain ⟨⟨_, _, _, _, _, _, _, _, _, _, _, _, _, rfl⟩, -⟩ := h
  rfl

theorem saved_of_fst_eq {α : Type} {x : State × α} {s t : State} {a : α} (e : x = (t, a)) (h : x.1.saved = s.saved) :
    t.saved = s.saved := by
  subst e
  exact h

@[simp] theorem State.pokeSys_saved (s : State) (ctx va : Nat) (v : List Byte) : (s.pokeSys ctx va v).saved = s.saved := by
  unfold State.pokeSys
  dsimp only
  split
  · rfl
  · split
    · split
      next e => exact ((Written.setBytes ..).trans (State.physWrite_spec e).1).saved_eq
      · rfl
    · rfl

@[simp] theorem State.setAgent_saved (s : State) (i : Issuer) (f : Horizon → Horizon) (g : Nat → Nat) :
    (s.setAgent i f g).saved = s.saved := by
  unfold State.setAgent
  dsimp only
  split
  · split
    · split <;> rfl
    · rfl
  · rfl
  · rfl

@[simp] theorem State.acquireTop_saved (s : State) (i : Issuer) : (s.acquireTop i).saved = s.saved := s.setAgent_saved ..

@[simp] theorem State.releaseGen_saved (s : State) (i : Issuer) : (s.releaseGen i).saved = s.saved := s.setAgent_saved ..

@[simp] theorem State.timelinePair_saved (s : State) (i : Issuer) (k n : Nat) : (s.timelinePair i k n).saved = s.saved :=
  s.setAgent_saved ..

@[simp] theorem State.ordered_saved (s : State) (i : Issuer) (pa n : Nat) (watch : Bool) (k : Acc) (wrote : Bool) :
    (s.ordered i pa n watch k wrote).saved = s.saved := by
  unfold State.ordered
  extract_lets e covered s1 me gen hz base0 base s2
  clear_value e
  have h1 : s1.saved = s.saved := by
    unfold s1
    split
    · rfl
    · split
      · split
        · exact s.setAgent_saved ..
        · rfl
      · exact s.acquireTop_saved i
  have h2 : s2.saved = s.saved := by
    unfold s2
    split <;> exact h1
  split
  · exact (s2.releaseGen_saved i).trans h2
  · exact h2

@[simp] theorem State.translate_saved (s : State) (tlb die ctx va : Nat) (wr fe priv : Bool) :
    (s.translate tlb die ctx va wr fe priv).1.saved = s.saved := by
  obtain ⟨_, _, _, e⟩ := s.translate_eq tlb die ctx va wr fe priv
  rw [e]

@[simp] theorem State.lockPlace_saved (s : State) (q : Req) (j : Nat) : (s.lockPlace q j).1.saved = s.saved := by
  unfold State.lockPlace
  dsimp only
  split
  · rfl
  · split
    · rfl
    · split
      all_goals next e => exact saved_of_fst_eq e (s.translate_saved ..)

@[simp] theorem State.wakeAcquire_saved (s : State) (q : Req) : (s.wakeAcquire q).saved = s.saved := by
  unfold State.wakeAcquire
  dsimp only
  split
  · split <;> simp
  · split
    · simp
    · split
      · simp
      · split
        · simp
        next e => exact (State.ordered_saved ..).trans (saved_of_fst_eq e (s.lockPlace_saved ..))

@[simp] theorem State.sendBoth_saved (s : State) (pk e : Nat) (n : NodeBody) (frame gen : Nat) (v : Operand) :
    (s.sendBoth pk e n frame gen v).saved = s.saved := by
  unfold State.sendBoth
  obtain ⟨_, e0⟩ := sendTo_frame s pk e n.dest0 frame gen v
  obtain ⟨_, e1⟩ := sendTo_frame (s.sendTo pk e n.dest0 frame gen v) pk e n.dest1 frame gen v
  rw [e1, e0]

@[simp] theorem State.markSeq_saved (s : State) (pk f copy q : Nat) : (s.markSeq pk f copy q).saved = s.saved := by
  unfold State.markSeq
  split <;> rfl

@[simp] theorem State.finishReq_saved (s : State) (r : Nat) (q : Req) (v : Option Operand) : (s.finishReq r q v).saved = s.saved := by
  unfold State.finishReq
  dsimp only
  cases v <;> dsimp only <;> split <;> simp

@[simp] theorem State.wakeReqs_saved (s : State) : s.wakeReqs.saved = s.saved := by
  unfold State.wakeReqs
  generalize s.reqs.filter _ = l
  induction l generalizing s with
  | nil => rfl
  | cons x l ih => rw [List.foldl_cons, ih]; simp

/-- A saved plane that no record waits for stays where it is while no physical plane is free in its region (R319). -/
theorem execESwapIn_of_noPlace {s : State} {ctx cbix vp : Nat} {v : Saved} {g : Region} (hv : s.savedOf ctx cbix vp = some v)
    (hg : s.grant ctx cbix = some g) (hl : s.waitingLevel ctx cbix = none) (hf : s.freePlane g = none) :
    execESwapIn ctx cbix vp s = .next s := by
  unfold execESwapIn
  rw [hv, hg]
  dsimp only
  rw [hl, hf]
  split <;> rfl

end Sys2Proof.Machine

namespace Sys2Proof

open Sys2Proof.Machine Sys2Proof.Claim

/-! The counterexample: full service; block 0 of context 1 has the region of one block at (1,0) of FD0, and its saved plane has been
told to return. -/

/-- The region: one block at (1,0), virtual plane 0. -/
def eastBlock : Region := ⟨0, 1, 0, 1, 1, 1⟩

/-- A plane of context 2 that is so many blocks wide. -/
def wide (w : Nat) : Plane := { Plane.reset with ctx := 2, state := .loaded, w := w }

/-- The saved plane, which returns on SWAPIN (R185). -/
def sentBack : Saved := ⟨2 ^ 20, 1, 0, 0, { Plane.reset with ctx := 1, state := .loaded }, eastBlock, [], [], true, []⟩

/-- Key 0, physical plane 0 of the block at (0,0), is listed twice: a lookup finds the entry that is one block wide, and the second
one reaches into (1,0), whose physical planes 1 to 3 are held. -/
def twiceListed : State :=
  { State.reset with
    csrs := [(0x0400, 0xFFFFE514#64)]
    blocks := [(blockKey 1 0, ⟨0, 0, 64, 1024, 16, [], (2 ^ 31 + 2 ^ 24 + 2 ^ 11) * 2 ^ 288⟩)]
    planes := [(0, wide 1), (0, wide 2), (5, wide 1), (6, wide 1), (7, wide 1)]
    saved := [sentBack] }

theorem twiceListed_savedOf : twiceListed.savedOf 1 0 0 = some sentBack := by decide +kernel

theorem twiceListed_grant : twiceListed.grant 1 0 = some eastBlock := by decide +kernel

/-- The plane stays saved, since the second entry under key 0 holds physical plane 0. -/
theorem twiceListed_swapIn : exec (.eSwapIn 1 0 0) twiceListed = .next twiceListed :=
  execESwapIn_of_noPlace twiceListed_savedOf twiceListed_grant (by decide +kernel) (by decide +kernel)

/-- By key, nothing holds physical plane 0 of the region. -/
theorem twiceListed_not_held (pk : Nat) (p : Plane) : ¬HeldBy twiceListed eastBlock 0 pk p := by
  rintro ⟨hfind, -, hpp, hox, -⟩
  simp only [twiceListed, Map.find] at hfind
  split at hfind
  next h0 =>
    subst h0
    cases hfind
    exact absurd hox (by decide)
  next h0 =>
    have hpk : pk = 5 ∨ pk = 6 ∨ pk = 7 := by
      by_contra hne
      rw [if_neg (by omega), if_neg (by omega), if_neg (by omega)] at hfind
      cases hfind
    simp only [pkPp] at hpp
    omega

/-- Refutes O51: the plane table of `twiceListed` lists a key twice, so the place that its lookups show free is held, and the saved
plane does not return. -/
theorem not_schedulingMovesRecordsAndPlanes : ¬ Obligations.SchedulingMovesRecordsAndPlanes := by
  unfold Obligations.SchedulingMovesRecordsAndPlanes
  rintro ⟨-, -, -, -, swapIn⟩
  obtain ⟨z, hz, hgone, -⟩ := swapIn twiceListed 1 0 0 0 0 sentBack eastBlock twiceListed_savedOf twiceListed_grant (by decide) (by decide)
    (.inl rfl) rfl (by decide) twiceListed_not_held (fun j hj => absurd hj j.not_lt_zero) (.inl rfl)
  rw [twiceListed_swapIn] at hz
  have hsaved : twiceListed.saved = z.saved := by
    rw [Host.Outcome.next.inj hz, State.wakeReqs_saved, State.pokeSys_saved]
  exact hgone sentBack (by rw [← hsaved]; exact List.mem_singleton_self _) rfl

end Sys2Proof

namespace Sys2Proof.Claim

open Sys2Proof Sys2Proof.Machine

/-! Tokens: what one is made of, and what a destination word sends. -/

/-- The lanes that a lane-select code keeps (Table 2.6). -/
theorem getLsbD_laneSelect (c i : Nat) (hi : i < 16) : (laneSelect c).getLsbD i = true ↔ Selects c i := by
  have quarter : ∀ c i : Fin 16, 4 ≤ c.val → c.val ≤ 7 → ((0xF#16 <<< (4 * (c.val - 4))).getLsbD i.val = true ↔ i.val / 4 = c.val - 4) := by decide
  have half : ∀ i : Fin 16, ((0x00FF#16).getLsbD i.val = true ↔ i.val < 8) ∧ ((0xFF00#16).getLsbD i.val = true ↔ 8 ≤ i.val) := by decide
  have parity : ∀ i : Fin 16, ((0x5555#16).getLsbD i.val = true ↔ i.val % 2 = 0) ∧ ((0xAAAA#16).getLsbD i.val = true ↔ i.val % 2 = 1) := by decide
  have all : ∀ i : Fin 16, (0xFFFF#16).getLsbD i.val = true := by decide
  unfold laneSelect Selects
  split
  next h => rw [quarter ⟨c, by omega⟩ ⟨i, hi⟩ h.1 h.2]; simp only; omega
  split
  next h => rw [(half ⟨i, hi⟩).1]; simp only; omega
  split
  next h => rw [(half ⟨i, hi⟩).2]; simp only; omega
  split
  next h => rw [(parity ⟨i, hi⟩).1]; simp only; omega
  split
  next h => rw [(parity ⟨i, hi⟩).2]; simp only; omega
  next => rw [all ⟨i, hi⟩]; refine iff_of_true rfl ⟨?_, ?_, ?_, ?_, ?_⟩ <;> intros <;> omega

/-- The lanes of a narrowed result that are live (R15, R27). -/
theorem getLsbD_narrow (v : Operand) (c i : Nat) (hi : i < 16) :
    (v.result.narrow c).mask.getLsbD i = true ↔ v.mask.getLsbD i = true ∧ Selects c i := by
  unfold Operand.narrow Operand.result
  rw [BitVec.getLsbD_and, Bool.and_eq_true, getLsbD_laneSelect c i hi]

theorem lane_narrow (v : Operand) (c i : Nat) (hi : i < 16) :
    lane (v.result.narrow c).val i = if v.mask.getLsbD i then lane v.val i else 0 := lane_zeroOff _ _ _ hi

theorem kind_narrow (v : Operand) (c : Nat) : (v.result.narrow c).kind = v.kind := by unfold Operand.narrow Operand.result; dsimp only

/-- A token of the value v, narrowed by a lane-select code, that goes to a port of a node for a frame (R13, R15, R27). -/
structure IsToken (x : Flight) (pk frame gen node port kind sel : Nat) (v : Operand) : Prop where
  plane : x.plane = pk
  pay : ∀ i < 16, lane x.pay i = if v.mask.getLsbD i then lane v.val i else 0
  par : x.par = parityOf x.pay x.tag
  pp : x.tag.toNat / 2 ^ 40 = pk % 4
  frame : tagFrame x.tag = frame % 1024
  gen : tagGen x.tag = gen % 8
  node : tagNode x.tag = node % 32
  port : tagPort x.tag = port % 4
  kind : tagKind x.tag = kind % 16
  mask : ∀ i < 16, x.tag.getLsbD i = true ↔ v.mask.getLsbD i = true ∧ Selects sel i

/-- The flight that `State.post` puts on its way. -/
def flightOf (s : State) (pk e src hops frame gen node port kind : Nat) (v : Operand) : Flight :=
  let t := mkTag (pkPp pk) frame gen node port kind v.mask
  ⟨s.fc + hops - 1, src, pk, e, t, v.val, parityOf v.val t⟩

theorem post_eq (s : State) (pk e src hops frame gen node port kind : Nat) (v : Operand) :
    s.post pk e src hops frame gen node port kind v =
      { s with flights := s.flights ++ [flightOf s pk e src hops frame gen node port kind v] } := rfl

theorem isToken_flightOf (s : State) (pk e src hops frame gen node port kind sel : Nat) (v : Operand) :
    IsToken (flightOf s pk e src hops frame gen node port kind (v.result.narrow sel)) pk frame gen node port kind sel v := by
  have hpp : pkPp pk < 4 := Nat.mod_lt _ (by norm_num)
  constructor
  case plane => rfl
  case pay => exact fun i hi => lane_narrow v sel i hi
  case par => rfl
  case pp => exact tagPlane_mkTag _ _ _ _ _ _ _ hpp
  case frame => exact tagFrame_mkTag _ _ _ _ _ _ _ hpp
  case gen => exact tagGen_mkTag _ _ _ _ _ _ _ hpp
  case node => exact tagNode_mkTag _ _ _ _ _ _ _ hpp
  case port => exact tagPort_mkTag _ _ _ _ _ _ _ hpp
  case kind => exact tagKind_mkTag _ _ _ _ _ _ _ hpp
  case mask =>
    intro i hi
    rw [← getLsbD_narrow v sel i hi]
    exact iff_of_eq (congrArg (· = true) (tagMask_bit _ _ _ _ _ _ _ hpp i hi))

/-- A signed byte of a route word (R28). -/
theorem sbyte_eq_toInt (x : Nat) : sbyte (x % 256) = (BitVec.ofNat 8 x).toInt := by
  unfold sbyte Num.toInt
  rw [BitVec.toInt_eq_toNat_cond, BitVec.toNat_ofNat]
  norm_num
  split <;> split <;> omega

theorem sendTo_of_unused {s : State} {pk e : Nat} {d : BitVec 32} {frame gen : Nat} {v : Operand}
    (h : d.getLsbD 31 = false ∨ d.toNat / 2 ^ 29 % 4 = 3) : s.sendTo pk e d frame gen v = s := by
  unfold State.sendTo
  refine if_pos ?_
  rw [bit_toNat, Bool.or_eq_true, decide_eq_true_eq, Bool.not_eq_true']
  exact h

/-- The fields of a destination word and the bytes of a route word (Table 6.9, R28). -/
theorem destFields (w : Nat) :
    bits w 23 16 = w / 2 ^ 16 % 256 ∧ bits w 28 24 = w / 2 ^ 24 % 32 ∧ bits w 30 29 = w / 2 ^ 29 % 4 ∧ bits w 11 8 = w / 2 ^ 8 % 16 :=
  ⟨rfl, rfl, rfl, rfl⟩

theorem routeBytes (r : Nat) : sbyte (bits r 7 0) = (BitVec.ofNat 8 r).toInt ∧ sbyte (bits r 15 8) = (BitVec.ofNat 8 (r / 256)).toInt := by
  constructor <;> rw [← sbyte_eq_toInt] <;> simp [bits]

/-- Where a destination word that names a port of a node sends its token (R26 to R28). -/
theorem sendTo_of_used {s : State} {pk e : Nat} {d : BitVec 32} {frame gen : Nat} {v : Operand}
    (h1 : d.getLsbD 31 = true) (h2 : d.toNat / 2 ^ 29 % 4 ≠ 3) :
    ∃ e' src hops, s.sendTo pk e d frame gen v = s.post pk e' src hops frame gen (d.toNat / 2 ^ 24 % 32) (d.toNat / 2 ^ 29 % 4) v.kind.toNat
        (v.result.narrow (d.toNat / 2 ^ 8 % 16)) ∧
      (let ri := d.toNat / 2 ^ 16 % 256
       let r := ((s.plane pk).routes.get (256 * (s.plane pk).tileElem pk e + ri) 0#32).toNat
       let dx := (BitVec.ofNat 8 r).toInt; let dy := (BitVec.ofNat 8 (r / 256)).toInt
       (ri = 0 → e' = e ∧ hops = 1) ∧ (ri ≠ 0 → e' = ((e : Int) + dx + 64 * dy).toNat ∧ hops = dx.natAbs + dy.natAbs)) := by
  obtain ⟨f1, f2, f3, f4⟩ := destFields d.toNat
  unfold State.sendTo
  dsimp only
  rw [f1, f2, f3, f4, bit_toNat, h1, if_neg (by simpa using h2), (routeBytes _).1, (routeBytes _).2, kind_narrow]
  generalize (BitVec.ofNat 8 _).toInt = dx
  generalize (BitVec.ofNat 8 _).toInt = dy
  by_cases hri : d.toNat / 2 ^ 16 % 256 = 0
  · rw [if_pos hri]
    exact ⟨e, _, 1, rfl, fun _ => ⟨rfl, rfl⟩, fun h => absurd hri h⟩
  · rw [if_neg hri]
    exact ⟨_, _, _, rfl, fun h => absurd h hri, fun _ => ⟨rfl, rfl⟩⟩

/-- What a destination word sends, by the statement's own words. -/
theorem sendTo_sends (s : State) (pk e : Nat) (d : BitVec 32) (frame gen : Nat) (v : Operand) :
    ∃ l, s.sendTo pk e d frame gen v = { s with flights := s.flights ++ l } ∧ Sends s pk e d frame gen v l := by
  by_cases h : d.getLsbD 31 = false ∨ d.toNat / 2 ^ 29 % 4 = 3
  · refine ⟨[], by rw [sendTo_of_unused h, List.append_nil], fun _ => rfl, fun h1 h2 => ?_⟩
    rcases h with h | h
    · rw [h] at h1; cases h1
    · exact absurd h h2
  · obtain ⟨h1, h2⟩ := not_or.mp h
    obtain ⟨e', src, hops, he, hlocal, hroute⟩ := sendTo_of_used (s := s) (pk := pk) (e := e) (frame := frame) (gen := gen) (v := v)
      (by simpa using h1) h2
    refine ⟨[_], he, fun h' => absurd h' h, fun _ _ => ⟨_, rfl, ?_⟩⟩
    have ht := isToken_flightOf s pk e' src hops frame gen (d.toNat / 2 ^ 24 % 32) (d.toNat / 2 ^ 29 % 4) v.kind.toNat (d.toNat / 2 ^ 8 % 16) v
    refine ⟨ht.plane, ht.pay, ht.par, ht.pp, ht.frame, ht.gen, ht.node.trans (Nat.mod_mod _ _), ht.port.trans (Nat.mod_mod _ _),
      ht.kind.trans (Nat.mod_eq_of_lt v.kind.isLt), ht.mask, fun hri => ?_, fun hri hpos hhops => ?_⟩
    · obtain ⟨rfl, rfl⟩ := hlocal hri
      exact ⟨rfl, rfl⟩
    · obtain ⟨rfl, rfl⟩ := hroute hri
      refine ⟨Int.toNat_of_nonneg hpos, ?_⟩
      show s.fc + _ - 1 + 1 = _
      omega

/-- Two states between which nothing has changed that a token's way depends on (R28). -/
structure SameWays (s t : State) (pk : Nat) : Prop where
  fc : t.fc = s.fc
  routes : (t.plane pk).routes = (s.plane pk).routes
  tileElem : ∀ e, (t.plane pk).tileElem pk e = (s.plane pk).tileElem pk e

theorem Sends.congr {s t : State} {pk e frame gen : Nat} {d : BitVec 32} {v : Operand} {l : List Flight} (h : SameWays s t pk)
    (g : Sends t pk e d frame gen v l) : Sends s pk e d frame gen v l := by
  unfold Sends TokenOf at g ⊢
  rwa [h.fc, h.routes, h.tileElem] at g

theorem Both.congr {s t : State} {pk e frame gen : Nat} {n : NodeBody} {v : Operand} {l : List Flight} (h : SameWays s t pk)
    (g : Both t pk e n frame gen v l) : Both s pk e n frame gen v l := by
  obtain ⟨l0, l1, hl, h0, h1⟩ := g
  exact ⟨l0, l1, hl, h0.congr h, h1.congr h⟩

/-- A result on both destinations (R26). -/
theorem sendBoth_both (s : State) (pk e : Nat) (n : NodeBody) (frame gen : Nat) (v : Operand) :
    ∃ l, s.sendBoth pk e n frame gen v = { s with flights := s.flights ++ l } ∧ Both s pk e n frame gen v l := by
  obtain ⟨l0, e0, h0⟩ := sendTo_sends s pk e n.dest0 frame gen v
  obtain ⟨l1, e1, h1⟩ := sendTo_sends (s.sendTo pk e n.dest0 frame gen v) pk e n.dest1 frame gen v
  refine ⟨l0 ++ l1, ?_, l0, l1, rfl, h0, h1.congr ⟨by rw [e0], by rw [e0]; rfl, fun _ => by rw [e0]; rfl⟩⟩
  unfold State.sendBoth
  rw [e1, e0]
  simp only [List.append_assoc]

/-! The operands of a firing. -/

/-- A plane that has a frame is in the table. -/
theorem has_of_frame {s : State} {pk f : Nat} {fr : Frame} (h : (s.plane pk).frames.find f = some fr) : s.planes.has pk = true := by
  unfold State.plane Map.get at h
  unfold Map.has
  cases hp : s.planes.find pk with
  | none => rw [hp] at h; cases h
  | some p => rfl

theorem hasFired_markFired (s : State) (pk e : Nat) : HasFired s (s.markFired pk e) pk e :=
  ⟨rfl, fun k => by unfold State.markFired; rw [Map.find_put]⟩

theorem otherPlanes_setPlane (s : State) (pk : Nat) (p : Plane) : OtherPlanes s (s.setPlane pk p) pk := fun k hk => by
  rw [find_setPlane, if_neg hk]

/-- `OtherPlanes` reads the plane table alone. -/
theorem OtherPlanes.of_planes {s t u : State} {pk : Nat} (h : OtherPlanes s t pk) (e : u.planes = t.planes) : OtherPlanes s u pk :=
  fun k hk => by rw [e]; exact h k hk

theorem OtherPlanes.trans {s t u : State} {pk : Nat} (h : OtherPlanes s t pk) (g : OtherPlanes t u pk) : OtherPlanes s u pk :=
  fun k hk => (g k hk).trans (h k hk)

theorem OtherPlanes.plane {s t : State} {pk : Nat} (h : OtherPlanes s t pk) {k : Nat} (hk : k ≠ pk) : t.plane k = s.plane k := by
  unfold State.plane Map.get
  rw [h k hk]

/-- The firing's operands have been taken from its plane, and the element has fired. -/
structure Took (s t : State) (a : Fire) : Prop where
  rest : t = { s with planes := t.planes, fired := t.fired, rr := t.rr }
  fired : HasFired s t a.pk a.e
  others : OtherPlanes s t a.pk
  plane : t.plane a.pk = { s.plane a.pk with slots := (t.plane a.pk).slots }
  consumes : Consumes a (s.plane a.pk) (t.plane a.pk)

theorem consumes_consume {n : NodeBody} {a : Fire} (hn : a.n = n) (p : Plane) : Consumes a p (p.consume n a.e a.node a.f) := by
  subst hn
  intro k
  rw [consume_slots]
  exact ⟨fun h => if_pos h, fun h => if_neg h⟩

theorem plane_markFired (s : State) (pk e k : Nat) : (s.markFired pk e).plane k = s.plane k := rfl

theorem took_takeOperands {s : State} {n : NodeBody} {a : Fire} (h : s.ready n = some a) : Took s (s.takeOperands a) a := by
  obtain ⟨-, -, -, -, hp, hn, -⟩ := ready_spec h
  have hplane : (s.takeOperands a).plane a.pk = (s.plane a.pk).consume a.n a.e a.node a.f := by
    unfold State.takeOperands
    rw [plane_markFired, State.plane_setPlane, if_pos rfl, hp]
  refine ⟨rfl, hasFired_markFired _ a.pk a.e, otherPlanes_setPlane s a.pk _, ?_, ?_⟩
  · rw [hplane]; exact consume_eq ..
  · rw [hplane]; exact consumes_consume rfl _

theorem Took.sameWays {s t : State} {a : Fire} (h : Took s t a) : SameWays s t a.pk :=
  ⟨by rw [h.rest], by rw [h.plane], fun _ => by rw [h.plane]; rfl⟩

end Sys2Proof.Claim

namespace Sys2Proof.Claim

open Sys2Proof Sys2Proof.Machine

/-! Integers as the model holds them, and vectors of equal elements. -/

theorem numToInt_eq (b x : Nat) : Num.toInt b x = (BitVec.ofNat b x).toInt := by
  cases b with
  | zero => simp [Num.toInt, Nat.mod_one, BitVec.of_length_zero]
  | succ b =>
    unfold Num.toInt
    rw [BitVec.toInt_eq_toNat_cond, BitVec.toNat_ofNat]
    have hpow : 2 ^ (b + 1) = 2 * 2 ^ b := by rw [pow_succ]; ring
    rw [Nat.add_sub_cancel]
    have hx : x % 2 ^ (b + 1) < 2 ^ (b + 1) := Nat.mod_lt _ (by positivity)
    split <;> split <;> omega

theorem cast_numOfInt (b : Nat) (v : Int) : (Num.ofInt b v : Int) = v % 2 ^ b := by
  unfold Num.ofInt
  rw [Int.toNat_of_nonneg (Int.emod_nonneg _ (by positivity))]
  push_cast
  rfl

/-- Elements fill a vector and no more. -/
theorem mul_div_width_le (b : Nat) : b * (512 / b) ≤ 512 := Nat.mul_div_le 512 b

theorem elem_mkVec_replicate (b k x j : Nat) (hj : j < k) (hk : b * k ≤ 512) : elem (mkVec b (List.replicate k x)) b j = x % 2 ^ b := by
  rw [elem_mkVec b _ j (by simpa using hj) (by simpa using hk), List.getElem_replicate]

/-- Every element of the vector that stands for an immediate (R142). -/
theorem immediate_immVec (n : NodeBody) (j : Nat) (hj : j < 512 / NodeCheck.width n.fmt.toNat) :
    ∃ x, Immediate n j x (immVec n.fmt.toNat n.operand.toNat) := by
  have ho : n.operand.toNat < 2 ^ 32 := n.operand.isLt
  unfold immVec
  dsimp only
  by_cases hb : NodeCheck.width n.fmt.toNat = 64
  · rw [if_pos hb]
    rw [hb] at hj
    have helem : ∀ x, elem (mkVec 64 (List.replicate 8 x)) 64 j = x % 2 ^ 64 := fun x => elem_mkVec_replicate 64 8 x j hj (by norm_num)
    unfold Immediate
    rw [hb]
    refine ⟨_, rfl, fun h => absurd h (lt_irrefl _), fun h => ?_, fun h => ?_, fun h => ?_⟩ <;> rw [helem]
    · rw [if_pos h]; exact Nat.mod_eq_of_lt (by omega)
    · rw [if_neg (by omega), if_pos h, Int.natCast_mod, cast_numOfInt, numToInt_eq, BitVec.ofNat_toNat, BitVec.setWidth_eq]
      exact Int.emod_emod_of_dvd _ (dvd_refl _)
    · rw [if_neg (by omega), if_neg (by omega)]; exact Nat.mod_eq_of_lt (by omega)
  · rw [if_neg hb]
    have hwide : ∀ k, n.fmt.toNat = k → NodeCheck.width k ≠ 64 := fun k h => by rw [← h]; exact hb
    refine ⟨_, rfl, fun _ => ?_, fun h => absurd rfl (hwide 11 h), fun h => absurd rfl (hwide 3 h), fun h => absurd rfl (hwide 7 h)⟩
    rw [elem_mkVec_replicate _ _ _ j hj (mul_div_width_le _)]
    exact Nat.mod_mod _ _

/-! Masks. -/

theorem mask_eq_zero_iff (m : Mask) : m = 0#16 ↔ ∀ i < 16, m.getLsbD i = false := by
  constructor
  · rintro rfl i -
    exact BitVec.getLsbD_zero
  · intro h
    apply BitVec.eq_of_getLsbD_eq
    intro i hi
    rw [h i hi, BitVec.getLsbD_zero]

theorem some'_iff (v : Operand) : Some' v ↔ v.mask ≠ 0#16 := by
  rw [Ne, mask_eq_zero_iff]
  unfold Some'
  push Not
  simp only [Bool.not_eq_false]

theorem truthMask_iff (p : Operand) (i : Nat) (hi : i < 16) : (truthMask p).getLsbD i = true ↔ True' p i := by
  rw [getLsbD_truthMask p i hi, Bool.and_eq_true, decide_eq_true_eq]
  rfl

theorem falseMask_iff (p : Operand) (i : Nat) (hi : i < 16) : (falseMask p).getLsbD i = true ↔ False' p i := by
  unfold falseMask
  rw [getLsbD_mkMask_map _ i hi, Bool.and_eq_true, decide_eq_true_eq]
  rfl

theorem truthMask_ne_zero_iff (p : Operand) : truthMask p ≠ 0#16 ↔ ∃ i < 16, True' p i := by
  rw [Ne, mask_eq_zero_iff]
  push Not
  exact exists_congr fun i => and_congr_right fun hi => by rw [Bool.ne_false_iff]; exact truthMask_iff p i hi

theorem falseMask_ne_zero_iff (p : Operand) : falseMask p ≠ 0#16 ↔ ∃ i < 16, False' p i := by
  rw [Ne, mask_eq_zero_iff]
  push Not
  exact exists_congr fun i => and_congr_right fun hi => by rw [Bool.ne_false_iff]; exact falseMask_iff p i hi

/-- A value with the lanes of a mask alone (R15, R204). -/
theorem only_masked (v : Operand) (m : Mask) (keep : Nat → Prop) (h : ∀ i < 16, m.getLsbD i = true ↔ keep i) :
    Only v keep (v.masked (v.mask &&& m)) := by
  unfold Operand.masked
  refine ⟨by dsimp only, fun i hi => ?_⟩
  have hbit : (v.mask &&& m).getLsbD i = true ↔ v.mask.getLsbD i = true ∧ keep i := by
    rw [BitVec.getLsbD_and, Bool.and_eq_true, h i hi]
  have hlane : lane (zeroOff v.val (v.mask &&& m)) i = if (v.mask &&& m).getLsbD i then lane v.val i else 0 := lane_zeroOff _ _ _ hi
  exact ⟨hbit, fun h1 h2 => by rw [hlane, if_pos (hbit.mpr ⟨h1, h2⟩)], fun hn => by rw [hlane, if_neg (fun hc => hn (hbit.mp hc))]⟩

/-- A value whose masked-off lanes are zeros has the lanes of its mask (R15). -/
theorem only_zeroOff (v : Vec) (m : Mask) (k : BitVec 4) : Only ⟨v, m, k⟩ (fun _ => True) ⟨zeroOff v m, m, k⟩ := by
  refine ⟨by dsimp only, fun i hi => ?_⟩
  have hlane := lane_zeroOff v m i hi
  exact ⟨⟨fun h => ⟨h, trivial⟩, fun h => h.1⟩, fun hm _ => hlane.trans (if_pos hm), fun hm => hlane.trans (if_neg fun hc => hm ⟨hc, trivial⟩)⟩

/-! Firings that pass their operands on. -/

theorem whenReady_of_ready {s : State} {n : NodeBody} {a : Fire} (h : s.ready n = some a) (f : Fire → State) :
    s.whenReady n f = .next (f a) := by
  unfold State.whenReady
  rw [h]

/-- A firing that takes its operands and sends `l`. -/
theorem passesOn_of_took {i : Instr} {s : State} {n : NodeBody} {a : Fire} {sent : List Flight → Prop} {l : List Flight} (h : s.ready n = some a)
    (he : exec i s = .next { s.takeOperands a with flights := s.flights ++ l }) (hl : sent l) : PassesOn i s a sent := by
  have ht := took_takeOperands h
  exact ⟨_, l, he, rfl, ht.fired, ht.others, ht.plane, ht.consumes, hl⟩

/-- A token that goes only where some lane is live (R204). -/
theorem sendTo_live {s t : State} {pk : Nat} (h : SameWays s t pk) (e : Nat) (d : BitVec 32) (frame gen : Nat) (v : Operand) :
    ∃ l, (if v.mask = 0#16 then t else t.sendTo pk e d frame gen v) = { t with flights := t.flights ++ l } ∧
      (Some' v → Sends s pk e d frame gen v l) ∧ (¬Some' v → l = []) := by
  rw [some'_iff]
  by_cases hv : v.mask = 0#16
  · exact ⟨[], by rw [if_pos hv, List.append_nil], fun h => absurd hv h, fun _ => rfl⟩
  · obtain ⟨l, hl, hs⟩ := sendTo_sends t pk e d frame gen v
    exact ⟨l, by rw [if_neg hv, hl], fun _ => hs.congr h, fun h => absurd hv h⟩

theorem SameWays.of_flights {s t : State} {pk : Nat} (h : SameWays s t pk) (l : List Flight) : SameWays s { t with flights := l } pk :=
  ⟨h.fc, h.routes, h.tileElem⟩

section

variable {s : State} {n : NodeBody} {a : Fire} (h : s.ready n = some a)
include h

theorem steer_passesOn : PassesOn (.nSteer n) s a (fun l => ∃ T F l0 l1, l = l0 ++ l1 ∧ Only a.l (True' a.pr) T ∧ Only a.l (False' a.pr) F ∧
    (Some' T → Sends s a.pk a.e n.dest0 a.f a.fr.gen T l0) ∧ (¬Some' T → l0 = []) ∧
    (Some' F → Sends s a.pk a.e n.dest1 a.f a.fr.gen F l1) ∧ (¬Some' F → l1 = [])) := by
  have hw := (took_takeOperands h).sameWays
  obtain ⟨l0, e0, s0, n0⟩ := sendTo_live hw a.e n.dest0 a.f a.fr.gen (a.l.masked (a.l.mask &&& truthMask a.pr))
  obtain ⟨l1, e1, s1, n1⟩ := sendTo_live (hw.of_flights ((s.takeOperands a).flights ++ l0)) a.e n.dest1 a.f a.fr.gen
    (a.l.masked (a.l.mask &&& falseMask a.pr))
  refine passesOn_of_took (l := l0 ++ l1) h ((whenReady_of_ready h _).trans ?_) ⟨_, _, l0, l1, rfl, only_masked _ _ _ (truthMask_iff a.pr),
    only_masked _ _ _ (falseMask_iff a.pr), s0, n0, s1, n1⟩
  dsimp only
  rw [e0, e1, ← List.append_assoc]
  rfl

theorem gate_passesOn : PassesOn (.nGate n) s a
    (fun l => ∃ T, Only a.l (True' a.pr) T ∧ (Some' T → Both s a.pk a.e n a.f a.fr.gen T l) ∧ (¬Some' T → l = [])) := by
  have hw := (took_takeOperands h).sameWays
  have he := whenReady_of_ready h (fun a =>
    if (a.l.masked (a.l.mask &&& truthMask a.pr)).mask = 0#16 then s.takeOperands a
    else (s.takeOperands a).out a (a.l.masked (a.l.mask &&& truthMask a.pr)))
  have ht := only_masked a.l _ _ (truthMask_iff a.pr)
  by_cases hz : (a.l.masked (a.l.mask &&& truthMask a.pr)).mask = 0#16
  · refine passesOn_of_took (l := []) h (he.trans ?_) ⟨_, ht, fun hs => absurd hz ((some'_iff _).mp hs), fun _ => rfl⟩
    rw [if_pos hz, List.append_nil]
    rfl
  · obtain ⟨-, -, -, -, -, hn, -⟩ := ready_spec h
    obtain ⟨l, el, hl⟩ := sendBoth_both (s.takeOperands a) a.pk a.e n a.f a.fr.gen (a.l.masked (a.l.mask &&& truthMask a.pr))
    refine passesOn_of_took (l := l) h (he.trans ?_) ⟨_, ht, fun _ => hl.congr hw, fun hs => absurd ((some'_iff _).mpr hz) hs⟩
    rw [if_neg hz]
    unfold State.out
    rw [hn, el]
    rfl

/-- A firing that sends one value on both destinations. -/
theorem passesOn_out {i : Instr} {v : Operand} (he : exec i s = .next ((s.takeOperands a).out a v)) :
    PassesOn i s a (Both s a.pk a.e n a.f a.fr.gen v) := by
  obtain ⟨-, -, -, -, -, hn, -⟩ := ready_spec h
  obtain ⟨l, el, hl⟩ := sendBoth_both (s.takeOperands a) a.pk a.e n a.f a.fr.gen v
  refine passesOn_of_took (l := l) h (he.trans ?_) (hl.congr (took_takeOperands h).sameWays)
  unfold State.out
  rw [hn, el]
  rfl

theorem const_passesOn : PassesOn (.nConst n) s a (fun l => ∃ V T, (∀ j < 512 / NodeCheck.width n.fmt.toNat, ∃ x, Immediate n j x V) ∧
    Only ⟨V, a.l.mask, 0#4⟩ (fun _ => True) T ∧ Both s a.pk a.e n a.f a.fr.gen T l) := by
  obtain ⟨t, l, he, hrest, hfired, hothers, hplane, hconsumes, hl⟩ := passesOn_out (i := .nConst n) h (whenReady_of_ready h (fun a =>
    (s.takeOperands a).out a ⟨zeroOff (immVec n.fmt.toNat n.operand.toNat) a.l.mask, a.l.mask, 0#4⟩))
  exact ⟨t, l, he, hrest, hfired, hothers, hplane, hconsumes, _, _, immediate_immVec n, only_zeroOff _ _ _, hl⟩

theorem sink_passesOn : PassesOn (.nSink n) s a (fun l => l = []) := by
  refine passesOn_of_took (l := []) h ((whenReady_of_ready h _).trans ?_) rfl
  rw [List.append_nil]
  rfl

end

/-! MERGE (R205). -/

/-- What MERGE makes of L, R and its selector: each lane from the side that the selector names. -/
def mergeMask (l r q : Operand) : Mask := (l.mask &&& truthMask q) ||| (r.mask &&& falseMask q)
def mergeVec (l r q : Operand) : Vec := mkVec 32 ((List.range 16).map (fun i =>
  if !(mergeMask l r q).getLsbD i then 0 else if (truthMask q).getLsbD i then lane l.val i else lane r.val i))

theorem mergeMask_iff (l r q : Operand) (i : Nat) (hi : i < 16) :
    (mergeMask l r q).getLsbD i = true ↔ (l.mask.getLsbD i = true ∧ True' q i) ∨ (r.mask.getLsbD i = true ∧ False' q i) := by
  unfold mergeMask
  rw [BitVec.getLsbD_or, BitVec.getLsbD_and, BitVec.getLsbD_and, Bool.or_eq_true, Bool.and_eq_true, Bool.and_eq_true, truthMask_iff q i hi,
    falseMask_iff q i hi]

theorem lane_mergeVec (l r q : Operand) (i : Nat) (hi : i < 16) : lane (mergeVec l r q) i =
    if !(mergeMask l r q).getLsbD i then 0 else if (truthMask q).getLsbD i then lane l.val i else lane r.val i := by
  unfold mergeVec
  rw [lane_mkVec _ i hi, Nat.mod_eq_of_lt]
  split
  · norm_num
  · split <;> exact lane_lt _ _

theorem not_false'_of_true' {q : Operand} {i : Nat} (h : True' q i) : ¬False' q i := fun g => h.2 g.2

/-- The lanes of a merge, side by side; a side that is not called for may be anything. -/
theorem merge_lanes {l r l' r' q : Operand} (hl : (∃ i < 16, True' q i) → l' = l) (hr : (∃ i < 16, False' q i) → r' = r) (i : Nat) (hi : i < 16) :
    (True' q i → (mergeMask l' r' q).getLsbD i = l.mask.getLsbD i ∧ lane (mergeVec l' r' q) i = if l.mask.getLsbD i then lane l.val i else 0) ∧
    (False' q i → (mergeMask l' r' q).getLsbD i = r.mask.getLsbD i ∧ lane (mergeVec l' r' q) i = if r.mask.getLsbD i then lane r.val i else 0) ∧
    (q.mask.getLsbD i = false → (mergeMask l' r' q).getLsbD i = false ∧ lane (mergeVec l' r' q) i = 0) := by
  have hm := mergeMask_iff l' r' q i hi
  rw [lane_mergeVec l' r' q i hi]
  refine ⟨fun ht => ?_, fun hf => ?_, fun hq => ?_⟩
  · rw [hl ⟨i, hi, ht⟩] at hm ⊢
    have hbit : (mergeMask l r' q).getLsbD i = l.mask.getLsbD i := by
      rw [Bool.eq_iff_iff, hm]
      simp [ht, not_false'_of_true' ht]
    rw [hbit, (truthMask_iff q i hi).mpr ht]
    cases l.mask.getLsbD i <;> exact ⟨rfl, rfl⟩
  · have ht : ¬True' q i := fun ht => not_false'_of_true' ht hf
    rw [hr ⟨i, hi, hf⟩] at hm ⊢
    have hbit : (mergeMask l' r q).getLsbD i = r.mask.getLsbD i := by
      rw [Bool.eq_iff_iff, hm]
      simp [ht, hf]
    rw [hbit, if_neg (fun hc => ht ((truthMask_iff q i hi).mp hc))]
    cases r.mask.getLsbD i <;> exact ⟨rfl, rfl⟩
  · have hbit : (mergeMask l' r' q).getLsbD i = false := by
      rw [← Bool.not_eq_true, hm]
      unfold True' False'
      simp [hq]
    rw [hbit]
    exact ⟨rfl, rfl⟩

/-- The slots that MERGE empties: P's, and those of the sides that P calls for. -/
def mergeTake (p : Plane) (e node f : Nat) (needL needR : Prop) [Decidable needL] [Decidable needR] : Plane :=
  let p := p.take e node f 2
  let p := if needL then p.take e node f 0 else p
  if needR then p.take e node f 1 else p

theorem find_mergeTake (p : Plane) (e node f : Nat) (needL needR : Prop) [Decidable needL] [Decidable needR] (k : Nat) :
    (mergeTake p e node f needL needR).slots.find k = if k = slotKey node f 2 e ∨ (k = slotKey node f 0 e ∧ needL) ∨
      (k = slotKey node f 1 e ∧ needR) then none else p.slots.find k := by
  unfold mergeTake Plane.take
  by_cases hL : needL <;> by_cases hR : needR <;> simp only [hL, hR, if_true, if_false, and_true, and_false, or_false, Map.find_del] <;>
    grind

theorem mergeTake_eq (p : Plane) (e node f : Nat) (needL needR : Prop) [Decidable needL] [Decidable needR] :
    mergeTake p e node f needL needR = { p with slots := (mergeTake p e node f needL needR).slots } := by
  unfold mergeTake Plane.take
  split_ifs <;> rfl

end Sys2Proof.Claim

namespace Sys2Proof.Claim

open Sys2Proof Sys2Proof.Machine

/-- What MERGE reads, when it declares L, R and P and nothing is sticky: the slots of its ports (R205). -/
theorem readPort_merge {s : State} {n : NodeBody} (hinp : n.inp = 0b1110#4) (hfire : n.fire = 0#4) (port : Nat) (hport : port < 3) :
    s.readPort n port = (s.plane s.site.plane).slots.find (slotKey s.site.node s.site.frame port s.site.elem) := by
  have hL : n.hasL = true := by unfold NodeBody.hasL; rw [hinp]; rfl
  have hR : n.hasR = true := by unfold NodeBody.hasR; rw [hinp]; rfl
  have hP : n.hasP = true := by unfold NodeBody.hasP; rw [hinp]; rfl
  have hI : n.hasImm = false := by unfold NodeBody.hasImm; rw [hinp]; rfl
  have hsL : n.stickyL = false := by unfold NodeBody.stickyL; rw [hfire]; rfl
  have hsR : n.stickyR = false := by unfold NodeBody.stickyR; rw [hfire]; rfl
  unfold State.readPort Plane.at_
  interval_cases port <;> simp [hL, hR, hP, hI, hsL, hsR]

/-- MERGE fires once each side that P calls for is there (R205). -/
theorem execNMerge_eq {s : State} {n : NodeBody} {fr : Frame} {l r q : Operand} (hfr : s.mayFire = some fr) (hq : s.readPort n 2 = some q)
    (hl : (if truthMask q ≠ 0#16 then s.readPort n 0 else some noOperand) = some l)
    (hr : (if falseMask q ≠ 0#16 then s.readPort n 1 else some noOperand) = some r) :
    execNMerge n s = .next (((s.setPlane s.site.plane (mergeTake (s.plane s.site.plane) s.site.elem s.site.node s.site.frame
      (truthMask q ≠ 0#16) (falseMask q ≠ 0#16))).markFired s.site.plane s.site.elem).sendBoth s.site.plane s.site.elem n s.site.frame fr.gen
      ⟨mergeVec l r q, mergeMask l r q, if truthMask q ≠ 0#16 then l.kind else r.kind⟩) := by
  unfold execNMerge
  dsimp only
  rw [hfr, hq]
  dsimp only
  rw [hl, hr]
  rfl

/-- The operand of a side: the token there when P calls for it, and else none is read. -/
theorem side_eq {need : Prop} [Decidable need] {x : Option Operand} {v : Operand} (h : need → x = some v) :
    ∃ v', (if need then x else some noOperand) = some v' ∧ (need → v' = v) := by
  by_cases hn : need
  · exact ⟨v, by rw [if_pos hn, h hn], fun _ => rfl⟩
  · exact ⟨noOperand, if_neg hn, fun h => absurd h hn⟩

theorem plane_fired (s : State) (pk e : Nat) (p : Plane) : ((s.setPlane pk p).markFired pk e).plane pk = p := by
  rw [plane_markFired, State.plane_setPlane, if_pos rfl]

theorem slots_alone {p q : Plane} {m : Map Operand} (h : q = { p with slots := m }) : q = { p with slots := q.slots } := by
  subst h
  rfl

/-- Where the slots of a plane alone have changed and an element has fired, tokens take the ways that they took (R22, R23). -/
theorem sameWays_fired {s : State} {pk e : Nat} {p : Plane} {m : Map Operand} (h : p = { s.plane pk with slots := m }) :
    SameWays s ((s.setPlane pk p).markFired pk e) pk := by
  have hp := plane_fired s pk e p
  rw [h] at hp
  rw [h]
  exact ⟨rfl, by rw [hp], fun e => by rw [hp]; rfl⟩

end Sys2Proof.Claim

namespace Sys2Proof

open Sys2Proof.Machine Sys2Proof.Claim

/-- Settles O35: STEER, GATE, COPY, CONST and SINK take their operands and send what their selector leaves; MERGE takes P and the sides
that P calls for, and blends them lane by lane. -/
theorem routingNodesSendTheirLanes : Obligations.RoutingNodesSendTheirLanes := by
  unfold Obligations.RoutingNodesSendTheirLanes
  refine ⟨fun s n a h => ⟨steer_passesOn h, gate_passesOn h, passesOn_out h (whenReady_of_ready h _), const_passesOn h, sink_passesOn h⟩, ?_⟩
  intro s n fr l r q hinp hfire hfr
  dsimp only
  intro hq hl hr
  simp only [← readPort_merge hinp hfire _ (by norm_num : 0 < 3), ← readPort_merge hinp hfire _ (by norm_num : 1 < 3),
    ← readPort_merge hinp hfire _ (by norm_num : 2 < 3)] at hq hl hr
  rw [← truthMask_ne_zero_iff] at hl ⊢
  rw [← falseMask_ne_zero_iff] at hr ⊢
  obtain ⟨l', el, hl'⟩ := side_eq hl
  obtain ⟨r', er, hr'⟩ := side_eq hr
  have ht := mergeTake_eq (s.plane s.site.plane) s.site.elem s.site.node s.site.frame (truthMask q ≠ 0#16) (falseMask q ≠ 0#16)
  have hp := plane_fired s s.site.plane s.site.elem (mergeTake (s.plane s.site.plane) s.site.elem s.site.node s.site.frame (truthMask q ≠ 0#16)
    (falseMask q ≠ 0#16))
  have hfind := fun k => (congrArg (fun p : Plane => p.slots.find k) hp).trans (find_mergeTake _ _ _ _ _ _ k)
  obtain ⟨sent, es, hs⟩ := sendBoth_both ((s.setPlane s.site.plane (mergeTake (s.plane s.site.plane) s.site.elem s.site.node s.site.frame
    (truthMask q ≠ 0#16) (falseMask q ≠ 0#16))).markFired s.site.plane s.site.elem) s.site.plane s.site.elem n s.site.frame fr.gen
    ⟨mergeVec l' r' q, mergeMask l' r' q, if truthMask q ≠ 0#16 then l'.kind else r'.kind⟩
  refine ⟨_, sent, _, _, _, (execNMerge_eq hfr hq el er).trans (congrArg Host.Outcome.next es), rfl, hasFired_markFired _ _ _,
    otherPlanes_setPlane s _ _, slots_alone (hp.trans ht), fun k => ⟨fun h => (hfind k).trans (if_pos h), fun h => (hfind k).trans (if_neg h)⟩,
    fun h => ?_, fun h1 h2 => ?_, hs.congr (sameWays_fired ht),
    merge_lanes (fun h => hl' ((truthMask_ne_zero_iff q).mpr h)) (fun h => hr' ((falseMask_ne_zero_iff q).mpr h))⟩
  · rw [if_pos h, hl' h]
  · rw [if_neg h1, hr' h2]

end Sys2Proof

namespace Sys2Proof.Claim

open Sys2Proof Sys2Proof.Machine

/-! A compute node's firing: what it sends, raises and leaves (R21, R22, R26, R57). -/

/-- An element has fired, its plane has become `p`, and nothing else has changed (R23). -/
structure FiredTo (s t : State) (pk e : Nat) (p : Plane) : Prop where
  rest : t = { s with planes := t.planes, fired := t.fired, rr := t.rr }
  fired : HasFired s t pk e
  others : OtherPlanes s t pk
  plane : t.plane pk = p

theorem firedTo_takeOperands {s : State} {n : NodeBody} {a : Fire} (h : s.ready n = some a) :
    FiredTo s (s.takeOperands a) a.pk a.e ((s.plane a.pk).consume a.n a.e a.node a.f) := by
  obtain ⟨-, -, -, -, hp, -⟩ := ready_spec h
  have ht := took_takeOperands h
  exact ⟨ht.rest, ht.fired, ht.others, by unfold State.takeOperands; rw [plane_markFired, State.plane_setPlane, if_pos rfl, hp]⟩

section

variable {s t : State} {pk e : Nat} {p : Plane} (h : FiredTo s t pk e p)
include h

theorem FiredTo.fc_eq : t.fc = s.fc := by rw [h.rest]
theorem FiredTo.flights_eq : t.flights = s.flights := by rw [h.rest]

theorem FiredTo.setPlane (q : Plane) : FiredTo s (t.setPlane pk q) pk e q := by
  refine ⟨?_, h.fired, h.others.trans (otherPlanes_setPlane t pk q), by rw [State.plane_setPlane, if_pos rfl]⟩
  conv_lhs => rw [h.rest]
  rfl

/-- With tokens sent, the rest of the state is as it was. -/
theorem FiredTo.rest_sent (l : List Flight) : { t with flights := s.flights ++ l } =
    { s with planes := t.planes, fired := t.fired, rr := t.rr, flights := s.flights ++ l } := by
  conv_lhs => rw [h.rest]

/-- Tokens sent after a firing take the ways that the plane had before it, where its routes and its tile are the same. -/
theorem FiredTo.sameWays (hr : p.routes = (s.plane pk).routes) (hw : p.tw = (s.plane pk).tw) (hh : p.th = (s.plane pk).th) : SameWays s t pk :=
  ⟨h.fc_eq, by rw [h.plane, hr], fun e => by rw [h.plane]; unfold Plane.tileElem; rw [hw, hh]⟩

theorem FiredTo.sendBoth (hr : p.routes = (s.plane pk).routes) (hw : p.tw = (s.plane pk).tw) (hh : p.th = (s.plane pk).th) (e' : Nat)
    (n : NodeBody) (frame gen : Nat) (v : Operand) :
    ∃ l, t.sendBoth pk e' n frame gen v = { t with flights := s.flights ++ l } ∧ Both s pk e' n frame gen v l := by
  obtain ⟨l, hl, hb⟩ := sendBoth_both t pk e' n frame gen v
  exact ⟨l, by rw [hl, h.flights_eq], hb.congr (h.sameWays hr hw hh)⟩

/-- Flags of a live frame go to its own set, and nothing else of its plane changes (R21). -/
theorem FiredTo.flag {f : Nat} {fr : Frame} (hf : p.frames.find f = some fr) (fl : Nat) :
    ∃ m, FiredTo s (t.flag pk f fr.gen fl) pk e { p with frames := m } ∧
      ∀ g, m.find g = if g = f then some { fr with flags := fr.flags ||| BitVec.ofNat 6 fl } else p.frames.find g := by
  by_cases hz : fl = 0
  · have hflag : t.flag pk f fr.gen fl = t := if_pos hz
    rw [hflag]
    refine ⟨p.frames, h, fun g => ?_⟩
    split
    next hg => rw [hg, hf, hz]; simp
    next => rfl
  · have hflag : (t.plane pk).flag f fr.gen fl = { p with frames := p.frames.put f { fr with flags := fr.flags ||| BitVec.ofNat 6 fl } } := by
      unfold Plane.flag Plane.frame?
      rw [h.plane, hf]
      exact if_pos rfl
    have hset : t.flag pk f fr.gen fl = t.setPlane pk ((t.plane pk).flag f fr.gen fl) := by
      unfold State.flag State.onFlags
      rw [if_neg hz, if_pos (has_of_frame (by rw [h.plane]; exact hf))]
    rw [hset, hflag]
    exact ⟨_, h.setPlane _, fun g => Map.find_put _ _ _ _⟩

end

theorem applyFired_eq (s : State) (a : Fire) (o : Fired) : s.applyFired a o =
    (s.flag a.pk a.f a.fr.gen o.rnd.fl).setPlane a.pk { (s.flag a.pk a.f a.fr.gen o.rnd.fl).plane a.pk with
      lfsr := if o.rnd.s = a.rnd.s then ((s.flag a.pk a.f a.fr.gen o.rnd.fl).plane a.pk).lfsr
        else ((s.flag a.pk a.f a.fr.gen o.rnd.fl).plane a.pk).lfsr.put a.e o.rnd.s
      pend := ((s.flag a.pk a.f a.fr.gen o.rnd.fl).plane a.pk).pend ++ o.pend
      held := if a.n.qs then ((s.flag a.pk a.f a.fr.gen o.rnd.fl).plane a.pk).held.put (32 * a.e + a.node) (o.val, o.mask, o.kind)
        else ((s.flag a.pk a.f a.fr.gen o.rnd.fl).plane a.pk).held } := rfl

/-- The stochastic-rounding registers after a firing that leaves S in its element's (R56). -/
theorem srReg_put {p q : Plane} {pk : Nat} (hseed : q.seed = p.seed) {e : Nat} {S : BitVec 32}
    (hlfsr : q.lfsr = if S = p.srReg pk e then p.lfsr else p.lfsr.put e S) (e' : Nat) :
    q.srReg pk e' = if e' = e then S else p.srReg pk e' := by
  by_cases hS : S = p.srReg pk e
  · rw [if_pos hS] at hlfsr
    have hq : ∀ e', q.srReg pk e' = p.srReg pk e' := fun e' => by unfold Plane.srReg; rw [hlfsr, hseed]
    rw [hq]
    split
    next h => rw [h, hS]
    next => rfl
  · rw [if_neg hS] at hlfsr
    unfold Plane.srReg
    rw [hlfsr, hseed, Map.get_put]

/-- A compute node that is ready and does not skip fires with what it computes. -/
theorem fires_of_compute {i : Instr} {s : State} {n : NodeBody} {a : Fire} {compute : Fire → Fired} (h : Ready s n a)
    (he : exec i s = s.fire n compute) :
    Fires i s a ⟨(compute a).val, (compute a).mask, (compute a).kind⟩ (compute a).rnd.fl (compute a).rnd.s (compute a).pend := by
  obtain ⟨hready, hskip⟩ := h
  obtain ⟨-, -, -, -, hp, hn, -, hframe, -, -, -, -, -, hrnd⟩ := ready_spec hready
  have hc := consume_eq (s.plane a.pk) a.n a.e a.node a.f
  have ht := firedTo_takeOperands hready
  have hfire : exec i s = .next (((s.takeOperands a).applyFired a (compute a)).sendBoth a.pk a.e n a.f a.fr.gen
      ⟨(compute a).val, (compute a).mask, (compute a).kind⟩) := by
    rw [he]
    unfold State.fire
    rw [hready]
    dsimp only
    rw [hskip]
  generalize compute a = o at hfire ⊢
  obtain ⟨m, hm, hfind⟩ := ht.flag (f := a.f) (fr := a.fr) (by rw [hc, ← hframe, hp]) o.rnd.fl
  rw [applyFired_eq, hm.plane, hc, congrArg Num.Rnd.s hrnd] at hfire
  have hset := hm.setPlane { (s.plane a.pk) with
    slots := ((s.plane a.pk).consume a.n a.e a.node a.f).slots
    frames := m
    lfsr := if o.rnd.s = (s.plane a.pk).srReg a.pk a.e then (s.plane a.pk).lfsr else (s.plane a.pk).lfsr.put a.e o.rnd.s
    pend := (s.plane a.pk).pend ++ o.pend
    held := if a.n.qs then (s.plane a.pk).held.put (32 * a.e + a.node) (o.val, o.mask, o.kind) else (s.plane a.pk).held }
  obtain ⟨l, hl, hboth⟩ := hset.sendBoth rfl rfl rfl a.e n a.f a.fr.gen ⟨o.val, o.mask, o.kind⟩
  have hplane := hset.plane.symm
  refine ⟨_, hfire.trans (congrArg Host.Outcome.next hl), hset.rest_sent l, hset.fired, hset.others, ⟨l, rfl, by rw [hn]; exact hboth⟩,
    hplane.subst (motive := fun q : Plane => q = { s.plane a.pk with
      slots := q.slots, frames := q.frames, lfsr := q.lfsr, held := q.held, pend := (s.plane a.pk).pend ++ o.pend }) rfl,
    hplane.subst (motive := Consumes a (s.plane a.pk)) fun k => consumes_consume rfl (s.plane a.pk) k,
    hplane.subst (motive := fun q : Plane => Flagged a (s.plane a.pk) q o.rnd.fl) fun g => by rw [hfind g, hc],
    hplane.subst (motive := fun q : Plane => ∀ e, q.srReg a.pk e = if e = a.e then o.rnd.s else (s.plane a.pk).srReg a.pk e) fun e' => ?_,
    hplane.subst (motive := fun q : Plane => ∀ k, q.held.find k = if a.n.qs = true ∧ k = 32 * a.e + a.node then some (o.val, o.mask, o.kind)
      else (s.plane a.pk).held.find k) fun k => ?_⟩
  · refine srReg_put (p := s.plane a.pk) ?_ ?_ e' <;> rfl
  · cases hqs : a.n.qs
    · simp
    · simp [Map.find_put]

end Sys2Proof.Claim

namespace Sys2Proof.Claim

open Sys2Proof Sys2Proof.Machine

/-! Element-wise nodes: which elements they compute, and how the results stand in the lanes (R15, R187, R188). -/

theorem on_iff (a : Fire) (i : Nat) (hi : i < 16) : a.on.getLsbD i = true ↔ On a i := by
  unfold Fire.on On
  cases hP : a.n.hasP
  · have hone : ∀ i : Fin 16, (0xFFFF#16).getLsbD i.val = true := by decide
    simp [hone ⟨i, hi⟩]
  · rw [if_pos rfl, truthMask_iff a.pr i hi]
    simp [True']

theorem deciding_lt (b i : Nat) (hi : i < 16) : deciding b i < 16 := by
  unfold deciding
  split <;> omega

theorem live_iff (a : Fire) (i : Nat) (hi : i < 16) : a.live.getLsbD i = true ↔ Live a (NodeCheck.width a.n.fmt.toNat) i := by
  unfold Fire.live Live
  have hd := deciding_lt (NodeCheck.width a.n.fmt.toNat) i hi
  rw [getLsbD_normMask _ _ i hi, ← on_iff a _ hd]
  unfold deciding
  split <;> simp [and_assoc]

theorem width_pos (fmt : Nat) : 0 < NodeCheck.width fmt := by
  unfold NodeCheck.width
  split <;> norm_num

theorem elemLive_iff (a : Fire) (j : Nat) (hj : j < 512 / NodeCheck.width a.n.fmt.toNat) :
    elemLive a.live (NodeCheck.width a.n.fmt.toNat) j = true ↔ Live a (NodeCheck.width a.n.fmt.toNat) (NodeCheck.width a.n.fmt.toNat * j / 32) := by
  have h : NodeCheck.width a.n.fmt.toNat * j < 512 :=
    (Nat.mul_lt_mul_of_pos_left hj (width_pos _)).trans_le (mul_div_width_le _)
  exact live_iff a _ (by omega)

/-- The result of a node that computes its live lanes (R15, R188). -/
theorem blends_finish (a : Fire) (V : Vec) :
    Blends a (Live a (NodeCheck.width a.n.fmt.toNat)) V (a.finish V a.live).1 (a.finish V a.live).2 := by
  intro i hi
  have hon := on_iff a i hi
  have hlive := live_iff a i hi
  generalize Live a (NodeCheck.width a.n.fmt.toNat) i = L at hlive
  unfold Passes Fire.finish
  by_cases hg : (a.n.gate && a.n.hasP) = true
  · rw [if_pos hg]
    obtain ⟨hgate, -⟩ := (Bool.and_eq_true _ _).mp hg
    have hlane := lane_mkVec (fun i => if a.on.getLsbD i then (if a.live.getLsbD i then lane V i else 0)
      else if a.l.mask.getLsbD i then lane a.l.val i else 0) i hi
    dsimp only at hlane ⊢
    rw [hlane, BitVec.getLsbD_or, BitVec.getLsbD_and, BitVec.getLsbD_and, BitVec.getLsbD_not]
    have hV : lane V i < 4294967296 := lane_lt V i
    have hl : lane a.l.val i < 4294967296 := lane_lt a.l.val i
    constructor
    · rintro ⟨-, hoff⟩
      have hoff' : a.on.getLsbD i = false := Bool.eq_false_iff.mpr fun h => hoff (hon.mp h)
      rw [hoff']
      cases a.l.mask.getLsbD i <;> simp [hi, hl]
    · intro hpass
      have hon' : a.on.getLsbD i = true := hon.mpr (by_contra fun h => hpass ⟨hgate, h⟩)
      rw [hon', ← hlive]
      cases a.live.getLsbD i <;> simp [hV]
  · rw [if_neg hg]
    dsimp only
    rw [lane_zeroOff V a.live i hi, ← hlive]
    refine ⟨fun ⟨hgate, hoff⟩ => ?_, fun _ => ⟨Iff.rfl, fun h => if_pos h, fun h => if_neg h⟩⟩
    have hP : a.n.hasP = false := by
      cases hP : a.n.hasP
      · rfl
      · exact absurd (by rw [hgate, hP]; rfl) hg
    exact absurd (fun h => by rw [hP] at h; cases h) hoff

/-- What computing elements one after the other gives, when an element's result does not depend on the rounding state and it raises
OF or nothing: each live element's result, S as it was, and OF when some live element raises it. -/
theorem overElems_raise (b : Nat) (m : Mask) (r : Num.Rnd) (val fl : Nat → Nat) (hfl : ∀ j, fl j = 0 ∨ fl j = 4) (hr : r.fl = 0) :
    ∃ l R, overElems b m r (fun j r => (val j, r.raise (fl j))) = (l, R) ∧ l.length = 512 / b ∧
      (∀ j < 512 / b, elemLive m b j = true → l[j]? = some (val j)) ∧ R.s = r.s ∧
      ((∃ j < 512 / b, elemLive m b j = true ∧ fl j = 4) → R.fl = 4) ∧ ((∀ j < 512 / b, elemLive m b j = true → fl j = 0) → R.fl = 0) := by
  obtain ⟨R, l, he, hlen, h0, hstep⟩ := overElems_aux b m r (fun j r => (val j, r.raise (fl j))) (512 / b)
  have hrun : ∀ k ≤ 512 / b, (R k).s = r.s ∧ ((R k).fl = 0 ∨ (R k).fl = 4) ∧ ((∃ j < k, elemLive m b j = true ∧ fl j = 4) → (R k).fl = 4) ∧
      ((∀ j < k, elemLive m b j = true → fl j = 0) → (R k).fl = 0) := by
    intro k
    induction k with
    | zero => exact fun _ => by rw [h0, hr]; exact ⟨rfl, .inl rfl, fun ⟨j, hj, _⟩ => absurd hj j.not_lt_zero, fun _ => rfl⟩
    | succ k ih =>
      intro hk
      obtain ⟨hs, hor, hsome, hnone⟩ := ih (by omega)
      cases hlive : elemLive m b k with
      | false =>
        rw [((hstep k (by omega)).2 hlive).2]
        refine ⟨hs, hor, fun ⟨j, hj, hl, h4⟩ => hsome ⟨j, ?_, hl, h4⟩, fun h => hnone fun j hj => h j (by omega)⟩
        refine lt_of_le_of_ne (by omega) fun e => ?_
        rw [e, hlive] at hl
        cases hl
      | true =>
        rw [((hstep k (by omega)).1 hlive).2]
        unfold Num.Rnd.raise
        dsimp only
        rcases hfl k with h | h <;> rw [h]
        · rw [Nat.or_zero]
          refine ⟨hs, hor, fun ⟨j, hj, hl, h4⟩ => hsome ⟨j, ?_, hl, h4⟩, fun h => hnone fun j hj => h j (by omega)⟩
          exact lt_of_le_of_ne (by omega) fun e => by rw [e, h] at h4; cases h4
        · have hfour : (R k).fl ||| 4 = 4 := by rcases hor with h | h <;> rw [h] <;> rfl
          rw [hfour]
          exact ⟨hs, .inr rfl, fun _ => rfl, fun hall => by rw [hall k (by omega) hlive] at h; cases h⟩
  obtain ⟨hs, -, hsome, hnone⟩ := hrun _ (le_refl _)
  exact ⟨l, R (512 / b), he, hlen, fun j hj hl => ((hstep j hj).1 hl).1, hs, hsome, hnone⟩

/-- An element-wise node whose elements each raise OF or nothing. -/
theorem elementwise_spec (a : Fire) (val fl : Nat → Nat) (hfl : ∀ j, fl j = 0 ∨ fl j = 4) (hr : a.rnd.fl = 0) :
    let o := elementwise a (fun j r => (val j, r.raise (fl j))); let b := NodeCheck.width a.n.fmt.toNat
    o.kind = 0#4 ∧ o.pend = [] ∧ o.rnd.s = a.rnd.s ∧ ∃ V, Blends a (Live a b) V o.val o.mask ∧
      (∀ j < 512 / b, Live a b (b * j / 32) → elem V b j = val j % 2 ^ b) ∧
      ((∃ j < 512 / b, Live a b (b * j / 32) ∧ fl j = 4) → o.rnd.fl = 4) ∧ ((∀ j < 512 / b, Live a b (b * j / 32) → fl j = 0) → o.rnd.fl = 0) := by
  intro o b
  obtain ⟨l, R, he, hlen, hval, hs, hsome, hnone⟩ := overElems_raise b a.live a.rnd val fl hfl hr
  have ho : o = { val := (a.finish (mkVec b l) a.live).1, mask := (a.finish (mkVec b l) a.live).2, rnd := R } := by
    unfold o elementwise
    dsimp only
    rw [he]
  rw [ho]
  refine ⟨rfl, rfl, hs, mkVec b l, blends_finish a _, fun j hj hl => ?_, fun ⟨j, hj, hl, h4⟩ => hsome ⟨j, hj, (elemLive_iff a j hj).mpr hl, h4⟩,
    fun h => hnone fun j hj hl => h j hj ((elemLive_iff a j hj).mp hl)⟩
  have hget := hval j hj ((elemLive_iff a j hj).mpr hl)
  obtain ⟨hlt, hget⟩ := List.getElem?_eq_some_iff.mp hget
  rw [elem_mkVec b l j hlt (by rw [hlen]; exact mul_div_width_le b), hget]

end Sys2Proof.Claim

namespace Sys2Proof.Claim

open Sys2Proof Sys2Proof.Machine

/-! What the table of R192 says of one element: the model's arithmetic, by the statement's own words. -/

theorem testBit_mod {b x k : Nat} (hk : k < b) : (x % 2 ^ b).testBit k = x.testBit k := by
  rw [Nat.testBit_mod_two_pow, decide_eq_true hk, Bool.true_and]

theorem sub_value {M x y : Nat} (hx : x < M) (hy : y < M) : ((x + (M - y % M)) % M % M + y) % M = x := by
  rw [Nat.mod_mod, Nat.mod_add_mod, Nat.mod_eq_of_lt hy, show x + (M - y) + y = x + M by omega, Nat.add_mod_right, Nat.mod_eq_of_lt hx]

theorem neg_value {M x : Nat} (hx : x < M) : ((M - x) % M % M + x) % M = 0 := by
  rw [Nat.mod_mod, Nat.mod_add_mod, Nat.sub_add_cancel hx.le, Nat.mod_self]

theorem intVal_eq (n : NodeBody) (x : Nat) : Num.intVal n.fmt.toNat x = ival n (NodeCheck.width n.fmt.toNat) x := by
  unfold Num.intVal ival Num.signed
  simp only [decide_eq_true_eq, numToInt_eq]

theorem ofInt_mod (b : Nat) (v : Int) : Num.ofInt b v % 2 ^ b = Num.ofInt b v := by
  apply Nat.mod_eq_of_lt
  zify
  rw [cast_numOfInt]
  exact Int.emod_lt_of_pos _ (by positivity)

theorem ofNat_ofInt (b : Nat) (v : Int) : BitVec.ofNat b (Num.ofInt b v) = BitVec.ofInt b v := by
  apply BitVec.eq_of_toNat_eq
  rw [BitVec.toNat_ofNat, ofInt_mod, BitVec.toNat_ofInt]
  rfl

theorem toInt_ofInt {b : Nat} (hb : 0 < b) {v : Int} (hlo : -2 ^ (b - 1) ≤ v) (hhi : v < 2 ^ (b - 1)) :
    (BitVec.ofNat b (Num.ofInt b v)).toInt = v := by
  obtain ⟨b, rfl⟩ := Nat.exists_eq_succ_of_ne_zero hb.ne'
  rw [ofNat_ofInt, BitVec.toInt_ofInt]
  rw [Nat.succ_eq_add_one, Nat.add_sub_cancel] at hlo hhi
  have hpow : ((2 ^ b.succ : Nat) : Int) = 2 * 2 ^ b := by rw [pow_succ]; push_cast; ring
  exact Int.bmod_eq_of_le (by rw [hpow]; omega) (by rw [hpow]; omega)

theorem abs_value (n : NodeBody) (x : Nat) : let b := NodeCheck.width n.fmt.toNat
    (if Num.signed n.fmt.toNat then Num.ofInt b (Num.intVal n.fmt.toNat x).natAbs else x) % 2 ^ b = (ival n b x).natAbs % 2 ^ b := by
  intro b
  rw [intVal_eq]
  cases hs : Num.signed n.fmt.toNat
  · have : ¬n.fmt.toNat < 4 := of_decide_eq_false hs
    unfold ival
    rw [if_neg this, Int.natAbs_natCast, Nat.mod_mod]
    rfl
  · rw [if_pos rfl]
    zify
    rw [cast_numOfInt, Int.emod_emod]

theorem ival_mod (n : NodeBody) {b x : Nat} (hx : x < 2 ^ b) : ival n b (x % 2 ^ b) = ival n b x := by rw [Nat.mod_eq_of_lt hx]

/-- The high half of a product. -/
theorem mulh_value (n : NodeBody) (x y : Nat) : let b := NodeCheck.width n.fmt.toNat
    ((Num.ofInt b (Num.intVal n.fmt.toNat x * Num.intVal n.fmt.toNat y / (2 ^ b : Nat)) % 2 ^ b : Nat) : Int) =
      ival n b x * ival n b y / 2 ^ b % 2 ^ b := by
  intro b
  rw [ofInt_mod, cast_numOfInt, intVal_eq, intVal_eq]
  push_cast
  rfl

theorem min_value (n : NodeBody) {x y : Nat} (hx : x < 2 ^ NodeCheck.width n.fmt.toNat) (hy : y < 2 ^ NodeCheck.width n.fmt.toNat) :
    let b := NodeCheck.width n.fmt.toNat
    ival n b ((if Num.intVal n.fmt.toNat x ≤ Num.intVal n.fmt.toNat y then x else y) % 2 ^ b) = min (ival n b x) (ival n b y) := by
  intro b
  rw [intVal_eq, intVal_eq]
  split
  next h => rw [ival_mod n hx, min_eq_left h]
  next h => rw [ival_mod n hy, min_eq_right (le_of_not_ge h)]

theorem max_value (n : NodeBody) {x y : Nat} (hx : x < 2 ^ NodeCheck.width n.fmt.toNat) (hy : y < 2 ^ NodeCheck.width n.fmt.toNat) :
    let b := NodeCheck.width n.fmt.toNat
    ival n b ((if Num.intVal n.fmt.toNat x ≤ Num.intVal n.fmt.toNat y then y else x) % 2 ^ b) = max (ival n b x) (ival n b y) := by
  intro b
  rw [intVal_eq, intVal_eq]
  split
  next h => rw [ival_mod n hy, max_eq_right h]
  next h => rw [ival_mod n hx, max_eq_left (le_of_not_ge h)]

theorem not_value {b x k : Nat} (hx : x < 2 ^ b) (hk : k < b) : ((2 ^ b - 1 - x) % 2 ^ b).testBit k = !x.testBit k := by
  rw [testBit_mod hk, Nat.sub_sub, Nat.add_comm, Nat.testBit_two_pow_sub_succ hx, decide_eq_true hk, Bool.true_and]

theorem shr_value {b x sh : Nat} (hx : x < 2 ^ b) : x / 2 ^ sh % 2 ^ b = x / 2 ^ sh := Nat.mod_eq_of_lt ((Nat.div_le_self _ _).trans_lt hx)

theorem sar_value {b : Nat} (hb : 0 < b) (x sh : Nat) :
    (BitVec.ofNat b (Num.ofInt b (Num.toInt b x / (2 ^ sh : Nat)) % 2 ^ b)).toInt = (BitVec.ofNat b x).toInt / 2 ^ sh := by
  rw [ofInt_mod, numToInt_eq]
  have hlo := BitVec.le_toInt (BitVec.ofNat b x)
  have hhi := BitVec.toInt_lt (x := BitVec.ofNat b x)
  push_cast at hlo hhi ⊢
  have hsh : (0 : Int) < 2 ^ sh := by positivity
  have hp : (0 : Int) < 2 ^ (b - 1) := by positivity
  refine toInt_ofInt hb ?_ ?_
  · rw [Int.le_ediv_iff_mul_le hsh]
    exact (mul_le_of_one_le_right (by omega) (by exact_mod_cast Nat.one_le_two_pow)).trans hlo
  · rw [Int.ediv_lt_iff_lt_mul hsh]
    exact hhi.trans_le (le_mul_of_one_le_right hp.le (by exact_mod_cast Nat.one_le_two_pow))

/-- A rotation moves bit k of its operand to bit (k + y) mod b. -/
theorem rot_value {b x y k : Nat} (hx : x < 2 ^ b) (hk : k < b) :
    ((x * 2 ^ (y % b) % 2 ^ b + x / 2 ^ (b - y % b)) % 2 ^ b).testBit ((k + y) % b) = x.testBit k := by
  have hsh : y % b < b := Nat.mod_lt _ (by omega)
  rw [testBit_mod (Nat.mod_lt _ (by omega)), ← Nat.add_mod_mod]
  generalize y % b = sh at hsh ⊢
  have hpow : 2 ^ b = 2 ^ sh * 2 ^ (b - sh) := by rw [← pow_add, Nat.add_sub_cancel' hsh.le]
  rw [Nat.mul_comm x, hpow, Nat.mul_mod_mul_left, Nat.testBit_two_pow_mul_add _ (Nat.div_lt_of_lt_mul (by rw [Nat.mul_comm, ← hpow]; exact hx))]
  by_cases h : k + sh < b
  · rw [Nat.mod_eq_of_lt h, if_neg (by omega), Nat.add_sub_cancel, testBit_mod (by omega)]
  · rw [Nat.mod_eq_sub_mod (by omega), Nat.mod_eq_of_lt (by omega), if_pos (by omega), Nat.testBit_div_two_pow]
    congr 1
    omega

theorem popcount_eq (x b : Nat) : popcount x b = ((List.range b).filter (fun k => x.testBit k)).length := by
  induction b with
  | zero => rfl
  | succ b ih =>
    unfold popcount
    rw [List.range_succ, List.filter_append, List.length_append, ← ih, Nat.add_comm]
    rw [bit_eq_testBit]
    cases h : x.testBit b <;> simp [h, b2n]

theorem clz_value (b x : Nat) : clz b x % 2 ^ b = if x = 0 then b else b - 1 - Nat.log2 x := by
  apply Nat.mod_eq_of_lt
  have := Nat.lt_two_pow_self (n := b)
  unfold clz
  split <;> omega

/-- A field of bits, extended by its sign when the type has one. -/
theorem bfx_value {b x pos width k : Nat} (sgn : Bool) (hw : 1 ≤ width) (hk : k < b) :
    ((if sgn then Num.ofInt b (Num.toInt width (x / 2 ^ pos % 2 ^ width)) else x / 2 ^ pos % 2 ^ width) % 2 ^ b).testBit k =
      if k < width then x.testBit (pos + k) else sgn && x.testBit (pos + width - 1) := by
  have hfield : ∀ k, (x / 2 ^ pos % 2 ^ width).testBit k = (decide (k < width) && x.testBit (pos + k)) := fun k => by
    rw [Nat.testBit_mod_two_pow, Nat.testBit_div_two_pow, Nat.add_comm]
  rw [testBit_mod hk]
  cases sgn with
  | false =>
    rw [if_neg Bool.false_ne_true, hfield, Bool.false_and]
    split <;> simp [*]
  | true =>
    rw [if_pos rfl, Bool.true_and, numToInt_eq, ← Nat.mod_eq_of_lt (a := Num.ofInt b _) (b := 2 ^ b) (by rw [← ofInt_mod]; exact Nat.mod_lt _ (by positivity)),
      ← BitVec.toNat_ofNat, ofNat_ofInt, BitVec.testBit_toNat]
    show (BitVec.signExtend b _).getLsbD k = _
    rw [BitVec.getLsbD_signExtend, decide_eq_true hk, Bool.true_and, BitVec.msb_eq_getLsbD_last, BitVec.getLsbD_ofNat, BitVec.getLsbD_ofNat, hfield, hfield]
    split
    next h => simp [h]
    next h => simp [show 0 < width by omega, ← Nat.add_sub_assoc hw]

/-- A field of bits, replaced. -/
theorem bfi_value {b x y pos width k : Nat} (hk : k < b) :
    (insertBits x pos width y % 2 ^ b).testBit k = if pos ≤ k ∧ k < pos + width then y.testBit (k - pos) else x.testBit k := by
  have hlow : x % 2 ^ pos < 2 ^ pos := Nat.mod_lt _ (by positivity)
  have hmid : 2 ^ pos * (y % 2 ^ width) + x % 2 ^ pos < 2 ^ (pos + width) := by
    have : y % 2 ^ width < 2 ^ width := Nat.mod_lt _ (by positivity)
    calc _ < 2 ^ pos * (y % 2 ^ width) + 2 ^ pos := by omega
      _ = 2 ^ pos * (y % 2 ^ width + 1) := by ring
      _ ≤ 2 ^ pos * 2 ^ width := Nat.mul_le_mul_left _ this
      _ = _ := (pow_add 2 pos width).symm
  have hins : insertBits x pos width y = 2 ^ (pos + width) * (x / 2 ^ (pos + width)) + (2 ^ pos * (y % 2 ^ width) + x % 2 ^ pos) := by
    unfold insertBits
    ring
  rw [testBit_mod hk, hins, Nat.testBit_two_pow_mul_add _ hmid, Nat.testBit_two_pow_mul_add _ hlow]
  by_cases h1 : k < pos + width
  · by_cases h2 : k < pos
    · rw [if_pos h1, if_pos h2, if_neg (by omega), testBit_mod h2]
    · rw [if_pos h1, if_neg h2, if_pos (by omega), testBit_mod (by omega)]
  · rw [if_neg h1, if_neg (by omega), Nat.testBit_div_two_pow, Nat.sub_add_cancel (by omega)]

theorem intRange_eq (n : NodeBody) : let b := NodeCheck.width n.fmt.toNat; Num.intRange n.fmt.toNat = (ilo n b, ihi n b) := by
  unfold Num.intRange ilo ihi Num.signed
  simp only [decide_eq_true_eq]
  split <;> push_cast <;> rfl

/-- A number within an integer FMT's range is the value of the element that holds it. -/
theorem ival_ofInt {n : NodeBody} {b : Nat} (hb : 0 < b) {v : Int} (hlo : ilo n b ≤ v) (hhi : v ≤ ihi n b) : ival n b (Num.ofInt b v) = v := by
  unfold ilo at hlo
  unfold ihi at hhi
  unfold ival
  split at hlo
  next h =>
    rw [if_pos h] at hhi ⊢
    exact toInt_ofInt hb hlo (by omega)
  next h =>
    rw [if_neg h] at hhi ⊢
    rw [ofInt_mod, cast_numOfInt, Int.emod_eq_of_lt hlo (by omega)]

theorem ilo_le_ihi (n : NodeBody) (b : Nat) : ilo n b ≤ ihi n b := by
  unfold ilo ihi
  have h1 : (0 : Int) < 2 ^ (b - 1) := by positivity
  have h2 : (0 : Int) < 2 ^ b := by positivity
  split <;> omega

/-- A clamped value, and whether it was clamped (R48). -/
theorem clamp_value {n : NodeBody} {b : Nat} (hb : 0 < b) (v : Int) :
    ival n b (Num.ofInt b (Num.clamp (ilo n b) (ihi n b) v).1 % 2 ^ b) = max (ilo n b) (min (ihi n b) v) ∧
    ((v < ilo n b ∨ ihi n b < v) ↔ (Num.clamp (ilo n b) (ihi n b) v).2 = true) := by
  have hle := ilo_le_ihi n b
  rw [ofInt_mod]
  unfold Num.clamp
  split
  next h => exact ⟨by rw [ival_ofInt hb le_rfl hle]; omega, iff_of_true (.inl h) rfl⟩
  split
  next h => exact ⟨by rw [ival_ofInt hb hle le_rfl]; omega, iff_of_true (.inr h) rfl⟩
  next h h' => exact ⟨by rw [ival_ofInt hb (by omega) (by omega)]; omega, iff_of_false (by omega) Bool.false_ne_true⟩

end Sys2Proof.Claim

namespace Sys2Proof.Claim

open Sys2Proof Sys2Proof.Machine

/-! The integer nodes (R192): each is an element-wise node over a row of the rule's table. -/

/-- What an integer node but IMAD computes of one element, and the flag that it raises. -/
def intElem (opc : Nat) (a : Fire) (j : Nat) : Nat × Nat :=
  let b := NodeCheck.width a.n.fmt.toNat
  intOp opc a.n.fmt.toNat a.n.operand.toNat (elem a.l.val b j) (elem a.r.val b j) (elem 0#512 b j)

theorem intNode_eq {opc : Nat} (h : opc ≠ 4) (a : Fire) :
    intNode opc a = elementwise a (fun j r => ((intElem opc a j).1, r.raise (intElem opc a j).2)) := by
  unfold intNode
  simp only [if_neg h]
  rfl

/-- An integer node but IMAD, by its row of the table: the result of an element and the flag that it raises. -/
theorem intGives_of {i : NodeBody → Instr} {value : NodeBody → Nat → Nat → Nat → Nat → Prop} {clamps : NodeBody → Nat → Nat → Nat → Prop} (opc : Nat)
    (row : ∀ (n : NodeBody) (x y w : Nat), n.fmt.toNat < 8 →
      let b := NodeCheck.width n.fmt.toNat; let o := intOp opc n.fmt.toNat n.operand.toNat x y w
      x < 2 ^ b → y < 2 ^ b → value n b x y (o.1 % 2 ^ b) ∧ ((clamps n b x y ∧ o.2 = 4) ∨ (¬clamps n b x y ∧ o.2 = 0)))
    (hopc : opc ≠ 4 := by decide) (hi : ∀ n s, exec (i n) s = s.fire n (intNode opc) := by intros; rfl) : IntGives i value clamps := by
  intro s n a hfmt h b
  have hfires := fires_of_compute h (hi n s)
  obtain ⟨-, -, -, -, -, hn, -, -, -, -, -, -, -, hrnd⟩ := ready_spec h.1
  subst hn
  rw [intNode_eq hopc] at hfires
  have hrow := fun j => row a.n (elem a.l.val b j) (elem a.r.val b j) (elem 0#512 b j) hfmt (elem_lt _ _ _) (elem_lt _ _ _)
  obtain ⟨hkind, hpend, hs, V, hblends, hvals, hsome, hnone⟩ := elementwise_spec a (fun j => (intElem opc a j).1) (fun j => (intElem opc a j).2)
    (fun j => (hrow j).2.elim (fun h => .inr h.2) fun h => .inl h.2) (congrArg Num.Rnd.fl hrnd)
  rw [hkind, hpend, hs, congrArg Num.Rnd.s hrnd] at hfires
  refine ⟨V, _, _, _, hfires, hblends, fun j hj hl => ?_, fun ⟨j, hj, hl, hc⟩ => hsome ⟨j, hj, hl, ?_⟩, fun hall => hnone fun j hj hl => ?_⟩
  · rw [hvals j hj hl]
    exact (hrow j).1
  · exact (hrow j).2.elim (·.2) fun h => absurd hc h.1
  · exact (hrow j).2.elim (fun h => absurd h.1 (hall j hj hl)) (·.2)

/-- An integer node that raises no flag. -/
theorem intGives_never {i : NodeBody → Instr} {value : NodeBody → Nat → Nat → Nat → Nat → Prop} (opc : Nat)
    (row : ∀ (n : NodeBody) (x y w : Nat), n.fmt.toNat < 8 → let b := NodeCheck.width n.fmt.toNat
      x < 2 ^ b → y < 2 ^ b → value n b x y ((intOp opc n.fmt.toNat n.operand.toNat x y w).1 % 2 ^ b))
    (hopc : opc ≠ 4 := by decide) (hi : ∀ n s, exec (i n) s = s.fire n (intNode opc) := by intros; rfl)
    (flag : ∀ fmt o x y w, (intOp opc fmt o x y w).2 = 0 := by intros; rfl) : IntGives i value never :=
  intGives_of opc (fun n x y w hfmt hx hy => ⟨row n x y w hfmt hx hy, .inr ⟨id, flag _ _ _ _ _⟩⟩) hopc hi

/-- The write-back of a node's computed lanes. -/
theorem writesBack_writeBack {a : Fire} {o : Fired} (h : o.pend = []) : WritesBack a (NodeCheck.width a.n.fmt.toNat) o.val (a.writeBack o).pend := by
  have hbit : a.n.operand.getLsbD 5 = decide (a.n.operand.toNat / 32 % 2 = 1) := by
    rw [← bit_toNat, bit_eq_testBit, Nat.testBit_eq_decide_div_mod_eq]
  unfold WritesBack Fire.writeBack
  rw [hbit]
  refine ⟨fun h' => by rw [if_neg (of_decide_eq_false h'), h], fun h' => ?_⟩
  rw [if_pos (of_decide_eq_true h')]
  refine ⟨_, rfl, fun i hi => ?_⟩
  rw [lane_mkVec _ i hi, ← live_iff a i hi, ← on_iff a i hi, ← Bool.and_eq_true]
  have hnew : lane o.val i < 4294967296 := lane_lt _ _
  have hold : lane (a.p.wreg a.e a.wc) i < 4294967296 := lane_lt _ _
  refine ⟨fun h1 h2 => ?_, fun h' => ?_⟩
  · rw [h1, h2]
    exact Nat.mod_eq_of_lt hnew
  · rw [if_neg h']
    exact Nat.mod_eq_of_lt hold

end Sys2Proof.Claim

namespace Sys2Proof.Claim

open Sys2Proof Sys2Proof.Machine

theorem width_le (fmt : Nat) : NodeCheck.width fmt ≤ 64 := by
  unfold NodeCheck.width
  split <;> norm_num

/-- The fields that OPERAND gives BFX and BFI (R192). -/
theorem operandField (n : NodeBody) {pos width : Nat} (ho : n.operand.toNat = pos + 256 * width) (hpos : pos < NodeCheck.width n.fmt.toNat) :
    pos = n.operand.toNat % 256 ∧ width = n.operand.toNat / 256 := by
  have := width_le n.fmt.toNat
  omega

/-- The rows of the clamping nodes, SADD and SSUB, of the exact sum or difference. -/
theorem clamping_row (n : NodeBody) {v w : Int} (hv : v = w) :
    let b := NodeCheck.width n.fmt.toNat
    let c := Num.clamp (Num.intRange n.fmt.toNat).1 (Num.intRange n.fmt.toNat).2 v
    ival n b (Num.ofInt b c.1 % 2 ^ b) = max (ilo n b) (min (ihi n b) w) ∧
      (((w < ilo n b ∨ ihi n b < w) ∧ (if c.2 then Num.OF else 0) = 4) ∨ (¬(w < ilo n b ∨ ihi n b < w) ∧ (if c.2 then Num.OF else 0) = 0)) := by
  subst hv
  intro b
  obtain ⟨hval, hclamps⟩ := clamp_value (n := n) (width_pos n.fmt.toNat) v
  rw [intRange_eq]
  refine ⟨hval, ?_⟩
  by_cases h : v < ilo n b ∨ ihi n b < v
  · exact .inl ⟨h, if_pos (hclamps.mp h)⟩
  · exact .inr ⟨h, if_neg fun h' => h (hclamps.mpr h')⟩

/-- IMAD adds the plane register that OPERAND names, and writes it back when OPERAND[5] is 1 (R192). -/
theorem imad_fires (s : State) (n : NodeBody) (a : Fire) (h : Ready s n a) : let b := NodeCheck.width n.fmt.toNat
    ∃ V W m pend, Fires (.nImad n) s a ⟨W, m, 0#4⟩ 0 ((s.plane a.pk).srReg a.pk a.e) pend ∧ Blends a (Live a b) V W m ∧
      WritesBack a b W pend ∧
      ∀ j < 512 / b, Live a b (b * j / 32) → elem V b j =
        (elem a.l.val b j * elem a.r.val b j + elem (a.p.wreg a.e (a.p.phys a.pk a.e (n.operand.toNat % 32))) b j) % 2 ^ b := by
  intro b
  have hfires := fires_of_compute (i := .nImad n) h rfl
  obtain ⟨-, -, -, -, -, hn, -, -, -, -, -, -, -, hrnd⟩ := ready_spec h.1
  subst hn
  let val : Nat → Nat := fun j => (elem a.l.val b j * elem a.r.val b j + elem (a.p.wreg a.e a.wc) b j) % 2 ^ b
  have hnode : intNode 0x04 a = a.writeBack (elementwise a (fun j r => (val j, r.raise 0))) := rfl
  obtain ⟨hkind, hpend, hs, V, hblends, hvals, -, hnone⟩ := elementwise_spec a val (fun _ => 0) (fun _ => .inl rfl) (congrArg Num.Rnd.fl hrnd)
  rw [hnode] at hfires
  have hback := writesBack_writeBack (a := a) hpend
  generalize elementwise a (fun j r => (val j, r.raise 0)) = o at hfires hkind hpend hs hblends hnone hback
  have hsame : (a.writeBack o).val = o.val ∧ (a.writeBack o).mask = o.mask ∧ (a.writeBack o).kind = o.kind ∧ (a.writeBack o).rnd = o.rnd := by
    unfold Fire.writeBack
    split <;> exact ⟨rfl, rfl, rfl, rfl⟩
  obtain ⟨h1, h2, h3, h4⟩ := hsame
  rw [h1, h2, h3, h4, hkind, hs, congrArg Num.Rnd.s hrnd, hnone fun _ _ _ => rfl] at hfires
  exact ⟨V, o.val, o.mask, _, hfires, hblends, hback, fun j hj hl => (hvals j hj hl).trans (Nat.mod_mod _ _)⟩

end Sys2Proof.Claim

namespace Sys2Proof

open Machine Claim

/-- Settles O29: every integer node but IMAD is an element-wise node over its row of R192's table, and the row's value is the
statement's; IMAD is the same with its write-back. -/
theorem integerNodesComputeEachElement : Obligations.IntegerNodesComputeEachElement := by
  unfold Obligations.IntegerNodesComputeEachElement
  refine ⟨?add, ?sub, ?mul, ?mulh, ?abs, ?neg, ?min, ?max, ?and, ?or, ?xor, ?not, ?shl, ?shr, ?sar, ?rot, ?popc, ?clz, ?bfx, ?bfi, ?sadd, ?ssub, ?mad⟩
  case add => exact intGives_never 0x00 fun _ _ _ _ _ _ _ => Nat.mod_mod _ _
  case sub => exact intGives_never 0x01 fun _ _ _ _ _ hx hy => sub_value hx hy
  case mul => exact intGives_never 0x02 fun _ _ _ _ _ _ _ => Nat.mod_mod _ _
  case mulh => exact intGives_never 0x03 fun n x y _ _ _ _ => mulh_value n x y
  case abs => exact intGives_never 0x05 fun n x _ _ _ _ _ => abs_value n x
  case neg => exact intGives_never 0x06 fun _ _ _ _ _ hx _ => neg_value hx
  case min => exact intGives_never 0x07 fun n _ _ _ _ hx hy => min_value n hx hy
  case max => exact intGives_never 0x08 fun n _ _ _ _ hx hy => max_value n hx hy
  case and => exact intGives_never 0x09 fun _ _ _ _ _ _ _ k hk => (testBit_mod hk).trans (Nat.testBit_and _ _ _)
  case or => exact intGives_never 0x0A fun _ _ _ _ _ _ _ k hk => (testBit_mod hk).trans (Nat.testBit_or _ _ _)
  case xor => exact intGives_never 0x0B fun _ _ _ _ _ _ _ k hk => (testBit_mod hk).trans (Nat.testBit_xor _ _ _)
  case not => exact intGives_never 0x0C fun _ _ _ _ _ hx _ k hk => not_value hx hk
  case shl => exact intGives_never 0x0D fun _ _ _ _ _ _ _ => Nat.mod_mod _ _
  case shr => exact intGives_never 0x0E fun _ _ _ _ _ hx _ => shr_value hx
  case sar => exact intGives_never 0x0F fun n x y _ _ _ _ => sar_value (width_pos _) x _
  case rot => exact intGives_never 0x10 fun _ _ _ _ _ hx _ k hk => rot_value hx hk
  case popc => exact intGives_never 0x11 fun _ x _ _ _ _ _ => congrArg (· % 2 ^ _) (popcount_eq x _)
  case clz => exact intGives_never 0x12 fun _ x _ _ _ _ _ => clz_value _ x
  case bfx =>
    refine intGives_never 0x13 fun n _ _ _ _ _ _ pos width ho hpos hw _ k hk => ?_
    obtain ⟨rfl, rfl⟩ := operandField n ho hpos
    exact bfx_value _ hw hk
  case bfi =>
    refine intGives_never 0x14 fun n _ _ _ _ _ _ pos width ho hpos _ _ k hk => ?_
    obtain ⟨rfl, rfl⟩ := operandField n ho hpos
    exact bfi_value hk
  case sadd => exact intGives_of 0x15 fun n _ _ _ _ _ _ => clamping_row n (by rw [intVal_eq, intVal_eq])
  case ssub => exact intGives_of 0x16 fun n _ _ _ _ _ _ => clamping_row n (by rw [intVal_eq, intVal_eq])
  case mad => exact fun s n a _ h => imad_fires s n a h

end Sys2Proof

namespace Sys2Proof.Claim

open Sys2Proof Sys2Proof.Machine

/-! TOKIN: the sticky operands (R24, R171). -/

theorem planeSet_setPlane (s : State) (pk : Nat) (p : Plane) : PlaneSet s (s.setPlane pk p) pk p :=
  ⟨rfl, by rw [State.plane_setPlane, if_pos rfl], fun k hk => by rw [State.plane_setPlane, if_neg hk]⟩

/-- The nodes of a plane that a TOKIN names, by their tile element, with their words. -/
def tokinNodes (p : Plane) (n : BitVec 5) : List (Nat × Nat) :=
  p.nodes.filterMap (fun (x, w) => if x % 32 = n.toNat then some (x / 32, w.toNat) else none)

theorem mem_tokinNodes {p : Plane} {n : BitVec 5} {y : Nat × Nat} :
    y ∈ tokinNodes p n ↔ ∃ x ∈ p.nodes, x.1 % 32 = n.toNat ∧ y = (x.1 / 32, x.2.toNat) := by
  unfold tokinNodes
  rw [List.mem_filterMap]
  refine exists_congr fun x => and_congr_right fun _ => ?_
  rw [Option.ite_none_right_eq_some, Option.some.injEq]
  exact and_congr_right fun _ => eq_comm

theorem length_tokinNodes (p : Plane) (n : BitVec 5) : (tokinNodes p n).length = (p.nodes.filter (fun x => x.1 % 32 = n.toNat)).length := by
  unfold tokinNodes
  induction p.nodes with
  | nil => rfl
  | cons x l ih =>
    rw [List.filterMap_cons, List.filter_cons]
    by_cases h : x.1 % 32 = n.toNat <;> simp [h, ih]

/-- The operands that a TOKIN leaves for the end of the fc, in every copy. -/
def tokinOperands (p : Plane) (pk : Nat) (n : BitVec 5) (port : Nat) (v : Word) : List Pending :=
  p.copies.flatMap (fun c => (tokinNodes p n).map (fun (te, w) =>
    Pending.stick (stickyKey (p.elemIn pk c te) n.toNat port) ⟨tokinVec (bits w 119 116) v, 0xFFFF#16, 0#4⟩))

theorem length_tokinOperands (p : Plane) (pk : Nat) (n : BitVec 5) (port : Nat) (v : Word) :
    (tokinOperands p pk n port v).length = p.copies.length * (p.nodes.filter (fun x => x.1 % 32 = n.toNat)).length := by
  unfold tokinOperands
  rw [List.length_flatMap, ← length_tokinNodes]
  simp

theorem elem_tokinVec (fmt : Nat) (v : Word) (j : Nat) (hj : j < 512 / NodeCheck.width fmt) :
    elem (tokinVec fmt v) (NodeCheck.width fmt) j = v.toNat % 2 ^ NodeCheck.width fmt := by
  unfold tokinVec
  rw [elem_mkVec_replicate _ _ _ _ hj (mul_div_width_le _), Nat.mod_mod]

/-- The port of a TOKIN is sticky in every node that it names. -/
theorem tokin_sticky {p : Plane} {n : BitVec 5} {q : BitVec 2} (hq : q.toNat < 2)
    (h : ∀ x ∈ p.nodes, x.1 % 32 = n.toNat → x.2.getLsbD (107 - q.toNat) = true) :
    (tokinNodes p n).all (fun (_, w) => if q.toNat = 0 then wFire w 3 else wFire w 2) = true := by
  rw [List.all_eq_true]
  intro y hy
  obtain ⟨x, hx, hn, rfl⟩ := mem_tokinNodes.mp hy
  have := h x hx hn
  unfold wFire
  dsimp only
  rw [bit_toNat, bit_toNat]
  split
  next h0 => rwa [h0] at this
  next h0 => rwa [show q.toNat = 1 by omega] at this

theorem execSTokin_of_sticky {s s1 : State} {k q : BitVec 2} {a n : BitVec 5} {pk : Nat} (hk : s.myPlane k = .ok (some (s1, pk)))
    (hstate : (s1.plane pk).state = .loaded ∨ (s1.plane pk).state = .active) (hq : q.toNat < 2)
    (h : ∀ x ∈ (s1.plane pk).nodes, x.1 % 32 = n.toNat → x.2.getLsbD (107 - q.toNat) = true) :
    exec (.sTokin k a n q) s = .next (s1.setPlane pk { s1.plane pk with
      pend := (s1.plane pk).pend ++ tokinOperands (s1.plane pk) pk n q.toNat (s1.g a) }).adv := by
  show s.onPlane _ k (fun p => (p.state = .loaded || p.state = .active) && q.toNat < 2 &&
    (tokinNodes p n).all (fun (_, w) => if q.toNat = 0 then wFire w 3 else wFire w 2)) (fun s pk p =>
      s.setPlane pk { p with pend := p.pend ++ tokinOperands p pk n q.toNat (s.g a) }) = _
  unfold State.onPlane
  rw [hk]
  dsimp only
  refine if_pos ?_
  rw [tokin_sticky hq h]
  simp [hstate, hq]

theorem planeSet_adv {s t : State} {pk : Nat} {p : Plane} (h : PlaneSet s t pk p) : PlaneSet s.adv t.adv pk p := by
  obtain ⟨ht, hp, hother⟩ := h
  exact ⟨by rw [ht]; rfl, hp, hother⟩

/-! TOKGET: the vector stored (R172, R211). -/

/-- gd := v and the next instruction. -/
theorem writesG_setG_adv (s : State) (d : BitVec 5) (v : Word) : WritesG s (s.setG d v).adv d v 4 := by
  have hme : (s.setG d v).adv.me = { s.me.setG d v with pc := s.me.pc + 4 } := by
    unfold State.adv
    rw [State.me_setPc, State.me_setG, UnitSt.setG_pc]
    rfl
  refine ⟨⟨rfl, fun u hu => ?_⟩, ?_, fun r => ?_⟩
  · unfold State.adv State.setPc State.setG
    rw [State.unit_setMe, if_neg (by simpa using hu), State.unit_setMe, if_neg hu]
  · rw [hme]
    unfold UnitSt.setG
    split <;> rfl
  · unfold State.g
    rw [hme, UnitSt.g_pc, UnitSt.g_setG]

/-- A plain store changes the race directory alone (R104). -/
theorem ordered_store (s : State) (i : Issuer) (pa n : Nat) (watch wrote : Bool) :
    ∃ r, s.ordered i pa n watch { wr := true } wrote = { s with races := r } := by
  unfold State.ordered
  simp only [Bool.not_false, if_true, Bool.false_eq_true, if_false]
  split
  · exact ⟨_, rfl⟩
  · exact ⟨_, rfl⟩

/-- A store of the executing record that reaches its place is performed there, and is entered in the race directory (R92, R104). -/
theorem recAccess_store {s s1 s2 : State} {va n v : Nat} {tr : Tr} (h : Reaches s va n { wr := true } s1 tr)
    (hw : s1.physWrite tr.slot tr.pa (leBytes n v) = (s2, .ok ())) :
    ∃ r, s.recAccess s.cur s.meIss va n { wr := true } (fun _ => some v) = ({ s2 with races := r }, .ok 0) := by
  obtain ⟨-, s0, hfar, htr, hrace⟩ := h
  obtain ⟨r, hr⟩ := ordered_store s2 s.meIss tr.pa n tr.watch true
  have haccess : s0.access s.cur s.meIss va n { wr := true } (fun _ => some v) = ({ s2 with races := r }, .ok 0) := by
    have htr' : s0.translate s.cur s.meIss.die s.meIss.ctx va true false s.meIss.priv = (s1, .ok tr) := htr
    have hnone : (if tr.watch && s.meIss.raises then s1.race s.meIss tr.pa n { wr := true } else none) = none := by
      split
      next h => exact hrace (Bool.and_eq_true_iff.mp h).1
      next => rfl
    unfold State.access
    rw [htr']
    dsimp only
    rw [hnone]
    dsimp only
    rw [hw, ← hr]
    rfl
  refine ⟨r, ?_⟩
  unfold State.recAccess
  rcases hfar with ⟨hnear, rfl⟩ | ⟨hrem, hresp⟩
  · rw [hnear]
    exact haccess
  · rw [hrem, hresp]
    exact haccess

/-- A write that succeeds in sound memory stores its bytes. -/
theorem stores_of_physWrite {s t : State} {slot pa : Nat} {v : List Byte} (h : s.physWrite slot pa v = (t, .ok ())) (hwf : Memory.wf s.mem = true)
    (hflips : ∀ w ∈ wordsOf pa v.length, (s.flips.get w []).length < 3) : Stores s t slot pa v := by
  obtain ⟨-, -, hbytes⟩ := State.physWrite_spec h
  refine ⟨fun j hj => ?_, fun a ha => ?_⟩
  · rw [hbytes hwf hflips, dif_pos (by omega)]
    simp
  · rw [hbytes hwf hflips, dif_neg (by omega)]

theorem Stores.of_same {s t u : State} {slot pa : Nat} {v : List Byte} (h : Stores s t slot pa v) (hm : u.mem = t.mem) (hl : u.lineKey = t.lineKey)
    (hk : u.keys = t.keys) : Stores s u slot pa v :=
  ⟨fun j hj => (State.byteAt_congr hm hl hk _ _).trans (h.1 j hj), fun a ha => (State.byteAt_congr hm hl hk _ _).trans (h.2 a ha)⟩

theorem execSTokget_of_vector {s s1 s2 s3 : State} {k : BitVec 2} {d a : BitVec 5} {pk : Nat} {v : Vec} {m : Mask} {rest : List (Vec × Mask)} {tr : Tr}
    (hk : s.myPlane k = .ok (some (s1, pk))) (hstate : (s1.plane pk).state ≠ .empty) (hq : (s1.plane pk).tokq = (v, m) :: rest)
    (hreach : Reaches s1 (s.g a).toNat 64 { wr := true } s2 tr) (hw : s2.physWrite tr.slot tr.pa (leBytes 64 v.toNat) = (s3, .ok ())) :
    ∃ r, exec (.sTokget d a k) s = .next ((({ s3 with races := r } : State).setPlane pk { s3.plane pk with tokq := rest }).setG d
      (BitVec.ofNat 64 (2 ^ 16 + m.toNat))).adv := by
  obtain ⟨r, hr⟩ := recAccess_store hreach hw
  refine ⟨r, ?_⟩
  show execSTokget d a k s = _
  unfold execSTokget
  rw [hk]
  dsimp only
  rw [if_neg hstate, if_neg (by rw [hreach.1]; decide), hq]
  dsimp only
  rw [hr]
  rfl

end Sys2Proof.Claim

namespace Sys2Proof

open Machine Claim

/-- Settles O18: TOKIN leaves its operands pending for every copy of the node; TOKGET's store is an access that reaches its place. -/
theorem tokensCrossTheRegionBoundary : Obligations.TokensCrossTheRegionBoundary := by
  unfold Obligations.TokensCrossTheRegionBoundary
  intro s s1 s2 s3 k q a n d pk hk
  refine ⟨fun hstate hq h => ?tokin, fun hstate hva hempty => ?none, fun v m rest tr hstate hv hreach hw => ?vector⟩
  case tokin =>
    refine ⟨_, tokinOperands (s1.plane pk) pk n q.toNat (s1.g a), execSTokin_of_sticky hk hstate hq h, planeSet_adv (planeSet_setPlane _ _ _),
      fun c hc x hx hn => ⟨⟨tokinVec (x.2.toNat / 2 ^ 116 % 16) (s1.g a), 0xFFFF#16, 0#4⟩, ?_, rfl, rfl, fun j hj => elem_tokinVec _ _ j hj⟩,
      length_tokinOperands _ _ _ _ _⟩
    exact List.mem_flatMap.mpr ⟨c, hc, List.mem_map.mpr ⟨_, mem_tokinNodes.mpr ⟨x, hx, hn, rfl⟩, rfl⟩⟩
  case none =>
    refine ⟨_, ?_, writesG_setG_adv s1 d 0⟩
    show execSTokget d a k s = _
    unfold execSTokget
    rw [hk]
    dsimp only
    rw [if_neg hstate, if_neg (not_not.mpr hva), hempty]
    rfl
  case vector =>
    obtain ⟨r, hr⟩ := execSTokget_of_vector (d := d) hk hstate hv hreach hw
    refine ⟨_, hr, rfl, ?_, fun j hj => ?_, writesG_setG_adv _ d _, fun ⟨hwf, hflips⟩ => ?_⟩
    · exact (State.plane_setPlane _ _ _ _).trans (if_pos rfl)
    · exact (State.plane_setPlane _ _ _ _).trans (if_neg hj)
    · exact (stores_of_physWrite hw hwf (by rwa [length_leBytes])).of_same rfl rfl rfl

end Sys2Proof

namespace Sys2Proof.Claim

open Sys2Proof Sys2Proof.Machine

/-! Splices (R35). -/

theorem execEWaveSend_of_empty {s : State} {pk qk x y : Nat} (hpred : (s.plane pk).pred = some qk) (hin : 64 * y + x ∈ (s.plane pk).elems pk)
    (hnone : ∀ w ∈ (s.plane pk).waves, w.1 ≠ 64 * y + x) (hframes : (s.plane qk).frames = []) (hflights : ∀ f ∈ s.flights, f.plane ≠ qk) :
    exec (.eWaveSend pk x y) s = .next (s.setPlane pk { s.plane pk with waves := (s.plane pk).waves ++ [(64 * y + x, s.fc)] }) := by
  show execEWaveSend pk x y s = _
  unfold execEWaveSend
  dsimp only
  rw [hpred]
  refine if_neg ?_
  rintro (h | h | h | h)
  · obtain ⟨w, hw, he⟩ := List.any_eq_true.mp h
    exact hnone w hw (of_decide_eq_true he)
  · rw [List.contains_iff_mem.mpr hin] at h
    cases h
  · exact h hframes
  · obtain ⟨f, hf, he⟩ := List.any_eq_true.mp h
    exact hflights f hf (of_decide_eq_true he)

theorem execEElementSwitch_of_waves {s : State} {pk qk x y : Nat} (hpred : (s.plane pk).pred = some qk) (hin : 64 * y + x ∈ (s.plane pk).elems pk)
    (hnew : 64 * y + x ∉ (s.plane pk).switched) (hgroups : ∀ g ∈ (s.plane qk).groups, g.1 ≠ 64 * y + x)
    (hwaves : ∀ r ∈ (s.plane qk).routesInto qk (64 * y + x), ∃ w ∈ (s.plane pk).waves, w.1 = r.1 ∧ w.2 + r.2 ≤ s.fc) :
    exec (.eElementSwitch pk x y) s = .next (s.setPlane pk
      (if (∀ z ∈ (s.plane pk).elems pk, z ∈ (s.plane pk).switched ∨ z = 64 * y + x) ∧ ∀ c ∈ s.contribs, c.2.plane ≠ qk
        then { s.plane pk with pred := none, switched := [], waves := [] }
        else { s.plane pk with switched := (s.plane pk).switched ++ [64 * y + x] })) := by
  have hsw : (s.plane pk).switched.contains (64 * y + x) = false := by simpa using hnew
  have hgr : (s.plane qk).groups.any (fun g => g.1 = 64 * y + x) = false := List.any_eq_false.mpr fun g hg => by simpa using hgroups g hg
  have hall : ((s.plane qk).routesInto qk (64 * y + x)).all (fun r => (s.plane pk).waves.any (fun w => w.1 = r.1 && w.2 + r.2 ≤ s.fc)) = true := by
    rw [List.all_eq_true]
    intro r hr
    obtain ⟨w, hw, h1, h2⟩ := hwaves r hr
    exact List.any_eq_true.mpr ⟨w, hw, by simp [h1, h2]⟩
  have hdone : (((s.plane pk).elems pk).all ((s.plane pk).switched ++ [64 * y + x]).contains && s.contribs.all (fun c => c.2.plane ≠ qk)) = true ↔
      (∀ z ∈ (s.plane pk).elems pk, z ∈ (s.plane pk).switched ∨ z = 64 * y + x) ∧ ∀ c ∈ s.contribs, c.2.plane ≠ qk := by
    simp
  show execEElementSwitch pk x y s = _
  unfold execEElementSwitch
  dsimp only
  rw [hpred]
  dsimp only
  rw [hsw, hgr, hall, List.contains_iff_mem.mpr hin]
  simp only [Bool.not_false, Bool.not_true, Bool.or_self, Bool.and_false, Bool.false_eq_true, if_false]
  exact congrArg (fun q => Host.Outcome.next (s.setPlane pk q)) (if_congr hdone rfl rfl)

end Sys2Proof.Claim

namespace Sys2Proof.Claim

open Sys2Proof Sys2Proof.Machine

/-! STALEDROP of a plane (R20, R240). -/

/-- The register that counts a plane's stale tokens. -/
def staleReg (pk : Nat) : Nat := 0x20 + 4 * pkDie pk + pk % 4

theorem staleReg_bounds (pk : Nat) : 0x20 ≤ staleReg pk ∧ staleReg pk ≤ 0x2F := by
  unfold staleReg pkDie
  omega

theorem moduleCsr_staleReg (pk : Nat) : moduleCsr (staleReg pk) = true := by
  obtain ⟨hlo, hhi⟩ := staleReg_bounds pk
  have hdie : Csr.dieOf (staleReg pk) = some ((staleReg pk - 0x20) / 4) := by
    unfold Csr.dieOf
    rw [if_neg (by omega), if_pos ⟨hlo, hhi⟩]
  unfold moduleCsr
  rw [hdie]
  simp

/-- STALEDROP is kept for its die, so it reads the same in every partition. -/
theorem countsStale_iff {s t : State} {pk n : Nat} : CountsStale s t pk n ↔ ∀ part k, k < 65536 →
    t.csr part k = if k = staleReg pk then s.csr part k + BitVec.ofNat 64 n else s.csr part k := by
  unfold CountsStale
  refine forall₃_congr fun part k _ => iff_of_eq (congrArg (t.csr part k = ·) (if_congr ⟨And.left, fun h => ⟨h, .inl ?_⟩⟩ rfl rfl))
  rw [h, moduleCsr_staleReg]

theorem csr_setCsr_staleReg (s : State) (pk part q k : Nat) (v : Word) (hk : k < 65536) :
    (s.setCsr q (staleReg pk) v).csr part k = if k = staleReg pk then v else s.csr part k := by
  have hr := (staleReg_bounds pk).2
  unfold State.setCsr State.csr
  rw [moduleCsr_staleReg, if_pos rfl, Map.get_put]
  by_cases h : k = staleReg pk
  · rw [h, moduleCsr_staleReg, if_pos rfl, if_pos rfl, if_pos rfl]
  · rw [if_neg h, if_neg (by omega)]

theorem csr_staleReg (s : State) (pk p q : Nat) : s.csr p (staleReg pk) = s.csr q (staleReg pk) := by
  unfold State.csr
  rw [moduleCsr_staleReg]
  rfl

theorem countsStale_zero (s : State) (pk : Nat) : CountsStale s s pk 0 := countsStale_iff.mpr fun part k _ => by
  split
  · exact (BitVec.add_zero _).symm
  · rfl

theorem CountsStale.staleDrop {s t : State} {pk n : Nat} (h : CountsStale s t pk n) : CountsStale s (t.staleDrop pk) pk (n + 1) := by
  rw [countsStale_iff] at h ⊢
  intro part k hk
  show (t.setCsr _ (staleReg pk) (t.csr _ (staleReg pk) + 1#64)).csr part k = _
  rw [csr_setCsr_staleReg _ _ _ _ _ _ hk, h part k hk]
  by_cases hk' : k = staleReg pk
  · subst hk'
    rw [if_pos rfl, if_pos rfl, csr_staleReg t pk _ part, h part _ hk, if_pos rfl, BitVec.add_assoc, ← BitVec.ofNat_add]
  · rw [if_neg hk', if_neg hk', if_neg hk']

/-- Control registers are all that the count reads. -/
theorem CountsStale.congr {s t u : State} {pk n : Nat} (h : CountsStale s t pk n) (e : u.csrs = t.csrs) : CountsStale s u pk n := by
  rw [countsStale_iff] at h ⊢
  intro part k hk
  rw [← h part k hk]
  unfold State.csr
  rw [e]

theorem staleDrop_rest (s : State) (pk : Nat) : ∃ c, s.staleDrop pk = { s with csrs := c } := ⟨_, rfl⟩

end Sys2Proof.Claim

namespace Sys2Proof.Claim

open Sys2Proof Sys2Proof.Machine

/-! Shifts (R237, R239, R240). -/

theorem direction_eq (c : Nat) (hc : c < 8) : direction c = towards c := by
  have h : ∀ c : Fin 8, direction c = towards c := by decide
  exact h ⟨c, hc⟩

/-- A site has a source inside the lattice, and outside it when the edges wrap or mirror (R239). -/
def HasSource (mode W H : Nat) (d : ℤ × ℤ) (sx sy : Nat) : Prop :=
  ((0 ≤ (sx : ℤ) - d.1 ∧ (sx : ℤ) - d.1 < 4 * W) ∧ 0 ≤ (sy : ℤ) - d.2 ∧ (sy : ℤ) - d.2 < 4 * H) ∨ mode = 0 ∨ mode = 2

theorem shiftSource_isSome_iff (mode W H : Nat) (d : ℤ × ℤ) (sx sy : Nat) :
    (shiftSource mode W H d sx sy).isSome = true ↔ HasSource mode W H d sx sy := by
  have hin : (!(decide ((sx : ℤ) - d.1 < 0) || decide ((4 * W : ℤ) ≤ sx - d.1)) && !(decide ((sy : ℤ) - d.2 < 0) || decide ((4 * H : ℤ) ≤ sy - d.2))) = true ↔
      (0 ≤ (sx : ℤ) - d.1 ∧ (sx : ℤ) - d.1 < 4 * W) ∧ 0 ≤ (sy : ℤ) - d.2 ∧ (sy : ℤ) - d.2 < 4 * H := by
    simp
  unfold shiftSource HasSource
  dsimp only
  split
  next h => exact iff_of_true rfl (.inl (hin.mp h))
  next h =>
    have hout := fun h' => h (hin.mpr h')
    split
    · exact iff_of_true rfl (.inr (.inl rfl))
    · exact iff_of_true rfl (.inr (.inr rfl))
    next h0 h2 => exact iff_of_false Bool.false_ne_true (by rintro (h | h | h); exacts [hout h, h0 h, h2 h])

/-- A coordinate that leaves the lattice by one step stays in it when its edges mirror. -/
theorem mirror_nonneg {u S : ℤ} (hS : 0 < S) (hu : u ≤ S) : 0 ≤ if u < 0 then -1 - u else if S ≤ u then 2 * S - 1 - u else u := by
  split
  · omega
  split <;> omega

theorem sourceOf_iff {mode W H : Nat} {d : ℤ × ℤ} {sx sy : Nat} (hx : sx < 4 * W) (hy : sy < 4 * H) (hdx : -1 ≤ d.1) (hdy : -1 ≤ d.2) :
    (∃ gx gy wait, SourceOf mode W H d sx sy gx gy wait) ↔ HasSource mode W H d sx sy := by
  unfold SourceOf HasSource
  dsimp only
  constructor
  · rintro ⟨gx, gy, wait, ⟨hX, hY, -⟩ | ⟨-, hmode, -⟩ | ⟨-, hmode, -⟩⟩
    · exact .inl ⟨hX, hY⟩
    · exact .inr (.inl hmode)
    · exact .inr (.inr hmode)
  · intro h
    by_cases hin : (0 ≤ (sx : ℤ) - d.1 ∧ (sx : ℤ) - d.1 < 4 * W) ∧ 0 ≤ (sy : ℤ) - d.2 ∧ (sy : ℤ) - d.2 < 4 * H
    · exact ⟨_, _, 1, .inl ⟨hin.1, hin.2, Int.toNat_of_nonneg hin.1.1, Int.toNat_of_nonneg hin.2.1, rfl⟩⟩
    rcases h with h | h | h
    · exact absurd h hin
    · refine ⟨_, _, if 0 ≤ (sy : ℤ) - d.2 ∧ (sy : ℤ) - d.2 < 4 * H then 1 + (W + 7) / 8
        else if 0 ≤ (sx : ℤ) - d.1 ∧ (sx : ℤ) - d.1 < 4 * W then 1 + (H + 7) / 8 else 1 + (max W H + 7) / 8,
        .inr (.inl ⟨hin, h, Int.toNat_of_nonneg (Int.emod_nonneg _ (by omega)), Int.toNat_of_nonneg (Int.emod_nonneg _ (by omega)), fun hY => if_pos hY,
        fun hX => ?_, fun hX hY => ?_⟩)⟩
      · rw [if_neg fun hY => hin ⟨hX, hY⟩, if_pos hX]
      · rw [if_neg hY, if_neg hX]
    · exact ⟨_, _, 1, .inr (.inr ⟨hin, h, Int.toNat_of_nonneg (mirror_nonneg (by omega) (by omega)),
        Int.toNat_of_nonneg (mirror_nonneg (by omega) (by omega)), rfl⟩)⟩

theorem towards_ge (c : Nat) : -1 ≤ (towards c).1 ∧ -1 ≤ (towards c).2 := by
  unfold towards
  constructor <;> dsimp only <;> split_ifs <;> decide

/-- The lanes that have come for a shift, with their values. -/
def comeLanes (p : Plane) (h : Shift) : List (Nat × BitVec 32) :=
  (p.groupsIn.filter (fun g => g.here && g.elem = h.elem && g.node = h.node && g.frame = h.frame && g.gen = h.gen)).flatMap (fun g => g.lanes)

theorem mem_comeLanes {p : Plane} {h : Shift} {i : Nat} {v : BitVec 32} : (i, v) ∈ comeLanes p h ↔ Present p h i v := by
  unfold comeLanes Present
  rw [List.mem_flatMap]
  refine exists_congr fun g => ?_
  rw [List.mem_filter]
  simp [and_assoc]

/-- The value found for a lane is one that has come. -/
theorem present_of_find {p : Plane} {h : Shift} {i : Nat} {y : Nat × BitVec 32} (hy : (comeLanes p h).find? (fun y => y.1 = i) = some y) :
    Present p h i y.2 := by
  have hi : y.1 = i := by simpa using List.find?_some hy
  exact mem_comeLanes.mp (hi ▸ List.mem_of_find?_eq_some hy)

theorem fillLane_lt (n : NodeBody) (halo : Option Operand) (i : Nat) : fillLane n halo i < 2 ^ 32 := by
  unfold fillLane
  split
  · split
    · split
      · exact lane_lt _ _
      · norm_num
    · norm_num
  · exact n.operand.isLt.trans_le (by norm_num)

/-- Lane i of a shift's value: a lane that has come, or the fill. -/
def laneOf (p : Plane) (pk : Nat) (h : Shift) (n : NodeBody) (i : Nat) : Option Nat :=
  let (x0, y0, W, H) := p.lattice pk h.node h.elem
  match shiftSource (n.mod.toNat % 4) W H (direction (n.seq.toNat % 8)) (4 * (h.elem % 64 - x0) + i % 4) (4 * (h.elem / 64 - y0) + i / 4) with
  | none => some (fillLane n h.halo i)
  | some _ => ((comeLanes p h).find? (fun y => y.1 = i)).map (fun y => y.2.toNat)

theorem shiftValue_of_lanes {p : Plane} {pk : Nat} {h : Shift} {n : NodeBody} {f : Nat → Nat} (hf : ∀ i < 16, laneOf p pk h n i = some (f i)) :
    p.shiftValue pk h n = some (mkVec 32 ((List.range 16).map f)) := by
  have hmap : (List.range 16).map (laneOf p pk h n) = (List.range 16).map (fun i => some (f i)) :=
    List.map_congr_left fun i hi => hf i (List.mem_range.mp hi)
  have hdef : p.shiftValue pk h n = if ((List.range 16).map (laneOf p pk h n)).all Option.isSome then
      some (mkVec 32 (((List.range 16).map (laneOf p pk h n)).map (fun o => o.getD 0))) else none := rfl
  rw [hdef, hmap, if_pos (by simp), List.map_map]
  rfl

/-- A shift whose lanes have all come completes, each lane as it came or as the fill gives it (R239, R240). -/
theorem shiftValue_spec {p : Plane} {pk x0 y0 W H : Nat} {h : Shift} {n : NodeBody} (hl : p.lattice pk h.node h.elem = (x0, y0, W, H))
    (hex : h.elem % 64 - x0 < W) (hey : h.elem / 64 - y0 < H) :
    let from_ (i : Nat) : Prop := ∃ gx gy wait, SourceOf (n.mod.toNat % 4) W H (towards (n.seq.toNat % 8))
      (4 * (h.elem % 64 - x0) + i % 4) (4 * (h.elem / 64 - y0) + i / 4) gx gy wait
    (∀ i < 16, from_ i → ∃ v, Present p h i v) → ∃ V, p.shiftValue pk h n = some V ∧
      ∀ i < 16, (from_ i → Present p h i (BitVec.ofNat 32 (lane V i))) ∧ (¬from_ i → lane V i = fillLane n h.halo i) := by
  intro from_ hall
  have hlane : ∀ i, ∃ x, i < 16 → laneOf p pk h n i = some x ∧ x < 2 ^ 32 ∧ (from_ i → Present p h i (BitVec.ofNat 32 x)) ∧ (¬from_ i → x = fillLane n h.halo i) := by
    intro i
    by_cases hi : i < 16
    swap
    · exact ⟨0, fun h => absurd h hi⟩
    obtain ⟨hdx, hdy⟩ := towards_ge (n.seq.toNat % 8)
    have hfrom : from_ i ↔ _ := (sourceOf_iff (by omega) (by omega) hdx hdy).trans (shiftSource_isSome_iff _ _ _ _ _ _).symm
    unfold laneOf
    rw [hl, direction_eq _ (Nat.mod_lt _ (by norm_num))]
    dsimp only
    cases hs : shiftSource (n.mod.toNat % 4) W H (towards (n.seq.toNat % 8)) (4 * (h.elem % 64 - x0) + i % 4) (4 * (h.elem / 64 - y0) + i / 4) with
    | none =>
      rw [hs] at hfrom
      exact ⟨_, fun _ => ⟨rfl, fillLane_lt _ _ _, fun hf => Bool.noConfusion (hfrom.mp hf), fun _ => rfl⟩⟩
    | some z =>
      have hf : from_ i := hfrom.mpr (by rw [hs]; rfl)
      obtain ⟨v, hv⟩ := hall i hi hf
      have hsome : ((comeLanes p h).find? (fun y => y.1 = i)).isSome = true := List.find?_isSome.mpr ⟨_, mem_comeLanes.mpr hv, by simp⟩
      obtain ⟨y, hy⟩ := Option.isSome_iff_exists.mp hsome
      exact ⟨y.2.toNat, fun _ => ⟨by rw [hy]; rfl, y.2.isLt, fun _ => by rw [BitVec.ofNat_toNat, BitVec.setWidth_eq]; exact present_of_find hy,
        fun h => absurd hf h⟩⟩
  choose f hf using hlane
  refine ⟨_, shiftValue_of_lanes fun i hi => (hf i hi).1, fun i hi => ?_⟩
  obtain ⟨-, hlt, hcome, hfill⟩ := hf i hi
  rw [lane_mkVec _ i hi, Nat.mod_eq_of_lt hlt]
  exact ⟨hcome, hfill⟩

end Sys2Proof.Claim

namespace Sys2Proof.Claim

open Sys2Proof Sys2Proof.Machine

/-! Barriers (R228): every copy that arrived sends its L, as an acquire. -/

/-- What one copy does as it leaves a barrier. -/
def leave (pk f gen node : Nat) (p : Plane) (s : State) (x : Nat × Nat × Operand) : State :=
  (s.acquireTop (s.frameIss pk x.2.1 node f gen)).sendBoth pk x.2.1 (Decode.nodeBody (p.word pk x.2.1 node)) f gen x.2.2.data

theorem exitBar_eq (s : State) (pk : Nat) (b : Bar) : s.exitBar pk b = match (s.plane pk).frames.find b.frame with
    | none => s
    | some fr =>
      if !(match b.exit with | some t => decide (t ≤ s.fc) | none => false) ∨ (s.plane pk).leaving then s
      else b.arrived.foldl (leave pk b.frame fr.gen b.node (s.plane pk)) (s.setPlane pk { s.plane pk with bars := (s.plane pk).bars.erase b }) := rfl

/-- Copies have left a barrier since state `s`: they have sent the tokens `l`, frame `f` is `fr` now, and the plane's barriers are `bs`. -/
structure Left (s t : State) (pk f : Nat) (bs : List Bar) (fr : Frame) (l : List Flight) : Prop where
  rest : t = { s with planes := t.planes, flights := s.flights ++ l }
  others : OtherPlanes s t pk
  plane : t.plane pk = { s.plane pk with bars := bs, frames := (t.plane pk).frames }
  frames : ∀ g, (t.plane pk).frames.find g = if g = f then some fr else (s.plane pk).frames.find g

/-- An acquire of a frame that lives makes the horizon of its copy's agent TOP, and changes nothing else (R104). -/
theorem acquireTop_frame {s : State} {pk e node f : Nat} {fr : Frame} (h : (s.plane pk).frames.find f = some fr) :
    s.acquireTop (s.frameIss pk e node f fr.gen) = s.setPlane pk { s.plane pk with
      frames := (s.plane pk).frames.put f (fr.setAgent ((s.plane pk).copyOf pk e) (fun _ => none) id) } := by
  unfold State.acquireTop State.setAgent State.frameIss
  dsimp only
  unfold Plane.frame?
  rw [h]
  exact if_pos rfl

section

variable {s t : State} {pk f : Nat} {bs : List Bar} {fr : Frame} {l : List Flight} (h : Left s t pk f bs fr l)
include h

theorem Left.copyOf (e : Nat) : (t.plane pk).copyOf pk e = (s.plane pk).copyOf pk e := by
  rw [h.plane]
  rfl

theorem Left.acquire (e node : Nat) :
    Left s (t.acquireTop (t.frameIss pk e node f fr.gen)) pk f bs (fr.setAgent ((s.plane pk).copyOf pk e) (fun _ => none) id) l := by
  rw [acquireTop_frame ((h.frames f).trans (if_pos rfl)), h.copyOf]
  refine ⟨?_, h.others.trans (otherPlanes_setPlane _ _ _), ?_, fun g => ?_⟩
  · conv_lhs => rw [h.rest]
    rfl
  · rw [State.plane_setPlane, if_pos rfl]
    conv_lhs => rw [h.plane]
  · rw [State.plane_setPlane, if_pos rfl, Map.find_put, h.frames]
    split <;> rfl

theorem Left.sameWays : SameWays s t pk := ⟨by rw [h.rest], by rw [h.plane], fun _ => by rw [h.plane]; rfl⟩

theorem Left.send (e : Nat) (n : NodeBody) (gen : Nat) (v : Operand) :
    ∃ k, Left s (t.sendBoth pk e n f gen v) pk f bs fr (l ++ k) ∧ Both s pk e n f gen v k := by
  obtain ⟨k, hk, hb⟩ := sendBoth_both t pk e n f gen v
  refine ⟨k, ⟨?_, ?_, ?_, ?_⟩, hb.congr h.sameWays⟩
  · rw [hk]
    conv_lhs => rw [h.rest]
    rw [List.append_assoc]
  · exact h.others.of_planes (by rw [hk])
  · rw [hk]
    exact h.plane
  · rw [hk]
    exact h.frames

end

theorem setAgent_gen (fr : Frame) (c : Nat) (u : Horizon → Horizon) (g : Nat → Nat) : (fr.setAgent c u g).gen = fr.gen := rfl

theorem agent_setAgent (fr : Frame) (c d : Nat) (u : Horizon → Horizon) (g : Nat → Nat) :
    (fr.setAgent c u g).agent d = if d = c then (u (fr.agent c).1, g (fr.agent c).2) else fr.agent d := by
  unfold Frame.setAgent Frame.agent
  exact Map.get_put _ _ _ _ _

/-- Every copy leaves, one after the other. -/
theorem Left.leaves {s : State} {pk f gen node : Nat} {bs : List Bar} (arrived : List (Nat × Nat × Operand)) :
    ∀ {t : State} {fr : Frame} {l : List Flight}, fr.gen = gen → Left s t pk f bs fr l →
    ∃ ls fr', Left s (arrived.foldl (leave pk f gen node (s.plane pk)) t) pk f bs fr' (l ++ ls.flatten) ∧ fr' = { fr with agents := fr'.agents } ∧
      (∀ c, fr'.agent c = if ∃ x ∈ arrived, (s.plane pk).copyOf pk x.2.1 = c then (none, (fr.agent c).2) else fr.agent c) ∧
      List.Forall₂ (fun x l => Both s pk x.2.1 (Decode.nodeBody ((s.plane pk).word pk x.2.1 node)) f gen { x.2.2 with kind := 0#4 } l) arrived ls := by
  induction arrived with
  | nil => exact fun {t fr l} _ h => ⟨[], fr, by simpa using h, rfl, fun c => by simp, .nil⟩
  | cons x arrived ih =>
    intro t fr l hgen h
    subst hgen
    obtain ⟨k, hk, hb⟩ := (h.acquire x.2.1 node).send x.2.1 (Decode.nodeBody ((s.plane pk).word pk x.2.1 node)) fr.gen x.2.2.data
    obtain ⟨ls, fr', hl, hfr, hag, hall⟩ := ih (setAgent_gen fr _ _ _) hk
    refine ⟨k :: ls, fr', ?_, hfr, fun c => ?_, .cons hb hall⟩
    · rw [List.flatten_cons, ← List.append_assoc]
      exact hl
    · have hcons := List.exists_mem_cons_iff (fun y : Nat × Nat × Operand => (s.plane pk).copyOf pk y.2.1 = c) x arrived
      rw [hag, agent_setAgent, if_congr hcons rfl rfl]
      by_cases hc : (s.plane pk).copyOf pk x.2.1 = c
      · rw [if_pos hc.symm, if_pos (Or.inl hc : (s.plane pk).copyOf pk x.2.1 = c ∨ _), hc]
        exact ite_self _
      · rw [if_neg (Ne.symm hc), if_congr (or_iff_right hc) rfl rfl]

/-- A barrier whose time has come, on a plane that stays. -/
theorem exitBar_of_passed {s : State} {pk tm : Nat} {b : Bar} {fr : Frame} (hf : (s.plane pk).frames.find b.frame = some fr) (he : b.exit = some tm) (ht : tm ≤ s.fc)
    (hstays : (s.plane pk).leaving = false) :
    ∃ ls fr', Left s (s.exitBar pk b) pk b.frame ((s.plane pk).bars.erase b) fr' ls.flatten ∧ fr' = { fr with agents := fr'.agents } ∧
      (∀ c, fr'.agent c = if ∃ x ∈ b.arrived, (s.plane pk).copyOf pk x.2.1 = c then (none, (fr.agent c).2) else fr.agent c) ∧
      List.Forall₂ (fun x l => Both s pk x.2.1 (Decode.nodeBody ((s.plane pk).word pk x.2.1 b.node)) b.frame fr.gen { x.2.2 with kind := 0#4 } l)
        b.arrived ls := by
  have hleft : Left s (s.setPlane pk { s.plane pk with bars := (s.plane pk).bars.erase b }) pk b.frame ((s.plane pk).bars.erase b) fr [] := by
    refine ⟨by rw [List.append_nil]; rfl, otherPlanes_setPlane _ _ _, ?_, fun g => ?_⟩ <;> rw [State.plane_setPlane, if_pos rfl]
    split
    next hg => rw [hg, hf]
    next => rfl
  have hexit : s.exitBar pk b = b.arrived.foldl (leave pk b.frame fr.gen b.node (s.plane pk))
      (s.setPlane pk { s.plane pk with bars := (s.plane pk).bars.erase b }) := by
    rw [exitBar_eq, hf, he]
    exact if_neg (by simp [hstays, ht])
  rw [hexit]
  exact hleft.leaves b.arrived rfl

theorem leaving_iff (p : Plane) : p.leaving = true ↔ p.swap = 2 ∨ (p.swap = 1 ∧ p.midDraw = false) := by
  unfold Plane.leaving
  simp

/-- A barrier stays while its frame is gone, its plane leaves, or its time has not come. -/
theorem exitBar_of_waiting {s : State} {pk : Nat} {b : Bar}
    (h : (s.plane pk).frames.find b.frame = none ∨ (s.plane pk).leaving = true ∨ ∀ t, b.exit = some t → s.fc < t) : s.exitBar pk b = s := by
  rw [exitBar_eq]
  split
  · rfl
  next fr hf =>
    refine if_pos ?_
    rcases h with h | h | h
    · rw [hf] at h
      cases h
    · exact .inr h
    · refine .inl ?_
      split
      next t ht => simp [h t ht]
      next => rfl

/-- The barriers of every plane, in the order of the table. -/
def barriers (s : State) : List (Nat × Bar) := s.planes.flatMap (fun x => x.2.bars.map (fun b => (x.1, b)))

theorem execEBarrierExit_eq (s : State) : exec .eBarrierExit s = .next ((barriers s).foldl (fun s x => s.exitBar x.1 x.2) s) := by
  show Host.Outcome.next (s.planes.foldl (fun s (x : Nat × Plane) => x.2.bars.foldl (fun s b => s.exitBar x.1 b) s) s) = _
  unfold barriers
  rw [List.foldl_flatMap]
  simp only [List.foldl_map]

theorem acquireTop_fc (s : State) (i : Issuer) : (s.acquireTop i).fc = s.fc := by
  unfold State.acquireTop State.setAgent
  split
  · split
    · split <;> rfl
    · rfl
  · rfl
  · rfl

theorem sendBoth_fc (s : State) (pk e : Nat) (n : NodeBody) (f gen : Nat) (v : Operand) : (s.sendBoth pk e n f gen v).fc = s.fc := by
  obtain ⟨l, hl, -⟩ := sendBoth_both s pk e n f gen v
  rw [hl]

theorem exitBar_fc (s : State) (pk : Nat) (b : Bar) : (s.exitBar pk b).fc = s.fc := by
  rw [exitBar_eq]
  split
  · rfl
  · refine (apply_ite State.fc _ _ _).trans (ite_eq_left_iff.mpr fun _ => ?_)
    exact List.foldlRecOn (motive := fun t : State => t.fc = s.fc) b.arrived _ rfl fun t ht x _ => by
      unfold leave
      rw [sendBoth_fc, acquireTop_fc, ht]

/-- The states that a fold passes through; what every step keeps holds of all of them. -/
theorem foldl_trace {α β : Type} (f : α → β → α) (l : List β) (a : α) :
    ∃ u : Nat → α, u 0 = a ∧ l.foldl f a = u l.length ∧ (∀ i x, l[i]? = some x → u (i + 1) = f (u i) x) ∧
      ∀ P : α → Prop, P a → (∀ b x, P b → P (f b x)) → ∀ i, P (u i) :=
  ⟨fun i => (l.take i).foldl f a, rfl, by simp, fun i x hx => by
    obtain ⟨hi, rfl⟩ := List.getElem?_eq_some_iff.mp hx
    dsimp only
    rw [List.take_succ_eq_append_getElem hi, List.foldl_append]
    rfl, fun P h0 hstep i => List.foldlRecOn _ _ h0 fun b hb x _ => hstep b x hb⟩

end Sys2Proof.Claim

namespace Sys2Proof.Claim

open Sys2Proof Sys2Proof.Machine

/-- A lane group that is due arrives for a frame that lives (R240). -/
theorem groupArrives_of_live {s : State} {pk j : Nat} {g : LaneGroup} (hg : (s.plane pk).groupsIn[j]? = some g) (hhere : g.here = false) (hdue : g.due ≤ s.fc)
    (hlive : ∃ fr, (s.plane pk).frames.find g.frame = some fr ∧ fr.gen = g.gen) :
    s.groupArrives pk j = s.setPlane pk { s.plane pk with groupsIn := (s.plane pk).groupsIn.set j { g with here := true } } := by
  obtain ⟨fr, hf, hgen⟩ := hlive
  unfold State.groupArrives Plane.frame?
  dsimp only
  rw [hg]
  dsimp only
  rw [hf, if_neg (by simp [hhere, hdue]), if_pos (by simp [hgen])]

/-- One for a frame that is gone is dropped and counted (R20, R240). -/
theorem groupArrives_of_stale {s : State} {pk j : Nat} {g : LaneGroup} (hg : (s.plane pk).groupsIn[j]? = some g) (hhere : g.here = false) (hdue : g.due ≤ s.fc)
    (hstale : ∀ fr, (s.plane pk).frames.find g.frame = some fr → fr.gen ≠ g.gen) :
    s.groupArrives pk j = (s.setPlane pk { s.plane pk with groupsIn := (s.plane pk).groupsIn.eraseIdx j }).staleDrop pk := by
  unfold State.groupArrives Plane.frame?
  dsimp only
  rw [hg]
  dsimp only
  rw [if_neg (by simp [hhere, hdue])]
  refine if_neg ?_
  split
  next fr hf => simpa using hstale fr hf
  next => exact Bool.false_ne_true

theorem execEShiftLaneArrival_of_located {s : State} {i pk j : Nat} (h : locateGroup s.planes i = some (pk, j)) :
    exec (.eShiftLaneArrival i) s = .next (s.groupArrives pk j) := by
  show execEShiftLaneArrival i s = _
  unfold execEShiftLaneArrival
  rw [h]

/-- A lane group is one of those that a completed shift uses up. -/
def usedBy (h : Shift) (g : LaneGroup) : Bool := g.here && g.elem = h.elem && g.node = h.node && g.frame = h.frame && g.gen = h.gen

/-- The plane after a shift has completed with the value `v` (R237, R240). -/
def Plane.shifted (p : Plane) (h : Shift) (v : Vec) : Plane :=
  { p with
    shifts := p.shifts.erase h, groupsIn := p.groupsIn.filter (fun g => !usedBy h g)
    pendShift := p.pendShift ++ [(h.node, .wreg (32 * h.elem + h.reg) v)] }

/-- What is found for a place names the place. -/
theorem shift_place {p : Plane} {e node frame : Nat} {h : Shift} (hs : p.shifts.find? (fun h => h.elem = e && h.node = node && h.frame = frame) = some h) :
    h.elem = e ∧ h.node = node ∧ h.frame = frame := by
  simpa [and_assoc] using List.find?_some hs

theorem execEShiftComplete_of_value {s : State} {pk x y : Nat} {h : Shift} {fr : Frame} {v : Vec} (he : h.elem = 64 * y + x)
    (hs : (s.plane pk).shifts.find? (fun k => k.elem = h.elem && k.node = h.node && k.frame = h.frame) = some h)
    (hf : (s.plane pk).frames.find h.frame = some fr) (hgen : fr.gen = h.gen) (hparked : fr.parked = false) (hfrozen : (s.plane pk).frozen = false)
    (hat : h.at_ < s.fc) (hv : (s.plane pk).shiftValue pk h (Decode.nodeBody ((s.plane pk).word pk h.elem h.node)) = some v) :
    exec (.eShiftComplete pk x y h.node h.frame) s = .next ((s.setPlane pk (Plane.shifted (s.plane pk) h v)).sendBoth pk h.elem
      (Decode.nodeBody ((s.plane pk).word pk h.elem h.node)) h.frame fr.gen h.l.data) := by
  show execEShiftComplete pk x y h.node h.frame s = _
  unfold execEShiftComplete Plane.frame?
  dsimp only
  rw [← he, hs, hf]
  dsimp only
  rw [if_neg (by simp [hgen, hparked, hfrozen, hat]), hv]
  rfl

/-- What a completed shift uses up, by the statement's own words. -/
theorem mem_shifted {p : Plane} {h : Shift} {v : Vec} {g : LaneGroup} : g ∈ (Plane.shifted p h v).groupsIn ↔
    g ∈ p.groupsIn ∧ ¬(g.here = true ∧ g.elem = h.elem ∧ g.node = h.node ∧ g.frame = h.frame ∧ g.gen = h.gen) := by
  have hused : usedBy h g = true ↔ g.here = true ∧ g.elem = h.elem ∧ g.node = h.node ∧ g.frame = h.frame ∧ g.gen = h.gen := by
    simp [usedBy, and_assoc]
  unfold Plane.shifted
  rw [List.mem_filter, ← hused, Bool.not_eq_true', Bool.not_eq_true]

/-- A shift whose lanes have all come completes. -/
theorem shift_completes {s : State} {pk x y e node frame x0 y0 W H : Nat} {h : Shift} {fr : Frame} (he : e = 64 * y + x)
    (hs : (s.plane pk).shifts.find? (fun k => k.elem = e && k.node = node && k.frame = frame) = some h)
    (hf : (s.plane pk).frames.find frame = some fr) (hgen : fr.gen = h.gen) (hparked : fr.parked = false) (hfrozen : (s.plane pk).frozen = false)
    (hat : h.at_ < s.fc) (hl : (s.plane pk).lattice pk node e = (x0, y0, W, H)) (hex : e % 64 - x0 < W) (hey : e / 64 - y0 < H) :
    let p := s.plane pk; let n := Decode.nodeBody (p.word pk e node)
    let from_ (i : Nat) : Prop := ∃ gx gy wait, SourceOf (n.mod.toNat % 4) W H (towards (n.seq.toNat % 8))
      (4 * (e % 64 - x0) + i % 4) (4 * (e / 64 - y0) + i / 4) gx gy wait
    (∀ i < 16, from_ i → ∃ v, Present p h i v) →
    ∃ t l V, exec (.eShiftComplete pk x y node frame) s = .next t ∧ t = { s with planes := t.planes, flights := s.flights ++ l } ∧
      OtherPlanes s t pk ∧
      t.plane pk = { p with
        shifts := p.shifts.erase h, groupsIn := (t.plane pk).groupsIn
        pendShift := p.pendShift ++ [(node, .wreg (32 * e + h.reg) V)] } ∧
      (∀ g, g ∈ (t.plane pk).groupsIn ↔ g ∈ p.groupsIn ∧ ¬(g.here = true ∧ g.elem = e ∧ g.node = node ∧ g.frame = frame ∧ g.gen = h.gen)) ∧
      Both s pk e n frame fr.gen { h.l with kind := 0#4 } l ∧
      ∀ i < 16, (from_ i → Present p h i (BitVec.ofNat 32 (lane V i))) ∧ (¬from_ i → lane V i = fillLane n h.halo i) := by
  obtain ⟨rfl, rfl, rfl⟩ := shift_place hs
  intro p n from_ hall
  obtain ⟨V, hV, hlanes⟩ := shiftValue_spec hl hex hey hall
  have hplane : (s.setPlane pk (Plane.shifted p h V)).plane pk = Plane.shifted p h V := (State.plane_setPlane _ _ _ _).trans (if_pos rfl)
  have hways : SameWays s (s.setPlane pk (Plane.shifted p h V)) pk := ⟨rfl, by rw [hplane]; rfl, fun _ => by rw [hplane]; rfl⟩
  obtain ⟨l, hsend, hb⟩ := sendBoth_both (s.setPlane pk (Plane.shifted p h V)) pk h.elem n h.frame fr.gen h.l.data
  refine ⟨_, l, V, execEShiftComplete_of_value he hs hf hgen hparked hfrozen hat hV, ?_, ?_, ?_, fun g => ?_, Both.congr hways hb, hlanes⟩ <;> rw [hsend]
  · rfl
  · exact otherPlanes_setPlane _ _ _
  · exact hplane.symm.subst (motive := fun q : Plane => q = { p with
      shifts := p.shifts.erase h, groupsIn := q.groupsIn, pendShift := p.pendShift ++ [(h.node, .wreg (32 * h.elem + h.reg) V)] }) rfl
  · exact (iff_of_eq (congrArg (g ∈ ·.groupsIn) hplane)).trans mem_shifted

end Sys2Proof.Claim

namespace Sys2Proof

open Machine Claim

/-- Settles O45: each event does what the statement says when it is enabled; a barrier's exit is a fold over the copies that arrived, and
BARRIER_EXIT one over the barriers of every plane. -/
theorem splicesShiftsAndBarriersComplete : Obligations.SplicesShiftsAndBarriersComplete := by
  unfold Obligations.SplicesShiftsAndBarriersComplete
  refine ⟨fun s pk qk x y => ?wave, fun s pk qk x y => ?switch, fun s i pk j g => ?arrival, fun s pk x y node frame h fr => ?shift, fun s => ?barrier⟩
  case wave => exact fun hpred hin hnone hframes hflights => ⟨_, execEWaveSend_of_empty hpred hin hnone hframes hflights, planeSet_setPlane _ _ _⟩
  case switch => exact fun hpred hin hnew hgroups hwaves => ⟨_, execEElementSwitch_of_waves hpred hin hnew hgroups hwaves, planeSet_setPlane _ _ _⟩
  case arrival =>
    intro p hloc hg hhere hdue
    refine ⟨fun hlive => ⟨_, execEShiftLaneArrival_of_located hloc, ?_⟩, fun hstale => ⟨_, execEShiftLaneArrival_of_located hloc, ?_⟩⟩
    · rw [groupArrives_of_live hg hhere hdue hlive]
      exact planeSet_setPlane _ _ _
    · rw [groupArrives_of_stale hg hhere hdue hstale]
      exact ⟨rfl, otherPlanes_setPlane _ _ _, (State.plane_setPlane _ _ _ _).trans (if_pos rfl), ((countsStale_zero s pk).congr rfl).staleDrop⟩
  case shift =>
    intro e p n
    split
    next x0 y0 W H hl =>
    intro mode ex ey from_ hs hf hgen hparked hfrozen hat hex hey hall
    exact shift_completes rfl hs hf hgen hparked hfrozen hat hl hex hey fun i hi hfrom => (hall i hi hfrom).imp fun _ => And.left
  case barrier =>
    intro bs
    obtain ⟨u, h0, hend, hstep, hkeeps⟩ := foldl_trace (fun s (x : Nat × Bar) => s.exitBar x.1 x.2) (barriers s) s
    have hfc := hkeeps (fun t => t.fc = s.fc) rfl fun t x ht => (exitBar_fc t x.1 x.2).trans ht
    refine ⟨u, h0, (execEBarrierExit_eq s).trans (congrArg _ hend), fun i pk b hi => ?_⟩
    intro p gone
    have hu : u (i + 1) = (u i).exitBar pk b := hstep i _ hi
    rw [hu, ← hfc i]
    refine ⟨fun fr t hf he ht hstays => ?_, fun h => exitBar_of_waiting (h.imp_right (Or.imp_left (leaving_iff _).mpr))⟩
    obtain ⟨ls, fr', hleft, hfr, hag, hall⟩ := exitBar_of_passed hf he ht (Bool.eq_false_iff.mpr fun h => hstays ((leaving_iff _).mp h))
    exact ⟨ls, hleft.rest, hleft.others, hleft.plane, ⟨fr', hfr, hag, hleft.frames⟩, hall⟩

end Sys2Proof

namespace Sys2Proof.Claim

open Sys2Proof Sys2Proof.Machine

/-! Firings that end a frame's part in a copy, and hand a horizon on (R104, R208 to R210). -/

/-- The horizon of a frame's agent in a copy changes, if the frame lives. -/
def changeHorizon (s : State) (k f gen cp : Nat) (u : Horizon → Horizon) : State :=
  match (s.plane k).frames.find f with
  | some x => if x.gen = gen then s.setPlane k { s.plane k with frames := (s.plane k).frames.put f (x.setAgent cp u id) } else s
  | none => s

theorem inherit_eq (s : State) (a : Fire) (f g : Nat) : s.inherit a f g = changeHorizon s a.pk f g (copyOf a) (fun _ => handed a) := rfl

theorem sendReturn_of_caller {s : State} {a : Fire} {c : Caller} (h : a.fr.caller = some c) (v : Operand) :
    s.sendReturn a v = (changeHorizon s c.plane c.frame c.gen ((s.plane c.plane).copyOf c.plane c.elem) (fun h => mergeHorizon h (handed a))).post
      c.plane c.elem (2 ^ 43 + 4096 * a.pk + a.e) 1 c.frame c.gen c.node c.port 9 (v.result.narrow c.sel) := by
  unfold State.sendReturn
  rw [h]
  rfl

theorem sendReturn_of_none {s : State} {a : Fire} (h : a.fr.caller = none) (v : Operand) : s.sendReturn a v = s := by
  unfold State.sendReturn
  rw [h]

/-- Which horizons `changeHorizon` changes. -/
def changes (k f gen cp : Nat) (u : Horizon → Horizon) (k' f' : Nat) (fr : Frame) (cp' : Nat) (h : Horizon) : Horizon :=
  if k' = k ∧ f' = f ∧ fr.gen = gen ∧ cp' = cp then u h else h

/-- Horizons as they were. -/
def asWere (_ _ : Nat) (_ : Frame) (_ : Nat) (h : Horizon) : Horizon := h

/-- The horizons of a frame's agents have changed as `g` says, and nothing else of the frame. -/
def TakesAt (o o' : Option Frame) (g : Frame → Nat → Horizon → Horizon) : Prop :=
  (o = none → o' = none) ∧ ∀ fr, o = some fr → ∃ x, o' = some x ∧ x = { fr with agents := x.agents } ∧
    ∀ cp, x.agent cp = (g fr cp (fr.agent cp).1, (fr.agent cp).2)

theorem takesAt_same {o : Option Frame} {g : Frame → Nat → Horizon → Horizon} (hg : ∀ fr, o = some fr → ∀ cp h, g fr cp h = h) : TakesAt o o g :=
  ⟨id, fun fr h => ⟨fr, h, rfl, fun cp => by rw [hg fr h]⟩⟩

theorem takesAt_setAgent {fr : Frame} {c : Nat} {u : Horizon → Horizon} {g : Frame → Nat → Horizon → Horizon}
    (hg : ∀ cp h, g fr cp h = if cp = c then u h else h) : TakesAt (some fr) (some (fr.setAgent c u id)) g := by
  refine ⟨(nomatch ·), fun x hx => ?_⟩
  cases hx
  refine ⟨_, rfl, rfl, fun cp => ?_⟩
  rw [agent_setAgent, hg]
  by_cases h : cp = c
  · rw [if_pos h, if_pos h, h]
    rfl
  · rw [if_neg h, if_neg h]

/-- The horizons of frames' agents have changed as `takes` says, and nothing else of any frame. -/
def Takes (s t : State) (takes : Nat → Nat → Frame → Nat → Horizon → Horizon) : Prop :=
  ∀ k f, TakesAt ((s.plane k).frames.find f) ((t.plane k).frames.find f) (takes k f)

theorem takes_refl (s : State) : Takes s s asWere := fun _ _ => takesAt_same fun _ _ _ _ => rfl

/-- One change of a horizon touches one plane's frames, and there one frame's agent. -/
structure HorizonChanged (s t : State) (k f gen cp : Nat) (u : Horizon → Horizon) : Prop where
  rest : t = { s with planes := t.planes }
  others : OtherPlanes s t k
  planes : ∀ k', t.plane k' = { s.plane k' with frames := (t.plane k').frames }
  takes : Takes s t (changes k f gen cp u)

theorem changes_of_not {k f gen cp k' f' cp' : Nat} {u : Horizon → Horizon} {fr : Frame} {h : Horizon} (hn : ¬(k' = k ∧ f' = f ∧ fr.gen = gen)) :
    changes k f gen cp u k' f' fr cp' h = h := if_neg fun ⟨h1, h2, h3, _⟩ => hn ⟨h1, h2, h3⟩

theorem horizonChanged_refl {s : State} {k f gen cp : Nat} {u : Horizon → Horizon} (h : ∀ x, (s.plane k).frames.find f = some x → x.gen ≠ gen) :
    HorizonChanged s s k f gen cp u :=
  ⟨rfl, fun _ _ => rfl, fun _ => rfl, fun k' f' => takesAt_same fun fr hf _ _ => changes_of_not fun ⟨hk, hf', hg⟩ => h fr (by rw [← hk, ← hf']; exact hf) hg⟩

theorem horizonChanged_setAgent {s : State} {k f cp : Nat} {x : Frame} (u : Horizon → Horizon) (hx : (s.plane k).frames.find f = some x) :
    HorizonChanged s (s.setPlane k { s.plane k with frames := (s.plane k).frames.put f (x.setAgent cp u id) }) k f x.gen cp u := by
  refine ⟨rfl, otherPlanes_setPlane _ _ _, fun k' => ?_, fun k' f' => ?_⟩ <;> rw [State.plane_setPlane]
  · split
    next h => rw [h]
    next => rfl
  by_cases hk : k' = k
  · subst hk
    rw [if_pos rfl, Map.find_put]
    by_cases hf : f' = f
    · subst hf
      rw [if_pos rfl, hx]
      refine takesAt_setAgent fun cp' h => ?_
      unfold changes
      simp
    · rw [if_neg hf]
      exact takesAt_same fun _ _ _ _ => changes_of_not fun h => hf h.2.1
  · rw [if_neg hk]
    exact takesAt_same fun _ _ _ _ => changes_of_not fun h => hk h.1

theorem horizonChanged_changeHorizon (s : State) (k f gen cp : Nat) (u : Horizon → Horizon) :
    HorizonChanged s (changeHorizon s k f gen cp u) k f gen cp u := by
  unfold changeHorizon
  split
  next x hx =>
    split
    next hg =>
      subst hg
      exact horizonChanged_setAgent u hx
    next hg => exact horizonChanged_refl fun y hy => by cases hx.symm.trans hy; exact hg
  next hx => exact horizonChanged_refl fun y hy => by rw [hx] at hy; cases hy

/-- A firing has consumed its operands and handed its horizon on, and its tokens are sent. -/
structure Handed (s t : State) (a : Fire) (takes : Nat → Nat → Frame → Nat → Horizon → Horizon) : Prop where
  rest : t = { s with planes := t.planes, fired := t.fired, rr := t.rr, flights := t.flights }
  fired : HasFired s t a.pk a.e
  takes : Takes s t takes
  planes : ∀ k, k ≠ a.pk → t.plane k = { s.plane k with frames := (t.plane k).frames }
  plane : t.plane a.pk = { s.plane a.pk with frames := (t.plane a.pk).frames, slots := (t.plane a.pk).slots }
  consumes : Consumes a (s.plane a.pk) (t.plane a.pk)

theorem frames_of_took {s t : State} {a : Fire} (h : Took s t a) (k : Nat) : (t.plane k).frames = (s.plane k).frames := by
  by_cases hk : k = a.pk
  · rw [hk, h.plane]
  · rw [h.others.plane hk]

theorem Handed.of_took {s t : State} {a : Fire} (h : Took s t a) : Handed s t a asWere := by
  refine ⟨?_, h.fired, fun k f => ?_, fun k hk => ?_, ?_, h.consumes⟩
  · conv_lhs => rw [h.rest]
    rw [h.rest]
  · rw [frames_of_took h]
    exact takes_refl s k f
  · rw [h.others.plane hk]
  · conv_lhs => rw [h.plane]
    rw [frames_of_took h]

/-- The operands are taken, and a horizon changes then. -/
theorem Handed.of_changed {s t u : State} {a : Fire} {k f gen cp : Nat} {w : Horizon → Horizon} (h : Took s t a) (hc : HorizonChanged t u k f gen cp w) :
    Handed s u a (changes k f gen cp w) := by
  have hslots : ∀ k, (u.plane k).slots = (t.plane k).slots := fun k => by rw [hc.planes]
  refine ⟨?_, ?_, fun k' f' => ?_, fun k' hk => ?_, ?_, fun j => ?_⟩
  · have hfired : u.fired = t.fired := by rw [hc.rest]
    have hrr : u.rr = t.rr := by rw [hc.rest]
    have hflights : u.flights = s.flights := by rw [hc.rest, h.rest]
    rw [hfired, hrr, hflights]
    conv_lhs => rw [hc.rest, h.rest]
  · rw [hc.rest]
    exact h.fired
  · rw [← frames_of_took h]
    exact hc.takes k' f'
  · conv_lhs => rw [hc.planes, h.others.plane hk]
  · conv_lhs => rw [hc.planes, h.plane]
    rw [hslots]
  · rw [hslots]
    exact h.consumes j

theorem Handed.sends {s t : State} {a : Fire} {takes : Nat → Nat → Frame → Nat → Horizon → Horizon} (h : Handed s t a takes) (l : List Flight) :
    Handed s { t with flights := l } a takes := by
  refine ⟨?_, h.fired, h.takes, h.planes, h.plane, h.consumes⟩
  conv_lhs => rw [h.rest]

theorem Handed.sameWays {s t : State} {a : Fire} {takes : Nat → Nat → Frame → Nat → Horizon → Horizon} (h : Handed s t a takes) : SameWays s t a.pk :=
  ⟨by rw [h.rest], by rw [h.plane], fun _ => by rw [h.plane]; rfl⟩

/-- The plane after a frame's part has ended in a copy, which may end a barrier's wait (R208, R228). -/
def Plane.ends (p : Plane) (fc f copy : Nat) (fr : Frame) : Plane :=
  { p with frames := p.frames.put f { fr with ended := fr.ended ++ [copy] } }.barCheck fc

theorem ends_eq {p q : Plane} (h : q = { p with frames := q.frames, slots := q.slots }) (fc f copy : Nat) (fr : Frame) :
    Plane.ends q fc f copy fr = { p with
      frames := (Plane.ends q fc f copy fr).frames, slots := (Plane.ends q fc f copy fr).slots, bars := (Plane.ends q fc f copy fr).bars } := by
  generalize q.frames = F at h
  generalize q.slots = S at h
  subst h
  rfl

theorem endPart_of_first {s : State} {pk f copy : Nat} {fr : Frame} (hf : (s.plane pk).frames.find f = some fr) (hc : copy ∉ fr.ended) :
    s.endPart pk f copy = s.setPlane pk (Plane.ends (s.plane pk) s.fc f copy fr) := by
  unfold State.endPart Plane.frame?
  dsimp only
  rw [hf]
  exact if_neg (by simpa using hc)

theorem barExit_congr {p q : Plane} (h : q = { p with bars := q.bars }) (fc : Nat) : q.barExit fc = p.barExit fc := by
  rw [h]
  rfl

/-- The firing's frame lives, and its part in the firing's copy has not ended. -/
theorem ready_frame {s : State} {n : NodeBody} {a : Fire} (h : s.ready n = some a) :
    (s.plane a.pk).frames.find a.f = some a.fr ∧ copyOf a ∉ a.fr.ended := by
  obtain ⟨-, -, -, -, hp, -, -, hf, -, hc, -⟩ := ready_spec h
  exact ⟨hp ▸ hf, hc⟩

/-- The frames of every plane, when one frame's part has ended after horizons have changed. -/
theorem endsPart_of_takes {s t u : State} {a : Fire} {takes : Nat → Nat → Frame → Nat → Horizon → Horizon} {x : Frame} (h : Takes s t takes)
    (hlive : (s.plane a.pk).frames.find a.f = some a.fr) (hcopy : copyOf a ∉ a.fr.ended) (hx : (t.plane a.pk).frames.find a.f = some x)
    (hplane : u.plane a.pk = Plane.ends (t.plane a.pk) s.fc a.f (copyOf a) x) (hother : ∀ k, k ≠ a.pk → u.plane k = t.plane k) : EndsPart s u a takes := by
  have hfind : ∀ k f, (u.plane k).frames.find f = if k = a.pk ∧ f = a.f then some { x with ended := x.ended ++ [copyOf a] } else (t.plane k).frames.find f := by
    intro k f
    by_cases hk : k = a.pk
    · subst hk
      rw [hplane, if_congr (and_iff_right rfl) rfl rfl]
      exact Map.find_put _ _ _ _
    · rw [hother k hk, if_neg fun h => hk h.1]
  intro k f
  obtain ⟨hnone, hsome⟩ := h k f
  rw [hfind]
  by_cases hkf : k = a.pk ∧ f = a.f
  · obtain ⟨rfl, rfl⟩ := hkf
    refine ⟨fun h => absurd (hlive.symm.trans h) (Option.some_ne_none _), fun fr hfr => ?_⟩
    cases hlive.symm.trans hfr
    obtain ⟨y, hy, hyfr, hyag⟩ := hsome _ hlive
    cases hx.symm.trans hy
    refine ⟨_, if_pos ⟨rfl, rfl⟩, ?_, hyag⟩
    rw [if_pos ⟨rfl, rfl, hcopy⟩]
    conv_lhs => rw [hyfr]
  · rw [if_neg hkf]
    refine ⟨hnone, fun fr hfr => ?_⟩
    obtain ⟨y, hy, hyfr, hyag⟩ := hsome _ hfr
    rw [if_neg fun h => hkf ⟨h.1, h.2.1⟩]
    exact ⟨y, hy, hyfr, hyag⟩

/-- The frame's part ends after its horizon has been handed on (R208). -/
structure Ended (s t u : State) (a : Fire) (takes : Nat → Nat → Frame → Nat → Horizon → Horizon) : Prop where
  rest : u = { s with planes := u.planes, fired := u.fired, rr := u.rr, flights := t.flights }
  fired : HasFired s u a.pk a.e
  others : OtherPlanes t u a.pk
  ends : EndsPart s u a takes
  planes : ∀ k, k ≠ a.pk → u.plane k = { s.plane k with frames := (u.plane k).frames }
  plane : u.plane a.pk = { s.plane a.pk with frames := (u.plane a.pk).frames, slots := (u.plane a.pk).slots, bars := (u.plane a.pk).bars }
  bars : (u.plane a.pk).bars = (s.plane a.pk).bars.map ((u.plane a.pk).barExit s.fc)
  consumes : Consumes a (s.plane a.pk) (u.plane a.pk)

theorem Handed.partEnd {s t : State} {n : NodeBody} {a : Fire} {takes : Nat → Nat → Frame → Nat → Horizon → Horizon} (h : Handed s t a takes)
    (hready : s.ready n = some a) : Ended s t (t.partEnd a) a takes := by
  obtain ⟨hlive, hcopy⟩ := ready_frame hready
  obtain ⟨x, hx, hxfr, hxag⟩ := (h.takes a.pk a.f).2 _ hlive
  have hended : x.ended = a.fr.ended := by rw [hxfr]
  have hfc : t.fc = s.fc := by rw [h.rest]
  have hpart : t.partEnd a = t.setPlane a.pk (Plane.ends (t.plane a.pk) s.fc a.f (copyOf a) x) := by
    rw [← hfc]
    exact endPart_of_first hx (by rw [hended]; exact hcopy)
  rw [hpart]
  have hplane : (t.setPlane a.pk (Plane.ends (t.plane a.pk) s.fc a.f (copyOf a) x)).plane a.pk = Plane.ends (t.plane a.pk) s.fc a.f (copyOf a) x :=
    (State.plane_setPlane _ _ _ _).trans (if_pos rfl)
  have hother : ∀ k, k ≠ a.pk → (t.setPlane a.pk (Plane.ends (t.plane a.pk) s.fc a.f (copyOf a) x)).plane k = t.plane k := fun k hk =>
    (State.plane_setPlane _ _ _ _).trans (if_neg hk)
  refine ⟨?_, h.fired, otherPlanes_setPlane _ _ _, fun k f => ?_, fun k hk => ?_, ?_, ?_, ?_⟩
  · conv_lhs => rw [h.rest]
    rfl
  · exact endsPart_of_takes h.takes hlive hcopy hx hplane hother k f
  · rw [hother k hk]
    exact h.planes k hk
  · rw [hplane]
    exact ends_eq h.plane _ _ _ _
  · rw [hplane, show (s.plane a.pk).bars = (t.plane a.pk).bars by rw [h.plane]]
    rfl
  · rw [hplane]
    exact h.consumes

/-! EXIT, DRAWEND and RETURN (R208, R210, R281). -/

/-- The token that a colour returns. -/
theorem returnTo_flightOf {t : State} (s : State) (a : Fire) (c : Caller) (v : Operand) (hfc : t.fc = s.fc) :
    ReturnTo s c v (flightOf t c.plane c.elem (2 ^ 43 + 4096 * a.pk + a.e) 1 c.frame c.gen c.node c.port 9 (v.result.narrow c.sel)) := by
  obtain ⟨h1, h2, h3, h4, h5, h6, h7, h8, h9, h10⟩ := isToken_flightOf t c.plane c.elem (2 ^ 43 + 4096 * a.pk + a.e) 1 c.frame c.gen c.node c.port 9 c.sel v
  exact ⟨h1, rfl, by show t.fc + 1 - 1 = s.fc; omega, h2, h3, h4, h5, h6, h7, h8, h9, h10⟩

/-- Returning to no caller takes the operands alone. -/
theorem callerTakes_none {s : State} {a : Fire} (h : a.fr.caller = none) : callerTakes s a true = asWere := by
  unfold callerTakes
  rw [h]
  rfl

theorem callerTakes_some {s : State} {a : Fire} {c : Caller} (h : a.fr.caller = some c) : callerTakes s a true =
    changes c.plane c.frame c.gen ((s.plane c.plane).copyOf c.plane c.elem) (fun h => mergeHorizon h (handed a)) := by
  funext k f fr cp h'
  unfold callerTakes changes
  rw [h]
  refine if_congr ⟨?_, ?_⟩ rfl rfl
  · rintro ⟨-, rfl, rfl, hg, hc⟩
    exact ⟨rfl, rfl, hg.symm, hc⟩
  · rintro ⟨rfl, rfl, hg, hc⟩
    exact ⟨rfl, rfl, rfl, hg.symm, hc⟩

theorem copyOf_of_took {s t : State} {a : Fire} (h : Took s t a) (k e : Nat) : (t.plane k).copyOf k e = (s.plane k).copyOf k e := by
  by_cases hk : k = a.pk
  · rw [hk, h.plane]
    rfl
  · rw [h.others.plane hk]

theorem Ended.endsFrame {i : Instr} {s t u : State} {a : Fire} {v : Operand} (h : Ended s t u a (callerTakes s a true)) (he : exec i s = .next u)
    (hcopy : copyOf a ∉ a.fr.ended) (hnone : a.fr.caller = none → t.flights = s.flights)
    (hsome : ∀ c, a.fr.caller = some c → ∃ f, t.flights = s.flights ++ [f] ∧ ReturnTo s c v f) : EndsFrame i s a true v := by
  have hflights : u.flights = t.flights := by rw [h.rest]
  refine ⟨u, he, ?_, h.fired, h.ends, fun hc => ?_, fun c hc _ => ?_, h.planes, h.plane, ?_, h.consumes⟩
  · rw [hflights]
    exact h.rest
  · rw [hflights]
    exact hnone (hc.resolve_right Bool.noConfusion)
  · rw [hflights]
    exact hsome c hc
  · rw [if_neg hcopy]
    exact h.bars

/-- A node that takes its operands, returns a value and ends its frame's part. -/
theorem endsFrame_of_return {i : Instr} {s : State} {n : NodeBody} {a : Fire} {v : Operand} (hready : s.ready n = some a)
    (he : exec i s = .next (((s.takeOperands a).sendReturn a v).partEnd a)) : EndsFrame i s a true v := by
  have htook := took_takeOperands hready
  obtain ⟨-, hcopy⟩ := ready_frame hready
  have hfc : (s.takeOperands a).fc = s.fc := by rw [htook.rest]
  have hfl : (s.takeOperands a).flights = s.flights := by rw [htook.rest]
  generalize s.takeOperands a = t at he htook hfc hfl
  cases hc : a.fr.caller with
  | none =>
    rw [sendReturn_of_none hc] at he
    have hend := (Handed.of_took htook).partEnd hready
    rw [← callerTakes_none (s := s) hc] at hend
    exact hend.endsFrame he hcopy (fun _ => hfl) fun c h => by rw [hc] at h; cases h
  | some c =>
    have hchange := horizonChanged_changeHorizon t c.plane c.frame c.gen ((t.plane c.plane).copyOf c.plane c.elem) (fun h => mergeHorizon h (handed a))
    rw [sendReturn_of_caller hc, post_eq] at he
    generalize changeHorizon t c.plane c.frame c.gen ((t.plane c.plane).copyOf c.plane c.elem) (fun h => mergeHorizon h (handed a)) = w at he hchange
    have hret := returnTo_flightOf (t := w) s a c v (by rw [hchange.rest]; exact hfc)
    generalize flightOf w c.plane c.elem _ 1 c.frame c.gen c.node c.port 9 (v.result.narrow c.sel) = x at he hret
    have hend := ((Handed.of_changed htook hchange).sends (w.flights ++ [x])).partEnd hready
    rw [copyOf_of_took htook, ← callerTakes_some (s := s) hc] at hend
    refine hend.endsFrame he hcopy (fun h => by rw [hc] at h; cases h) fun c' h => ?_
    cases hc.symm.trans h
    exact ⟨x, by rw [hchange.rest, ← hfl], hret⟩

end Sys2Proof.Claim

namespace Sys2Proof.Claim

open Sys2Proof Sys2Proof.Machine

/-! LOOP (R33, R209). -/

/-- A LOOP of a frame that has its successor sends into it, and hands its horizon to the successor's agent there. -/
theorem loop_into_successor {s : State} {n : NodeBody} {a : Fire} {f g : Nat} (h : s.ready n = some a) (hsucc : a.fr.succ = some (f, g)) :
    ∃ t, exec (.nLoop n) s = .next t ∧
      t = { s with planes := t.planes, fired := t.fired, rr := t.rr, flights := t.flights } ∧
      HasFired s t a.pk a.e ∧ OtherPlanes s t a.pk ∧ SendsBoth s t a.pk a.e n f g a.l ∧
      EndsPart s t a (changes a.pk f g (copyOf a) (fun _ => handed a)) ∧
      t.plane a.pk = { s.plane a.pk with slots := (t.plane a.pk).slots, frames := (t.plane a.pk).frames, bars := (t.plane a.pk).bars } ∧
      Consumes a (s.plane a.pk) (t.plane a.pk) := by
  have htook := took_takeOperands h
  have hchange := horizonChanged_changeHorizon (s.takeOperands a) a.pk f g (copyOf a) (fun _ => handed a)
  have he : exec (.nLoop n) s = .next (((changeHorizon (s.takeOperands a) a.pk f g (copyOf a) (fun _ => handed a)).sendBoth a.pk a.e n f g a.l).partEnd a) := by
    refine (whenReady_of_ready h _).trans ?_
    rw [hsucc]
    rfl
  generalize changeHorizon (s.takeOperands a) a.pk f g (copyOf a) (fun _ => handed a) = w at he hchange
  have hhanded := Handed.of_changed htook hchange
  obtain ⟨l, hl, hboth⟩ := sendBoth_both w a.pk a.e n f g a.l
  rw [hl] at he
  have hend := (hhanded.sends (w.flights ++ l)).partEnd h
  have hothers : OtherPlanes s w a.pk := htook.others.trans hchange.others
  have hflights : w.flights = s.flights := by rw [hchange.rest, htook.rest]
  refine ⟨_, he, ?_, hend.fired, hothers.trans hend.others, ⟨l, ?_, hboth.congr hhanded.sameWays⟩, hend.ends, hend.plane, hend.consumes⟩
  · conv_lhs => rw [hend.rest]
    rw [show State.flights (State.partEnd _ a) = _ from congrArg State.flights hend.rest]
  · rw [← hflights]
    exact congrArg State.flights hend.rest

/-! Draws (R17, R19). -/

/-- A draw of an identifier, which begins a frame. -/
def drawnInto (s : State) (pk f : Nat) (fr : Frame) : State :=
  ({ s with fresh := s.fresh + 1 } : State).setPlane pk { s.plane pk with
    free := (s.plane pk).free.erase f, frames := (s.plane pk).frames.put f fr }

theorem draw_of_free {s : State} {pk f : Nat} {rest : List Nat} {mk : Nat → Nat → Frame} (hfrozen : (s.plane pk).frozen = false)
    (hfree : s.freeIds pk = f :: rest) : s.draw pk mk = some (f, drawnInto s pk f (mk ((s.plane pk).gens.get f 0) (s.fresh + 1))) := by
  unfold State.draw
  rw [hfrozen, if_neg Bool.false_ne_true, hfree]
  rfl

theorem draw_of_none {s : State} {pk : Nat} {mk : Nat → Nat → Frame} (hfree : s.freeIds pk = []) : s.draw pk mk = none := by
  unfold State.draw
  rw [hfree, ite_self]

/-- A plane of whose frames one may fire is not frozen. -/
theorem ready_not_frozen {s : State} {n : NodeBody} {a : Fire} (h : s.ready n = some a) : (s.plane a.pk).frozen = false := by
  obtain ⟨hpk, -, -, -, -, -, hmay, -⟩ := ready_spec h
  rw [hpk]
  unfold State.mayFire Plane.fires at hmay
  cases hf : (s.plane s.site.plane).frozen with
  | false => rfl
  | true =>
    rw [if_pos (by simp [hf])] at hmay
    cases hmay

theorem loop_waits {s : State} {n : NodeBody} {a : Fire} (h : s.ready n = some a) (hsucc : a.fr.succ = none) (hfree : s.freeIds a.pk = []) :
    Waits (.nLoop n) s a := by
  refine (whenReady_of_ready h _).trans ?_
  rw [hsucc]
  dsimp only
  rw [draw_of_none hfree]

/-- The plane after a LOOP has drawn its frame's successor and taken its operands. -/
def Plane.loops (p : Plane) (a : Fire) (f : Nat) (fr : Frame) : Plane :=
  Plane.consume { p with
    free := p.free.erase f
    frames := (p.frames.put f fr).put a.f { a.fr with succ := some (f, p.gens.get f 0) } } a.n a.e a.node a.f

theorem plane_drawnInto (s : State) (pk f : Nat) (fr : Frame) : (drawnInto s pk f fr).plane pk = { s.plane pk with
    free := (s.plane pk).free.erase f, frames := (s.plane pk).frames.put f fr } := (State.plane_setPlane _ _ _ _).trans (if_pos rfl)

/-- The frame that a LOOP draws. -/
def successor (s : State) (a : Fire) (f : Nat) : Frame := newFrame ((s.plane a.pk).gens.get f 0) a.fr.itix (s.fresh + 1) .loop (handed a) none

theorem execNLoop_of_draw {s : State} {n : NodeBody} {a : Fire} {f : Nat} {rest : List Nat} (h : s.ready n = some a) (hsucc : a.fr.succ = none)
    (hfree : s.freeIds a.pk = f :: rest) :
    ∃ t, exec (.nLoop n) s = .next ((t.sendBoth a.pk a.e n f ((s.plane a.pk).gens.get f 0) a.l).partEnd a) ∧
      t = { s with planes := t.planes, fired := t.fired, rr := t.rr, fresh := s.fresh + 1 } ∧ HasFired s t a.pk a.e ∧ OtherPlanes s t a.pk ∧
      t.plane a.pk = Plane.loops (s.plane a.pk) a f (successor s a f) := by
  obtain ⟨-, -, -, -, -, rfl, -⟩ := ready_spec h
  let d := drawnInto s a.pk f (successor s a f)
  let d' := d.setPlane a.pk { d.plane a.pk with frames := (d.plane a.pk).frames.put a.f { a.fr with succ := some (f, (d.plane a.pk).gen f) } }
  have he : exec (.nLoop a.n) s = .next ((((d'.setPlane a.pk ((d'.plane a.pk).consume a.n a.e a.node a.f)).markFired a.pk a.e).sendBoth a.pk a.e a.n f
      ((d.plane a.pk).gen f) a.l).partEnd a) := by
    refine (whenReady_of_ready h _).trans ?_
    rw [hsucc]
    dsimp only
    rw [draw_of_free (ready_not_frozen h) hfree]
    rfl
  have hd : (d.plane a.pk).gen f = (s.plane a.pk).gens.get f 0 := by
    rw [show d.plane a.pk = _ from plane_drawnInto _ _ _ _]
    rfl
  rw [hd] at he
  refine ⟨_, he, rfl, hasFired_markFired _ _ _, ?_, ?_⟩
  · exact ((otherPlanes_setPlane _ _ _).trans (otherPlanes_setPlane _ _ _)).trans (otherPlanes_setPlane _ _ _)
  · rw [plane_fired]
    have hd' : d'.plane a.pk = _ := (State.plane_setPlane _ _ _ _).trans (if_pos rfl)
    rw [hd', show d.plane a.pk = _ from plane_drawnInto _ _ _ _]
    rfl

theorem find_loops (p : Plane) (a : Fire) (f : Nat) (fr : Frame) (k : Nat) : (Plane.loops p a f fr).frames.find k =
    if k = a.f then some { a.fr with succ := some (f, p.gens.get f 0) } else if k = f then some fr else p.frames.find k := by
  unfold Plane.loops
  rw [consume_eq]
  dsimp only
  rw [Map.find_put, Map.find_put]

/-- A LOOP of a frame without a successor draws it, sends into it, and ends its own frame's part. -/
theorem loop_draws {s : State} {n : NodeBody} {a : Fire} {f : Nat} {rest : List Nat} (h : s.ready n = some a) (hsucc : a.fr.succ = none)
    (hfree : s.freeIds a.pk = f :: rest) : let g := (s.plane a.pk).gens.get f 0
    ∃ t fr, exec (.nLoop n) s = .next t ∧
      t = { s with planes := t.planes, fired := t.fired, rr := t.rr, flights := t.flights, fresh := s.fresh + 1 } ∧
      HasFired s t a.pk a.e ∧ OtherPlanes s t a.pk ∧ SendsBoth s t a.pk a.e n f g a.l ∧
      t.plane a.pk = { s.plane a.pk with
        slots := (t.plane a.pk).slots, frames := (t.plane a.pk).frames, bars := (t.plane a.pk).bars
        free := (s.plane a.pk).free.erase f } ∧
      Consumes a (s.plane a.pk) (t.plane a.pk) ∧
      Drawn s a.pk f a.fr.itix .loop (handed a) none fr ∧
      ∀ k, (t.plane a.pk).frames.find k = if k = a.f then some { a.fr with
          succ := some (f, g), ended := if copyOf a ∈ a.fr.ended then a.fr.ended else a.fr.ended ++ [copyOf a] }
        else if k = f then some fr else (s.plane a.pk).frames.find k := by
  intro g
  obtain ⟨-, hcopy⟩ := ready_frame h
  obtain ⟨t, he, hrest, hfired, hothers, hplane⟩ := execNLoop_of_draw h hsucc hfree
  have hframe : (t.plane a.pk).frames.find a.f = some { a.fr with succ := some (f, g) } := by
    rw [hplane, find_loops, if_pos rfl]
  have hgeom : t.plane a.pk = { s.plane a.pk with
      free := (s.plane a.pk).free.erase f, frames := (t.plane a.pk).frames, slots := (t.plane a.pk).slots } := by
    rw [hplane]
    unfold Plane.loops
    conv_lhs => rw [consume_eq]
    rw [consume_eq]
  obtain ⟨l, hl, hboth⟩ := sendBoth_both t a.pk a.e n f g a.l
  have hends : (t.sendBoth a.pk a.e n f g a.l).partEnd a =
      ({ t with flights := t.flights ++ l } : State).setPlane a.pk (Plane.ends (t.plane a.pk) t.fc a.f (copyOf a) { a.fr with succ := some (f, g) }) := by
    rw [hl]
    exact endPart_of_first (s := { t with flights := t.flights ++ l }) hframe hcopy
  have hflights : t.flights = s.flights := by rw [hrest]
  rw [hends, hflights] at he
  refine ⟨_, successor s a f, he, ?_, hfired, hothers.trans (otherPlanes_setPlane _ _ _), ⟨l, rfl, hboth.congr ⟨by rw [hrest], by rw [hgeom], fun _ => by rw [hgeom]; rfl⟩⟩,
    ?_, ?_, rfl, fun k => ?_⟩
  · exact congrArg (fun q : State => State.setPlane { q with flights := s.flights ++ l } a.pk
      (Plane.ends (t.plane a.pk) t.fc a.f (copyOf a) { a.fr with succ := some (f, g) })) hrest
  · rw [State.plane_setPlane, if_pos rfl]
    exact ends_eq (p := { s.plane a.pk with free := (s.plane a.pk).free.erase f }) hgeom _ _ _ _
  · rw [State.plane_setPlane, if_pos rfl]
    intro k
    show (_ → (t.plane a.pk).slots.find k = none) ∧ (_ → (t.plane a.pk).slots.find k = _)
    rw [hplane]
    exact consumes_consume (a := a) rfl _ k
  · rw [State.plane_setPlane, if_pos rfl]
    show ((t.plane a.pk).frames.put a.f _).find k = _
    rw [Map.find_put, hplane, find_loops, if_neg hcopy]
    split <;> rfl

end Sys2Proof.Claim

namespace Sys2Proof.Claim

open Sys2Proof Sys2Proof.Machine

/-! ENTRY (R32, R207). -/

theorem execNEntry_of_trig {s : State} {n : NodeBody} {fr : Frame} {o : Operand} (hmay : s.mayFire = some fr)
    (hslot : (s.plane s.site.plane).slots.find (slotKey s.site.node s.site.frame 0 s.site.elem) = some o) (hkind : o.kind = 2#4) :
    exec (.nEntry n) s = .next (((s.setPlane s.site.plane ((s.plane s.site.plane).take s.site.elem s.site.node s.site.frame 0)).markFired
      s.site.plane s.site.elem).sendBoth s.site.plane s.site.elem n s.site.frame fr.gen
      ⟨mkVec (NodeCheck.width n.fmt.toNat) (List.replicate (512 / NodeCheck.width n.fmt.toNat)
        (entryValue (s.plane s.site.plane) s.site.plane s.site.elem (n.operand.toNat % 8) fr.itix)), 0xFFFF#16, 0#4⟩) := by
  show execNEntry n s = _
  unfold execNEntry
  dsimp only
  rw [hmay, hslot]
  dsimp only
  rw [if_neg (not_not.mpr hkind)]

/-- What the selector of ENTRY names, where there is an iteration source (Table 8.3). -/
theorem entryValue_spec {p : Plane} {it : IterSt} (hit : p.iter = some it) (pk e sel itix : Nat) : let x := entryValue p pk e sel itix
    (sel = 0 → x = itix) ∧ (sel = 1 → x = itix % it.n0) ∧ (sel = 2 → x = itix / it.n0 % it.n1) ∧ (sel = 4 → x = itix / (it.n0 * it.n1)) ∧
      (sel = 5 → x = (e % 64 - 8 * (pk / 4 % 8)) / p.tw) ∧ (sel = 6 → x = (e / 64 - 8 * (pk / 32 % 8)) / p.th) := by
  unfold entryValue
  rw [hit]
  refine ⟨?_, ?_, ?_, ?_, ?_, ?_⟩ <;> rintro rfl
  · rfl
  · rfl
  · rfl
  · exact Nat.div_div_eq_div_mul _ _ _
  · rfl
  · rfl

theorem firedTo_markFired (s : State) (pk e : Nat) (p : Plane) : FiredTo s ((s.setPlane pk p).markFired pk e) pk e p :=
  ⟨rfl, hasFired_markFired _ _ _, otherPlanes_setPlane _ _ _, plane_fired _ _ _ _⟩

theorem entry_fires {s : State} {n : NodeBody} {fr : Frame} {o : Operand} {it : IterSt} (hmay : s.mayFire = some fr)
    (hslot : (s.plane s.site.plane).slots.find (slotKey s.site.node s.site.frame 0 s.site.elem) = some o) (hkind : o.kind = 2#4)
    (hit : (s.plane s.site.plane).iter = some it) :
    let t := s.site; let p := s.plane t.plane; let sel := n.operand.toNat % 8; let b := NodeCheck.width n.fmt.toNat
    ∃ u l W x, exec (.nEntry n) s = .next u ∧ u = { s with planes := u.planes, fired := u.fired, rr := u.rr, flights := s.flights ++ l } ∧
      HasFired s u t.plane t.elem ∧ OtherPlanes s u t.plane ∧ u.plane t.plane = { p with slots := (u.plane t.plane).slots } ∧
      (∀ k, (u.plane t.plane).slots.find k = if k = slotKey t.node t.frame 0 t.elem then none else p.slots.find k) ∧
      Both s t.plane t.elem n t.frame fr.gen ⟨W, 0xFFFF#16, 0#4⟩ l ∧ (∀ j < 512 / b, elem W b j = x % 2 ^ b) ∧
      (sel = 0 → x = fr.itix) ∧ (sel = 1 → x = fr.itix % it.n0) ∧ (sel = 2 → x = fr.itix / it.n0 % it.n1) ∧
      (sel = 4 → x = fr.itix / (it.n0 * it.n1)) ∧ (sel = 5 → x = (t.elem % 64 - 8 * (t.plane / 4 % 8)) / p.tw) ∧
      (sel = 6 → x = (t.elem / 64 - 8 * (t.plane / 32 % 8)) / p.th) := by
  intro t p sel b
  have h := firedTo_markFired s t.plane t.elem (p.take t.elem t.node t.frame 0)
  have he := execNEntry_of_trig (n := n) hmay hslot hkind
  obtain ⟨l, hl, hboth⟩ := h.sendBoth rfl rfl rfl t.elem n t.frame fr.gen
    ⟨mkVec b (List.replicate (512 / b) (entryValue p t.plane t.elem sel fr.itix)), 0xFFFF#16, 0#4⟩
  rw [hl] at he
  refine ⟨_, l, _, entryValue p t.plane t.elem sel fr.itix, he, h.rest_sent l, h.fired, h.others, ?_, fun k => ?_, hboth,
    fun j hj => elem_mkVec_replicate _ _ _ _ hj (mul_div_width_le _), entryValue_spec hit _ _ _ _⟩
  · exact slots_alone (m := p.slots.del (slotKey t.node t.frame 0 t.elem)) h.plane
  · exact (congrArg (fun q : Plane => q.slots.find k) h.plane).trans (Map.find_del _ _ _)

end Sys2Proof.Claim

namespace Sys2Proof.Claim

open Sys2Proof Sys2Proof.Machine

/-! SPAWN (R36, R210, R303). -/

/-- The binding that a SPAWN names, and a byte of it. -/
def spawnByte (s : State) (n : NodeBody) (pk i : Nat) : Nat :=
  ((s.plane pk).binds.get (n.dest0.toNat / 2 ^ 24 % 32) 0#128).toNat / 2 ^ (8 * i) % 256

/-- The context grants the region that a SPAWN names. -/
def spawnGranted (s : State) (n : NodeBody) (pk : Nat) : Bool :=
  s.regionGranted (s.plane pk).ctx (spawnByte s n pk 1 % 4) (spawnByte s n pk 2 % 8) (spawnByte s n pk 3 % 8) (spawnByte s n pk 4 % 4)

/-- The plane that a SPAWN names, where it is resident. -/
def spawnPlane (s : State) (n : NodeBody) (pk : Nat) : Option Nat :=
  s.findPlane (s.plane pk).ctx (spawnByte s n pk 1 % 4) (spawnByte s n pk 2 % 8) (spawnByte s n pk 3 % 8) (spawnByte s n pk 4 % 4)

/-- The caller of a frame that a SPAWN draws. -/
def spawnCaller (n : NodeBody) (a : Fire) : Caller :=
  ⟨a.pk, a.e, n.dest1.toNat / 2 ^ 24 % 32, n.dest1.toNat / 2 ^ 29 % 4, n.dest1.toNat / 2 ^ 8 % 16, a.f, a.fr.gen⟩

/-- An argument of a call on its way: L at port 0, R at port 1 (R210). -/
def argument (s t : State) (n : NodeBody) (a : Fire) (ck f g port : Nat) (v : Operand) : Flight :=
  flightOf t ck (elemAt ck (spawnByte s n a.pk 5) (spawnByte s n a.pk 6)) (2 ^ 41 + 4096 * a.pk + a.e) 1 f g (spawnByte s n a.pk 7) port 8
    (v.result.narrow (n.dest0.toNat / 2 ^ 8 % 16))

/-- The arguments that a call's node declares. -/
def arguments (s t : State) (n : NodeBody) (a : Fire) (ck f g : Nat) : List Flight :=
  argument s t n a ck f g 0 a.l :: if n.hasR then [argument s t n a ck f g 1 a.r] else []

/-- The arguments leave. -/
def sendArguments (s : State) (n : NodeBody) (a : Fire) (ck f g : Nat) (t : State) : State :=
  let u : State := { t with flights := t.flights ++ [argument s t n a ck f g 0 a.l] }
  if n.hasR then { u with flights := u.flights ++ [argument s u n a ck f g 1 a.r] } else u

theorem sendArguments_eq (s : State) (n : NodeBody) (a : Fire) (ck f g : Nat) (t : State) :
    sendArguments s n a ck f g t = { t with flights := t.flights ++ arguments s t n a ck f g } := by
  unfold sendArguments arguments
  cases n.hasR
  · rfl
  · show ({ t with flights := (t.flights ++ [_]) ++ [_] } : State) = _
    rw [List.append_assoc]
    rfl

theorem execNSpawn_eq {s : State} {n : NodeBody} {a : Fire} (h : s.ready n = some a) : exec (.nSpawn n) s = .next (
    if !spawnGranted s n a.pk then s.fireFault a (s.frameRec a.pk a.e a.node a.f Cause.engineAccess 0 0 0)
    else match spawnPlane s n a.pk with
      | none => s
      | some ck =>
        if (s.plane ck).state ≠ .active ∨ (s.plane ck).frozen then s
        else match s.draw ck (fun gen order => newFrame gen 0 order .spawn (handed a) (some (spawnCaller n a))) with
          | none => { s with fired := (4096 * pkDie a.pk + a.e) :: s.fired }
          | some (f, d) =>
            sendArguments s n a ck f ((d.plane ck).gen f) ((d.setPlane a.pk ((d.plane a.pk).consume n a.e a.node a.f)).markFired a.pk a.e)) := by
  obtain ⟨-, -, -, -, hp, -⟩ := ready_spec h
  refine (whenReady_of_ready h _).trans ?_
  rw [hp]
  rfl

/-- What an argument's token is. -/
structure IsArgument (s : State) (n : NodeBody) (pk ck f g port : Nat) (v : Operand) (x : Flight) : Prop where
  plane : x.plane = ck
  due : x.due = s.fc
  elem : x.elem = elemAt ck (spawnByte s n pk 5) (spawnByte s n pk 6)
  node : tagNode x.tag = spawnByte s n pk 7 % 32
  port : tagPort x.tag = port
  kind : tagKind x.tag = 8
  frame : tagFrame x.tag = f % 1024
  gen : tagGen x.tag = g % 8
  lanes : ∀ j < 16, (lane x.pay j = if v.mask.getLsbD j then lane v.val j else 0) ∧
    (x.tag.getLsbD j = true ↔ v.mask.getLsbD j = true ∧ Selects (n.dest0.toNat / 2 ^ 8 % 16) j)

theorem isArgument_argument {s t : State} (hfc : t.fc = s.fc) (n : NodeBody) (a : Fire) (ck f g port : Nat) (hport : port < 4) (v : Operand) :
    IsArgument s n a.pk ck f g port v (argument s t n a ck f g port v) := by
  have h := isToken_flightOf t ck (elemAt ck (spawnByte s n a.pk 5) (spawnByte s n a.pk 6)) (2 ^ 41 + 4096 * a.pk + a.e) 1 f g
    (spawnByte s n a.pk 7) port 8 (n.dest0.toNat / 2 ^ 8 % 16) v
  exact ⟨rfl, by show t.fc + 1 - 1 = s.fc; omega, rfl, h.node, h.port.trans (Nat.mod_eq_of_lt hport), h.kind, h.frame, h.gen,
    fun j hj => ⟨h.pay j hj, h.mask j hj⟩⟩

theorem length_arguments (s t : State) (n : NodeBody) (a : Fire) (ck f g : Nat) : (arguments s t n a ck f g).length = if n.hasR then 2 else 1 := by
  unfold arguments
  cases n.hasR <;> rfl

theorem isArgument_arguments {s t : State} (hfc : t.fc = s.fc) (n : NodeBody) (a : Fire) (ck f g i : Nat) (hi : i < (arguments s t n a ck f g).length) :
    IsArgument s n a.pk ck f g i (if i = 0 then a.l else a.r) (arguments s t n a ck f g)[i] := by
  have hlen := length_arguments s t n a ck f g
  match i with
  | 0 => exact isArgument_argument hfc n a ck f g 0 (by norm_num) a.l
  | 1 =>
    cases hR : n.hasR with
    | false =>
      rw [hR] at hlen
      exact absurd hi (by rw [hlen]; decide)
    | true =>
      have hget : (arguments s t n a ck f g)[1] = argument s t n a ck f g 1 a.r := by
        unfold arguments
        simp [hR]
      rw [hget]
      exact isArgument_argument hfc n a ck f g 1 (by norm_num) a.r
  | i + 2 => exact absurd hi (by rw [hlen]; split <;> omega)

/-- A SPAWN has drawn a frame of the callee and taken its operands. -/
def spawned (s : State) (a : Fire) (ck f : Nat) (fr : Frame) : State :=
  ((drawnInto s ck f fr).setPlane a.pk (((drawnInto s ck f fr).plane a.pk).consume a.n a.e a.node a.f)).markFired a.pk a.e

theorem spawned_rest (s : State) (a : Fire) (ck f : Nat) (fr : Frame) : spawned s a ck f fr = { s with
    planes := (spawned s a ck f fr).planes, fired := (spawned s a ck f fr).fired, rr := (spawned s a ck f fr).rr, fresh := s.fresh + 1 } := rfl

theorem plane_spawned (s : State) (a : Fire) (ck f : Nat) (fr : Frame) (k : Nat) : (spawned s a ck f fr).plane k =
    if k = a.pk then ((drawnInto s ck f fr).plane k).consume a.n a.e a.node a.f else (drawnInto s ck f fr).plane k := by
  unfold spawned
  rw [plane_markFired, State.plane_setPlane]
  split
  next h => rw [h]
  next => rfl

theorem plane_spawned_slots (s : State) (a : Fire) (ck f : Nat) (fr : Frame) (k : Nat) : (spawned s a ck f fr).plane k =
    { (drawnInto s ck f fr).plane k with slots := ((spawned s a ck f fr).plane k).slots } := by
  rw [plane_spawned]
  split
  · exact consume_eq _ _ _ _ _
  · rfl

theorem plane_drawnInto_at (s : State) (ck f : Nat) (fr : Frame) (k : Nat) : (drawnInto s ck f fr).plane k =
    { s.plane k with
      frames := if k = ck then (s.plane k).frames.put f fr else (s.plane k).frames
      free := if k = ck then (s.plane k).free.erase f else (s.plane k).free } := by
  unfold drawnInto
  rw [State.plane_setPlane]
  by_cases h : k = ck
  · subst h
    simp only [if_true]
  · simp only [if_neg h]
    rfl

theorem plane_spawned_eq (s : State) (a : Fire) (ck f : Nat) (fr : Frame) (k : Nat) : (spawned s a ck f fr).plane k = { s.plane k with
    slots := ((spawned s a ck f fr).plane k).slots, frames := ((spawned s a ck f fr).plane k).frames
    free := if k = ck then (s.plane k).free.erase f else (s.plane k).free } := by
  have h := plane_spawned_slots s a ck f fr k
  rw [plane_drawnInto_at] at h
  generalize ((spawned s a ck f fr).plane k).slots = S at h
  rw [h]

theorem find_spawned (s : State) (a : Fire) (ck f : Nat) (fr : Frame) (k g : Nat) : ((spawned s a ck f fr).plane k).frames.find g =
    if k = ck ∧ g = f then some fr else (s.plane k).frames.find g := by
  rw [plane_spawned_slots, plane_drawnInto_at]
  by_cases hk : k = ck
  · rw [if_congr (and_iff_right hk) rfl rfl]
    dsimp only
    rw [if_pos hk]
    exact Map.find_put _ _ _ _
  · rw [if_neg (fun h => hk h.1 : ¬(k = ck ∧ g = f))]
    dsimp only
    rw [if_neg hk]

theorem consumes_spawned (s : State) (a : Fire) (ck f : Nat) (fr : Frame) : Consumes a (s.plane a.pk) ((spawned s a ck f fr).plane a.pk) := by
  have hslots : ((drawnInto s ck f fr).plane a.pk).slots = (s.plane a.pk).slots := by rw [plane_drawnInto_at]
  intro k
  rw [plane_spawned, if_pos rfl, ← hslots]
  exact consumes_consume rfl _ k

theorem slots_spawned (s : State) (a : Fire) (ck f : Nat) (fr : Frame) {k : Nat} (hk : k ≠ a.pk) :
    ((spawned s a ck f fr).plane k).slots = (s.plane k).slots := by
  rw [plane_spawned, if_neg hk, plane_drawnInto_at]

theorem others_spawned (s : State) (a : Fire) (ck f : Nat) (fr : Frame) {k : Nat} (hk : k ≠ a.pk) (hk' : k ≠ ck) :
    (spawned s a ck f fr).planes.find k = s.planes.find k :=
  (otherPlanes_setPlane (drawnInto s ck f fr) a.pk _ k hk).trans (otherPlanes_setPlane _ ck _ k hk')

/-- A SPAWN that draws sends its arguments: L, and R where the node declares it. -/
theorem spawn_sends {s : State} {n : NodeBody} {a : Fire} {ck f : Nat} {rest : List Nat} (h : s.ready n = some a) (hgranted : spawnGranted s n a.pk = true)
    (hplane : spawnPlane s n a.pk = some ck) (hactive : (s.plane ck).state = .active) (hfrozen : (s.plane ck).frozen = false)
    (hfree : s.freeIds ck = f :: rest) :
    let fr := newFrame ((s.plane ck).gens.get f 0) 0 (s.fresh + 1) .spawn (handed a) (some (spawnCaller n a))
    ∃ l, exec (.nSpawn n) s = .next { spawned s a ck f fr with flights := s.flights ++ l } ∧ l.length = (if n.hasR then 2 else 1) ∧
      ∀ i (hi : i < l.length), IsArgument s n a.pk ck f fr.gen i (if i = 0 then a.l else a.r) l[i] := by
  intro fr
  obtain ⟨-, -, -, -, -, rfl, -⟩ := ready_spec h
  have hgen : ((drawnInto s ck f fr).plane ck).gen f = fr.gen := by
    rw [plane_drawnInto_at]
    rfl
  have he : exec (.nSpawn a.n) s = .next (sendArguments s a.n a ck f fr.gen (spawned s a ck f fr)) := by
    rw [execNSpawn_eq h, hgranted, hplane, Bool.not_true, if_neg Bool.false_ne_true, ← hgen]
    dsimp only
    rw [if_neg (by simp [hactive, hfrozen]), draw_of_free hfrozen hfree]
    rfl
  rw [sendArguments_eq] at he
  exact ⟨arguments s (spawned s a ck f fr) a.n a ck f fr.gen, he, length_arguments .., fun i hi => isArgument_arguments rfl a.n a ck f fr.gen i hi⟩

end Sys2Proof.Claim

namespace Sys2Proof.Claim

open Sys2Proof Sys2Proof.Machine

/-- A SPAWN into a region that is not granted parks its frame (R303). -/
theorem spawn_faults {s : State} {n : NodeBody} {a : Fire} (h : s.ready n = some a) (hgranted : spawnGranted s n a.pk = false) :
    ∃ r, exec (.nSpawn n) s = .next { s with
        fired := (4096 * pkDie a.pk + a.e) :: s.fired, rr := s.rr.put (4096 * pkDie a.pk + a.e) ((pkPp a.pk + 1) % 4)
        parking := s.parking ++ [⟨a.pk, a.f, a.fr.gen, 0, r⟩] } ∧ r.cause = 0x25 ∧ r.node = a.node ∧ r.frame = a.f := by
  obtain ⟨hlive, -⟩ := ready_frame h
  have hlive' : ((s.markFired a.pk a.e).plane a.pk).frames.find a.f = some a.fr := hlive
  refine ⟨s.frameRec a.pk a.e a.node a.f Cause.engineAccess 0 0 0, ?_, rfl, rfl, rfl⟩
  rw [execNSpawn_eq h, hgranted]
  unfold State.fireFault State.park Plane.frame?
  rw [hlive']
  rfl

/-- A SPAWN finds its callee not resident, not active, or frozen (R303). -/
theorem spawn_stays {s : State} {n : NodeBody} {a : Fire} (h : s.ready n = some a) (hgranted : spawnGranted s n a.pk = true)
    (hplane : ∀ ck, spawnPlane s n a.pk = some ck → (s.plane ck).state ≠ .active ∨ (s.plane ck).frozen = true) : exec (.nSpawn n) s = .next s := by
  rw [execNSpawn_eq h, hgranted, Bool.not_true, if_neg Bool.false_ne_true]
  split
  · rfl
  next ck hck => rw [if_pos (hplane ck hck)]

theorem spawn_waits {s : State} {n : NodeBody} {a : Fire} {ck : Nat} (h : s.ready n = some a) (hgranted : spawnGranted s n a.pk = true)
    (hplane : spawnPlane s n a.pk = some ck) (hactive : (s.plane ck).state = .active) (hfrozen : (s.plane ck).frozen = false)
    (hfree : s.freeIds ck = []) : Waits (.nSpawn n) s a := by
  unfold Waits
  rw [execNSpawn_eq h, hgranted, hplane, Bool.not_true, if_neg Bool.false_ne_true]
  dsimp only
  rw [if_neg (by simp [hactive, hfrozen]), draw_of_none hfree]

end Sys2Proof.Claim

namespace Sys2Proof

open Machine Claim

/-- Settles O36: the nodes that begin and end frames. EXIT, DRAWEND and RETURN are one firing that takes its operands, returns a value to
a colour's caller and ends the frame's part; LOOP and SPAWN draw, or wait. -/
theorem framesBeginLoopCallAndEnd : Obligations.FramesBeginLoopCallAndEnd := by
  unfold Obligations.FramesBeginLoopCallAndEnd
  refine ⟨fun s n fr o it hmay => ?entry, fun s n a h => ⟨?exit, ?drawend, ?ret⟩, fun s n a h => ⟨?successor, ?waits, ?draws⟩, fun s n a h => ?spawn⟩
  case entry => exact fun hslot hkind hit => entry_fires hmay hslot hkind hit
  case exit => exact endsFrame_of_return h (whenReady_of_ready h _)
  case drawend => exact endsFrame_of_return h (whenReady_of_ready h _)
  case ret => exact endsFrame_of_return h (whenReady_of_ready h _)
  case successor => exact fun f g hsucc => loop_into_successor h hsucc
  case waits => exact fun hsucc hfree => loop_waits h hsucc hfree
  case draws => exact fun f rest hsucc hfree => loop_draws h hsucc hfree
  case spawn =>
    refine ⟨fun hgranted => spawn_faults h hgranted, fun hgranted hnone => spawn_stays h hgranted fun ck hck => ?_, fun ck hgranted hck =>
      ⟨fun hstate => spawn_stays h hgranted fun ck' hck' => ?_, fun hactive hfrozen hfree => spawn_waits h hgranted hck hactive hfrozen hfree,
        fun f rest hactive hfrozen hfree => ?_⟩⟩
    · exact absurd (hnone.symm.trans hck) (Option.some_ne_none ck).symm
    · cases hck.symm.trans hck'
      exact hstate
    · obtain ⟨l, he, hlen, hargs⟩ := spawn_sends h hgranted hck hactive hfrozen hfree
      obtain ⟨-, -, -, -, -, hn, -⟩ := ready_spec h
      refine ⟨_, _, l, he, rfl, hasFired_markFired _ _ _, fun k hk hk' => others_spawned s a ck f _ hk hk', fun k => plane_spawned_eq s a ck f _ k,
        fun k hk => slots_spawned s a ck f _ hk, consumes_spawned s a ck f _, fun k g => find_spawned s a ck f _ k g, rfl, hlen, fun i hi => ?_⟩
      obtain ⟨hp, hd, he, hnode, hport, hkind, hframe, hgen, hlanes⟩ := hargs i hi
      exact ⟨hp, hd, he, hnode, hport, hkind, hframe, hgen, hlanes⟩

end Sys2Proof

namespace Sys2Proof.Claim

open Sys2Proof Sys2Proof.Machine

/-! What a frame's retirement is made of (R18 to R21, R102). -/

/-- Returning a lock token touches what waits for it, and nothing else. -/
theorem grantNext_rest (s : State) (k : Nat) (l : List Nat) :
    ∃ a b c d, s.grantNext k l = { s with tokens := a, reqs := b, farLocks := c, kept := d } := by
  induction l with
  | nil => exact ⟨_, _, _, _, rfl⟩
  | cons r rest ih =>
    unfold State.grantNext
    split
    · exact ⟨_, _, _, _, rfl⟩
    · exact ⟨_, _, _, _, rfl⟩
    · exact ih

theorem dropLocks_rest (s : State) (pk f gen : Nat) :
    ∃ a b c d, s.dropLocks pk f gen = { s with tokens := a, reqs := b, farLocks := c, kept := d } := by
  unfold State.dropLocks
  refine List.foldlRecOn (motive := fun t : State => ∃ a b c d, t = { s with tokens := a, reqs := b, farLocks := c, kept := d }) s.tokens _
    ⟨_, _, _, _, rfl⟩ fun t ht x _ => ?_
  obtain ⟨_, _, _, _, rfl⟩ := ht
  dsimp only
  split
  · obtain ⟨_, _, _, _, h⟩ := grantNext_rest { s with tokens := _, reqs := _, farLocks := _, kept := _ } x.1 x.2.fifo
    exact ⟨_, _, _, _, h⟩
  · exact ⟨_, _, _, _, rfl⟩

theorem dropLocks_of_none {s : State} {pk f gen : Nat} (h : s.holdsLock pk f gen = false) : s.dropLocks pk f gen = s := by
  unfold State.holdsLock at h
  unfold State.dropLocks
  refine List.foldlRecOn (motive := fun t : State => t = s) s.tokens _ rfl fun t ht x hx => ?_
  have := List.any_eq_false.mp h x hx
  rw [ht]
  exact if_neg (by simpa using this)

/-- A hit that has returned for a frame (R271). -/
def returnedHit (pk f gen : Nat) (r : Ray) : Bool := r.plane = pk && r.frame = f && r.gen = gen && r.stage = .done

theorem dropHits_eq (s : State) (pk f gen : Nat) : s.dropHits pk f gen =
    (s.rays.filter (fun x => returnedHit pk f gen x.2)).foldl (fun s _ => s.staleDrop pk)
      { s with rays := s.rays.filter (fun x => !returnedHit pk f gen x.2) } := rfl

/-- Dropped hits are counted as stale tokens (R20). -/
theorem staleDrops_spec {α : Type} (s : State) (pk : Nat) (l : List α) :
    (∃ c, l.foldl (fun s _ => s.staleDrop pk) s = { s with csrs := c }) ∧ CountsStale s (l.foldl (fun s _ => s.staleDrop pk) s) pk l.length := by
  induction l using List.reverseRecOn with
  | nil => exact ⟨⟨_, rfl⟩, countsStale_zero s pk⟩
  | append_singleton l x ih =>
    obtain ⟨⟨c, hc⟩, hcount⟩ := ih
    rw [List.foldl_append, List.length_append]
    refine ⟨?_, hcount.staleDrop⟩
    obtain ⟨d, hd⟩ := staleDrop_rest (l.foldl (fun s _ => s.staleDrop pk) s) pk
    refine ⟨d, hd.trans ?_⟩
    rw [hc]

/-! Elements bind freed groups, and the tokens of their frames move in (R18). -/

/-- Only what waits and what stands in slots has changed in a plane, and collisions may have parked frames. -/
structure Rebound (s t : State) (pk : Nat) : Prop where
  rest : t = { s with planes := t.planes, parking := t.parking }
  others : OtherPlanes s t pk
  plane : t.plane pk = { s.plane pk with
    groups := (t.plane pk).groups, slots := (t.plane pk).slots, slotAt := (t.plane pk).slotAt, ovf := (t.plane pk).ovf }

theorem Rebound.refl (s : State) (pk : Nat) : Rebound s s pk := ⟨rfl, fun _ _ => rfl, rfl⟩

theorem Rebound.trans {s t u : State} {pk : Nat} (h : Rebound s t pk) (g : Rebound t u pk) : Rebound s u pk := by
  refine ⟨?_, h.others.trans g.others, ?_⟩
  · conv_lhs => rw [g.rest, h.rest]
  · conv_lhs => rw [g.plane, h.plane]

theorem Rebound.setPlane (s : State) (pk : Nat) (G : List (Nat × Nat)) (S : Map Operand) (A : Map Nat) (O : List Waiting) :
    Rebound s (s.setPlane pk { s.plane pk with groups := G, slots := S, slotAt := A, ovf := O }) pk := by
  refine ⟨rfl, otherPlanes_setPlane _ _ _, ?_⟩
  rw [State.plane_setPlane, if_pos rfl]

/-- A frame has no group, no value in a slot and no token that waits in a plane. -/
structure Clear (p : Plane) (f : Nat) : Prop where
  groups : ∀ e, (e, f) ∉ p.groups
  slots : ∀ k, k / 2 ^ 14 % 1024 = f → p.slots.find k = none
  ovf : ∀ w ∈ p.ovf, tagFrame w.tag ≠ f ∧ w.elem < 4096

theorem slotKey_frame (w : Waiting) (h : w.elem < 4096) : slotKey (tagNode w.tag) (tagFrame w.tag) (tagPort w.tag) w.elem / 2 ^ 14 % 1024 = tagFrame w.tag := by
  have hf : tagFrame w.tag < 1024 := Nat.mod_lt _ (by norm_num)
  have hp : tagPort w.tag < 4 := Nat.mod_lt _ (by norm_num)
  unfold slotKey
  omega

theorem intoSlot_spec {s : State} {pk f : Nat} {w : Waiting} (hw : tagFrame w.tag ≠ f ∧ w.elem < 4096) :
    Rebound s (s.intoSlot pk w) pk ∧ (Clear (s.plane pk) f → Clear ((s.intoSlot pk w).plane pk) f) := by
  unfold State.intoSlot
  dsimp only
  split
  · unfold State.collide State.park
    dsimp only
    split
    · exact ⟨Rebound.refl s pk, id⟩
    · exact ⟨⟨rfl, fun _ _ => rfl, rfl⟩, id⟩
  · refine ⟨Rebound.setPlane _ _ _ _ _ _, fun h => ?_⟩
    rw [State.plane_setPlane, if_pos rfl]
    refine ⟨h.groups, fun k hk => ?_, h.ovf⟩
    refine (Map.find_put _ _ _ _).trans ((if_neg fun hkey => hw.1 ?_).trans (h.slots k hk))
    rw [← slotKey_frame w hw.2, ← hkey, hk]

theorem bindOldest_spec {p : Plane} {f : Nat} (e : Nat) (h : Clear p f) : ∃ G, p.bindOldest e = { p with groups := G } ∧ Clear { p with groups := G } f := by
  unfold Plane.bindOldest
  split
  · exact ⟨_, rfl, h⟩
  split
  · exact ⟨_, rfl, h⟩
  next w hw =>
    refine ⟨_, rfl, fun e' he' => ?_, h.slots, h.ovf⟩
    rcases List.mem_append.mp he' with he' | he'
    · exact h.groups e' he'
    · exact (h.ovf w (List.mem_of_find?_eq_some hw)).1 (Prod.ext_iff.mp (List.mem_singleton.mp he')).2.symm

theorem moveTokens_spec {s : State} {pk f : Nat} (e : Nat) (h : Clear (s.plane pk) f) :
    Rebound s (s.moveTokens pk e) pk ∧ Clear ((s.moveTokens pk e).plane pk) f := by
  unfold State.moveTokens
  refine List.foldlRecOn (motive := fun t : State => Rebound s t pk ∧ Clear (t.plane pk) f) _ _ ⟨Rebound.setPlane _ _ _ _ _ _, ?_⟩ fun t ⟨hr, hc⟩ w hw => ?_
  · rw [State.plane_setPlane, if_pos rfl]
    exact ⟨h.groups, h.slots, fun w hw => h.ovf w (List.mem_of_mem_filter hw)⟩
  · obtain ⟨hr', hc'⟩ := intoSlot_spec (s := t) (pk := pk) (h.ovf w (List.mem_of_mem_filter hw))
    exact ⟨hr.trans hr', hc' hc⟩

theorem rebind_spec {s : State} {pk f : Nat} (e : Nat) (h : Clear (s.plane pk) f) : Rebound s (s.rebind pk e) pk ∧ Clear ((s.rebind pk e).plane pk) f := by
  obtain ⟨G, hG, hclear⟩ := bindOldest_spec e h
  unfold State.rebind
  rw [hG]
  have hplane : Clear ((s.setPlane pk { s.plane pk with groups := G }).plane pk) f := by
    rw [State.plane_setPlane, if_pos rfl]
    exact hclear
  obtain ⟨hr, hc⟩ := moveTokens_spec e hplane
  exact ⟨(Rebound.setPlane s pk G _ _ _).trans hr, hc⟩

theorem rebindAll_spec {s : State} {pk f : Nat} (h : Clear (s.plane pk) f) : Rebound s (s.rebindAll pk) pk ∧ Clear ((s.rebindAll pk).plane pk) f := by
  unfold State.rebindAll
  refine List.foldlRecOn (motive := fun t : State => Rebound s t pk ∧ Clear (t.plane pk) f) _ _ ⟨Rebound.refl s pk, h⟩ fun t ⟨hr, hc⟩ e _ => ?_
  obtain ⟨hr', hc'⟩ := rebind_spec e hc
  exact ⟨hr.trans hr', hc'⟩

theorem rebindAll_of_nil {s : State} {pk : Nat} (h : (s.plane pk).ovf = []) : s.rebindAll pk = s := by
  unfold State.rebindAll
  rw [h]
  rfl

/-! A frame retires. -/

/-- A plane whose frame has retired, before its elements bind freed groups (R18 to R21). -/
def Plane.retires (p : Plane) (fc f : Nat) (fr : Frame) : Plane :=
  let q := p.clearFrame f
  Plane.drained { q with
    frames := p.frames.del f
    gens := p.gens.put f ((p.gens.get f 0 + 1) % 8)
    holds := p.holds.put f (fc + 128)
    free := p.free ++ [f]
    flags := p.flags ||| fr.flags
    retired := (f, fr.gen) :: p.retired.filter (· ≠ (f, fr.gen))
    seqDone := p.seqDone.filter (fun x => x.1 / 2 ≠ f) }

theorem drained_eq (p : Plane) : p.drained = { p with state := if p.state = .draining ∧ p.frames = [] then .loaded else p.state } := by
  unfold Plane.drained
  split <;> rfl

theorem find_filter_of_false {α : Type} (m : Map α) (q : Nat → Bool) (k : Nat) (h : q k = false) : Map.find (m.filter (fun x => q x.1)) k = none := by
  induction m with
  | nil => rfl
  | cons x m ih =>
    by_cases hx : q x.1
    · rw [List.filter_cons_of_pos (by exact hx)]
      exact (if_neg fun hk => by rw [hk, h] at hx; cases hx).trans ih
    · rw [List.filter_cons_of_neg (by exact hx)]
      exact ih

theorem clear_retires {p : Plane} (fc f : Nat) (fr : Frame) (h : ∀ x ∈ p.ovf, x.elem < 4096) : Clear (Plane.retires p fc f fr) f := by
  unfold Plane.retires
  rw [drained_eq]
  refine ⟨fun e he => ?_, fun k hk => ?_, fun w hw => ?_⟩
  · have := List.of_mem_filter he
    simp at this
  · exact find_filter_of_false _ (fun x => decide (x / 16384 % 1024 ≠ f)) k (by simpa using hk)
  · exact ⟨by simpa using List.of_mem_filter hw, h w (List.mem_of_mem_filter hw)⟩

/-- `CountsStale` reads control registers alone. -/
theorem CountsStale.of_csrs {s s' t : State} {pk n : Nat} (h : CountsStale s t pk n) (e : s'.csrs = s.csrs) : CountsStale s' t pk n := by
  rw [countsStale_iff] at h ⊢
  intro part k hk
  rw [h part k hk]
  unfold State.csr
  rw [e]

/-- The retirement of a frame up to where the elements bind freed groups. -/
structure Retires (s t : State) (pk f : Nat) (fr : Frame) : Prop where
  rest : t = { s with
    planes := t.planes, keeps := s.keeps.filter (fun k => !(k.plane = pk && k.frame = f && k.gen = fr.gen)), tokens := t.tokens
    farLocks := t.farLocks, kept := t.kept, reqs := t.reqs, rays := s.rays.filter (fun x => !returnedHit pk f fr.gen x.2), csrs := t.csrs }
  locks : s.holdsLock pk f fr.gen = false → t.tokens = s.tokens ∧ t.reqs = s.reqs ∧ t.farLocks = s.farLocks ∧ t.kept = s.kept
  others : OtherPlanes s t pk
  plane : t.plane pk = Plane.retires (s.plane pk) s.fc f fr
  stale : CountsStale s t pk (s.rays.filter (fun x => returnedHit pk f fr.gen x.2)).length

/-- The record of a frame that retires with a lock token (R102). -/
def leakRec (s : State) (pk f : Nat) (fr : Frame) : FaultRec := { s.frameRec pk 0 0 f Cause.lockLeak 0 0 0 with gen := fr.gen, itix := fr.itix }

theorem retire_eq (s : State) (pk f : Nat) (fr : Frame) : ∃ t, Retires s t pk f fr ∧
    s.retire pk f fr = if s.holdsLock pk f fr.gen then (t.rebindAll pk).report (leakRec (t.rebindAll pk) pk f fr) else t.rebindAll pk := by
  obtain ⟨a, b, c, d, hlocks⟩ := dropLocks_rest s pk f fr.gen
  have hkeeps : s.holdsLock pk f fr.gen = false → a = s.tokens ∧ b = s.reqs ∧ c = s.farLocks ∧ d = s.kept := fun h => by
    have hs := hlocks.symm.trans (dropLocks_of_none h)
    exact ⟨congrArg State.tokens hs, congrArg State.reqs hs, congrArg State.farLocks hs, congrArg State.kept hs⟩
  let z : State := { s with
    tokens := a, reqs := b, farLocks := c, kept := d, keeps := s.keeps.filter (fun k => !(k.plane = pk && k.frame = f && k.gen = fr.gen))
    planes := s.planes.put pk ({ s.plane pk with retired := (f, fr.gen) :: (s.plane pk).retired.filter (· ≠ (f, fr.gen)) }.mergeFlags fr)
    rays := s.rays.filter (fun x => !returnedHit pk f fr.gen x.2) }
  obtain ⟨⟨e, he⟩, hcount⟩ := staleDrops_spec z pk (s.rays.filter (fun x => returnedHit pk f fr.gen x.2))
  have hretire : s.retire pk f fr = (let t := ({ z with csrs := e }.endFrame pk f)
      let t := t.setPlane pk (t.plane pk).drained
      if s.holdsLock pk f fr.gen then (t.rebindAll pk).report (leakRec (t.rebindAll pk) pk f fr) else t.rebindAll pk) := by
    rw [← he]
    unfold State.retire
    rw [hlocks]
    rfl
  refine ⟨_, ⟨?_, hkeeps, ?_, ?_, ?_⟩, hretire⟩
  · rfl
  · exact ((otherPlanes_setPlane s pk _).trans (otherPlanes_setPlane _ _ _)).trans (otherPlanes_setPlane _ _ _)
  · rw [State.plane_setPlane, if_pos rfl]
    unfold State.endFrame
    rw [State.plane_setPlane, if_pos rfl]
    have hz : ({ z with csrs := e } : State).plane pk = _ := (State.plane_setPlane s pk pk _).trans (if_pos rfl)
    rw [hz]
    rfl
  · rw [he] at hcount
    exact (hcount.of_csrs rfl).congr rfl

end Sys2Proof.Claim

namespace Sys2Proof.Claim

open Sys2Proof Sys2Proof.Machine

/-! FRAME_RETIRE (R18 to R21, R32, R94, R102). -/

theorem asyncOpc_iff (o : Nat) : asyncOpc o = true ↔ o = 0x97 ∨ o = 0xB3 ∨ o = 0xB5 := by
  unfold asyncOpc
  simp [or_assoc]

theorem mayRetire_of_over {s : State} {pk f : Nat} {fr : Frame} (h : Over s pk f fr) : s.mayRetire pk f fr = true := by
  obtain ⟨hparked, hended, hreqs, hsends, hparking⟩ := h
  have hreq : s.reqs.any (fun q => q.2.plane = pk && q.2.frame = f && q.2.gen = fr.gen && !asyncOpc q.2.opc) = false := by
    rw [List.any_eq_false]
    intro q hq
    simp only [Bool.and_eq_true, decide_eq_true_eq, Bool.not_eq_true', ← Bool.not_eq_true, asyncOpc_iff]
    exact fun ⟨⟨⟨h1, h2⟩, h3⟩, h4⟩ => h4 (hreqs q hq h1 h2 h3)
  have hpark : s.parking.any (fun k => k.plane = pk && k.frame = f && k.gen = fr.gen) = false := by
    rw [List.any_eq_false]
    intro k hk
    simpa [and_assoc] using hparking k hk
  have hcopies : (s.plane pk).copies.all (fun c => fr.ended.contains c) = true := by simpa using hended
  unfold State.mayRetire
  dsimp only
  rw [hparked, hcopies, hreq, hpark, Bool.not_false, Bool.true_and, Bool.true_and, Bool.true_and, Bool.and_true, Bool.not_eq_true', List.any_eq_false]
  rintro ⟨k, x⟩ hx
  have hmine := hsends _ hx
  dsimp only at hmine ⊢
  split
  next a e n b g hframe =>
    rw [hframe] at hmine
    intro h
    simp only [Bool.and_eq_true, decide_eq_true_eq] at h
    obtain ⟨⟨rfl, rfl⟩, rfl⟩ := h
    exact hmine e n rfl
  next => exact Bool.false_ne_true

theorem execEFrameRetire_of_over {s : State} {pk f : Nat} {fr : Frame} (hf : (s.plane pk).frames.find f = some fr) (h : Over s pk f fr) :
    exec (.eFrameRetire pk f) s = .next (s.retire pk f fr) := by
  show execEFrameRetire pk f s = _
  unfold execEFrameRetire Plane.frame?
  rw [hf]
  dsimp only
  rw [mayRetire_of_over h]
  rfl

theorem returnedHit_eq (pk f gen : Nat) (r : Ray) :
    returnedHit pk f gen r = decide (r.plane = pk ∧ r.frame = f ∧ r.gen = gen ∧ r.stage = .done) := by
  unfold returnedHit
  simp [Bool.and_assoc]

theorem leakRec_fields (t : State) (pk f : Nat) (fr : Frame) : (leakRec t pk f fr).cause = 0x23 ∧ (leakRec t pk f fr).frame = f ∧
    (leakRec t pk f fr).gen = fr.gen ∧ (leakRec t pk f fr).itix = fr.itix ∧ (leakRec t pk f fr).ctx = (t.plane pk).ctx ∧
    (leakRec t pk f fr).cbix = (t.plane pk).cbix := ⟨rfl, rfl, rfl, rfl, rfl, rfl⟩

/-- What a retirement leaves of the frame in its plane, and of the rest of the plane. -/
theorem Plane.retires_spec (p : Plane) (fc f : Nat) (fr : Frame) : let q := Plane.retires p fc f fr
    q.ctx = p.ctx ∧ q.cbix = p.cbix ∧
    (∀ g, q.frames.find g = if g = f then none else p.frames.find g) ∧ (∀ g, q.gens.get g 0 = if g = f then (p.gens.get f 0 + 1) % 8 else p.gens.get g 0) ∧
    (∀ g, q.holds.find g = if g = f then some (fc + 128) else p.holds.find g) ∧ q.free = p.free ++ [f] ∧ q.flags = p.flags ||| fr.flags ∧
    (f, fr.gen) ∈ q.retired ∧ q.state = (if p.state = .draining ∧ q.frames = [] then .loaded else p.state) := by
  unfold Plane.retires
  rw [drained_eq]
  exact ⟨rfl, rfl, fun g => Map.find_del _ _ _, fun g => Map.get_put _ _ _ _ _, fun g => Map.find_put _ _ _ _, rfl, rfl, List.mem_cons_self, rfl⟩

theorem frameRetire_spec (s : State) (pk f : Nat) (fr : Frame) : let p := s.plane pk
    let hit (r : Ray) : Bool := decide (r.plane = pk ∧ r.frame = f ∧ r.gen = fr.gen ∧ r.stage = .done)
    p.frames.find f = some fr → Over s pk f fr → (∀ x ∈ p.ovf, x.elem < 4096) →
    ∃ t r, exec (.eFrameRetire pk f) s = .next (if s.holdsLock pk f fr.gen then t.report r else t) ∧
      t = { s with
        planes := t.planes, keeps := t.keeps, tokens := t.tokens, farLocks := t.farLocks, kept := t.kept, reqs := t.reqs, rays := t.rays
        csrs := t.csrs, parking := t.parking } ∧ OtherPlanes s t pk ∧
      (s.holdsLock pk f fr.gen = false → t.tokens = s.tokens ∧ t.reqs = s.reqs ∧ t.farLocks = s.farLocks ∧ t.kept = s.kept) ∧
      t.rays = s.rays.filter (fun x => !hit x.2) ∧ CountsStale s t pk (s.rays.filter (fun x => hit x.2)).length ∧
      (p.ovf = [] → t.parking = s.parking) ∧
      r.cause = 0x23 ∧ r.frame = f ∧ r.gen = fr.gen ∧ r.itix = fr.itix ∧ r.ctx = p.ctx ∧ r.cbix = p.cbix ∧
      (∀ k, k ∈ t.keeps ↔ k ∈ s.keeps ∧ ¬(k.plane = pk ∧ k.frame = f ∧ k.gen = fr.gen)) ∧
      (let q := t.plane pk
       (∀ g, q.frames.find g = if g = f then none else p.frames.find g) ∧ (∀ g, q.gens.get g 0 = if g = f then (p.gens.get f 0 + 1) % 8 else p.gens.get g 0) ∧
       (∀ g, q.holds.find g = if g = f then some (s.fc + 128) else p.holds.find g) ∧ q.free = p.free ++ [f] ∧ q.flags = p.flags ||| fr.flags ∧
       (f, fr.gen) ∈ q.retired ∧ (∀ e, (e, f) ∉ q.groups) ∧ (∀ k, k / 2 ^ 14 % 1024 = f → q.slots.find k = none) ∧
       (∀ x ∈ q.ovf, tagFrame x.tag ≠ f) ∧
       q.state = (if p.state = .draining ∧ q.frames = [] then .loaded else p.state)) := by
  intro p hit hf hover hovf
  obtain ⟨z, hz, hretire⟩ := retire_eq s pk f fr
  obtain ⟨hr, hclear⟩ := rebindAll_spec (s := z) (pk := pk) (f := f) (by rw [hz.plane]; exact clear_retires _ _ _ hovf)
  have hnil : (s.plane pk).ovf = [] → z.rebindAll pk = z := fun h => rebindAll_of_nil (by
    rw [hz.plane]
    unfold Plane.retires
    rw [drained_eq]
    show (s.plane pk).ovf.filter _ = []
    rw [h]
    rfl)
  have hhit : hit = returnedHit pk f fr.gen := funext fun r => (returnedHit_eq pk f fr.gen r).symm
  generalize z.rebindAll pk = t at hretire hr hclear hnil
  obtain ⟨hctx, hcbix, hframes, hgens, hholds, hfree, hflags, hretired, hstate⟩ := Plane.retires_spec (s.plane pk) s.fc f fr
  obtain ⟨h1, h2, h3, h4, h5, h6⟩ := leakRec_fields t pk f fr
  have htokens : t.tokens = z.tokens := by rw [hr.rest]
  have hreqs : t.reqs = z.reqs := by rw [hr.rest]
  have hfar : t.farLocks = z.farLocks := by rw [hr.rest]
  have hkept : t.kept = z.kept := by rw [hr.rest]
  have hkeeps : t.keeps = s.keeps.filter (fun k => !(k.plane = pk && k.frame = f && k.gen = fr.gen)) := by rw [hr.rest, hz.rest]
  have hrays : t.rays = s.rays.filter (fun x => !returnedHit pk f fr.gen x.2) := by rw [hr.rest, hz.rest]
  have hcsrs : t.csrs = z.csrs := by rw [hr.rest]
  refine ⟨t, leakRec t pk f fr, ?_, ?_, hz.others.trans hr.others, ?_, ?_, ?_, ?_, h1, h2, h3, h4, ?_, ?_, ?_, ?_⟩
  · rw [execEFrameRetire_of_over hf hover, hretire]
  · rw [htokens, hreqs, hfar, hkept, hkeeps, hrays, hcsrs]
    conv_lhs => rw [hr.rest, hz.rest]
  · rw [htokens, hreqs, hfar, hkept]
    exact hz.locks
  · rw [hhit]
    exact hrays
  · rw [hhit]
    exact hz.stale.congr hcsrs
  · intro h
    rw [hnil h, hz.rest]
  · rw [h5, hr.plane, hz.plane]
    exact hctx
  · rw [h6, hr.plane, hz.plane]
    exact hcbix
  · intro k
    rw [hkeeps, List.mem_filter, Bool.not_eq_true', ← Bool.not_eq_true]
    simp only [Bool.and_eq_true, decide_eq_true_eq, and_assoc]
  · have hq := hr.plane
    rw [hz.plane] at hq
    have hF : (t.plane pk).frames = (Plane.retires (s.plane pk) s.fc f fr).frames := by rw [hq]
    refine ⟨fun g => ?_, fun g => ?_, fun g => ?_, ?_, ?_, ?_, hclear.groups, hclear.slots, fun w hw => (hclear.ovf w hw).1, ?_⟩
    · rw [hF]
      exact hframes g
    · rw [hq]
      exact hgens g
    · rw [hq]
      exact hholds g
    · rw [hq]
      exact hfree
    · rw [hq]
      exact hflags
    · rw [hq]
      exact hretired
    · rw [hF, show (t.plane pk).state = (Plane.retires (s.plane pk) s.fc f fr).state by rw [hq]]
      exact hstate

end Sys2Proof.Claim

namespace Sys2Proof.Claim

open Sys2Proof Sys2Proof.Machine

/-! The iteration source (R32, R34, R320). -/

theorem trigOf_flightOf {s t : State} (hfc : t.fc = s.fc) (pk e f gen node : Nat) :
    TrigOf s pk e node f gen (flightOf t pk e (2 ^ 42 + pk) 1 f gen node 0 2 ⟨0#512, 0xFFFF#16, 0#4⟩) := by
  have hpp : pkPp pk < 4 := Nat.mod_lt _ (by norm_num)
  have hmask : tagMask (mkTag (pkPp pk) f gen node 0 2 0xFFFF#16) = 0xFFFF#16 := by
    unfold tagMask
    rw [toNat_mkTag _ _ _ _ _ _ _ hpp]
    apply BitVec.eq_of_toNat_eq
    simp only [BitVec.toNat_ofNat]
    omega
  refine ⟨rfl, rfl, ?_, rfl, rfl, ?_, ?_, ?_, ?_, ?_, ?_, hmask⟩
  · show t.fc + 1 - 1 = s.fc
    omega
  · exact tagPlane_mkTag _ _ _ _ _ _ _ hpp
  · exact tagFrame_mkTag _ _ _ _ _ _ _ hpp
  · exact tagGen_mkTag _ _ _ _ _ _ _ hpp
  · exact tagNode_mkTag _ _ _ _ _ _ _ hpp
  · exact tagPort_mkTag _ _ _ _ _ _ _ hpp
  · exact tagKind_mkTag _ _ _ _ _ _ _ hpp

/-- Every ENTRY node gets a TRIG token, and no other node does (R32). -/
theorem triggers_spec (s : State) (pk f gen : Nat) (l : List (Nat × Nat × Nat)) : ∃ k,
    l.foldl (fun s (x : Nat × Nat × Nat) => if wOpc x.2.2 = 0x65 then s.post pk x.1 (2 ^ 42 + pk) 1 f gen x.2.1 0 2 ⟨0#512, 0xFFFF#16, 0#4⟩ else s) s =
      { s with flights := s.flights ++ k } ∧
    List.Forall₂ (fun x y => TrigOf s pk x.1 x.2.1 f gen y) (l.filter (fun x => x.2.2 / 2 ^ 120 % 256 = 0x65)) k := by
  induction l using List.reverseRecOn with
  | nil => exact ⟨[], by simp, .nil⟩
  | append_singleton l x ih =>
    obtain ⟨k, hk, hall⟩ := ih
    rw [List.foldl_append, hk, List.filter_append]
    by_cases hx : x.2.2 / 2 ^ 120 % 256 = 0x65
    · refine ⟨k ++ [flightOf { s with flights := s.flights ++ k } pk x.1 (2 ^ 42 + pk) 1 f gen x.2.1 0 2 ⟨0#512, 0xFFFF#16, 0#4⟩], ?_, ?_⟩
      · rw [← List.append_assoc]
        exact if_pos hx
      · rw [List.filter_cons_of_pos (by simpa using hx)]
        exact List.rel_append hall (.cons (trigOf_flightOf (by rfl) _ _ _ _ _) .nil)
    · refine ⟨k, if_neg hx, ?_⟩
      rw [List.filter_cons_of_neg (by simpa using hx), List.filter_nil, List.append_nil]
      exact hall

theorem trigger_spec (s : State) (pk f gen : Nat) : ∃ k, s.trigger pk f gen = { s with flights := s.flights ++ k } ∧
    List.Forall₂ (fun x y => TrigOf s pk x.1 x.2.1 f gen y) (((s.plane pk).placed pk).filter (fun x => x.2.2 / 2 ^ 120 % 256 = 0x65)) k :=
  triggers_spec s pk f gen _

/-- The frame that a source draws. -/
def sourceFrame (s : State) (pk f : Nat) (it : IterSt) : Frame := newFrame ((s.plane pk).gens.get f 0) it.next (s.fresh + 1) .iter it.horizon none

/-- A source has drawn a frame. -/
def sourceDrew (s : State) (pk f : Nat) (it : IterSt) (fr : Frame) : State :=
  (drawnInto s pk f fr).setPlane pk { (drawnInto s pk f fr).plane pk with iter := some { it with next := it.next + 1, drawn := s.fc + 1 } }

theorem plane_sourceDrew (s : State) (pk f : Nat) (it : IterSt) (fr : Frame) : (sourceDrew s pk f it fr).plane pk = { s.plane pk with
    free := (s.plane pk).free.erase f, frames := (s.plane pk).frames.put f fr, iter := some { it with next := it.next + 1, drawn := s.fc + 1 } } := by
  unfold sourceDrew
  rw [State.plane_setPlane, if_pos rfl, plane_drawnInto]

/-- A source that may draw draws the oldest identifier that may be issued. -/
theorem execEIterDraw_of_may {s : State} {pk f : Nat} {it : IterSt} {rest : List Nat} (hhas : s.planes.has pk = true) (hiter : (s.plane pk).iter = some it)
    (hactive : (s.plane pk).state = .active) (hfrozen : (s.plane pk).frozen = false) (hswap : (s.plane pk).swap ≠ 2) (hrun : it.running = true)
    (hcomplete : it.complete = false) (hnext : it.next < it.n0 * it.n1 * it.n2) (hdrawn : it.drawn ≠ s.fc + 1)
    (hmin : (s.plane pk).minfr < (s.freeIds pk).length) (hwindow : (s.plane pk).sourceFrames < s.window (s.plane pk)) (hfree : s.freeIds pk = f :: rest) :
    exec (.eIterDraw pk) s = .next ((sourceDrew s pk f it (sourceFrame s pk f it)).trigger pk f ((s.plane pk).gens.get f 0)) := by
  have hmay : ¬(!s.planes.has pk ∨ (s.plane pk).state ≠ .active ∨ (s.plane pk).frozen ∨ (s.plane pk).swap = 2 ∨ !it.running ∨ it.complete ∨
      it.n0 * it.n1 * it.n2 ≤ it.next ∨ it.drawn = s.fc + 1 ∨ (s.freeIds pk).length ≤ (s.plane pk).minfr ∨
      s.window (s.plane pk) ≤ (s.plane pk).sourceFrames) := by
    simp only [hhas, hactive, hfrozen, hrun, hcomplete, Bool.not_true, Bool.false_eq_true, ne_eq, not_true, false_or, not_or, not_le]
    exact ⟨hswap, hnext, hdrawn, hmin, hwindow⟩
  show execEIterDraw pk s = _
  unfold execEIterDraw
  dsimp only
  rw [hiter]
  dsimp only
  rw [if_neg hmay, draw_of_free hfrozen hfree]
  dsimp only
  rw [plane_drawnInto]
  unfold sourceDrew
  rw [plane_drawnInto]
  rfl

theorem iterDraw_spec (s : State) (pk f : Nat) (it : IterSt) (rest : List Nat) :
    let p := s.plane pk
    s.planes.has pk = true → p.iter = some it → p.state = .active → p.frozen = false → p.swap ≠ 2 → it.running = true → it.complete = false →
    it.next < it.n0 * it.n1 * it.n2 → it.drawn ≠ s.fc + 1 → p.minfr < (s.freeIds pk).length → p.sourceFrames < s.window p →
    s.freeIds pk = f :: rest →
    ∃ t l fr, exec (.eIterDraw pk) s = .next t ∧ t = { s with planes := t.planes, fresh := s.fresh + 1, flights := s.flights ++ l } ∧
      OtherPlanes s t pk ∧
      t.plane pk = { p with
        free := p.free.erase f, frames := (t.plane pk).frames, iter := some { it with next := it.next + 1, drawn := s.fc + 1 } } ∧
      Drawn s pk f it.next .iter it.horizon none fr ∧
      (∀ g, (t.plane pk).frames.find g = if g = f then some fr else p.frames.find g) ∧
      List.Forall₂ (fun x y => TrigOf s pk x.1 x.2.1 f fr.gen y) ((p.placed pk).filter (fun x => x.2.2 / 2 ^ 120 % 256 = 0x65)) l := by
  intro p hhas hiter hactive hfrozen hswap hrun hcomplete hnext hdrawn hmin hwindow hfree
  have he := execEIterDraw_of_may hhas hiter hactive hfrozen hswap hrun hcomplete hnext hdrawn hmin hwindow hfree
  have hplane := plane_sourceDrew s pk f it (sourceFrame s pk f it)
  have hothers : OtherPlanes s (sourceDrew s pk f it (sourceFrame s pk f it)) pk :=
    (otherPlanes_setPlane _ pk _).trans (otherPlanes_setPlane _ pk _)
  have hrest : sourceDrew s pk f it (sourceFrame s pk f it) =
      { s with planes := (sourceDrew s pk f it (sourceFrame s pk f it)).planes, fresh := s.fresh + 1 } := rfl
  generalize sourceDrew s pk f it _ = d at he hplane hothers hrest
  obtain ⟨l, hl, hall⟩ := trigger_spec d pk f ((s.plane pk).gens.get f 0)
  have hfc : d.fc = s.fc := by rw [hrest]
  have hflights : d.flights = s.flights := by rw [hrest]
  refine ⟨{ d with flights := s.flights ++ l }, l, _, he.trans (congrArg _ (by rw [← hflights]; exact hl)), ?_, hothers, ?_, rfl, fun g => ?_, ?_⟩
  · conv_lhs => rw [hrest]
  · show d.plane pk = { s.plane pk with
      free := (s.plane pk).free.erase f, frames := (d.plane pk).frames, iter := some { it with next := it.next + 1, drawn := s.fc + 1 } }
    rw [hplane]
  · show (d.plane pk).frames.find g = _
    rw [hplane]
    exact Map.find_put _ _ _ _
  · rw [hplane] at hall
    unfold TrigOf at hall ⊢
    rw [hfc] at hall
    exact hall

/-! Iterations end (R34, R101, R164), and holds expire (R19). -/

theorem iterOver_of {p : Plane} {it : IterSt} (hiter : p.iter = some it) (h : it.running = false ∨ it.n0 * it.n1 * it.n2 ≤ it.next)
    (hframes : ∀ x ∈ p.frames, x.2.src = .spawn) : p.iterOver = true := by
  have hnone : p.sourceFrames = 0 := by
    unfold Plane.sourceFrames
    rw [List.length_eq_zero_iff, List.filter_eq_nil_iff]
    intro x hx
    simpa using hframes x hx
  unfold Plane.iterOver
  rw [hiter]
  simpa [hnone] using h

theorem iterComplete_spec (s : State) (pk : Nat) (it : IterSt) : let p := s.plane pk
    p.iter = some it → it.complete = false → (it.running = false ∨ it.n0 * it.n1 * it.n2 ≤ it.next) →
    (∀ x ∈ p.frames, x.2.src = .spawn) → (∀ c ∈ s.contribs, c.2.plane ≠ pk) →
    ∃ t, exec (.eIterComplete pk) s = .next t ∧ t = { s with planes := t.planes, trig := t.trig, arms := t.arms } ∧ OtherPlanes s t pk ∧
      t.plane pk = { p with iter := some { it with running := false, complete := true } } ∧
      (∀ a, a ∈ t.trig ↔ a ∈ s.trig ∨ (a ∈ s.arms ∧ a.kind = .iter pk)) ∧ (∀ a, a ∈ t.arms ↔ a ∈ s.arms ∧ a.kind ≠ .iter pk) := by
  intro p hiter hcomplete hover hframes hcontribs
  have hnone : s.contribs.any (fun c => c.2.plane = pk) = false := by
    rw [List.any_eq_false]
    simpa using hcontribs
  have hmay : ¬(it.complete = true ∨ (!(s.plane pk).iterOver) = true ∨ s.contribs.any (fun c => c.2.plane = pk) = true) := by
    rw [hcomplete, iterOver_of hiter hover hframes, hnone]
    simp
  refine ⟨{ s.setPlane pk { s.plane pk with iter := some { it with running := false, complete := true } } with
    trig := s.trig ++ s.arms.filter (fun a => a.kind = .iter pk), arms := s.arms.filter (fun a => !decide (a.kind = .iter pk)) },
    ?_, rfl, otherPlanes_setPlane _ _ _, (State.plane_setPlane _ _ _ _).trans (if_pos rfl), fun a => ?_, fun a => ?_⟩
  · show execEIterComplete pk s = _
    unfold execEIterComplete
    dsimp only
    rw [hiter]
    exact if_neg hmay
  · simp
  · simp

theorem find_map_values {α : Type} (m : Map α) (g : α → α) (k : Nat) : Map.find (m.map (fun x => (x.1, g x.2))) k = (Map.find m k).map g := by
  induction m with
  | nil => rfl
  | cons x m ih =>
    obtain ⟨i, v⟩ := x
    simp only [List.map_cons, Map.find]
    rw [ih]
    split <;> rfl

theorem identifierHoldExpiry_spec (s : State) : ∃ t, exec .eIdentifierHoldExpiry s = .next t ∧ t = { s with planes := t.planes } ∧
    ∀ k, t.planes.find k = (s.planes.find k).map (fun p => { p with holds := p.holds.filter (fun x => s.fc < x.2) }) :=
  ⟨_, rfl, rfl, fun k => find_map_values s.planes (fun p => p.expireHolds s.fc) k⟩

end Sys2Proof.Claim

namespace Sys2Proof.Claim

open Sys2Proof Sys2Proof.Machine

/-! What leaves the plane table alone. -/

theorem planes_of_written {s t : State} (h : Written s t) : t.planes = s.planes := by
  obtain ⟨⟨_, _, _, _, _, _, _, _, _, _, _, _, _, rfl⟩, -⟩ := h
  rfl

theorem planes_of_fst_eq {α : Type} {x : State × α} {s t : State} {a : α} (e : x = (t, a)) (h : x.1.planes = s.planes) : t.planes = s.planes := by
  subst e
  exact h

theorem translate_planes (s : State) (tlb die ctx va : Nat) (wr fe priv : Bool) : (s.translate tlb die ctx va wr fe priv).1.planes = s.planes := by
  obtain ⟨_, _, _, e⟩ := s.translate_eq tlb die ctx va wr fe priv
  rw [e]

theorem physRead_planes (s : State) (slot pa n : Nat) : (s.physRead slot pa n).1.planes = s.planes :=
  planes_of_written (State.physRead_spec s slot pa n).decoded.written

theorem vread_planes (s : State) (i : Issuer) (va n : Nat) : (s.vread i va n).1.planes = s.planes := by
  unfold State.vread
  split
  next e => exact planes_of_fst_eq e (translate_planes ..)
  next e =>
    have h := planes_of_fst_eq e (translate_planes ..)
    split
    next e' => exact planes_of_fst_eq e' ((physRead_planes ..).trans h)
    next e' => exact planes_of_fst_eq e' ((physRead_planes ..).trans h)

theorem vreadAny_planes (s : State) (i : Issuer) (va n : Nat) : (s.vreadAny i va n).1.planes = s.planes := by
  induction n generalizing s va with
  | zero => rfl
  | succ n ih =>
    unfold State.vreadAny
    split
    next e => exact planes_of_fst_eq e (vread_planes ..)
    next e =>
      have h := planes_of_fst_eq e (vread_planes ..)
      split
      next e' => exact planes_of_fst_eq e' ((ih ..).trans h)
      next e' => exact planes_of_fst_eq e' ((ih ..).trans h)

theorem readFor_planes (s : State) (i : Issuer) (va n : Nat) : (s.readFor i va n).1.planes = s.planes := by
  unfold State.readFor
  split
  next e => exact planes_of_fst_eq e (vreadAny_planes ..)
  next e => exact planes_of_fst_eq e (vreadAny_planes ..)

theorem takeCmsg_planes (s : State) (ctx key role num : Nat) (v : Vec) (wrote : Option (Nat × Nat)) :
    (s.takeCmsg ctx key role num v wrote).planes = s.planes := by
  unfold State.takeCmsg
  dsimp only
  split
  · rfl
  split
  next e =>
    have h := planes_of_fst_eq e (readFor_planes ..)
    exact h
  next e =>
    have h := planes_of_fst_eq e (readFor_planes ..)
    exact h

theorem returnCmsg_planes (s : State) (p : Plane) : (s.returnCmsg p).planes = s.planes := by
  unfold State.returnCmsg
  exact List.foldlRecOn (motive := fun t : State => t.planes = s.planes) _ _ rfl fun t ht x _ => (takeCmsg_planes ..).trans ht

theorem poke_planes {s t : State} {ctx va : Nat} {v : List Byte} (h : s.poke ctx va v = some t) : t.planes = s.planes := by
  unfold State.poke at h
  split at h
  · cases h
  split at h
  · dsimp only at h
    split at h
    next e =>
      cases h
      exact planes_of_written ((Written.setBytes ..).trans (State.physWrite_spec e).1)
    next => cases h
  · cases h

theorem setParkState_planes (s : State) (ctx addr st : Nat) : (s.setParkState ctx addr st).planes = s.planes := by
  unfold State.setParkState
  split
  next b _ =>
    cases h : s.poke ctx (addr + 25) [BitVec.ofNat 8 (b / 64 * 64 + st * 16 + b % 16)] with
    | none => rfl
    | some t => exact poke_planes h
  · rfl

theorem dropHits_planes (s : State) (pk f gen : Nat) : (s.dropHits pk f gen).planes = s.planes := by
  rw [dropHits_eq]
  obtain ⟨⟨c, hc⟩, -⟩ := staleDrops_spec { s with rays := s.rays.filter (fun x => !returnedHit pk f gen x.2) } pk
    (s.rays.filter (fun x => returnedHit pk f gen x.2))
  rw [hc]

theorem dropLocks_planes (s : State) (pk f gen : Nat) : (s.dropLocks pk f gen).planes = s.planes := by
  obtain ⟨_, _, _, _, h⟩ := dropLocks_rest s pk f gen
  rw [h]

/-! Killing frames leaves every plane in its place and in its context. -/

/-- The context of the plane at a key. -/
def ctxAt (s : State) (k : Nat) : Option Nat := (s.planes.find k).map Plane.ctx

/-- The same planes are there, in the same contexts. -/
def SameCtx (s t : State) : Prop := ∀ k, ctxAt t k = ctxAt s k

theorem SameCtx.trans {s t u : State} (h : SameCtx s t) (g : SameCtx t u) : SameCtx s u := fun k => (g k).trans (h k)

theorem SameCtx.of_planes {s t : State} (h : t.planes = s.planes) : SameCtx s t := fun k => by
  unfold ctxAt
  rw [h]

theorem ctxAt_isSome (s : State) (k : Nat) : (ctxAt s k).isSome = s.planes.has k := Option.isSome_map ..

theorem SameCtx.has {s t : State} (h : SameCtx s t) {k : Nat} (g : s.planes.has k = true) : t.planes.has k = true := by
  rw [← ctxAt_isSome] at g ⊢
  rw [h k, g]

theorem sameCtx_setPlane {s : State} {pk : Nat} {q : Plane} (h : s.planes.has pk = true) (hq : q.ctx = (s.plane pk).ctx) : SameCtx s (s.setPlane pk q) := by
  intro k
  unfold ctxAt
  rw [find_setPlane]
  by_cases hk : k = pk
  · subst hk
    rw [if_pos rfl, Option.map_some, hq]
    unfold State.plane Map.get
    obtain ⟨p, hp⟩ := Option.isSome_iff_exists.mp h
    rw [hp]
    rfl
  · rw [if_neg hk]

theorem sameCtx_intoSlot {s : State} {pk : Nat} (h : s.planes.has pk = true) (w : Waiting) : SameCtx s (s.intoSlot pk w) := by
  unfold State.intoSlot
  dsimp only
  split
  · unfold State.collide State.park
    dsimp only
    split
    · exact .of_planes rfl
    · exact .of_planes rfl
  · exact sameCtx_setPlane h rfl

theorem sameCtx_moveTokens {s : State} {pk : Nat} (h : s.planes.has pk = true) (e : Nat) : SameCtx s (s.moveTokens pk e) := by
  unfold State.moveTokens
  exact List.foldlRecOn (motive := SameCtx s) _ _ (sameCtx_setPlane h rfl) fun t ht w _ => ht.trans (sameCtx_intoSlot (ht.has h) w)

theorem bindOldest_ctx (p : Plane) (e : Nat) : (p.bindOldest e).ctx = p.ctx := by
  unfold Plane.bindOldest
  split
  · rfl
  · split <;> rfl

theorem sameCtx_rebindAll {s : State} {pk : Nat} (h : s.planes.has pk = true) : SameCtx s (s.rebindAll pk) := by
  unfold State.rebindAll
  refine List.foldlRecOn (motive := SameCtx s) _ _ (.of_planes rfl) fun t ht e _ => ?_
  have hbind : SameCtx t _ := sameCtx_setPlane (ht.has h) (bindOldest_ctx (t.plane pk) e)
  exact ht.trans (hbind.trans (sameCtx_moveTokens (hbind.has (ht.has h)) e))

theorem drained_ctx (p : Plane) : p.drained.ctx = p.ctx := by rw [drained_eq]

theorem sameCtx_killFrame (s : State) (pk f : Nat) : SameCtx s (s.killFrame pk f) := by
  unfold State.killFrame
  split
  · exact .of_planes rfl
  next fr hf =>
    have hhas : s.planes.has pk = true := has_of_frame hf
    extract_lets mine behind left s1 s2 s3 s4 p
    have h3 : SameCtx s s3 := .of_planes ((dropLocks_planes s2 pk f fr.gen).trans (dropHits_planes s pk f fr.gen))
    have h4 : SameCtx s s4 := h3.trans (sameCtx_setPlane (h3.has hhas) rfl)
    have h5 : SameCtx s (s4.setPlane pk { p with retired := p.retired.filter (· ≠ (f, fr.gen)) }.drained) :=
      h4.trans (sameCtx_setPlane (h4.has hhas) (drained_ctx _))
    exact h5.trans (sameCtx_rebindAll (h5.has hhas))

theorem sameCtx_killPlane (s : State) (pk : Nat) : SameCtx s (s.killPlane pk) := by
  unfold State.killPlane
  refine List.foldlRecOn (motive := SameCtx s) _ _ ?_ fun t ht f _ => ht.trans (sameCtx_killFrame t pk f)
  exact List.foldlRecOn (motive := SameCtx s) _ _ (.of_planes rfl) fun t ht k _ => ht.trans (.of_planes (setParkState_planes ..))

/-! A context is reset (R280). -/

/-- A plane that is dropped leaves its key, and no other. -/
theorem ctxAt_dropPlane (s : State) (pk k : Nat) : ctxAt (s.dropPlane pk) k = if k = pk then none else ctxAt s k := by
  unfold ctxAt State.dropPlane
  dsimp only
  rw [returnCmsg_planes, Map.find_del]
  split <;> rfl

theorem ctxAt_drops (s : State) (ks : List Nat) (k : Nat) :
    ctxAt (ks.foldl (fun s k => (s.killPlane k).dropPlane k) s) k = if k ∈ ks then none else ctxAt s k := by
  induction ks using List.reverseRecOn with
  | nil => simp
  | append_singleton ks x ih =>
    rw [List.foldl_append, List.foldl_cons, List.foldl_nil, ctxAt_dropPlane, sameCtx_killPlane, ih]
    by_cases hx : k = x
    · simp [hx]
    · simp [hx]

/-- No plane of a context is resident. -/
def Absent (s : State) (c : Nat) : Prop := ∀ k, ctxAt s k ≠ some c

theorem mem_of_find {α : Type} {m : Map α} {k : Nat} {v : α} (h : m.find k = some v) : (k, v) ∈ m := by
  induction m with
  | nil => cases h
  | cons x m ih =>
    obtain ⟨i, w⟩ := x
    unfold Map.find at h
    split at h
    next hk =>
      cases h
      rw [hk]
      exact List.mem_cons_self
    next => exact List.mem_cons_of_mem _ (ih h)

theorem absent_drops (s : State) (c : Nat) :
    Absent (((s.planes.filter (fun x => x.2.ctx = c)).map Prod.fst).foldl (fun s k => (s.killPlane k).dropPlane k) s) c := by
  intro k h
  rw [ctxAt_drops] at h
  split at h
  · cases h
  next hk =>
    obtain ⟨p, hp, hctx⟩ := Option.map_eq_some_iff.mp h
    exact hk (List.mem_map.mpr ⟨(k, p), List.mem_filter.mpr ⟨mem_of_find hp, by simpa using hctx⟩, rfl⟩)

theorem Absent.of_sameCtx {s t : State} {c : Nat} (h : Absent s c) (g : SameCtx s t) : Absent t c := fun k => by
  rw [g k]
  exact h k

/-- Killing a plane that may be saved brings no plane back. -/
theorem Absent.withSaved {s : State} {c : Nat} (h : Absent s c) (pk k : Nat) : Absent (s.withSaved pk (fun s => s.killPlane k)) c := by
  unfold State.withSaved
  split
  · exact h.of_sameCtx (sameCtx_killPlane s k)
  split
  · exact h
  next v _ =>
    intro j hj
    have hkill := sameCtx_killPlane { s with planes := s.planes.put pk v.plane } k j
    unfold ctxAt at hj hkill
    dsimp only at hj hkill
    rw [Map.find_del] at hj
    split at hj
    · cases hj
    next hne =>
      rw [Map.find_put, if_neg hne] at hkill
      exact h j (hkill.symm.trans hj)

theorem resetContext_spec (s : State) (c : Nat) : let t := s.resetContext c
    (∀ k p, t.planes.find k = some p → p.ctx ≠ c) ∧ ∀ v ∈ t.saved, v.ctx ≠ c := by
  unfold State.resetContext State.freeData
  dsimp only
  refine ⟨fun k p hp hctx => ?_, fun v hv => by simpa using List.of_mem_filter hv⟩
  have habsent := absent_drops s c
  generalize List.foldl (fun s k => (s.killPlane k).dropPlane k) s _ = d at habsent hp
  have hsaved : Absent ((d.saved.filter (fun v => v.ctx = c)).foldl (fun s v => s.withSaved v.key (fun s => s.killPlane v.key)) d) c :=
    List.foldlRecOn (motive := fun t : State => Absent t c) _ _ habsent fun t ht v _ => ht.withSaved v.key v.key
  refine hsaved k ?_
  unfold ctxAt
  rw [hp, Option.map_some, hctx]

end Sys2Proof.Claim

namespace Sys2Proof.Claim

open Sys2Proof Sys2Proof.Machine

/-! The draw watchdog (R280). -/

theorem midDraw_iff {p : Plane} {it : IterSt} (h : p.iter = some it) :
    p.midDraw = true ↔ it.draw = true ∧ it.complete = false ∧ (it.running = true ∨ ∃ f ∈ p.frames, f.2.src ≠ .spawn) := by
  unfold Plane.midDraw
  rw [h]
  simp [and_assoc]

/-- A plane's iteration has run past its allowance, by the watchdog's own test. -/
theorem overdue_iff {s : State} {pk : Nat} {it : IterSt} (h : (s.plane pk).iter = some it) : Overdue s pk ↔
    ¬((!(s.plane pk).midDraw) = true ∨ s.eff (s.plane pk).ctx (s.plane pk).cbix 6 191 160 = 0 ∨
      s.timer < it.start + s.eff (s.plane pk).ctx (s.plane pk).cbix 6 191 160 ∨ (!s.planes.has pk) = true) := by
  simp only [not_or, Bool.not_eq_true', Bool.not_eq_false, not_lt, midDraw_iff h]
  unfold Overdue
  constructor
  · rintro ⟨hhas, hallow, t, ht, hdraw, hcomplete, hrun, hlate⟩
    cases h.symm.trans ht
    exact ⟨⟨hdraw, hcomplete, hrun⟩, hallow, hlate, hhas⟩
  · rintro ⟨⟨hdraw, hcomplete, hrun⟩, hallow, hlate, hhas⟩
    exact ⟨hhas, hallow, it, h, hdraw, hcomplete, hrun, hlate⟩

/-- The record of a draw that has run past its allowance. -/
def watchdogRec (s : State) (pk : Nat) : FaultRec :=
  { cause := Cause.drawWatchdog, cbix := (s.plane pk).cbix, ctx := (s.plane pk).ctx, die := pkDie pk, pplane := pkPp pk, vplane := (s.plane pk).vp,
    region := regionCode (pkOx pk) (pkOy pk) (s.plane pk).w (s.plane pk).h }

theorem watchdog_of_overdue {s : State} {pk : Nat} (h : Overdue s pk) : s.watchdog pk = (s.resetContext (s.plane pk).ctx).report (watchdogRec s pk) := by
  obtain ⟨-, -, it, hit, -⟩ := id h
  unfold State.watchdog
  dsimp only
  rw [hit]
  exact if_neg ((overdue_iff hit).mp h)

theorem watchdog_of_not_overdue {s : State} {pk : Nat} (h : ¬Overdue s pk) : s.watchdog pk = s := by
  unfold State.watchdog
  dsimp only
  split
  · rfl
  next it hit => exact if_pos (not_not.mp fun hn => h ((overdue_iff hit).mpr hn))

theorem drawWatchdog_spec (s : State) : ∃ u : Nat → State, u 0 = s ∧ exec .eDrawWatchdog s = .next (u s.planes.length) ∧
    ∀ i k p, s.planes[i]? = some (k, p) →
      (Overdue (u i) k → ∃ r, u (i + 1) = ((u i).resetContext ((u i).plane k).ctx).report r ∧ r.cause = 0x44 ∧
        r.ctx = ((u i).plane k).ctx ∧ r.cbix = ((u i).plane k).cbix ∧ r.vplane = ((u i).plane k).vp) ∧
      (¬Overdue (u i) k → u (i + 1) = u i) := by
  obtain ⟨u, h0, hlast, hstep, -⟩ := foldl_trace (fun (s : State) (x : Nat × Plane) => s.watchdog x.1) s.planes s
  refine ⟨u, h0, congrArg Host.Outcome.next hlast, fun i k p hi => ?_⟩
  rw [hstep i _ hi]
  exact ⟨fun h => ⟨watchdogRec (u i) k, watchdog_of_overdue h, rfl, rfl, rfl, rfl⟩, watchdog_of_not_overdue⟩

end Sys2Proof.Claim

namespace Sys2Proof

open Sys2Proof.Machine Sys2Proof.Claim

/-- Settles O44, clause by clause: the source's draw, a retirement, the end of an ITER, the holds, the watchdog, and its reset. -/
theorem framesAreDrawnAndRetire : Obligations.FramesAreDrawnAndRetire :=
  ⟨iterDraw_spec, frameRetire_spec, iterComplete_spec, identifierHoldExpiry_spec, drawWatchdog_spec, resetContext_spec⟩

end Sys2Proof

namespace Sys2Proof

open Machine Claim

/-! The counterexample to TokensLandAtTheirNode: a plane table that is not in key order. -/

/-- A live frame that nothing has happened to. -/
def liveFrame : Frame := ⟨0, 0, 0, .iter, 0#6, [], none, none, none, [], false, false, [], []⟩

/-- Plane 0: every group of element 0 is bound to a frame other than 0, and 32 tokens lie in the element's buffer. -/
def fullElement : Plane :=
  { Plane.reset with
    f := 8, frames := [(0, liveFrame)], groups := (List.range 48).map (fun i => (0, i + 10))
    ovf := (List.range 32).map (fun i => ⟨0, mkTag 0 9 0 0 0 1 0xFFFF#16, 1#512, false, i⟩) }

/-- A token of frame 0 for port L of node 0 of element 0. -/
def toNode0 : Flight := ⟨4, 9, 0, 0, mkTag 0 0 0 0 0 1 0xFFFF#16, 7#512, parityOf 7#512 (mkTag 0 0 0 0 0 1 0xFFFF#16)⟩

/-- The token has come, and the table lists plane 1 before plane 0. -/
def outOfOrder : State :=
  { State.reset with fc := 5, arrivals := 70, flights := [toNode0], planes := [(1, Plane.reset), (0, fullElement)] }

theorem outOfOrder_arriving : Arriving outOfOrder 0 toNode0 :=
  ⟨rfl, show (4 : Nat) ≤ 5 by decide, fun j hj => absurd hj (Nat.not_lt_zero j), rfl⟩

/-- The instruction completes, and plane 0 has then a spilled token. -/
def spilt : Out → Bool
  | .next t => (t.plane 0).ovf.any (fun w => w.mem)
  | _ => false

/-- A plane written under key 0 goes before key 1, and the entry after it stays: the buffer then counts the plane's tokens twice, and
its oldest one spills. -/
theorem outOfOrder_spills : spilt (exec (.eTokenArrival 0) outOfOrder) = true := by decide +kernel

/-- Refutes O43: `outOfOrder` lists its planes out of key order, so that a token that enters a buffer of 32 makes it 65 long, and the
oldest token spills where the statement keeps all of them. -/
theorem not_tokensLandAtTheirNode : ¬ Obligations.TokensLandAtTheirNode := by
  unfold Obligations.TokensLandAtTheirNode
  rintro ⟨arrives, -⟩
  obtain ⟨-, h⟩ := arrives outOfOrder 0 toNode0 outOfOrder_arriving (by decide +kernel) (by decide +kernel)
  obtain ⟨-, -, h⟩ := h liveFrame (by decide +kernel) (by decide +kernel)
  obtain ⟨-, -, -, -, h⟩ := h rfl
  obtain ⟨h, -⟩ := h (by decide +kernel) (by decide +kernel) (by unfold Full; decide +kernel)
  obtain ⟨t, ht, -, hplane, -⟩ := h (by decide +kernel)
  have hspilt : (t.plane 0).ovf.any (fun w => w.mem) = true := (congrArg spilt ht).symm.trans outOfOrder_spills
  have hkept : (t.plane 0).ovf = fullElement.ovf ++ [⟨0, toNode0.tag, 7#512, false, 70⟩] := congrArg Plane.ovf hplane
  rw [hkept] at hspilt
  exact absurd hspilt (by decide +kernel)

end Sys2Proof

namespace Sys2Proof

open Sys2Proof.Machine Sys2Proof.Claim

/-! REFUTATION of O56. A record's first translation needs a context that is live, whatever a TLB holds (R330); the clauses on a unit's
turn do not ask for that, since `Fetched` is content with a translation from the TLB. -/

/-- A unit whose record makes its first translation in a context that is not live takes TR_CONTEXT, whatever its TLB holds (R330). -/
theorem step_of_badContext {s z : State} {u : Nat} {rest : List Act} (h : TurnOf s u rest z) (hbad : z.badContext = true) :
    step s = settled (.next (z.fetchTrap ⟨Cause.trContext, 4 + 16, z.me.pc.toNat⟩)) := by
  obtain ⟨hagenda, rfl, hrunning, hwait⟩ := h
  have hruns : { s with agenda := rest, cur := u }.me.runs = true := by
    unfold UnitSt.runs
    rw [hrunning, hwait]
    rfl
  unfold step
  rw [hagenda]
  unfold stepUnit State.fetch
  simp only [hruns, hbad, Bool.not_true, if_true, Bool.false_eq_true, if_false]

/-- Where the unit given goes on, after a move that goes on. -/
def nextPc (u : Nat) : Out → Option (BitVec 57)
  | .next t => some (t.unit u).pc
  | _ => none

/-- Control core CC0 at address 0, where ADD g5, g6, g7 lies in a page that its TLB maps. Its record has made no translation yet, and
context 0 is not live: its descriptor is zero. -/
def firstFetch : State :=
  { State.reset with
    agenda := [.unit 256], cur := 256
    units := [(256, { UnitSt.reset with status := .running, priv := true, first := true })]
    mem := [(1, 0x38#8), (2, 0xA6#8)]
    tlb := [⟨256, 0, 0, 9, 0x30F#64, 0⟩] }

/-- The core when its turn has come. -/
def firstTurn : State := { firstFetch with agenda := [] }

theorem firstTurn_turnOf : TurnOf firstFetch 256 [] firstTurn := ⟨rfl, rfl, rfl, rfl⟩

theorem firstTurn_fetched : Fetched firstTurn firstTurn 0 0x00A63800 :=
  ⟨firstTurn, ⟨0, 0, false⟩, [0#8, 0x38#8, 0xA6#8, 0#8], rfl, rfl, rfl⟩

theorem firstTurn_decodes : Decode.seqWord 0x00A63800 0 = .ok (.sAdd 5#5 6#5 7#5) := by decide +kernel

theorem step_firstFetch_traps : nextPc 256 (step firstFetch) = some 0#57 := by
  rw [step_of_badContext firstTurn_turnOf (by decide +kernel)]
  decide +kernel

theorem firstTurn_executes : nextPc 256 (settled (exec (.sAdd 5#5 6#5 7#5) firstTurn)) = some 4#57 := by decide +kernel

/-- Refutes O56: the core of `firstFetch` has a record that makes its first translation, in a context that is not live. The page is in its
TLB, so the word is fetched and decoded as the clause asks; but the core traps TR_CONTEXT (R330) and does not execute it. -/
theorem not_aStepRunsTheDecodedInstruction : ¬ Obligations.AStepRunsTheDecodedInstruction := by
  unfold Obligations.AStepRunsTheDecodedInstruction
  intro h
  have hstep := (h firstFetch [] (.sAdd 5#5 6#5 7#5)).1 256 0x00A63800 firstTurn firstTurn firstTurn_turnOf firstTurn_fetched
    (by decide +kernel) firstTurn_decodes (fun d n e => by rcases e with e | e <;> cases e)
  have hpc := step_firstFetch_traps
  rw [hstep, firstTurn_executes] at hpc
  exact absurd hpc (by decide)

end Sys2Proof

namespace Sys2Proof.Claim

open Sys2Proof Sys2Proof.Machine

/-! Identifiers and counters: TIDSET, TIDGET and TLREAD (R70, R82, R173, R174). -/

/-- A load that neither acquires nor releases leaves horizons and the race directory alone (R103, R104). -/
theorem ordered_load (s : State) (i : Issuer) (pa n : Nat) (watch : Bool) : s.ordered i pa n watch {} false = s := by
  unfold State.ordered
  simp

/-- A plain load of the executing record that reaches its place gives the bytes there (R92, R150). -/
theorem recAccess_load {s s1 s2 : State} {va n : Nat} {tr : Tr} {b : List Byte} (h : Reaches s va n {} s1 tr)
    (hr : s1.physRead tr.slot tr.pa n = (s2, .ok b)) : s.recAccess s.cur s.meIss va n {} (fun _ => none) = (s2, .ok (leNat b)) := by
  obtain ⟨-, s0, hfar, htr, hrace⟩ := h
  have haccess : s0.access s.cur s.meIss va n {} (fun _ => none) = (s2, .ok (leNat b)) := by
    have htr' : s0.translate s.cur s.meIss.die s.meIss.ctx va false false s.meIss.priv = (s1, .ok tr) := htr
    have hnone : (if tr.watch && s.meIss.raises then s1.race s.meIss tr.pa n {} else none) = none := by
      split
      next h => exact hrace (Bool.and_eq_true_iff.mp h).1
      next => rfl
    unfold State.access
    rw [htr']
    dsimp only
    rw [hnone]
    dsimp only
    rw [hr, if_neg (by decide)]
    dsimp only
    rw [ordered_load]
  unfold State.recAccess
  rcases hfar with ⟨hnear, rfl⟩ | ⟨hrem, hresp⟩
  · rw [hnear]
    exact haccess
  · rw [hrem, hresp]
    exact haccess

/-- What an instruction reads from an aligned place is what stands there (R150). -/
theorem seqRead_of_reads {s s2 : State} {va n v : Nat} (h : Reads s va n s2 v) : s.seqRead va n n = (s2, .ok v) := by
  obtain ⟨s1, tr, b, hreach, hr, rfl⟩ := h
  unfold State.seqRead
  rw [if_neg (by rw [hreach.1]; decide), recAccess_load hreach hr]

/-- An identifier after one is set: every context has 256 of its own (R173). -/
theorem tid_put (s : State) (m : Map (BitVec 512)) (ctx c i j : Nat) (x : BitVec 512) (hm : m = s.tids) (hi : i < 256) (hj : j < 256) :
    ({ s with tids := m.put (256 * ctx + i) x } : State).tid c j = if c = ctx ∧ j = i then x else s.tid c j := by
  have hkey : 256 * c + j = 256 * ctx + i ↔ c = ctx ∧ j = i := by omega
  unfold State.tid
  rw [hm, Map.get_put]
  simp only [hkey]

theorem execSTidset_of_reads {s s1 : State} {a : BitVec 5} {i : BitVec 8} {v : Nat} (h : Reads s (s.g a).toNat 64 s1 v) :
    exec (.sTidset a i) s =
      if tidOk v then .next ({ s1 with tids := s1.tids.put (256 * s1.me.ctx + i.toNat) (BitVec.ofNat 512 v) } : State).adv
      else s.trapC (.sTidset a i) Cause.illegal := by
  show execSTidset a i s = _
  unfold execSTidset
  dsimp only
  rw [seqRead_of_reads h]

end Sys2Proof.Claim

namespace Sys2Proof

open Machine Claim

/-- Settles O20: TIDSET's read and TIDGET's store are accesses that reach their place; each context's identifiers have keys of their own;
TLREAD reads the counter, or traps with the handle as INFO. -/
theorem identifiersAndTimelinesAreRead : Obligations.IdentifiersAndTimelinesAreRead := by
  unfold Obligations.IdentifiersAndTimelinesAreRead
  intro s s1 s2 d a i v tr
  refine ⟨fun h => ⟨fun hok => ?set, fun hbad => ?refused⟩, fun hreach hw => ?get, fun hgranted => ?read, fun hrefused => ?trap⟩
  case set =>
    rw [execSTidset_of_reads h, if_pos hok]
    exact ⟨_, rfl, rfl, fun c j hj => tid_put s1 s1.tids s1.me.ctx c i.toNat j _ rfl i.isLt hj⟩
  case refused =>
    show exec (.sTidset a i) s = _
    rw [execSTidset_of_reads h, hbad]
    rfl
  case get =>
    obtain ⟨r, hr⟩ := recAccess_store hreach hw
    refine ⟨_, ?_, rfl, fun ⟨hwf, hflips⟩ => (stores_of_physWrite hw hwf (by rwa [length_leBytes])).of_same
      (u := ({ s2 with races := r } : State).adv) rfl rfl rfl⟩
    show execSTidget a i s = _
    unfold execSTidget State.seqAccess
    dsimp only
    rw [if_neg (by rw [hreach.1]; decide), hr]
  case read =>
    refine ⟨_, ?_, writesG_setG_adv s d _⟩
    show execSTlread d a s = _
    unfold execSTlread
    dsimp only
    rw [hgranted]
    rfl
  case trap =>
    show execSTlread d a s = _
    unfold execSTlread State.handleCause
    dsimp only
    rw [hrefused]
    rfl

end Sys2Proof

namespace Sys2Proof.Claim

open Sys2Proof Sys2Proof.Machine

/-! Floating-point patterns on the line (R49, R50): a magnitude's pattern counts the values below it, and its value rises with it. -/

/-- Exponent of the unit of the subnormals. -/
def minExp (t : Num.Fmt) : ℤ := 1 - t.bias - t.f

/-- The magnitude that the exponent field and the fraction, taken as one number, stand for (Table 3.2). -/
def mag (t : Num.Fmt) (m : ℕ) : ℚ :=
  if m / 2 ^ t.f = 0 then m * 2 ^ minExp t else (2 ^ t.f + m % 2 ^ t.f : ℕ) * 2 ^ (minExp t + (m / 2 ^ t.f - 1 : ℕ))

/-- A significand k and an exponent j above the least one, as a pattern; a carry out of the significand gives the next exponent. -/
theorem mag_pattern (t : Num.Fmt) {j k : ℕ} (hk : k ≤ 2 ^ (t.f + 1)) (hj : j = 0 ∨ 2 ^ t.f ≤ k) :
    mag t (j * 2 ^ t.f + k) = k * 2 ^ (minExp t + j) := by
  have hF : 0 < 2 ^ t.f := by positivity
  have hdiv : (j * 2 ^ t.f + k) / 2 ^ t.f = j + k / 2 ^ t.f := by rw [Nat.add_comm, Nat.add_mul_div_right _ _ hF, Nat.add_comm]
  have hmod : (j * 2 ^ t.f + k) % 2 ^ t.f = k % 2 ^ t.f := by rw [Nat.add_comm, Nat.add_mul_mod_self_right]
  have hpow : 2 ^ (t.f + 1) = 2 ^ t.f + 2 ^ t.f := by ring
  unfold mag
  rw [hdiv, hmod]
  rcases lt_or_ge k (2 ^ t.f) with hlt | hge
  · obtain rfl : j = 0 := hj.resolve_right (by omega)
    rw [Nat.div_eq_of_lt hlt]
    simp
  rcases lt_or_ge k (2 ^ t.f + 2 ^ t.f) with hlt | hge'
  · have hq : k / 2 ^ t.f = 1 := by rw [Nat.div_eq_of_lt_le] <;> omega
    have hr : 2 ^ t.f + k % 2 ^ t.f = k := by rw [Nat.mod_eq_sub_mod hge, Nat.mod_eq_of_lt (by omega)]; omega
    rw [hq, if_neg (by omega), hr, Nat.add_sub_cancel]
  · obtain rfl : k = 2 * 2 ^ t.f := by omega
    rw [Nat.mul_div_cancel _ hF, Nat.mul_mod_left, if_neg (by omega), show j + 2 - 1 = j + 1 by omega]
    push_cast
    rw [show minExp t + ((j : ℤ) + 1) = minExp t + j + 1 by ring, zpow_add_one₀ (by norm_num : (2 : ℚ) ≠ 0)]
    ring

/-- Every pattern is of that form. -/
theorem exists_pattern (t : Num.Fmt) (m : ℕ) : ∃ j k, m = j * 2 ^ t.f + k ∧ k < 2 ^ (t.f + 1) ∧ (j = 0 ∨ 2 ^ t.f ≤ k) := by
  have hF : 0 < 2 ^ t.f := by positivity
  have hm := Nat.div_add_mod m (2 ^ t.f)
  have hr := Nat.mod_lt m hF
  have hpow : 2 ^ (t.f + 1) = 2 ^ t.f + 2 ^ t.f := by ring
  cases hq : m / 2 ^ t.f with
  | zero => exact ⟨0, m, by omega, by rw [hq] at hm; omega, .inl rfl⟩
  | succ j =>
    refine ⟨j, 2 ^ t.f + m % 2 ^ t.f, ?_, by omega, .inr (by omega)⟩
    rw [hq] at hm
    linarith [show 2 ^ t.f * (j + 1) = j * 2 ^ t.f + 2 ^ t.f by ring]

theorem mag_strictMono (t : Num.Fmt) : StrictMono (mag t) := by
  refine strictMono_nat_of_lt_succ fun m => ?_
  obtain ⟨j, k, rfl, hk, hj⟩ := exists_pattern t m
  rw [Nat.add_assoc, mag_pattern t hk.le hj, mag_pattern t hk (hj.imp_right Nat.le_succ_of_le)]
  have : (0 : ℚ) < 2 ^ (minExp t + j) := by positivity
  push_cast
  nlinarith

theorem mag_zero (t : Num.Fmt) : mag t 0 = 0 := by simp [mag]

theorem mag_nonneg (t : Num.Fmt) (m : ℕ) : 0 ≤ mag t m := by
  rw [← mag_zero t]
  exact (mag_strictMono t).monotone (Nat.zero_le m)

/-- The sign of a value. -/
def signOf (neg : Bool) : ℚ := if neg then -1 else 1

theorem q_fin (neg : Bool) (n d : ℕ) : q (.fin neg n d) = signOf neg * (n / d) := by
  unfold q signOf
  ring

theorem abs_signOf_mul (neg : Bool) (x : ℚ) : |signOf neg * x| = |x| := by cases neg <;> simp [signOf]

theorem signOf_mul_self (neg : Bool) : signOf neg * signOf neg = 1 := by cases neg <;> norm_num [signOf]

theorem signOf_ne_zero (neg : Bool) : signOf neg ≠ 0 := by cases neg <;> norm_num [signOf]

/-- A value scaled by a power of two. -/
theorem q_scaled (neg : Bool) (m a b : ℕ) : q (.scaled neg m a b) = signOf neg * (m * 2 ^ ((a : ℤ) - b)) := by
  unfold Num.Val.scaled
  rw [q_fin]
  push_cast
  congr 1
  rcases le_total a b with h | h
  · rw [Nat.sub_eq_zero_of_le h, pow_zero, mul_one, show (a : ℤ) - b = -((b - a : ℕ) : ℤ) by omega, zpow_neg, zpow_natCast, div_eq_mul_inv]
  · rw [Nat.sub_eq_zero_of_le h, pow_zero, div_one, show (a : ℤ) - b = ((a - b : ℕ) : ℤ) by omega, zpow_natCast]

/-- What a pattern stands for: NaN, an infinity, or a significand scaled by a power of two. -/
theorem decode_cases (t : Num.Fmt) (x : ℕ) : (∃ sn, Num.decode t x = .nan sn) ∨ (∃ neg, Num.decode t x = .inf neg) ∨
    ∃ m a b, Num.decode t x = .scaled (bit x (t.e + t.f)) m a b := by
  unfold Num.decode
  dsimp only
  split
  · split
    · exact .inr (.inl ⟨_, rfl⟩)
    · exact .inl ⟨_, rfl⟩
  split
  · exact .inl ⟨_, rfl⟩
  split
  · exact .inr (.inr ⟨_, _, _, rfl⟩)
  · exact .inr (.inr ⟨_, _, _, rfl⟩)

/-- Denominators of patterns' values are powers of two. -/
theorem decode_den {t : Num.Fmt} {x n d : ℕ} {neg : Bool} (h : Num.decode t x = .fin neg n d) : ∃ j, d = 2 ^ j := by
  obtain ⟨sn, h'⟩ | ⟨s, h'⟩ | ⟨m, a, b, h'⟩ := decode_cases t x
  · cases h.symm.trans h'
  · cases h.symm.trans h'
  · exact ⟨b - a, (Num.Val.fin.inj (h.symm.trans h')).2.2⟩

theorem decode_den_pos {t : Num.Fmt} {x n d : ℕ} {neg : Bool} (h : Num.decode t x = .fin neg n d) : 0 < d := by
  obtain ⟨j, rfl⟩ := decode_den h
  positivity

/-- A type with infinities whose exponents lie about a middle: f16, bf16, f32, f64 and e5m2 (Table 3.2). -/
structure Ieee (t : Num.Fmt) : Prop where
  inf : t.inf = true
  frac : 1 ≤ t.f
  bias : 2 * t.bias + 2 = 2 ^ t.e
  pos : 1 ≤ t.bias

theorem ieee_fmtOf {k : ℕ} (h8 : 8 ≤ k) (h11 : k ≤ 11) : Ieee (Num.fmtOf k) := by
  interval_cases k <;> exact ⟨rfl, by decide, by decide, by decide⟩

section

variable {t : Num.Fmt} (ht : Ieee t)
include ht

theorem Ieee.maxFinite_eq : Num.maxFinite t + 1 = (2 ^ t.e - 1) * 2 ^ t.f := by
  have hb := ht.bias
  have h : 0 < (2 ^ t.e - 1) * 2 ^ t.f := Nat.mul_pos (by omega) (by positivity)
  unfold Num.maxFinite
  rw [if_pos ht.inf]
  omega

theorem Ieee.maxFinite_lt : Num.maxFinite t < 2 ^ (t.e + t.f) := by
  have h : (2 ^ t.e - 1) * 2 ^ t.f ≤ 2 ^ t.e * 2 ^ t.f := Nat.mul_le_mul_right _ (Nat.sub_le _ _)
  have := ht.maxFinite_eq
  rw [pow_add]
  omega

/-- The value of a pattern below that of infinity. -/
theorem Ieee.decode_finite {x : ℕ} (h : x % 2 ^ (t.e + t.f) ≤ Num.maxFinite t) : ∃ n d, Num.decode t x = .fin (bit x (t.e + t.f)) n d ∧
    qOf t x = signOf (bit x (t.e + t.f)) * mag t (x % 2 ^ (t.e + t.f)) := by
  have hF : 0 < 2 ^ t.f := by positivity
  have hex : x / 2 ^ t.f % 2 ^ t.e = x % 2 ^ (t.e + t.f) / 2 ^ t.f := by
    rw [Nat.add_comm t.e, pow_add, Nat.mod_mul_right_div_self]
  have hfr : x % 2 ^ t.f = x % 2 ^ (t.e + t.f) % 2 ^ t.f := (Nat.mod_mod_of_dvd _ (pow_dvd_pow 2 (Nat.le_add_left _ _))).symm
  have hlt : x % 2 ^ (t.e + t.f) / 2 ^ t.f ≠ 2 ^ t.e - 1 := by
    have := ht.maxFinite_eq
    exact (Nat.div_lt_of_lt_mul (by rw [Nat.mul_comm]; omega)).ne
  unfold qOf mag
  generalize x % 2 ^ (t.e + t.f) = m at *
  unfold Num.decode
  rw [hex, hfr]
  dsimp only
  rw [if_neg (fun h => hlt h.2), if_neg (by simp [ht.inf])]
  by_cases hz : m / 2 ^ t.f = 0
  · have hm : m % 2 ^ t.f = m := Nat.mod_eq_of_lt ((Nat.div_eq_zero_iff_lt hF).mp hz)
    rw [if_pos hz, if_pos hz, q_scaled, hm]
    exact ⟨_, _, rfl, by unfold minExp; push_cast; ring_nf⟩
  · rw [if_neg hz, if_neg hz, q_scaled]
    have hexp : ((m / 2 ^ t.f : ℕ) : ℤ) - (t.bias + t.f : ℕ) = minExp t + (m / 2 ^ t.f - 1 : ℕ) := by
      unfold minExp
      push_cast [Nat.one_le_iff_ne_zero.mpr hz]
      ring
    rw [hexp]
    exact ⟨_, _, rfl, rfl⟩

/-- A magnitude below infinity, with a sign. -/
theorem Ieee.withSign_spec {m : ℕ} (neg : Bool) (hm : m ≤ Num.maxFinite t) : Finite t (Num.withSign t neg m) ∧
    qOf t (Num.withSign t neg m) = signOf neg * mag t m ∧ (Num.withSign t neg m).testBit (t.e + t.f) = neg := by
  have hlt : m < 2 ^ (t.e + t.f) := hm.trans_lt ht.maxFinite_lt
  have hmod : Num.withSign t neg m % 2 ^ (t.e + t.f) = m := by
    unfold Num.withSign
    cases neg
    · exact Nat.mod_eq_of_lt hlt
    · rw [if_pos rfl, Nat.add_mod_right, Nat.mod_eq_of_lt hlt]
  have hbit : (Num.withSign t neg m).testBit (t.e + t.f) = neg := by
    unfold Num.withSign
    cases neg
    · exact Nat.testBit_lt_two_pow hlt
    · rw [if_pos rfl, Nat.add_comm, Nat.testBit_two_pow_add_eq, Nat.testBit_lt_two_pow hlt]
      rfl
  obtain ⟨n, d, hdec, hq⟩ := ht.decode_finite (x := Num.withSign t neg m) (by rw [hmod]; exact hm)
  rw [hmod, bit_eq_testBit, hbit] at hq
  refine ⟨⟨?_, _, n, d, hdec⟩, hq, hbit⟩
  have hwidth : 2 ^ t.width = 2 ^ (t.e + t.f) + 2 ^ (t.e + t.f) := by unfold Num.Fmt.width; ring
  unfold Num.withSign
  split <;> omega

/-- Every finite pattern is a magnitude with a sign. -/
theorem Ieee.exists_of_finite {x : ℕ} (h : Finite t x) : ∃ neg m, m ≤ Num.maxFinite t ∧ x = Num.withSign t neg m := by
  obtain ⟨hlt, neg, n, d, hdec⟩ := h
  have hwidth : 2 ^ t.width = 2 ^ (t.e + t.f) + 2 ^ (t.e + t.f) := by unfold Num.Fmt.width; ring
  have hm : x % 2 ^ (t.e + t.f) ≤ Num.maxFinite t := by
    have hF : 0 < 2 ^ t.f := by positivity
    have hex : x / 2 ^ t.f % 2 ^ t.e = x % 2 ^ (t.e + t.f) / 2 ^ t.f := by rw [Nat.add_comm t.e, pow_add, Nat.mod_mul_right_div_self]
    have hne : x / 2 ^ t.f % 2 ^ t.e ≠ 2 ^ t.e - 1 := by
      intro he
      unfold Num.decode at hdec
      dsimp only at hdec
      rw [if_pos ⟨ht.inf, he⟩] at hdec
      split at hdec <;> cases hdec
    have hle : x / 2 ^ t.f % 2 ^ t.e < 2 ^ t.e - 1 := by
      have := Nat.mod_lt (x / 2 ^ t.f) (show 0 < 2 ^ t.e by positivity)
      omega
    rw [hex, Nat.div_lt_iff_lt_mul hF] at hle
    have := ht.maxFinite_eq
    omega
  refine ⟨decide (2 ^ (t.e + t.f) ≤ x), _, hm, ?_⟩
  unfold Num.withSign
  rcases lt_or_ge x (2 ^ (t.e + t.f)) with hx | hx
  · rw [Nat.mod_eq_of_lt hx, if_neg (by simpa using hx), Nat.add_zero]
  · rw [if_pos (by simpa using hx), Nat.mod_eq_sub_mod hx, Nat.mod_eq_of_lt (by omega), Nat.sub_add_cancel hx]

end

end Sys2Proof.Claim

namespace Sys2Proof.Claim

open Sys2Proof Sys2Proof.Machine

/-! One rounding of a magnitude (R51, R57): the two neighbouring values of the type, and the choice between them. -/

/-- A fraction in units of 2^q, as `Num.floorLog` and `Num.quot` have it. -/
theorem units_eq (n d : ℕ) (q : ℤ) :
    ((if 0 ≤ q then n else n * 2 ^ (-q).toNat : ℕ) : ℚ) / (if 0 ≤ q then d * 2 ^ q.toNat else d : ℕ) = (n / d : ℚ) / 2 ^ q := by
  split
  next h =>
    obtain ⟨k, rfl⟩ := Int.eq_ofNat_of_zero_le h
    push_cast
    rw [Int.toNat_natCast, zpow_natCast]
    field_simp
  next h =>
    obtain ⟨k, hk⟩ := Int.eq_ofNat_of_zero_le (show 0 ≤ -q by omega)
    obtain rfl : q = -(k : ℤ) := by omega
    push_cast
    rw [neg_neg, Int.toNat_natCast, zpow_neg, zpow_natCast]
    field_simp

theorem units_den_pos {d : ℕ} (hd : 0 < d) (q : ℤ) : 0 < (if 0 ≤ q then d * 2 ^ q.toNat else d) := by
  split
  · positivity
  · exact hd

/-- A number between the powers of two that its logarithm names. -/
theorem log2_bounds {n : ℕ} (hn : 0 < n) : (2 : ℚ) ^ (Nat.log2 n : ℤ) ≤ n ∧ (n : ℚ) < 2 ^ ((Nat.log2 n : ℤ) + 1) := by
  rw [zpow_natCast, ← Nat.cast_succ, zpow_natCast]
  exact ⟨by exact_mod_cast Nat.log2_self_le hn.ne', by exact_mod_cast Nat.lt_log2_self⟩

/-- ⌊log2 (n/d)⌋ (R51). -/
theorem floorLog_spec {n d : ℕ} (hn : 0 < n) (hd : 0 < d) :
    (2 : ℚ) ^ Num.floorLog n d ≤ n / d ∧ (n / d : ℚ) < 2 ^ (Num.floorLog n d + 1) := by
  obtain ⟨hnl, hnu⟩ := log2_bounds hn
  obtain ⟨hdl, hdu⟩ := log2_bounds hd
  have hd' : (0 : ℚ) < d := by exact_mod_cast hd
  unfold Num.floorLog
  generalize hE : (Nat.log2 n : ℤ) - (Nat.log2 d : ℤ) = E
  have hlow : (2 : ℚ) ^ (E - 1) ≤ n / d := by
    rw [le_div_iff₀ hd', ← hE]
    calc (2 : ℚ) ^ ((n.log2 : ℤ) - d.log2 - 1) * d ≤ 2 ^ ((n.log2 : ℤ) - d.log2 - 1) * 2 ^ ((d.log2 : ℤ) + 1) := by gcongr
      _ = 2 ^ (n.log2 : ℤ) := by rw [← zpow_add₀ two_ne_zero]; congr 1; ring
      _ ≤ n := hnl
  have hhigh : (n / d : ℚ) < 2 ^ (E + 1) := by
    rw [div_lt_iff₀ hd', ← hE]
    calc (n : ℚ) < 2 ^ ((n.log2 : ℤ) + 1) := hnu
      _ = 2 ^ ((n.log2 : ℤ) - d.log2 + 1) * 2 ^ (d.log2 : ℤ) := by rw [← zpow_add₀ two_ne_zero]; congr 1; ring
      _ ≤ _ := by gcongr
  have hbelow : (if 0 ≤ E then n < d * 2 ^ E.toNat else n * 2 ^ (-E).toNat < d) ↔ (n / d : ℚ) < 2 ^ E := by
    have hpos : (0 : ℚ) < 2 ^ E := by positivity
    have hden : (0 : ℚ) < (if 0 ≤ E then d * 2 ^ E.toNat else d : ℕ) := by exact_mod_cast units_den_pos hd E
    rw [← div_lt_one hpos, ← units_eq, div_lt_one hden, Nat.cast_lt]
    split <;> rfl
  dsimp only
  by_cases h : (n / d : ℚ) < 2 ^ E
  · rw [if_pos (by simpa [hbelow] using h)]
    exact ⟨hlow, by simpa using h⟩
  · rw [if_neg (by simpa [hbelow] using h)]
    exact ⟨not_lt.mp h, hhigh⟩

/-- The exponent of a value is the only one that bounds it so. -/
theorem exponent_unique {V : ℚ} {a b : ℤ} (ha : (2 : ℚ) ^ a ≤ V) (ha' : V < 2 ^ (a + 1)) (hb : (2 : ℚ) ^ b ≤ V) (hb' : V < 2 ^ (b + 1)) : a = b := by
  have h1 := (zpow_lt_zpow_iff_right₀ (by norm_num : (1 : ℚ) < 2)).mp (ha.trans_lt hb')
  have h2 := (zpow_lt_zpow_iff_right₀ (by norm_num : (1 : ℚ) < 2)).mp (hb.trans_lt ha')
  omega

/-- A fraction as a quotient and a remainder in units of 2^q. -/
theorem quot_spec {n d k rem den : ℕ} {q : ℤ} (hd : 0 < d) (hquot : Num.quot n d q = (k, rem, den)) :
    0 < den ∧ rem < den ∧ (n / d : ℚ) = (k + rem / den) * 2 ^ q := by
  have hden := units_den_pos hd q
  have hq : (2 : ℚ) ^ q ≠ 0 := by positivity
  have h := units_eq n d q
  unfold Num.quot at hquot
  dsimp only at hquot
  generalize (if 0 ≤ q then n else n * 2 ^ (-q).toNat) = N at *
  generalize (if 0 ≤ q then d * 2 ^ q.toNat else d) = D at *
  obtain ⟨rfl, rfl, rfl⟩ : N / D = k ∧ N % D = rem ∧ D = den := by simpa only [Prod.mk.injEq] using hquot
  refine ⟨hden, Nat.mod_lt _ hden, ?_⟩
  have hD : (D : ℚ) ≠ 0 := by exact_mod_cast hden.ne'
  have hN : (N : ℚ) = D * (N / D : ℕ) + (N % D : ℕ) := by exact_mod_cast (Nat.div_add_mod N D).symm
  rw [eq_div_iff hq] at h
  rw [← h, hN]
  field_simp

/-- The pattern m is the last of the type whose magnitude is not above V: V lies `rem/den` of the way to the next one. -/
structure Bracket (t : Num.Fmt) (V : ℚ) (m k rem den : ℕ) : Prop where
  den_pos : 0 < den
  rem_lt : rem < den
  parity : m % 2 = k % 2
  value : V = mag t m + rem / den * (mag t (m + 1) - mag t m)

theorem gap_pos (t : Num.Fmt) (m : ℕ) : 0 < mag t (m + 1) - mag t m := sub_pos.mpr (mag_strictMono t m.lt_succ_self)

section

variable {t : Num.Fmt} {V : ℚ} {m k rem den : ℕ} (h : Bracket t V m k rem den)
include h

theorem Bracket.le : mag t m ≤ V := by
  have := (gap_pos t m)
  have : (0 : ℚ) ≤ rem / den * (mag t (m + 1) - mag t m) := by positivity
  linarith [h.value]

theorem Bracket.lt : V < mag t (m + 1) := by
  have hd : (0 : ℚ) < den := by exact_mod_cast h.den_pos
  have hr : (rem / den : ℚ) < 1 := (div_lt_one hd).mpr (by exact_mod_cast h.rem_lt)
  have := mul_lt_mul_of_pos_right hr (gap_pos t m)
  linarith [h.value]

theorem Bracket.eq_iff : V = mag t m ↔ rem = 0 := by
  have hd : (den : ℚ) ≠ 0 := by exact_mod_cast h.den_pos.ne'
  rw [h.value, add_eq_left, mul_eq_zero, div_eq_zero_iff, Nat.cast_eq_zero, or_iff_left hd, or_iff_left (gap_pos t m).ne']

/-- The part of the gap that lies below the value. -/
theorem Bracket.fraction : (V - mag t m) / (mag t (m + 1) - mag t m) = rem / den := by
  rw [h.value, add_sub_cancel_left, mul_div_cancel_right₀ _ (gap_pos t m).ne']

end

/-- A magnitude in units of the type's spacing at its size, or of the subnormals' spacing, lies between two neighbouring values of the
type. -/
theorem bracket_of_quot {t : Num.Fmt} (hf : 1 ≤ t.f) {n d k rem den : ℕ} (hd : 0 < d) {e : ℤ} (helow : (2 : ℚ) ^ e ≤ n / d)
    (hehigh : (n / d : ℚ) < 2 ^ (e + 1)) (hquot : Num.quot n d (max (e - t.f) (minExp t)) = (k, rem, den)) :
    Bracket t (n / d) ((max (e - t.f) (minExp t) - minExp t).toNat * 2 ^ t.f + k) k rem den := by
  obtain ⟨hden, hrem, hval⟩ := quot_spec hd hquot
  generalize hq : max (e - (t.f : ℤ)) (minExp t) = q at *
  obtain ⟨j, hj⟩ := Int.eq_ofNat_of_zero_le (show 0 ≤ q - minExp t by omega)
  obtain rfl : q = minExp t + j := by omega
  rw [hj, Int.toNat_natCast]
  have hqpos : (0 : ℚ) < 2 ^ (minExp t + (j : ℤ)) := by positivity
  have hden' : (0 : ℚ) < den := by exact_mod_cast hden
  have hfrac : (rem / den : ℚ) < 1 := (div_lt_one hden').mpr (by exact_mod_cast hrem)
  have hfrac0 : (0 : ℚ) ≤ rem / den := by positivity
  have hkhigh : k < 2 ^ (t.f + 1) := by
    have : (k : ℚ) * 2 ^ (minExp t + (j : ℤ)) < 2 ^ (t.f + 1) * 2 ^ (minExp t + (j : ℤ)) := calc
      (k : ℚ) * 2 ^ (minExp t + (j : ℤ)) ≤ n / d := by rw [hval]; gcongr; linarith
      _ < 2 ^ (e + 1) := hehigh
      _ ≤ 2 ^ ((t.f + 1 : ℕ) + (minExp t + (j : ℤ))) := zpow_le_zpow_right₀ (by norm_num) (by push_cast; omega)
      _ = _ := by rw [zpow_add₀ two_ne_zero, zpow_natCast]
    exact_mod_cast lt_of_mul_lt_mul_right this hqpos.le
  have hklow : j = 0 ∨ 2 ^ t.f ≤ k := by
    rcases Nat.eq_zero_or_pos j with hj0 | hj0
    · exact .inl hj0
    refine .inr (Nat.lt_succ_iff.mp ?_)
    have : (2 : ℚ) ^ t.f * 2 ^ (minExp t + (j : ℤ)) < (k + 1 : ℕ) * 2 ^ (minExp t + (j : ℤ)) := calc
      (2 : ℚ) ^ t.f * 2 ^ (minExp t + (j : ℤ)) = 2 ^ ((t.f : ℤ) + (minExp t + j)) := by rw [zpow_add₀ two_ne_zero (t.f : ℤ), zpow_natCast]
      _ = 2 ^ e := by congr 1; omega
      _ ≤ n / d := helow
      _ < _ := by rw [hval]; push_cast; gcongr
    exact_mod_cast lt_of_mul_lt_mul_right this hqpos.le
  have hlo := mag_pattern t hkhigh.le hklow
  have hhi : mag t (j * 2 ^ t.f + k + 1) = (k + 1 : ℕ) * 2 ^ (minExp t + j) := by
    rw [Nat.add_assoc, mag_pattern t hkhigh (hklow.imp_right Nat.le_succ_of_le)]
  refine ⟨hden, hrem, ?_, ?_⟩
  · obtain ⟨f, hf'⟩ := Nat.exists_eq_add_of_le hf
    rw [hf', Nat.pow_add, pow_one, Nat.mul_left_comm, Nat.mul_add_mod]
  · rw [hhi, hlo, hval]
    push_cast
    ring

/-- The flags of a rounding that does not overflow (R60). -/
theorem roundFlags (rem : ℕ) (tiny : Bool) : let fl := (if rem ≠ 0 ∨ (!true) = true then Num.NX else 0) |||
      (if (rem ≠ 0 ∨ (!true) = true) ∧ tiny = true then Num.UF else 0)
    (rem = 0 → fl = 0) ∧ (rem ≠ 0 → fl = if tiny then 24 else 16) := by
  refine ⟨fun h => by simp [h], fun h => ?_⟩
  cases tiny <;> simp [h, Num.NX, Num.UF]

/-- One rounding of an exact magnitude: its neighbour below or, where the mode says so, the one above; past the largest finite value it
overflows. NX tells an inexact result, and UF is not raised from the least normal value on. -/
theorem roundMag_spec {t : Num.Fmt} (hf : 1 ≤ t.f) (sat : ℕ) (r : Num.Rnd) (neg : Bool) {n d : ℕ} (hn : 0 < n) (hd : 0 < d) :
    ∃ (m k rem den fl : ℕ) (tiny : Bool), Bracket t (n / d) m k rem den ∧
      (let m' := if rem ≠ 0 ∧ Num.roundsUp r.mode r.s neg k rem den = true then m + 1 else m
       Num.roundMag t sat r neg n d true = if Num.maxFinite t < m' then (Num.overflow t sat r.mode neg, r.raise 20)
        else (Num.withSign t neg m', r.raise fl)) ∧
      (rem = 0 → fl = 0) ∧ (rem ≠ 0 → fl = if tiny then 24 else 16) ∧ ((2 : ℚ) ^ (1 - (t.bias : ℤ)) ≤ n / d → tiny = false) := by
  obtain ⟨helow, hehigh⟩ := floorLog_spec hn hd
  unfold Num.roundMag
  generalize Num.floorLog n d = e at helow hehigh
  have hminExp : (1 : ℤ) - t.bias - t.f = minExp t := rfl
  dsimp only
  rw [hminExp]
  obtain ⟨⟨k, rem, den⟩, hquot⟩ : ∃ x, Num.quot n d (max (e - (t.f : ℤ)) (minExp t)) = x := ⟨_, rfl⟩
  have hbracket := bracket_of_quot hf hd helow hehigh hquot
  rw [hquot]
  generalize (max (e - (t.f : ℤ)) (minExp t) - minExp t).toNat * 2 ^ t.f = c at hbracket ⊢
  generalize Num.quot n d (e - (t.f : ℤ)) = u
  obtain ⟨u, urem, uden⟩ := u
  dsimp only
  obtain ⟨tiny, htiny⟩ : ∃ tiny, (if e < 1 - (t.bias : ℤ) then decide (e + 1 < 1 - (t.bias : ℤ)) ||
    decide ((if urem ≠ 0 ∧ Num.roundsUp r.mode r.s neg u urem uden = true then u + 1 else u) < 2 ^ (t.f + 1)) else false) = tiny := ⟨_, rfl⟩
  obtain ⟨hexact, hinexact⟩ := roundFlags rem tiny
  have hcarry : c + (if rem ≠ 0 ∧ Num.roundsUp r.mode r.s neg k rem den = true then k + 1 else k) =
      if rem ≠ 0 ∧ Num.roundsUp r.mode r.s neg k rem den = true then c + k + 1 else c + k := by
    split <;> rfl
  refine ⟨c + k, k, rem, den, _, tiny, hbracket, ?_, hexact, hinexact, fun hnormal => ?_⟩
  · rw [hcarry, htiny]
    rfl
  · have he : ¬e < 1 - (t.bias : ℤ) := by
      have := (zpow_lt_zpow_iff_right₀ (by norm_num : (1 : ℚ) < 2)).mp (hnormal.trans_lt hehigh)
      omega
    rw [← htiny, if_neg he]

end Sys2Proof.Claim

namespace Sys2Proof.Claim

open Sys2Proof Sys2Proof.Machine

/-! Each mode takes the neighbour that Table 3.4 names. -/

/-- A magnitude with the sign of a value is that value's own side of zero. -/
theorem same_sign {s neg : Bool} {a V : ℚ} (ha : 0 ≤ a) (hV : 0 < V) (h : 0 ≤ signOf s * a * (signOf neg * V)) : signOf s * a = signOf neg * a := by
  have : 0 ≤ a * V := by positivity
  cases s <;> cases neg <;> unfold signOf at h ⊢ <;> simp only [if_true, if_false, Bool.false_eq_true] at h ⊢ <;> nlinarith

/-- A value's neighbour, as a mode chooses it. -/
def chosen (mode : ℕ) (S : BitVec 32) (neg : Bool) (m k rem den : ℕ) : ℕ :=
  if rem ≠ 0 ∧ Num.roundsUp mode S neg k rem den = true then m + 1 else m

section

variable {t : Num.Fmt} {V : ℚ} {m k rem den : ℕ} (h : Bracket t V m k rem den)
include h

/-- No magnitude lies between the neighbours. -/
theorem Bracket.below {n : ℕ} (hn : mag t n ≤ V) : mag t n ≤ mag t m :=
  (mag_strictMono t).monotone (Nat.lt_succ_iff.mp ((mag_strictMono t).lt_iff_lt.mp (hn.trans_lt h.lt)))

theorem Bracket.above {n : ℕ} (hn : V ≤ mag t n) : mag t (if rem ≠ 0 then m + 1 else m) ≤ mag t n := by
  split
  next hrem => exact (mag_strictMono t).monotone ((mag_strictMono t).lt_iff_lt.mp ((lt_of_le_of_ne h.le fun e => hrem (h.eq_iff.mp e.symm)).trans_le hn))
  next hrem => exact h.le.trans hn

/-- Where the value stands between its neighbours. -/
theorem Bracket.half_iff : (V - mag t m < mag t (m + 1) - V ↔ 2 * rem < den) ∧ (V - mag t m = mag t (m + 1) - V ↔ 2 * rem = den) := by
  have hd : (0 : ℚ) < den := by exact_mod_cast h.den_pos
  have hgap := gap_pos t m
  have hlow : V - mag t m = rem / den * (mag t (m + 1) - mag t m) := by rw [h.value]; ring
  have hhigh : mag t (m + 1) - V = (den - rem) / den * (mag t (m + 1) - mag t m) := by rw [h.value]; field_simp; ring
  rw [hlow, hhigh, mul_lt_mul_iff_left₀ hgap, mul_left_inj' hgap.ne', div_lt_div_iff_of_pos_right hd, div_left_inj' hd.ne', lt_sub_iff_add_lt, eq_sub_iff_add_eq,
    ← two_mul]
  exact ⟨by exact_mod_cast Iff.rfl, by exact_mod_cast Iff.rfl⟩

/-- To nearest, the result is no further than either neighbour, and in the middle its pattern is even. -/
theorem Bracket.nearest (S : BitVec 32) (neg : Bool) : let D := |mag t (chosen 0 S neg m k rem den) - V|
    D ≤ V - mag t m ∧ D ≤ mag t (m + 1) - V ∧ (D = V - mag t m → D = mag t (m + 1) - V → chosen 0 S neg m k rem den % 2 = 0) ∧
    (chosen 0 S neg m k rem den = m ∨ chosen 0 S neg m k rem den = m + 1) := by
  obtain ⟨hless, hhalf⟩ := h.half_iff
  have hle := h.le
  have hlt := h.lt
  have hpar := h.parity
  unfold chosen
  by_cases hup : rem ≠ 0 ∧ Num.roundsUp 0 S neg k rem den = true
  · obtain ⟨hrem, hr⟩ := hup
    rw [if_pos ⟨hrem, hr⟩]
    have hr' : den < 2 * rem ∨ (den = 2 * rem ∧ k % 2 = 1) := by simpa [Num.roundsUp] using hr
    have hge : mag t (m + 1) - V ≤ V - mag t m := by rw [← not_lt, hless]; omega
    rw [abs_of_pos (sub_pos.mpr hlt)]
    refine ⟨hge, le_rfl, fun e _ => ?_, .inr rfl⟩
    have := hhalf.mp e.symm
    omega
  · rw [if_neg hup]
    have hr' : rem = 0 ∨ ¬(den < 2 * rem ∨ (den = 2 * rem ∧ k % 2 = 1)) := by
      rcases eq_or_ne rem 0 with h0 | h0
      · exact .inl h0
      · exact .inr fun hc => hup ⟨h0, by simpa [Num.roundsUp] using hc⟩
    have hpos := h.den_pos
    have hge : V - mag t m ≤ mag t (m + 1) - V := by
      rcases lt_or_ge (2 * rem) den with hl | hl
      · exact (hless.mpr hl).le
      · exact (hhalf.mpr (by omega)).le
    rw [abs_sub_comm, abs_of_nonneg (sub_nonneg.mpr hle)]
    refine ⟨le_rfl, hge, fun _ e => ?_, .inl rfl⟩
    have := hhalf.mp e
    omega

end

section

variable {t : Num.Fmt} (ht : Ieee t) {V : ℚ} (hV : 0 < V) {m k rem den : ℕ} (h : Bracket t V m k rem den) (S : BitVec 32) (neg : Bool)
include ht hV h

/-- To nearest, ties to even: no finite value is nearer, and a tie has an even pattern. -/
theorem roundedTo_nearest (hle : chosen 0 S neg m k rem den ≤ Num.maxFinite t) (y : ℕ) (hy : Finite t y) :
    let x := Num.withSign t neg (chosen 0 S neg m k rem den); let v := signOf neg * V
    |qOf t x - v| ≤ |qOf t y - v| ∧ (|qOf t x - v| = |qOf t y - v| → qOf t y ≠ qOf t x → x % 2 = 0) := by
  intro x v
  obtain ⟨hlow, hhigh, htie, hor⟩ := h.nearest S neg
  obtain ⟨-, hqx, -⟩ := ht.withSign_spec neg hle
  have hx : |qOf t x - v| = |mag t (chosen 0 S neg m k rem den) - V| := by rw [hqx, ← mul_sub, abs_signOf_mul]
  have hpar : x % 2 = chosen 0 S neg m k rem den % 2 := by
    obtain ⟨f, hf⟩ := Nat.exists_eq_add_of_le ht.frac
    have hpow : 2 ^ (t.e + t.f) = 2 * 2 ^ (t.e + f) := by rw [hf]; ring
    unfold x Num.withSign
    rw [hpow]
    split <;> omega
  obtain ⟨s, n, hn, rfl⟩ := ht.exists_of_finite hy
  obtain ⟨-, hqy, -⟩ := ht.withSign_spec s hn
  have hmn := mag_nonneg t n
  have hmm := mag_nonneg t m
  rw [hx, hpar, hqx, hqy]
  rcases eq_or_ne s neg with rfl | hs
  · -- on the same side of zero, y is a neighbour or lies beyond one
    have hy' : |signOf s * mag t n - v| = |mag t n - V| := by rw [← mul_sub, abs_signOf_mul]
    have hne : signOf s * mag t n ≠ signOf s * mag t (chosen 0 S s m k rem den) ↔ mag t n ≠ mag t (chosen 0 S s m k rem den) :=
      (mul_right_injective₀ (signOf_ne_zero s)).ne_iff
    rw [hy', hne]
    rcases le_or_gt n m with hnm | hnm
    · have hle := (mag_strictMono t).monotone hnm
      rw [abs_of_nonpos (a := mag t n - V) (by linarith [h.le])]
      refine ⟨by linarith, fun e hne => htie (by linarith) ?_⟩
      rcases hor with h' | h' <;> rw [h'] at e hne hlow hhigh ⊢
      · rw [abs_of_nonpos (by linarith [h.le])] at e
        exact absurd (by linarith) hne
      · rw [abs_of_nonneg (by linarith [h.lt])]
    · have hle := (mag_strictMono t).monotone hnm
      rw [abs_of_nonneg (a := mag t n - V) (by linarith [h.lt])]
      refine ⟨by linarith, fun e hne => htie ?_ (by linarith)⟩
      rcases hor with h' | h' <;> rw [h'] at e hne hlow hhigh ⊢
      · rw [abs_of_nonpos (by linarith [h.le])]; ring
      · rw [abs_of_nonneg (by linarith [h.lt])] at e
        exact absurd (by linarith) hne
  · -- on the other side of zero, y is further than zero is
    have hy' : |signOf s * mag t n - v| = mag t n + V := by
      have hopp : signOf s = -signOf neg := by cases s <;> cases neg <;> simp_all [signOf]
      rw [show signOf s * mag t n - v = -(signOf neg * (mag t n + V)) by rw [hopp]; ring, abs_neg, abs_signOf_mul, abs_of_nonneg (by positivity)]
    rw [hy']
    refine ⟨by linarith, fun e hne => ?_⟩
    have hn0 : mag t n = 0 := by linarith
    have hm0 : mag t m = 0 := by linarith
    refine htie (by linarith) ?_
    rcases hor with h' | h' <;> rw [h'] at e hne hlow hhigh ⊢
    · exact absurd (by rw [hn0, hm0, mul_zero, mul_zero]) hne
    · rw [abs_of_nonneg (by linarith [h.lt])]

/-- Toward zero. -/
theorem roundedTo_zero (hle : m ≤ Num.maxFinite t) : let x := Num.withSign t neg m; let v := signOf neg * V
    |qOf t x| ≤ |v| ∧ 0 ≤ qOf t x * v ∧ ∀ y, Finite t y → |qOf t y| ≤ |v| → |qOf t y| ≤ |qOf t x| := by
  intro x v
  obtain ⟨-, hqx, -⟩ := ht.withSign_spec neg hle
  have hmm := mag_nonneg t m
  rw [hqx, abs_signOf_mul, abs_signOf_mul, abs_of_nonneg hmm, abs_of_pos hV]
  refine ⟨h.le, ?_, fun y hy hyv => ?_⟩
  · rw [show signOf neg * mag t m * v = signOf neg * signOf neg * (mag t m * V) by ring, signOf_mul_self]
    positivity
  · obtain ⟨s, n, hn, rfl⟩ := ht.exists_of_finite hy
    obtain ⟨-, hqy, -⟩ := ht.withSign_spec s hn
    rw [hqy, abs_signOf_mul, abs_of_nonneg (mag_nonneg t n)] at hyv ⊢
    exact h.below hyv

/-- A directed mode that leads away from zero takes the neighbour above an inexact magnitude, and no finite value lies between. -/
theorem directed_away : V ≤ mag t (if rem ≠ 0 then m + 1 else m) ∧
    ∀ y, Finite t y → V ≤ signOf neg * qOf t y → mag t (if rem ≠ 0 then m + 1 else m) ≤ signOf neg * qOf t y := by
  refine ⟨?_, fun y hy hyv => ?_⟩
  · split
    next => exact h.lt.le
    next hrem => exact (h.eq_iff.mpr (not_not.mp hrem)).le
  · obtain ⟨s, n, hn, rfl⟩ := ht.exists_of_finite hy
    obtain ⟨-, hqy, -⟩ := ht.withSign_spec s hn
    have hmn := mag_nonneg t n
    have hsn : signOf neg * qOf t (Num.withSign t s n) = mag t n := by
      rw [hqy] at hyv ⊢
      have := same_sign (s := s) (neg := neg) hmn hV (by nlinarith)
      rw [this, ← mul_assoc, signOf_mul_self, one_mul]
    rw [hsn] at hyv ⊢
    exact h.above hyv

omit hV in
/-- A directed mode that leads to zero takes the neighbour below. -/
theorem directed_toward : mag t m ≤ V ∧ ∀ y, Finite t y → signOf neg * qOf t y ≤ V → signOf neg * qOf t y ≤ mag t m := by
  refine ⟨h.le, fun y hy hyv => ?_⟩
  obtain ⟨s, n, hn, rfl⟩ := ht.exists_of_finite hy
  obtain ⟨-, hqy, -⟩ := ht.withSign_spec s hn
  have hmn := mag_nonneg t n
  have hmm := mag_nonneg t m
  rw [hqy, ← mul_assoc] at hyv ⊢
  rcases eq_or_ne s neg with rfl | hs
  · rw [signOf_mul_self, one_mul] at hyv ⊢
    exact h.below hyv
  · have hopp : signOf neg * signOf s = -1 := by cases s <;> cases neg <;> simp_all [signOf]
    rw [hopp]
    linarith

/-- Stochastic: an exact value stays, and else the neighbour above is taken where the register is no greater than the fraction of the
gap (R57). -/
theorem roundedTo_stochastic (hle : chosen 4 S neg m k rem den ≤ Num.maxFinite t) :
    let x := Num.withSign t neg (chosen 4 S neg m k rem den); let v := signOf neg * V
    (∀ y, Finite t y → qOf t y = v → qOf t x = v) ∧
    ∀ lo hi, Finite t lo → Finite t hi → 0 ≤ qOf t lo * v → 0 ≤ qOf t hi * v → |qOf t lo| < |v| → |v| < |qOf t hi| →
      (∀ y, Finite t y → ¬(|qOf t lo| < |qOf t y| ∧ |qOf t y| < |qOf t hi|)) →
      qOf t x = if (S.toNat : ℤ) ≤ ⌊2 ^ 32 * (|v| - |qOf t lo|) / (|qOf t hi| - |qOf t lo|)⌋ then qOf t hi else qOf t lo := by
  intro x v
  obtain ⟨-, hqx, -⟩ := ht.withSign_spec neg hle
  have hmax : m ≤ Num.maxFinite t := le_trans (by unfold chosen; split <;> omega) hle
  have hv : |v| = V := by rw [abs_signOf_mul, abs_of_pos hV]
  rw [hqx, hv]
  refine ⟨fun y hy hyv => ?_, fun lo hi hflo hfhi hslo hshi hltlo hlthi hnone => ?_⟩
  · obtain ⟨s, n, hn, rfl⟩ := ht.exists_of_finite hy
    obtain ⟨-, hqy, -⟩ := ht.withSign_spec s hn
    have habs : mag t n = V := by
      rw [← hv, ← hyv, hqy, abs_signOf_mul, abs_of_nonneg (mag_nonneg t n)]
    have hm : mag t m = V := le_antisymm h.le (habs ▸ h.below habs.le)
    have hrem : rem = 0 := h.eq_iff.mp hm.symm
    unfold chosen
    rw [if_neg (fun hc => hc.1 hrem), hm]
  · obtain ⟨sl, nl, hnl, rfl⟩ := ht.exists_of_finite hflo
    obtain ⟨sh, nh, hnh, rfl⟩ := ht.exists_of_finite hfhi
    obtain ⟨-, hql, -⟩ := ht.withSign_spec sl hnl
    obtain ⟨-, hqh, -⟩ := ht.withSign_spec sh hnh
    have hal : |qOf t (Num.withSign t sl nl)| = mag t nl := by rw [hql, abs_signOf_mul, abs_of_nonneg (mag_nonneg t nl)]
    have hah : |qOf t (Num.withSign t sh nh)| = mag t nh := by rw [hqh, abs_signOf_mul, abs_of_nonneg (mag_nonneg t nh)]
    rw [hal] at hltlo ⊢
    rw [hah] at hlthi ⊢
    have hbetween : ∀ n ≤ Num.maxFinite t, ¬(mag t nl < mag t n ∧ mag t n < mag t nh) := fun n hn hc => by
      obtain ⟨hf, hq, -⟩ := ht.withSign_spec neg hn
      refine hnone _ hf ?_
      rw [hal, hah, hq, abs_signOf_mul, abs_of_nonneg (mag_nonneg t n)]
      exact hc
    have hlow : nl = m := by
      have hle := (mag_strictMono t).lt_iff_lt.mp (hltlo.trans h.lt)
      refine le_antisymm (Nat.lt_succ_iff.mp hle) (not_lt.mp fun hc => hbetween m hmax ⟨(mag_strictMono t) hc, h.le.trans_lt hlthi⟩)
    have hhigh : nh = m + 1 := by
      have hge := (mag_strictMono t).lt_iff_lt.mp (h.le.trans_lt hlthi)
      refine le_antisymm (not_lt.mp fun hc => hbetween (m + 1) (hc.le.trans hnh) ⟨hltlo.trans h.lt, (mag_strictMono t) hc⟩) hge
    subst hlow hhigh
    have hrem : rem ≠ 0 := fun e => absurd (h.eq_iff.mpr e) hltlo.ne'
    have hfloor : ⌊2 ^ 32 * (V - mag t nl) / (mag t (nl + 1) - mag t nl)⌋ = ((2 ^ 32 * rem / den : ℕ) : ℤ) := by
      rw [mul_div_assoc, h.fraction, ← mul_div_assoc]
      exact_mod_cast Rat.floor_natCast_div_natCast (2 ^ 32 * rem) den
    have hup : (S.toNat : ℤ) ≤ ⌊2 ^ 32 * (V - mag t nl) / (mag t (nl + 1) - mag t nl)⌋ ↔
        rem ≠ 0 ∧ Num.roundsUp 4 S neg k rem den = true := by
      rw [hfloor, Nat.cast_le, and_iff_right hrem]
      exact decide_eq_true_iff.symm
    rw [hql] at hslo
    rw [hqh] at hshi
    rw [if_congr hup rfl rfl, hql, hqh, same_sign (mag_nonneg t _) hV hslo, same_sign (mag_nonneg t _) hV hshi]
    unfold chosen
    split <;> rfl

end

section

variable {t : Num.Fmt} (ht : Ieee t)
include ht

/-- Every mode of Table 3.4, together. -/
theorem roundedTo_of_bracket {V : ℚ} (hV : 0 < V) {m k rem den : ℕ} (h : Bracket t V m k rem den) {mode : ℕ} (S : BitVec 32) (neg : Bool)
    (hle : chosen mode S neg m k rem den ≤ Num.maxFinite t) : RoundedTo t mode S (signOf neg * V) (Num.withSign t neg (chosen mode S neg m k rem den)) := by
  have hmax : m ≤ Num.maxFinite t := le_trans (by unfold chosen; split <;> omega) hle
  obtain ⟨hfin, hqx, -⟩ := ht.withSign_spec neg hle
  obtain ⟨htoward, htowards⟩ := directed_toward ht h neg
  obtain ⟨haway, haways⟩ := directed_away ht hV h neg
  refine ⟨hfin, ?_, ?_, ?_, ?_, ?_⟩
  · rintro rfl y hy
    exact roundedTo_nearest ht hV h S neg hle y hy
  · rintro rfl
    have hc : chosen 1 S neg m k rem den = m := by simp [chosen, Num.roundsUp]
    rw [hc]
    exact roundedTo_zero ht hV h neg hmax
  · rintro rfl
    rw [hqx]
    cases neg
    · have hc : chosen 2 S false m k rem den = if rem ≠ 0 then m + 1 else m := by simp [chosen, Num.roundsUp]
      rw [hc]
      simpa [signOf] using And.intro haway haways
    · have hc : chosen 2 S true m k rem den = m := by simp [chosen, Num.roundsUp]
      rw [hc]
      refine ⟨by simpa [signOf] using htoward, fun y hy hyv => ?_⟩
      have := htowards y hy (by simp [signOf] at hyv ⊢; linarith)
      simp [signOf] at this ⊢
      linarith
  · rintro rfl
    rw [hqx]
    cases neg
    · have hc : chosen 3 S false m k rem den = m := by simp [chosen, Num.roundsUp]
      rw [hc]
      simpa [signOf] using And.intro htoward htowards
    · have hc : chosen 3 S true m k rem den = if rem ≠ 0 then m + 1 else m := by simp [chosen, Num.roundsUp]
      rw [hc]
      refine ⟨by simpa [signOf] using haway, fun y hy hyv => ?_⟩
      have := haways y hy (by simp [signOf] at hyv ⊢; linarith)
      simp [signOf] at this ⊢
      linarith
  · rintro rfl
    exact roundedTo_stochastic ht hV h S neg hle

/-- The pattern after the largest finite one has the magnitude at which a value is past the range. -/
theorem mag_maxFinite_succ : mag t (Num.maxFinite t + 1) = 2 ^ (t.bias + 1) := by
  have hb := ht.bias
  obtain ⟨B, hB⟩ := Nat.exists_eq_add_of_le ht.pos
  have hform : Num.maxFinite t + 1 = (2 * t.bias - 1) * 2 ^ t.f + 2 ^ (t.f + 1) := by
    rw [ht.maxFinite_eq, ← hb, hB]
    rw [show 2 * (1 + B) + 2 - 1 = 2 * B + 3 by omega, show 2 * (1 + B) - 1 = 2 * B + 1 by omega]
    ring
  rw [hform, mag_pattern t le_rfl (.inr (Nat.pow_le_pow_right (by norm_num) (Nat.le_succ _))), hB]
  unfold minExp
  push_cast
  rw [← zpow_natCast (2 : ℚ) (t.f + 1), ← zpow_natCast (2 : ℚ) (1 + B + 1), ← zpow_add₀ two_ne_zero, hB, show 2 * (1 + B) - 1 = 2 * B + 1 by omega]
  congr 1
  push_cast
  ring

omit ht in
/-- A magnitude in range keeps within it when it is rounded; one past the range overflows. -/
theorem chosen_le_maxFinite {V : ℚ} {m k rem den : ℕ} (h : Bracket t V m k rem den) (mode : ℕ) (S : BitVec 32) (neg : Bool)
    (hV : V ≤ mag t (Num.maxFinite t)) : chosen mode S neg m k rem den ≤ Num.maxFinite t := by
  unfold chosen
  split
  next hup =>
    refine (mag_strictMono t).lt_iff_lt.mp ((lt_of_le_of_ne h.le fun e => hup.1 (h.eq_iff.mp e.symm)).trans_le hV)
  next => exact (mag_strictMono t).le_iff_le.mp (h.le.trans hV)

theorem maxFinite_lt_chosen {V : ℚ} {m k rem den : ℕ} (h : Bracket t V m k rem den) (mode : ℕ) (S : BitVec 32) (neg : Bool)
    (hV : (2 : ℚ) ^ (t.bias + 1) ≤ V) : Num.maxFinite t < chosen mode S neg m k rem den := by
  have hm : Num.maxFinite t < m := by
    rw [← mag_maxFinite_succ ht] at hV
    exact Nat.succ_lt_succ_iff.mp ((mag_strictMono t).lt_iff_lt.mp (hV.trans_lt h.lt))
  unfold chosen
  split <;> omega

end

theorem step_mode (R : Num.Rnd) : R.step.mode = R.mode := by
  unfold Num.Rnd.step
  split <;> rfl

end Sys2Proof.Claim

namespace Sys2Proof

open Machine Claim

/-- Settles O30: the model's quotient and remainder place a magnitude between two neighbouring patterns, and each mode's rule on them is
the statement's. -/
theorem roundingIsCorrect : Obligations.RoundingIsCorrect := by
  unfold Obligations.RoundingIsCorrect
  intro k sat R neg n d h8 h11 hmode hn hd hsat t v r
  have ht : Ieee t := ieee_fmtOf h8 h11
  have hV : (0 : ℚ) < n / d := by positivity
  obtain ⟨m, k', rem, den, fl, tiny, h, hround, hexact, hinexact, hnormal⟩ := roundMag_spec ht.frac sat R.step neg hn hd
  have hr : r = Num.roundMag t sat R.step neg n d true := if_neg hn.ne'
  rw [← hr, step_mode] at hround
  have hv : |v| = n / d := by unfold v; rw [q_fin, abs_signOf_mul, abs_of_pos hV]
  have hmax : qOf t (Num.maxFinite t) = mag t (Num.maxFinite t) := by
    obtain ⟨-, hq, -⟩ := ht.withSign_spec false (le_refl (Num.maxFinite t))
    simpa [signOf, Num.withSign] using hq
  rw [hv, hmax]
  refine ⟨fun hrange => ?_, fun hpast => ?_⟩
  · have hle := chosen_le_maxFinite h R.mode R.step.s neg hrange
    obtain ⟨-, hqx, hbit⟩ := ht.withSign_spec neg hle
    rw [show r = (Num.withSign t neg (chosen R.mode R.step.s neg m k' rem den), R.step.raise fl) from hround.trans (if_neg (not_lt.mpr hle))]
    have hrounded := roundedTo_of_bracket ht hV h R.step.s neg hle
    rw [← q_fin] at hrounded
    have heq : qOf t (Num.withSign t neg (chosen R.mode R.step.s neg m k' rem den)) = v ↔ rem = 0 := by
      unfold v
      rw [hqx, q_fin, (mul_right_injective₀ (signOf_ne_zero neg)).eq_iff, ← h.eq_iff]
      unfold chosen
      split
      next hup => exact ⟨fun e => absurd e h.lt.ne', fun e => absurd (h.eq_iff.mp e) hup.1⟩
      next => exact eq_comm
    refine ⟨hrounded, hbit, fun e => ?_, fun hne => ?_, fun hnorm hne => ?_⟩
    · rw [hexact (heq.mp e)]
      exact congrArg (Num.Rnd.mk _ _) (Nat.or_zero _)
    · rw [hinexact fun e => hne (heq.mpr e)]
      cases tiny
      · exact .inl rfl
      · exact .inr rfl
    · rw [hinexact fun e => hne (heq.mpr e), hnormal hnorm]
      rfl
  · rw [show r = (Num.overflow t sat R.mode neg, R.step.raise 20) from
      hround.trans (if_pos (maxFinite_lt_chosen ht h R.mode R.step.s neg hpast))]
    refine ⟨rfl, ?_⟩
    unfold Num.overflow infOf
    rw [ht.inf]
    by_cases h1 : sat = 1
    · simp [h1]
    · cases neg <;> simp [h1]

end Sys2Proof

namespace Sys2Proof.Claim

open Sys2Proof Sys2Proof.Machine

/-! Exact sums, products and quotients, and the order of values (R193, R194). -/

/-- A finite value's denominator is not zero. -/
def Proper (v : Num.Val) : Prop := ∀ neg n d, v = .fin neg n d → 0 < d

theorem proper_decode (t : Num.Fmt) (x : ℕ) : Proper (Num.decode t x) := fun _ _ _ h => decode_den_pos h

theorem proper_nan (sn : Bool) : Proper (.nan sn) := fun _ _ _ h => nomatch h
theorem proper_inf (neg : Bool) : Proper (.inf neg) := fun _ _ _ h => nomatch h

theorem proper_fin {neg : Bool} {n d : ℕ} (h : 0 < d) : Proper (.fin neg n d) := fun _ _ _ e => (Num.Val.fin.inj e).2.2 ▸ h

theorem Proper.negate {v : Num.Val} (h : Proper v) : Proper v.negate := by
  cases v with
  | nan sn => exact proper_nan sn
  | inf neg => exact proper_inf _
  | fin neg n d => exact proper_fin (h _ _ _ rfl)

theorem sgn_eq (neg : Bool) (n : ℕ) : (Num.sgn neg n : ℚ) = signOf neg * n := by
  cases neg <;> simp [Num.sgn, signOf]

/-- A signed fraction's value. -/
theorem q_ofInt (v : ℤ) (d : ℕ) (zneg : Bool) : q (.ofInt v d zneg) = v / d := by
  unfold Num.Val.ofInt
  rw [q_fin, ← mul_div_assoc]
  congr 1
  rcases lt_trichotomy v 0 with h | rfl | h
  · have habs : ((v.natAbs : ℕ) : ℚ) = -v := by rw [Nat.cast_natAbs, abs_of_neg h]; push_cast; rfl
    rw [if_neg h.ne, decide_eq_true h, habs]
    simp [signOf]
  · simp
  · have habs : ((v.natAbs : ℕ) : ℚ) = v := by rw [Nat.cast_natAbs, abs_of_pos h]
    rw [if_neg h.ne', decide_eq_false h.not_gt, habs]
    simp [signOf]

theorem q_fin_zero (neg : Bool) (d : ℕ) : q (.fin neg 0 d) = 0 := by simp [q_fin]

theorem q_negate (v : Num.Val) : q v.negate = -q v := by
  rcases v with sn | neg | ⟨neg, n, d⟩
  · simp [Num.Val.negate, q]
  · simp [Num.Val.negate, q]
  · unfold Num.Val.negate
    rw [q_fin, q_fin]
    cases neg <;> simp [signOf]

theorem sumOf_add (mode : ℕ) {a c : Num.Val} (ha : Proper a) (hc : Proper c) : SumOf mode a c (Num.add mode a c).1 (Num.add mode a c).2 := by
  rcases a with sa | xa | ⟨x, n, d⟩ <;> rcases c with sc | xc | ⟨y, m, e⟩
  case inf.inf =>
    refine ⟨by simp [Num.Val.isNan], ?_, by simp, by simp⟩
    rintro _ _ ⟨⟩ ⟨⟩
    unfold Num.add
    dsimp only
    refine ⟨fun h => by rw [if_pos h]; exact ⟨rfl, rfl⟩, fun h => by rw [if_neg h]; exact ⟨rfl, rfl⟩⟩
  case fin.fin =>
    refine ⟨by simp [Num.Val.isNan], by simp, by simp, ?_⟩
    rintro _ _ _ _ _ _ ⟨⟩ ⟨⟩
    unfold Num.add
    dsimp only
    have hd : (d : ℚ) ≠ 0 := by exact_mod_cast (ha _ _ _ rfl).ne'
    have he : (e : ℚ) ≠ 0 := by exact_mod_cast (hc _ _ _ rfl).ne'
    by_cases hz : n = 0 ∧ m = 0 ∧ x = y
    · rw [if_pos hz]
      obtain ⟨rfl, rfl, rfl⟩ := hz
      exact ⟨x, 0, 1, rfl, one_pos, rfl, by simp [q_fin_zero], by simp⟩
    · rw [if_neg hz]
      refine ⟨_, _, _, rfl, Nat.mul_pos (ha _ _ _ rfl) (hc _ _ _ rfl), rfl, ?_, fun hk => ?_⟩
      · rw [q_ofInt, q_fin, q_fin]
        push_cast
        rw [sgn_eq, sgn_eq]
        field_simp
      · rw [if_pos (Int.natAbs_eq_zero.mp hk), if_neg hz, decide_eq_true_eq]
  all_goals
    refine ⟨?_, by simp, ?_, by simp⟩
    · simp [Num.Val.isNan, Num.add, nv, Num.NV]
    · simp +contextual [Num.add]

theorem productOf_mul {a c : Num.Val} (ha : Proper a) (hc : Proper c) : ProductOf a c (Num.mul a c).1 (Num.mul a c).2 := by
  rcases a with sa | xa | ⟨x, n, d⟩ <;> rcases c with sc | xc | ⟨y, m, e⟩
  case fin.fin =>
    refine ⟨by simp [Num.Val.isNan], by simp, by simp, ?_⟩
    rintro _ _ _ _ _ _ ⟨⟩ ⟨⟩
    refine ⟨n * m, d * e, rfl, Nat.mul_pos (ha _ _ _ rfl) (hc _ _ _ rfl), rfl, ?_⟩
    unfold Num.mul
    rw [q_fin, q_fin, q_fin]
    push_cast
    cases x <;> cases y <;> simp [signOf, mul_div_mul_comm]
  all_goals
    refine ⟨?_, ?_, ?_, by simp⟩
    · simp [Num.Val.isNan, Num.mul, nv, Num.NV]
    · simp [Num.mul]
    · simp +contextual [Num.mul, Num.NV, Num.Val.isNan, Bool.xor_comm]

theorem quotientOf_div {a c : Num.Val} (ha : Proper a) (hc : Proper c) : QuotientOf a c (Num.div a c).1 (Num.div a c).2 := by
  rcases a with sa | xa | ⟨x, n, d⟩ <;> rcases c with sc | xc | ⟨y, m, e⟩
  case fin.fin =>
    refine ⟨by simp [Num.Val.isNan], by simp, by simp, by simp, ?_⟩
    rintro _ _ _ _ _ _ ⟨⟩ ⟨⟩
    unfold Num.div
    dsimp only
    refine ⟨fun hm hn => ?_, fun hm hn => ?_, fun hm => ?_⟩
    · rw [if_pos hm, if_pos hn]
      exact ⟨rfl, rfl⟩
    · rw [if_pos hm, if_neg hn]
      exact ⟨rfl, rfl⟩
    · rw [if_neg hm]
      refine ⟨n * e, d * m, rfl, Nat.mul_pos (ha _ _ _ rfl) (Nat.pos_of_ne_zero hm), rfl, ?_⟩
      rw [q_fin, q_fin, q_fin]
      push_cast
      cases x <;> cases y <;> simp [signOf, div_div_div_eq, div_neg, neg_div]
  all_goals
    refine ⟨?_, ?_, ?_, ?_, by simp⟩
    · simp [Num.Val.isNan, Num.div, nv, Num.NV]
    · simp [Num.div, Num.Val.isNan, Num.NV]
    · simp +contextual [Num.div]
    · simp +contextual [Num.div, Num.Val.neg, Bool.xor_comm]

theorem compare_coe (x y : ℚ) : Ord.compare (((x : ℚ) : WithTop ℚ) : WithBot (WithTop ℚ)) ((y : WithTop ℚ) : WithBot (WithTop ℚ)) = Ord.compare x y := by
  rcases lt_trichotomy x y with h | h | h
  · rw [compare_lt_iff_lt.mpr h, compare_lt_iff_lt]
    exact_mod_cast h
  · rw [compare_eq_iff_eq.mpr h, compare_eq_iff_eq, h]
  · rw [compare_gt_iff_gt.mpr h, compare_gt_iff_gt]
    exact_mod_cast h

/-- Two fractions compare as their cross products do. -/
theorem compare_div {n m : ℤ} {d e : ℕ} (hd : 0 < d) (he : 0 < e) : Ord.compare (n * e) (m * d) = Ord.compare ((n : ℚ) / d) ((m : ℚ) / e) := by
  have hd' : (0 : ℚ) < d := by exact_mod_cast hd
  have he' : (0 : ℚ) < e := by exact_mod_cast he
  rcases lt_trichotomy (n * e) (m * d) with h | h | h
  · rw [compare_lt_iff_lt.mpr h, eq_comm, compare_lt_iff_lt, div_lt_div_iff₀ hd' he']
    exact_mod_cast h
  · rw [compare_eq_iff_eq.mpr h, eq_comm, compare_eq_iff_eq, div_eq_div_iff hd'.ne' he'.ne']
    exact_mod_cast h
  · rw [compare_gt_iff_gt.mpr h, eq_comm, compare_gt_iff_gt, div_lt_div_iff₀ he' hd']
    exact_mod_cast h

/-- The order of two values that are not NaN is that of their places on the line. -/
theorem cmp_eq_compare {a c : Num.Val} (ha : Proper a) (hc : Proper c) (hna : a.isNan = false) (hnc : c.isNan = false) :
    Num.cmp a c = Ord.compare (place a) (place c) := by
  have hbt : (⊥ : WithBot (WithTop ℚ)) < ((⊤ : WithTop ℚ) : WithBot (WithTop ℚ)) := WithBot.bot_lt_coe _
  have hbq : ∀ x : ℚ, (⊥ : WithBot (WithTop ℚ)) < ((x : WithTop ℚ) : WithBot (WithTop ℚ)) := fun x => WithBot.bot_lt_coe _
  have hqt : ∀ x : ℚ, ((x : WithTop ℚ) : WithBot (WithTop ℚ)) < ((⊤ : WithTop ℚ) : WithBot (WithTop ℚ)) :=
    fun x => WithBot.coe_lt_coe.mpr (WithTop.coe_lt_top x)
  rcases a with sa | xa | ⟨x, n, d⟩ <;> rcases c with sc | xc | ⟨y, m, e⟩
  case inf.inf =>
    cases xa <;> cases xc
    · exact (compare_eq_iff_eq.mpr rfl).symm
    · exact (compare_gt_iff_gt.mpr hbt).symm
    · exact (compare_lt_iff_lt.mpr hbt).symm
    · exact (compare_eq_iff_eq.mpr rfl).symm
  case inf.fin =>
    cases xa
    · exact (compare_gt_iff_gt.mpr (hqt _)).symm
    · exact (compare_lt_iff_lt.mpr (hbq _)).symm
  case fin.inf =>
    cases xc
    · exact (compare_lt_iff_lt.mpr (hqt _)).symm
    · exact (compare_gt_iff_gt.mpr (hbq _)).symm
  case fin.fin =>
    show Ord.compare (Num.sgn x n * e) (Num.sgn y m * d) = Ord.compare ((q (.fin x n d) : WithTop ℚ) : WithBot (WithTop ℚ)) ((q (.fin y m e) : WithTop ℚ) : WithBot (WithTop ℚ))
    rw [compare_coe, compare_div (ha _ _ _ rfl) (hc _ _ _ rfl), sgn_eq, sgn_eq, q_fin, q_fin, mul_div_assoc, mul_div_assoc]
  all_goals contradiction

/-- What orders below what, with −0 below +0 (R194). -/
theorem below_spec {a c : Num.Val} (ha : Proper a) (hc : Proper c) (hna : a.isNan = false) (hnc : c.isNan = false) :
    (place a < place c → Num.below a c = true) ∧ (place c < place a → Num.below a c = false) ∧
    (place a = place c → Num.below a c = (a.neg && !c.neg)) := by
  unfold Num.below
  rw [cmp_eq_compare ha hc hna hnc]
  refine ⟨fun h => ?_, fun h => ?_, fun h => ?_⟩
  · rw [compare_lt_iff_lt.mpr h]
  · rw [compare_gt_iff_gt.mpr h]
  · rw [compare_eq_iff_eq.mpr h]

theorem pickOf_fminmax (t : Num.Fmt) (isMax : Bool) (x y : ℕ) : PickOf t isMax x y (Num.fminmax t isMax x y).1 (Num.fminmax t isMax x y).2 := by
  have hbelow := below_spec (proper_decode t x) (proper_decode t y)
  unfold PickOf Num.fminmax
  generalize Num.decode t x = a at *
  generalize Num.decode t y = c at *
  dsimp only
  cases hna : a.isNan <;> cases hnc : c.isNan
  case false.false =>
    obtain ⟨hlt, hgt, heq⟩ := hbelow hna hnc
    rw [if_neg (by simp), if_neg (by simp), if_neg (by simp)]
    refine ⟨by split <;> rfl, by simp, by simp, by simp, fun _ _ => ⟨by split <;> simp, fun h => ?_, fun h => ?_, fun h hneg hpos => ?_, fun h hpos hneg => ?_⟩⟩
    · rw [hlt h]; cases isMax <;> rfl
    · rw [hgt h]; cases isMax <;> rfl
    · rw [heq h, hneg, hpos]; cases isMax <;> rfl
    · rw [heq h, hneg, hpos]; cases isMax <;> rfl
  all_goals simp [nv, Num.NV]

/-- Choosing the smaller or the larger gives an operand, or the canonical NaN. -/
theorem fminmax_mem (t : Num.Fmt) (isMax : Bool) (x y : ℕ) :
    (Num.fminmax t isMax x y).1 = x ∨ (Num.fminmax t isMax x y).1 = y ∨ (Num.fminmax t isMax x y).1 = Num.canonNaN t := by
  unfold Num.fminmax
  dsimp only
  repeat' split
  all_goals simp

end Sys2Proof.Claim

namespace Sys2Proof.Claim

open Sys2Proof Sys2Proof.Machine

/-! Results fit their type. -/

/-- The largest finite magnitude and the canonical NaN have no sign bit. -/
def BitsFit (t : Num.Fmt) : Prop := Num.maxFinite t < 2 ^ (t.e + t.f) ∧ Num.canonNaN t < 2 ^ (t.e + t.f)

theorem bitsFit_fmtOf (k : ℕ) : BitsFit (Num.fmtOf k) := by
  unfold BitsFit Num.fmtOf
  split <;> decide

theorem width_fmtOf {k : ℕ} (h8 : 8 ≤ k) (h14 : k ≤ 14) : NodeCheck.width k = (Num.fmtOf k).width := by
  interval_cases k <;> rfl

theorem infinity_lt (t : Num.Fmt) : (2 ^ t.e - 1) * 2 ^ t.f < 2 ^ (t.e + t.f) := by
  rw [pow_add]
  exact Nat.mul_lt_mul_of_pos_right (Nat.sub_lt (by positivity) one_pos) (by positivity)

theorem withSign_lt {t : Num.Fmt} {m : ℕ} (neg : Bool) (h : m < 2 ^ (t.e + t.f)) : Num.withSign t neg m < 2 ^ t.width := by
  have hwidth : 2 ^ t.width = 2 ^ (t.e + t.f) + 2 ^ (t.e + t.f) := by unfold Num.Fmt.width; ring
  unfold Num.withSign
  split <;> omega

theorem lt_width {t : Num.Fmt} {m : ℕ} (h : m < 2 ^ (t.e + t.f)) : m < 2 ^ t.width :=
  h.trans_le (Nat.pow_le_pow_right two_pos (by unfold Num.Fmt.width; omega))

/-- One rounding overflows, or gives a magnitude with its sign. -/
theorem roundMag_cases (t : Num.Fmt) (sat : ℕ) (r : Num.Rnd) (neg : Bool) (n d : ℕ) (exact : Bool) : ∃ enc fl,
    Num.roundMag t sat r neg n d exact = if Num.maxFinite t < enc then (Num.overflow t sat r.mode neg, r.raise 20)
      else (Num.withSign t neg enc, r.raise fl) :=
  ⟨_, _, rfl⟩

section

variable {t : Num.Fmt} (ht : BitsFit t)
include ht

theorem BitsFit.nan_lt : Num.canonNaN t < 2 ^ t.width := lt_width ht.2

theorem BitsFit.overflow_lt (sat mode : ℕ) (neg : Bool) : Num.overflow t sat mode neg < 2 ^ t.width := by
  obtain ⟨hmax, hnan⟩ := ht
  unfold Num.overflow
  split
  · exact withSign_lt neg hmax
  split
  · exact lt_width hnan
  split
  · exact withSign_lt neg hmax
  · exact withSign_lt neg (infinity_lt t)

theorem BitsFit.roundMag_lt (sat : ℕ) (r : Num.Rnd) (neg : Bool) (n d : ℕ) (exact : Bool) : (Num.roundMag t sat r neg n d exact).1 < 2 ^ t.width := by
  obtain ⟨enc, fl, h⟩ := roundMag_cases t sat r neg n d exact
  rw [h]
  split
  · exact ht.overflow_lt sat r.mode neg
  next h => exact withSign_lt neg ((not_lt.mp h).trans_lt ht.1)

theorem BitsFit.round_lt (sat : ℕ) (r : Num.Rnd) (v : Num.Val) : (Num.round t sat r v).1 < 2 ^ t.width := by
  unfold Num.round
  split
  · exact ht.nan_lt
  · split
    · exact withSign_lt _ (infinity_lt t)
    split
    · exact ht.nan_lt
    · exact withSign_lt _ ht.1
  · split
    · exact withSign_lt _ (by positivity)
    · exact ht.roundMag_lt _ _ _ _ _ _

theorem BitsFit.approx_lt (r : Num.Rnd) (neg : Bool) (n d : ℕ) (exact : Bool) : (Num.approx t r neg n d exact).1 < 2 ^ t.width :=
  ht.roundMag_lt _ _ _ _ _ _

theorem BitsFit.fminmax_lt (isMax : Bool) {x y : ℕ} (hx : x < 2 ^ t.width) (hy : y < 2 ^ t.width) : (Num.fminmax t isMax x y).1 < 2 ^ t.width := by
  obtain h | h | h := fminmax_mem t isMax x y <;> rw [h]
  · exact hx
  · exact hy
  · exact ht.nan_lt

end

end Sys2Proof.Claim

namespace Sys2Proof.Claim

open Sys2Proof Sys2Proof.Machine

/-! Truncation to some significant bits, and rounding of what is exact (R195). -/

/-- A number scaled by a power of two, as a fraction. -/
theorem scale_eq (k : ℕ) (e : ℤ) :
    ((if 0 ≤ e then k * 2 ^ e.toNat else k : ℕ) : ℚ) / (if 0 ≤ e then 1 else 2 ^ (-e).toNat : ℕ) = k * 2 ^ e := by
  split
  next h =>
    obtain ⟨j, rfl⟩ := Int.eq_ofNat_of_zero_le h
    push_cast
    rw [Int.toNat_natCast, zpow_natCast, div_one]
  next h =>
    obtain ⟨j, hj⟩ := Int.eq_ofNat_of_zero_le (show 0 ≤ -e by omega)
    obtain rfl : e = -(j : ℤ) := by omega
    push_cast
    rw [neg_neg, Int.toNat_natCast, zpow_neg, zpow_natCast, div_eq_mul_inv]

/-- A value cut to p significant bits: k units of 2^e. -/
theorem truncate_spec {p n d : ℕ} (hp : 1 ≤ p) (hn : 0 < n) (hd : 0 < d) (exact : Bool) : ∃ k : ℕ, let e := Num.floorLog n d - p + 1
    let c := Num.truncate p n d exact
    2 ^ (p - 1) ≤ k ∧ k < 2 ^ p ∧ 0 < c.1 ∧ 0 < c.2.1 ∧ (c.1 : ℚ) / c.2.1 = k * 2 ^ e ∧ (k : ℚ) * 2 ^ e ≤ n / d ∧ (n / d : ℚ) < (k + 1) * 2 ^ e ∧
    (c.2.2 = true ↔ exact = true ∧ (n / d : ℚ) = k * 2 ^ e) := by
  obtain ⟨hlow, hhigh⟩ := floorLog_spec hn hd
  rcases hquot : Num.quot n d (Num.floorLog n d - p + 1) with ⟨k, rem, den⟩
  obtain ⟨hden, hrem, hval⟩ := quot_spec hd hquot
  refine ⟨k, ?_⟩
  intro e c
  have he : (0 : ℚ) < 2 ^ e := by positivity
  have hden' : (0 : ℚ) < den := by exact_mod_cast hden
  have hfrac : (0 : ℚ) ≤ rem / den ∧ (rem / den : ℚ) < 1 := ⟨by positivity, (div_lt_one hden').mpr (by exact_mod_cast hrem)⟩
  have hE : (2 : ℚ) ^ Num.floorLog n d = 2 ^ (p - 1) * 2 ^ e := by
    rw [← zpow_natCast, ← zpow_add₀ two_ne_zero]
    congr 1
    push_cast [hp]
    ring
  have hE' : (2 : ℚ) ^ (Num.floorLog n d + 1) = 2 ^ p * 2 ^ e := by
    rw [zpow_add_one₀ two_ne_zero, hE, ← pow_sub_one_mul (by omega : p ≠ 0)]
    ring
  rw [hval, hE] at hlow
  rw [hval, hE'] at hhigh
  have hlow' := le_of_mul_le_mul_right hlow he
  have hhigh' := lt_of_mul_lt_mul_right hhigh he.le
  have hklow : 2 ^ (p - 1) ≤ k := Nat.lt_succ_iff.mp (by
    have : ((2 ^ (p - 1) : ℕ) : ℚ) < (k + 1 : ℕ) := by push_cast; linarith
    exact_mod_cast this)
  have hkhigh : k < 2 ^ p := by
    have : (k : ℚ) < (2 ^ p : ℕ) := by push_cast; linarith
    exact_mod_cast this
  have hk : 0 < k := (show 0 < 2 ^ (p - 1) by positivity).trans_le hklow
  have hc : c = ((if 0 ≤ e then k * 2 ^ e.toNat else k), (if 0 ≤ e then 1 else 2 ^ (-e).toNat), exact && decide (rem = 0)) := by
    unfold c Num.truncate
    dsimp only
    rw [hquot]
  rw [hc]
  refine ⟨hklow, hkhigh, ?_, ?_, scale_eq k e, ?_, ?_, ?_⟩
  · dsimp only
    split <;> positivity
  · dsimp only
    split <;> positivity
  · rw [hval]
    exact mul_le_mul_of_nonneg_right (by linarith) he.le
  · rw [hval]
    exact mul_lt_mul_of_pos_right (by linarith) he
  · rw [hval, mul_left_inj' he.ne', add_eq_left, div_eq_zero_iff, Nat.cast_eq_zero, or_iff_left hden'.ne', Bool.and_eq_true, decide_eq_true_eq]

/-- A value of few significant bits is cut to itself. -/
theorem truncate_exact {p n d c : ℕ} {g : ℤ} (hp : 1 ≤ p) (hn : 0 < n) (hd : 0 < d) (hc : c < 2 ^ p) (hv : (n / d : ℚ) = c * 2 ^ g) :
    let w := Num.truncate p n d true
    0 < w.1 ∧ 0 < w.2.1 ∧ (w.1 : ℚ) / w.2.1 = n / d ∧ w.2.2 = true := by
  obtain ⟨k, hklow, hkhigh, hN, hD, hval, hle, hlt, hex⟩ := truncate_spec hp hn hd true
  obtain ⟨hlow, -⟩ := floorLog_spec hn hd
  intro w
  have hg : Num.floorLog n d < p + g := by
    have h : (2 : ℚ) ^ Num.floorLog n d < 2 ^ ((p : ℤ) + g) := by
      refine hlow.trans_lt ?_
      rw [hv, zpow_add₀ two_ne_zero, zpow_natCast]
      exact mul_lt_mul_of_pos_right (by exact_mod_cast hc) (by positivity)
    exact (zpow_lt_zpow_iff_right₀ one_lt_two).mp h
  obtain ⟨j, hj⟩ := Int.eq_ofNat_of_zero_le (show 0 ≤ g - (Num.floorLog n d - p + 1) by omega)
  generalize Num.floorLog n d - p + 1 = e at *
  obtain rfl : g = j + e := by omega
  have he : (0 : ℚ) < 2 ^ e := by positivity
  have hv' : (n / d : ℚ) = (c * 2 ^ j : ℕ) * 2 ^ e := by
    rw [hv, zpow_add₀ two_ne_zero, zpow_natCast]
    push_cast
    ring
  rw [hv'] at hle hlt hex ⊢
  have hk : k = c * 2 ^ j := by
    have h1 : k ≤ c * 2 ^ j := by exact_mod_cast le_of_mul_le_mul_right hle he
    have h2 : c * 2 ^ j < k + 1 := by exact_mod_cast lt_of_mul_lt_mul_right hlt he.le
    omega
  rw [← hk] at hex ⊢
  exact ⟨hN, hD, hval, hex.mpr ⟨rfl, rfl⟩⟩

/-- A value of the type is rounded to itself, and raises nothing (R51). -/
theorem roundMag_exact {t : Num.Fmt} (hf : 1 ≤ t.f) (sat : ℕ) (r : Num.Rnd) (neg : Bool) {n d m : ℕ} (hn : 0 < n) (hd : 0 < d)
    (hv : (n / d : ℚ) = mag t m) (hm : m ≤ Num.maxFinite t) : Num.roundMag t sat r neg n d true = (Num.withSign t neg m, r) := by
  obtain ⟨m', k, rem, den, fl, tiny, h, hround, hexact, -⟩ := roundMag_spec hf sat r neg hn hd
  have hmm : m' = m := by
    have h1 : m' ≤ m := (mag_strictMono t).le_iff_le.mp (hv ▸ h.le)
    have h2 : m < m' + 1 := (mag_strictMono t).lt_iff_lt.mp (hv ▸ h.lt)
    omega
  subst hmm
  have hrem : rem = 0 := h.eq_iff.mp hv
  simp [hround, hrem, hm.not_gt, hexact hrem, Num.Rnd.raise]

/-- The two-step result of a value that is exact (R195). -/
theorem approx_exact {t : Num.Fmt} (hf : 1 ≤ t.f) (r : Num.Rnd) (neg : Bool) {n d m c : ℕ} {g : ℤ} (hn : 0 < n) (hd : 0 < d)
    (hv : (n / d : ℚ) = mag t m) (hm : m ≤ Num.maxFinite t) (hc : c < 2 ^ (t.f + 3)) (hg : (n / d : ℚ) = c * 2 ^ g) :
    Num.approx t r neg n d true = (Num.withSign t neg m, r.step) := by
  obtain ⟨hN, hD, hval, hex⟩ := truncate_exact (by omega) hn hd hc hg
  unfold Num.approx
  dsimp only
  rw [roundMag_exact hf 1 r.step neg hN hD (hval.trans hv) hm, hex]
  rfl

/-- The two-step result, by the cut of a value v = n/d whose square, or the square that it stands for, is sq. -/
theorem twoStep_approx {t : Num.Fmt} (r : Num.Rnd) (neg : Bool) {n d : ℕ} (hn : 0 < n) (hd : 0 < d) (exact : Bool) {sq : ℚ}
    (hsq : ∀ k : ℕ, let u : ℚ := 2 ^ (Num.floorLog n d - (t.f + 3 : ℕ) + 1)
      ((k : ℚ) * u ≤ n / d → (k * u) ^ 2 ≤ sq) ∧ ((n / d : ℚ) < (k + 1) * u → sq < ((k + 1) * u) ^ 2) ∧
      (exact = true ∧ (n / d : ℚ) = k * u ↔ ((k : ℚ) * u) ^ 2 = sq)) :
    TwoStep t r neg sq (Num.approx t r neg n d exact).1 (Num.approx t r neg n d exact).2 := by
  obtain ⟨k, hlow, hhigh, hN, hD, hval, hle, hlt, hex⟩ := truncate_spec (p := t.f + 3) (by omega) hn hd exact
  obtain ⟨h1, h2, h3⟩ := hsq k
  exact ⟨k, _, _, _, _, hlow, hhigh, hD, hval, h1 hle, h2 hlt, hex.trans h3, rfl, rfl⟩

/-- The two-step result of a fraction. -/
theorem twoStep_approx_fraction {t : Num.Fmt} (r : Num.Rnd) (neg : Bool) {n d : ℕ} (hn : 0 < n) (hd : 0 < d) :
    TwoStep t r neg ((n / d : ℚ) ^ 2) (Num.approx t r neg n d true).1 (Num.approx t r neg n d true).2 := by
  refine twoStep_approx r neg hn hd true fun k => ?_
  intro u
  have hu : (0 : ℚ) < u := by positivity
  have hv : (0 : ℚ) ≤ n / d := by positivity
  have hk : (0 : ℚ) ≤ k * u := by positivity
  refine ⟨fun h => pow_le_pow_left₀ hk h 2, fun h => pow_lt_pow_left₀ h hv two_ne_zero, ?_⟩
  rw [pow_left_inj₀ hk hv two_ne_zero, eq_comm (a := (k : ℚ) * u)]
  exact and_iff_right rfl

end Sys2Proof.Claim

namespace Sys2Proof.Claim

open Sys2Proof Sys2Proof.Machine

/-! Square roots (R193, R195): the root's integer part, bit by bit, and a fraction that is the root or lies between two neighbours. -/

theorem isqrtFrom_spec (k n : ℕ) : ∀ acc, acc * acc ≤ n → n < (acc + 2 ^ k) * (acc + 2 ^ k) →
    let s := Num.isqrtFrom k n acc
    s * s ≤ n ∧ n < (s + 1) * (s + 1) := by
  induction k with
  | zero => exact fun acc hle hlt => ⟨hle, hlt⟩
  | succ k ih =>
    intro acc hle hlt
    have hstep : acc + 2 ^ (k + 1) = acc + 2 ^ k + 2 ^ k := by ring
    unfold Num.isqrtFrom
    dsimp only
    by_cases h : (acc + 2 ^ k) * (acc + 2 ^ k) ≤ n
    · rw [if_pos h]
      exact ih _ h (hstep ▸ hlt)
    · rw [if_neg h]
      exact ih _ hle (not_le.mp h)

theorem isqrt_spec (n : ℕ) : Num.isqrt n * Num.isqrt n ≤ n ∧ n < (Num.isqrt n + 1) * (Num.isqrt n + 1) := by
  refine isqrtFrom_spec _ n 0 (Nat.zero_le _) ?_
  rw [zero_add, ← pow_add]
  exact Nat.lt_log2_self.trans_le (Nat.pow_le_pow_right two_pos (by omega))

/-- The root's fraction: s units of 1/D, and the root is that, or lies strictly between it and the next. -/
theorem sqrtFrac_spec {n d : ℕ} (hn : 0 < n) (hd : 0 < d) : ∃ s : ℕ, 2 ^ (140 + Nat.log2 d) ≤ s ∧
    let D := d * 2 ^ (140 + Nat.log2 d); let w := Num.sqrtFrac n d
    (w = (s, D, true) ∧ ((s : ℚ) / D) ^ 2 = n / d) ∨
    (w = (2 * s + 1, 2 * D, false) ∧ ((s : ℚ) / D) ^ 2 < n / d ∧ (n / d : ℚ) < (((s : ℚ) + 1) / D) ^ 2) := by
  have hw : Num.sqrtFrac n d = if Num.isqrt (n * d * 2 ^ (2 * (140 + Nat.log2 d))) * Num.isqrt (n * d * 2 ^ (2 * (140 + Nat.log2 d))) =
      n * d * 2 ^ (2 * (140 + Nat.log2 d)) then (Num.isqrt (n * d * 2 ^ (2 * (140 + Nat.log2 d))), d * 2 ^ (140 + Nat.log2 d), true)
      else (2 * Num.isqrt (n * d * 2 ^ (2 * (140 + Nat.log2 d))) + 1, d * 2 ^ (140 + Nat.log2 d + 1), false) := rfl
  obtain ⟨hle, hlt⟩ := isqrt_spec (n * d * 2 ^ (2 * (140 + Nat.log2 d)))
  generalize Num.isqrt (n * d * 2 ^ (2 * (140 + Nat.log2 d))) = s at hw hle hlt
  generalize 140 + Nat.log2 d = K at *
  have hP : n * d * 2 ^ (2 * K) = n * d * (2 ^ K * 2 ^ K) := by rw [two_mul, pow_add]
  have hDouble : d * 2 ^ (K + 1) = 2 * (d * 2 ^ K) := by ring
  rw [hP] at hw hle hlt
  rw [hDouble] at hw
  have hB : 0 < 2 ^ K := by positivity
  generalize 2 ^ K = B at *
  have hnd : 0 < n * d := Nat.mul_pos hn hd
  have hd' : (0 : ℚ) < d := by exact_mod_cast hd
  have hB' : (0 : ℚ) < B := by exact_mod_cast hB
  have hsB : B ≤ s := by
    by_contra h
    have : (s + 1) * (s + 1) ≤ B * B := Nat.mul_le_mul (by omega) (by omega)
    have : B * B ≤ n * d * (B * B) := Nat.le_mul_of_pos_left _ hnd
    omega
  have hdiv : (n / d : ℚ) = (n * d * (B * B) : ℕ) / (d * B : ℕ) ^ 2 := by
    push_cast
    field_simp
  refine ⟨s, hsB, ?_⟩
  intro D w
  have hD : (0 : ℚ) < (D : ℕ) := by unfold D; push_cast; positivity
  rw [hdiv, div_pow, div_pow, div_left_inj' (by positivity), div_lt_div_iff_of_pos_right (by positivity), div_lt_div_iff_of_pos_right (by positivity)]
  by_cases h : s * s = n * d * (B * B)
  · rw [if_pos h] at hw
    exact .inl ⟨hw, by rw [← h]; push_cast; ring⟩
  · rw [if_neg h] at hw
    refine .inr ⟨hw, ?_, ?_⟩
    · rw [pow_two]
      exact_mod_cast lt_of_le_of_ne hle h
    · rw [pow_two]
      exact_mod_cast hlt

/-- The middle of two neighbours is as near to the root as FSQRT's rounding needs. -/
theorem sqrt_middle {s D : ℕ} {v : ℚ} (hs : 2 ^ 140 ≤ s) (hD : 0 < D) (hlow : ((s : ℚ) / D) ^ 2 < v) (hhigh : v < (((s : ℚ) + 1) / D) ^ 2) :
    |(((2 * s + 1 : ℕ) : ℚ) / (2 * D : ℕ)) ^ 2 - v| * 2 ^ 130 ≤ v := by
  have hD' : (0 : ℚ) < D := by exact_mod_cast hD
  have hs' : (2 : ℚ) ^ 140 ≤ s := by exact_mod_cast hs
  have hmid : (((2 * s + 1 : ℕ) : ℚ) / (2 * D : ℕ)) ^ 2 = (s ^ 2 + s + 1 / 4) / D ^ 2 := by
    push_cast
    field_simp
    ring
  rw [div_pow, div_lt_iff₀ (by positivity)] at hlow
  rw [div_pow, lt_div_iff₀ (by positivity)] at hhigh
  have hbig : ((s : ℚ) + 1) * 2 ^ 130 ≤ s ^ 2 := by nlinarith
  have habs : |((s : ℚ) ^ 2 + s + 1 / 4) / D ^ 2 - v| ≤ ((s : ℚ) + 1) / D ^ 2 := by
    rw [abs_le, ← neg_div, div_le_iff₀ (by positivity), sub_mul, le_div_iff₀ (by positivity), sub_mul, div_mul_cancel₀ _ (by positivity)]
    constructor <;> nlinarith
  rw [hmid]
  calc |((s : ℚ) ^ 2 + s + 1 / 4) / D ^ 2 - v| * 2 ^ 130 ≤ ((s : ℚ) + 1) / D ^ 2 * 2 ^ 130 := mul_le_mul_of_nonneg_right habs (by positivity)
    _ = ((s + 1) * 2 ^ 130) / D ^ 2 := by ring
    _ ≤ v := by rw [div_le_iff₀ (by positivity)]; linarith

/-- The two-step result of a root (R195): the type's spacing is a whole number of the fraction's units, so the cut of the middle of two
neighbours is the cut of the root. -/
theorem twoStep_sqrtFrac {t : Num.Fmt} (hf : t.f ≤ 52) (r : Num.Rnd) (neg : Bool) {n d : ℕ} (hn : 0 < n) (hd : 0 < d) :
    let w := Num.sqrtFrac n d
    TwoStep t r neg (n / d) (Num.approx t r neg w.1 w.2.1 w.2.2).1 (Num.approx t r neg w.1 w.2.1 w.2.2).2 := by
  obtain ⟨s, hs, h⟩ := sqrtFrac_spec hn hd
  intro w
  have hs0 : 0 < s := (show 0 < 2 ^ (140 + Nat.log2 d) by positivity).trans_le hs
  have hD0 : 0 < d * 2 ^ (140 + Nat.log2 d) := by positivity
  obtain ⟨hw, hv⟩ | ⟨hw, hlow, hhigh⟩ := h
  · rw [show w = _ from hw, ← hv]
    exact twoStep_approx_fraction r neg hs0 hD0
  rw [show w = _ from hw]
  refine twoStep_approx r neg (Nat.succ_pos _) (Nat.mul_pos two_pos hD0) false fun k => ?_
  obtain ⟨-, hlog⟩ := floorLog_spec (n := 2 * s + 1) (d := 2 * (d * 2 ^ (140 + Nat.log2 d))) (Nat.succ_pos _) (Nat.mul_pos two_pos hD0)
  obtain ⟨-, hdlog⟩ := log2_bounds hd
  generalize Num.floorLog (2 * s + 1) (2 * (d * 2 ^ (140 + Nat.log2 d))) = E at *
  have hd' : (0 : ℚ) < d := by exact_mod_cast hd
  have hE : -((Nat.log2 d : ℤ) + 1) < E + 1 := by
    refine (zpow_lt_zpow_iff_right₀ (one_lt_two (α := ℚ))).mp (lt_of_le_of_lt ?_ hlog)
    have hs' : (2 : ℚ) ^ (140 + Nat.log2 d) ≤ s := by exact_mod_cast hs
    rw [zpow_neg, inv_eq_one_div, div_le_div_iff₀ (by positivity) (by positivity)]
    push_cast
    have : (0 : ℚ) < 2 ^ (140 + Nat.log2 d) := by positivity
    nlinarith
  obtain ⟨c, hc⟩ := Int.eq_ofNat_of_zero_le (show 0 ≤ E - (t.f + 3 : ℕ) + 1 + (140 + Nat.log2 d : ℕ) by push_cast; omega)
  intro u
  have hD : (0 : ℚ) < (d * 2 ^ (140 + Nat.log2 d) : ℕ) := by exact_mod_cast hD0
  have hu : u = (d * 2 ^ c : ℕ) / (d * 2 ^ (140 + Nat.log2 d) : ℕ) := by
    rw [eq_div_iff hD.ne']
    have : u * 2 ^ (140 + Nat.log2 d) = 2 ^ c := by
      unfold u
      rw [← zpow_natCast, ← zpow_natCast, ← zpow_add₀ two_ne_zero, hc]
    push_cast
    linear_combination (d : ℚ) * this
  rw [hu, ← mul_div_assoc, ← mul_div_assoc]
  generalize d * 2 ^ c = g at *
  generalize d * 2 ^ (140 + Nat.log2 d) = D at *
  have hmid : ((2 * s + 1 : ℕ) : ℚ) / (2 * D : ℕ) = (s + 1 / 2) / D := by
    push_cast
    field_simp
  rw [hmid, div_le_div_iff_of_pos_right hD, div_lt_div_iff_of_pos_right hD]
  have hbelow : ((k : ℚ) * g ≤ s + 1 / 2) → ((k : ℚ) * g / D) ^ 2 < n / d := fun h => by
    refine lt_of_le_of_lt (pow_le_pow_left₀ (by positivity) ?_ 2) hlow
    rw [div_le_div_iff_of_pos_right hD]
    have : k * g < s + 1 := by
      have : ((k * g : ℕ) : ℚ) < (s + 1 : ℕ) := by push_cast; linarith
      exact_mod_cast this
    exact_mod_cast Nat.lt_succ_iff.mp this
  have habove : ((s : ℚ) + 1 / 2 < (k + 1) * g) → (n / d : ℚ) < (((k : ℚ) + 1) * g / D) ^ 2 := fun h => by
    refine hhigh.trans_le (pow_le_pow_left₀ (by positivity) ?_ 2)
    rw [div_le_div_iff_of_pos_right hD]
    have : s < (k + 1) * g := by
      have : (s : ℚ) < ((k + 1) * g : ℕ) := by push_cast; linarith
      exact_mod_cast this
    exact_mod_cast this
  refine ⟨fun h => (hbelow h).le, habove, iff_of_false (fun h => Bool.false_ne_true h.1) fun h => ?_⟩
  by_cases hk : (k : ℚ) * g ≤ s + 1 / 2
  · exact (hbelow hk).ne h
  · refine absurd h (ne_of_gt ?_)
    refine hhigh.trans_le (pow_le_pow_left₀ (by positivity) ?_ 2)
    rw [div_le_div_iff_of_pos_right hD]
    have : s < k * g := by
      have : (s : ℚ) < (k * g : ℕ) := by push_cast; linarith
      exact_mod_cast this
    exact_mod_cast this

end Sys2Proof.Claim

namespace Sys2Proof.Claim

open Sys2Proof Sys2Proof.Machine

/-! Patterns of infinity and of zero; powers of two and their logarithms (R195). -/

/-- A pattern is its sign, its exponent and its fraction. -/
theorem pattern_eq {t : Num.Fmt} {x : ℕ} (hx : x < 2 ^ t.width) :
    x = Num.withSign t (bit x (t.e + t.f)) (x / 2 ^ t.f % 2 ^ t.e * 2 ^ t.f + x % 2 ^ t.f) := by
  have hwidth : 2 ^ t.width = 2 ^ (t.e + t.f) * 2 := by unfold Num.Fmt.width; ring
  have hlow : x / 2 ^ t.f % 2 ^ t.e * 2 ^ t.f + x % 2 ^ t.f = x % 2 ^ (t.e + t.f) := by
    rw [Nat.add_comm t.e, pow_add, Nat.mod_mul, Nat.mul_comm, Nat.add_comm]
  have hdiv := Nat.div_add_mod x (2 ^ (t.e + t.f))
  have htop : x / 2 ^ (t.e + t.f) < 2 := Nat.div_lt_of_lt_mul (hwidth ▸ hx)
  rw [hlow, bit_eq_testBit, Nat.testBit_eq_decide_div_mod_eq]
  unfold Num.withSign
  rcases Nat.lt_succ_iff_lt_or_eq.mp htop with h | h
  · rw [Nat.lt_one_iff.mp h] at hdiv ⊢
    simpa using hdiv.symm
  · rw [h] at hdiv ⊢
    simp only [Nat.mod_succ, decide_true, if_true]
    omega

theorem decode_inf {t : Num.Fmt} {x : ℕ} (hx : x < 2 ^ t.width) {neg : Bool} (h : Num.decode t x = .inf neg) : x = infOf t neg := by
  have hpat := pattern_eq hx
  unfold Num.decode at h
  dsimp only at h
  split at h
  next hex =>
    split at h
    next hfr => rwa [hex.2, hfr, Nat.add_zero, Num.Val.inf.inj h] at hpat
    next => cases h
  next =>
    split at h
    · cases h
    · split at h <;> cases h

/-- FLOG2 of a power of two (R195). -/
theorem flog2_two_zpow (t : Num.Fmt) (r : Num.Rnd) {n d : ℕ} (hd : 0 < d) {k : ℤ} (hq : q (.fin false (n + 1) d) = 2 ^ k) :
    Num.flog2 t r (.fin false (n + 1) d) = if k = 0 then (0, r.step) else Num.approx t r (k < 0) k.natAbs 1 true := by
  have hd' : (0 : ℚ) < d := by exact_mod_cast hd
  rw [q_fin, signOf, if_neg Bool.false_ne_true, one_mul] at hq
  obtain ⟨hlow, hhigh⟩ := floorLog_spec n.succ_pos hd
  have he : Num.floorLog (n + 1) d = k :=
    exponent_unique hlow hhigh hq.ge (hq ▸ zpow_lt_zpow_right₀ one_lt_two (lt_add_one k))
  have hy : ∀ M : ℕ, (if 0 ≤ k then (n + 1) * 2 ^ M / (d * 2 ^ k.toNat) else (n + 1) * 2 ^ (M + (-k).toNat) / d) = 2 ^ M := by
    intro M
    rw [div_eq_iff hd'.ne'] at hq
    split
    next h =>
      obtain ⟨j, rfl⟩ := Int.eq_ofNat_of_zero_le h
      have hn : n + 1 = d * 2 ^ j := by
        rw [zpow_natCast, mul_comm] at hq
        exact_mod_cast hq
      rw [hn, Int.toNat_natCast]
      exact Nat.mul_div_cancel_left _ (by positivity)
    next h =>
      obtain ⟨j, hj⟩ := Int.eq_ofNat_of_zero_le (show 0 ≤ -k by omega)
      obtain rfl : k = -(j : ℤ) := by omega
      have hn : d = (n + 1) * 2 ^ j := by
        rw [zpow_neg, zpow_natCast, inv_mul_eq_div, eq_div_iff (by positivity)] at hq
        exact_mod_cast hq.symm
      rw [neg_neg, Int.toNat_natCast, hn, Nat.add_comm M, pow_add, ← mul_assoc]
      exact Nat.mul_div_cancel_left _ (by positivity)
  unfold Num.flog2
  dsimp only
  rw [if_neg n.succ_ne_zero, if_neg Bool.false_ne_true, he, if_pos (hy 400)]

section

variable {t : Num.Fmt} (ht : Ieee t)
include ht

theorem Ieee.decode_zero {x : ℕ} (hx : x < 2 ^ t.width) {neg : Bool} {d : ℕ} (h : Num.decode t x = .fin neg 0 d) : x = Num.withSign t neg 0 := by
  obtain ⟨s, m, hm, rfl⟩ := ht.exists_of_finite ⟨hx, _, _, _, h⟩
  obtain ⟨-, hq, hbit⟩ := ht.withSign_spec s hm
  have hm0 : mag t m = mag t 0 := by
    unfold qOf at hq
    rw [h, q_fin_zero, zero_eq_mul] at hq
    rw [mag_zero, hq.resolve_left (signOf_ne_zero s)]
  obtain rfl := (mag_strictMono t).injective hm0
  have hneg : neg = s := by
    rw [← hbit, ← bit_eq_testBit]
    obtain ⟨sn, h'⟩ | ⟨s, h'⟩ | ⟨m, a, b, h'⟩ := decode_cases t (Num.withSign t s 0)
    · cases h.symm.trans h'
    · cases h.symm.trans h'
    · exact (Num.Val.fin.inj (h.symm.trans h')).1
  rw [hneg]

/-- The pattern of a power of two. -/
theorem Ieee.mag_two_zpow {k : ℤ} (hlo : 1 - (t.bias : ℤ) ≤ k) (hhi : k ≤ t.bias) : mag t ((k + t.bias).toNat * 2 ^ t.f) = 2 ^ k ∧
    (k + t.bias).toNat * 2 ^ t.f ≤ Num.maxFinite t := by
  obtain ⟨j, hj⟩ := Int.eq_ofNat_of_zero_le (show 0 ≤ k + t.bias - 1 by omega)
  have hm : (k + t.bias).toNat * 2 ^ t.f = j * 2 ^ t.f + 2 ^ t.f := by
    rw [show (k + t.bias).toNat = j + 1 by omega]
    ring
  have hv : mag t ((k + t.bias).toNat * 2 ^ t.f) = 2 ^ k := by
    rw [hm, mag_pattern t (Nat.pow_le_pow_right two_pos (Nat.le_succ _)) (.inr le_rfl)]
    push_cast
    rw [← zpow_natCast, ← zpow_add₀ two_ne_zero]
    congr 1
    unfold minExp
    omega
  refine ⟨hv, Nat.lt_succ_iff.mp ((mag_strictMono t).lt_iff_lt.mp ?_)⟩
  rw [hv, Nat.succ_eq_add_one, mag_maxFinite_succ ht, ← zpow_natCast]
  exact zpow_lt_zpow_right₀ one_lt_two (by push_cast; omega)

/-- A whole number below the type's largest power of two, and of no more bits than its significand, is a value of the type. -/
theorem Ieee.exists_mag_eq {c : ℕ} (hc : 0 < c) (hbits : c < 2 ^ (t.f + 1)) (hlt : (c : ℚ) < 2 ^ (t.bias + 1)) : ∃ m ≤ Num.maxFinite t, mag t m = c := by
  have hb := ht.pos
  have hlog : Nat.log2 c ≤ t.f := Nat.lt_succ_iff.mp ((Nat.log2_lt hc.ne').mpr hbits)
  obtain ⟨g, hg⟩ := Nat.exists_eq_add_of_le hlog
  obtain ⟨B, hB⟩ := Nat.exists_eq_add_of_le hb
  have hlow : 2 ^ t.f ≤ c * 2 ^ g := by
    rw [hg, pow_add]
    exact Nat.mul_le_mul_right _ (Nat.log2_self_le hc.ne')
  have hhigh : c * 2 ^ g ≤ 2 ^ (t.f + 1) := by
    rw [hg, show Nat.log2 c + g + 1 = Nat.log2 c + 1 + g by ring, pow_add]
    exact Nat.mul_le_mul_right _ Nat.lt_log2_self.le
  have hv := mag_pattern t (j := Nat.log2 c + B) hhigh (.inr hlow)
  have hexp : minExp t + (Nat.log2 c + B : ℕ) = -(g : ℤ) := by
    unfold minExp
    push_cast
    omega
  rw [hexp, zpow_neg, zpow_natCast] at hv
  push_cast at hv
  rw [mul_inv_cancel_right₀ (by positivity)] at hv
  refine ⟨_, Nat.lt_succ_iff.mp ((mag_strictMono t).lt_iff_lt.mp ?_), hv⟩
  rwa [hv, Nat.succ_eq_add_one, mag_maxFinite_succ ht]

/-- A value of the type that is a power of two lies between its least and its largest. -/
theorem Ieee.log_range {x : ℕ} (hx : x < 2 ^ t.width) {n d : ℕ} {neg : Bool} (h : Num.decode t x = .fin neg n d) {k : ℤ} (hk : qOf t x = 2 ^ k) :
    minExp t ≤ k ∧ k ≤ t.bias := by
  obtain ⟨s, m, hm, rfl⟩ := ht.exists_of_finite ⟨hx, _, _, _, h⟩
  obtain ⟨-, hq, -⟩ := ht.withSign_spec s hm
  have hpos : (0 : ℚ) < 2 ^ k := by positivity
  have hmk : mag t m = 2 ^ k := by
    rw [← abs_of_nonneg (mag_nonneg t m), ← abs_signOf_mul s, ← hq, hk, abs_of_pos hpos]
  have h0 : m ≠ 0 := fun h0 => by rw [h0, mag_zero] at hmk; exact hpos.ne hmk
  have h1 : (2 : ℚ) ^ minExp t ≤ 2 ^ k := by
    have := mag_pattern t (j := 0) (k := 1) Nat.one_le_two_pow (.inl rfl)
    rw [zero_mul, zero_add, Nat.cast_one, one_mul, Nat.cast_zero, add_zero] at this
    rw [← this, ← hmk]
    exact (mag_strictMono t).monotone (Nat.pos_of_ne_zero h0)
  have h2 : (2 : ℚ) ^ k < 2 ^ ((t.bias : ℤ) + 1) := by
    rw [← hmk, ← Nat.cast_succ, zpow_natCast, ← mag_maxFinite_succ ht]
    exact mag_strictMono t (Nat.lt_succ_of_le hm)
  have h3 := (zpow_le_zpow_iff_right₀ (one_lt_two (α := ℚ))).mp h1
  have h4 := (zpow_lt_zpow_iff_right₀ (one_lt_two (α := ℚ))).mp h2
  omega

/-- 2 to a whole power in the type's normal range. -/
theorem Ieee.approx_two_zpow (r : Num.Rnd) {M : ℕ} (hM : 0 < M) {k : ℤ} (hlo : 1 - (t.bias : ℤ) ≤ k) (hhi : k ≤ t.bias) :
    Num.approx t r false (if 0 ≤ k then M * 2 ^ k.toNat else M) (M * (if 0 ≤ k then 1 else 2 ^ (-k).toNat)) true =
      ((k + t.bias).toNat * 2 ^ t.f, r.step) := by
  obtain ⟨hv, hm⟩ := ht.mag_two_zpow hlo hhi
  have hM' : (M : ℚ) ≠ 0 := by exact_mod_cast hM.ne'
  have hval : ((if 0 ≤ k then M * 2 ^ k.toNat else M : ℕ) : ℚ) / (M * (if 0 ≤ k then 1 else 2 ^ (-k).toNat) : ℕ) = 2 ^ k := by
    have h := scale_eq M k
    rw [Nat.cast_mul, mul_comm (M : ℚ), ← div_div, h, mul_div_cancel_left₀ _ hM']
  refine approx_exact ht.frac r false ?_ ?_ (hval.trans hv.symm) hm (c := 1) (g := k) (Nat.one_lt_two_pow (by omega)) (by rw [hval]; simp)
  · split <;> positivity
  · split <;> positivity

/-- FEXP2 of a whole number (R195). -/
theorem Ieee.fexp2_exact (r : Num.Rnd) {neg : Bool} {n d : ℕ} (hd : 0 < d) {k : ℤ} (hq : q (.fin neg n d) = k) (hlo : 1 - (t.bias : ℤ) ≤ k)
    (hhi : k ≤ t.bias) (hb : t.bias ≤ 2 ^ 12) : Num.fexp2 t r (.fin neg n d) = ((k + t.bias).toNat * 2 ^ t.f, r.step) := by
  have hd' : (d : ℚ) ≠ 0 := by exact_mod_cast hd.ne'
  have hn : n = k.natAbs * d := by
    have h := congrArg abs hq
    rw [q_fin, abs_signOf_mul, abs_of_nonneg (by positivity), div_eq_iff hd', ← Int.cast_abs, ← Nat.cast_natAbs] at h
    exact_mod_cast h
  subst hn
  have hk : k = if neg then -(k.natAbs : ℤ) else k.natAbs := by
    rw [q_fin] at hq
    push_cast at hq
    rw [mul_div_cancel_right₀ _ hd'] at hq
    cases neg
    · have : (0 : ℚ) ≤ k := by rw [← hq]; simp [signOf]
      have : 0 ≤ k := by exact_mod_cast this
      simp only [Bool.false_eq_true, if_false]
      omega
    · have : (k : ℚ) ≤ 0 := by rw [← hq]; simp [signOf]
      have : k ≤ 0 := by exact_mod_cast this
      simp only [if_true]
      omega
  have hi : (if neg then -((k.natAbs * d + d - 1) / d : ℕ) else (k.natAbs * d / d : ℕ) : ℤ) = k := by
    rw [Nat.mul_div_cancel _ hd, Nat.add_sub_assoc hd, Nat.add_comm, Nat.add_mul_div_right _ _ hd, Nat.div_eq_of_lt (by omega), Nat.zero_add]
    exact hk.symm
  have hf : (if neg then (d - k.natAbs * d % d) % d else k.natAbs * d % d) = 0 := by
    cases neg <;> simp
  have hsmall : ¬2 ^ 12 < k.natAbs * d / d := by
    rw [Nat.mul_div_cancel _ hd]
    omega
  unfold Num.fexp2
  dsimp only
  rw [if_neg hsmall, hi, hf]
  exact ht.approx_two_zpow r (Nat.two_pow_pos 320) hlo hhi

/-- FLOG2 of a power of two is its exponent. -/
theorem Ieee.flog2_exact (r : Num.Rnd) {n d : ℕ} (hd : 0 < d) {k : ℤ} (hq : q (.fin false (n + 1) d) = 2 ^ k) (hbits : k.natAbs < 2 ^ (t.f + 1))
    (hf : t.f ≤ t.bias) : let z := Num.flog2 t r (.fin false (n + 1) d)
    qOf t z.1 = k ∧ z.2 = r.step := by
  intro z
  have hz : z = _ := flog2_two_zpow t r hd hq
  rw [hz]
  split
  next h =>
    obtain ⟨-, h0, -⟩ := ht.withSign_spec false (Nat.zero_le (Num.maxFinite t))
    rw [mag_zero, mul_zero] at h0
    exact ⟨by rw [h, Int.cast_zero]; exact h0, rfl⟩
  next h =>
    have hc : 0 < k.natAbs := Int.natAbs_pos.mpr h
    have hlt : (k.natAbs : ℚ) < 2 ^ (t.bias + 1) := by
      exact_mod_cast hbits.trans_le (Nat.pow_le_pow_right two_pos (by omega))
    obtain ⟨m, hm, hv⟩ := ht.exists_mag_eq hc hbits hlt
    obtain ⟨-, hqm, -⟩ := ht.withSign_spec (decide (k < 0)) hm
    rw [approx_exact ht.frac r (k < 0) hc one_pos (by rw [hv]; simp) hm (c := k.natAbs) (g := 0)
      (hbits.trans_le (Nat.pow_le_pow_right two_pos (by omega))) (by simp)]
    refine ⟨?_, rfl⟩
    rw [hqm, hv, Nat.cast_natAbs]
    rcases lt_or_gt_of_ne h with h | h
    · rw [decide_eq_true h, abs_of_neg h]
      simp [signOf]
    · rw [decide_eq_false h.not_gt, abs_of_pos h]
      simp [signOf]

end

end Sys2Proof.Claim

namespace Sys2Proof.Claim

open Sys2Proof Sys2Proof.Machine

/-! The floating-point nodes (R193 to R195): element-wise nodes that thread the rounding state. -/

/-- An element-wise node: its live elements in ascending order, each from the rounding state that the one before left. -/
theorem elementwise_threads (a : Fire) (op : ℕ → Num.Rnd → ℕ × Num.Rnd) : let o := elementwise a op; let b := NodeCheck.width a.n.fmt.toNat
    o.kind = 0#4 ∧ o.pend = [] ∧ ∃ (V : Vec) (R : ℕ → Num.Rnd), R 0 = a.rnd ∧ o.rnd = R (512 / b) ∧ Blends a (Live a b) V o.val o.mask ∧
      ∀ j < 512 / b, (Live a b (b * j / 32) → elem V b j = (op j (R j)).1 % 2 ^ b ∧ R (j + 1) = (op j (R j)).2) ∧
        (¬Live a b (b * j / 32) → R (j + 1) = R j) := by
  intro o b
  obtain ⟨R, l, he, hlen, h0, hstep⟩ := overElems_aux b a.live a.rnd op (512 / b)
  have ho : o = { val := (a.finish (mkVec b l) a.live).1, mask := (a.finish (mkVec b l) a.live).2, rnd := R (512 / b) } := by
    unfold o elementwise
    dsimp only
    rw [show overElems (NodeCheck.width a.n.fmt.toNat) a.live a.rnd op = (l, R (512 / b)) from he]
  rw [ho]
  refine ⟨rfl, rfl, mkVec b l, R, h0, rfl, blends_finish a _, fun j hj => ⟨fun hl => ?_, fun hl => ?_⟩⟩
  · obtain ⟨hget, hR⟩ := (hstep j hj).1 ((elemLive_iff a j hj).mpr hl)
    obtain ⟨hlt, hget⟩ := List.getElem?_eq_some_iff.mp hget
    rw [elem_mkVec b l j hlt (by rw [hlen]; exact mul_div_width_le b), hget]
    exact ⟨rfl, hR⟩
  · exact ((hstep j hj).2 (Bool.eq_false_iff.mpr fun h => hl ((elemLive_iff a j hj).mp h))).2

/-- A floating-point node but FFMA, by what it does to one element: the result fits the type, and has the property given. -/
theorem floatGives_of {i : NodeBody → Instr} {top : ℕ} {op : NodeBody → Num.Fmt → ℕ → ℕ → ℕ → Num.Rnd → ℕ → Num.Rnd → Prop}
    (f : Num.Fmt → Num.Rnd → ℕ → ℕ → ℕ × Num.Rnd)
    (row : ∀ k x y (R : Num.Rnd), 8 ≤ k → k ≤ top → let t := Num.fmtOf k
      x < 2 ^ t.width → y < 2 ^ t.width → (f t R x y).1 < 2 ^ t.width ∧ ∀ n w, op n t x y w R (f t R x y).1 (f t R x y).2)
    (htop : top ≤ 11 := by decide)
    (hi : ∀ n s, exec (i n) s = s.fire n (fun a => elementwise a (fun j r => f (Num.fmtOf a.n.fmt.toNat) r
      (elem a.l.val (NodeCheck.width a.n.fmt.toNat) j) (elem a.r.val (NodeCheck.width a.n.fmt.toNat) j))) := by intros; rfl)
    (hne : ∀ n, i n ≠ .nFfma n := by intro n h; cases h) : FloatGives i top op := by
  intro s n a h8 htop' h b w
  have hfires := fires_of_compute h (hi n s)
  obtain ⟨-, -, -, -, -, hn, -, -, -, -, -, -, -, hrnd⟩ := ready_spec h.1
  subst hn
  obtain ⟨hkind, hpend, V, R, h0, hR, hblends, helem⟩ := elementwise_threads a (fun j r => f (Num.fmtOf a.n.fmt.toNat) r
    (elem a.l.val (NodeCheck.width a.n.fmt.toNat) j) (elem a.r.val (NodeCheck.width a.n.fmt.toNat) j))
  rw [hkind, hpend, hR] at hfires
  have hb : b = (Num.fmtOf a.n.fmt.toNat).width := width_fmtOf h8 (by omega)
  refine ⟨V, _, _, R, [], h0.trans hrnd, hfires, hblends, fun h => absurd h (hne _), fun _ => rfl, fun j hj => ⟨fun hl => ?_, (helem j hj).2⟩⟩
  obtain ⟨hval, hnext⟩ := (helem j hj).1 hl
  obtain ⟨hlt, hop⟩ := row a.n.fmt.toNat (elem a.l.val b j) (elem a.r.val b j) (R j) h8 htop' (hb ▸ elem_lt _ _ _) (hb ▸ elem_lt _ _ _)
  rw [← hb] at hlt
  rw [hval, hnext, Nat.mod_eq_of_lt hlt]
  exact hop a.n _

/-- FFMA adds the plane register that OPERAND names, and writes it back when OPERAND[5] is 1 (R193). -/
theorem floatGives_ffma {op : NodeBody → Num.Fmt → ℕ → ℕ → ℕ → Num.Rnd → ℕ → Num.Rnd → Prop}
    (row : ∀ n k x y w (R : Num.Rnd), let t := Num.fmtOf k; op n t x y w R (Num.ffma t R x y w).1 (Num.ffma t R x y w).2) :
    FloatGives .nFfma 11 op := by
  intro s n a h8 htop h b w
  have hfires := fires_of_compute (i := .nFfma n) h rfl
  obtain ⟨-, -, -, -, -, hn, -, -, -, -, -, -, -, hrnd⟩ := ready_spec h.1
  subst hn
  have hnode : floatNode 0x23 a = a.writeBack (elementwise a (fun j r => Num.ffma (Num.fmtOf a.n.fmt.toNat) r (elem a.l.val b j)
    (elem a.r.val b j) (elem w b j))) := rfl
  obtain ⟨hkind, hpend, V, R, h0, hR, hblends, helem⟩ := elementwise_threads a (fun j r => Num.ffma (Num.fmtOf a.n.fmt.toNat) r (elem a.l.val b j)
    (elem a.r.val b j) (elem w b j))
  rw [hnode] at hfires
  have hback := writesBack_writeBack (a := a) hpend
  generalize elementwise a _ = o at hfires hkind hpend hR hblends hback
  have hsame : (a.writeBack o).val = o.val ∧ (a.writeBack o).mask = o.mask ∧ (a.writeBack o).kind = o.kind ∧ (a.writeBack o).rnd = o.rnd := by
    unfold Fire.writeBack
    split <;> exact ⟨rfl, rfl, rfl, rfl⟩
  obtain ⟨h1, h2, h3, h4⟩ := hsame
  rw [h1, h2, h3, h4, hkind, hR] at hfires
  have hb : b = (Num.fmtOf a.n.fmt.toNat).width := width_fmtOf h8 (by omega)
  refine ⟨V, _, _, R, _, h0.trans hrnd, hfires, hblends, fun _ => hback, fun h => absurd rfl h, fun j hj => ⟨fun hl => ?_, (helem j hj).2⟩⟩
  obtain ⟨hval, hnext⟩ := (helem j hj).1 hl
  have hlt : (Num.ffma (Num.fmtOf a.n.fmt.toNat) (R j) (elem a.l.val b j) (elem a.r.val b j) (elem w b j)).1 < 2 ^ b :=
    hb ▸ (bitsFit_fmtOf _).round_lt _ _ _
  rw [hval, hnext, Nat.mod_eq_of_lt hlt]
  exact row _ _ _ _ _ _

/-- The flags of a fused multiply-add (R193): an addend that is signalling is one of its sum's operands. -/
theorem ffma_flags {mode : ℕ} {p c : Num.Val} (hp : Proper p) (hc : Proper c) (f : ℕ) :
    f ||| (if c.isSnan then Num.NV else 0) ||| (Num.add mode p c).2 = f ||| (Num.add mode p c).2 := by
  obtain ⟨hnan, -⟩ := sumOf_add mode hp hc
  cases c with
  | nan sn =>
    rw [(hnan (.inr rfl)).2, Nat.or_assoc]
    cases sn
    · simp [Num.Val.isSnan]
    · simp [Num.Val.isSnan, nv, Num.NV]
  | inf neg => simp [Num.Val.isSnan]
  | fin neg n d => simp [Num.Val.isSnan]

theorem proper_mul {a c : Num.Val} (ha : Proper a) (hc : Proper c) : Proper (Num.mul a c).1 := by
  rcases a with sa | xa | ⟨x, n, d⟩ <;> rcases c with sc | xc | ⟨y, m, e⟩
  case inf.fin =>
    unfold Num.mul
    dsimp only
    split
    · exact proper_nan _
    · exact proper_inf _
  case fin.inf =>
    unfold Num.mul
    dsimp only
    split
    · exact proper_nan _
    · exact proper_inf _
  case fin.fin => exact proper_fin (Nat.mul_pos (ha _ _ _ rfl) (hc _ _ _ rfl))
  case inf.inf => exact proper_inf _
  all_goals exact proper_nan _

theorem raise_zero (R : Num.Rnd) : R.raise 0 = R := by
  unfold Num.Rnd.raise
  rw [Nat.or_zero]

/-- FSGN: the first's magnitude with the second's sign (R194). -/
theorem fsgn_value {t : Num.Fmt} {x y : ℕ} (hnan : (Num.decode t x).isNan = false) : let z := (Num.fsgn t x y).1
    z < 2 ^ t.width ∧ z % 2 ^ (t.e + t.f) = x % 2 ^ (t.e + t.f) ∧ z.testBit (t.e + t.f) = y.testBit (t.e + t.f) := by
  have hlt : x % 2 ^ (t.e + t.f) < 2 ^ (t.e + t.f) := Nat.mod_lt _ (by positivity)
  intro z
  have hz : z = Num.withSign t (bit y (t.e + t.f)) (x % 2 ^ (t.e + t.f)) := by
    unfold z Num.fsgn
    dsimp only
    rw [hnan]
    rfl
  rw [hz]
  refine ⟨withSign_lt _ hlt, ?_⟩
  rw [bit_eq_testBit]
  unfold Num.withSign
  cases y.testBit (t.e + t.f)
  · exact ⟨Nat.mod_eq_of_lt hlt, Nat.testBit_lt_two_pow hlt⟩
  · rw [if_pos rfl, Nat.add_mod_right, Nat.mod_eq_of_lt hlt, Nat.add_comm (x % _), Nat.testBit_two_pow_add_eq, Nat.testBit_lt_two_pow hlt]
    exact ⟨rfl, rfl⟩

/-- A signed infinity rounds to itself. -/
theorem Ieee.round_inf {t : Num.Fmt} (ht : Ieee t) (R : Num.Rnd) (neg : Bool) : Num.round t 0 R (.inf neg) = (infOf t neg, R.step) := by
  unfold Num.round
  simp [ht.inf, infOf]

end Sys2Proof.Claim

namespace Sys2Proof.Claim

open Sys2Proof Sys2Proof.Machine

/-! What FSQRT, the reciprocals and the exponential functions give for one value (R193, R195, Table 8.2). -/

theorem ite_fst_lt {c : Prop} [Decidable c] {a b : ℕ × Num.Rnd} {B : ℕ} (ha : a.1 < B) (hb : b.1 < B) : (if c then a else b).1 < B := by
  split
  · exact ha
  · exact hb

theorem sqrt_row {t : Num.Fmt} (ht : Ieee t) (hb : BitsFit t) {x : ℕ} (hx : x < 2 ^ t.width) (R : Num.Rnd) :
    let a := Num.decode t x; let z := (Num.fsqrt t R a).1; let R' := (Num.fsqrt t R a).2
    z < 2 ^ t.width ∧ (∀ sn, a = .nan sn → z = Num.canonNaN t ∧ R' = R.step.raise (if sn then 1 else 0)) ∧
    (a = .inf false → z = x ∧ R' = R.step) ∧ (a = .inf true → z = Num.canonNaN t ∧ R' = R.step.raise 1) ∧
    (∀ neg d, a = .fin neg 0 d → z = x ∧ R' = R.step) ∧ (∀ n d, a = .fin true (n + 1) d → z = Num.canonNaN t ∧ R' = R.step.raise 1) ∧
    (∀ n d, a = .fin false (n + 1) d → ∃ (N D : ℕ) (exact : Bool), 0 < D ∧ (z, R') = Num.roundMag t 0 R.step false N D exact ∧
      (exact = true → ((N : ℚ) / D) ^ 2 = q a) ∧ (exact = false → |((N : ℚ) / D) ^ 2 - q a| * 2 ^ 130 ≤ q a)) := by
  intro a z R'
  have hinf : a = .inf false → x = infOf t false := decode_inf hx
  have hzero : ∀ neg d, a = .fin neg 0 d → x = Num.withSign t neg 0 := fun _ _ h => ht.decode_zero hx h
  have hproper : Proper a := proper_decode t x
  clear_value a
  unfold z R' Num.fsqrt
  rcases a with sn | neg | ⟨neg, n, d⟩
  · refine ⟨hb.nan_lt, ?_, by simp, by simp, by simp, by simp, by simp⟩
    rintro sn' ⟨⟩
    cases sn
    · exact ⟨rfl, (raise_zero _).symm⟩
    · exact ⟨rfl, rfl⟩
  · cases neg
    · dsimp only
      rw [ht.round_inf R false, ← hinf rfl]
      exact ⟨hx, by simp, by simp, by simp, by simp, by simp, by simp⟩
    · exact ⟨hb.nan_lt, by simp, by simp, fun _ => ⟨rfl, rfl⟩, by simp, by simp, by simp⟩
  · have hd : 0 < d := hproper _ _ _ rfl
    dsimp only
    cases n with
    | zero =>
      have hround : Num.round t 0 R (.fin neg 0 d) = (x, R.step) := by rw [hzero neg d rfl]; rfl
      rw [if_pos rfl, hround]
      exact ⟨hx, by simp, by simp, by simp, by simp, by simp, by simp⟩
    | succ n =>
      rw [if_neg n.succ_ne_zero]
      cases neg
      · rw [if_neg Bool.false_ne_true]
        obtain ⟨s, hs, hroot⟩ := sqrtFrac_spec n.succ_pos hd
        have hlarge : 2 ^ 140 ≤ s := le_trans (Nat.pow_le_pow_right two_pos (by omega)) hs
        have hs0 : 0 < s := (Nat.two_pow_pos 140).trans_le hlarge
        have hD : 0 < d * 2 ^ (140 + Nat.log2 d) := by positivity
        have hq : q (.fin false (n + 1) d) = (n + 1 : ℕ) / d := by simp [q_fin, signOf]
        obtain ⟨hw, hv⟩ | ⟨hw, hlow, hhigh⟩ := hroot
        · rw [show Num.sqrtFrac (n + 1) d = _ from hw]
          have happrox : ∀ D, Num.roundApprox t 0 R false s D true = Num.roundMag t 0 R.step false s D true := fun D => if_neg hs0.ne'
          dsimp only
          rw [happrox]
          refine ⟨hb.roundMag_lt _ _ _ _ _ _, by simp, by simp, by simp, by simp, by simp, ?_⟩
          rintro _ _ ⟨⟩
          exact ⟨s, _, true, hD, rfl, fun _ => hv.trans hq.symm, fun h => nomatch h⟩
        · rw [show Num.sqrtFrac (n + 1) d = _ from hw]
          have happrox : ∀ D, Num.roundApprox t 0 R false (2 * s + 1) D false = Num.roundMag t 0 R.step false (2 * s + 1) D false := fun D => if_neg (Nat.succ_ne_zero _)
          dsimp only
          rw [happrox]
          refine ⟨hb.roundMag_lt _ _ _ _ _ _, by simp, by simp, by simp, by simp, by simp, ?_⟩
          rintro _ _ ⟨⟩
          exact ⟨_, _, false, Nat.mul_pos two_pos hD, rfl, fun h => (nomatch h), fun _ => hq ▸ sqrt_middle hlarge hD hlow hhigh⟩
      · rw [if_pos rfl]
        exact ⟨hb.nan_lt, by simp, by simp, by simp, by simp, fun _ _ _ => ⟨rfl, rfl⟩, by simp⟩

theorem rcp_row {t : Num.Fmt} (hb : BitsFit t) (R : Num.Rnd) {a : Num.Val} (ha : Proper a) : let z := (Num.frcp t R a).1; let R' := (Num.frcp t R a).2
    z < 2 ^ t.width ∧ Special t R a (infOf t false, 2) (infOf t true, 2) (0, 0) (2 ^ (t.e + t.f), 0) none z R' ∧
    ∀ neg n d, a = .fin neg (n + 1) d → TwoStep t R neg (1 / (q a) ^ 2) z R' := by
  intro z R'
  unfold z R' Num.frcp Special
  rcases a with sn | neg | ⟨neg, n, d⟩
  · refine ⟨hb.nan_lt, ⟨?_, by simp, by simp, by simp, by simp, by simp⟩, by simp⟩
    rintro sn' ⟨⟩
    cases sn
    · exact ⟨rfl, (raise_zero _).symm⟩
    · exact ⟨rfl, rfl⟩
  · cases neg
    · exact ⟨withSign_lt _ (by positivity), ⟨by simp, by simp, by simp, by simp [Num.withSign, raise_zero], by simp, by simp⟩, by simp⟩
    · exact ⟨withSign_lt _ (by positivity), ⟨by simp, by simp, by simp, by simp, by simp [Num.withSign, raise_zero], by simp⟩, by simp⟩
  · have hd : 0 < d := ha _ _ _ rfl
    dsimp only
    cases n with
    | zero =>
      rw [if_pos rfl]
      exact ⟨withSign_lt _ (infinity_lt t), ⟨by simp, by simp +contextual [infOf, Num.DZ], by simp +contextual [infOf, Num.DZ], by simp, by simp, by simp⟩, by simp⟩
    | succ n =>
      rw [if_neg n.succ_ne_zero]
      refine ⟨hb.approx_lt _ _ _ _ _, ⟨by simp, by simp, by simp, by simp, by simp, by simp⟩, ?_⟩
      rintro _ _ _ ⟨⟩
      have hsq : 1 / (q (.fin neg (n + 1) d)) ^ 2 = ((d : ℚ) / (n + 1 : ℕ)) ^ 2 := by
        rw [q_fin, mul_pow, pow_two (signOf neg), signOf_mul_self, one_mul, one_div, ← inv_pow, inv_div]
      rw [hsq]
      exact twoStep_approx_fraction R neg hd n.succ_pos

theorem rsq_row {t : Num.Fmt} (hf : t.f ≤ 52) (hb : BitsFit t) (R : Num.Rnd) {a : Num.Val} (ha : Proper a) :
    let z := (Num.frsq t R a).1; let R' := (Num.frsq t R a).2
    z < 2 ^ t.width ∧ Special t R a (infOf t false, 2) (infOf t true, 2) (0, 0) (Num.canonNaN t, 1) (some (Num.canonNaN t, 1)) z R' ∧
    ∀ n d, a = .fin false (n + 1) d → TwoStep t R false (1 / q a) z R' := by
  intro z R'
  unfold z R' Num.frsq Special
  rcases a with sn | neg | ⟨neg, n, d⟩
  · refine ⟨hb.nan_lt, ⟨?_, by simp, by simp, by simp, by simp, by simp⟩, by simp⟩
    rintro sn' ⟨⟩
    cases sn
    · exact ⟨rfl, (raise_zero _).symm⟩
    · exact ⟨rfl, rfl⟩
  · cases neg
    · exact ⟨by positivity, ⟨by simp, by simp, by simp, by simp [raise_zero], by simp, by simp⟩, by simp⟩
    · exact ⟨hb.nan_lt, ⟨by simp, by simp, by simp, by simp, by simp [Num.NV], by simp⟩, by simp⟩
  · have hd : 0 < d := ha _ _ _ rfl
    dsimp only
    cases n with
    | zero =>
      rw [if_pos rfl]
      exact ⟨withSign_lt _ (infinity_lt t), ⟨by simp, by simp +contextual [infOf, Num.DZ], by simp +contextual [infOf, Num.DZ], by simp, by simp, by simp⟩, by simp⟩
    | succ n =>
      rw [if_neg n.succ_ne_zero]
      cases neg
      · rw [if_neg Bool.false_ne_true]
        refine ⟨hb.approx_lt _ _ _ _ _, ⟨by simp, by simp, by simp, by simp, by simp, by simp⟩, ?_⟩
        rintro _ _ ⟨⟩
        have hv : 1 / q (.fin false (n + 1) d) = (d : ℚ) / (n + 1 : ℕ) := by simp [q_fin, signOf]
        rw [hv]
        exact twoStep_sqrtFrac hf R false hd n.succ_pos
      · rw [if_pos rfl]
        exact ⟨hb.nan_lt, ⟨by simp, by simp, by simp, by simp, by simp, by simp [Num.NV]⟩, by simp⟩

theorem exp2_row {t : Num.Fmt} (ht : Ieee t) (hbias : t.bias ≤ 2 ^ 12) (hb : BitsFit t) (R : Num.Rnd) {a : Num.Val} (ha : Proper a) :
    let z := (Num.fexp2 t R a).1; let R' := (Num.fexp2 t R a).2; let one := t.bias * 2 ^ t.f
    z < 2 ^ t.width ∧ Special t R a (one, 0) (one, 0) (infOf t false, 0) (0, 0) none z R' ∧
    ∀ neg n d, ∀ k : ℤ, a = .fin neg (n + 1) d → q a = k → 1 - (t.bias : ℤ) ≤ k → k ≤ t.bias →
      (z : ℤ) = (k + t.bias) * 2 ^ t.f ∧ R' = R.step := by
  intro z R' one
  rcases a with sn | neg | ⟨neg, n, d⟩
  · refine ⟨hb.nan_lt, ⟨?_, by simp, by simp, by simp, by simp, by simp⟩, by simp⟩
    rintro sn' ⟨⟩
    cases sn
    · exact ⟨rfl, (raise_zero _).symm⟩
    · exact ⟨rfl, rfl⟩
  · cases neg
    · exact ⟨withSign_lt _ (infinity_lt t), ⟨by simp, by simp, by simp, fun _ => Prod.ext rfl (raise_zero _).symm, by simp, by simp⟩, by simp⟩
    · exact ⟨Nat.two_pow_pos _, ⟨by simp, by simp, by simp, by simp, fun _ => Prod.ext rfl (raise_zero _).symm, by simp⟩, by simp⟩
  · have hd : 0 < d := ha _ _ _ rfl
    have hlt : z < 2 ^ t.width := by
      unfold z Num.fexp2
      dsimp only
      exact ite_fst_lt (ite_fst_lt (hb.approx_lt _ _ _ _ _) (hb.approx_lt _ _ _ _ _)) (hb.approx_lt _ _ _ _ _)
    have hone : n = 0 → (z, R') = (one, R.step.raise 0) := by
      rintro rfl
      have h := ht.fexp2_exact R (neg := neg) hd (k := 0) (by rw [q_fin_zero, Int.cast_zero]) (by have := ht.pos; omega) (by omega) hbias
      rw [zero_add, Int.toNat_natCast] at h
      rw [raise_zero]
      exact h
    refine ⟨hlt, ⟨by simp, ?_, ?_, by simp, by simp, by simp⟩, ?_⟩
    · rintro _ ⟨⟩
      exact hone rfl
    · rintro _ ⟨⟩
      exact hone rfl
    · rintro _ n _ k ⟨⟩ hq hlo hhi
      have h := ht.fexp2_exact R hd hq hlo hhi hbias
      obtain ⟨j, hj⟩ := Int.eq_ofNat_of_zero_le (show 0 ≤ k + t.bias by omega)
      have hz : z = j * 2 ^ t.f := by
        unfold z
        rw [h, hj]
        rfl
      refine ⟨by rw [hz, hj]; push_cast; rfl, congrArg Prod.snd h⟩

theorem log2_row {t : Num.Fmt} (ht : Ieee t) (hf : t.f ≤ t.bias) (hbits : t.bias + t.f ≤ 2 ^ (t.f + 1)) (hb : BitsFit t) {x : ℕ}
    (hx : x < 2 ^ t.width) (R : Num.Rnd) : let a := Num.decode t x; let z := (Num.flog2 t R a).1; let R' := (Num.flog2 t R a).2
    z < 2 ^ t.width ∧ Special t R a (infOf t true, 2) (infOf t true, 2) (infOf t false, 0) (Num.canonNaN t, 1) (some (Num.canonNaN t, 1)) z R' ∧
    ∀ n d, ∀ k : ℤ, a = .fin false (n + 1) d → q a = 2 ^ k → qOf t z = k ∧ R' = R.step := by
  intro a z R'
  have ha : Proper a := proper_decode t x
  have hrange : ∀ n d, ∀ k : ℤ, a = .fin false (n + 1) d → q a = 2 ^ k → k.natAbs < 2 ^ (t.f + 1) := fun n d k h hk => by
    obtain ⟨hlow, hhigh⟩ := ht.log_range hx h hk
    have := ht.frac
    unfold minExp at hlow
    omega
  clear_value a
  rcases a with sn | neg | ⟨neg, n, d⟩
  · refine ⟨hb.nan_lt, ⟨?_, by simp, by simp, by simp, by simp, by simp⟩, by simp⟩
    rintro sn' ⟨⟩
    cases sn
    · exact ⟨rfl, (raise_zero _).symm⟩
    · exact ⟨rfl, rfl⟩
  · cases neg
    · exact ⟨withSign_lt _ (infinity_lt t), ⟨by simp, by simp, by simp, fun _ => Prod.ext rfl (raise_zero _).symm, by simp, by simp⟩, by simp⟩
    · exact ⟨hb.nan_lt, ⟨by simp, by simp, by simp, by simp, fun _ => rfl, by simp⟩, by simp⟩
  · have hd : 0 < d := ha _ _ _ rfl
    cases n with
    | zero =>
      have hz : Num.flog2 t R (.fin neg 0 d) = (infOf t true, R.step.raise 2) := rfl
      have hz1 : z = infOf t true := congrArg Prod.fst hz
      have hz2 : R' = R.step.raise 2 := congrArg Prod.snd hz
      rw [hz1, hz2]
      exact ⟨withSign_lt _ (infinity_lt t), ⟨by simp, fun _ _ => rfl, fun _ _ => rfl, by simp, by simp, by simp⟩, by simp⟩
    | succ n =>
      cases neg
      · have hlt : z < 2 ^ t.width := by
          unfold z Num.flog2
          dsimp only
          rw [if_neg n.succ_ne_zero, if_neg Bool.false_ne_true]
          exact ite_fst_lt (ite_fst_lt (Nat.two_pow_pos _) (hb.approx_lt _ _ _ _ _)) (ite_fst_lt (hb.approx_lt _ _ _ _ _) (hb.approx_lt _ _ _ _ _))
        refine ⟨hlt, ⟨by simp, by simp, by simp, by simp, by simp, by simp⟩, ?_⟩
        rintro _ _ k ⟨⟩ hk
        exact ht.flog2_exact R hd hk (hrange _ _ k rfl hk) hf
      · have hz : Num.flog2 t R (.fin true (n + 1) d) = (Num.canonNaN t, R.step.raise 1) := rfl
        have hz1 : z = Num.canonNaN t := congrArg Prod.fst hz
        have hz2 : R' = R.step.raise 1 := congrArg Prod.snd hz
        rw [hz1, hz2]
        exact ⟨hb.nan_lt, ⟨by simp, by simp, by simp, by simp, by simp, by simp⟩, by simp⟩

end Sys2Proof.Claim

namespace Sys2Proof.Claim

open Sys2Proof Sys2Proof.Machine

/-- A two-operand node's exact value, rounded once (R193). -/
theorem floatGives_bin {i : NodeBody → Instr} (opc : ℕ) {Exact : ℕ → Num.Val → Num.Val → Num.Val → ℕ → Prop}
    (value : ℕ → Num.Val → Num.Val → Num.Val × ℕ) (hvalue : ∀ mode a c, Proper a → Proper c → Exact mode a c (value mode a c).1 (value mode a c).2)
    (hopc : ∀ t R x y, Num.fbin t opc R x y = Num.round t 0 (R.raise (value R.mode (Num.decode t x) (Num.decode t y)).2)
      (value R.mode (Num.decode t x) (Num.decode t y)).1 := by intros; rfl)
    (hi : ∀ n s, exec (i n) s = s.fire n (fun a => elementwise a (fun j r => Num.fbin (Num.fmtOf a.n.fmt.toNat) opc r
      (elem a.l.val (NodeCheck.width a.n.fmt.toNat) j) (elem a.r.val (NodeCheck.width a.n.fmt.toNat) j))) := by intros; rfl)
    (hne : ∀ n, i n ≠ .nFfma n := by intro n h; cases h) :
    FloatGives i 11 (fun _ t x y _ R z R' => ∃ v f, Exact R.mode (Num.decode t x) (Num.decode t y) v f ∧ Rounds t R f v z R') := by
  refine floatGives_of (fun t R x y => Num.fbin t opc R x y) (fun k x y R _ _ => ?_) le_rfl hi hne
  intro t hx hy
  rw [hopc]
  exact ⟨(bitsFit_fmtOf k).round_lt _ _ _, fun _ _ => ⟨_, _, hvalue _ _ _ (proper_decode t x) (proper_decode t y), rfl⟩⟩

/-- FMIN and FMAX (R194). -/
theorem pick_row (k : ℕ) (isMax : Bool) {x y : ℕ} (R : Num.Rnd) : let t := Num.fmtOf k
    x < 2 ^ t.width → y < 2 ^ t.width → (Num.fminmax t isMax x y).1 < 2 ^ t.width ∧
      ∃ f, PickOf t isMax x y (Num.fminmax t isMax x y).1 f ∧ R.raise (Num.fminmax t isMax x y).2 = R.raise f :=
  fun hx hy => ⟨(bitsFit_fmtOf k).fminmax_lt isMax hx hy, _, pickOf_fminmax _ _ _ _, rfl⟩

/-- FSGN (R194). -/
theorem sgn_row (k : ℕ) {x y : ℕ} : let t := Num.fmtOf k; let z := Num.fsgn t x y
    z.1 < 2 ^ t.width ∧ z.2 = nv (Num.decode t x) (Num.decode t y) ∧ ((Num.decode t x).isNan = true → z.1 = Num.canonNaN t) ∧
    ((Num.decode t x).isNan = false → z.1 % 2 ^ (t.e + t.f) = x % 2 ^ (t.e + t.f) ∧ z.1.testBit (t.e + t.f) = y.testBit (t.e + t.f)) := by
  intro t z
  cases hnan : (Num.decode t x).isNan with
  | true =>
    have hz : z = (Num.canonNaN t, nv (Num.decode t x) (Num.decode t y)) := by
      unfold z Num.fsgn
      exact if_pos hnan
    rw [hz]
    exact ⟨(bitsFit_fmtOf k).nan_lt, rfl, fun _ => rfl, fun h => nomatch h⟩
  | false =>
    have hz : z.2 = nv (Num.decode t x) (Num.decode t y) := by
      unfold z Num.fsgn
      dsimp only
      rw [hnan]
      rfl
    obtain ⟨hlt, hval⟩ := fsgn_value (y := y) hnan
    exact ⟨hlt, hz, fun h => absurd h Bool.false_ne_true, fun _ => hval⟩

theorem fmtOf_small {k : ℕ} (h8 : 8 ≤ k) (h11 : k ≤ 11) : (Num.fmtOf k).f ≤ 52 ∧ (Num.fmtOf k).bias ≤ 2 ^ 12 ∧ (Num.fmtOf k).f ≤ (Num.fmtOf k).bias := by
  interval_cases k <;> decide

theorem fmtOf_log_bits {k : ℕ} (h8 : 8 ≤ k) (h10 : k ≤ 10) : (Num.fmtOf k).bias + (Num.fmtOf k).f ≤ 2 ^ ((Num.fmtOf k).f + 1) := by
  interval_cases k <;> decide

end Sys2Proof.Claim

namespace Sys2Proof

open Machine Claim

/-- Settles O31: every floating-point node is an element-wise node that threads the rounding state. Its exact sum, product or quotient
is rounded once; the reciprocals are cut first; and a value of the type is rounded to itself, which gives the exact results of FEXP2
and FLOG2. -/
theorem floatNodesRoundOnce : Obligations.FloatNodesRoundOnce := by
  unfold Obligations.FloatNodesRoundOnce
  refine ⟨?add, ?sub, ?mul, ?div, ?fma, ?min, ?max, ?sgn, ?sqrt, ?rcp, ?rsq, ?exp2, ?log2⟩
  case add => exact floatGives_bin 0x20 Num.add fun _ _ _ ha hc => sumOf_add _ ha hc
  case sub => exact floatGives_bin 0x21 (fun mode a c => Num.add mode a c.negate) fun _ _ _ ha hc => sumOf_add _ ha hc.negate
  case mul => exact floatGives_bin 0x22 (Exact := fun _ => ProductOf) (fun _ => Num.mul) fun _ _ _ ha hc => productOf_mul ha hc
  case div => exact floatGives_bin 0x2A (Exact := fun _ => QuotientOf) (fun _ => Num.div) fun _ _ _ ha hc => quotientOf_div ha hc
  case fma =>
    refine floatGives_ffma fun n k x y w R => ?_
    intro t
    have hp := proper_mul (proper_decode t x) (proper_decode t y)
    have hc := proper_decode t w
    refine ⟨_, _, _, _, productOf_mul (proper_decode t x) (proper_decode t y), sumOf_add R.mode hp hc, ?_⟩
    unfold Rounds
    rw [← ffma_flags hp hc]
    rfl
  case min =>
    refine floatGives_of (fun t R x y => ((Num.fminmax t false x y).1, R.raise (Num.fminmax t false x y).2)) fun k x y R _ _ hx hy => ?_
    exact (pick_row k false R hx hy).imp_right fun h _ _ => h
  case max =>
    refine floatGives_of (fun t R x y => ((Num.fminmax t true x y).1, R.raise (Num.fminmax t true x y).2)) fun k x y R _ _ hx hy => ?_
    exact (pick_row k true R hx hy).imp_right fun h _ _ => h
  case sgn =>
    refine floatGives_of (fun t R x y => ((Num.fsgn t x y).1, R.raise (Num.fsgn t x y).2)) fun k x y R _ _ _ _ => ?_
    obtain ⟨hlt, hflag, hval⟩ := sgn_row k (x := x) (y := y)
    exact ⟨hlt, fun _ _ => ⟨congrArg R.raise hflag, hval⟩⟩
  case sqrt =>
    refine floatGives_of (fun t R x _ => Num.fsqrt t R (Num.decode t x)) fun k x _ R h8 h11 hx _ => ?_
    exact (sqrt_row (ieee_fmtOf h8 h11) (bitsFit_fmtOf k) hx R).imp_right fun h _ _ => h
  case rcp =>
    refine floatGives_of (fun t R x _ => Num.frcp t R (Num.decode t x)) fun k x _ R _ _ _ _ => ?_
    exact (rcp_row (bitsFit_fmtOf k) R (proper_decode _ x)).imp_right fun h _ _ => h
  case rsq =>
    refine floatGives_of (fun t R x _ => Num.frsq t R (Num.decode t x)) fun k x _ R h8 h11 _ _ => ?_
    exact (rsq_row (fmtOf_small h8 h11).1 (bitsFit_fmtOf k) R (proper_decode _ x)).imp_right fun h _ _ => h
  case exp2 =>
    refine floatGives_of (fun t R x _ => Num.fexp2 t R (Num.decode t x)) fun k x _ R h8 h10 _ _ => ?_
    have h11 : k ≤ 11 := by omega
    exact (exp2_row (ieee_fmtOf h8 h11) (fmtOf_small h8 h11).2.1 (bitsFit_fmtOf k) R (proper_decode _ x)).imp_right fun h _ _ => h
  case log2 =>
    refine floatGives_of (fun t R x _ => Num.flog2 t R (Num.decode t x)) fun k x _ R h8 h10 hx _ => ?_
    have h11 : k ≤ 11 := by omega
    obtain ⟨-, -, hf⟩ := fmtOf_small h8 h11
    exact (log2_row (ieee_fmtOf h8 h11) hf (fmtOf_log_bits h8 h10) (bitsFit_fmtOf k) hx R).imp_right fun h _ _ => h

end Sys2Proof

namespace Sys2Proof.Claim

open Sys2Proof Sys2Proof.Machine

/-! Results that are not element-wise: their lanes, the elements within a lane word, and what a fold over the elements collects. -/

/-- The result of computed lanes V of which those of m are live (R15, R188). -/
theorem blends_of_mask (a : Fire) (V : Vec) {m : Mask} {live : ℕ → Prop} (hm : ∀ i < 16, m.getLsbD i = true ↔ live i) :
    Blends a live V (a.finish V m).1 (a.finish V m).2 := by
  intro i hi
  have hon := on_iff a i hi
  have hlive := hm i hi
  have hV : lane V i < 4294967296 := lane_lt V i
  have hl : lane a.l.val i < 4294967296 := lane_lt a.l.val i
  unfold Passes Fire.finish
  by_cases hg : (a.n.gate && a.n.hasP) = true
  · obtain ⟨hgate, -⟩ := (Bool.and_eq_true _ _).mp hg
    have hlane := lane_mkVec (fun i => if a.on.getLsbD i then (if m.getLsbD i then lane V i else 0)
      else if a.l.mask.getLsbD i then lane a.l.val i else 0) i hi
    rw [if_pos hg]
    dsimp only at hlane ⊢
    rw [hlane, BitVec.getLsbD_or, BitVec.getLsbD_and, BitVec.getLsbD_and, BitVec.getLsbD_not, ← hon, ← hlive, hgate]
    cases a.on.getLsbD i <;> cases m.getLsbD i <;> cases a.l.mask.getLsbD i <;> simp [hi, hV, hl]
  · have hP : a.n.gate = true → On a i := fun hgate hP => absurd (by rw [hgate, hP]; rfl) hg
    rw [if_neg hg, lane_zeroOff V m i hi, ← hlive]
    exact ⟨fun h => absurd (hP h.1) h.2, fun _ => ⟨Iff.rfl, fun h => if_pos h, fun h => if_neg h⟩⟩

/-- A node that takes no rounding step, by its result. -/
theorem firesWith_of {i : NodeBody → Instr} {n : NodeBody} {kind : BitVec 4} {result : State → Fire → Vec → Mask → Prop}
    (compute : NodeBody → Fire → Fired) (hi : ∀ s, exec (i n) s = s.fire n (compute n))
    (h : ∀ s a, a.n = n → let o := compute n a; o.kind = kind ∧ o.rnd = a.rnd ∧ o.pend = [] ∧ result s a o.val o.mask) : FiresWith i n kind result := by
  intro s a hready
  have hfires := fires_of_compute hready (hi s)
  obtain ⟨-, -, -, -, -, hn, -, -, -, -, -, -, -, hrnd⟩ := ready_spec hready.1
  obtain ⟨hkind, hR, hpend, hresult⟩ := h s a hn
  rw [hkind, hR, hpend, hrnd] at hfires
  exact ⟨_, _, hfires, hresult⟩

/-- The state that a run of steps over 0, 1, … has reached before each. -/
def threaded {α σ : Type} (f : σ → ℕ → α × σ) (s : σ) : ℕ → σ
  | 0 => s
  | k + 1 => (f (threaded f s k) k).2

/-- A fold that collects a result at each step. -/
theorem foldl_collect {α σ : Type} {g : List α × σ → ℕ → List α × σ} (f : σ → ℕ → α × σ)
    (hg : ∀ l s j, g (l, s) j = (l ++ [(f s j).1], (f s j).2)) (s : σ) (k : ℕ) :
    (List.range k).foldl g ([], s) = ((List.range k).map (fun j => (f (threaded f s j) j).1), threaded f s k) := by
  induction k with
  | zero => rfl
  | succ k ih => rw [List.range_succ, List.foldl_append, ih, List.map_append, List.foldl_cons, List.foldl_nil, hg]; rfl

/-- A list of pairs of bits, laid out. -/
theorem getElem_flatMap_pair {α : Type} (p q : α → Bool) (l : List α) (i : ℕ) :
    (l.flatMap fun x => [p x, q x])[i]?.getD false = ((l[i / 2]?).map (if i % 2 = 0 then p else q)).getD false := by
  induction l generalizing i with
  | nil => simp
  | cons x l ih =>
    match i with
    | 0 => rfl
    | 1 => rfl
    | i + 2 =>
      have h := ih i
      rw [show (i + 2) / 2 = i / 2 + 1 by omega, Nat.add_mod_right, List.getElem?_cons_succ, ← h]
      rfl

theorem getLsbD_mkMask_pairs {α : Type} (p q : α → Bool) (l : List α) {i : ℕ} (hi : i < 16) :
    (mkMask (l.flatMap fun x => [p x, q x])).getLsbD i = ((l[i / 2]?).map (if i % 2 = 0 then p else q)).getD false := by
  rw [getLsbD_mkMask _ _ hi, getElem_flatMap_pair]

/-! Elements of a lane word. -/

/-- The widths of elements that share a lane word. -/
theorem narrow_width {fmt : ℕ} (h : NodeCheck.width fmt < 32) :
    NodeCheck.width fmt = 2 ∨ NodeCheck.width fmt = 4 ∨ NodeCheck.width fmt = 8 ∨ NodeCheck.width fmt = 16 := by
  unfold NodeCheck.width at *
  split at h <;> omega

/-- An element that shares its lane word with others. -/
theorem elem_eq_lane {b n : ℕ} (hbn : b * n = 32) (V : Vec) (w : ℕ) {t : ℕ} (ht : t < n) : elem V b (w * n + t) = lane V w / 2 ^ (b * t) % 2 ^ b := by
  have hle : b * t + b ≤ 32 := by
    rw [← hbn, ← Nat.mul_succ]
    exact Nat.mul_le_mul_left b ht
  have hpos : b * (w * n + t) = 32 * w + b * t := by rw [← hbn]; ring
  unfold lane elem
  rw [hpos]
  refine Nat.eq_of_testBit_eq fun i => ?_
  rw [Nat.testBit_mod_two_pow, Nat.testBit_div_two_pow, Nat.testBit_mod_two_pow, Nat.testBit_div_two_pow, Nat.testBit_mod_two_pow, Nat.testBit_div_two_pow]
  by_cases hi : i < b
  · rw [show i + b * t < 32 by omega |> decide_eq_true, Bool.true_and]
    congr 2
    omega
  · simp [hi]

/-- Lane words with the same elements are the same. -/
theorem lane_eq_of_elems {b n : ℕ} (hbn : b * n = 32) {V W : Vec} {w : ℕ} (h : ∀ t < n, elem V b (w * n + t) = elem W b (w * n + t)) : lane V w = lane W w := by
  have hb : 0 < b := Nat.pos_of_ne_zero fun h0 => by rw [h0, Nat.zero_mul] at hbn; cases hbn
  have hbits : ∀ (X : Vec) (i : ℕ), i < 32 → (lane X w).testBit i = (elem X b (w * n + i / b)).testBit (i % b) := fun X i hi => by
    rw [elem_eq_lane hbn X w (Nat.div_lt_of_lt_mul (hbn ▸ hi)), testBit_mod (Nat.mod_lt _ hb), Nat.testBit_div_two_pow, Nat.mod_add_div]
  refine Nat.eq_of_testBit_eq fun i => ?_
  by_cases hi : i < 32
  · rw [hbits V i hi, hbits W i hi, h _ (Nat.div_lt_of_lt_mul (hbn ▸ hi))]
  · have hpow : 2 ^ 32 ≤ 2 ^ i := Nat.pow_le_pow_right two_pos (by omega)
    rw [Nat.testBit_lt_two_pow ((lane_lt V w).trans_le hpow), Nat.testBit_lt_two_pow ((lane_lt W w).trans_le hpow)]

/-- The lane word that holds a narrow element: the element's own bits, and copies of its sign or zeros (R187). -/
theorem unpackWord_spec {fmt x : ℕ} (hb : NodeCheck.width fmt < 32) (hx : x < 2 ^ NodeCheck.width fmt) : let b := NodeCheck.width fmt
    unpackWord fmt x < 2 ^ 32 ∧ unpackWord fmt x % 2 ^ b = x ∧
    (unpackWord fmt x : ℤ) = (if fmt < 4 then (BitVec.ofNat b x).toInt else x) % 2 ^ 32 := by
  intro b
  have hpow : 2 ^ b ≤ 2 ^ 32 := Nat.pow_le_pow_right two_pos hb.le
  unfold unpackWord
  by_cases hs : fmt < 4
  · have hval : (Num.ofInt 32 (Num.toInt b x) : ℤ) = (BitVec.ofNat b x).toInt % 2 ^ 32 := by rw [cast_numOfInt, numToInt_eq]
    rw [if_pos ⟨hb, hs⟩, if_pos hs]
    refine ⟨by rw [← ofInt_mod]; exact Nat.mod_lt _ (Nat.two_pow_pos 32), ?_, hval⟩
    have hdvd : (2 : ℤ) ^ b ∣ 2 ^ 32 := pow_dvd_pow 2 hb.le
    have hx' : ((x : ℕ) : ℤ) < 2 ^ b := by exact_mod_cast hx
    zify
    rw [hval, Int.emod_emod_of_dvd _ hdvd, BitVec.toInt_eq_toNat_bmod, BitVec.toNat_ofNat, Nat.mod_eq_of_lt hx]
    have hmod : ((x : ℤ).bmod (2 ^ b)) % ((2 ^ b : ℕ) : ℤ) = x % (2 ^ b : ℕ) := Int.bmod_emod
    rw [Nat.cast_pow, Nat.cast_ofNat, Int.emod_eq_of_lt (by positivity) hx'] at hmod
    exact hmod
  · rw [if_neg (fun h => hs h.2), if_neg hs, Nat.mod_eq_of_lt hx]
    refine ⟨hx.trans_le hpow, Nat.mod_eq_of_lt hx, (Int.emod_eq_of_lt (by positivity) ?_).symm⟩
    exact_mod_cast hx.trans_le hpow

end Sys2Proof.Claim

namespace Sys2Proof.Claim

open Sys2Proof Sys2Proof.Machine

/-! Lane movement (R189, R202). -/

theorem laneBit_eq (b : ℕ) (m : Mask) (j : ℕ) : laneBit b m j = m.getLsbD (wordOf b j) := rfl

theorem wordOf_lt {b j : ℕ} (hb : b = 32 ∨ b = 64) (hj : j < 512 / b) : wordOf b j < 16 := by
  unfold wordOf
  obtain rfl | rfl := hb
  · rw [if_neg (by decide)]; omega
  · rw [if_pos rfl]; omega

/-- The element of a 32-bit or 64-bit FMT that lane word i belongs to. -/
theorem element_of_word {b i : ℕ} (hb : b = 32 ∨ b = 64) (hi : i < 16) : i * 32 / b < 512 / b := by
  obtain rfl | rfl := hb <;> omega

theorem source_iff (a : Fire) {b j : ℕ} (hb : b = 32 ∨ b = 64) (hj : j < 512 / b) : laneBit b (a.l.mask &&& a.on) j = true ↔ Source a b j := by
  unfold Source
  rw [laneBit_eq, BitVec.getLsbD_and, Bool.and_eq_true, on_iff a _ (wordOf_lt hb hj)]

/-- A mask made of the bits of its elements. -/
theorem getLsbD_elemMask {b : ℕ} (hb : b = 32 ∨ b = 64) (f : ℕ → Bool) {i : ℕ} (hi : i < 16) :
    (mkMask (if b = 64 then (List.range 8).flatMap (fun i => [f i, f i]) else (List.range 16).map f)).getLsbD i = f (i * 32 / b) := by
  obtain rfl | rfl := hb
  · rw [if_neg (by decide), getLsbD_mkMask_map _ _ hi, Nat.mul_div_cancel _ (by decide)]
  · rw [if_pos rfl, getLsbD_mkMask_pairs _ _ _ hi, ite_self, List.getElem?_range (by omega), show i * 32 / 64 = i / 2 by omega]
    rfl

/-- Element i of a lane movement's result is live. -/
def movedOn (a : Fire) (src : ℕ → ℕ) (more : ℕ → Bool) (i : ℕ) : Bool :=
  let b := NodeCheck.width a.n.fmt.toNat
  laneBit b (a.l.mask &&& a.on) (src i) && more i && laneBit b a.on i

theorem moves_moveNode (s : State) (a : Fire) (src : NodeBody → Fire → ℕ → ℕ) (extra : NodeBody → Fire → ℕ → Prop) (more : ℕ → Bool)
    (hb : NodeCheck.width a.n.fmt.toNat = 32 ∨ NodeCheck.width a.n.fmt.toNat = 64)
    (hsrc : ∀ i < 512 / NodeCheck.width a.n.fmt.toNat, src a.n a i < 512 / NodeCheck.width a.n.fmt.toNat)
    (hmore : ∀ i < 512 / NodeCheck.width a.n.fmt.toNat, more i = true ↔ extra a.n a i) :
    let o := moveNode a (src a.n a) more
    o.kind = 0#4 ∧ o.rnd = a.rnd ∧ o.pend = [] ∧ Moves src extra s a o.val o.mask := by
  let b := NodeCheck.width a.n.fmt.toNat
  have hon : ∀ i < 512 / b, movedOn a (src a.n a) more i = true ↔ Source a b (src a.n a i) ∧ extra a.n a i ∧ On a (wordOf b i) := fun i hi => by
    unfold movedOn
    rw [Bool.and_eq_true, Bool.and_eq_true, source_iff a hb (hsrc i hi), hmore i hi, laneBit_eq, on_iff a _ (wordOf_lt hb hi), and_assoc]
  refine ⟨rfl, rfl, rfl, mkVec b ((List.range (512 / b)).map fun i => if movedOn a (src a.n a) more i then elem a.l.val b (src a.n a i) else 0), ?_, fun e he hl => ?_⟩
  · refine blends_of_mask a _ fun i hi => Iff.trans ?_ (hon _ (element_of_word hb hi))
    exact Eq.to_iff (congrArg (· = true) (getLsbD_elemMask hb (movedOn a (src a.n a) more) hi))
  · rw [elem_mkVec b _ e (by simpa using he) (by simpa using mul_div_width_le b), List.getElem_map, List.getElem_range, if_pos ((hon e he).mpr hl),
      Nat.mod_eq_of_lt (elem_lt _ _ _)]

/-! One ⊕ (R203). -/

theorem combine_combines (n : NodeBody) (R : Num.Rnd) {x y : ℕ} (hx : x < 2 ^ NodeCheck.width n.fmt.toNat)
    (hy : y < 2 ^ NodeCheck.width n.fmt.toNat) : let z := combine n.fmt.toNat (n.operand.toNat % 4) R x y
    Combines n x y R z.1 z.2 := by
  unfold Combines combine
  dsimp only
  split
  next hfmt =>
    have hmin := min_value n hx hy
    have hmax := max_value n hx hy
    dsimp only at hmin hmax
    rw [Nat.mod_eq_of_lt (by split <;> assumption)] at hmin hmax
    refine ⟨rfl, fun h => by rw [h]; rfl, fun h => ?_, fun h => ?_⟩
    · rw [h]; exact hmin
    · rw [h]; exact hmax
  next hfmt =>
    refine ⟨fun h => ?_, fun h => ?_⟩
    · rw [h]
      exact ⟨_, _, sumOf_add R.mode (proper_decode _ x) (proper_decode _ y), rfl⟩
    · obtain h | h := h
      · rw [h]; exact ⟨_, pickOf_fminmax _ false _ _, rfl⟩
      · rw [h]; exact ⟨_, pickOf_fminmax _ true _ _, rfl⟩

theorem combine_lt {fmt : ℕ} (hfmt : fmt < 15) (op : ℕ) (R : Num.Rnd) {x y : ℕ} (hx : x < 2 ^ NodeCheck.width fmt) (hy : y < 2 ^ NodeCheck.width fmt) :
    (combine fmt op R x y).1 < 2 ^ NodeCheck.width fmt := by
  unfold combine
  dsimp only
  split
  · split
    · exact Nat.mod_lt _ (by positivity)
    · split <;> assumption
    · split <;> assumption
  next h8 =>
    rw [width_fmtOf (not_lt.mp h8) (by omega)] at hx hy ⊢
    split
    · exact (bitsFit_fmtOf fmt).round_lt _ _ _
    · exact (bitsFit_fmtOf fmt).fminmax_lt _ hx hy
    · exact (bitsFit_fmtOf fmt).fminmax_lt _ hx hy

end Sys2Proof.Claim

namespace Sys2Proof.Claim

open Sys2Proof Sys2Proof.Machine

/-! The tree of R62, level by level (LRED, R203). -/

/-- A list of present or absent elements, by position. -/
def entryOf (l : List (Option ℕ)) (i : ℕ) : Option ℕ := (l[i]?).getD none

/-- Every element that is present fits the type. -/
def Bounded (b : ℕ) (l : List (Option ℕ)) : Prop := ∀ x, some x ∈ l → x < 2 ^ b

theorem Bounded.tail {b : ℕ} {x : Option ℕ} {l : List (Option ℕ)} (h : Bounded b (x :: l)) : Bounded b l := fun y hy => h y (List.mem_cons_of_mem _ hy)

theorem Bounded.cons {b : ℕ} {x : Option ℕ} {l : List (Option ℕ)} (hx : ∀ y, x = some y → y < 2 ^ b) (h : Bounded b l) : Bounded b (x :: l) :=
  fun y hy => (List.mem_cons.mp hy).elim (fun e => hx y e.symm) (h y)

theorem entryOf_cons (x : Option ℕ) (l : List (Option ℕ)) (i : ℕ) : entryOf (x :: l) (i + 1) = entryOf l i := by
  unfold entryOf
  rw [List.getElem?_cons_succ]

theorem entryOf_zero (x : Option ℕ) (l : List (Option ℕ)) : entryOf (x :: l) 0 = x := rfl

/-- The pair that stands first, and what remains of the level. -/
theorem level_cons {n : NodeBody} {w : ℕ} {x y z : Option ℕ} {l l' : List (Option ℕ)} {R R1 R' : Num.Rnd}
    (hboth : ∀ u v, x = some u → y = some v → ∃ c, z = some c ∧ Combines n u v R c R1)
    (hone : x = none ∨ y = none → z = x.or y ∧ R1 = R) (hrest : Level n w (entryOf l) (entryOf l') R1 R') :
    Level n (w + 1) (entryOf (x :: y :: l)) (entryOf (z :: l')) R R' := by
  obtain ⟨T, h0, hw, hpairs⟩ := hrest
  refine ⟨fun i => if i = 0 then R else T (i - 1), rfl, hw, fun i hi => ?_⟩
  cases i with
  | zero =>
    subst h0
    exact ⟨hboth, hone⟩
  | succ i =>
    rw [show 2 * (i + 1) = 2 * i + 1 + 1 by ring, entryOf_cons, entryOf_cons, entryOf_cons, entryOf_cons, entryOf_cons]
    exact hpairs i (by omega)

/-- One level of the tree. -/
theorem redLevel_spec (n : NodeBody) (hfmt : n.fmt.toNat < 15) (w : ℕ) : ∀ (l : List (Option ℕ)) (R : Num.Rnd), l.length = 2 * w →
    Bounded (NodeCheck.width n.fmt.toNat) l → let o := redLevel n.fmt.toNat (n.operand.toNat % 4) l R
    o.1.length = w ∧ Bounded (NodeCheck.width n.fmt.toNat) o.1 ∧ Level n w (entryOf l) (entryOf o.1) R o.2 := by
  induction w with
  | zero =>
    intro l R hl hb
    obtain rfl := List.length_eq_zero_iff.mp hl
    exact ⟨rfl, hb, fun _ => R, rfl, rfl, fun i hi => absurd hi i.not_lt_zero⟩
  | succ w ih =>
    intro l R hl hb
    match l, hl with
    | some x :: some y :: l, hl =>
      have hx : x < 2 ^ NodeCheck.width n.fmt.toNat := hb x List.mem_cons_self
      have hy : y < 2 ^ NodeCheck.width n.fmt.toNat := hb.tail y List.mem_cons_self
      obtain ⟨hlen, hbounded, hrest⟩ := ih l (combine n.fmt.toNat (n.operand.toNat % 4) R x y).2 (by simp at hl; omega) hb.tail.tail
      refine ⟨by rw [← hlen]; rfl, .cons ?_ hbounded, level_cons ?_ ?_ hrest⟩
      · rintro _ ⟨⟩
        exact combine_lt hfmt _ _ hx hy
      · rintro _ _ ⟨⟩ ⟨⟩
        exact ⟨_, rfl, combine_combines n R hx hy⟩
      · rintro (h | h) <;> cases h
    | some x :: none :: l, hl =>
      obtain ⟨hlen, hbounded, hrest⟩ := ih l R (by simp at hl; omega) hb.tail.tail
      exact ⟨by rw [← hlen]; rfl, .cons (fun y e => hb y (e ▸ List.mem_cons_self)) hbounded, level_cons (fun _ _ _ h => nomatch h) (fun _ => ⟨rfl, rfl⟩) hrest⟩
    | none :: y :: l, hl =>
      obtain ⟨hlen, hbounded, hrest⟩ := ih l R (by simp at hl; omega) hb.tail.tail
      exact ⟨by rw [← hlen]; rfl, .cons (fun z e => hb.tail z (e ▸ List.mem_cons_self)) hbounded, level_cons (fun _ _ h => nomatch h) (fun _ => ⟨rfl, rfl⟩) hrest⟩

/-- The elements that are left after some levels, and the rounding state. -/
def levels (fmt op : ℕ) (l : List (Option ℕ)) (R : Num.Rnd) : ℕ → List (Option ℕ) × Num.Rnd
  | 0 => (l, R)
  | k + 1 => redLevel fmt op (levels fmt op l R k).1 (levels fmt op l R k).2

theorem levels_succ (fmt op : ℕ) (l : List (Option ℕ)) (R : Num.Rnd) (k : ℕ) :
    levels fmt op l R (k + 1) = levels fmt op (redLevel fmt op l R).1 (redLevel fmt op l R).2 k := by
  induction k with
  | zero => rfl
  | succ k ih => rw [levels, ih, levels]

theorem redTree_eq (fmt op k : ℕ) : ∀ (l : List (Option ℕ)) (R : Num.Rnd),
    redTree fmt op k l R = (entryOf (levels fmt op l R k).1 0, (levels fmt op l R k).2) := by
  induction k with
  | zero => intro l R; cases l <;> rfl
  | succ k ih => intro l R; rw [redTree, levels_succ]; exact ih _ _

/-- The levels of a list of 2^top elements. -/
theorem levels_spec (n : NodeBody) (hfmt : n.fmt.toNat < 15) (R : Num.Rnd) {l : List (Option ℕ)} {top : ℕ} (hl : l.length = 2 ^ top)
    (hb : Bounded (NodeCheck.width n.fmt.toNat) l) (k : ℕ) (hk : k ≤ top) : let L := levels n.fmt.toNat (n.operand.toNat % 4) l R
    (L k).1.length = 2 ^ (top - k) ∧ Bounded (NodeCheck.width n.fmt.toNat) (L k).1 ∧
    (k < top → Level n (2 ^ top / 2 ^ (k + 1)) (entryOf (L k).1) (entryOf (L (k + 1)).1) (L k).2 (L (k + 1)).2) := by
  intro L
  have hstep : ∀ k, k < top → (L k).1.length = 2 ^ (top - k) → Bounded (NodeCheck.width n.fmt.toNat) (L k).1 →
      (L (k + 1)).1.length = 2 ^ (top - (k + 1)) ∧ Bounded (NodeCheck.width n.fmt.toNat) (L (k + 1)).1 ∧
      Level n (2 ^ (top - (k + 1))) (entryOf (L k).1) (entryOf (L (k + 1)).1) (L k).2 (L (k + 1)).2 := fun k hk hlen hbounded =>
    redLevel_spec n hfmt (2 ^ (top - (k + 1))) (L k).1 (L k).2 (by rw [hlen, ← pow_succ']; congr 1; omega) hbounded
  have hkeep : (L k).1.length = 2 ^ (top - k) ∧ Bounded (NodeCheck.width n.fmt.toNat) (L k).1 := by
    induction k with
    | zero => exact ⟨hl, hb⟩
    | succ k ih =>
      obtain ⟨hlen, hbounded⟩ := ih (by omega)
      exact (hstep k hk hlen hbounded).imp_right And.left
  refine ⟨hkeep.1, hkeep.2, fun hlt => ?_⟩
  rw [Nat.pow_div hlt two_pos]
  exact (hstep k hlt hkeep.1 hkeep.2).2.2

/-- A vector that holds one element. -/
theorem elem_ofNat {b z : ℕ} (hb : b ≤ 512) (hz : z < 2 ^ b) (e : ℕ) : elem (BitVec.ofNat 512 z) b e = if e = 0 then z else 0 := by
  unfold elem
  rw [BitVec.toNat_ofNat, Nat.mod_eq_of_lt (hz.trans_le (Nat.pow_le_pow_right two_pos hb))]
  split
  next h => rw [h, Nat.mul_zero, pow_zero, Nat.div_one, Nat.mod_eq_of_lt hz]
  next h => rw [Nat.div_eq_of_lt (hz.trans_le (Nat.pow_le_pow_right two_pos (Nat.le_mul_of_pos_right b (Nat.pos_of_ne_zero h)))), Nat.zero_mod]

/-- The elements of L that LRED and LSCAN take (R203). -/
def sources (a : Fire) : List (Option ℕ) :=
  let b := NodeCheck.width a.n.fmt.toNat
  (List.range (512 / b)).map fun j => if laneBit b (a.l.mask &&& a.on) j then some (elem a.l.val b j) else none

theorem entryOf_sources (a : Fire) {j : ℕ} (hj : j < 512 / NodeCheck.width a.n.fmt.toNat) : entryOf (sources a) j =
    if laneBit (NodeCheck.width a.n.fmt.toNat) (a.l.mask &&& a.on) j then some (elem a.l.val (NodeCheck.width a.n.fmt.toNat) j) else none := by
  unfold entryOf sources
  simp [hj]

theorem bounded_sources (a : Fire) : Bounded (NodeCheck.width a.n.fmt.toNat) (sources a) := by
  intro x hx
  obtain ⟨j, -, hj⟩ := List.mem_map.mp hx
  split at hj
  · cases hj
    exact elem_lt _ _ _
  · cases hj

theorem lredNode_of_tree (a : Fire) {o : Option ℕ} {R : Num.Rnd} (h : redTree a.n.fmt.toNat (a.n.operand.toNat % 4)
      (if NodeCheck.width a.n.fmt.toNat = 64 then 3 else 4) (sources a) a.rnd = (o, R)) :
    (lredNode a).kind = 0#4 ∧ (lredNode a).pend = [] ∧ (lredNode a).rnd = R ∧
    (∀ x, o = some x → (lredNode a).val = BitVec.ofNat 512 x ∧ (lredNode a).mask = if NodeCheck.width a.n.fmt.toNat = 64 then 3#16 else 1#16) ∧
    (o = none → (lredNode a).val = 0#512 ∧ (lredNode a).mask = 0#16) := by
  unfold sources at h
  unfold lredNode
  dsimp only at h ⊢
  rw [h]
  cases o with
  | none => exact ⟨rfl, rfl, rfl, fun _ h => (nomatch h), fun _ => ⟨rfl, rfl⟩⟩
  | some x => exact ⟨rfl, rfl, rfl, fun _ h => (Option.some.inj h) ▸ ⟨rfl, rfl⟩, fun h => nomatch h⟩

/-- LRED's result (R62). -/
theorem lred_spec (a : Fire) (hb : NodeCheck.width a.n.fmt.toNat = 32 ∨ NodeCheck.width a.n.fmt.toNat = 64) (hfmt : a.n.fmt.toNat < 12) :
    let b := NodeCheck.width a.n.fmt.toNat; let m := 512 / b; let top := if b = 64 then 3 else 4
    ∃ (G : ℕ → ℕ → Option ℕ) (R : ℕ → Num.Rnd), R 0 = a.rnd ∧ (lredNode a).kind = 0#4 ∧ (lredNode a).pend = [] ∧ (lredNode a).rnd = R top ∧
      (∀ e < m, (Source a b e → G 0 e = some (elem a.l.val b e)) ∧ (¬Source a b e → G 0 e = none)) ∧
      (∀ l < top, Level a.n (m / 2 ^ (l + 1)) (G l) (G (l + 1)) (R l) (R (l + 1))) ∧
      (∀ z, G top 0 = some z → elem (lredNode a).val b 0 = z ∧ (∀ e < m, e ≠ 0 → elem (lredNode a).val b e = 0) ∧
        (lredNode a).mask = if b = 64 then 3#16 else 1#16) ∧
      (G top 0 = none → (lredNode a).val = 0#512 ∧ (lredNode a).mask = 0#16) := by
  intro b m top
  have hm : m = 2 ^ top := by
    unfold m top
    obtain h | h := hb
    · rw [show b = 32 from h]; decide
    · rw [show b = 64 from h]; decide
  have hspec := levels_spec a.n (by omega) a.rnd (l := sources a) (top := top) (by rw [← hm]; simp [sources, m, b]) (bounded_sources a)
  obtain ⟨hkind, hpend, hrnd, hsome, hnone⟩ := lredNode_of_tree a (redTree_eq _ _ top (sources a) a.rnd)
  have h0 : levels a.n.fmt.toNat (a.n.operand.toNat % 4) (sources a) a.rnd 0 = (sources a, a.rnd) := rfl
  generalize levels a.n.fmt.toNat (a.n.operand.toNat % 4) (sources a) a.rnd = L at *
  refine ⟨fun k => entryOf (L k).1, fun k => (L k).2, congrArg Prod.snd h0, hkind, hpend, hrnd, fun e he => ?_, fun l hl => ?_, fun z hz => ?_, hnone⟩
  · dsimp only
    rw [h0, entryOf_sources a he, ← source_iff a hb he]
    exact ⟨fun h => if_pos h, fun h => if_neg h⟩
  · rw [hm]
    exact (hspec l hl.le).2.2 hl
  · obtain ⟨hval, hmask⟩ := hsome z hz
    obtain ⟨hlen, hbounded, -⟩ := hspec top le_rfl
    have hlt : z < 2 ^ b := by
      refine hbounded z (List.mem_iff_getElem?.mpr ⟨0, ?_⟩)
      change ((L top).1[0]?).getD none = some z at hz
      rw [List.getElem?_eq_getElem (by rw [hlen]; positivity)] at hz ⊢
      exact congrArg some hz
    have helem := elem_ofNat ((width_le a.n.fmt.toNat).trans (by norm_num)) hlt
    rw [hval]
    exact ⟨helem 0, fun e _ he => (helem e).trans (if_neg he), hmask⟩

/-! The scan of R63 (LSCAN). -/

/-- One element of the scan: the running value and the rounding state, and the value that the element shows. -/
def scanStep (a : Fire) (p : Option ℕ × Num.Rnd) (j : ℕ) : ℕ × Option ℕ × Num.Rnd :=
  let b := NodeCheck.width a.n.fmt.toNat
  if laneBit b (a.l.mask &&& a.on) j then
    let x := elem a.l.val b j
    match p.1 with
    | none => (x, some x, p.2)
    | some y => let z := combine a.n.fmt.toNat (a.n.operand.toNat % 4) p.2 y x; (z.1, some z.1, z.2)
  else (p.1.getD 0, p)

/-- The running value and the rounding state before each element. -/
def scanned (a : Fire) : ℕ → Option ℕ × Num.Rnd := threaded (scanStep a) (none, a.rnd)

theorem lscanNode_eq (a : Fire) : let b := NodeCheck.width a.n.fmt.toNat; let m := 512 / b
    let w := a.finish (mkVec b ((List.range m).map fun j => (scanStep a (scanned a j) j).1)) (normMask b (a.l.mask &&& a.on))
    lscanNode a = { val := w.1, mask := w.2, rnd := (scanned a m).2 } := by
  intro b m w
  unfold lscanNode
  dsimp only
  rw [foldl_collect (scanStep a)]
  · rfl
  · rintro l ⟨prev, r⟩ j
    unfold scanStep
    dsimp only
    split
    · cases prev <;> rfl
    · rfl

/-- What an element of the scan shows. -/
def shown (a : Fire) (j : ℕ) : ℕ := (scanStep a (scanned a j) j).1

section

variable {a : Fire} (hb : NodeCheck.width a.n.fmt.toNat = 32 ∨ NodeCheck.width a.n.fmt.toNat = 64) (hfmt : a.n.fmt.toNat < 15) {k : ℕ}
  (hk : k < 512 / NodeCheck.width a.n.fmt.toNat)

include hb hk

theorem scanned_other (h : ¬Source a (NodeCheck.width a.n.fmt.toNat) k) : scanned a (k + 1) = scanned a k := by
  show (scanStep a (scanned a k) k).2 = _
  unfold scanStep
  rw [if_neg (fun h' => h ((source_iff a hb hk).mp h'))]

/-- The first source shows itself. -/
theorem scanned_first (h : Source a (NodeCheck.width a.n.fmt.toNat) k) (hp : (scanned a k).1 = none) :
    shown a k = elem a.l.val (NodeCheck.width a.n.fmt.toNat) k ∧ scanned a (k + 1) = (some (shown a k), (scanned a k).2) := by
  have hstep : scanStep a (scanned a k) k = (elem a.l.val (NodeCheck.width a.n.fmt.toNat) k, some (elem a.l.val (NodeCheck.width a.n.fmt.toNat) k), (scanned a k).2) := by
    unfold scanStep
    rw [if_pos ((source_iff a hb hk).mpr h), hp]
  have hshown : shown a k = elem a.l.val (NodeCheck.width a.n.fmt.toNat) k := congrArg Prod.fst hstep
  exact ⟨hshown, hshown ▸ congrArg Prod.snd hstep⟩

/-- A later source is combined with what the one before shows. -/
theorem scanned_later (h : Source a (NodeCheck.width a.n.fmt.toNat) k) {y : ℕ} (hp : (scanned a k).1 = some y) :
    let z := combine a.n.fmt.toNat (a.n.operand.toNat % 4) (scanned a k).2 y (elem a.l.val (NodeCheck.width a.n.fmt.toNat) k)
    shown a k = z.1 ∧ scanned a (k + 1) = (some (shown a k), z.2) := by
  intro z
  have hstep : scanStep a (scanned a k) k = (z.1, some z.1, z.2) := by
    unfold scanStep
    rw [if_pos ((source_iff a hb hk).mpr h), hp]
  have hshown : shown a k = z.1 := congrArg Prod.fst hstep
  exact ⟨hshown, hshown ▸ congrArg Prod.snd hstep⟩

omit hk in
include hfmt in
/-- The running value is what the last source showed. -/
theorem scanned_spec (hk : k ≤ 512 / NodeCheck.width a.n.fmt.toNat) : let b := NodeCheck.width a.n.fmt.toNat
    (∀ x, (scanned a k).1 = some x → x < 2 ^ b) ∧ ((∀ p < k, ¬Source a b p) → (scanned a k).1 = none) ∧
    (∀ p < k, Source a b p → (∀ r, p < r → r < k → ¬Source a b r) → (scanned a k).1 = some (shown a p)) := by
  intro b
  induction k with
  | zero => exact ⟨fun _ h => (nomatch h), fun _ => rfl, fun p hp => absurd hp p.not_lt_zero⟩
  | succ k ih =>
    obtain ⟨hlt, hnone, hlast⟩ := ih (by omega)
    by_cases hs : Source a b k
    · have hnext : (scanned a (k + 1)).1 = some (shown a k) ∧ shown a k < 2 ^ b := by
        cases hp : (scanned a k).1 with
        | none =>
          obtain ⟨hshown, hnext⟩ := scanned_first hb hk hs hp
          exact ⟨congrArg Prod.fst hnext, hshown ▸ elem_lt _ _ _⟩
        | some y =>
          obtain ⟨hshown, hnext⟩ := scanned_later hb hk hs hp
          exact ⟨congrArg Prod.fst hnext, hshown ▸ combine_lt hfmt _ _ (hlt y hp) (elem_lt _ _ _)⟩
      rw [hnext.1]
      refine ⟨fun x h => Option.some.inj h ▸ hnext.2, fun h => absurd hs (h k k.lt_succ_self), fun p hp _ hbetween => ?_⟩
      rcases Nat.lt_succ_iff_lt_or_eq.mp hp with hp | rfl
      · exact absurd hs (hbetween k hp k.lt_succ_self)
      · rfl
    · rw [scanned_other hb hk hs]
      refine ⟨hlt, fun h => hnone fun p hp => h p (by omega), fun p hp hsp hbetween => hlast p ?_ hsp fun r h1 h2 => hbetween r h1 (by omega)⟩
      exact lt_of_le_of_ne (by omega) fun e => hs (e ▸ hsp)

end

theorem getLsbD_normMask_element {b : ℕ} (hb : b = 32 ∨ b = 64) (m : Mask) {i : ℕ} (hi : i < 16) :
    (normMask b m).getLsbD i = laneBit b m (i * 32 / b) := by
  rw [getLsbD_normMask _ _ i hi, laneBit_eq]
  unfold wordOf
  obtain rfl | rfl := hb
  · rw [if_neg (by decide), if_neg (by decide), Nat.mul_div_cancel _ (by decide)]
  · rw [if_pos rfl, if_pos rfl, show 2 * (i * 32 / 64) = i / 2 * 2 by omega]

/-- LSCAN's result (R63). -/
theorem lscan_spec (a : Fire) (hb : NodeCheck.width a.n.fmt.toNat = 32 ∨ NodeCheck.width a.n.fmt.toNat = 64) (hfmt : a.n.fmt.toNat < 15) :
    let b := NodeCheck.width a.n.fmt.toNat; let m := 512 / b
    ∃ (V : Vec) (R : ℕ → Num.Rnd), R 0 = a.rnd ∧ (lscanNode a).kind = 0#4 ∧ (lscanNode a).pend = [] ∧ (lscanNode a).rnd = R m ∧
      Blends a (fun i => Source a b (i * 32 / b)) V (lscanNode a).val (lscanNode a).mask ∧
      ∀ e < m, (¬Source a b e → R (e + 1) = R e) ∧
        (Source a b e → (∀ p < e, ¬Source a b p) → elem V b e = elem a.l.val b e ∧ R (e + 1) = R e) ∧
        (Source a b e → ∀ p < e, Source a b p → (∀ r, p < r → r < e → ¬Source a b r) →
          Combines a.n (elem V b p) (elem a.l.val b e) (R e) (elem V b e) (R (e + 1))) := by
  intro b m
  have helem : ∀ e < m, Source a b e → elem (mkVec b ((List.range m).map (shown a))) b e = shown a e := fun e he hs => by
    have hlt : shown a e < 2 ^ b := by
      have hstep := (scanned_spec hb hfmt (k := e + 1) he).2.2 e e.lt_succ_self hs fun r h1 h2 => absurd h2 (by omega)
      exact (scanned_spec hb hfmt (k := e + 1) he).1 _ hstep
    rw [elem_mkVec b _ e (by simpa using he) (by simpa using mul_div_width_le b), List.getElem_map, List.getElem_range, Nat.mod_eq_of_lt hlt]
  rw [lscanNode_eq]
  refine ⟨mkVec b ((List.range m).map (shown a)), fun k => (scanned a k).2, rfl, rfl, rfl, rfl, ?_, fun e he => ⟨fun hs => ?_, fun hs hnone => ?_, fun hs p hp hsp hbetween => ?_⟩⟩
  · refine blends_of_mask a _ fun i hi => Iff.trans ?_ (source_iff a hb (element_of_word hb hi))
    exact Eq.to_iff (congrArg (· = true) (getLsbD_normMask_element hb (a.l.mask &&& a.on) hi))
  · exact congrArg Prod.snd (scanned_other hb he hs)
  · obtain ⟨hshown, hnext⟩ := scanned_first hb he hs ((scanned_spec hb hfmt he.le).2.1 hnone)
    exact ⟨(helem e he hs).trans hshown, by dsimp only; rw [hnext]⟩
  · have hlast := (scanned_spec hb hfmt he.le).2.2 p hp hsp hbetween
    obtain ⟨hshown, hnext⟩ := scanned_later hb he hs hlast
    dsimp only
    rw [helem p (by omega) hsp, helem e he hs, hnext, hshown]
    exact combine_combines a.n _ ((scanned_spec hb hfmt he.le).1 _ hlast) (elem_lt _ _ _)

end Sys2Proof.Claim

namespace Sys2Proof.Claim

open Sys2Proof Sys2Proof.Machine

/-! PACK and UNPACK (R187, R200). -/

/-- The lane words that PACK fills: those whose elements are among the sixteen of group k. -/
theorem packed_word_iff {b k w t : ℕ} (hb : b = 2 ∨ b = 4 ∨ b = 8 ∨ b = 16) (ht : t < 32 / b) :
    (16 * k / (32 / b) ≤ w ∧ w < 16 * (k + 1) / (32 / b) ↔ 16 * k ≤ w * (32 / b) ∧ w * (32 / b) < 16 * (k + 1)) ∧
    (16 * k ≤ w * (32 / b) + t ∧ w * (32 / b) + t < 16 * (k + 1) ↔ 16 * k ≤ w * (32 / b) ∧ w * (32 / b) < 16 * (k + 1)) := by
  obtain rfl | rfl | rfl | rfl := hb <;> omega

/-- A 512-bit vector holds its lane words' elements. -/
theorem element_lt {b w t : ℕ} (hb : b = 2 ∨ b = 4 ∨ b = 8 ∨ b = 16) (hw : w < 16) (ht : t < 32 / b) : w * (32 / b) + t < 512 / b := by
  obtain rfl | rfl | rfl | rfl := hb <;> omega

theorem mul_words {b : ℕ} (hb : b = 2 ∨ b = 4 ∨ b = 8 ∨ b = 16) : b * (32 / b) = 32 ∧ 0 < 32 / b := by
  obtain rfl | rfl | rfl | rfl := hb <;> decide

/-- What PACK puts the group into: L, or zeros when it has none. -/
def packBase (n : NodeBody) (l : Operand) : Operand := if n.hasL then l else ⟨0#512, 0#16, 0#4⟩

/-- Element q of PACK's result, before the lanes that are off are cleared. -/
def packElem (a : Fire) (q : ℕ) : ℕ :=
  let b := NodeCheck.width a.n.fmt.toNat; let k := a.n.operand.toNat % 16
  if 16 * k ≤ q ∧ q < 16 * (k + 1) then lane a.r.val (q - 16 * k) % 2 ^ b else elem (packBase a.n a.l).val b q

/-- Mask bit w of PACK's result. -/
def packLive (a : Fire) (w : ℕ) : Bool :=
  let n := 32 / NodeCheck.width a.n.fmt.toNat; let k := a.n.operand.toNat % 16
  if 16 * k / n ≤ w ∧ w < 16 * (k + 1) / n then (List.range n).all (fun t => a.r.mask.getLsbD (w * n + t - 16 * k))
  else (packBase a.n a.l).mask.getLsbD w

theorem packNode_eq (a : Fire) : let b := NodeCheck.width a.n.fmt.toNat; let m := mkMask ((List.range 16).map (packLive a))
    packNode a = { val := zeroOff (mkVec b ((List.range (512 / b)).map (packElem a))) m, mask := m, rnd := a.rnd } := rfl

theorem pack_spec (a : Fire) (hb : NodeCheck.width a.n.fmt.toNat < 32) : let b := NodeCheck.width a.n.fmt.toNat; let k := a.n.operand.toNat % 16
    let W := (packNode a).val; let m := (packNode a).mask
    ∀ w < 16, let own : Prop := 16 * k ≤ w * (32 / b) ∧ w * (32 / b) < 16 * (k + 1)
      (own → (m.getLsbD w = true ↔ ∀ t < 32 / b, a.r.mask.getLsbD (w * (32 / b) + t - 16 * k) = true) ∧
        ∀ t < 32 / b, m.getLsbD w = true → elem W b (w * (32 / b) + t) = lane a.r.val (w * (32 / b) + t - 16 * k) % 2 ^ b) ∧
      (¬own → (m.getLsbD w = true ↔ a.n.hasL = true ∧ a.l.mask.getLsbD w = true) ∧ (m.getLsbD w = true → lane W w = lane a.l.val w)) ∧
      (m.getLsbD w = false → lane W w = 0) := by
  intro b k W m w hw own
  have hcase := narrow_width hb
  obtain ⟨hwords, hpos⟩ := mul_words hcase
  have hm : m.getLsbD w = packLive a w := by
    show (packNode a).mask.getLsbD w = _
    rw [packNode_eq]
    exact getLsbD_mkMask_map _ _ hw
  have hlane : lane W w = if m.getLsbD w then lane (mkVec b ((List.range (512 / b)).map (packElem a))) w else 0 := by
    show lane (packNode a).val w = if (packNode a).mask.getLsbD w then _ else _
    rw [packNode_eq]
    exact lane_zeroOff _ _ w hw
  have helem : ∀ t < 32 / b, elem (mkVec b ((List.range (512 / b)).map (packElem a))) b (w * (32 / b) + t) = packElem a (w * (32 / b) + t) % 2 ^ b := fun t ht => by
    rw [elem_mkVec b _ _ (by simpa using element_lt hcase hw ht) (by simpa using mul_div_width_le b), List.getElem_map, List.getElem_range]
  refine ⟨fun hown => ⟨?_, fun t ht hlive => ?_⟩, fun hown => ?_, fun hoff => ?_⟩
  · rw [hm]
    unfold packLive
    rw [if_pos ((packed_word_iff hcase hpos).1.mpr hown), List.all_eq_true]
    exact ⟨fun h t ht => h t (List.mem_range.mpr ht), fun h t ht => h t (List.mem_range.mp ht)⟩
  · rw [hlive, if_pos rfl] at hlane
    rw [elem_eq_lane hwords W w ht, hlane, ← elem_eq_lane hwords _ w ht, helem t ht]
    unfold packElem
    rw [if_pos ((packed_word_iff hcase ht).2.mpr hown), Nat.mod_mod]
  · have hbits : m.getLsbD w = (packBase a.n a.l).mask.getLsbD w := by
      rw [hm]
      unfold packLive
      rw [if_neg (fun h => hown ((packed_word_iff hcase hpos).1.mp h))]
    have hword : m.getLsbD w = true → lane W w = lane (packBase a.n a.l).val w := fun hlive => by
      rw [hlive, if_pos rfl] at hlane
      rw [hlane]
      refine lane_eq_of_elems hwords fun t ht => ?_
      rw [helem t ht]
      unfold packElem
      rw [if_neg (fun h => hown ((packed_word_iff hcase ht).2.mp h)), Nat.mod_eq_of_lt (elem_lt _ _ _)]
    unfold packBase at hbits hword
    rw [hbits] at hword ⊢
    cases hL : a.n.hasL <;> simp_all
  · rw [hoff] at hlane
    exact hlane

theorem unpack_spec (a : Fire) (hb : NodeCheck.width a.n.fmt.toNat < 32) : let b := NodeCheck.width a.n.fmt.toNat; let k := a.n.operand.toNat % 16
    let W := (unpackNode a).val; let m := (unpackNode a).mask
    Masked m W (fun i => a.l.mask.getLsbD ((16 * k + i) / (32 / b)) = true) ∧
    ∀ i < 16, m.getLsbD i = true → lane W i % 2 ^ b = elem a.l.val b (16 * k + i) ∧
      (lane W i : ℤ) = (if a.n.fmt.toNat < 4 then (BitVec.ofNat b (elem a.l.val b (16 * k + i))).toInt
        else elem a.l.val b (16 * k + i)) % 2 ^ 32 := by
  intro b k W m
  have hm : ∀ i < 16, m.getLsbD i = a.l.mask.getLsbD ((16 * k + i) / (32 / b)) := fun i hi => getLsbD_mkMask_map _ _ hi
  have hlane : ∀ i < 16, lane W i = if m.getLsbD i then lane (mkVec 32 ((List.range 16).map fun i => unpackWord a.n.fmt.toNat (elem a.l.val b (16 * k + i)))) i else 0 :=
    fun i hi => lane_zeroOff _ _ i hi
  refine ⟨fun i hi => ⟨by rw [hm i hi], fun hoff => ?_⟩, fun i hi hlive => ?_⟩
  · rw [hlane i hi, hm i hi, if_neg hoff]
  · obtain ⟨hlt, hmod, hval⟩ := unpackWord_spec hb (elem_lt a.l.val b (16 * k + i))
    rw [hlane i hi, if_pos hlive, lane_mkVec _ i hi, Nat.mod_eq_of_lt hlt]
    exact ⟨hmod, hval⟩

/-- A lane movement, by its sources (R202). -/
theorem firesWith_moves {i : NodeBody → Instr} {n : NodeBody} (hb : NodeCheck.width n.fmt.toNat = 32 ∨ NodeCheck.width n.fmt.toNat = 64)
    {src : NodeBody → Fire → ℕ → ℕ} {extra : NodeBody → Fire → ℕ → Prop} (more : Fire → ℕ → Bool)
    (hi : ∀ s, exec (i n) s = s.fire n (fun a => moveNode a (src n a) (more a)))
    (hsrc : ∀ a, ∀ i < 512 / NodeCheck.width n.fmt.toNat, src n a i < 512 / NodeCheck.width n.fmt.toNat)
    (hmore : ∀ a, a.n = n → ∀ i < 512 / NodeCheck.width n.fmt.toNat, more a i = true ↔ extra n a i) : FiresWith i n 0#4 (Moves src extra) := by
  refine firesWith_of (fun n a => moveNode a (src n a) (more a)) hi fun s a hn => ?_
  subst hn
  exact moves_moveNode s a src extra (more a) hb (hsrc a) (hmore a rfl)

theorem wordOf_zero (b : ℕ) : wordOf b 0 = 0 := by
  unfold wordOf
  split <;> rfl

/-- A lane of R is on as a further source (R189). -/
theorem further_iff (a : Fire) {b j : ℕ} (hw : wordOf b j < 16) :
    laneBit b (a.r.mask &&& a.on) j = true ↔ a.r.mask.getLsbD (wordOf b j) = true ∧ On a (wordOf b j) := by
  rw [laneBit_eq, BitVec.getLsbD_and, Bool.and_eq_true, on_iff a _ hw]

end Sys2Proof.Claim

namespace Sys2Proof

open Machine Claim

/-- Settles O33: lane movement by the sources of its elements; LRED level by level; LSCAN by the running value before each element;
PACK and UNPACK word by word. -/
theorem lanesMoveReduceAndPack : Obligations.LanesMoveReduceAndPack := by
  unfold Obligations.LanesMoveReduceAndPack
  refine ⟨fun n hb => ?_, fun s n a hb hfmt _ hready => ?_, fun n hb => ?_⟩
  · have hpos : 0 < 512 / NodeCheck.width n.fmt.toNat := by obtain h | h := hb <;> rw [h] <;> decide
    refine ⟨firesWith_moves hb _ (fun _ => rfl) (fun a i _ => Nat.mod_lt _ hpos) fun a hn i hi => ?_,
      firesWith_moves hb _ (fun _ => rfl) (fun a i _ => Nat.mod_lt _ hpos) fun a hn i hi => ?_,
      firesWith_moves hb _ (fun _ => rfl) (fun a i _ => Nat.mod_lt _ hpos) fun a hn i hi => ?_⟩
    · exact further_iff a (wordOf_lt hb hi)
    · exact ⟨fun _ => trivial, fun _ => rfl⟩
    · rw [Bool.or_eq_true, further_iff a (wordOf_lt hb hpos), wordOf_zero]
  · obtain ⟨-, -, -, -, -, hn, -, -, -, -, -, -, -, hrnd⟩ := ready_spec hready.1
    have hred := fires_of_compute (i := .nLred n) hready rfl
    have hscan := fires_of_compute (i := .nLscan n) hready rfl
    subst hn
    constructor
    · obtain ⟨G, R, h0, hkind, hpend, hR, hrest⟩ := lred_spec a hb hfmt
      rw [hkind, hpend, hR] at hred
      exact ⟨_, _, G, R, h0.trans hrnd, hred, hrest⟩
    · obtain ⟨V, R, h0, hkind, hpend, hR, hrest⟩ := lscan_spec a hb (by omega)
      rw [hkind, hpend, hR] at hscan
      exact ⟨V, _, _, R, h0.trans hrnd, hscan, hrest⟩
  · refine fun hk => ⟨firesWith_of (fun _ => packNode) (fun _ => rfl) fun s a hn => ?_, firesWith_of (fun _ => unpackNode) (fun _ => rfl) fun s a hn => ?_⟩
    · subst hn
      exact ⟨rfl, rfl, rfl, pack_spec a hb⟩
    · subst hn
      exact ⟨rfl, rfl, rfl, unpack_spec a hb⟩

end Sys2Proof

namespace Sys2Proof.Claim

open Sys2Proof Sys2Proof.Machine

/-! One conversion: the value of an element, rounding to an integer, and clamping (R58, R59, R199). -/

theorem intVal_value (fmt : ℕ) {x : ℕ} : (Num.intVal fmt x : ℚ) =
    if fmt < 4 then ((BitVec.ofNat (NodeCheck.width fmt) x).toInt : ℚ) else (x % 2 ^ NodeCheck.width fmt : ℕ) := by
  unfold Num.intVal Num.signed
  simp only [decide_eq_true_eq, numToInt_eq]
  split
  · rfl
  · norm_cast

theorem valueOf_elemVal (fmt x : ℕ) : ValueOf fmt x (Num.elemVal fmt x).1 (Num.elemVal fmt x).2 := by
  unfold ValueOf Num.elemVal
  refine ⟨fun h => ?_, fun h8 h15 => ?_, fun h => ?_⟩
  · rw [if_pos h]
    refine ⟨⟨_, _, _, rfl, one_pos, fun hz => ?_⟩, rfl, ?_⟩
    · rw [if_pos (Int.natAbs_eq_zero.mp hz)]
    · rw [q_ofInt, Nat.cast_one, div_one, intVal_value]
  · rw [if_neg (by omega), if_neg (by omega)]
    exact ⟨rfl, rfl⟩
  · rw [if_neg (by omega), if_pos h]
    unfold Num.ternVal
    have hlt : x % 4 < 4 := Nat.mod_lt _ (by norm_num)
    generalize x % 4 = y at *
    interval_cases y
    all_goals exact ⟨⟨_, _, _, rfl, one_pos⟩, by simp [q_fin, signOf], rfl⟩

theorem proper_elemVal (fmt x : ℕ) : Proper (Num.elemVal fmt x).1 := by
  obtain ⟨hint, hfloat, htern⟩ := valueOf_elemVal fmt x
  rcases lt_or_ge fmt 8 with h | h
  · obtain ⟨⟨neg, n, d, hv, hd, -⟩, -, -⟩ := hint h
    rw [hv]
    exact proper_fin hd
  rcases Nat.lt_or_ge fmt 15 with h15 | h15
  · rw [(hfloat h h15).1]
    exact proper_decode _ _
  rcases Nat.eq_or_lt_of_le h15 with h15 | h15
  · obtain ⟨⟨neg, n, d, hv, hd⟩, -⟩ := htern h15.symm
    rw [hv]
    exact proper_fin hd
  · unfold Num.elemVal
    rw [if_neg (by omega), if_neg (by omega)]
    exact proper_decode _ _

section

variable {n d : ℕ} (hd : 0 < d)
include hd

/-- A fraction's whole part and the rest. -/
theorem fraction_split : (n / d : ℚ) = (n / d : ℕ) + (n % d : ℕ) / d ∧ (0 : ℚ) ≤ (n % d : ℕ) / d ∧ ((n % d : ℕ) / d : ℚ) < 1 ∧
    ((n % d : ℕ) / d = (0 : ℚ) ↔ n % d = 0) := by
  have hd' : (0 : ℚ) < d := by exact_mod_cast hd
  refine ⟨?_, by positivity, (div_lt_one hd').mpr (by exact_mod_cast Nat.mod_lt n hd), ?_⟩
  · rw [eq_comm, ← mul_left_inj' hd'.ne', add_mul, div_mul_cancel₀ _ hd'.ne', div_mul_cancel₀ _ hd'.ne']
    exact_mod_cast Nat.div_add_mod' n d
  · rw [div_eq_zero_iff, or_iff_left hd'.ne', Nat.cast_eq_zero]

omit hd in
theorem floor_fraction : ⌊(n / d : ℚ)⌋ = (n / d : ℕ) := by
  rw [← Int.natCast_floor_eq_floor (by positivity), Nat.floor_div_eq_div]

/-- Where a mode takes a fraction. -/
def intChosen (r : Num.Rnd) (neg : Bool) (n d : ℕ) : ℕ :=
  if n % d ≠ 0 ∧ Num.roundsUp r.mode r.s neg (n / d) (n % d) d then n / d + 1 else n / d

omit hd in
theorem roundInt_eq (r : Num.Rnd) (neg : Bool) (n d : ℕ) : Num.roundInt r neg n d = (Num.sgn neg (intChosen r neg n d), decide (n % d ≠ 0)) := by
  unfold Num.roundInt intChosen
  rfl

/-- Rounding to an integer (R59). -/
theorem roundedInt_roundInt (r : Num.Rnd) (neg : Bool) : RoundedInt r.mode r.s (q (.fin neg n d)) (Num.roundInt r neg n d).1 ∧
    ((Num.roundInt r neg n d).2 = true ↔ ((Num.roundInt r neg n d).1 : ℚ) ≠ q (.fin neg n d)) := by
  obtain ⟨hsplit, h0, h1, hzero⟩ := fraction_split (n := n) hd
  have hfloor := floor_fraction (n := n) (d := d)
  have hd' : (0 : ℚ) < d := by exact_mod_cast hd
  have hhalf : ((n % d : ℕ) / d : ℚ) * 2 < 1 ↔ 2 * (n % d) < d := by
    rw [div_mul_eq_mul_div, div_lt_one hd', mul_comm]
    exact_mod_cast Iff.rfl
  have hhalf' : ((n % d : ℕ) / d : ℚ) * 2 = 1 ↔ 2 * (n % d) = d := by
    rw [div_mul_eq_mul_div, div_eq_one_iff_eq hd'.ne', mul_comm]
    exact_mod_cast Iff.rfl
  have hsr : ⌊2 ^ 32 * ((n % d : ℕ) / d : ℚ)⌋ = (2 ^ 32 * (n % d) / d : ℕ) := by
    rw [← floor_fraction, ← mul_div_assoc]
    push_cast
    rfl
  rw [roundInt_eq, q_fin]
  dsimp only
  have hcast : (Num.sgn neg (intChosen r neg n d) : ℚ) = signOf neg * (intChosen r neg n d : ℕ) := sgn_eq _ _
  have hnonneg : (0 : ℚ) ≤ n / d := by positivity
  unfold RoundedInt
  rw [hcast, ← mul_sub, abs_signOf_mul, abs_signOf_mul, abs_signOf_mul, abs_of_nonneg hnonneg, Nat.abs_cast, hfloor,
    show ∀ x y : ℚ, signOf neg * x * (signOf neg * y) = x * y from fun x y => by
      rw [mul_mul_mul_comm, signOf_mul_self, one_mul], (mul_right_injective₀ (signOf_ne_zero neg)).ne_iff, decide_eq_true_eq]
  rw [hsplit]
  have hexact : n % d = 0 → intChosen r neg n d = n / d := fun h => if_neg fun h' => h'.1 h
  have hchosen : n % d ≠ 0 → intChosen r neg n d = if Num.roundsUp r.mode r.s neg (n / d) (n % d) d then n / d + 1 else n / d := fun h => by
    unfold intChosen
    simp only [ne_eq, h, not_false_eq_true, true_and]
  generalize ((n % d : ℕ) / d : ℚ) = f at *
  generalize intChosen r neg n d = c at *
  generalize n / d = K at *
  have hK : (0 : ℚ) ≤ K := Nat.cast_nonneg K
  by_cases hrem : n % d = 0
  · rw [hexact hrem, hzero.mpr hrem, add_zero, sub_self, abs_zero]
    refine ⟨⟨fun _ => ⟨by norm_num, fun h => absurd h (by norm_num)⟩, fun _ => ⟨le_rfl, lt_add_one _, by positivity⟩, fun _ => ?_, fun _ => ?_,
      fun _ => ⟨mul_nonneg hK hK, by simp⟩⟩, iff_of_false (not_not.mpr hrem) (not_not.mpr rfl)⟩
    · rw [eq_comm, Int.ceil_eq_iff, sgn_eq]
      constructor <;> linarith
    · rw [eq_comm, Int.floor_eq_iff, sgn_eq]
      constructor <;> linarith
  · have hf : 0 < f := lt_of_le_of_ne h0 fun h => hrem (hzero.mp h.symm)
    have hor : c = K ∨ c = K + 1 := by
      rw [hchosen hrem]
      split
      · exact .inr rfl
      · exact .inl rfl
    refine ⟨⟨fun hm => ?_, fun hm => ?_, fun hm => ?_, fun hm => ?_, fun hm => ?_⟩, iff_of_true hrem ?_⟩
    · rw [hm] at hchosen
      have hc := hchosen hrem
      have hpar : Num.sgn neg c % 2 = 0 ↔ c % 2 = 0 := by cases neg <;> simp [Num.sgn] <;> omega
      rw [hpar]
      have hup : Num.roundsUp 0 r.s neg K (n % d) d = true ↔ 1 < f * 2 ∨ (f * 2 = 1 ∧ K % 2 = 1) := by
        have habove : 1 < f * 2 ↔ d < 2 * (n % d) := by
          rw [← not_iff_not, not_lt, not_lt, le_iff_lt_or_eq, le_iff_lt_or_eq, hhalf, hhalf']
        change (decide (d < 2 * (n % d)) || (decide (d = 2 * (n % d)) && decide (K % 2 = 1))) = true ↔ _
        rw [Bool.or_eq_true, Bool.and_eq_true, decide_eq_true_eq, decide_eq_true_eq, decide_eq_true_eq, habove, hhalf', eq_comm (a := d)]
      by_cases hu : 1 < f * 2 ∨ (f * 2 = 1 ∧ K % 2 = 1)
      · rw [if_pos (hup.mpr hu)] at hc
        have hd1 : ((c : ℕ) : ℚ) - (K + f) = 1 - f := by rw [hc]; push_cast; ring
        rw [hd1, abs_of_pos (by linarith)]
        refine ⟨by rcases hu with h | ⟨h, -⟩ <;> linarith, fun h => ?_⟩
        rcases hu with h' | ⟨-, h'⟩
        · exact absurd h (by linarith)
        · omega
      · rw [if_neg (fun h => hu (hup.mp h))] at hc
        have hd0 : ((c : ℕ) : ℚ) - (K + f) = -f := by rw [hc]; ring
        rw [hd0, abs_neg, abs_of_pos hf]
        rw [not_or, not_lt] at hu
        refine ⟨by linarith [hu.1], fun h => ?_⟩
        have : K % 2 ≠ 1 := fun hp => hu.2 ⟨by linarith, hp⟩
        omega
    · rw [hm] at hchosen
      obtain rfl : c = K := hchosen hrem
      exact ⟨by linarith, by linarith, by positivity⟩
    · rw [hm] at hchosen
      rw [eq_comm, Int.ceil_eq_iff, sgn_eq, hchosen hrem]
      cases neg <;> simp [Num.roundsUp, signOf] <;> constructor <;> linarith
    · rw [hm] at hchosen
      rw [eq_comm, Int.floor_eq_iff, sgn_eq, hchosen hrem]
      cases neg <;> simp [Num.roundsUp, signOf] <;> constructor <;> linarith
    · rw [hm] at hchosen
      refine ⟨by positivity, ?_⟩
      rw [if_neg (by rw [Int.cast_natCast]; linarith), Int.cast_natCast, add_sub_cancel_left, hsr, hchosen hrem, apply_ite Nat.cast]
      refine if_congr ?_ (by push_cast; rfl) rfl
      change decide (r.s.toNat ≤ 2 ^ 32 * (n % d) / d) = true ↔ _
      rw [decide_eq_true_eq]
      exact_mod_cast Iff.rfl
    · rcases hor with rfl | rfl
      · linarith
      · push_cast
        linarith

end

theorem intRange_bounds (fmt : ℕ) : Num.intRange fmt = (loOf fmt, hiOf fmt) := by
  unfold Num.intRange loOf hiOf Num.signed
  simp only [decide_eq_true_eq]
  split <;> push_cast <;> rfl

theorem loOf_le_hiOf (fmt : ℕ) : loOf fmt ≤ hiOf fmt := by
  unfold loOf hiOf
  have h1 : (0 : ℤ) < 2 ^ (NodeCheck.width fmt - 1) := by positivity
  have h2 : (0 : ℤ) < 2 ^ NodeCheck.width fmt := by positivity
  split <;> omega

/-- A clamped number, and whether it was clamped (R48). -/
theorem clamp_spec {lo hi : ℤ} (h : lo ≤ hi) (v : ℤ) : Num.clamp lo hi v = (max lo (min hi v), decide (v < lo ∨ hi < v)) := by
  unfold Num.clamp
  split
  next h' => rw [decide_eq_true (.inl h'), Prod.mk.injEq]; exact ⟨by omega, rfl⟩
  split
  next h' => rw [decide_eq_true (.inr h'), Prod.mk.injEq]; exact ⟨by omega, rfl⟩
  next h1 h2 => rw [decide_eq_false (by omega), Prod.mk.injEq]; exact ⟨by omega, rfl⟩

theorem ofInt_lt (b : ℕ) (v : ℤ) : Num.ofInt b v < 2 ^ b := by
  rw [← ofInt_mod]
  exact Nat.mod_lt _ (by positivity)

theorem mode_raise (R : Num.Rnd) (f : ℕ) : (R.raise f).mode = R.mode := rfl
theorem s_raise (R : Num.Rnd) (f : ℕ) : (R.raise f).s = R.s := rfl

/-- The flag of a rounded and clamped integer. -/
theorem raise_clamped (R : Num.Rnd) {hit inexact : Bool} {P Q : Prop} [Decidable P] [Decidable Q] (hP : hit = true ↔ P) (hQ : inexact = true ↔ ¬Q) (f : ℕ) :
    (if hit = true then R.raise f else if inexact = true then R.raise 16 else R) = R.raise (if P then f else if Q then 0 else 16) := by
  by_cases h : P
  · rw [if_pos (hP.mpr h), if_pos h]
  · rw [if_neg (fun h' => h (hP.mp h')), if_neg h]
    by_cases h' : Q
    · rw [if_neg (fun h'' => hQ.mp h'' h'), if_pos h', raise_zero]
    · rw [if_pos (hQ.mpr h'), if_neg h']

theorem raise_if (R : Num.Rnd) (P : Prop) [Decidable P] (f : ℕ) : (if decide P = true then R.raise f else R) = R.raise (if P then f else 0) := by
  by_cases h : P
  · rw [decide_eq_true h, if_pos rfl, if_pos h]
  · rw [decide_eq_false h, if_neg Bool.false_ne_true, if_neg h, raise_zero]

section

variable {dst src : ℕ} {ovf : Bool} {R : Num.Rnd} {x : ℕ}

theorem cvt_int (hd : dst < 8) (hs : src < 8) : let a := Num.intVal src x; let r := R.raise (Num.elemVal src x).2
    Num.cvt dst src ovf R x = if ovf then (Num.ofInt (NodeCheck.width dst) (max (loOf dst) (min (hiOf dst) a)),
        r.raise (if a < loOf dst ∨ hiOf dst < a then 4 else 0))
      else (Num.ofInt (NodeCheck.width dst) a, r) := by
  intro a r
  unfold Num.cvt
  dsimp only
  rw [if_pos ⟨hd, hs⟩, intRange_bounds, clamp_spec (loOf_le_hiOf dst)]
  refine if_congr Iff.rfl (Prod.ext rfl ?_) rfl
  exact raise_if r _ 4

theorem cvt_float_int (hd : dst < 8) (hs : 8 ≤ src) : let r := (R.raise (Num.elemVal src x).2).step; let b := NodeCheck.width dst
    ((Num.elemVal src x).1.isNan = true → Num.cvt dst src ovf R x = (0, r.raise 1)) ∧
    (∀ neg, (Num.elemVal src x).1 = .inf neg → Num.cvt dst src ovf R x = (Num.ofInt b (if neg then loOf dst else hiOf dst), r.raise 1)) ∧
    (∀ neg n d, (Num.elemVal src x).1 = .fin neg n d → let k := Num.roundInt r neg n d
      Num.cvt dst src ovf R x = (Num.ofInt b (max (loOf dst) (min (hiOf dst) k.1)),
        if decide (k.1 < loOf dst ∨ hiOf dst < k.1) = true then r.raise 1 else if k.2 = true then r.raise 16 else r)) := by
  intro r b
  unfold Num.cvt
  dsimp only
  rw [if_neg (by omega), if_pos hd, intRange_bounds]
  cases (Num.elemVal src x).1 with
  | nan sn => exact ⟨fun _ => rfl, fun _ h => (nomatch h), fun _ _ _ h => (nomatch h)⟩
  | inf neg => exact ⟨fun h => (nomatch h), fun _ h => Num.Val.inf.inj h ▸ rfl, fun _ _ _ h => (nomatch h)⟩
  | fin neg n d =>
    refine ⟨fun h => (nomatch h), fun _ h => (nomatch h), ?_⟩
    rintro _ _ _ ⟨⟩
    dsimp only
    rw [clamp_spec (loOf_le_hiOf dst)]
    rfl

theorem cvt_ternary : let r := (R.raise (Num.elemVal src x).2).step
    ((Num.elemVal src x).1.isNan = true → Num.cvt 15 src ovf R x = (0, r.raise 1)) ∧
    (∀ neg, (Num.elemVal src x).1 = .inf neg → Num.cvt 15 src ovf R x = (if neg then 3 else 1, r)) ∧
    (∀ neg n d, (Num.elemVal src x).1 = .fin neg n d → let k := Num.roundInt r neg n d
      Num.cvt 15 src ovf R x = (Num.ofInt 2 (max (-1) (min 1 k.1)),
        if decide (k.1 < -1 ∨ 1 < k.1) = true then r.raise 20 else if k.2 = true then r.raise 16 else r)) := by
  intro r
  unfold Num.cvt
  dsimp only
  rw [if_neg (by omega), if_neg (by omega), if_pos rfl]
  cases (Num.elemVal src x).1 with
  | nan sn => exact ⟨fun _ => rfl, fun _ h => (nomatch h), fun _ _ _ h => (nomatch h)⟩
  | inf neg => exact ⟨fun h => (nomatch h), fun _ h => Num.Val.inf.inj h ▸ rfl, fun _ _ _ h => (nomatch h)⟩
  | fin neg n d =>
    refine ⟨fun h => (nomatch h), fun _ h => (nomatch h), ?_⟩
    rintro _ _ _ ⟨⟩
    dsimp only
    rw [clamp_spec (by norm_num)]
    rfl

theorem cvt_float (h8 : 8 ≤ dst) (h15 : dst < 15) : let v := (Num.elemVal src x).1; let t := Num.fmtOf dst
    let r := (R.raise (Num.elemVal src x).2).raise (if v.isSnan then 1 else 0)
    (dst = src → Num.cvt dst src ovf R x = (if v.isNan then Num.canonNaN t else x % 2 ^ NodeCheck.width dst, r.step)) ∧
    (dst ≠ src → Num.cvt dst src ovf R x = Num.round t (if ovf then 2 else 1) r v) := by
  intro v t r
  have hr : (if v.isSnan = true then (R.raise (Num.elemVal src x).2).raise Num.NV else R.raise (Num.elemVal src x).2) = r := by
    cases hv : v.isSnan
    · unfold r; rw [hv, if_neg Bool.false_ne_true, if_neg Bool.false_ne_true, raise_zero]
    · unfold r; rw [hv]; rfl
  unfold Num.cvt
  dsimp only
  rw [if_neg (by omega), if_neg (by omega), if_neg (by omega), hr]
  refine ⟨fun h => ?_, fun h => if_neg h⟩
  rw [if_pos h]
  split
  · rfl
  · rfl

/-- The ternary code of a clamped integer (Table 3.3). -/
theorem ofInt_ternary (k : ℤ) : Num.ofInt 2 (max (-1) (min 1 k)) = if k < 0 then 3 else if k = 0 then 0 else 1 := by
  rcases lt_trichotomy k 0 with h | h | h
  · rw [if_pos h, show max (-1) (min 1 k) = -1 by omega]
    rfl
  · rw [h]
    rfl
  · rw [if_neg (by omega), if_neg (by omega), show max (-1) (min 1 k) = 1 by omega]
    rfl

theorem converts_cvt (dst src : ℕ) (ovf : Bool) (R : Num.Rnd) (x : ℕ) :
    Converts dst src ovf x R (Num.cvt dst src ovf R x).1 (Num.cvt dst src ovf R x).2 := by
  refine ⟨_, _, valueOf_elemVal src x, fun hd hs => ?_, fun hd hs => ?_, fun hd => ?_, fun h8 h15 => ?_⟩
  · obtain ⟨-, -, hq⟩ := (valueOf_elemVal src x).1 hs
    refine ⟨Num.intVal src x, by rw [intVal_value, hq], fun ho => ?_, fun ho => ?_⟩
    · rw [cvt_int hd hs, ho]
      exact ⟨cast_numOfInt _ _, rfl⟩
    · rw [cvt_int hd hs, ho]
      exact ⟨cast_numOfInt _ _, rfl⟩
  · obtain ⟨hnan, hinf, hfin⟩ := cvt_float_int (ovf := ovf) (R := R) (x := x) hd hs
    refine ⟨fun h => ?_, fun neg h => ?_, fun neg n d h => ?_⟩
    · rw [hnan h]
      exact ⟨rfl, rfl⟩
    · rw [hinf neg h]
      exact ⟨cast_numOfInt _ _, rfl⟩
    · obtain ⟨hround, hexact⟩ := roundedInt_roundInt (proper_elemVal src x _ _ _ h) (R.raise (Num.elemVal src x).2).step neg (n := n)
      rw [hfin neg n d h, h]
      dsimp only
      rw [raise_clamped _ decide_eq_true_iff hexact, step_mode, mode_raise] at *
      exact ⟨_, hround, cast_numOfInt _ _, rfl⟩
  · subst hd
    obtain ⟨hnan, hinf, hfin⟩ := cvt_ternary (src := src) (ovf := ovf) (R := R) (x := x)
    refine ⟨fun h => ?_, fun neg h => ?_, fun neg n d h => ?_⟩
    · rw [hnan h]
      exact ⟨rfl, rfl⟩
    · rw [hinf neg h]
      exact ⟨rfl, rfl⟩
    · obtain ⟨hround, hexact⟩ := roundedInt_roundInt (proper_elemVal src x _ _ _ h) (R.raise (Num.elemVal src x).2).step neg (n := n)
      rw [hfin neg n d h, h]
      dsimp only
      rw [raise_clamped _ decide_eq_true_iff hexact]
      rw [step_mode, mode_raise] at hround
      exact ⟨_, hround, ofInt_ternary _, rfl⟩
  · obtain ⟨hsame, hother⟩ := cvt_float (src := src) (ovf := ovf) (R := R) (x := x) h8 h15
    exact ⟨fun h => by rw [hsame h]; exact ⟨rfl, rfl⟩, fun h => hother h⟩

theorem cvt_lt (hdst : dst < 16) : (Num.cvt dst src ovf R x).1 < 2 ^ NodeCheck.width dst := by
  rcases lt_or_ge dst 8 with hd | hd
  · rcases lt_or_ge src 8 with hs | hs
    · rw [cvt_int hd hs]
      split
      · exact ofInt_lt _ _
      · exact ofInt_lt _ _
    · obtain ⟨hnan, hinf, hfin⟩ := cvt_float_int (ovf := ovf) (R := R) (x := x) hd hs
      cases hv : (Num.elemVal src x).1 with
      | nan sn => rw [hnan (by rw [hv]; rfl)]; exact Nat.two_pow_pos _
      | inf neg => rw [hinf neg hv]; exact ofInt_lt _ _
      | fin neg n d => rw [hfin neg n d hv]; exact ofInt_lt _ _
  rcases lt_or_ge dst 15 with h15 | h15
  · obtain ⟨hsame, hother⟩ := cvt_float (src := src) (ovf := ovf) (R := R) (x := x) hd h15
    by_cases h : dst = src
    · rw [hsame h]
      dsimp only
      split
      · rw [width_fmtOf hd (by omega)]
        exact (bitsFit_fmtOf dst).nan_lt
      · exact Nat.mod_lt _ (by positivity)
    · rw [hother h, width_fmtOf hd (by omega)]
      exact (bitsFit_fmtOf dst).round_lt _ _ _
  · obtain rfl : dst = 15 := by omega
    obtain ⟨hnan, hinf, hfin⟩ := cvt_ternary (src := src) (ovf := ovf) (R := R) (x := x)
    cases hv : (Num.elemVal src x).1 with
    | nan sn => rw [hnan (by rw [hv]; rfl)]; exact Nat.two_pow_pos _
    | inf neg =>
      rw [hinf neg hv]
      change (if neg then 3 else 1) < 4
      split <;> norm_num
    | fin neg n d => rw [hfin neg n d hv]; exact ofInt_lt 2 _

end

end Sys2Proof.Claim

namespace Sys2Proof.Claim

open Sys2Proof Sys2Proof.Machine

/-! Nodes of elements in unpacked form (R187, R199): what they collect, and where the results lie. -/

/-- The lane of element j is on, for a node of e elements in unpacked form. -/
def unpLive (a : Fire) (e j : ℕ) : Bool := (a.l.mask &&& a.on).getLsbD (unpLane e j)

theorem unpLive_iff (a : Fire) {e j : ℕ} (he : e = 8 ∨ e = 16) (hj : j < e) :
    unpLive a e j = true ↔ a.l.mask.getLsbD (if e = 8 then 2 * j else j) = true ∧ On a (if e = 8 then 2 * j else j) := by
  unfold unpLive unpLane
  rw [BitVec.getLsbD_and, Bool.and_eq_true, on_iff a _ (by split <;> omega)]

/-- One element of such a node. -/
def unpStep (a : Fire) (e : ℕ) (f : ℕ → Num.Rnd → ℕ × Num.Rnd) (r : Num.Rnd) (j : ℕ) : (ℕ × Bool) × Num.Rnd :=
  if unpLive a e j then (((f j r).1, true), (f j r).2) else ((0, false), r)

/-- The rounding state before each element. -/
def unpRnd (a : Fire) (e : ℕ) (f : ℕ → Num.Rnd → ℕ × Num.Rnd) : ℕ → Num.Rnd := threaded (unpStep a e f) a.rnd

/-- The results, with whether each is live. -/
def unpResults (a : Fire) (e : ℕ) (f : ℕ → Num.Rnd → ℕ × Num.Rnd) : List (ℕ × Bool) :=
  (List.range e).map fun j => (unpStep a e f (unpRnd a e f j) j).1

theorem unpRnd_succ (a : Fire) (e : ℕ) (f : ℕ → Num.Rnd → ℕ × Num.Rnd) (j : ℕ) :
    unpRnd a e f (j + 1) = if unpLive a e j then (f j (unpRnd a e f j)).2 else unpRnd a e f j := by
  show (unpStep a e f (unpRnd a e f j) j).2 = _
  unfold unpStep
  split <;> rfl

theorem width_cases (fmt : ℕ) : NodeCheck.width fmt < 32 ∨ NodeCheck.width fmt = 32 ∨ NodeCheck.width fmt = 64 := by
  unfold NodeCheck.width
  split <;> simp

theorem unpackWord_word {fmt x : ℕ} (h : NodeCheck.width fmt = 32) (hx : x < 2 ^ 32) : unpackWord fmt x = x := by
  unfold unpackWord
  rw [h, if_neg (by omega)]
  exact Nat.mod_eq_of_lt hx

theorem unpackWord_lt {fmt x : ℕ} (h : NodeCheck.width fmt ≠ 64) (hx : x < 2 ^ NodeCheck.width fmt) : unpackWord fmt x < 2 ^ 32 := by
  obtain hb | hb | hb := width_cases fmt
  · exact (unpackWord_spec hb hx).1
  · rw [hb] at hx
    rwa [unpackWord_word hb hx]
  · exact absurd hb h

/-- The low lane word of a 64-bit element. -/
theorem lane_even (V : Vec) (j : ℕ) : lane V (2 * j) = elem V 64 j % 2 ^ 32 := by
  unfold lane elem
  rw [show 32 * (2 * j) = 64 * j by ring, Nat.mod_mod_of_dvd _ (pow_dvd_pow 2 (by norm_num))]

/-- What a lane word of the results holds. -/
theorem places_of_words {fmt : ℕ} {x w : ℕ} (hx : x < 2 ^ NodeCheck.width fmt) (hw : w = unpackWord fmt x) :
    let b := NodeCheck.width fmt
    (b = 32 → w = x) ∧ (b < 32 → w % 2 ^ b = x ∧ (w : ℤ) = (if fmt < 4 then (BitVec.ofNat b x).toInt else x) % 2 ^ 32) := by
  intro b
  subst hw
  refine ⟨fun h => unpackWord_word h (by rw [← show NodeCheck.width fmt = 32 from h]; exact hx), fun h => ?_⟩
  exact (unpackWord_spec h hx).2

theorem places_mkUnpacked (a : Fire) (fmt e : ℕ) (f : ℕ → Num.Rnd → ℕ × Num.Rnd) (he : e = 8 ∨ e = 16) (hwide : NodeCheck.width fmt = 64 → e = 8)
    (hlt : ∀ j r, (f j r).1 < 2 ^ NodeCheck.width fmt) : let w := mkUnpacked fmt e (unpResults a e f)
    Places a fmt e (fun j => (f j (unpRnd a e f j)).1) (a.finish w.1 w.2).1 (a.finish w.1 w.2).2 := by
  have hlen : (unpResults a e f).length = e := by simp [unpResults]
  have hget : ∀ j (hj : j < (unpResults a e f).length), (unpResults a e f)[j] = (unpStep a e f (unpRnd a e f j) j).1 := fun j hj => by simp [unpResults]
  have hbit : ∀ j < e, ((unpResults a e f)[j]?.map Prod.snd).getD false = unpLive a e j := fun j hj => by
    rw [List.getElem?_eq_getElem (by omega), hget]
    unfold unpStep
    split
    next h => rw [h]; rfl
    next h => rw [Bool.eq_false_iff.mpr h]; rfl
  have hval : ∀ j (hj : j < (unpResults a e f).length), unpLive a e j = true → (unpResults a e f)[j].1 = (f j (unpRnd a e f j)).1 := fun j hj h => by
    rw [hget]
    unfold unpStep
    rw [if_pos h]
  generalize unpResults a e f = l at *
  intro w
  refine ⟨w.1, ?_, ?_⟩
  · refine blends_of_mask a _ fun i hi => ?_
    beta_reduce
    by_cases h64 : NodeCheck.width fmt = 64
    · have hw : w = (mkVec 64 (l.map Prod.fst), mkMask (l.flatMap fun x => [x.2, x.2])) := if_pos h64
      rw [if_pos (.inl h64), if_pos h64, ← unpLive_iff a (j := i / 2) he (by have := hwide h64; omega), hw, getLsbD_mkMask_pairs _ _ _ hi, ite_self,
        hbit _ (by have := hwide h64; omega)]
    obtain rfl | rfl := he
    · have hw : w = (mkVec 64 (l.map fun x => unpackWord fmt x.1), mkMask (l.flatMap fun x => [x.2, false])) := (if_neg h64).trans (if_pos rfl)
      rw [if_neg (by omega), hw, getLsbD_mkMask_pairs _ _ _ hi]
      by_cases heven : i % 2 = 0
      · rw [if_pos heven, hbit _ (by omega), unpLive_iff a (.inl rfl) (by omega)]
        exact (and_iff_right heven).symm
      · rw [if_neg heven, List.getElem?_eq_getElem (by omega)]
        exact iff_of_false Bool.false_ne_true fun h => heven h.1
    · have hw : w = (mkVec 32 (l.map fun x => unpackWord fmt x.1), mkMask (l.map Prod.snd)) := (if_neg h64).trans (if_neg (by norm_num))
      rw [if_pos (.inr rfl), if_neg h64, ← unpLive_iff a (.inr rfl) hi, hw, getLsbD_mkMask _ _ hi, List.getElem?_map, hbit _ hi]
  · intro j hj hl
    have hlive := (unpLive_iff a he hj).mpr hl
    have hvalj := hval j (by omega) hlive
    have hltj := hlt j (unpRnd a e f j)
    by_cases h64 : NodeCheck.width fmt = 64
    · have hw : w = (mkVec 64 (l.map Prod.fst), mkMask (l.flatMap fun x => [x.2, x.2])) := if_pos h64
      refine ⟨fun _ => ?_, fun h => absurd (h64.symm.trans h) (by norm_num), fun h => absurd h64 (by omega)⟩
      rw [hw, elem_mkVec 64 _ j (by simpa [hlen] using hj) (by rw [List.length_map, hlen, hwide h64]), List.getElem_map, hvalj, ← h64, Nat.mod_eq_of_lt hltj]
    refine ⟨fun h => absurd h h64, places_of_words hltj ?_⟩
    have hword := unpackWord_lt h64 hltj
    obtain rfl | rfl := he
    · have hw : w = (mkVec 64 (l.map fun x => unpackWord fmt x.1), mkMask (l.flatMap fun x => [x.2, false])) := (if_neg h64).trans (if_pos rfl)
      beta_reduce
      rw [hw, if_pos rfl, lane_even, elem_mkVec 64 _ j (by simpa [hlen] using hj) (by rw [List.length_map, hlen]), List.getElem_map, hvalj,
        Nat.mod_mod_of_dvd _ (pow_dvd_pow 2 (by norm_num)), Nat.mod_eq_of_lt hword]
    · have hw : w = (mkVec 32 (l.map fun x => unpackWord fmt x.1), mkMask (l.map Prod.snd)) := (if_neg h64).trans (if_neg (by norm_num))
      beta_reduce
      rw [hw, if_neg (by norm_num)]
      unfold lane
      rw [elem_mkVec 32 _ j (by simpa [hlen] using hj) (by rw [List.length_map, hlen]), List.getElem_map, hvalj, Nat.mod_eq_of_lt hword]

/-- What a node of elements in unpacked form computes. -/
def unpFired (a : Fire) (e : ℕ) (f : ℕ → Num.Rnd → ℕ × Num.Rnd) : Fired :=
  let w := mkUnpacked a.n.fmt.toNat e (unpResults a e f); let v := a.finish w.1 w.2
  { val := v.1, mask := v.2, rnd := unpRnd a e f e }

/-- The fold by which such a node collects its elements. -/
def unpFold (a : Fire) (e : ℕ) (f : ℕ → Num.Rnd → ℕ × Num.Rnd) : List (ℕ × Bool) × Num.Rnd :=
  (List.range e).foldl (fun (acc, r) j =>
    if (a.l.mask &&& a.on).getLsbD (unpLane e j) then let (x, r) := f j r; (acc ++ [(x, true)], r) else (acc ++ [(0, false)], r)) ([], a.rnd)

theorem unpFold_eq (a : Fire) (e : ℕ) (f : ℕ → Num.Rnd → ℕ × Num.Rnd) : unpFold a e f = (unpResults a e f, unpRnd a e f e) := by
  unfold unpFold
  rw [foldl_collect (unpStep a e f)]
  · rfl
  · intro l r j
    unfold unpStep unpLive
    dsimp only
    split <;> rfl

/-- What such a fold gives as a firing. -/
def firedOfFold (a : Fire) (e : ℕ) (f : ℕ → Num.Rnd → ℕ × Num.Rnd) : Fired :=
  let w := mkUnpacked a.n.fmt.toNat e (unpFold a e f).1; let v := a.finish w.1 w.2
  { val := v.1, mask := v.2, rnd := (unpFold a e f).2 }

theorem firedOfFold_eq (a : Fire) (e : ℕ) (f : ℕ → Num.Rnd → ℕ × Num.Rnd) : firedOfFold a e f = unpFired a e f := by
  unfold firedOfFold unpFired
  rw [unpFold_eq]

/-- A node of elements in unpacked form, by what it does to one element. -/
theorem unpacks_of {i : NodeBody → Instr} {ok : NodeBody → Prop} {count : NodeBody → ℕ} {op : State → Fire → ℕ → Num.Rnd → ℕ → Num.Rnd → Prop}
    (f : State → Fire → ℕ → Num.Rnd → ℕ × Num.Rnd) (hcount : ∀ n, count n = 8 ∨ count n = 16)
    (hwide : ∀ n, NodeCheck.width n.fmt.toNat = 64 → count n = 8)
    (hi : ∀ s n, ok n → exec (i n) s = s.fire n (fun a => unpFired a (count a.n) (f s a)))
    (hlt : ∀ s a j r, ok a.n → (f s a j r).1 < 2 ^ NodeCheck.width a.n.fmt.toNat)
    (hop : ∀ s a j r, ok a.n → j < count a.n → op s a j r (f s a j r).1 (f s a j r).2) :
    Unpacks i ok count op := by
  intro s n a hok hready
  have hfires := fires_of_compute hready (hi s n hok)
  obtain ⟨-, -, -, -, -, hn, -, -, -, -, -, -, -, hrnd⟩ := ready_spec hready.1
  subst hn
  have he := hcount a.n
  refine ⟨_, _, _, unpRnd a (count a.n) (f s a), hrnd, hfires, places_mkUnpacked a _ _ (f s a) he (hwide a.n) fun j r => hlt s a j r hok,
    fun j hj => ?_⟩
  intro w
  rw [unpRnd_succ]
  refine ⟨fun hm hon => ?_, fun hoff => if_neg fun h => hoff ((unpLive_iff a he hj).mp h)⟩
  rw [if_pos ((unpLive_iff a he hj).mpr ⟨hm, hon⟩)]
  exact hop s a j _ hok hj

/-! CVT (R199). -/

/-- The number of elements that CVT converts. -/
def cvtCount (n : NodeBody) : ℕ := if NodeCheck.width (n.operand.toNat % 16) = 64 ∨ NodeCheck.width n.fmt.toNat = 64 then 8 else 16

/-- One element of CVT. -/
def cvtElem (a : Fire) (j : ℕ) (r : Num.Rnd) : ℕ × Num.Rnd :=
  Num.cvt a.n.fmt.toNat (a.n.operand.toNat % 16) (a.n.mod.getLsbD 3) r (unpacked a.l.val (NodeCheck.width (a.n.operand.toNat % 16)) (cvtCount a.n) j)

theorem cvtNode_eq (a : Fire) : cvtNode a = unpFired a (cvtCount a.n) (cvtElem a) := by
  rw [← firedOfFold_eq]
  rfl

/-! LUT (R201). -/

theorem edRead_eq_entryAt (s : State) (a : Fire) (i : ℕ) :
    s.edRead a.pk a.e (bits a.n.operand.toNat 15 0 + i * (NodeCheck.width a.n.fmt.toNat / 8)) (NodeCheck.width a.n.fmt.toNat / 8) = entryAt s a i := by
  unfold bits
  rw [pow_zero, Nat.div_one]
  rfl

theorem entryAt_lt (s : State) (a : Fire) (h : a.n.fmt.toNat < 12) (i : ℕ) : entryAt s a i < 2 ^ NodeCheck.width a.n.fmt.toNat := by
  have hbytes : 8 * (NodeCheck.width a.n.fmt.toNat / 8) = NodeCheck.width a.n.fmt.toNat := by
    generalize a.n.fmt.toNat = k at *
    interval_cases k <;> rfl
  have hlt := leNat_lt ((List.range (NodeCheck.width a.n.fmt.toNat / 8)).map (fun k => Memory.read s.edata
    (edAddr a.pk a.e (a.n.operand.toNat % 65536 + i * (NodeCheck.width a.n.fmt.toNat / 8) + k))))
  rw [List.length_map, List.length_range, hbytes] at hlt
  exact hlt

/-- A difference of entries, scaled by a fraction. -/
def scaledBy (v : Num.Val) (un ud : ℕ) : Num.Val :=
  match v with
  | .fin neg n c => .fin neg (n * un) (c * ud)
  | v => v

theorem lerp_eq {x y : Num.Val} (hx : x.isNan = false) (hy : y.isNan = false) {un : ℕ} (hun : un ≠ 0) (ud : ℕ) :
    let d := Num.add 0 y x.negate; let r := Num.add 0 x (scaledBy d.1 un ud)
    lerp x y un ud = (r.1, d.2 ||| r.2) := by
  intro d r
  unfold lerp
  rw [hx, hy, Bool.or_self, if_neg Bool.false_ne_true, if_neg hun]
  unfold r d
  rcases Num.add 0 y x.negate with ⟨v, f⟩
  cases v <;> rfl

/-- The value between two entries (R201). -/
theorem between_lerp {x y : Num.Val} (hx : Proper x) (hy : Proper y) (un : ℕ) {ud : ℕ} (hud : 0 < ud) :
    Between x y (un / ud) (lerp x y un ud).1 (lerp x y un ud).2 := by
  have hud' : (ud : ℚ) ≠ 0 := by exact_mod_cast hud.ne'
  have hzero : (un / ud : ℚ) = 0 ↔ un = 0 := by rw [div_eq_zero_iff, or_iff_left hud', Nat.cast_eq_zero]
  refine ⟨fun h => ?_, fun hnx hny => ⟨fun hu => ?_, fun hu => ⟨?_, ?_, ?_, ?_⟩⟩⟩
  · have hl : lerp x y un ud = (.nan false, nv x y) := by
      unfold lerp
      exact if_pos ((Bool.or_eq_true _ _).mpr h)
    rw [hl]
    exact ⟨rfl, rfl⟩
  · have hl : lerp x y un ud = (x, 0) := by
      unfold lerp
      rw [hnx, hny, Bool.or_self, if_neg Bool.false_ne_true, if_pos (hzero.mp hu)]
    rw [hl]
    exact ⟨rfl, rfl⟩
  all_goals
    rw [lerp_eq hnx hny (fun h => hu (hzero.mpr h))]
  · rintro p q' rfl rfl
    cases p <;> cases q' <;> simp [Num.add, scaledBy, Num.Val.negate, Num.NV, Num.Val.isSnan, Num.Val.isNan]
  · rintro p neg n d rfl rfl
    cases p <;> simp [Num.add, scaledBy, Num.Val.negate, Num.NV, Num.Val.isNan]
  · rintro p neg n d rfl rfl
    simp [Num.add, scaledBy, Num.Val.negate]
  · intro p n d r m e hxe hye
    obtain ⟨z, k, g, hd, hg, hf1, hq1, -⟩ := (sumOf_add 0 hy hx.negate).2.2.2 r m e (!p) n d hye (by rw [hxe]; rfl)
    rw [hd, hf1]
    obtain ⟨z', k', g', hr, hg', hf2, hq2, -⟩ := (sumOf_add 0 hx (proper_fin (neg := z) (n := k * un) (Nat.mul_pos hg hud))).2.2.2 p n d z _ _ hxe rfl
    refine ⟨z', k', g', hr, hg', ?_, ?_⟩
    · rw [show scaledBy (.fin z k g) un ud = .fin z (k * un) (g * ud) from rfl, hf2]
      rfl
    · rw [show scaledBy (.fin z k g) un ud = .fin z (k * un) (g * ud) from rfl, hq2]
      rw [hd, q_negate, q_fin] at hq1
      have hqd : q (.fin z (k * un) (g * ud)) = un / ud * (q y - q x) := by
        rw [q_fin, sub_eq_add_neg, ← hq1]
        push_cast
        rw [mul_div_mul_comm]
        ring
      rw [hqd]

/-- Where LUT stands between two entries: the position as a fraction, cut to the table (R201). -/
def lutPos (N : ℕ) (p : Num.Val) : ℕ × ℕ :=
  match p with
  | .fin neg x d => if neg then (0, 1) else if (N - 1) * d ≤ x then (N - 1, 1) else (x, d)
  | .inf neg => if neg then (0, 1) else (N - 1, 1)
  | .nan _ => (0, 1)

/-- The number of elements of LUT. -/
def lutCount (n : NodeBody) : ℕ := if NodeCheck.width n.fmt.toNat = 64 then 8 else 16

/-- The number of entries of LUT's table. -/
def lutSize (n : NodeBody) : ℕ := 2 ^ bits n.operand.toNat 19 16

/-- The entry that LUT reads. -/
def lutTab (s : State) (a : Fire) (i : ℕ) : ℕ :=
  let b := NodeCheck.width a.n.fmt.toNat
  s.edRead a.pk a.e (bits a.n.operand.toNat 15 0 + i * (b / 8)) (b / 8)

/-- One element of LUT that reads its table directly. -/
def lutDirect (s : State) (a : Fire) (j : ℕ) (r : Num.Rnd) : ℕ × Num.Rnd :=
  let x := lane a.l.val (unpLane (lutCount a.n) j)
  let (x, r) := if lutSize a.n ≤ x then (lutSize a.n - 1, r.raise Num.NV) else (x, r)
  let v := lutTab s a x
  if a.n.fmt.toNat < 8 then (v, r)
  else match Num.decode (Num.fmtOf a.n.fmt.toNat) v with
    | .nan sn => (Num.canonNaN (Num.fmtOf a.n.fmt.toNat), if sn then r.raise Num.NV else r)
    | _ => (v, r)

/-- The type in which LUT's position stands and its value is rounded first. -/
def lutWide (n : NodeBody) : Num.Fmt := if NodeCheck.width n.fmt.toNat = 64 then Num.fmtOf 11 else Num.fmtOf 10

/-- The value that LUT interpolates at a position, rounded. -/
def lutValue (s : State) (a : Fire) (p : Num.Val) (r : Num.Rnd) : ℕ × Num.Rnd :=
  let t := Num.fmtOf a.n.fmt.toNat
  let (pn, pd) := lutPos (lutSize a.n) p
  let i := min (pn / pd) (lutSize a.n - 2)
  let (v, f) := lerp (Num.decode t (lutTab s a i)) (Num.decode t (lutTab s a (i + 1))) (pn - i * pd) pd
  let (x, r) := Num.round (lutWide a.n) 0 (r.raise f) v
  if NodeCheck.width a.n.fmt.toNat = 16 then Num.round t 0 r (Num.decode (lutWide a.n) x) else (x, r)

/-- One element of LUT that interpolates. -/
def lutBetween (s : State) (a : Fire) (j : ℕ) (r : Num.Rnd) : ℕ × Num.Rnd :=
  let b := NodeCheck.width a.n.fmt.toNat
  match Num.decode (lutWide a.n) (if b = 64 then elem a.l.val 64 j else lane a.l.val (unpLane (lutCount a.n) j)) with
  | .nan _ => let r := (r.raise Num.NV).step; (Num.canonNaN (Num.fmtOf a.n.fmt.toNat), if b = 16 then r.step else r)
  | p => lutValue s a p r

/-- One element of LUT. -/
def lutElem (s : State) (a : Fire) (j : ℕ) (r : Num.Rnd) : ℕ × Num.Rnd :=
  if !bit a.n.operand.toNat 20 then lutDirect s a j r else lutBetween s a j r

theorem lutNode_eq (s : State) (a : Fire) : lutNode s a = unpFired a (lutCount a.n) (lutElem s a) := by
  rw [← firedOfFold_eq]
  rfl

end Sys2Proof.Claim

namespace Sys2Proof.Claim

open Sys2Proof Sys2Proof.Machine

/-! What LUT gives for one element (R201). -/

theorem lutSize_eq (n : NodeBody) : lutSize n = 2 ^ (n.operand.toNat / 65536 % 16) := rfl

theorem lutTab_eq (s : State) (a : Fire) (i : ℕ) : lutTab s a i = entryAt s a i := edRead_eq_entryAt s a i

theorem lutWord_eq (n : NodeBody) (j : ℕ) : unpLane (lutCount n) j = Claim.wordOf (NodeCheck.width n.fmt.toNat) j := by
  unfold unpLane lutCount Claim.wordOf
  by_cases h : NodeCheck.width n.fmt.toNat = 64
  · rw [if_pos h, if_pos h, if_pos rfl]
  · rw [if_neg h, if_neg h, if_neg (by norm_num)]

theorem lutElem_direct (s : State) (a : Fire) (j : ℕ) (r : Num.Rnd) (h : a.n.operand.getLsbD 20 = false) : lutElem s a j r = lutDirect s a j r := by
  unfold lutElem
  rw [show bit a.n.operand.toNat 20 = false from (bit_toNat _ _).trans h]
  rfl

theorem lutElem_between (s : State) (a : Fire) (j : ℕ) (r : Num.Rnd) (h : a.n.operand.getLsbD 20 = true) : lutElem s a j r = lutBetween s a j r := by
  unfold lutElem
  rw [show bit a.n.operand.toNat 20 = true from (bit_toNat _ _).trans h]
  rfl

/-- Reading the table directly. -/
theorem lutDirect_spec (s : State) (a : Fire) (j : ℕ) (R : Num.Rnd) : let t := Num.fmtOf a.n.fmt.toNat; let N := lutSize a.n
    let x := lane a.l.val (Claim.wordOf (NodeCheck.width a.n.fmt.toNat) j); let R1 := if N ≤ x then R.raise 1 else R
    let e := entryAt s a (if N ≤ x then N - 1 else x)
    (a.n.fmt.toNat < 8 → lutDirect s a j R = (e, R1)) ∧
    (8 ≤ a.n.fmt.toNat → lutDirect s a j R = (if (Num.decode t e).isNan then Num.canonNaN t else e, if (Num.decode t e).isSnan then R1.raise 1 else R1)) := by
  intro t N x R1 e
  have hx : (if N ≤ x then (N - 1, R.raise Num.NV) else (x, R)) = (if N ≤ x then N - 1 else x, R1) := by
    unfold R1
    split
    · rfl
    · rfl
  unfold lutDirect
  rw [lutWord_eq]
  dsimp only
  rw [show (if lutSize a.n ≤ lane a.l.val (Claim.wordOf (NodeCheck.width a.n.fmt.toNat) j) then (lutSize a.n - 1, R.raise Num.NV)
    else (lane a.l.val (Claim.wordOf (NodeCheck.width a.n.fmt.toNat) j), R)) = _ from hx, lutTab_eq]
  refine ⟨fun h => if_pos h, fun h => ?_⟩
  rw [if_neg (by omega)]
  cases hv : Num.decode (Num.fmtOf a.n.fmt.toNat) e with
  | nan sn => rfl
  | inf neg => rfl
  | fin neg n d => rfl

/-- The position that a fraction gives, cut to the table. -/
theorem lutPos_spec {N : ℕ} (hN : 2 ≤ N) {p : Num.Val} (hp : Proper p) (hnan : p.isNan = false) : let w := lutPos N p
    0 < w.2 ∧ (∀ neg, p = .inf neg → (w.1 / w.2 : ℚ) = if neg then 0 else (N - 1 : ℚ)) ∧
    (∀ neg n d, p = .fin neg n d → (w.1 / w.2 : ℚ) = max 0 (min (q p) (N - 1))) := by
  have hcast : ((N - 1 : ℕ) : ℚ) = N - 1 := by push_cast [show 1 ≤ N by omega]; rfl
  have hpos : (0 : ℚ) ≤ N - 1 := by rw [← hcast]; positivity
  intro w
  unfold w lutPos
  cases p with
  | nan sn => cases hnan
  | inf neg =>
    cases neg
    · refine ⟨one_pos, ?_, fun _ _ _ h => (nomatch h)⟩
      rintro _ ⟨⟩
      simp [hcast]
    · refine ⟨one_pos, ?_, fun _ _ _ h => (nomatch h)⟩
      rintro _ ⟨⟩
      simp
  | fin neg n d =>
    have hd : (0 : ℚ) < d := by exact_mod_cast hp _ _ _ rfl
    have hnd : (0 : ℚ) ≤ n / d := by positivity
    cases neg
    · have hq : q (.fin false n d) = n / d := by simp [q_fin, signOf]
      dsimp only
      rw [if_neg Bool.false_ne_true]
      have hcut : (N - 1) * d ≤ n ↔ (N - 1 : ℚ) ≤ n / d := by
        rw [le_div_iff₀ hd, ← hcast]
        exact_mod_cast Iff.rfl
      by_cases h : (N - 1) * d ≤ n
      · rw [if_pos h]
        refine ⟨one_pos, fun _ h => (nomatch h), ?_⟩
        rintro _ _ _ ⟨⟩
        rw [hq, min_eq_right (hcut.mp h), max_eq_right hpos, Nat.cast_one, div_one, hcast]
      · rw [if_neg h]
        refine ⟨hp _ _ _ rfl, fun _ h => (nomatch h), ?_⟩
        rintro _ _ _ ⟨⟩
        rw [hq, min_eq_left (le_of_not_ge (fun h' => h (hcut.mpr h'))), max_eq_right hnd]
    · have hq : q (.fin true n d) ≤ 0 := by
        rw [q_fin]
        simp only [signOf, if_true, neg_mul, one_mul, Left.neg_nonpos_iff]
        exact hnd
      refine ⟨one_pos, fun _ h => (nomatch h), ?_⟩
      rintro _ _ _ ⟨⟩
      rw [max_eq_left ((min_le_left _ _).trans hq)]
      simp

/-- The value at a position. -/
theorem lutValue_spec (s : State) (a : Fire) (R : Num.Rnd) (hN : 2 ≤ lutSize a.n) {p : Num.Val} (hp : Proper p) (hnan : p.isNan = false) :
    let t := Num.fmtOf a.n.fmt.toNat; let N := lutSize a.n; let o := lutValue s a p R
    ∃ (pos : ℚ) (v : Num.Val) (f x : ℕ) (R2 : Num.Rnd),
      (∀ neg, p = .inf neg → pos = if neg then 0 else (N - 1 : ℚ)) ∧ (∀ neg n d, p = .fin neg n d → pos = max 0 (min (q p) (N - 1))) ∧
      (let i := min ⌊pos⌋₊ (N - 2); Between (Num.decode t (entryAt s a i)) (Num.decode t (entryAt s a (i + 1))) (pos - i) v f) ∧
      Rounds (lutWide a.n) R f v x R2 ∧ (NodeCheck.width a.n.fmt.toNat ≠ 16 → o = (x, R2)) ∧
      (NodeCheck.width a.n.fmt.toNat = 16 → o = Num.round t 0 R2 (Num.decode (lutWide a.n) x)) := by
  obtain ⟨hd, hinf, hfin⟩ := lutPos_spec hN hp hnan
  intro t N o
  have ho : o = lutValue s a p R := rfl
  unfold lutValue at ho
  generalize lutPos (lutSize a.n) p = w at *
  obtain ⟨pn, pd⟩ := w
  have hpd : (pd : ℚ) ≠ 0 := by exact_mod_cast hd.ne'
  have hfrac : ((pn : ℚ) / pd - (min ⌊(pn / pd : ℚ)⌋₊ (N - 2) : ℕ)) = (pn - min ⌊(pn / pd : ℚ)⌋₊ (N - 2) * pd : ℕ) / pd := by
    rw [Nat.floor_div_eq_div]
    have hle : min (pn / pd) (N - 2) * pd ≤ pn := (Nat.mul_le_mul_right pd (min_le_left _ _)).trans (Nat.div_mul_le_self pn pd)
    rw [Nat.cast_sub hle, sub_div, Nat.cast_mul, mul_div_cancel_right₀ _ hpd]
  have hbetween := between_lerp (proper_decode t (entryAt s a (min (pn / pd) (N - 2)))) (proper_decode t (entryAt s a (min (pn / pd) (N - 2) + 1)))
    (pn - min (pn / pd) (N - 2) * pd) hd
  simp only [lutTab_eq] at ho
  refine ⟨pn / pd, _, _, _, _, hinf, hfin, ?_, rfl, fun h => ho.trans (if_neg h), fun h => ho.trans (if_pos h)⟩
  intro i
  rw [hfrac, Nat.floor_div_eq_div]
  rw [show i = min (pn / pd) (N - 2) by unfold i; rw [Nat.floor_div_eq_div]]
  exact hbetween

theorem lutBetween_spec (s : State) (a : Fire) (j : ℕ) (R : Num.Rnd) : let b := NodeCheck.width a.n.fmt.toNat
    let p := Num.decode (lutWide a.n) (if b = 64 then elem a.l.val 64 j else lane a.l.val j); let o := lutBetween s a j R
    (p.isNan = true → o = (Num.canonNaN (Num.fmtOf a.n.fmt.toNat), if b = 16 then (R.raise 1).step.step else (R.raise 1).step)) ∧
    (p.isNan = false → o = lutValue s a p R) := by
  intro b p o
  have hsrc : Num.decode (lutWide a.n) (if b = 64 then elem a.l.val 64 j else lane a.l.val (unpLane (lutCount a.n) j)) = p := by
    unfold p
    rw [lutWord_eq]
    unfold Claim.wordOf
    by_cases h : b = 64
    · rw [if_pos h, if_pos h]
    · rw [if_neg h, if_neg h, if_neg h]
  have ho : o = lutBetween s a j R := rfl
  unfold lutBetween at ho
  dsimp only at ho
  rw [show Num.decode (lutWide a.n) (if NodeCheck.width a.n.fmt.toNat = 64 then elem a.l.val 64 j else lane a.l.val (unpLane (lutCount a.n) j)) = p from hsrc] at ho
  clear_value p
  cases p with
  | nan sn => exact ⟨fun _ => ho, fun h => (nomatch h)⟩
  | inf neg => exact ⟨fun h => (nomatch h), fun _ => ho⟩
  | fin neg n d => exact ⟨fun h => (nomatch h), fun _ => ho⟩

theorem two_le_lutSize {n : NodeBody} (h : 1 ≤ n.operand.toNat / 65536 % 16) : 2 ≤ lutSize n := by
  rw [lutSize_eq]
  exact Nat.le_self_pow (by omega) 2

theorem width_lutWide {n : NodeBody} (h8 : 8 ≤ n.fmt.toNat) (h12 : n.fmt.toNat < 12) (h : NodeCheck.width n.fmt.toNat ≠ 16) :
    BitsFit (lutWide n) ∧ (lutWide n).width = NodeCheck.width n.fmt.toNat := by
  unfold lutWide
  generalize n.fmt.toNat = k at *
  interval_cases k
  · exact absurd rfl h
  · exact absurd rfl h
  · exact ⟨bitsFit_fmtOf 10, rfl⟩
  · exact ⟨bitsFit_fmtOf 11, rfl⟩

theorem ite_lt_of {c : Prop} [Decidable c] {x y B : ℕ} (hx : x < B) (hy : y < B) : (if c then x else y) < B := by
  split
  · exact hx
  · exact hy

theorem lutElem_lt (s : State) (a : Fire) (j : ℕ) (R : Num.Rnd) (h12 : a.n.fmt.toNat < 12) 
    (h8 : a.n.operand.getLsbD 20 = true → 8 ≤ a.n.fmt.toNat ∧ 1 ≤ a.n.operand.toNat / 65536 % 16) :
    (lutElem s a j R).1 < 2 ^ NodeCheck.width a.n.fmt.toNat := by
  have hnan : 8 ≤ a.n.fmt.toNat → Num.canonNaN (Num.fmtOf a.n.fmt.toNat) < 2 ^ NodeCheck.width a.n.fmt.toNat := fun h => by
    rw [width_fmtOf h (by omega)]
    exact (bitsFit_fmtOf _).nan_lt
  cases hdir : a.n.operand.getLsbD 20 with
  | false =>
    rw [lutElem_direct s a j R hdir]
    obtain ⟨hint, hfloat⟩ := lutDirect_spec s a j R
    rcases lt_or_ge a.n.fmt.toNat 8 with h | h
    · rw [hint h]
      exact entryAt_lt s a h12 _
    · rw [hfloat h]
      exact ite_lt_of (hnan h) (entryAt_lt s a h12 _)
  | true =>
    obtain ⟨h, hsize⟩ := h8 hdir
    rw [lutElem_between s a j R hdir]
    obtain ⟨hisnan, hval⟩ := lutBetween_spec s a j R
    cases hp : (Num.decode (lutWide a.n) (if NodeCheck.width a.n.fmt.toNat = 64 then elem a.l.val 64 j else lane a.l.val j)).isNan with
    | true =>
      rw [hisnan hp]
      exact hnan h
    | false =>
      obtain ⟨pos, v, f, x, R2, -, -, -, hround, hwide, hnarrow⟩ := lutValue_spec s a R (two_le_lutSize hsize) (proper_decode _ _) hp
      rw [hval hp]
      by_cases hb : NodeCheck.width a.n.fmt.toNat = 16
      · rw [hnarrow hb, width_fmtOf h (by omega)]
        exact (bitsFit_fmtOf _).round_lt _ _ _
      · obtain ⟨hfit, hwidth⟩ := width_lutWide h h12 hb
        have hx : x = (Num.round (lutWide a.n) 0 (R.raise f) v).1 := congrArg Prod.fst hround
        rw [hwide hb, ← hwidth, hx]
        exact hfit.round_lt _ _ _

theorem cvtElem_converts (a : Fire) (j : ℕ) (R : Num.Rnd) : let sb := NodeCheck.width (a.n.operand.toNat % 16)
    let wide : Prop := sb = 64 ∨ NodeCheck.width a.n.fmt.toNat = 64; let o := cvtElem a j R
    let C := fun x => Converts a.n.fmt.toNat (a.n.operand.toNat % 16) (a.n.mod.getLsbD 3) x R o.1 o.2
    (sb = 64 → C (elem a.l.val 64 j)) ∧ (sb ≠ 64 → wide → C (lane a.l.val (2 * j) % 2 ^ sb)) ∧ (¬wide → C (lane a.l.val j % 2 ^ sb)) := by
  intro sb wide o C
  have hC : C (unpacked a.l.val sb (cvtCount a.n) j) := converts_cvt _ _ _ _ _
  unfold unpacked unpLane cvtCount at hC
  refine ⟨fun h => ?_, fun h hw => ?_, fun hw => ?_⟩
  · rwa [if_pos h] at hC
  · rwa [if_neg h, if_pos hw, if_pos rfl] at hC
  · rwa [if_neg (fun h => hw (.inl h)), if_neg hw, if_neg (by norm_num)] at hC

end Sys2Proof.Claim

namespace Sys2Proof

open Machine Claim

/-- Settles O34: CVT and LUT are nodes of elements in unpacked form; a conversion by the classes of its two types, a table entry as it
stands or between two. -/
theorem conversionsAndTables : Obligations.ConversionsAndTables := by
  unfold Obligations.ConversionsAndTables
  constructor
  · refine unpacks_of (fun _ => cvtElem) (fun n => ?_) (fun n h => if_pos (.inr h)) (fun s n _ => ?_) (fun s a j r _ => ?_) (fun s a j r _ hj => ?_)
    · exact (ite_eq_or_eq _ _ _)
    · exact congrArg (s.fire n) (funext cvtNode_eq)
    · exact cvt_lt a.n.fmt.isLt
    · exact cvtElem_converts a j r
  · refine unpacks_of lutElem (fun n => ?_) (fun n h => if_pos h) (fun s n hok => ?_) (fun s a j r hok => ?_) (fun s a j r hok hj => ?_)
    · exact (ite_eq_or_eq _ _ _)
    · exact congrArg (s.fire n) (funext (lutNode_eq s))
    · exact lutElem_lt s a j r hok.1 hok.2
    · refine ⟨fun hdir => ?_, fun hdir => ?_⟩
      · rw [lutElem_direct s a j r hdir]
        obtain ⟨hint, hfloat⟩ := lutDirect_spec s a j r
        exact ⟨fun h => by rw [hint h]; exact ⟨rfl, rfl⟩, fun h => by rw [hfloat h]; exact ⟨rfl, rfl⟩⟩
      · obtain ⟨-, hsize⟩ := hok.2 hdir
        have hwide : lutWide a.n = Num.fmtOf (if NodeCheck.width a.n.fmt.toNat = 64 then 11 else 10) := by
          unfold lutWide
          split <;> rfl
        rw [lutElem_between s a j r hdir, ← hwide]
        obtain ⟨hisnan, hval⟩ := lutBetween_spec s a j r
        refine ⟨fun hp => ?_, fun hp => ?_⟩
        · rw [hisnan hp]
          exact ⟨rfl, rfl⟩
        · obtain ⟨pos, v, f, x, R2, hinf, hfin, hbetween, hround, hne, heq⟩ := lutValue_spec s a r (two_le_lutSize hsize) (proper_decode _ _) hp
          rw [hval hp]
          exact ⟨pos, v, f, x, R2, hinf, hfin, hbetween, hround, fun h => by rw [hne h]; exact ⟨rfl, rfl⟩, heq⟩

end Sys2Proof

namespace Sys2Proof.Claim

open Sys2Proof Sys2Proof.Machine

/-! What a path node's firing leaves of its plane (R257). -/

/-- A plane after a path node's firing: the node's place in the stream has advanced, and its flags and S stand; the slots are free. -/
structure Streamed (s : State) (a : Fire) (cur : BitVec 64) (fl : Nat) (S : BitVec 32) (q : Plane) : Prop where
  rest : q = { s.plane a.pk with slots := q.slots, frames := q.frames, quant := q.quant, lfsr := q.lfsr }
  quant : ∀ k, q.quant.find k = if k = 32 * a.e + a.node then
      some { (s.plane a.pk).quant.get k ⟨0, 0#64, 0#512, 0⟩ with next := a.fr.itix + 1, cur := cur }
    else (s.plane a.pk).quant.find k
  srReg : ∀ e, q.srReg a.pk e = if e = a.e then S else (s.plane a.pk).srReg a.pk e
  flagged : Flagged a (s.plane a.pk) q fl

theorem firedTo_advanceQ {s t : State} {a : Fire} {p : Plane} (h : FiredTo s t a.pk a.e p) (cur : BitVec 64) :
    FiredTo s (t.advanceQ a cur) a.pk a.e { p with
      quant := p.quant.put (32 * a.e + a.node) { p.q a.e a.node with next := a.fr.itix + 1, cur := cur } } := by
  have hset := h.setPlane { p with
    quant := p.quant.put (32 * a.e + a.node) { p.q a.e a.node with next := a.fr.itix + 1, cur := cur } }
  unfold State.advanceQ
  rwa [h.plane]

/-- A firing that has taken operands and advanced the stream. -/
theorem streamed_advance {s : State} {a : Fire} (hframe : (s.plane a.pk).frames.find a.f = some a.fr) (m : Map Operand) (cur : BitVec 64) :
    Streamed s a cur 0 ((s.plane a.pk).srReg a.pk a.e) { s.plane a.pk with
      slots := m
      quant := (s.plane a.pk).quant.put (32 * a.e + a.node) { (s.plane a.pk).q a.e a.node with next := a.fr.itix + 1, cur := cur } } := by
  refine ⟨rfl, fun k => ?_, fun e => ?_, fun f => ?_⟩
  · rw [Map.find_put]
    split
    next h => rw [h]; rfl
    next => rfl
  · split
    next h => rw [h]; rfl
    next => rfl
  · split
    next h => rw [h, BitVec.or_zero]; exact hframe
    next => rfl

section

variable {s : State} {a : Fire} {cur : BitVec 64} {fl : Nat} {S : BitVec 32} {q : Plane}

theorem Streamed.frame (h : Streamed s a cur 0 S q) : q.frames.find a.f = some a.fr := by
  rw [h.flagged a.f, if_pos rfl, BitVec.or_zero]

theorem Streamed.withSlots (h : Streamed s a cur fl S q) (m : Map Operand) : Streamed s a cur fl S { q with slots := m } := by
  refine ⟨?_, h.quant, h.srReg, h.flagged⟩
  conv_lhs => rw [h.rest]

theorem Streamed.withFlags (h : Streamed s a cur 0 S q) {m : Map Frame}
    (hm : ∀ g, m.find g = if g = a.f then some { a.fr with flags := a.fr.flags ||| BitVec.ofNat 6 fl } else q.frames.find g) :
    Streamed s a cur fl S { q with frames := m } := by
  refine ⟨?_, h.quant, h.srReg, fun g => (hm g).trans ?_⟩
  · conv_lhs => rw [h.rest]
  · split
    next => rfl
    next hg => rw [h.flagged g, if_neg hg]

theorem Streamed.withS (h : Streamed s a cur fl ((s.plane a.pk).srReg a.pk a.e) q) :
    Streamed s a cur fl S { q with lfsr := if S = (s.plane a.pk).srReg a.pk a.e then q.lfsr else q.lfsr.put a.e S } := by
  have hS : q.srReg a.pk a.e = (s.plane a.pk).srReg a.pk a.e := (h.srReg a.e).trans (if_pos rfl)
  refine ⟨?_, h.quant, fun e => ?_, h.flagged⟩
  · conv_lhs => rw [h.rest]
  · have hput := srReg_put (p := q) (q := { q with lfsr := if S = q.srReg a.pk a.e then q.lfsr else q.lfsr.put a.e S }) rfl rfl e
    rw [hS] at hput
    refine hput.trans ?_
    split
    next => rfl
    next he => rw [h.srReg e, if_neg he]

/-- Flags raised after the stream has advanced. -/
theorem firedTo_flag {t : State} (ht : FiredTo s t a.pk a.e q) (h : Streamed s a cur 0 S q) (fl : Nat) :
    ∃ r, FiredTo s (t.flag a.pk a.f a.fr.gen fl) a.pk a.e r ∧ Streamed s a cur fl S r ∧ r.slots = q.slots := by
  obtain ⟨m, hm, hfind⟩ := ht.flag h.frame fl
  exact ⟨_, hm, h.withFlags hfind, rfl⟩

/-- A firing that has advanced its stream and sends `l`. -/
theorem streams_of {i : Instr} {t : State} {slots : Map Operand → Prop} {sent : List Flight → Prop} {l : List Flight}
    (ht : FiredTo s t a.pk a.e q) (h : Streamed s a cur fl S q) (he : exec i s = .next { t with flights := s.flights ++ l })
    (hslots : slots q.slots) (hl : sent l) : Streams i s a cur fl S slots sent := by
  have hq := ht.plane.symm
  exact ⟨_, l, he, ht.rest_sent l, ht.fired, ht.others,
    hq.subst (motive := fun r : Plane => r = { s.plane a.pk with slots := r.slots, frames := r.frames, quant := r.quant, lfsr := r.lfsr }) h.rest,
    hq.subst (motive := fun r : Plane => ∀ k, r.quant.find k = if k = 32 * a.e + a.node then
        some { (s.plane a.pk).quant.get k ⟨0, 0#64, 0#512, 0⟩ with next := a.fr.itix + 1, cur := cur }
      else (s.plane a.pk).quant.find k) h.quant,
    hq.subst (motive := fun r : Plane => ∀ e, r.srReg a.pk e = if e = a.e then S else (s.plane a.pk).srReg a.pk e) h.srReg,
    hq.subst (motive := fun r : Plane => Flagged a (s.plane a.pk) r fl) h.flagged, by rwa [hq] at hslots, hl⟩

/-- A firing that sends its result on both destinations. -/
theorem streams_out {i : Instr} {t : State} {slots : Map Operand → Prop} {v : Operand}
    (ht : FiredTo s t a.pk a.e q) (h : Streamed s a cur fl S q) (he : exec i s = .next (t.out a v)) (hslots : slots q.slots) :
    Streams i s a cur fl S slots (Both s a.pk a.e a.n a.f a.fr.gen v) := by
  obtain ⟨l, hl, hb⟩ := ht.sendBoth (by rw [h.rest]) (by rw [h.rest]) (by rw [h.rest]) a.e a.n a.f a.fr.gen v
  exact streams_of ht h (he.trans (congrArg Host.Outcome.next hl)) hslots hb

/-- A firing that sends nothing. -/
theorem streams_quiet {i : Instr} {t : State} {slots : Map Operand → Prop}
    (ht : FiredTo s t a.pk a.e q) (h : Streamed s a cur fl S q) (he : exec i s = .next t) (hslots : slots q.slots) :
    Streams i s a cur fl S slots (fun l => l = []) := by
  refine streams_of ht h (he.trans (congrArg Host.Outcome.next ?_)) hslots rfl
  rw [List.append_nil, ← ht.flights_eq]

theorem Streams.imp {i : Instr} {slots slots' : Map Operand → Prop} {sent sent' : List Flight → Prop} (h : Streams i s a cur fl S slots sent)
    (hslots : ∀ m, slots m → slots' m) (hsent : ∀ l, sent l → sent' l) : Streams i s a cur fl S slots' sent' := by
  obtain ⟨t, l, he, hrest, hf, ho, hp, hq, hr, hfl, hs, hl⟩ := h
  exact ⟨t, l, he, hrest, hf, ho, hp, hq, hr, hfl, hslots _ hs, hsent l hl⟩

end

/-! The nodes that take their own operands alone. -/

/-- A path node that takes its operands advances its stream (R257). -/
theorem taken_advance {s : State} {n : NodeBody} {a : Fire} (h : s.ready n = some a) (cur : BitVec 64) :
    ∃ q, FiredTo s ((s.takeOperands a).advanceQ a cur) a.pk a.e q ∧ Streamed s a cur 0 ((s.plane a.pk).srReg a.pk a.e) q ∧
      q.slots = ((s.plane a.pk).consume a.n a.e a.node a.f).slots := by
  obtain ⟨-, -, -, -, hp, -, -, hframe, -⟩ := ready_spec h
  have ht := firedTo_advanceQ (firedTo_takeOperands h) cur
  rw [consume_eq] at ht
  exact ⟨_, ht, streamed_advance (by rw [← hp]; exact hframe) _ cur, rfl⟩

/-- Slots after a firing that takes its operands. -/
theorem consumed_slots {s : State} {a : Fire} {n : NodeBody} (hn : a.n = n) {m : Map Operand}
    (hm : m = ((s.plane a.pk).consume a.n a.e a.node a.f).slots) (k : Nat) :
    (Consumed a k → m.find k = none) ∧ (¬Consumed a k → m.find k = (s.plane a.pk).slots.find k) := by
  rw [hm, hn]
  exact consumes_consume hn (s.plane a.pk) k

/-- A node's turn is the model's (R257). -/
theorem inTurn_iff {s : State} {a : Fire} (hpk : a.pk = s.site.plane) (he : a.e = s.site.elem) (hnode : a.node = s.site.node)
    (hframe : (s.plane s.site.plane).frames.find s.site.frame = some a.fr) : s.inTurn = true ↔ InTurn s a := by
  unfold State.inTurn InTurn pathState Plane.frame?
  dsimp only
  rw [hframe, hpk, he, hnode]
  exact decide_eq_true_iff

theorem inTurn_of_ready {s : State} {n : NodeBody} {a : Fire} (h : s.ready n = some a) : s.inTurn = true ↔ InTurn s a := by
  obtain ⟨hpk, he, hnode, hf, hp, -, -, hframe, -⟩ := ready_spec h
  exact inTurn_iff hpk he hnode (by rw [← hpk, ← hf, ← hp]; exact hframe)

theorem tokensPer_eq (k : Nat) : tokensPer k = blockLen k := by
  unfold tokensPer blockLen
  split
  next h =>
    have : ∀ k : Fin 4, max 1 (2 ^ k.val / 16) = 1 := by decide
    exact this ⟨k, h⟩
  next h =>
    rw [show (16 : Nat) = 2 ^ 4 from rfl, Nat.pow_div (by omega) (by norm_num)]
    exact max_eq_right Nat.one_le_two_pow

end Sys2Proof.Claim

namespace Sys2Proof.Claim

open Sys2Proof Sys2Proof.Machine

/-! BMAX: the order of magnitudes is that of their patterns (R73, R258). -/

theorem bit_of_lt {x k : ℕ} (h : x < 2 ^ k) : bit x k = false := by
  rw [bit_eq_testBit]
  exact Nat.testBit_lt_two_pow h

theorem isNan_magnitude (t : Num.Fmt) (x : ℕ) : (Num.decode t (x % 2 ^ (t.e + t.f))).isNan = (Num.decode t x).isNan := by
  have hex : x % 2 ^ (t.e + t.f) / 2 ^ t.f % 2 ^ t.e = x / 2 ^ t.f % 2 ^ t.e := by
    rw [Nat.add_comm t.e, pow_add, Nat.mod_mul_right_div_self, Nat.mod_mod]
  have hfr : x % 2 ^ (t.e + t.f) % 2 ^ t.f = x % 2 ^ t.f := Nat.mod_mod_of_dvd _ (pow_dvd_pow 2 (Nat.le_add_left _ _))
  unfold Num.decode
  rw [hex, hfr]
  dsimp only
  split
  · split <;> rfl
  split
  · rfl
  split <;> rfl

section

variable {t : Num.Fmt} (ht : Ieee t)
include ht

theorem Ieee.place_finite {m : ℕ} (h : m ≤ Num.maxFinite t) : place (Num.decode t m) = ((mag t m : WithTop ℚ) : WithBot (WithTop ℚ)) := by
  have hlt := h.trans_lt ht.maxFinite_lt
  have hmod := Nat.mod_eq_of_lt hlt
  obtain ⟨n, d, hdec, hq⟩ := ht.decode_finite (x := m) (by rwa [hmod])
  rw [hmod, bit_of_lt hlt, signOf, if_neg Bool.false_ne_true, one_mul, qOf] at hq
  rw [hdec] at hq ⊢
  exact congrArg (fun x : ℚ => ((x : WithTop ℚ) : WithBot (WithTop ℚ))) hq

theorem Ieee.place_infinite {m : ℕ} (hmax : Num.maxFinite t < m) (hlt : m < 2 ^ (t.e + t.f)) (hnan : (Num.decode t m).isNan = false) :
    place (Num.decode t m) = ((⊤ : WithTop ℚ) : WithBot (WithTop ℚ)) := by
  have hex : m / 2 ^ t.f = 2 ^ t.e - 1 := by
    have hlow : (2 ^ t.e - 1) * 2 ^ t.f ≤ m := by
      have := ht.maxFinite_eq
      omega
    have hhigh : m / 2 ^ t.f < 2 ^ t.e := Nat.div_lt_of_lt_mul (by rwa [← pow_add, Nat.add_comm])
    have := (Nat.le_div_iff_mul_le (by positivity : 0 < 2 ^ t.f)).mpr hlow
    omega
  have hmod : (2 ^ t.e - 1) % 2 ^ t.e = 2 ^ t.e - 1 := Nat.mod_eq_of_lt (Nat.sub_lt (by positivity) one_pos)
  unfold Num.decode at hnan ⊢
  rw [hex, hmod, bit_of_lt hlt] at hnan ⊢
  dsimp only at hnan ⊢
  rw [if_pos ⟨ht.inf, rfl⟩] at hnan ⊢
  split at hnan
  next h => rw [if_pos h]; rfl
  next => cases hnan

/-- Of two magnitudes, the larger pattern stands for the larger value. -/
theorem Ieee.place_mono {x y : ℕ} (hxy : x ≤ y) (hy : y < 2 ^ (t.e + t.f)) (hnx : (Num.decode t x).isNan = false)
    (hny : (Num.decode t y).isNan = false) : place (Num.decode t x) ≤ place (Num.decode t y) := by
  rcases le_or_gt y (Num.maxFinite t) with h | h
  · rw [ht.place_finite h, ht.place_finite (hxy.trans h)]
    exact_mod_cast (mag_strictMono t).monotone hxy
  · rw [ht.place_infinite h hy hny]
    rcases le_or_gt x (Num.maxFinite t) with hx | hx
    · rw [ht.place_finite hx]
      exact_mod_cast le_top
    · rw [ht.place_infinite hx (hxy.trans_lt hy) hnx]

end

/-- One step of BMAX on magnitudes: the larger, or the canonical NaN. -/
def nanMax (t : Num.Fmt) (m x : ℕ) : ℕ := if (Num.decode t m).isNan || (Num.decode t x).isNan then Num.canonNaN t else max m x

theorem bmaxStep_eq (m : ℕ) (o : Operand) :
    bmaxStep m o = ((List.range 16).map fun i => entering o i % 2 ^ 31).foldl (nanMax (Num.fmtOf 10)) m := by
  rw [List.foldl_map]
  rfl

theorem isNan_canonNaN : (Num.decode (Num.fmtOf 10) (Num.canonNaN (Num.fmtOf 10))).isNan = true := by decide

section

variable {t : Num.Fmt}

theorem nanMax_lt {n m x : ℕ} (hc : Num.canonNaN t < n) (hm : m < n) (hx : x < n) : nanMax t m x < n := by
  unfold nanMax
  split
  · exact hc
  · exact max_lt hm hx

theorem foldl_nanMax_lt {n : ℕ} (hc : Num.canonNaN t < n) (l : List ℕ) (hl : ∀ x ∈ l, x < n) {m : ℕ} (hm : m < n) :
    l.foldl (nanMax t) m < n := by
  induction l generalizing m with
  | nil => exact hm
  | cons x xs ih => exact ih (fun y hy => hl y (List.mem_cons_of_mem _ hy)) (nanMax_lt hc hm (hl x List.mem_cons_self))

/-- Any NaN makes the maximum NaN (R73). -/
theorem foldl_nanMax_nan (hc : (Num.decode t (Num.canonNaN t)).isNan = true) (l : List ℕ) (hne : l ≠ []) {m : ℕ}
    (h : (Num.decode t m).isNan = true ∨ ∃ x ∈ l, (Num.decode t x).isNan = true) : l.foldl (nanMax t) m = Num.canonNaN t := by
  induction l generalizing m with
  | nil => exact absurd rfl hne
  | cons x xs ih =>
    rw [List.foldl_cons]
    by_cases hx : ((Num.decode t m).isNan || (Num.decode t x).isNan) = true
    · rw [nanMax, if_pos hx]
      cases xs with
      | nil => rfl
      | cons y ys => exact ih (List.cons_ne_nil _ _) (.inl hc)
    · simp only [Bool.or_eq_true, not_or] at hx
      obtain ⟨y, hy, hn⟩ := h.resolve_left hx.1
      rcases List.mem_cons.mp hy with rfl | hy
      · exact absurd hn hx.2
      · exact ih (List.ne_nil_of_mem hy) (.inr ⟨y, hy, hn⟩)

/-- Without NaN, the largest pattern stays. -/
theorem foldl_nanMax_max (l : List ℕ) {m : ℕ} (hm : (Num.decode t m).isNan = false) (hl : ∀ x ∈ l, (Num.decode t x).isNan = false) :
    let M := l.foldl (nanMax t) m
    (M = m ∨ M ∈ l) ∧ m ≤ M ∧ ∀ x ∈ l, x ≤ M := by
  induction l generalizing m with
  | nil => exact ⟨.inl rfl, le_rfl, fun x hx => absurd hx List.not_mem_nil⟩
  | cons x xs ih =>
    have hx := hl x List.mem_cons_self
    have hstep : nanMax t m x = max m x := by rw [nanMax, hm, hx]; rfl
    have hmax : (Num.decode t (max m x)).isNan = false := by rcases max_choice m x with h | h <;> rwa [h]
    obtain ⟨hmem, hle, hall⟩ := ih hmax fun y hy => hl y (List.mem_cons_of_mem _ hy)
    dsimp only
    rw [List.foldl_cons, hstep]
    refine ⟨?_, (le_max_left _ _).trans hle, List.forall_mem_cons.mpr ⟨(le_max_right _ _).trans hle, hall⟩⟩
    rcases hmem with h | h
    · rcases max_choice m x with h' | h' <;> rw [h'] at h
      · exact .inl (by rw [h', h])
      · exact .inr (by rw [h', h]; exact List.mem_cons_self)
    · exact .inr (List.mem_cons_of_mem _ h)

end

theorem bmaxStep_lt {m : ℕ} (hm : m < 2 ^ 31) (o : Operand) : bmaxStep m o < 2 ^ 31 := by
  rw [bmaxStep_eq]
  refine foldl_nanMax_lt (by decide) _ (fun x hx => ?_) hm
  obtain ⟨i, -, rfl⟩ := List.mem_map.mp hx
  exact Nat.mod_lt _ (by norm_num)

theorem bmaxStep_nan {m : ℕ} {o : Operand} (h : (Num.decode (Num.fmtOf 10) m).isNan = true ∨
    ∃ i < 16, (Num.decode (Num.fmtOf 10) (entering o i)).isNan = true) : bmaxStep m o = Num.canonNaN (Num.fmtOf 10) := by
  rw [bmaxStep_eq]
  refine foldl_nanMax_nan isNan_canonNaN _ (by simp) (h.imp id ?_)
  rintro ⟨i, hi, hn⟩
  exact ⟨_, List.mem_map_of_mem (List.mem_range.mpr hi), (isNan_magnitude (Num.fmtOf 10) _).trans hn⟩

/-- Without NaN, BMAX keeps the largest magnitude met (R258). -/
theorem bmaxStep_max {m : ℕ} (hlt : m < 2 ^ 31) {o : Operand} (hm : (Num.decode (Num.fmtOf 10) m).isNan = false)
    (ho : ∀ i < 16, (Num.decode (Num.fmtOf 10) (entering o i)).isNan = false) : let M := bmaxStep m o
    (M = m ∨ ∃ i < 16, M = entering o i % 2 ^ 31) ∧ place (Num.decode (Num.fmtOf 10) m) ≤ place (Num.decode (Num.fmtOf 10) M) ∧
      ∀ i < 16, place (Num.decode (Num.fmtOf 10) (entering o i % 2 ^ 31)) ≤ place (Num.decode (Num.fmtOf 10) M) := by
  have hmag : ∀ i < 16, (Num.decode (Num.fmtOf 10) (entering o i % 2 ^ 31)).isNan = false := fun i hi =>
    (isNan_magnitude (Num.fmtOf 10) _).trans (ho i hi)
  obtain ⟨hmem, hle, hall⟩ := foldl_nanMax_max ((List.range 16).map fun i => entering o i % 2 ^ 31) hm (by
    rintro x hx
    obtain ⟨i, hi, rfl⟩ := List.mem_map.mp hx
    exact hmag i (List.mem_range.mp hi))
  rw [← bmaxStep_eq] at hmem hle hall
  replace hmem : bmaxStep m o = m ∨ ∃ i < 16, bmaxStep m o = entering o i % 2 ^ 31 :=
    hmem.imp id fun h => by
      obtain ⟨i, hi, hM⟩ := List.mem_map.mp h
      exact ⟨i, List.mem_range.mp hi, hM.symm⟩
  have hM : (Num.decode (Num.fmtOf 10) (bmaxStep m o)).isNan = false := by
    rcases hmem with h | ⟨i, hi, h⟩ <;> rw [h]
    · exact hm
    · exact hmag i hi
  have hieee : Ieee (Num.fmtOf 10) := ieee_fmtOf (by norm_num) (by norm_num)
  have hMlt := bmaxStep_lt hlt o
  exact ⟨hmem, hieee.place_mono hle hMlt hm hM, fun i hi =>
    hieee.place_mono (hall _ (List.mem_map_of_mem (List.mem_range.mpr hi))) hMlt (hmag i hi) hM⟩

/-- Two nodes of the quantise path wait for their turn. -/
theorem exec_nBmax {s : State} {n : NodeBody} {a : Fire} (h : s.ready n = some a) (hturn : s.inTurn = true) :
    let d := blockLen (n.operand.toNat % 16); let m := a.fr.itix % d
    let M := bmaxStep (if m = 0 then 0 else (pathState s a).cur.toNat) a.l
    let t := ((s.takeOperands a).advanceQ a (if m = d - 1 then 0#64 else BitVec.ofNat 64 M)).flag a.pk a.f a.fr.gen (pathNv a.l)
    exec (.nBmax n) s = .next (if m = d - 1 then t.out a ⟨mkVec 32 (List.replicate 16 M), 0xFFFF#16, 0#4⟩ else t) := by
  obtain ⟨-, -, -, -, hp, -⟩ := ready_spec h
  refine (whenReady_of_ready h _).trans (congrArg Host.Outcome.next ?_)
  rw [hturn, tokensPer_eq, hp]
  rfl

theorem exec_nDelay {s : State} {n : NodeBody} {a : Fire} (h : s.ready n = some a) (hturn : s.inTurn = true)
    (hd : 0 < n.operand.toNat % 128)
    (hpresent : ∀ k, a.fr.itix % (n.operand.toNat % 128) + k < n.operand.toNat % 128 → ∃ f, (s.plane a.pk).frameAt (a.fr.itix + k) = some f ∧
      ((s.plane a.pk).slots.find (slotKey a.node f 0 a.e)).isSome = true) :
    exec (.nDelay n) s = .next (((s.takeOperands a).advanceQ a 0#64).out a { a.l with kind := 0#4 }) := by
  obtain ⟨-, -, -, -, hp, -⟩ := ready_spec h
  refine (whenReady_of_ready h _).trans (congrArg Host.Outcome.next ?_)
  dsimp only
  rw [hturn, max_eq_right hd, if_neg]
  · rfl
  · simp only [Bool.not_true, Bool.false_or, Bool.not_eq_true', Bool.not_eq_false, List.all_eq_true, List.mem_range]
    intro k hk
    obtain ⟨f, hf, hslot⟩ := hpresent k (by omega)
    rw [hp, hf]
    exact hslot

/-- Before its turn, a path node waits (R257). -/
theorem waits_of_not_inTurn {s : State} {n : NodeBody} {a : Fire} (h : s.ready n = some a) (hturn : s.inTurn = false) :
    exec (.nBmax n) s = .next s ∧ exec (.nDelay n) s = .next s ∧ exec (.nBfly n) s = .next s := by
  refine ⟨(whenReady_of_ready h _).trans (congrArg Host.Outcome.next ?_), (whenReady_of_ready h _).trans (congrArg Host.Outcome.next ?_),
    (whenReady_of_ready h _).trans (congrArg Host.Outcome.next ?_)⟩ <;> dsimp only <;> rw [hturn] <;> rfl

/-- BMAX's firing (R258). -/
theorem bmax_streams {s : State} {n : NodeBody} {a : Fire} (h : s.ready n = some a) (hturn : s.inTurn = true) :
    let d := blockLen (n.operand.toNat % 16); let m := a.fr.itix % d
    let M := bmaxStep (if m = 0 then 0 else (pathState s a).cur.toNat) a.l
    Streams (.nBmax n) s a (if m = d - 1 then 0#64 else BitVec.ofNat 64 M) (pathNv a.l) ((s.plane a.pk).srReg a.pk a.e)
      (fun q => ∀ k, (Consumed a k → q.find k = none) ∧ (¬Consumed a k → q.find k = (s.plane a.pk).slots.find k))
      (fun l => (m ≠ d - 1 → l = []) ∧
        (m = d - 1 → ∃ V, (∀ i < 16, lane V i = M % 2 ^ 32) ∧ Both s a.pk a.e n a.f a.fr.gen ⟨V, 0xFFFF#16, 0#4⟩ l)) := by
  intro d m M
  obtain ⟨-, -, -, -, -, hn, -⟩ := ready_spec h
  obtain ⟨q, ht, hq, hslots⟩ := taken_advance h (if m = d - 1 then 0#64 else BitVec.ofNat 64 M)
  obtain ⟨r, htr, hr, hrslots⟩ := firedTo_flag ht hq (pathNv a.l)
  have hs := consumed_slots hn (hrslots.trans hslots)
  have he := exec_nBmax h hturn
  dsimp only at he
  by_cases hm : m = d - 1
  · rw [if_pos hm] at he
    refine (streams_out (slots := fun q => ∀ k, (Consumed a k → q.find k = none) ∧ (¬Consumed a k → q.find k = (s.plane a.pk).slots.find k))
      htr hr he hs).imp (fun _ h => h) fun l hl => ⟨fun h => absurd hm h, fun _ => ⟨_, fun i hi => ?_, by rw [hn] at hl; exact hl⟩⟩
    exact elem_mkVec_replicate 32 16 _ i hi (by norm_num)
  · rw [if_neg hm] at he
    exact (streams_quiet (slots := fun q => ∀ k, (Consumed a k → q.find k = none) ∧ (¬Consumed a k → q.find k = (s.plane a.pk).slots.find k))
      htr hr he hs).imp (fun _ h => h) fun l hl => ⟨fun _ => hl, fun h => absurd h hm⟩

/-- DELAY's firing (R258). -/
theorem delay_streams {s : State} {n : NodeBody} {a : Fire} (h : s.ready n = some a)
    (he : exec (.nDelay n) s = .next (((s.takeOperands a).advanceQ a 0#64).out a { a.l with kind := 0#4 })) :
    Streams (.nDelay n) s a 0#64 0 ((s.plane a.pk).srReg a.pk a.e)
      (fun q => ∀ k, (Consumed a k → q.find k = none) ∧ (¬Consumed a k → q.find k = (s.plane a.pk).slots.find k)) (ForwardsL s a) := by
  obtain ⟨-, -, -, -, -, hn, -⟩ := ready_spec h
  obtain ⟨q, ht, hq, hslots⟩ := taken_advance h 0#64
  exact streams_out ht hq he (consumed_slots hn hslots)

end Sys2Proof.Claim

namespace Sys2Proof.Claim

open Sys2Proof Sys2Proof.Machine

/-! BFLY: sums and differences, each rounded once (R72, R258). -/

theorem ite_flags {c : Prop} [Decidable c] (s : BitVec 32) (fl x y g g' : ℕ) :
    (if c then (x, (⟨0, s, fl ||| g⟩ : Num.Rnd)) else (y, ⟨0, s, fl ||| g'⟩)) =
      ((if c then (x, (⟨0, 0#32, 0 ||| g⟩ : Num.Rnd)) else (y, ⟨0, 0#32, 0 ||| g'⟩)).1,
        ⟨0, s, fl ||| (if c then (x, (⟨0, 0#32, 0 ||| g⟩ : Num.Rnd)) else (y, ⟨0, 0#32, 0 ||| g'⟩)).2.fl⟩) := by
  split <;> simp

/-- Rounding to nearest depends neither on S nor on earlier flags. -/
theorem roundMag_rne (t : Num.Fmt) (sat : ℕ) (s : BitVec 32) (fl : ℕ) (neg : Bool) (n d : ℕ) (exact : Bool) :
    Num.roundMag t sat ⟨0, s, fl⟩ neg n d exact = ((Num.roundMag t sat ⟨0, 0#32, 0⟩ neg n d exact).1,
      ⟨0, s, fl ||| (Num.roundMag t sat ⟨0, 0#32, 0⟩ neg n d exact).2.fl⟩) := by
  have hup : ∀ k rem den, Num.roundsUp 0 s neg k rem den = Num.roundsUp 0 0#32 neg k rem den := fun _ _ _ => rfl
  unfold Num.roundMag
  dsimp only
  simp only [hup]
  exact ite_flags s fl _ _ _ _

theorem round_rne (t : Num.Fmt) (sat : ℕ) (s : BitVec 32) (fl : ℕ) (v : Num.Val) :
    Num.round t sat ⟨0, s, fl⟩ v = ((Num.round t sat ⟨0, 0#32, 0⟩ v).1, ⟨0, s, fl ||| (Num.round t sat ⟨0, 0#32, 0⟩ v).2.fl⟩) := by
  have hstep : ∀ s fl, Num.Rnd.step ⟨0, s, fl⟩ = ⟨0, s, fl⟩ := fun _ _ => rfl
  unfold Num.round
  dsimp only
  rw [hstep, hstep]
  cases v with
  | nan sn => dsimp only; split <;> simp [Num.Rnd.raise]
  | inf neg => dsimp only; split <;> [skip; split] <;> simp
  | fin neg n d =>
    dsimp only
    split
    · simp
    · exact roundMag_rne t sat s fl neg n d true

theorem fbin_rne (t : Num.Fmt) (op : ℕ) (s : BitVec 32) (fl x y : ℕ) : Num.fbin t op ⟨0, s, fl⟩ x y =
    ((Num.fbin t op ⟨0, 0#32, 0⟩ x y).1, ⟨0, s, fl ||| (Num.fbin t op ⟨0, 0#32, 0⟩ x y).2.fl⟩) := by
  unfold Num.fbin Num.Rnd.raise
  dsimp only
  rw [round_rne t 0 s, round_rne t 0 0#32 (0 ||| _)]
  simp only [Nat.zero_or, Nat.or_assoc]

/-- Sum, difference and flags of a pair of BFLY. -/
def pairOf (x c : ℕ) : ℕ × ℕ × ℕ :=
  ((Num.fbin (Num.fmtOf 10) 0x20 ⟨0, 0#32, 0⟩ x c).1, (Num.fbin (Num.fmtOf 10) 0x21 ⟨0, 0#32, 0⟩ x c).1,
    (Num.fbin (Num.fmtOf 10) 0x20 ⟨0, 0#32, 0⟩ x c).2.fl ||| (Num.fbin (Num.fmtOf 10) 0x21 ⟨0, 0#32, 0⟩ x c).2.fl)

theorem pairOf_spec (x c : ℕ) : PairOf x c (pairOf x c).1 (pairOf x c).2.1 (pairOf x c).2.2 := by
  have hx := proper_decode (Num.fmtOf 10) x
  have hc := proper_decode (Num.fmtOf 10) c
  exact ⟨_, _, _, _, _, _, sumOf_add 0 hx hc, rfl, sumOf_add 0 hx hc.negate, rfl, rfl⟩

theorem pairOf_lt (x c : ℕ) : (pairOf x c).1 < 2 ^ 32 ∧ (pairOf x c).2.1 < 2 ^ 32 :=
  ⟨(bitsFit_fmtOf 10).round_lt _ _ _, (bitsFit_fmtOf 10).round_lt _ _ _⟩

theorem butterfly_eq (s : BitVec 32) (fl x c : ℕ) :
    butterfly ⟨0, s, fl⟩ x c = ((pairOf x c).1, (pairOf x c).2.1, ⟨0, s, fl ||| (pairOf x c).2.2⟩) := by
  unfold butterfly
  dsimp only
  rw [fbin_rne _ 0x20 s, fbin_rne _ 0x21 s, Nat.or_assoc]
  rfl

/-- Flags of several results. -/
def orFlags (w : ℕ → ℕ) : List ℕ → ℕ
  | [] => 0
  | i :: l => w i ||| orFlags w l

theorem testBit_orFlags (w : ℕ → ℕ) (l : List ℕ) (k : ℕ) : (orFlags w l).testBit k = true ↔ ∃ i ∈ l, (w i).testBit k = true := by
  induction l with
  | nil => simp [orFlags]
  | cons i l ih => simp [orFlags, ih]

/-- A fold over pairs that keeps sums and differences apart. -/
theorem foldl_pairs {g : List ℕ × List ℕ × Num.Rnd → ℕ → List ℕ × List ℕ × Num.Rnd} {p : ℕ → ℕ × ℕ × ℕ}
    (hg : ∀ us vs s fl i, g (us, vs, ⟨0, s, fl⟩) i = (us ++ [(p i).1], vs ++ [(p i).2.1], ⟨0, s, fl ||| (p i).2.2⟩))
    (l us vs : List ℕ) (s : BitVec 32) (fl : ℕ) : l.foldl g (us, vs, ⟨0, s, fl⟩) =
      (us ++ l.map fun i => (p i).1, vs ++ l.map fun i => (p i).2.1, ⟨0, s, fl ||| orFlags (fun i => (p i).2.2) l⟩) := by
  induction l generalizing us vs fl with
  | nil => simp [orFlags]
  | cons i l ih => rw [List.foldl_cons, hg, ih]; simp [orFlags, Nat.or_assoc]

/-- A fold that adds entries where `skip` is false. -/
theorem foldl_entries {α : Type} {g : List α × Num.Rnd → ℕ → List α × Num.Rnd} {skip : ℕ → Bool} {e : ℕ → List α} {w : ℕ → ℕ}
    (hg : ∀ acc s fl i, g (acc, ⟨0, s, fl⟩) i = if skip i = true then (acc, ⟨0, s, fl⟩) else (acc ++ e i, ⟨0, s, fl ||| w i⟩))
    (l : List ℕ) (acc : List α) (s : BitVec 32) (fl : ℕ) : l.foldl g (acc, ⟨0, s, fl⟩) =
      (acc ++ (l.filter fun i => !skip i).flatMap e, ⟨0, s, fl ||| orFlags w (l.filter fun i => !skip i)⟩) := by
  induction l generalizing acc fl with
  | nil => simp [orFlags]
  | cons i l ih =>
    rw [List.foldl_cons, hg]
    cases hi : skip i
    · rw [if_neg Bool.false_ne_true, ih]; simp [hi, orFlags, Nat.or_assoc]
    · rw [if_pos rfl, ih]; simp [hi]

/-- The entry of a key, where the key determines the value. -/
theorem find_entry {l : List (ℕ × ℕ)} {k v : ℕ} (hmem : (k, v) ∈ l) (huniq : ∀ x ∈ l, x.1 = k → x.2 = v) :
    ((l.find? fun x => x.1 = k).map Prod.snd).getD 0 = v := by
  cases hf : l.find? fun x => x.1 = k with
  | none => exact absurd (List.find?_eq_none.mp hf _ hmem) (by simp)
  | some y => exact huniq y (List.mem_of_find?_eq_some hf) (by simpa using List.find?_some hf)

/-- The pairs of a step of BFLY within a token. -/
def stepPairs (o : Operand) (j : ℕ) : List (ℕ × ℕ) :=
  ((List.range 16).filter fun i => !bit i j).flatMap fun i =>
    [(i, (pairOf (entering o i) (entering o (i + 2 ^ j))).1), (i + 2 ^ j, (pairOf (entering o i) (entering o (i + 2 ^ j))).2.1)]

/-- The result of a step of BFLY within a token. -/
def stepVec (o : Operand) (j : ℕ) : Vec :=
  mkVec 32 ((List.range 16).map fun i => (((stepPairs o j).find? fun x => x.1 = i).map Prod.snd).getD 0)

def stepFlags (o : Operand) (j : ℕ) : ℕ :=
  orFlags (fun i => (pairOf (entering o i) (entering o (i + 2 ^ j))).2.2) ((List.range 16).filter fun i => !bit i j)

theorem bit_eq_false_iff (i j : ℕ) : (!bit i j) = true ↔ i / 2 ^ j % 2 = 0 := by
  rw [bit_eq_testBit, Nat.testBit_eq_decide_div_mod_eq]
  have := Nat.mod_two_eq_zero_or_one (i / 2 ^ j)
  simp

theorem lane_stepVec (o : Operand) {i j : ℕ} (hj : j < 4) (hi : i < 16) (hij : i / 2 ^ j % 2 = 0) :
    lane (stepVec o j) i = (pairOf (entering o i) (entering o (i + 2 ^ j))).1 ∧
      lane (stepVec o j) (i + 2 ^ j) = (pairOf (entering o i) (entering o (i + 2 ^ j))).2.1 := by
  have hpartner : ∀ j : Fin 4, ∀ i : Fin 16, i.val / 2 ^ j.val % 2 = 0 → i.val + 2 ^ j.val < 16 := by decide
  have hshift : ∀ i, (i + 2 ^ j) / 2 ^ j = i / 2 ^ j + 1 := fun i => Nat.add_div_right i (by positivity)
  have hmem : ∀ x, x ∈ stepPairs o j ↔ ∃ i < 16, i / 2 ^ j % 2 = 0 ∧
      (x = (i, (pairOf (entering o i) (entering o (i + 2 ^ j))).1) ∨ x = (i + 2 ^ j, (pairOf (entering o i) (entering o (i + 2 ^ j))).2.1)) := by
    intro x
    simp only [stepPairs, List.mem_flatMap, List.mem_filter, List.mem_range, bit_eq_false_iff, List.mem_cons, List.not_mem_nil, or_false, and_assoc]
  obtain ⟨hu, hv⟩ := pairOf_lt (entering o i) (entering o (i + 2 ^ j))
  unfold stepVec
  constructor
  · rw [lane_mkVec _ i hi, find_entry ((hmem _).mpr ⟨i, hi, hij, .inl rfl⟩), Nat.mod_eq_of_lt hu]
    intro x hx hkey
    obtain ⟨i', -, hi', rfl | rfl⟩ := (hmem x).mp hx <;> dsimp only at hkey
    · rw [hkey]
    · have := hshift i'
      rw [hkey] at this
      omega
  · rw [lane_mkVec _ _ (hpartner ⟨j, hj⟩ ⟨i, hi⟩ hij), find_entry ((hmem _).mpr ⟨i, hi, hij, .inr rfl⟩), Nat.mod_eq_of_lt hv]
    intro x hx hkey
    obtain ⟨i', -, hi', rfl | rfl⟩ := (hmem x).mp hx <;> dsimp only at hkey
    · have := hshift i
      rw [← hkey] at this
      omega
    · rw [Nat.add_right_cancel hkey]

section

variable {s : State} {n : NodeBody} {a : Fire} (h : s.ready n = some a) (hturn : s.inTurn = true)
include h hturn

theorem exec_nBfly_within (hj : n.operand.toNat % 16 < 4) : exec (.nBfly n) s =
    .next ((((s.takeOperands a).advanceQ a 0#64).flag a.pk a.f a.fr.gen (stepFlags a.l (n.operand.toNat % 16))).out a
      ⟨stepVec a.l (n.operand.toNat % 16), 0xFFFF#16, 0#4⟩) := by
  refine (whenReady_of_ready h _).trans (congrArg Host.Outcome.next ?_)
  dsimp only
  rw [hturn, Bool.not_true, if_neg Bool.false_ne_true, if_pos hj,
    foldl_entries (skip := fun i => bit i (n.operand.toNat % 16))
      (e := fun i => [(i, (pairOf (entering a.l i) (entering a.l (i + 2 ^ (n.operand.toNat % 16)))).1),
        (i + 2 ^ (n.operand.toNat % 16), (pairOf (entering a.l i) (entering a.l (i + 2 ^ (n.operand.toNat % 16)))).2.1)])
      (w := fun i => (pairOf (entering a.l i) (entering a.l (i + 2 ^ (n.operand.toNat % 16)))).2.2)
      (fun acc s fl i => by dsimp only; rw [butterfly_eq]; rfl), List.nil_append, Nat.zero_or]
  rfl

theorem exec_nBfly_upper (hj : 4 ≤ n.operand.toNat % 16)
    (hm : a.fr.itix % blockLen (n.operand.toNat / 16 % 16) / 2 ^ (n.operand.toNat % 16 - 4) % 2 = 1) : exec (.nBfly n) s =
    .next (((s.takeOperands a).advanceQ a 0#64).out a ⟨mkVec 32 ((List.range 16).map (entering a.l)), 0xFFFF#16, 0#4⟩) := by
  refine (whenReady_of_ready h _).trans (congrArg Host.Outcome.next ?_)
  dsimp only
  rw [hturn, Bool.not_true, if_neg Bool.false_ne_true, if_neg (by omega), tokensPer_eq, if_pos]
  · rfl
  · rw [bit_eq_testBit, Nat.testBit_eq_decide_div_mod_eq, hm]; rfl

theorem exec_nBfly_lower (hj : 4 ≤ n.operand.toNat % 16)
    (hm : a.fr.itix % blockLen (n.operand.toNat / 16 % 16) / 2 ^ (n.operand.toNat % 16 - 4) % 2 = 0) {f : ℕ} {c : Operand}
    (hf : (s.plane a.pk).frameAt (a.fr.itix + 2 ^ (n.operand.toNat % 16 - 4)) = some f)
    (hc : (s.plane a.pk).slots.find (slotKey a.node f 0 a.e) = some c) : exec (.nBfly n) s =
    let p i := pairOf (entering a.l i) (entering c i)
    let t := (s.takeOperands a).advanceQ a 0#64
    .next (((t.setPlane a.pk { t.plane a.pk with
      slots := (t.plane a.pk).slots.put (slotKey a.node f 0 a.e) ⟨mkVec 32 ((List.range 16).map fun i => (p i).2.1), 0xFFFF#16, c.kind⟩ }).flag
        a.pk a.f a.fr.gen (orFlags (fun i => (p i).2.2) (List.range 16))).out a ⟨mkVec 32 ((List.range 16).map fun i => (p i).1), 0xFFFF#16, 0#4⟩) := by
  obtain ⟨-, -, -, -, hp, -⟩ := ready_spec h
  refine (whenReady_of_ready h _).trans (congrArg Host.Outcome.next ?_)
  dsimp only
  rw [hturn, Bool.not_true, if_neg Bool.false_ne_true, if_neg (by omega), tokensPer_eq, if_neg, hp, hf]
  · dsimp only
    rw [hc]
    dsimp only
    rw [foldl_pairs (p := fun i => pairOf (entering a.l i) (entering c i)) (fun us vs s fl i => by dsimp only; rw [butterfly_eq]; rfl),
      Nat.zero_or]
    rfl
  · rw [bit_eq_testBit, Nat.testBit_eq_decide_div_mod_eq, hm]; decide

end

end Sys2Proof.Claim

namespace Sys2Proof.Claim

open Sys2Proof Sys2Proof.Machine

/-! The values of QNT and DQNT (R52, R53, R72 to R75). -/

theorem cScale_spec (st : ℕ) : 0 < (cScale st).1 ∧ 0 < (cScale st).2 ∧ norm st = ((cScale st).1 : ℚ) / (cScale st).2 := by
  unfold cScale norm
  split
  · exact ⟨one_pos, by positivity, by push_cast; rfl⟩
  · exact ⟨by norm_num, by positivity, by rw [div_div]; norm_num⟩

theorem e8m0_spec (c : ℕ) : 0 < (e8m0 c).1 ∧ 0 < (e8m0 c).2 ∧ ((e8m0 c).1 : ℚ) / (e8m0 c).2 = 2 ^ ((c : ℤ) - 127) := by
  unfold e8m0
  split
  next h =>
    refine ⟨by positivity, one_pos, ?_⟩
    push_cast
    rw [div_one, ← zpow_natCast, Nat.cast_sub h]
    rfl
  next h =>
    refine ⟨one_pos, by positivity, ?_⟩
    push_cast
    rw [one_div, ← zpow_natCast, ← zpow_neg, Nat.cast_sub (by omega)]
    congr 1
    push_cast
    ring

/-- A value times a fraction. -/
theorem timesOf_timesFrac {v : Num.Val} (hv : Proper v) {n d : ℕ} (hd : 0 < d) {c : ℚ} (hc : c = n / d) : TimesOf v c (timesFrac v n d) := by
  subst hc
  cases v with
  | nan sn => exact ⟨fun _ => rfl, fun _ h => (nomatch h), fun _ _ _ h => (nomatch h)⟩
  | inf neg => exact ⟨fun _ => rfl, fun _ _ => rfl, fun _ _ _ h => (nomatch h)⟩
  | fin neg x y =>
    refine ⟨fun h => (nomatch h), fun _ h => (nomatch h), fun neg' n' d' h => ?_⟩
    obtain ⟨rfl, rfl, rfl⟩ := Num.Val.fin.inj h
    refine ⟨_, _, rfl, Nat.mul_pos (hv _ _ _ rfl) hd, ?_⟩
    unfold timesFrac
    rw [q_fin, q_fin, Nat.cast_mul, Nat.cast_mul, mul_assoc, div_mul_div_comm]

theorem proper_timesFrac {v : Num.Val} (hv : Proper v) {n d : ℕ} (hd : 0 < d) : Proper (timesFrac v n d) := by
  cases v with
  | nan sn => exact proper_nan sn
  | inf neg => exact proper_inf neg
  | fin neg x y => exact proper_fin (Nat.mul_pos (hv _ _ _ rfl) hd)

theorem isNan_timesFrac (v : Num.Val) (n d : ℕ) : (timesFrac v n d).isNan = v.isNan := by cases v <;> rfl

/-- The code of a scale from the magnitude it stands for. -/
def scaleCode (tid ay : ℕ) (r : Num.Rnd) : ℕ × Num.Rnd :=
  if tidFmt tid = 15 then Num.round (Num.fmtOf 8) 1 { r with mode := 0 } (Num.decode (Num.fmtOf 10) ay)
  else match Num.decode (Num.fmtOf 10) ay with
    | .fin _ n d =>
      if n = 0 then (0, r)
      else
        let e := Num.floorLog n d - emaxOf (tidFmt tid)
        let e := if e < -127 then -127 else if 127 < e then 127 else e
        ((e + 127).toNat, r)
    | _ => (0xFF, r.raise Num.NV)

theorem blockScale_plain (tid amax : ℕ) (r : Num.Rnd) : blockScale tid 0 amax r = scaleCode tid amax r := rfl

theorem blockScale_scaled (tid amax : ℕ) {st : ℕ} (hst : st ≠ 0) (mode : ℕ) (s : BitVec 32) :
    let o := Num.round (Num.fmtOf 10) 0 ⟨0, 0#32, 0⟩ (timesFrac (Num.decode (Num.fmtOf 10) amax) (cScale st).1 (cScale st).2)
    blockScale tid st amax ⟨mode, s, 0⟩ = scaleCode tid o.1 ⟨0, s, o.2.fl⟩ := by
  intro o
  have hround : Num.round (Num.fmtOf 10) 0 ⟨0, s, 0⟩ (timesFrac (Num.decode (Num.fmtOf 10) amax) (cScale st).1 (cScale st).2) =
      (o.1, ⟨0, s, o.2.fl⟩) := by rw [round_rne, Nat.zero_or]
  unfold blockScale
  dsimp only
  rw [if_neg hst, hround]
  rfl

/-- The code of a scale, and its flags (R73). -/
theorem scaleCode_spec (tid ay mode : ℕ) (s : BitVec 32) (f0 : ℕ) : let f32 := Num.fmtOf 10; let fmt := tidFmt tid
    let o := scaleCode tid ay ⟨mode, s, f0⟩
    o.2.s = s ∧ (fmt = 15 → ∃ R, (o.1, R) = Num.round (Num.fmtOf 8) 1 ⟨0, 0#32, f0⟩ (Num.decode f32 ay) ∧ o.2.fl = R.fl) ∧
    (fmt ≠ 15 →
      (∀ neg d, Num.decode f32 ay = .fin neg 0 d → o.1 = 0 ∧ o.2.fl = f0) ∧
      (∀ neg n d, Num.decode f32 ay = .fin neg (n + 1) d → o.2.fl = f0 ∧ ∃ e : ℤ, (2 : ℚ) ^ e ≤ |qOf f32 ay| ∧ |qOf f32 ay| < 2 ^ (e + 1) ∧
        (o.1 : ℤ) = max (-127) (min 127 (e - emaxOf fmt)) + 127) ∧
      ((∀ neg n d, Num.decode f32 ay ≠ .fin neg n d) → o.1 = 255 ∧ o.2.fl = f0 ||| 1)) := by
  intro f32 fmt o
  have ho : o = scaleCode tid ay ⟨mode, s, f0⟩ := rfl
  unfold scaleCode at ho
  by_cases hfmt : fmt = 15
  · rw [if_pos hfmt, round_rne] at ho
    rw [ho]
    exact ⟨rfl, fun _ => ⟨_, (round_rne _ _ _ _ _).symm, rfl⟩, fun h => absurd hfmt h⟩
  rw [if_neg hfmt] at ho
  have hqof : qOf f32 ay = q (Num.decode f32 ay) := rfl
  have hproper := proper_decode f32 ay
  rw [hqof]
  rw [show Num.decode (Num.fmtOf 10) ay = Num.decode f32 ay from rfl] at ho
  clear_value o
  generalize Num.decode f32 ay = v at *
  subst ho
  refine ⟨?_, fun h => absurd h hfmt, fun _ => ⟨?_, ?_, ?_⟩⟩
  · cases v with
    | nan sn => rfl
    | inf neg => rfl
    | fin neg n d => dsimp only; split <;> rfl
  · rintro neg d rfl
    exact ⟨rfl, rfl⟩
  · rintro neg n d rfl
    obtain ⟨hlow, hhigh⟩ := floorLog_spec n.succ_pos (hproper _ _ _ rfl)
    have habs : |q (.fin neg (n + 1) d)| = ((n + 1 : ℕ) : ℚ) / d := by
      rw [q_fin, abs_signOf_mul, abs_of_nonneg (by positivity)]
    refine ⟨rfl, Num.floorLog (n + 1) d, by rwa [habs], by rwa [habs], ?_⟩
    dsimp only
    rw [if_neg n.succ_ne_zero]
    dsimp only
    generalize Num.floorLog (n + 1) d - emaxOf (tidFmt tid) = e
    split
    · omega
    split <;> omega
  · intro h
    cases v with
    | nan sn => exact ⟨rfl, rfl⟩
    | inf neg => exact ⟨rfl, rfl⟩
    | fin neg n d => exact absurd rfl (h neg n d)

/-- The scale of a block (R73). -/
theorem blockScale_spec (tid st amax mode : ℕ) (s : BitVec 32) : let o := blockScale tid st amax ⟨mode, s, 0⟩
    ScaleOf (tidFmt tid) st amax o.1 o.2.fl ∧ o.2.s = s := by
  by_cases hst : st = 0
  · rw [hst, blockScale_plain]
    obtain ⟨hs, hcode⟩ := scaleCode_spec tid amax mode s 0
    exact ⟨⟨amax, 0, by rw [if_pos rfl]; exact ⟨rfl, rfl⟩, hcode⟩, hs⟩
  · rw [blockScale_scaled tid amax hst]
    dsimp only
    obtain ⟨hn, hd, hnorm⟩ := cScale_spec st
    generalize ho : Num.round (Num.fmtOf 10) 0 ⟨0, 0#32, 0⟩ (timesFrac (Num.decode (Num.fmtOf 10) amax) (cScale st).1 (cScale st).2) = o
    obtain ⟨hs, hcode⟩ := scaleCode_spec tid o.1 0 s o.2.fl
    refine ⟨⟨o.1, o.2.fl, ?_, hcode⟩, hs⟩
    rw [if_neg hst]
    exact ⟨_, o.2, timesOf_timesFrac (proper_decode _ _) hd hnorm, ho.symm, rfl⟩

/-! One element of QNT (R74). -/

/-- A ternary code by the thresholds ±half. -/
theorem ternary_code {y half : Num.Val} (hy : Proper y) (hh : Proper half) {s s' : Bool} {n d n' d' : ℕ} (ey : y = .fin s n d)
    (eh : half = .fin s' n' d') (r : Num.Rnd) :
    (if Num.cmp y half = .gt then (1, r) else if Num.cmp y half.negate = .lt then (3, r) else (0, r)) =
      ((if q half < q y then 1 else if q y < -q half then 3 else 0 : ℕ), r) := by
  have hgt : Num.cmp y half = .gt ↔ q half < q y := by
    rw [cmp_eq_compare hy hh (by rw [ey]; rfl) (by rw [eh]; rfl), ey, eh]
    unfold place
    rw [compare_coe, compare_gt_iff_gt]
  have hlt : Num.cmp y half.negate = .lt ↔ q y < -q half := by
    rw [cmp_eq_compare hy hh.negate (by rw [ey]; rfl) (by rw [eh]; rfl), ← q_negate, ey, eh]
    unfold Num.Val.negate place
    rw [compare_coe, compare_lt_iff_lt]
  by_cases h1 : q half < q y
  · rw [if_pos (hgt.mpr h1), if_pos h1]
  rw [if_neg (fun h => h1 (hgt.mp h)), if_neg h1]
  by_cases h2 : q y < -q half
  · rw [if_pos (hlt.mpr h2), if_pos h2]
  · rw [if_neg (fun h => h2 (hlt.mp h)), if_neg h2]

section

variable (tid st code x : ℕ) (R0 : Num.Rnd)

/-- The rounding state after the flag of a signalling NaN. -/
def snanRaised : Num.Rnd := R0.raise (if (Num.decode (Num.fmtOf 10) x).isSnan then 1 else 0)

theorem snanRaised_eq : (if (Num.decode (Num.fmtOf 10) x).isSnan = true then R0.raise Num.NV else R0) = snanRaised x R0 := by
  unfold snanRaised
  split
  · rfl
  · exact (raise_zero _).symm

theorem quantElem_ternary (h : tidFmt tid = 15) : let v := Num.decode (Num.fmtOf 10) x; let o := quantElem tid st code R0 x
    o.2 = snanRaised x R0 ∧ (v.isNan = true ∨ code % 2 ^ 15 = 0 → o.1 = 0) ∧
    (∀ neg n d, v = .fin neg n d → code % 2 ^ 15 ≠ 0 → (∃ s m e, Num.decode (Num.fmtOf 8) code = .fin s m e) →
      let y := q v * norm st; let half := qOf (Num.fmtOf 8) code / 2
      o.1 = if half < y then 1 else if y < -half then 3 else 0) ∧ o.1 < 4 := by
  intro v o
  have ho : o = quantElem tid st code R0 x := rfl
  unfold quantElem at ho
  dsimp only at ho
  rw [snanRaised_eq, if_pos h, isNan_timesFrac, isNan_timesFrac] at ho
  obtain ⟨-, hcd, hnorm⟩ := cScale_spec st
  have hy := timesOf_timesFrac (proper_decode (Num.fmtOf 10) x) hcd hnorm
  have hhalf := timesOf_timesFrac (proper_decode (Num.fmtOf 8) code) (n := 1) two_pos (c := 1 / 2) (by norm_num)
  have hyp := proper_timesFrac (proper_decode (Num.fmtOf 10) x) (n := (cScale st).1) hcd
  have hhp := proper_timesFrac (proper_decode (Num.fmtOf 8) code) (n := 1) two_pos
  rw [show Num.decode (Num.fmtOf 10) x = v from rfl] at ho hy hyp
  clear_value o v
  subst ho
  refine ⟨?_, fun hz => ?_, fun neg n d hv hcode hfin => ?_, ?_⟩
  · split
    · rfl
    split
    · rfl
    split <;> rfl
  · rcases hz with hz | hz
    · rw [if_pos (by rw [hz]; rfl)]
    · rw [if_pos (by rw [decide_eq_true hz, Bool.or_true])]
  · obtain ⟨s, m, e, hdec⟩ := hfin
    obtain ⟨m', e', hhalf', -, hq⟩ := hhalf.2.2 _ _ _ hdec
    obtain ⟨n', d', hy', -, hqy⟩ := hy.2.2 _ _ _ hv
    rw [if_neg (by rw [hv, hdec]; simpa [Num.Val.isNan] using hcode), ternary_code hyp hhp hy' hhalf', hq, hqy, qOf, mul_one_div]
  · split
    · norm_num
    split
    · norm_num
    split <;> norm_num

theorem quantElem_scaled (h : tidFmt tid ≠ 15) : quantElem tid st code R0 x =
    if code = 0xFF then (0, (snanRaised x R0).step)
    else
      let y := timesFrac (Num.decode (Num.fmtOf 10) x) ((cScale st).1 * (e8m0 code).2) ((cScale st).2 * (e8m0 code).1)
      if tidFmt tid = 16 then
        match y with
        | .fin neg n d =>
          (Num.ofInt 8 (Num.clamp (-127) 127 (Num.roundInt (snanRaised x R0).step neg (64 * n) d).1).1,
            if (Num.clamp (-127) 127 (Num.roundInt (snanRaised x R0).step neg (64 * n) d).1).2 then (snanRaised x R0).step.raise (Num.OF ||| Num.NX)
            else if (Num.roundInt (snanRaised x R0).step neg (64 * n) d).2 then (snanRaised x R0).step.raise Num.NX
            else (snanRaised x R0).step)
        | _ => (0, (snanRaised x R0).step)
      else Num.round (Num.fmtOf (tidFmt tid)) 1 (snanRaised x R0) y := by
  unfold quantElem
  dsimp only
  rw [snanRaised_eq, if_neg h] <;> rfl

/-- One element of QNT, by its format (R74). -/
theorem quantOf_quantElem : QuantOf (tidFmt tid) st code x R0 (quantElem tid st code R0 x).1 (quantElem tid st code R0 x).2 := by
  refine ⟨fun h => ?_, fun h hc => ?_, fun h hc => ?_⟩
  · obtain ⟨hR, hz, hval, -⟩ := quantElem_ternary tid st code x R0 h
    exact ⟨hR, hz, hval⟩
  · rw [quantElem_scaled tid st code x R0 h, if_pos hc]
    exact ⟨rfl, rfl⟩
  · obtain ⟨-, hcd, hnorm⟩ := cScale_spec st
    obtain ⟨hsn, hsd, hscale⟩ := e8m0_spec code
    have hy := timesOf_timesFrac (proper_decode (Num.fmtOf 10) x) (n := (cScale st).1 * (e8m0 code).2) (Nat.mul_pos hcd hsn)
      (c := norm st * 2 ^ (127 - (code : ℤ))) (by
        rw [hnorm, ← neg_sub, zpow_neg, ← hscale, inv_div, div_mul_div_comm, Nat.cast_mul, Nat.cast_mul])
    have hyp := proper_timesFrac (proper_decode (Num.fmtOf 10) x) (n := (cScale st).1 * (e8m0 code).2) (Nat.mul_pos hcd hsn)
    rw [quantElem_scaled tid st code x R0 h, if_neg (show ¬code = 0xFF by omega)]
    dsimp only
    refine ⟨_, hy, fun h16 neg n d hv => ?_, fun hlt => ?_⟩
    · rw [hv] at hyp
      rw [if_pos h16, hv]
      dsimp only
      obtain ⟨hround, hinx⟩ := roundedInt_roundInt (hyp _ _ _ rfl) (n := 64 * n) (snanRaised x R0).step neg
      have hq : q (.fin neg (64 * n) d) = 64 * q (.fin neg n d) := by
        rw [q_fin, q_fin]
        push_cast
        ring
      rw [hq] at hround hinx
      rw [clamp_spec (by norm_num), step_mode] at *
      generalize (Num.roundInt (snanRaised x R0).step neg (64 * n) d) = k at *
      have hraise := raise_clamped (snanRaised x R0).step (hit := decide (k.1 < -127 ∨ 127 < k.1)) (inexact := k.2)
        (P := k.1 < -127 ∨ 127 < k.1) (Q := (k.1 : ℚ) = 64 * q (.fin neg n d)) decide_eq_true_iff hinx 20
      refine ⟨k.1, ?_, ?_, hraise⟩
      · rw [show (Num.OF ||| Num.NX) = 20 from rfl, show Num.NX = 16 from rfl, hraise]
        exact hround
      · rw [cast_numOfInt]
        rfl
    · rw [if_neg (show tidFmt tid ≠ 16 by omega)]
      rfl

theorem quantElem_lt (hfmt : tidFmt tid = 12 ∨ tidFmt tid = 13 ∨ tidFmt tid = 14 ∨ tidFmt tid = 15 ∨ tidFmt tid = 16) :
    (quantElem tid st code R0 x).1 < 2 ^ tidWidth tid := by
  have hround : tidFmt tid = 12 ∨ tidFmt tid = 13 ∨ tidFmt tid = 14 → tidWidth tid = (Num.fmtOf (tidFmt tid)).width := fun h => by
    unfold tidWidth
    rcases h with h | h | h <;> rw [h] <;> rfl
  by_cases h15 : tidFmt tid = 15
  · obtain ⟨-, -, -, hlt⟩ := quantElem_ternary tid st code x R0 h15
    unfold tidWidth
    rw [h15]
    exact hlt
  rw [quantElem_scaled tid st code x R0 h15]
  split
  · exact Nat.two_pow_pos _
  dsimp only
  split
  next h16 =>
    have hw : tidWidth tid = 8 := if_pos h16.ge
    rw [hw]
    split
    · exact ofInt_lt 8 _
    · norm_num
  next h16 =>
    rw [hround (by omega)]
    exact (bitsFit_fmtOf _).round_lt _ _ _

end

/-! The values of DQNT (R52, R53, R75). -/

theorem tidValue_tidElem {fmt : ℕ} (x : ℕ) : TidValue fmt x (tidElem fmt x).1 (tidElem fmt x).2 := by
  unfold tidElem
  refine ⟨fun h => ?_, fun h => ?_⟩
  · rw [if_pos h]
    refine ⟨rfl, ⟨_, _, _, rfl, by norm_num⟩, ?_⟩
    rw [q_ofInt, numToInt_eq]
    norm_num
  · rw [if_neg h.ne]
    exact valueOf_elemVal fmt x

theorem scaleVal_spec {sc x : ℕ} (hsc : sc ≤ 4) (hx : x < 2 ^ 32) : ScaleVal sc x (scaleVal sc x) := by
  unfold ScaleVal
  interval_cases sc
  · simp [scaleVal]
  · simp only [scaleVal]
    refine ⟨by simp, fun _ h => ?_, fun _ h => ?_, by simp, by simp, by simp⟩
    · rw [if_pos h]; rfl
    · obtain ⟨hn, hd, hq⟩ := e8m0_spec (x % 256)
      rw [if_neg h.ne]
      exact ⟨_, _, rfl, hd, by rw [q_fin, signOf, if_neg Bool.false_ne_true, one_mul, hq]⟩
  · simp [scaleVal]
  · simp [scaleVal, Nat.mod_eq_of_lt (show x < 4294967296 from hx)]
  · simp [scaleVal]

theorem proper_tidElem (fmt x : ℕ) : Proper (tidElem fmt x).1 := by
  unfold tidElem
  split
  · exact proper_fin (by norm_num)
  · exact proper_elemVal fmt x

theorem proper_scaleVal (sc x : ℕ) : Proper (scaleVal sc x) := by
  unfold scaleVal
  split
  · exact proper_fin one_pos
  · split
    · exact proper_nan _
    · exact proper_fin (e8m0_spec _).2.1
  all_goals exact proper_decode _ _

end Sys2Proof.Claim

namespace Sys2Proof.Claim

open Sys2Proof Sys2Proof.Machine

/-! The firings of QNT and DQNT (R259). -/

theorem frame_of_mayFire {s : State} {fr : Frame} (h : s.mayFire = some fr) : (s.plane s.site.plane).frames.find s.site.frame = some fr := by
  unfold State.mayFire at h
  dsimp only at h
  split at h
  · cases h
  split at h
  next f hf =>
    split at h
    · cases h
    · exact hf.trans h
  next => cases h

/-- The firing that the model hands a QNT or a DQNT. -/
def blockFire (s : State) (n : NodeBody) (a : Fire) : Fire :=
  { a with n := n, r := noOperand, pr := noOperand, rnd := ⟨n.mod.toNat % 8, (s.plane a.pk).srReg a.pk a.e, 0⟩ }

section

variable {s : State} {n : NodeBody} {a : Fire} {d rf : ℕ} {r : Operand}

theorem BlockPresent.frame (h : BlockPresent s n a d rf r) : (s.plane a.pk).frames.find a.f = some a.fr := by
  obtain ⟨hpk, -, -, hf, -, -, hmay, -⟩ := h
  rw [hpk, hf]
  exact frame_of_mayFire hmay

theorem BlockPresent.path (h : BlockPresent s n a d rf r) :
    (blockFire s n a).p.q (blockFire s n a).e (blockFire s n a).node = pathState s a := by
  obtain ⟨hpk, -, -, -, hp, -⟩ := h
  rw [← hpk] at hp
  unfold pathState blockFire
  dsimp only
  rw [hp]
  rfl

/-- What a QNT or a DQNT does with its operands present (R259). -/
theorem whenBlock_of_present (h : BlockPresent s n a d rf r) (f : Fire → ℕ → ℕ → ℕ → Operand → State) : s.whenBlock n f =
    if tidValid (pathState s a).tid.toNat = true then .next (f (blockFire s n a) (pathState s a).tid.toNat d rf r)
    else .next (s.fireFault (blockFire s n a) (s.frameRec a.pk a.e a.node a.f Cause.tidInvalid 0 0 0)) := by
  have hframe := h.frame
  obtain ⟨hpk, he, hnode, hf, hp, -, hmay, hread, hturn, hd, hlast, hr⟩ := h
  rw [← hpk] at hp
  have hturn' : s.inTurn = true := (inTurn_iff hpk he hnode (by rw [← hpk, ← hf]; exact hframe)).mpr hturn
  have hd' : tokensPer (tidBlk ((s.plane a.pk).q a.e a.node).tid.toNat) = d := by rw [tokensPer_eq, hd]; rfl
  have hblock : (blockFire s n a).blockR d = some (rf, r) := by
    unfold Fire.blockR Plane.lastOf blockFire
    dsimp only
    rw [hp, hlast]
    dsimp only
    rw [hr]
    rfl
  have hfire : (⟨a.pk, a.e, a.node, a.f, s.plane a.pk, a.fr, n, a.l, noOperand, noOperand,
      ⟨n.mod.toNat % 8, (s.plane a.pk).srReg a.pk a.e, 0⟩⟩ : Fire) = blockFire s n a := by
    unfold blockFire
    rw [hp]
  unfold State.whenBlock
  rw [hmay, hread]
  dsimp only
  rw [hturn', Bool.not_true, if_neg Bool.false_ne_true, ← hpk, ← he, ← hnode, ← hf, hd', hfire, hblock]
  rfl

theorem tidValid_iff {w : ℕ} (x : BitVec w) : tidValid x.toNat = x.getLsbD 79 := by
  unfold tidValid
  rw [bit_eq_testBit]
  rfl

/-- The plane after a block's firing has taken its operands. -/
theorem taken_block (h : BlockPresent s n a d rf r) (cur : BitVec 64) : ∃ q, FiredTo s (s.takeBlock (blockFire s n a) d rf cur) a.pk a.e q ∧
    Streamed s a cur 0 ((s.plane a.pk).srReg a.pk a.e) q ∧ TakesBlock s a d rf q.slots := by
  have hframe := h.frame
  obtain ⟨hpk, -, -, -, hp, -⟩ := h
  rw [← hpk] at hp
  unfold State.takeBlock
  dsimp only
  have hslots : ∀ p : Plane, p = (if a.fr.itix % d = d - 1 then (a.p.take a.e a.node a.f 0).take a.e a.node rf 1 else a.p.take a.e a.node a.f 0) →
      p = { s.plane a.pk with slots := p.slots } ∧ TakesBlock s a d rf p.slots := by
    rintro p rfl
    refine ⟨?_, fun k => ?_⟩
    · rw [hp]
      split <;> rfl
    · rw [hp]
      unfold Plane.take
      split
      next hm =>
        dsimp only
        rw [Map.find_del, Map.find_del]
        by_cases h0 : k = slotKey a.node a.f 0 a.e <;> by_cases h1 : k = slotKey a.node rf 1 a.e <;> simp [h0, h1, hm]
      next hm =>
        dsimp only
        rw [Map.find_del]
        simp [hm]
  obtain ⟨hrest, htakes⟩ := hslots _ rfl
  have ht := firedTo_advanceQ (firedTo_markFired s a.pk a.e _) cur (p := { s.plane a.pk with
    slots := (if a.fr.itix % d = d - 1 then (a.p.take a.e a.node a.f 0).take a.e a.node rf 1 else a.p.take a.e a.node a.f 0).slots })
  rw [← hrest] at ht
  refine ⟨_, ht, ?_, htakes⟩
  have hq := streamed_advance hframe
    (if a.fr.itix % d = d - 1 then (a.p.take a.e a.node a.f 0).take a.e a.node rf 1 else a.p.take a.e a.node a.f 0).slots cur
  rw [hrest]
  exact hq

/-- Flags and S recorded after a block's firing. -/
theorem firedTo_noteRnd {b : Fire} {t : State} {q : Plane} {cur : BitVec 64} (ht : FiredTo s t a.pk a.e q)
    (h : Streamed s a cur 0 ((s.plane a.pk).srReg a.pk a.e) q) (hpk : b.pk = a.pk) (he : b.e = a.e) (hf : b.f = a.f) (hfr : b.fr = a.fr)
    (hs : b.rnd.s = (s.plane a.pk).srReg a.pk a.e) (R : Num.Rnd) :
    ∃ q', FiredTo s (t.noteRnd b R) a.pk a.e q' ∧ Streamed s a cur R.fl R.s q' ∧ q'.slots = q.slots := by
  obtain ⟨q1, ht1, h1, hslots⟩ := firedTo_flag ht h R.fl
  unfold State.noteRnd
  rw [hpk, he, hf, hfr, hs]
  dsimp only
  by_cases hR : R.s = (s.plane a.pk).srReg a.pk a.e
  · rw [if_pos hR, hR]
    exact ⟨q1, ht1, h1, hslots⟩
  · have hS := h1.withS (S := R.s)
    rw [if_neg hR] at hS
    rw [if_neg hR, ht1.plane]
    exact ⟨_, ht1.setPlane _, hS, hslots⟩

/-- A firing that sends on one destination, and on the other under a condition. -/
theorem streams_two {i : Instr} {t : State} {q : Plane} {cur : BitVec 64} {fl : ℕ} {S : BitVec 32} {slots : Map Operand → Prop}
    {d0 d1 : BitVec 32} {v0 v1 : Operand} {c : Prop} [Decidable c] (ht : FiredTo s t a.pk a.e q) (h : Streamed s a cur fl S q)
    (he : exec i s = .next (if c then (t.sendTo a.pk a.e d0 a.f a.fr.gen v0).sendTo a.pk a.e d1 a.f a.fr.gen v1
      else t.sendTo a.pk a.e d0 a.f a.fr.gen v0)) (hslots : slots q.slots) :
    Streams i s a cur fl S slots (fun l => ∃ l0 l1, l = l0 ++ l1 ∧ Sends s a.pk a.e d0 a.f a.fr.gen v0 l0 ∧
      (c → Sends s a.pk a.e d1 a.f a.fr.gen v1 l1) ∧ (¬c → l1 = [])) := by
  have hways := ht.sameWays (by rw [h.rest]) (by rw [h.rest]) (by rw [h.rest])
  obtain ⟨l0, e0, h0⟩ := sendTo_sends t a.pk a.e d0 a.f a.fr.gen v0
  obtain ⟨l1, e1, h1⟩ := sendTo_sends (t.sendTo a.pk a.e d0 a.f a.fr.gen v0) a.pk a.e d1 a.f a.fr.gen v1
  rw [ht.flights_eq] at e0
  by_cases hc : c
  · rw [if_pos hc, e1, e0] at he
    refine streams_of (l := l0 ++ l1) ht h (he.trans ?_) hslots ⟨l0, l1, rfl, h0.congr hways, fun _ => h1.congr ?_, fun h => absurd hc h⟩
    · rw [List.append_assoc]
    · rw [e0]
      exact hways.of_flights _
  · rw [if_neg hc, e0] at he
    exact streams_of (l := l0) ht h he hslots ⟨l0, [], (List.append_nil l0).symm, h0.congr hways, fun h => absurd h hc, fun _ => rfl⟩

/-! QNT. -/

/-- The scale's code and the rounding state with which QNT's elements begin. -/
def qntScale (s : State) (n : NodeBody) (a : Fire) (d : ℕ) (r : Operand) : ℕ × Num.Rnd :=
  if a.fr.itix % d = 0 then blockScale (pathState s a).tid.toNat (pathState s a).stages (entering r 0) (blockFire s n a).rnd
  else ((pathState s a).cur.toNat, (blockFire s n a).rnd)

/-- The rounding states before each element of a QNT. -/
def qntRnd (s : State) (n : NodeBody) (a : Fire) (d : ℕ) (r : Operand) : ℕ → Num.Rnd :=
  threaded (fun R i => quantElem (pathState s a).tid.toNat (pathState s a).stages (qntScale s n a d r).1 R (entering a.l i))
    { (qntScale s n a d r).2 with mode := n.mod.toNat % 8 }

def qntElem (s : State) (n : NodeBody) (a : Fire) (d : ℕ) (r : Operand) (i : ℕ) : ℕ :=
  (quantElem (pathState s a).tid.toNat (pathState s a).stages (qntScale s n a d r).1 (qntRnd s n a d r i) (entering a.l i)).1

theorem qntScale_spec (s : State) (n : NodeBody) (a : Fire) (d : ℕ) (r : Operand) : let tid := (pathState s a).tid.toNat; let o := qntScale s n a d r
    (a.fr.itix % d = 0 → ScaleOf (tidFmt tid) (pathState s a).stages (entering r 0) o.1 o.2.fl) ∧
    (a.fr.itix % d ≠ 0 → o.1 = (pathState s a).cur.toNat ∧ o.2.fl = 0) ∧ o.2.s = (s.plane a.pk).srReg a.pk a.e := by
  intro tid o
  have ho : o = qntScale s n a d r := rfl
  unfold qntScale blockFire at ho
  clear_value o
  by_cases hm : a.fr.itix % d = 0
  · rw [if_pos hm] at ho
    obtain ⟨hscale, hs⟩ := blockScale_spec tid (pathState s a).stages (entering r 0) (n.mod.toNat % 8) ((s.plane a.pk).srReg a.pk a.e)
    rw [ho]
    exact ⟨fun _ => hscale, fun h => absurd hm h, hs⟩
  · rw [if_neg hm] at ho
    rw [ho]
    exact ⟨fun h => absurd h hm, fun _ => ⟨rfl, rfl⟩, rfl⟩

theorem exec_nQnt (h : BlockReady s n a d rf r) : exec (.nQnt n) s =
    let b := tidWidth (pathState s a).tid.toNat
    let t := (s.takeBlock (blockFire s n a) d rf (BitVec.ofNat 64 (qntScale s n a d r).1)).noteRnd (blockFire s n a) (qntRnd s n a d r 16)
    let u := t.sendTo a.pk a.e n.dest0 a.f a.fr.gen ⟨mkVec b ((List.range 16).map (qntElem s n a d r)), BitVec.ofNat 16 (2 ^ ((16 * b + 31) / 32) - 1), 0#4⟩
    .next (if a.fr.itix % d = d - 1 then u.sendTo a.pk a.e n.dest1 a.f a.fr.gen ⟨BitVec.ofNat 512 (qntScale s n a d r).1, 1#16, 0#4⟩ else u) := by
  obtain ⟨hpresent, hvalid⟩ := h
  have hq := hpresent.path
  have he : exec (.nQnt n) s = execNQnt n s := rfl
  rw [he, execNQnt, whenBlock_of_present hpresent, tidValid_iff, hvalid, if_pos rfl]
  dsimp only
  rw [hq, foldl_collect (fun R i => quantElem (pathState s a).tid.toNat (pathState s a).stages (qntScale s n a d r).1 R (entering a.l i))
    (fun _ _ _ => rfl)]
  rfl

theorem qntElem_lt (hfmt : let fmt := tidFmt (pathState s a).tid.toNat; fmt = 12 ∨ fmt = 13 ∨ fmt = 14 ∨ fmt = 15 ∨ fmt = 16) (i : ℕ) :
    qntElem s n a d r i < 2 ^ tidWidth (pathState s a).tid.toNat := quantElem_lt _ _ _ _ _ hfmt

theorem tidWidth_le {tid : ℕ} (hfmt : tidFmt tid = 12 ∨ tidFmt tid = 13 ∨ tidFmt tid = 14 ∨ tidFmt tid = 15 ∨ tidFmt tid = 16) : tidWidth tid ≤ 8 := by
  unfold tidWidth
  rcases hfmt with h | h | h | h | h <;> rw [h] <;> decide

theorem mkVec_lt (b : ℕ) (l : List ℕ) : (mkVec b l).toNat < 2 ^ (b * l.length) := by
  unfold mkVec
  rw [BitVec.toNat_ofNat]
  exact (Nat.mod_le _ _).trans_lt (foldr_elems_lt b l)

theorem elem_mkVec_range {b k : ℕ} (hb : b * k ≤ 512) (f : ℕ → ℕ) {i : ℕ} (hi : i < k) : elem (mkVec b ((List.range k).map f)) b i = f i % 2 ^ b := by
  rw [elem_mkVec b _ i (by simpa using hi) (by simpa using hb), List.getElem_map, List.getElem_range]

/-- QNT sends its elements, and at the block's end its scale (R73, R74, R259). -/
theorem qnt_streams (h : BlockReady s n a d rf r) : let b := tidWidth (pathState s a).tid.toNat
    Streams (.nQnt n) s a (BitVec.ofNat 64 (qntScale s n a d r).1) (qntRnd s n a d r 16).fl (qntRnd s n a d r 16).s (TakesBlock s a d rf)
      (fun l => ∃ l0 l1, l = l0 ++ l1 ∧
        Sends s a.pk a.e n.dest0 a.f a.fr.gen
          ⟨mkVec b ((List.range 16).map (qntElem s n a d r)), BitVec.ofNat 16 (2 ^ ((16 * b + 31) / 32) - 1), 0#4⟩ l0 ∧
        (a.fr.itix % d = d - 1 → Sends s a.pk a.e n.dest1 a.f a.fr.gen ⟨BitVec.ofNat 512 (qntScale s n a d r).1, 1#16, 0#4⟩ l1) ∧
        (a.fr.itix % d ≠ d - 1 → l1 = [])) := by
  obtain ⟨q, ht, hq, hslots⟩ := taken_block h.1 (BitVec.ofNat 64 (qntScale s n a d r).1)
  obtain ⟨q', ht', hq', hslots'⟩ := firedTo_noteRnd (b := blockFire s n a) ht hq rfl rfl rfl rfl rfl (qntRnd s n a d r 16)
  exact streams_two ht' hq' (exec_nQnt h) (by rw [hslots']; exact hslots)

/-! DQNT. -/

/-- One element of DQNT, with the rounding state after it. -/
def dqntStep (s : State) (n : NodeBody) (a : Fire) (r : Operand) (R : Num.Rnd) (i : ℕ) : ℕ × Num.Rnd :=
  let tid := (pathState s a).tid.toNat
  let v := tidElem (tidFmt tid) (elem (zeroOff a.l.val a.l.mask) (tidWidth tid) i)
  let p := Num.mul v.1 (scaleVal (tidSc tid) (entering r 0))
  Num.round (Num.fmtOf n.fmt.toNat) 1 (R.raise (v.2 ||| p.2)) p.1

/-- The same with the liveness of the result, as the model collects it. -/
def dqntLive (s : State) (n : NodeBody) (a : Fire) (r : Operand) (R : Num.Rnd) (i : ℕ) : (ℕ × Bool) × Num.Rnd :=
  (((dqntStep s n a r R i).1, true), (dqntStep s n a r R i).2)

def dqntRnd (s : State) (n : NodeBody) (a : Fire) (r : Operand) : ℕ → Num.Rnd := threaded (dqntLive s n a r) (blockFire s n a).rnd

def dqntResult (s : State) (n : NodeBody) (a : Fire) (r : Operand) : Vec × Mask :=
  mkUnpacked n.fmt.toNat 16 ((List.range 16).map fun i => ((dqntStep s n a r (dqntRnd s n a r i) i).1, true))

theorem exec_nDqnt (h : BlockReady s n a d rf r) : exec (.nDqnt n) s = .next
    (((s.takeBlock (blockFire s n a) d rf 0#64).noteRnd (blockFire s n a) (dqntRnd s n a r 16)).out (blockFire s n a)
      ⟨(dqntResult s n a r).1, (dqntResult s n a r).2, 0#4⟩) := by
  obtain ⟨hpresent, hvalid⟩ := h
  have he : exec (.nDqnt n) s = execNDqnt n s := rfl
  rw [he, execNDqnt, whenBlock_of_present hpresent, tidValid_iff, hvalid, if_pos rfl]
  dsimp only
  rw [foldl_collect (dqntLive s n a r) (fun _ _ _ => rfl)]
  rfl

theorem dqntStep_lt (hfmt : n.fmt.toNat = 8 ∨ n.fmt.toNat = 9 ∨ n.fmt.toNat = 10) (R : Num.Rnd) (i : ℕ) :
    (dqntStep s n a r R i).1 < 2 ^ NodeCheck.width n.fmt.toNat := by
  rw [width_fmtOf (by omega) (by omega)]
  exact (bitsFit_fmtOf _).round_lt _ _ _

theorem mkMask_all : mkMask ((List.range 16).map fun _ => true) = 0xFFFF#16 := by decide

/-- DQNT's result has a float in every lane word. -/
theorem dqntResult_spec (hfmt : n.fmt.toNat = 8 ∨ n.fmt.toNat = 9 ∨ n.fmt.toNat = 10) : (dqntResult s n a r).2 = 0xFFFF#16 ∧
    ∀ i < 16, lane (dqntResult s n a r).1 i = (dqntStep s n a r (dqntRnd s n a r i) i).1 := by
  have hw : NodeCheck.width n.fmt.toNat ≤ 32 := by rcases hfmt with h | h | h <;> rw [h] <;> decide
  unfold dqntResult mkUnpacked
  rw [if_neg (by omega), if_neg (by norm_num), List.map_map, List.map_map]
  refine ⟨mkMask_all, fun i hi => ?_⟩
  have hlt := dqntStep_lt (s := s) (a := a) (r := r) hfmt (dqntRnd s n a r i) i
  rw [lane_mkVec _ i hi]
  unfold Function.comp unpackWord
  dsimp only
  rw [if_neg (by omega), Nat.mod_eq_of_lt hlt]
  exact Nat.mod_eq_of_lt (hlt.trans_le (Nat.pow_le_pow_right two_pos hw))

/-- An element of L whose masked-off lane words count as zero. -/
theorem elem_zeroOff {fmt : ℕ} (hb : NodeCheck.width fmt ≤ 32) (V : Vec) (m : Mask) {i : ℕ} (hi : i < 16) :
    elem (zeroOff V m) (NodeCheck.width fmt) i =
      if m.getLsbD (NodeCheck.width fmt * i / 32) then elem V (NodeCheck.width fmt) i else 0 := by
  obtain ⟨k, hk⟩ : ∃ k, NodeCheck.width fmt * k = 32 := by
    rcases hb.lt_or_eq with h | h
    · rcases narrow_width h with h | h | h | h <;> rw [h]
      · exact ⟨16, rfl⟩
      · exact ⟨8, rfl⟩
      · exact ⟨4, rfl⟩
      · exact ⟨2, rfl⟩
    · exact ⟨1, by rw [h]⟩
  generalize NodeCheck.width fmt = b at *
  have hk0 : 0 < k := Nat.pos_of_ne_zero (by rintro rfl; simp at hk)
  have hb0 : 0 < b := Nat.pos_of_ne_zero (by rintro rfl; simp at hk)
  have hdiv : b * i / 32 = i / k := by rw [← hk, Nat.mul_div_mul_left _ _ hb0]
  have hi' : i = i / k * k + i % k := (Nat.div_add_mod' i k).symm
  have ht := Nat.mod_lt i hk0
  have hlane : i / k < 16 := (Nat.div_le_self _ _).trans_lt hi
  rw [hdiv]
  conv_lhs => rw [hi', elem_eq_lane hk _ _ ht, lane_zeroOff _ _ _ hlane]
  split
  · conv_rhs => rw [hi', elem_eq_lane hk _ _ ht]
  · rw [Nat.zero_div, Nat.zero_mod]

theorem dqntStep_value (hb : tidWidth (pathState s a).tid.toNat ≤ 32)
    (hsc : tidSc (pathState s a).tid.toNat ≤ 4) (R : Num.Rnd) {i : ℕ} (hi : i < 16) :
    let tid := (pathState s a).tid.toNat; let b := tidWidth tid
    ∃ v f w c g, TidValue (tidFmt tid) (if a.l.mask.getLsbD (b * i / 32) then elem a.l.val b i else 0) v f ∧
      ScaleVal (tidSc tid) (entering r 0) w ∧ ProductOf v w c g ∧
      ((dqntStep s n a r R i).1, (dqntStep s n a r R i).2) = Num.round (Num.fmtOf n.fmt.toNat) 1 (R.raise (f ||| g)) c := by
  intro tid b
  have helem : elem (zeroOff a.l.val a.l.mask) b i = if a.l.mask.getLsbD (b * i / 32) then elem a.l.val b i else 0 := by
    have hwidth : b = NodeCheck.width (if 16 ≤ tidFmt tid then 12 else tidFmt tid) := by
      unfold b tidWidth
      split <;> rfl
    rw [hwidth]
    exact elem_zeroOff (hwidth ▸ hb) _ _ hi
  have hentering : entering r 0 < 2 ^ 32 := by
    unfold entering
    split
    · exact lane_lt _ _
    · norm_num
  rw [← helem]
  exact ⟨_, _, _, _, _, tidValue_tidElem _, scaleVal_spec hsc hentering, productOf_mul (proper_tidElem _ _) (proper_scaleVal _ _), rfl⟩

/-- DQNT's firing (R75, R259). -/
theorem dqnt_streams (h : BlockReady s n a d rf r) (hfmt : n.fmt.toNat = 8 ∨ n.fmt.toNat = 9 ∨ n.fmt.toNat = 10) :
    Streams (.nDqnt n) s a 0#64 (dqntRnd s n a r 16).fl (dqntRnd s n a r 16).s (TakesBlock s a d rf)
      (Both s a.pk a.e n a.f a.fr.gen ⟨(dqntResult s n a r).1, 0xFFFF#16, 0#4⟩) := by
  obtain ⟨q, ht, hq, hslots⟩ := taken_block h.1 0#64
  obtain ⟨q', ht', hq', hslots'⟩ := firedTo_noteRnd (b := blockFire s n a) ht hq rfl rfl rfl rfl rfl (dqntRnd s n a r 16)
  obtain ⟨hmask, -⟩ := dqntResult_spec (s := s) (a := a) (r := r) hfmt
  have hn : a.n = n := h.1.2.2.2.2.2.1
  have he := exec_nDqnt h
  rw [hmask] at he
  have hs := streams_out (i := .nDqnt n) (v := ⟨(dqntResult s n a r).1, 0xFFFF#16, 0#4⟩) ht' hq' (he.trans (by unfold State.out blockFire; rw [hn]))
    (slots := TakesBlock s a d rf) (by rw [hslots']; exact hslots)
  rwa [hn] at hs

/-- An identifier that was not valid at load parks the frame (R259). -/
theorem block_faults (h : BlockPresent s n a d rf r) (hvalid : (pathState s a).tid.getLsbD 79 = false) (f : Fire → ℕ → ℕ → ℕ → Operand → State) :
    s.whenBlock n f = .next { s with
      fired := (4096 * pkDie a.pk + a.e) :: s.fired
      rr := s.rr.put (4096 * pkDie a.pk + a.e) ((pkPp a.pk + 1) % 4)
      parking := s.parking ++ [⟨a.pk, a.f, a.fr.gen, 0, s.frameRec a.pk a.e a.node a.f Cause.tidInvalid 0 0 0⟩] } := by
  have hframe : ((s.markFired a.pk a.e).plane a.pk).frame? a.f = some a.fr := h.frame
  rw [whenBlock_of_present h, tidValid_iff, hvalid, if_neg Bool.false_ne_true]
  unfold State.fireFault blockFire State.park
  dsimp only
  rw [hframe]
  rfl

end

end Sys2Proof.Claim

namespace Sys2Proof.Claim

open Sys2Proof Sys2Proof.Machine

/-! BFLY's firings (R72, R258). -/

section

variable {s : State} {n : NodeBody} {a : Fire} (h : s.ready n = some a) (hturn : s.inTurn = true)
include h hturn

theorem bfly_within (hj : n.operand.toNat % 16 < 4) : Streams (.nBfly n) s a 0#64 (stepFlags a.l (n.operand.toNat % 16)) ((s.plane a.pk).srReg a.pk a.e)
    (fun q => ∀ k, (Consumed a k → q.find k = none) ∧ (¬Consumed a k → q.find k = (s.plane a.pk).slots.find k))
    (Both s a.pk a.e n a.f a.fr.gen ⟨stepVec a.l (n.operand.toNat % 16), 0xFFFF#16, 0#4⟩) := by
  obtain ⟨-, -, -, -, -, hn, -⟩ := ready_spec h
  obtain ⟨q, ht, hq, hslots⟩ := taken_advance h 0#64
  obtain ⟨q', ht', hq', hslots'⟩ := firedTo_flag ht hq (stepFlags a.l (n.operand.toNat % 16))
  have hs := streams_out ht' hq' (exec_nBfly_within h hturn hj) (slots := fun q => ∀ k, (Consumed a k → q.find k = none) ∧
    (¬Consumed a k → q.find k = (s.plane a.pk).slots.find k)) (consumed_slots hn (hslots'.trans hslots))
  rwa [hn] at hs

theorem bfly_upper (hj : 4 ≤ n.operand.toNat % 16)
    (hm : a.fr.itix % blockLen (n.operand.toNat / 16 % 16) / 2 ^ (n.operand.toNat % 16 - 4) % 2 = 1) :
    ∃ V, Streams (.nBfly n) s a 0#64 0 ((s.plane a.pk).srReg a.pk a.e)
      (fun q => ∀ k, (Consumed a k → q.find k = none) ∧ (¬Consumed a k → q.find k = (s.plane a.pk).slots.find k))
      (Both s a.pk a.e n a.f a.fr.gen ⟨V, 0xFFFF#16, 0#4⟩) ∧ ∀ i < 16, lane V i = entering a.l i := by
  obtain ⟨-, -, -, -, -, hn, -⟩ := ready_spec h
  obtain ⟨q, ht, hq, hslots⟩ := taken_advance h 0#64
  have hs := streams_out ht hq (exec_nBfly_upper h hturn hj hm) (slots := fun q => ∀ k, (Consumed a k → q.find k = none) ∧
    (¬Consumed a k → q.find k = (s.plane a.pk).slots.find k)) (consumed_slots hn hslots)
  rw [hn] at hs
  refine ⟨_, hs, fun i hi => (lane_mkVec _ i hi).trans (Nat.mod_eq_of_lt ?_)⟩
  unfold entering
  split
  · exact lane_lt _ _
  · norm_num

theorem bfly_lower (hj : 4 ≤ n.operand.toNat % 16)
    (hm : a.fr.itix % blockLen (n.operand.toNat / 16 % 16) / 2 ^ (n.operand.toNat % 16 - 4) % 2 = 0) {f : ℕ} {c : Operand}
    (hf : (s.plane a.pk).frameAt (a.fr.itix + 2 ^ (n.operand.toNat % 16 - 4)) = some f)
    (hc : (s.plane a.pk).slots.find (slotKey a.node f 0 a.e) = some c) :
    ∃ (U V : Vec) (fl : Nat) (g : Nat → Nat), Streams (.nBfly n) s a 0#64 fl ((s.plane a.pk).srReg a.pk a.e)
      (fun q => q.find (slotKey a.node f 0 a.e) = some ⟨V, 0xFFFF#16, c.kind⟩ ∧ ∀ k, k ≠ slotKey a.node f 0 a.e →
        (Consumed a k → q.find k = none) ∧ (¬Consumed a k → q.find k = (s.plane a.pk).slots.find k))
      (Both s a.pk a.e n a.f a.fr.gen ⟨U, 0xFFFF#16, 0#4⟩) ∧
    (∀ i < 16, PairOf (entering a.l i) (entering c i) (lane U i) (lane V i) (g i)) ∧
    ∀ k, fl.testBit k = true ↔ ∃ i < 16, (g i).testBit k = true := by
  obtain ⟨-, -, -, -, -, hn, -⟩ := ready_spec h
  obtain ⟨q, ht, hq, hslots⟩ := taken_advance h 0#64
  have he := exec_nBfly_lower h hturn hj hm hf hc
  dsimp only at he
  rw [ht.plane] at he
  obtain ⟨q', ht', hq', hslots'⟩ := firedTo_flag (ht.setPlane _) (hq.withSlots
    (q.slots.put (slotKey a.node f 0 a.e) ⟨mkVec 32 ((List.range 16).map fun i => (pairOf (entering a.l i) (entering c i)).2.1), 0xFFFF#16, c.kind⟩))
    (orFlags (fun i => (pairOf (entering a.l i) (entering c i)).2.2) (List.range 16))
  have hs := streams_out ht' hq' he (slots := fun q => q.find (slotKey a.node f 0 a.e) = some ⟨mkVec 32 ((List.range 16).map fun i =>
      (pairOf (entering a.l i) (entering c i)).2.1), 0xFFFF#16, c.kind⟩ ∧ ∀ k, k ≠ slotKey a.node f 0 a.e →
    (Consumed a k → q.find k = none) ∧ (¬Consumed a k → q.find k = (s.plane a.pk).slots.find k)) (by
      rw [hslots']
      refine ⟨(Map.find_put _ _ _ _).trans (if_pos rfl), fun k hk => ?_⟩
      dsimp only
      rw [Map.find_put, if_neg hk]
      exact consumed_slots hn hslots k)
  rw [hn] at hs
  refine ⟨_, _, _, fun i => (pairOf (entering a.l i) (entering c i)).2.2, hs, fun i hi => ?_, fun k => ?_⟩
  · obtain ⟨hu, hv⟩ := pairOf_lt (entering a.l i) (entering c i)
    rw [lane_mkVec _ i hi, lane_mkVec _ i hi, Nat.mod_eq_of_lt hu, Nat.mod_eq_of_lt hv]
    exact pairOf_spec _ _
  · rw [testBit_orFlags]
    simp only [List.mem_range]

end

/-- The flags of a step within a token. -/
theorem testBit_stepFlags (o : Operand) (j k : ℕ) : (stepFlags o j).testBit k = true ↔
    ∃ i < 16, i / 2 ^ j % 2 = 0 ∧ (pairOf (entering o i) (entering o (i + 2 ^ j))).2.2.testBit k = true := by
  unfold stepFlags
  rw [testBit_orFlags]
  simp only [List.mem_filter, List.mem_range, bit_eq_false_iff, and_assoc]

theorem bmax_clause {s : State} {n : NodeBody} {a : Fire} (h : s.ready n = some a) (hturn : s.inTurn = true) :
    let st := (s.plane a.pk).srReg a.pk a.e; let d := blockLen (n.operand.toNat % 16); let m := a.fr.itix % d; let f32 := Num.fmtOf 10
    let M0 := if m = 0 then 0 else (pathState s a).cur.toNat
    M0 < 2 ^ 31 → ∃ M, M < 2 ^ 31 ∧ Streams (.nBmax n) s a (if m = d - 1 then 0#64 else BitVec.ofNat 64 M)
        (if (List.range 16).any (fun i => (Num.decode f32 (entering a.l i)).isSnan) then 1 else 0) st
        (fun q => ∀ k, (Consumed a k → q.find k = none) ∧ (¬Consumed a k → q.find k = (s.plane a.pk).slots.find k))
        (fun l => (m ≠ d - 1 → l = []) ∧ (m = d - 1 → ∃ V, (∀ i < 16, lane V i = M) ∧ Both s a.pk a.e n a.f a.fr.gen ⟨V, 0xFFFF#16, 0#4⟩ l)) ∧
      ((Num.decode f32 M0).isNan = true ∨ (∃ i < 16, (Num.decode f32 (entering a.l i)).isNan = true) → M = Num.canonNaN f32) ∧
      ((Num.decode f32 M0).isNan = false → (∀ i < 16, (Num.decode f32 (entering a.l i)).isNan = false) →
        (M = M0 ∨ ∃ i < 16, M = entering a.l i % 2 ^ 31) ∧ place (Num.decode f32 M0) ≤ place (Num.decode f32 M) ∧
        ∀ i < 16, place (Num.decode f32 (entering a.l i % 2 ^ 31)) ≤ place (Num.decode f32 M)) := by
  intro st d m f32 M0 hM0
  have hlt := bmaxStep_lt hM0 a.l
  refine ⟨bmaxStep M0 a.l, hlt, ?_, bmaxStep_nan, bmaxStep_max hM0⟩
  refine (bmax_streams h hturn).imp (fun _ hq => hq) fun l hl => ⟨hl.1, fun hm => ?_⟩
  obtain ⟨V, hV, hboth⟩ := hl.2 hm
  exact ⟨V, fun i hi => (hV i hi).trans (Nat.mod_eq_of_lt (hlt.trans (by norm_num))), hboth⟩

end Sys2Proof.Claim

namespace Sys2Proof

open Machine Claim

/-- Settles O39: each path node's firing is its advance of the stream with the values that its block gives; the pairs, the scale and
the elements are those of the model's own arithmetic. -/
theorem quantisePathFiresInStreamOrder : Obligations.QuantisePathFiresInStreamOrder := by
  unfold Obligations.QuantisePathFiresInStreamOrder
  refine ⟨fun s n a h => ⟨fun hturn => ?_, fun hturn => ?_⟩, fun s n a d rf r h => ?_, fun s n a d rf v h hvalid => ?_⟩
  · exact waits_of_not_inTurn h (Bool.eq_false_iff.mpr fun h' => hturn ((inTurn_of_ready h).mp h'))
  · replace hturn := (inTurn_of_ready h).mpr hturn
    refine ⟨bmax_clause h hturn, fun hd hpresent => delay_streams h (exec_nDelay h hturn hd hpresent), fun hj => ?_,
      fun hj hm => bfly_upper h hturn hj hm, fun hj hm f c hf hc _ => bfly_lower h hturn hj hm hf hc⟩
    refine ⟨_, _, fun i => (pairOf (entering a.l i) (entering a.l (i + 2 ^ (n.operand.toNat % 16)))).2.2, bfly_within h hturn hj,
      fun i hi hij => ?_, testBit_stepFlags _ _⟩
    obtain ⟨hu, hv⟩ := lane_stepVec a.l hj hi hij
    rw [hu, hv]
    exact pairOf_spec _ _
  · refine ⟨fun hfmt => ?_, fun h8 h10 hfmt hb hsc => ?_⟩
    · obtain ⟨hfirst, hlater, hS⟩ := qntScale_spec s n a d r
      have hwidth := tidWidth_le hfmt
      refine ⟨_, (qntScale s n a d r).2.fl, qntRnd s n a d r, _, hfirst, hlater, ?_, fun i hi => ?_, ?_, qnt_streams h⟩
      · exact congrArg (fun S => (⟨n.mod.toNat % 8, S, (qntScale s n a d r).2.fl⟩ : Num.Rnd)) hS
      · have helem := elem_mkVec_range (b := tidWidth (pathState s a).tid.toNat) (k := 16) (by omega) (qntElem s n a d r) hi
        rw [Nat.mod_eq_of_lt (qntElem_lt hfmt i)] at helem
        exact helem.symm ▸ quantOf_quantElem _ _ _ _ _
      · have hlt := mkVec_lt (tidWidth (pathState s a).tid.toNat) ((List.range 16).map (qntElem s n a d r))
        rwa [List.length_map, List.length_range, Nat.mul_comm] at hlt
    · have hfloat : n.fmt.toNat = 8 ∨ n.fmt.toNat = 9 ∨ n.fmt.toNat = 10 := by omega
      obtain ⟨-, hlane⟩ := dqntResult_spec (s := s) (a := a) (r := r) hfloat
      refine ⟨fun i => (dqntStep s n a r (dqntRnd s n a r i) i).1, dqntRnd s n a r, (dqntResult s n a r).1, rfl, fun i hi => ?_,
        dqnt_streams h hfloat⟩
      obtain ⟨v, f, w, c, g, hv, hw, hprod, hround⟩ := dqntStep_value (r := r) hb hsc (dqntRnd s n a r i) hi
      exact ⟨v, f, w, c, g, hv, hw, hprod, hround, hlane i hi⟩
  · refine ⟨s.frameRec a.pk a.e a.node a.f Cause.tidInvalid 0 0 0, rfl, rfl, rfl, fun i hi => ?_⟩
    have hq : exec (.nQnt n) s = execNQnt n s := rfl
    have hd : exec (.nDqnt n) s = execNDqnt n s := rfl
    rcases List.mem_pair.mp hi with rfl | rfl
    · rw [hq, execNQnt]
      exact block_faults h hvalid _
    · rw [hd, execNDqnt]
      exact block_faults h hvalid _

end Sys2Proof

namespace Sys2Proof.Claim

open Sys2Proof Sys2Proof.Machine

/-! Requests at their ports: how they end, which elements are live, and what they perform (R212, R215, R216). -/

theorem reqLive_iff (s : State) (q : Req) : s.reqLive q = true ↔ FrameLives s q := by
  unfold State.reqLive FrameLives Plane.frame?
  cases (s.plane q.plane).frames.find q.frame with
  | none => simp
  | some fr => simp

/-- The record of a request's fault (Table 18.2). -/
def reqRec (s : State) (q : Req) (e : Err) (addr lanes : ℕ) : FaultRec :=
  { s.frameRec q.plane q.elem q.node q.frame e.cause addr e.info e.aux with
    done := lanes, seq := seqNum q.body.seq.toNat, chain := seqChain q.body.seq.toNat }

theorem reqFault_of_live {s : State} {q : Req} (hlive : s.reqLive q = true) (r : ℕ) (e : Err) (addr lanes : ℕ) :
    s.reqFault r q e addr lanes =
      ({ s with reqs := s.reqs.put r { q with stage := .held } } : State).park q.plane q.frame (reqRec s q e addr lanes) (1 + q.port % 128) := by
  unfold State.reqFault
  dsimp only
  rw [if_pos hlive, if_pos hlive]
  rfl

/-- A request that faults is held, with its frame parked, or dropped with a frame that is gone (R216, R353). -/
theorem requestFaults_reqFault (s : State) (r : ℕ) (q : Req) (e : Err) (addr lanes : ℕ) :
    RequestFaults s (s.reqFault r q e addr lanes) r q e.cause addr e.info e.aux lanes := by
  refine ⟨fun hdead => ?_, fun hlive => ?_⟩
  · rw [← reqLive_iff] at hdead
    unfold State.reqFault
    dsimp only
    rw [if_neg hdead, if_neg hdead]
  · rw [reqFault_of_live ((reqLive_iff s q).mpr hlive)]
    obtain ⟨fr, hfr, hgen⟩ := hlive
    have hplane : ∀ m, ({ s with reqs := m } : State).plane q.plane = s.plane q.plane := fun _ => rfl
    refine ⟨reqRec s q e addr lanes, ?_, ?_⟩
    · unfold State.park Plane.frame?
      rw [hplane, hfr, ← hgen]
    · unfold reqRec State.frameRec Plane.frame?
      dsimp only
      rw [hfr]
      exact ⟨rfl, rfl, rfl, rfl, rfl, rfl, rfl, hgen, rfl, rfl, rfl, rfl, rfl, rfl⟩

/-- A request that has left its port, with its number released while its frame lives. -/
def released (s : State) (r : ℕ) (q : Req) : State :=
  if s.reqLive q = true then ({ s with reqs := s.reqs.del r } : State).markSeq q.plane q.frame (s.reqCopy q) q.body.seq.toNat
  else { s with reqs := s.reqs.del r }

theorem finishReq_eq (s : State) (r : ℕ) (q : Req) (v : Option Operand) : s.finishReq r q v =
    match v with
    | none => released s r q
    | some v => (released s r q).sendBoth q.plane q.elem q.body q.frame q.gen { v with kind := 5#4 } := rfl

theorem released_spec (s : State) (r : ℕ) (q : Req) : let t := released s r q
    t = { s with reqs := s.reqs.del r, planes := t.planes } ∧ OtherPlanes s t q.plane ∧
    ∃ done, t.plane q.plane = { s.plane q.plane with seqDone := done } ∧ (let c := q.body.seq.toNat / 64
      (c = 0 ∨ ¬FrameLives s q → done = (s.plane q.plane).seqDone) ∧
      (c ≠ 0 → FrameLives s q → done = (s.plane q.plane).seqDone ++ [(2 * q.frame + (c - 1), reqCopyOf s q, q.body.seq.toNat % 64)])) := by
  intro t
  have ht : t = released s r q := rfl
  unfold released State.markSeq seqChain at ht
  by_cases hlive : FrameLives s q
  · rw [if_pos ((reqLive_iff s q).mpr hlive)] at ht
    by_cases hc : q.body.seq.toNat / 64 = 0
    · rw [if_pos hc] at ht
      rw [ht]
      exact ⟨rfl, fun _ _ => rfl, _, rfl, fun _ => rfl, fun h => absurd hc h⟩
    · rw [if_neg hc] at ht
      rw [ht]
      exact ⟨rfl, otherPlanes_setPlane _ _ _, _, by rw [State.plane_setPlane, if_pos rfl]; rfl,
        fun h => absurd h (not_or.mpr ⟨hc, not_not.mpr hlive⟩), fun _ _ => rfl⟩
  · rw [if_neg fun h => hlive ((reqLive_iff s q).mp h)] at ht
    rw [ht]
    exact ⟨rfl, fun _ _ => rfl, _, rfl, fun _ => rfl, fun _ h => absurd h hlive⟩

/-- A request that is done releases its number and sends its response (R215). -/
theorem finishes_finishReq (s : State) (r : ℕ) (q : Req) (v : Option Operand) : Finishes s (s.finishReq r q v) r q v (SameFrames s q) := by
  obtain ⟨hrest, hothers, done, hplane, hdone⟩ := released_spec s r q
  rw [finishReq_eq]
  cases v with
  | none =>
    refine ⟨[], ?_, hothers, by rw [hplane], by rw [hplane]; rfl, by rw [hplane]; exact hdone, fun _ => rfl, fun _ h => (nomatch h)⟩
    rw [List.append_nil]
    exact hrest
  | some v =>
    obtain ⟨l, hl, hboth⟩ := sendBoth_both (released s r q) q.plane q.elem q.body q.frame q.gen { v with kind := 5#4 }
    dsimp only
    rw [hl]
    refine ⟨l, ?_, hothers.of_planes rfl, ?_, ?_, ?_, fun h => (nomatch h), fun o ho => ?_⟩
    · conv_lhs => rw [hrest]
    · exact hplane.symm.subst (motive := fun x : Plane => x = { s.plane q.plane with frames := x.frames, seqDone := x.seqDone }) rfl
    · exact hplane.symm.subst (motive := fun x : Plane => x.frames = (s.plane q.plane).frames) rfl
    · exact hplane.symm.subst (motive := fun x : Plane => (q.body.seq.toNat / 64 = 0 ∨ ¬FrameLives s q → x.seqDone = (s.plane q.plane).seqDone) ∧
        (q.body.seq.toNat / 64 ≠ 0 → FrameLives s q → x.seqDone =
          (s.plane q.plane).seqDone ++ [(2 * q.frame + (q.body.seq.toNat / 64 - 1), reqCopyOf s q, q.body.seq.toNat % 64)])) hdone
    · obtain rfl := Option.some.inj ho
      exact hboth.congr ⟨by rw [hrest], by rw [hplane], fun _ => by rw [hplane]; rfl⟩

/-! The live elements of a request (R212). -/

theorem nodeAsp_eq (n : NodeBody) : NodeAsp n = n.operand.toNat / 2 ^ 30 := by
  have := n.operand.isLt
  unfold NodeAsp bits
  omega

theorem elemCount_eq (s : State) (q : Req) : elemCount q.body.fmt.toNat (NodeAsp q.body) = elements (firingOf s q) true := by
  unfold elemCount elements
  rw [nodeAsp_eq]
  simp [firingOf]

theorem addrLanes_eq (s : State) (q : Req) (j : ℕ) :
    addrLanes (NodeAsp q.body) (elemCount q.body.fmt.toNat (NodeAsp q.body)) j = requestLanes (firingOf s q) j := by
  have he : elements (firingOf s q) true = 8 ∨ elements (firingOf s q) true = 16 := by
    unfold elements
    split
    · exact .inl rfl
    · exact .inr rfl
  rw [elemCount_eq s]
  unfold addrLanes requestLanes elemWord
  rw [nodeAsp_eq]
  rcases he with h | h <;> rw [h] <;> rfl

theorem reqOn_iff (s : State) (q : Req) {i : ℕ} (hi : i < 16) : (reqOn q.body q.p).getLsbD i = true ↔ On (firingOf s q) i :=
  on_iff (firingOf s q) i hi

theorem lanesLive_iff (s : State) (q : Req) (l : List ℕ) :
    lanesLive (q.l.mask &&& reqOn q.body q.p) l = true ↔ ∀ i ∈ l, q.l.mask.getLsbD i = true ∧ On (firingOf s q) i := by
  unfold lanesLive
  rw [List.all_eq_true]
  refine forall₂_congr fun i _ => ?_
  rw [BitVec.getLsbD_and, Bool.and_eq_true]
  by_cases hi : i < 16
  · rw [reqOn_iff s q hi]
  · simp [BitVec.getLsbD_of_ge _ _ (not_lt.mp hi)]

/-- The lowest live element of a LOCK is the one that its port takes (R224). -/
theorem lockElem_iff (s : State) (q : Req) (j : ℕ) : lockElem q = some j ↔ LowestLive s q j := by
  have hlive : ∀ j, (lanesLive (q.l.mask &&& reqOn q.body q.p) (addrLanes (NodeAsp q.body) (elemCount q.body.fmt.toNat (NodeAsp q.body)) j) &&
      (!false || lanesLive q.r.mask (dataLanes q.body.fmt.toNat (elemCount q.body.fmt.toNat (NodeAsp q.body)) j))) = true ↔
      LiveRequest (firingOf s q) false (requestLanes (firingOf s q) j) [] := by
    intro j
    rw [addrLanes_eq s, Bool.not_false, Bool.true_or, Bool.and_true, lanesLive_iff s]
    unfold LiveRequest
    simp [firingOf]
  unfold lockElem liveElems LowestLive
  dsimp only
  rw [List.head?_filter, List.find?_range_eq_some, hlive, List.mem_range]
  simp only [Bool.not_eq_true', ← Bool.not_eq_true, hlive]
  rw [elemCount_eq s]
  constructor
  · rintro ⟨hj, hlt, hlow⟩
    exact ⟨⟨hlt, hj⟩, fun k hk hl => hlow k hk hl.2⟩
  · rintro ⟨⟨hlt, hj⟩, hlow⟩
    exact ⟨hj, hlt, fun k hk hl => hlow k hk ⟨hk.trans hlt, hl⟩⟩

/-- The address of an element before its range is checked (R212). -/
theorem requestAddress_nodeRaw (s : State) (q : Req) (j : ℕ) :
    RequestAddress (firingOf s q) j (nodeRaw q.body (elemCount q.body.fmt.toNat (NodeAsp q.body)) q.l j) := by
  have hoff : nodeOff q.body = (BitVec.ofNat 23 q.body.operand.toNat).toInt := by
    unfold nodeOff
    rw [numToInt_eq]
    exact congrArg BitVec.toInt (BitVec.eq_of_toNat_eq (by simp))
  have he : elements (firingOf s q) true = 8 ∨ elements (firingOf s q) true = 16 := by
    unfold elements
    split
    · exact .inl rfl
    · exact .inr rfl
  rw [elemCount_eq s]
  unfold nodeRaw RequestAddress
  rw [nodeAsp_eq, hoff]
  refine ⟨fun h => ?_, fun h => ?_⟩
  · rw [if_pos (show q.body.operand.toNat / 2 ^ 30 = 0 from h), cast_numOfInt]
    rfl
  · rw [if_neg (show ¬q.body.operand.toNat / 2 ^ 30 = 0 from h), cast_numOfInt]
    unfold elemWord
    rcases he with h' | h' <;> rw [h'] <;> rfl

/-! What a request performs (R218, R255). -/

/-- The whole words of an STV are determined. -/
theorem paired_eq : ∀ {l m : List Elt}, Paired l m → m = pairWords l
  | l, [], h => by
    obtain rfl : l = [] := h
    rfl
  | l, w :: ws, h => by
    rcases h with ⟨x, y, m, rfl, hal, hj, rfl, hrest⟩ | ⟨m, rfl, hno, hrest⟩
    · rw [pairWords, if_pos ⟨hal, hj⟩, paired_eq hrest]
    · rw [paired_eq hrest]
      cases m with
      | nil => rfl
      | cons y n => rw [pairWords, if_neg (hno y n rfl)]

theorem performs_eq {q : Req} {l m : List Elt} (h : Performs q l m) : m = toPerform q l := by
  obtain ⟨hplain, htensor, hvector⟩ := h
  unfold toPerform
  by_cases h1 : q.opc = 0x8A
  · rw [if_pos h1]
    exact htensor h1
  rw [if_neg h1]
  by_cases h2 : q.opc = 0x83
  · rw [if_pos h2]
    exact paired_eq (hvector h2)
  · rw [if_neg h2]
    exact hplain h2 h1

end Sys2Proof.Claim

namespace Sys2Proof.Claim

open Sys2Proof Sys2Proof.Machine

/-! Time-outs (R108, R349, R374). -/

theorem exec_memTimeout {s : State} {r : ℕ} {q : Req} (h : s.reqs.find r = some q) :
    exec (.eMemTimeoutExpiry r) s = .next (s.reqTimeout r q) := by
  show execEMemTimeoutExpiry r s = _
  unfold execEMemTimeoutExpiry
  rw [h]

/-- The address that a record names, of one of a request's elements. -/
theorem eltRaw_of_find {s : State} {q : Req} {l : List Elt} {j : ℕ} {y : Elt} (hl : s.elts q = .ok l) (hy : l.find? (fun x => x.j = j) = some y) :
    s.eltRaw q j = y.raw := by
  have hval : ((l.find? fun x => x.j = j).map fun x => x.raw).getD 0 = y.raw := by rw [hy]; rfl
  unfold State.eltRaw
  rw [hl]
  cases l with
  | nil => cases hy
  | cons x l => cases lockElem q <;> exact hval

theorem timeout_response {s : State} {r : ℕ} {q : Req} {x : Late} {y : Elt} {l m : List Elt} (hq : s.reqs.find r = some q)
    (hplane : s.planes.has q.plane = true) (hx : s.late.find? (fun x => x.req = r && x.waits) = some x) (hat : x.at_ ≤ s.fc)
    (hl : s.elts q = .ok l) (hy : l.find? (fun y => y.j = x.elt) = some y) (hm : Performs q l m) :
    let keep := if x.val.isSome then [{ x with at_ := s.reqDue r, waits := false }] else []
    ∃ t, exec (.eMemTimeoutExpiry r) s = .next t ∧
      RequestFaults { s with late := s.late.erase x ++ keep } t r q 0x0E y.raw 0 0 (doneLanes q m) := by
  intro keep
  have hpast : (s.planes.has q.plane && decide (x.at_ ≤ s.fc)) = true := by rw [hplane, decide_eq_true hat]; rfl
  have hl' : ({ s with late := s.late.erase x ++ keep } : State).elts q = .ok l := hl
  have hfault := requestFaults_reqFault { s with late := s.late.erase x ++ keep } r q ⟨Cause.memTimeout, 0, 0⟩ y.raw (doneLanes q m)
  refine ⟨_, (exec_memTimeout hq).trans (congrArg Host.Outcome.next ?_), hfault⟩
  unfold State.reqTimeout
  dsimp only
  rw [hx]
  dsimp only
  rw [if_pos hpast, eltRaw_of_find hl' hy, State.reqDone, hl', performs_eq hm]

theorem timeout_lock {s : State} {r j : ℕ} {q : Req} (hq : s.reqs.find r = some q) (hplane : s.planes.has q.plane = true)
    (hnone : s.late.find? (fun x => x.req = r && x.waits) = none) (hopc : q.opc = 0x91) (hstage : q.stage = .waiting) (hj : LowestLive s q j)
    (hfar : ∃ pa w m, (s.lockPlace q j).2 = .ok (pa, w) ∧ target pa = .remote m) (hat : q.at_ ≤ s.fc) :
    ∃ t va, exec (.eMemTimeoutExpiry r) s = .next t ∧ RequestAddress (firingOf s q) j va ∧
      RequestFaults { s with late := s.late ++ [⟨r, 0, some 0, s.reqDue r, false⟩] } t r q 0x0E va 0 0 0 := by
  obtain ⟨pa, w, m, hplace, htarget⟩ := hfar
  have hlock := (lockElem_iff s q j).mpr hj
  have hlockFar : s.lockFar q = true := by
    unfold State.lockFar isRemote
    rw [hopc, hstage, hlock]
    dsimp only
    rw [hplace]
    dsimp only
    rw [htarget]
    rfl
  have hpast : (s.lockFar q && (s.planes.has q.plane && decide (q.at_ ≤ s.fc))) = true := by
    rw [hlockFar, hplane, decide_eq_true hat]; rfl
  have hnil : ({ s with late := s.late ++ [⟨r, 0, some 0, s.reqDue r, false⟩] } : State).elts q = .ok [] := by
    unfold State.elts
    rw [hopc]
    rfl
  have htodo : toPerform q [] = [] := by
    unfold toPerform
    rw [hopc]
    rfl
  refine ⟨_, nodeRaw q.body (elemCount q.body.fmt.toNat (NodeAsp q.body)) q.l j, (exec_memTimeout hq).trans (congrArg Host.Outcome.next ?_),
    requestAddress_nodeRaw s q j, requestFaults_reqFault _ r q ⟨Cause.memTimeout, 0, 0⟩ _ 0⟩
  unfold State.reqTimeout
  dsimp only
  rw [hnone]
  dsimp only
  rw [if_pos hpast, State.eltRaw, State.reqDone, hnil, hlock]
  dsimp only
  rw [htodo]
  rfl

/-- A send to another module's conversation that is not answered in time parks its frame (R108). -/
theorem timeout_send {s : State} {r pk e n f g : ℕ} {x : Send} {fr : Frame} (hr : s.reqs.find r = none) (hx : s.sends.find r = some x)
    (hheld : x.held = false) (hfar : convKey x.handle.toNat = none) (hdue : x.due ≤ s.fc) (hiss : x.iss.frame = some (pk, e, n, f, g))
    (hfr : (s.plane pk).frames.find f = some fr) (hgen : fr.gen = g) :
    ∃ rec0, exec (.eMemTimeoutExpiry r) s = .next { s with
        sends := s.sends.put r { x with held := true }, parking := s.parking ++ [⟨pk, f, fr.gen, 0, rec0⟩] } ∧ rec0.cause = 0x0E ∧ rec0.node = n := by
  refine ⟨({ s with sends := s.sends.put r { x with held := true } } : State).frameRec pk e n f Cause.memTimeout 0 0 0, ?_, rfl, rfl⟩
  show execEMemTimeoutExpiry r s = _
  have hplane : ∀ m, ({ s with sends := m } : State).plane pk = s.plane pk := fun _ => rfl
  unfold execEMemTimeoutExpiry State.refuseSend State.park Plane.frame?
  rw [hr, hx]
  dsimp only
  rw [hheld, hfar, hiss, if_neg (by simpa using hdue)]
  dsimp only
  rw [hfr]
  dsimp only
  rw [if_neg (by simpa using hgen), hplane, hfr]

theorem keptResponse_spec (s : State) : ∃ t, exec .eKeptResponseExpiry s = .next t ∧ t = { s with kept := t.kept, late := t.late } ∧
    (∀ x, x ∈ t.kept ↔ x ∈ s.kept ∧ s.fc < x.2.at_) ∧
    ∀ x, x ∈ t.late ↔ x ∈ s.late ∧ s.reqs.find x.req ≠ none ∧ (x.waits = true ∨ s.fc < x.at_) := by
  refine ⟨_, rfl, rfl, fun x => ?_, fun x => ?_⟩
  · exact List.mem_filter.trans (and_congr_right fun _ => decide_eq_true_iff)
  · refine List.mem_filter.trans (and_congr_right fun _ => ?_)
    rw [Bool.and_eq_true, Bool.or_eq_true, decide_eq_true_iff]
    exact and_congr_left fun _ => Option.isSome_iff_ne_none

theorem pageWalk_spec {s s1 : State} {tlb ctx : ℕ} {va : BitVec 64} {wr fe priv : Bool} {tr : Tr}
    (h : s.translate tlb (tlbDie tlb) ctx va.toNat wr fe priv = (s1, .ok tr)) : exec (.ePageWalk tlb ctx va wr fe priv) s = .next s1 := by
  show execEPageWalk tlb ctx va wr fe priv s = _
  unfold execEPageWalk
  rw [h]

/-! The acceptance of contributions (R227). -/

theorem unaccepted_iff (s : State) (r : ℕ) : s.unaccepted r = true ↔ ∃ d ∈ s.contribs, d.2.req = r ∧ d.2.accepted = false := by
  unfold State.unaccepted
  rw [List.any_eq_true]
  simp

/-- Where a contribution goes (R225 to R227). -/
theorem placedAs_placeContrib (s : State) (id : ℕ) (c : Contrib) : PlacedAs s (s.placeContrib id c) id c := by
  unfold State.placeContrib State.newId
  dsimp only
  rcases Bool.eq_false_or_eq_true c.ord with hord | hord
  · have hnot : ¬(!c.ord) = true := by rw [hord]; decide
    refine ⟨{ c with accepted := true, arr := s.fresh }, ?_, rfl, fun h => absurd (h.symm.trans hord) Bool.false_ne_true, fun _ => ⟨rfl, ?_, ?_⟩⟩
    · rw [if_neg hnot]
      split <;> rfl
    · intro h
      rw [if_neg hnot, if_pos (by simpa using h)]
    · intro h
      rw [if_neg hnot, if_neg fun hany => ?_]
      obtain ⟨w, hw, hc⟩ := List.any_eq_true.mp hany
      exact h w hw (of_decide_eq_true hc)
  · have hplain : (!c.ord) = true := by rw [hord]; rfl
    rw [if_pos hplain]
    exact ⟨_, rfl, rfl, fun _ => ⟨rfl, rfl⟩, fun h => absurd (hord.symm.trans h) Bool.false_ne_true⟩

section

variable {s s1 : State} {c : ℕ} {x : Contrib} {q : Req} (hx : s.contribs.find c = some x) (hq : s.reqs.find x.req = some q)
  (hmay : s.mayIssue x.req q = true) (hacc : x.accepted = false)
include hx hq hmay hacc

/-- A contribution that passes the root's check is placed; with the last, its request is performed (R227). -/
theorem accept_passed (hroot : s.rootCheck q x = (s1, none)) :
    ∃ t v, exec (.eReductionAccept c) s = .next v ∧ PlacedAs s1 t c x ∧
      ((∃ d ∈ t.contribs, d.2.req = x.req ∧ d.2.accepted = false) → v = t) ∧
      ((∀ d ∈ t.contribs, d.2.req = x.req → d.2.accepted = true) → Finishes t v x.req q none (SameFrames t q)) := by
  have he : exec (.eReductionAccept c) s = .next (if (s1.placeContrib c x).unaccepted x.req then s1.placeContrib c x
      else (s1.placeContrib c x).finishReq x.req q none) := by
    show execEReductionAccept c s = _
    unfold execEReductionAccept
    rw [hx]
    dsimp only
    rw [hq]
    dsimp only
    rw [if_neg (by rw [hmay, hacc]; decide), hroot]
  refine ⟨s1.placeContrib c x, _, he, placedAs_placeContrib s1 c x, fun h => if_pos ((unaccepted_iff _ _).mpr h), fun h => ?_⟩
  have hnone : ¬(s1.placeContrib c x).unaccepted x.req = true := fun hu => by
    obtain ⟨d, hd, hreq, hd'⟩ := (unaccepted_iff _ _).mp hu
    rw [h d hd hreq] at hd'
    cases hd'
  rw [if_neg hnone]
  exact finishes_finishReq _ _ _ _

theorem accept_faulted {e : Err} (hroot : s.rootCheck q x = (s1, some e)) :
    ∃ t, exec (.eReductionAccept c) s = .next t ∧ RequestFaults s1 t x.req q e.cause x.va e.info e.aux 0 := by
  have he : exec (.eReductionAccept c) s = .next (s1.reqFault x.req q e x.va 0) := by
    show execEReductionAccept c s = _
    unfold execEReductionAccept
    rw [hx]
    dsimp only
    rw [hq]
    dsimp only
    rw [if_neg (by rw [hmay, hacc]; decide), hroot]
  exact ⟨_, he, requestFaults_reqFault s1 x.req q e x.va 0⟩

end

/-- The root port's checks, in their order (R216, R227). -/
theorem rootCheck_spec (s : State) (q : Req) (x : Contrib) : let n := NodeCheck.width x.fmt / 8; let top := if x.sp then 2 ^ 24 else 2 ^ 57
    (x.va % n ≠ 0 → s.rootCheck q x = (s, some ⟨0x04, 0, 0⟩)) ∧ (x.va % n = 0 → top ≤ x.va → s.rootCheck q x = (s, some ⟨0x05, 0, 0⟩)) ∧
    (x.va % n = 0 → x.va < top → x.sp = true → s.rootCheck q x = (s, none)) := by
  intro n top
  unfold State.rootCheck
  refine ⟨fun h => if_pos h, fun h htop => ?_, fun h htop hsp => ?_⟩
  · dsimp only
    rw [if_neg (not_not.mpr h), if_pos htop]
    rfl
  · dsimp only
    rw [if_neg (not_not.mpr h), if_neg (not_le.mpr htop), if_pos hsp]

end Sys2Proof.Claim

namespace Sys2Proof.Claim

open Sys2Proof Sys2Proof.Machine

/-! A window's contributions in ascending key (R66, R225, R226). -/

/-- One contribution's key lies below another's. -/
def KeyBelow (a b : ℕ × Contrib) : Prop := keyLt a.2.key b.2.key = true

theorem keyLt_iff (a b : ℕ × ℕ × ℕ) : keyLt a b = true ↔ a.1 < b.1 ∨ a.1 = b.1 ∧ (a.2.1 < b.2.1 ∨ a.2.1 = b.2.1 ∧ a.2.2 < b.2.2) := by
  simp [keyLt]

theorem KeyBelow.trans {a b c : ℕ × Contrib} (h : KeyBelow a b) (g : KeyBelow b c) : KeyBelow a c := by
  unfold KeyBelow at *
  rw [keyLt_iff] at *
  omega

theorem KeyBelow.asymm {a b : ℕ × Contrib} (h : KeyBelow a b) : ¬KeyBelow b a := by
  unfold KeyBelow at *
  rw [keyLt_iff] at *
  omega

theorem insertKey_perm (c : ℕ × Contrib) (l : List (ℕ × Contrib)) : (insertKey c l).Perm (c :: l) := by
  induction l with
  | nil => exact .refl _
  | cons d l ih =>
    unfold insertKey
    split
    · exact .refl _
    · exact (ih.cons d).trans (.swap c d l)

theorem insertKey_pairwise {c : ℕ × Contrib} {l : List (ℕ × Contrib)} (hl : l.Pairwise KeyBelow) (hc : ∀ d ∈ l, KeyBelow c d ∨ KeyBelow d c) :
    (insertKey c l).Pairwise KeyBelow := by
  induction l with
  | nil => exact List.pairwise_singleton _ _
  | cons d l ih =>
    obtain ⟨hd, hl'⟩ := List.pairwise_cons.mp hl
    unfold insertKey
    split
    next hcd =>
      refine List.pairwise_cons.mpr ⟨fun e he => ?_, hl⟩
      rcases List.mem_cons.mp he with rfl | he
      · exact hcd
      · exact KeyBelow.trans hcd (hd e he)
    next hcd =>
      have hdc := (hc d List.mem_cons_self).resolve_left hcd
      refine List.pairwise_cons.mpr ⟨fun e he => ?_, ih hl' fun e he => hc e (List.mem_cons_of_mem _ he)⟩
      rcases List.mem_cons.mp ((insertKey_perm c l).subset he) with rfl | he
      · exact hdc
      · exact hd e he

/-- Inserting one after another sorts, where no two keys coincide. -/
theorem foldl_insertKey (l acc : List (ℕ × Contrib)) (hacc : acc.Pairwise KeyBelow)
    (hcomp : (l ++ acc).Pairwise fun a b => KeyBelow a b ∨ KeyBelow b a) :
    (l.foldl (fun l c => insertKey c l) acc).Perm (l ++ acc) ∧ (l.foldl (fun l c => insertKey c l) acc).Pairwise KeyBelow := by
  induction l generalizing acc with
  | nil => exact ⟨.refl _, hacc⟩
  | cons c l ih =>
    have hperm : (l ++ insertKey c acc).Perm (c :: l ++ acc) := ((insertKey_perm c acc).append_left l).trans List.perm_middle
    obtain ⟨hhead, -⟩ := List.pairwise_cons.mp hcomp
    have hins := insertKey_pairwise hacc fun d hd => hhead d (List.mem_append_right _ hd)
    obtain ⟨hp, hs⟩ := ih (insertKey c acc) hins ((hperm.pairwise_iff fun h => h.symm).mpr hcomp)
    exact ⟨hp.trans hperm, hs⟩

/-- The order of keys determines the list. -/
theorem foldl_insertKey_eq {l mine : List (ℕ × Contrib)} (hperm : l.Perm mine) (hl : l.Pairwise KeyBelow) :
    mine.foldl (fun l c => insertKey c l) [] = l := by
  have hcomp : (mine ++ []).Pairwise fun a b => KeyBelow a b ∨ KeyBelow b a := by
    rw [List.append_nil]
    exact (hperm.pairwise_iff fun h => h.symm).mp (hl.imp .inl)
  obtain ⟨hp, hs⟩ := foldl_insertKey mine [] .nil hcomp
  rw [List.append_nil] at hp
  exact List.Perm.eq_of_pairwise (fun a b _ _ hab hba => absurd hba hab.asymm) hs hl (hp.trans hperm.symm)

/-- A fold of ⊕ from its steps. -/
theorem foldl_combine {fmt op : ℕ} {sum : ℕ → ℕ} {R : ℕ → Num.Rnd} (l : List (ℕ × Contrib)) (k : ℕ)
    (h : ∀ i d, l[i]? = some d → (sum (k + i + 1), R (k + i + 2)) = combine fmt op (R (k + i + 1)) (sum (k + i)) d.2.val) :
    l.foldl (fun (x : ℕ × Num.Rnd) d => combine fmt op x.2 x.1 d.2.val) (sum k, R (k + 1)) = (sum (k + l.length), R (k + l.length + 1)) := by
  induction l generalizing k with
  | nil => rfl
  | cons d l ih =>
    have h0 : combine fmt op (R (k + 1)) (sum k) d.2.val = (sum (k + 1), R (k + 1 + 1)) := (h 0 d rfl).symm
    rw [List.foldl_cons, h0, List.length_cons]
    have hnext := ih (k + 1) fun i e he => by
      have := h (i + 1) e he
      rwa [show k + (i + 1) = k + 1 + i by omega] at this
    rw [show k + (l.length + 1) = k + 1 + l.length by omega]
    exact hnext

/-- The sum of a window's contributions (R66). -/
theorem sumKeys_eq {l : List (ℕ × Contrib)} {id : ℕ} {c : Contrib} {sum : ℕ → ℕ} {R : ℕ → Num.Rnd} (hhead : l[0]? = some (id, c))
    (h0 : sum 0 = c.val) (hR : R 1 = ⟨0, 0#32, 0⟩)
    (hstep : ∀ i d, 0 < i → l[i]? = some d → (sum i, R (i + 1)) = combine c.fmt c.op (R i) (sum (i - 1)) d.2.val) :
    sumKeys l = some (id, { c with val := sum (l.length - 1) }, (R l.length).fl) := by
  cases l with
  | nil => cases hhead
  | cons x l =>
    obtain rfl := Option.some.inj hhead
    have hfold := foldl_combine l 0 (sum := sum) (R := R) (fmt := c.fmt) (op := c.op) fun i d hd => by
      have := hstep (i + 1) d i.succ_pos hd
      simpa using this
    rw [h0, hR, Nat.zero_add] at hfold
    unfold sumKeys
    dsimp only
    rw [hfold]
    rfl

/-! Flags of a tree go to its plane alone (R227). -/

theorem pokeSys_contribs (s : State) (ctx va : ℕ) (v : List Byte) : (s.pokeSys ctx va v).contribs = s.contribs := by
  have written : ∀ {s t : State}, Written s t → t.contribs = s.contribs := by
    rintro s t ⟨⟨_, _, _, _, _, _, _, _, _, _, _, _, _, rfl⟩, -⟩
    rfl
  unfold State.pokeSys
  split
  · rfl
  split
  · dsimp only
    split
    next e => exact written ((Written.setBytes ..).trans (State.physWrite_spec e).1)
    next => rfl
  · rfl

theorem planeFlag_contribs (s : State) (pk fl : ℕ) : (s.planeFlag pk fl).contribs = s.contribs := by
  unfold State.planeFlag State.onFlags
  split
  · rfl
  split
  · rfl
  split
  · rfl
  dsimp only
  split
  · rfl
  · rw [pokeSys_contribs]

theorem planeAny_of_find {s : State} {pk : ℕ} {p : Plane} (h : s.planes.find pk = some p) : s.planeAny pk = some p := by
  unfold State.planeAny
  rw [h]

/-- A resident plane keeps its tree when flags come to it. -/
theorem planeAny_planeFlag {s : State} {pk : ℕ} {p : Plane} (h : s.planes.find pk = some p) (fl : ℕ) :
    ∃ m, (s.planeFlag pk fl).planeAny pk = some { p with flags := m } := by
  have hplane : s.plane pk = p := by
    unfold State.plane Map.get
    rw [h]
    rfl
  unfold State.planeFlag State.onFlags
  split
  · exact ⟨p.flags, planeAny_of_find h⟩
  · rw [if_pos (by unfold Map.has; rw [h]; rfl), hplane]
    exact ⟨_, planeAny_of_find ((find_setPlane _ _ _ _).trans (if_pos rfl))⟩

/-! The closing of a window (R226). -/

/-- A contribution waits in a window. -/
def inWindow (x : Window) (c : ℕ × Contrib) : Bool := c.2.ord && c.2.accepted && !c.2.ready && c.2.window = x

theorem inWindow_iff (x : Window) (c : ℕ × Contrib) :
    inWindow x c = true ↔ c.2.ord = true ∧ c.2.accepted = true ∧ c.2.ready = false ∧ c.2.window = x := by
  simp [inWindow, and_assoc]

/-- The machine without a window and its contributions. -/
def closed (s : State) (w : ℕ) (x : Window) : State :=
  { s with windows := s.windows.del w, contribs := s.contribs.filter fun c => !inWindow x c }

theorem filter_keys {l : List (ℕ × Contrib)} (hnodup : (l.map Prod.fst).Nodup) (f : ℕ × Contrib → Bool) :
    l.filter (fun c => !(l.filter f).any fun y => y.1 = c.1) = l.filter fun c => !f c := by
  refine List.filter_congr fun c hc => congrArg _ ?_
  rw [Bool.eq_iff_iff, List.any_eq_true]
  constructor
  · rintro ⟨y, hy, hkey⟩
    obtain ⟨hyl, hf⟩ := List.mem_filter.mp hy
    rwa [← List.inj_on_of_nodup_map hnodup hyl hc (of_decide_eq_true hkey)]
  · exact fun hf => ⟨c, List.mem_filter.mpr ⟨hc, hf⟩, decide_eq_true rfl⟩

section

variable {s : State} {w : ℕ} {x : Window} (hw : s.windows.find w = some x) (hmay : s.mayClose x = true)
include hw hmay

theorem close_steps : ∃ t, exec (.eRedWindowClose w) s = .next t := by
  show ∃ t, execERedWindowClose w s = .next t
  unfold execERedWindowClose
  rw [hw]
  dsimp only
  rw [if_neg (by rw [hmay]; decide)]
  split
  · exact ⟨_, rfl⟩
  split <;> exact ⟨_, rfl⟩

variable (hnodup : (s.contribs.map Prod.fst).Nodup)
include hnodup

theorem close_empty (hnone : ∀ c ∈ s.contribs, inWindow x c = false) : exec (.eRedWindowClose w) s = .next (closed s w x) := by
  have hmine : s.contribs.filter (fun c => c.2.ord && c.2.accepted && !c.2.ready && decide (c.2.window = x)) = s.contribs.filter (inWindow x) := rfl
  have hempty : s.contribs.filter (inWindow x) = [] := List.filter_eq_nil_iff.mpr fun c hc => by rw [hnone c hc]; exact Bool.false_ne_true
  show execERedWindowClose w s = _
  unfold execERedWindowClose
  rw [hw]
  dsimp only
  rw [if_neg (by rw [hmay]; decide), hmine, filter_keys hnodup, hempty]
  rfl

/-- A window's sum goes to the parent, or, from the root, to memory in its turn. -/
theorem close_sum {l : List (ℕ × Contrib)} {id fl : ℕ} {c : Contrib} (hperm : l.Perm (s.contribs.filter (inWindow x)))
    (hsorted : l.Pairwise KeyBelow) (hsum : sumKeys l = some (id, c, fl)) :
    (x.at_ = none → exec (.eRedWindowClose w) s = .next { (closed s w x).planeFlag x.plane fl with
      contribs := (closed s w x).contribs.put id { c with ready := true } }) ∧
    (∀ i p, x.at_ = some i → s.planes.find x.plane = some p → exec (.eRedWindowClose w) s =
      .next (((closed s w x).planeFlag x.plane fl).placeContrib id { c with at_ := p.treeParent (p.binds.get x.bind 0#128).toNat i })) := by
  have hmine : s.contribs.filter (fun c => c.2.ord && c.2.accepted && !c.2.ready && decide (c.2.window = x)) = s.contribs.filter (inWindow x) := rfl
  have hfold := foldl_insertKey_eq hperm hsorted
  have he : exec (.eRedWindowClose w) s = execERedWindowClose w s := rfl
  rw [he]
  unfold execERedWindowClose
  rw [hw]
  dsimp only
  rw [if_neg (by rw [hmay]; decide), hmine, filter_keys hnodup, hfold, hsum]
  refine ⟨fun hat => ?_, fun i p hat hp => ?_⟩
  · rw [hat]
    dsimp only
    unfold State.treeFlag
    rw [planeFlag_contribs]
    rfl
  · obtain ⟨m, hm⟩ := planeAny_planeFlag (s := closed s w x) hp fl
    rw [hat]
    dsimp only
    unfold State.treeFlag
    rw [show ({ s with windows := s.windows.del w, contribs := s.contribs.filter fun c => !inWindow x c } : State) = closed s w x from rfl, hm]
    rfl

end

end Sys2Proof.Claim

namespace Sys2Proof.Claim

open Sys2Proof Sys2Proof.Machine

/-! The sole writer's accesses leave the planes alone (R101, R303). -/

section

variable {i : Issuer} (hframe : i.frame = none) (hunit : i.unit = none)
include hframe hunit

theorem setAgent_outside (s : State) (f : Horizon → Horizon) (g : ℕ → ℕ) : s.setAgent i f g = s := by
  unfold State.setAgent
  rw [hframe, hunit]
  cases i.eng <;> rfl

theorem ordered_planes (s : State) (pa n : ℕ) (watch : Bool) (k : Acc) (wrote : Bool) : (s.ordered i pa n watch k wrote).planes = s.planes := by
  unfold State.ordered State.acquireTop State.releaseGen
  simp only [setAgent_outside hframe hunit, ite_self]
  split <;> (repeat' split) <;> rfl

/-- An access that succeeds. -/
theorem access_planes {s t : State} {tlb va n v : ℕ} {k : Acc} {upd : ℕ → Option ℕ} (h : s.access tlb i va n k upd = (t, .ok v)) :
    t.planes = s.planes := by
  have perform : ∀ {u : State} {slot pa old : ℕ} {watch : Bool}, u.planes = s.planes → (match upd old with
      | none => (u.ordered i pa n watch k false, (.ok old : Except Err ℕ))
      | some v => match u.physWrite slot pa (leBytes n v) with
        | (s, .error c) => (s, .error ⟨c, 0, 0⟩)
        | (s, .ok _) => (s.ordered i pa n watch k true, .ok old)) = (t, .ok v) → t.planes = s.planes := by
    intro u slot pa old watch hu hperf
    split at hperf
    · rw [← (Prod.mk.inj hperf).1, ordered_planes hframe hunit, hu]
    · split at hperf
      · cases (Prod.mk.inj hperf).2
      next e => rw [← (Prod.mk.inj hperf).1, ordered_planes hframe hunit, planes_of_written (State.physWrite_spec e).1, hu]
  unfold State.access at h
  split at h
  · cases (Prod.mk.inj h).2
  next e =>
    have htr := planes_of_fst_eq e (translate_planes ..)
    split at h
    · cases (Prod.mk.inj h).2
    dsimp only at h
    split at h
    · exact perform htr h
    split at h
    · cases (Prod.mk.inj h).2
    next e' => exact perform (planes_of_fst_eq e' ((physRead_planes ..).trans htr)) h

theorem portAccess_planes {s t : State} {tlb a n v : ℕ} {sp : Bool} {k : Acc} {upd : ℕ → Option ℕ}
    (h : s.portAccess tlb i sp a n k upd = (t, .ok v)) : t.planes = s.planes := by
  unfold State.portAccess at h
  split at h
  · exact access_planes hframe hunit h
  dsimp only at h
  split at h
  · rw [← (Prod.mk.inj h).1, ordered_planes hframe hunit]
  split at h
  next e => rw [← (Prod.mk.inj h).1, ordered_planes hframe hunit, planes_of_written (State.physWrite_spec e).1]
  · cases (Prod.mk.inj h).2

end

/-- Where a contribution's sole writer stands (R101, R302). -/
theorem soleWriter_eq {s : State} {x : Contrib} {p : Plane} (hp : s.planes.find x.plane = some p) :
    let b := (p.binds.get x.bind 0#128).toNat
    s.soleWriter x = (1000 + portNumber (pkDie x.plane) (pkOx x.plane + b / 2 ^ 8 % 256) (pkOy x.plane + b / 2 ^ 16 % 256) (b / 2 ^ 24 % 256 % 2),
      { x.iss with frame := none, unit := none }) := by
  unfold State.soleWriter
  rw [planeAny_of_find hp]
  rfl

/-- No contribution of the address stands before a plain one (R227). -/
theorem not_earlier {s : State} {c : ℕ} {x : Contrib} (h : ∀ k d, (k, d) ∈ s.contribs → k ≠ c → d.plane = x.plane → d.bind = x.bind →
    d.ready = true → d.ord = false → d.place = x.place → x.arr ≤ d.arr) :
    (s.contribs.any fun y => y.1 ≠ c && y.2.plane = x.plane && y.2.bind = x.bind && y.2.ready && !y.2.ord && y.2.place = x.place && y.2.arr < x.arr) = false := by
  rw [List.any_eq_false]
  intro y hy
  simp only [Bool.and_eq_true, decide_eq_true_eq, Bool.not_eq_true', not_and, not_lt, and_imp]
  exact h y.1 y.2 hy

/-- The sole writer's ⊕ into memory (R66, R101, R227). -/
theorem apply_spec {s s1 s2 : State} {c old v : ℕ} {R : Num.Rnd} {x : Contrib} {p : Plane} (hx : s.contribs.find c = some x) (hready : x.ready = true)
    (hp : s.planes.find x.plane = some p) (hord : x.ord = true → s.lowerBlock c x = false)
    (hplain : x.ord = false → ∀ k d, (k, d) ∈ s.contribs → k ≠ c → d.plane = x.plane → d.bind = x.bind → d.ready = true → d.ord = false →
      d.place = x.place → x.arr ≤ d.arr) :
    let b := (p.binds.get x.bind 0#128).toNat
    let tlb := 1000 + portNumber (pkDie x.plane) (pkOx x.plane + b / 2 ^ 8 % 256) (pkOy x.plane + b / 2 ^ 16 % 256) (b / 2 ^ 24 % 256 % 2)
    let i : Issuer := { x.iss with frame := none, unit := none }; let n := NodeCheck.width x.fmt / 8
    ({ s with contribs := s.contribs.del c }).portAccess tlb i x.sp x.va n {} (fun _ => none) = (s1, .ok old) →
    (v, R) = combine x.fmt x.op ⟨0, 0#32, 0⟩ old x.val →
    (∃ o, s1.portAccess tlb i x.sp x.va n { wr := true, rel := p.iterOver, scope := x.scope } (fun _ => some v) = (s2, .ok o)) →
    exec (.eReductionApply c) s = .next (s2.planeFlag x.plane R.fl) := by
  intro b tlb i n hread hsum ⟨o, hwrite⟩
  have hany : s1.planeAny x.plane = some p := planeAny_of_find (by rw [portAccess_planes rfl rfl hread]; exact hp)
  have hturn : ¬((!x.ready) = true ∨ (if x.ord = true then s.lowerBlock c x else s.contribs.any fun y => y.1 ≠ c && y.2.plane = x.plane &&
      y.2.bind = x.bind && y.2.ready && !y.2.ord && y.2.place = x.place && y.2.arr < x.arr) = true) := by
    rw [hready]
    rcases Bool.eq_false_or_eq_true x.ord with h | h
    · rw [if_pos h, hord h]; decide
    · rw [if_neg (by rw [h]; decide), not_earlier (hplain h)]; decide
  show execEReductionApply c s = _
  unfold execEReductionApply
  rw [hx]
  dsimp only
  rw [soleWriter_eq hp, if_neg hturn]
  dsimp only
  rw [hread]
  dsimp only
  rw [hany, ← hsum]
  dsimp only
  rw [hwrite]
  rfl

/-! One ⊕ (R203, R225). -/

theorem combine_float {n : NodeBody} (h8 : 8 ≤ n.fmt.toNat) (R : Num.Rnd) (x y : ℕ) : let z := combine n.fmt.toNat (n.operand.toNat % 4) R x y
    Combines n x y R z.1 z.2 := by
  unfold Combines combine
  dsimp only
  rw [if_neg (not_lt.mpr h8), if_neg (not_lt.mpr h8)]
  refine ⟨fun h => ?_, fun h => ?_⟩
  · rw [h]
    exact ⟨_, _, sumOf_add R.mode (proper_decode _ x) (proper_decode _ y), rfl⟩
  · obtain h | h := h
    · rw [h]; exact ⟨_, pickOf_fminmax _ false _ _, rfl⟩
    · rw [h]; exact ⟨_, pickOf_fminmax _ true _ _, rfl⟩

theorem combine_clause (fmt op x y : Nat) (hop : op < 3) :
    (fmt < 8 → let b := NodeCheck.width fmt; let n : NodeBody := ⟨BitVec.ofNat 4 fmt, 0#4, 0#4, 0#4, 0#8, BitVec.ofNat 32 op, 0#32, 0#32⟩
      x < 2 ^ b → y < 2 ^ b → ∀ R, (∃ z, Combines n x y R z R ∧ combine fmt op R x y = (z, R))) ∧
    (8 ≤ fmt → fmt ≤ 11 → ∀ R z R', combine fmt op R x y = (z, R') →
      Combines ⟨BitVec.ofNat 4 fmt, 0#4, 0#4, 0#4, 0#8, BitVec.ofNat 32 op, 0#32, 0#32⟩ x y R z R') := by
  have hop' : (BitVec.ofNat 32 op).toNat % 4 = op := by rw [BitVec.toNat_ofNat]; omega
  have hfmt : fmt < 16 → (BitVec.ofNat 4 fmt).toNat = fmt := fun h => by rw [BitVec.toNat_ofNat]; omega
  refine ⟨fun h8 => ?_, fun h8 h11 R z R' hz => ?_⟩
  · intro b n hx hy R
    have hn : n.fmt.toNat = fmt := hfmt (by omega)
    have hcomb := combine_combines n R (x := x) (y := y) (by rwa [hn]) (by rwa [hn])
    rw [hn, show n.operand.toNat % 4 = op from hop'] at hcomb
    have hR : (combine fmt op R x y).2 = R := by unfold combine; rw [if_pos h8]
    dsimp only at hcomb
    rw [hR] at hcomb
    exact ⟨_, hcomb, Prod.ext rfl hR⟩
  · have hcomb := combine_float (n := ⟨BitVec.ofNat 4 fmt, 0#4, 0#4, 0#4, 0#8, BitVec.ofNat 32 op, 0#32, 0#32⟩)
      (by rw [hfmt (by omega)]; exact h8) R x y
    dsimp only at hcomb
    rwa [hfmt (by omega), hop', hz] at hcomb

/-- The contributions of a window, by the statement's words. -/
theorem decide_inWindow (x : Window) (c : ℕ × Contrib) :
    decide (c.2.ord = true ∧ c.2.accepted = true ∧ c.2.ready = false ∧ c.2.window = x) = inWindow x c := by
  rw [Bool.eq_iff_iff, decide_eq_true_iff, inWindow_iff]

theorem closed_eq (s : State) (w : ℕ) (x : Window) : ({ s with
      windows := s.windows.del w
      contribs := s.contribs.filter (fun c => !decide (c.2.ord = true ∧ c.2.accepted = true ∧ c.2.ready = false ∧ c.2.window = x)) } : State) =
    closed s w x := by
  unfold closed
  simp only [decide_inWindow]

/-- A window that closes with contributions. -/
theorem window_clause {s : State} {w id fl : ℕ} {x : Window} {c : Contrib} {l : List (ℕ × Contrib)} {sum : ℕ → ℕ}
    (hw : s.windows.find w = some x) (hmay : s.mayClose x = true) (hnodup : (s.contribs.map Prod.fst).Nodup)
    (hperm : l.Perm (s.contribs.filter (inWindow x))) (hsorted : l.Pairwise KeyBelow) (hhead : l[0]? = some (id, c)) (h0 : sum 0 = c.val)
    (hR : ∃ R : Nat → Num.Rnd, R 1 = ⟨0, 0#32, 0⟩ ∧ (R l.length).fl = fl ∧ ∀ i d, 0 < i → l[i]? = some d →
      (sum i, R (i + 1)) = combine c.fmt c.op (R i) (sum (i - 1)) d.2.val) :
    ∃ t, exec (.eRedWindowClose w) s = .next t ∧
      (x.at_ = none → t = { (closed s w x).planeFlag x.plane fl with
        contribs := (closed s w x).contribs.put id { c with val := sum (l.length - 1), ready := true } }) ∧
      (∀ i, x.at_ = some i → ∀ p, s.planes.find x.plane = some p → PlacedAs ((closed s w x).planeFlag x.plane fl) t id
        { c with val := sum (l.length - 1), at_ := p.treeParent (p.binds.get x.bind 0#128).toNat i }) := by
  obtain ⟨R, hR1, hfl, hstep⟩ := hR
  have hsum := sumKeys_eq hhead h0 hR1 hstep
  rw [hfl] at hsum
  obtain ⟨hroot, hparent⟩ := close_sum hw hmay hnodup hperm hsorted hsum
  cases hat : x.at_ with
  | none => exact ⟨_, hroot hat, fun _ => rfl, fun i h => (nomatch h)⟩
  | some i =>
    cases hp : s.planes.find x.plane with
    | none =>
      obtain ⟨t, ht⟩ := close_steps hw hmay
      exact ⟨t, ht, fun h => (nomatch h), fun _ _ p hp' => (nomatch hp')⟩
    | some p =>
      refine ⟨_, hparent i p hat hp, fun h => (nomatch h), fun j hj p' hp' => ?_⟩
      obtain rfl := Option.some.inj hj
      obtain rfl := Option.some.inj hp'
      exact placedAs_placeContrib _ _ _

end Sys2Proof.Claim

namespace Sys2Proof

open Machine Claim

/-- Settles O47: time-outs and root checks end in a request's fault or its finish; a window's contributions sort into the one order of
their keys; and the sole writer's accesses leave the planes, hence its tree, as they were. -/
theorem timeoutsWalksAndReductions : Obligations.TimeoutsWalksAndReductions := by
  unfold Obligations.TimeoutsWalksAndReductions
  refine ⟨fun s r q hq hplane => ⟨fun x y l m hx hat hl hy hm => timeout_response hq hplane hx hat hl hy hm,
      fun j hnone hopc hstage hj hfar hat => timeout_lock hq hplane hnone hopc hstage hj hfar hat⟩,
    fun s r x pk e n f g fr hr hx hheld hfar hdue hiss hfr hgen => timeout_send hr hx hheld hfar hdue hiss hfr hgen,
    keptResponse_spec, fun s s1 tlb ctx va wr fe priv tr h => pageWalk_spec h,
    fun s s1 c x q hx hq hmay hacc => ⟨fun hroot => accept_passed hx hq hmay hacc hroot, fun e hroot => accept_faulted hx hq hmay hacc hroot,
      rootCheck_spec s q x⟩,
    fun s w x hw hmay => ⟨fun hnodup hnone => ?_, fun l id c sum fl hnodup hperm hsorted hhead h0 hR => ?_⟩,
    fun s s1 s2 c old v R x p hx hready hp hord hplain => apply_spec hx hready hp hord hplain,
    fun fmt op x y hop => combine_clause fmt op x y hop⟩
  · rw [closed_eq]
    exact close_empty hw hmay hnodup fun c hc => Bool.eq_false_iff.mpr fun h => hnone c hc ((inWindow_iff x c).mp h)
  · simp only [decide_inWindow] at hperm
    rw [closed_eq]
    exact window_clause hw hmay hnodup hperm hsorted hhead h0 hR

end Sys2Proof

namespace Sys2Proof

open Machine Claim

/-! REFUTATION of O48. A lane that is masked off counts as zero in a row of a matrix (R252), and an f64 element lies in two lanes. The
model clears each lane by its own mask bit (R15); `RowData` keeps or clears a whole element by the mask bit of its lower lane. An element
whose lower lane alone is live has therefore two values. -/

/-- The code of 1 in f64: all its set bits lie in its upper lane. -/
def oneF64 : Nat := 0x3FF0000000000000

/-- Element 0 is the f64 code of 1, and its lower lane alone is live. -/
def halfLive : Operand := ⟨BitVec.ofNat 512 oneF64, 1#16, 0#4⟩

/-- A row of f64 elements, due since fc 66, to be added to accumulator row 0. -/
def halfLiveRow : Row :=
  { plane := 0, bind := 0, frame := 0, gen := 0, itix := 0, ctxKey := 0, csc := false,
    segs := (List.range 4).map (fun i => (i, 0, ⟨0#4, 0#4, 0#4, 0#4, 0#8, 0x400#32, 0#32, 0#32⟩, halfLive)),
    total := 4, iss := ⟨0, 0, false, 0, none, none, none, 0⟩, num := some 1, at_ := 0, ord := 0, stage := .queued }

/-- An f64 tile whose element 0 of column 0 is 1, and whose other elements are zero. -/
def unitTile : Tile := ⟨11, [oneF64], []⟩

/-- The row is queued for array 0, which has cleared accumulators and the tile. -/
def halfLiveQueued : State :=
  { State.reset with fc := 66, planes := [(0, Plane.reset)], rows := [(0, halfLiveRow)], arrays := [(0, ⟨some unitTile, none, [], []⟩)] }

/-- Column 0 of accumulator row 0 of array 0, in f64. -/
def column0 (s : State) : Nat := (s.arrays.get 0 ⟨none, none, [], []⟩).accAt 11 0 0

/-- The same after an outcome that goes on. -/
def column0After : Out → Option Nat
  | .next t => some (column0 t)
  | _ => none

/-- The model multiplies a zero. -/
theorem halfLiveQueued_adds_zero : column0After (exec (.eMatrixRowComplete 0) halfLiveQueued) = some 0 := by decide +kernel


theorem halfLiveQueued_inOrder : InOrder halfLiveQueued (arrayOf halfLiveRow.ctxKey) halfLiveRow.ord := by
  unfold InOrder
  decide +kernel

theorem halfLiveRow_whole : WholeRow halfLiveRow (tileT unitTile.fmt) 0x400 := by
  unfold WholeRow
  decide +kernel

/-! By the statement's reading the row's first element is 1. -/

/-- Element 0 of each segment is 1, and its other elements are zero. -/
def readHalfLive (k : Nat) : Nat := if k % 8 = 0 then oneF64 else 0

theorem rowData_halfLive {row : Nat → Nat} (h : RowData halfLiveRow 64 row) {k : Nat} (hk : k < 32) : row k = readHalfLive k := by
  have hfind : ∀ i : Fin 4, halfLiveRow.segs.find? (fun y => y.1 = i.val)
      = some (i.val, 0, ⟨0#4, 0#4, 0#4, 0#4, 0#8, 0x400#32, 0#32, 0#32⟩, halfLive) := by decide +kernel
  have hread : ∀ j : Fin 8, (if halfLive.mask.getLsbD (64 * j.val / 32) then elem halfLive.val 64 j.val else 0) = readHalfLive j.val := by
    decide +kernel
  have hrow := h (k / 8) _ _ _ (k % 8) (hfind ⟨k / 8, by omega⟩) (Nat.mod_lt _ (by norm_num))
  rw [show k / 8 * (512 / 64) + k % 8 = k by omega] at hrow
  rw [hrow, hread ⟨k % 8, Nat.mod_lt _ (by norm_num)⟩]
  unfold readHalfLive
  rw [Nat.mod_mod]

/-! The statement's sum. -/


theorem decode_f64_zero : Num.decode (Num.fmtOf 11) 0 = .fin false 0 (2 ^ 1074) := by decide +kernel

theorem decode_f64_one : Num.decode (Num.fmtOf 11) oneF64 = .fin false (2 ^ 52) (2 ^ 52) := by decide +kernel

theorem qOf_f64_zero : qOf (Num.fmtOf 11) 0 = 0 := by rw [qOf, decode_f64_zero, q_fin, Nat.cast_zero, zero_div, mul_zero]

theorem qOf_f64_one : qOf (Num.fmtOf 11) oneF64 = 1 := by
  rw [qOf, decode_f64_one, q_fin, div_self (by positivity), mul_one]
  rfl

theorem finite_f64_one : Finite (Num.fmtOf 11) oneF64 := ⟨by decide, _, _, _, decode_f64_one⟩

/-- A code of the row or of the tile, as the value of an f64 element. -/
theorem cellValue_f64 {x : Nat} (hx : x = 0 ∨ x = oneF64) (scale : Nat) : CellValue 11 x scale (qOf (Num.fmtOf 11) x) := by
  have hfin : ∃ neg n d, Num.decode (Num.fmtOf 11) x = .fin neg n d := by
    rcases hx with rfl | rfl
    · exact ⟨_, _, _, decode_f64_zero⟩
    · exact ⟨_, _, _, decode_f64_one⟩
  have hmod : x % 2 ^ NodeCheck.width 11 = x := by rcases hx with rfl | rfl <;> decide
  obtain ⟨neg, n, d, hdec⟩ := hfin
  refine ⟨_, 0, neg, n, d, ⟨fun h => absurd h (by decide), fun _ => ?_⟩, hdec, fun _ => rfl, fun h => absurd h (by decide)⟩
  exact ⟨fun h => absurd h (by decide), fun _ _ => ⟨by rw [hmod], rfl⟩, fun h => absurd h (by decide)⟩

/-- 1 is a value of f64, so that it is rounded to itself. -/
theorem round_f64_one {v : Num.Val} {neg : Bool} {n d x : Nat} {R R' : Num.Rnd} (hv : v = .fin neg n d) (hd : 0 < d) (hq : q v = 1)
    (hmode : R.mode = 0) (h : Rounds (Num.fmtOf 11) R 0 v x R') : Finite (Num.fmtOf 11) x ∧ qOf (Num.fmtOf 11) x = 1 := by
  have ieee : Ieee (Num.fmtOf 11) := ieee_fmtOf (by decide) (by decide)
  have hle : oneF64 ≤ Num.maxFinite (Num.fmtOf 11) := by decide
  have hn : 0 < n := by
    refine Nat.pos_of_ne_zero fun h0 => ?_
    rw [hv, h0, q_fin, Nat.cast_zero, zero_div, mul_zero] at hq
    exact absurd hq (by norm_num)
  have hmax : |q v| ≤ qOf (Num.fmtOf 11) (Num.maxFinite (Num.fmtOf 11)) := by
    obtain ⟨-, hlast, -⟩ := ieee.withSign_spec false le_rfl
    obtain ⟨-, hone, -⟩ := ieee.withSign_spec false hle
    rw [show Num.withSign (Num.fmtOf 11) false oneF64 = oneF64 by decide, qOf_f64_one] at hone
    rw [hq, abs_one, hone, show Num.maxFinite (Num.fmtOf 11) = Num.withSign (Num.fmtOf 11) false (Num.maxFinite (Num.fmtOf 11)) by decide, hlast]
    simpa [signOf] using (mag_strictMono (Num.fmtOf 11)).monotone hle
  have hround := roundingIsCorrect 11 0 (R.raise 0) neg n d (by decide) (by decide) (hmode.trans_le (by decide)) hn hd (by decide)
  have hx : Num.round (Num.fmtOf 11) 0 (R.raise 0) (.fin neg n d) = (x, R') := by rw [← hv]; exact h.symm
  dsimp only at hround
  rw [hx, ← hv] at hround
  obtain ⟨⟨hfin, hnearest, -⟩, -⟩ := hround.1 hmax
  have herr := (hnearest hmode oneF64 finite_f64_one).1
  rw [hq, qOf_f64_one, sub_self, abs_zero] at herr
  exact ⟨hfin, sub_eq_zero.mp (abs_eq_zero.mp (le_antisymm herr (abs_nonneg _)))⟩

theorem readHalfLive_cases (k : Nat) : readHalfLive k = 0 ∨ readHalfLive k = oneF64 := by
  unfold readHalfLive
  split
  · exact .inr rfl
  · exact .inl rfl

theorem unitTile_cases (k : Nat) : unitTile.elems.getD k 0 = 0 ∨ unitTile.elems.getD k 0 = oneF64 := by
  cases k with
  | zero => exact .inr rfl
  | succ k => exact .inl rfl

/-- The sum that the statement asks of column 0: the first group makes it 1, and the others leave it. -/
theorem floatColumn_halfLive {row scale : Nat → Nat} {x : Nat} (hrow : ∀ k < 32, row k = readHalfLive k)
    (h : FloatColumn unitTile 11 1 row scale 0 0 x) : Finite (Num.fmtOf 11) x ∧ qOf (Num.fmtOf 11) x = 1 := by
  obtain ⟨acc, h0, rfl, hstep⟩ := h
  have hstep : ∀ r < 32, (∃ neg n d, Num.decode (Num.fmtOf 11) (acc r) = .fin neg n d) →
      qOf (Num.fmtOf 11) (acc r) + qOf (Num.fmtOf 11) (readHalfLive r) * qOf (Num.fmtOf 11) (unitTile.elems.getD r 0) = 1 →
      Finite (Num.fmtOf 11) (acc (r + 1)) ∧ qOf (Num.fmtOf 11) (acc (r + 1)) = 1 := by
    intro r hr hfin hsum
    have hcells : ∀ j < 1, CellValue 11 (row (1 * r + j)) (scale r) (qOf (Num.fmtOf 11) (readHalfLive r)) ∧
        CellValue 11 (unitTile.elems.getD (1 * r + j + 32 * 1 * 0) 0) (unitTile.scales.getD (32 * 0 + r) 127)
          (qOf (Num.fmtOf 11) (unitTile.elems.getD r 0)) := by
      intro j hj
      obtain rfl : j = 0 := by omega
      rw [show 1 * r + 0 = r by omega, hrow r hr]
      exact ⟨cellValue_f64 (readHalfLive_cases r) _, cellValue_f64 (unitTile_cases r) _⟩
    obtain ⟨v, neg, n, d, R, R', hv, hd, hq, hmode, hround⟩ := hstep r hr (fun _ => _) (fun _ => _) hcells hfin
    rw [Finset.sum_range_one] at hq
    exact round_f64_one hv hd (hq.trans hsum) hmode hround
  have all : ∀ r < 32, Finite (Num.fmtOf 11) (acc (r + 1)) ∧ qOf (Num.fmtOf 11) (acc (r + 1)) = 1 := by
    intro r
    induction r with
    | zero =>
      intro hr
      refine hstep 0 hr ⟨_, _, _, h0 ▸ decode_f64_zero⟩ ?_
      rw [h0, qOf_f64_zero, show readHalfLive 0 = oneF64 from rfl, show unitTile.elems.getD 0 0 = oneF64 from rfl, qOf_f64_one]
      norm_num
    | succ r ih =>
      intro hr
      obtain ⟨⟨-, hfin⟩, hq⟩ := ih (by omega)
      refine hstep (r + 1) hr hfin ?_
      rw [hq, show unitTile.elems.getD (r + 1) 0 = 0 from rfl, qOf_f64_zero, mul_zero, add_zero]
  exact all 31 (by norm_num)

/-- No request is over where there is none. -/
theorem wakeReqs_of_no_reqs {s : State} (h : s.reqs = []) : s.wakeReqs = s := by
  unfold State.wakeReqs
  rw [h]
  rfl

theorem eq_nil_of_find_none {α : Type} {m : Map α} (h : ∀ i, m.find i = none) : m = [] := by
  cases m with
  | nil => rfl
  | cons x m =>
    have hx := h x.1
    unfold Map.find at hx
    rw [if_pos rfl] at hx
    cases hx

/-- Refutes O48: a row of f64 elements whose first element, the code of 1, has its lower lane alone live. The statement's reading adds 1
times 1 to column 0; the model clears the upper lane, and column 0 stays zero. -/
theorem not_enginesAndArraysComplete : ¬ Obligations.EnginesAndArraysComplete := by
  unfold Obligations.EnginesAndArraysComplete
  rintro ⟨-, -, -, -, -, -, completes⟩
  obtain ⟨z, u, t, row, scale, col, fl, hz, ht, hrow, -, -, -, -, haccumulates⟩ := completes halfLiveQueued 0 1 0x400 halfLiveRow unitTile
    Plane.reset rfl rfl rfl (by decide) halfLiveQueued_inOrder rfl (by decide) halfLiveRow_whole (by decide) (by decide) rfl
  obtain ⟨hu, B, l, harrays, -, -, hcolumns, hacc, -, -, ht', -⟩ := haccumulates (by decide)
  obtain ⟨_, -, -, -, -, -, -, hreqs, -⟩ := hz
  have hnone : t.reqs = [] := by
    rw [ht', hu]
    exact eq_nil_of_find_none hreqs
  obtain ⟨⟨hlt, -⟩, hone⟩ := floatColumn_halfLive (fun k hk => rowData_halfLive hrow hk) ((hcolumns 0 (by norm_num)).1 (by decide) 1 rfl)
  have hcolumn : column0 t = col 0 := by
    calc column0 t = B.accAt 11 0 0 := by unfold column0; rw [ht']; dsimp only; rw [harrays]; rfl
      _ = col 0 % 2 ^ 64 := hacc 0 (by norm_num)
      _ = col 0 := Nat.mod_eq_of_lt hlt
  have hzero := halfLiveQueued_adds_zero
  rw [ht, wakeReqs_of_no_reqs hnone] at hzero
  rw [← hcolumn, Option.some.inj hzero, qOf_f64_zero] at hone
  exact absurd hone (by norm_num)

end Sys2Proof
